-- ==== Sys2Proof/Word.lean ====
section
/-! DEFINITION. Data sizes of the GL4 (spec R14, R15): the word types every other file uses. -/

namespace Sys2Proof

/-- Eight bits (R15). -/
abbrev Byte := BitVec 8
/-- Thirty-two bits: a slot, a vector lane, an FP32 code (R15). -/
abbrev W32 := BitVec 32
/-- A dword: 64 bits (R15). -/
abbrev W64 := BitVec 64
/-- 256 bytes: a v register or a hold latch, lane l at bits 32l to 32l + 31 (R82, R69). -/
abbrev Wide := BitVec 2048

end Sys2Proof
end

