-- ==== Sys2Proof/Syntax.lean ====
section
/-! DEFINITION. The instructions of the GL4: one constructor for every row of the opcode table (slots R92,
microprogram steps R219, machine steps and events of the file of steps). Fields hold the raw encoding bits. -/

namespace Sys2Proof

/-- R form with D, A and B (R57). -/
structure R3 where
  d : BitVec 5
  a : BitVec 5
  b : BitVec 5
  ha : Bool
  hb : Bool
deriving DecidableEq, Repr, Inhabited

/-- R form with D and A only. -/
structure R2 where
  d : BitVec 5
  a : BitVec 5
  ha : Bool
deriving DecidableEq, Repr, Inhabited

/-- R form with A and B only. -/
structure AB where
  a : BitVec 5
  b : BitVec 5
  ha : Bool
  hb : Bool
deriving DecidableEq, Repr, Inhabited

/-- R form with A only. -/
structure A1 where
  a : BitVec 5
  ha : Bool
deriving DecidableEq, Repr, Inhabited

/-- I form (R57). -/
structure RI where
  d : BitVec 5
  a : BitVec 5
  imm : BitVec 11
deriving DecidableEq, Repr, Inhabited

/-- M form without its SIZE field (R57). -/
structure MO where
  d : BitVec 5
  base : BitVec 5
  ofs : BitVec 8
  ha : Bool
deriving DecidableEq, Repr, Inhabited

/-- The engines of a core (R151, R159). -/
inductive Engine where
  | copy | matrix | gather | coll
deriving DecidableEq, Repr, Inhabited

/-- The pending increment that a step FLAG makes: the flag unit and the place in its list (R186). -/
structure FlagAt where
  unit : Nat
  i : Nat
deriving DecidableEq, Repr, Inhabited

/-- What a port brings to a collective: its bytes, and the dwords that travel as poison (R304, R322). -/
structure PortData where
  bytes : List Byte
  psn : List Nat
deriving DecidableEq, Repr, Inhabited

/-- One contribution to an agreement instance as the fabric carries it (R284, R288). -/
structure Contribution where
  vf : Nat
  gid : Nat
  seq : Nat
  member : Nat
  tag : BitVec 16
  value : W32
  stamp : Nat
  /-- the contributing context, when it is one of this package -/
  ctx : Option Nat
deriving DecidableEq, Repr, Inhabited

/-- A firmware image as the ROM reads it (R339): the 64 bytes of its header, its body, its ML-DSA-87 signature, and the public key that comes with it,
of which the hub holds the hash. -/
structure Image where
  header : List Byte
  body : List Byte
  signature : List Byte
  publicKey : List Byte
deriving DecidableEq, Repr, Inhabited

/-- State that the contexts of a partition share (R331): a sequencer, an L2 tag or state array of a die, the owner map of a core, a
memory-side MMU of a die. -/
inductive SharedUnit where
  | sequencer (cl : Nat)
  | l2 (die : Nat)
  | ownerMap (core : Nat)
  | mmu (die : Nat)
deriving DecidableEq, Repr, Inhabited

/-- Where an ECC error is found (R320, R331, R373). -/
inductive EccSite where
  /-- SRAM of a core that holds nothing the State names -/
  | core (core : Nat)
  /-- a register of a context: its number, the file code of R316, the index and the lane -/
  | register (ctx file idx lane : Nat)
  /-- counter i of die d (R373), d = 4 for the hub -/
  | counter (die i : Nat)
  /-- an aligned dword of memory or scratchpad, by its location -/
  | dword (loc : Nat)
  /-- lane `lane` of hold latch `i` of a context, numbered as the save area orders them (R368) -/
  | latch (ctx i lane : Nat)
  /-- row `row` of accumulator bank `bank` of a core -/
  | bank (core bank row : Nat)
  /-- the weights or scales of a core's array -/
  | weights (core : Nat)
  /-- a word of a core's microprogram store -/
  | store (core word : Nat)
  /-- state that the contexts of a partition share -/
  | shared (partition : Nat) (unit : SharedUnit)
deriving DecidableEq, Repr, Inhabited

/-- Every row of the opcode table. -/
inductive Instr where
  -- slots: no class and scalar X
  | nop
  | add (o : R3)
  | sub (o : R3)
  | addr (o : R3) (v : BitVec 4)
  | and (o : R3)
  | or (o : R3)
  | xor (o : R3)
  | shl (o : R3) (w : Bool)
  | shr (o : R3) (w : Bool)
  | sra (o : R3) (w : Bool)
  | mul (o : R3)
  | mulh (o : R3) (v : BitVec 4)
  | min (o : R3) (u : Bool)
  | max (o : R3) (u : Bool)
  | cmp (o : R3) (v : BitVec 4)
  | sel (o : R3) (z : Bool)
  | clz (o : R2) (w : Bool)
  | popc (o : R2) (w : Bool)
  | movx (o : R2) (v : BitVec 4)
  | addi (o : RI)
  | andi (o : RI)
  | ori (o : RI)
  | xori (o : RI)
  | shli (d a : BitVec 5) (n : BitVec 6)
  | shri (d a : BitVec 5) (n : BitVec 6)
  | srai (d a : BitVec 5) (n : BitVec 6)
  | cmpi (o : RI)
  | li (d : BitVec 5) (imm : BitVec 16)
  | lih (d : BitVec 5) (imm : BitVec 16)
  -- scalar Y
  | div (o : R3) (v : BitVec 4)
  | fadd (o : R3) (rm : BitVec 3)
  | fsub (o : R3) (rm : BitVec 3)
  | fmul (o : R3) (rm : BitVec 3)
  | fma (o : R3) (neg : Bool) (rm : BitVec 3)
  | fdiv (o : R3) (rm : BitVec 3)
  | fsqrt (o : R2) (rm : BitVec 3)
  | frsq (o : R2) (rm : BitVec 3)
  | fcmp (o : R3) (v : BitVec 4)
  | fmin (o : R3)
  | fmax (o : R3)
  | fcvt (o : R2) (v : BitVec 4)
  | fclass (o : R2)
  | brc (cond a : BitVec 5) (ofs : BitVec 11)
  -- vector
  | vadd (o : R3) (v : BitVec 4)
  | vsub (o : R3) (v : BitVec 4)
  | vmul (o : R3) (v : BitVec 4)
  | vfma (o : R3) (v : BitVec 4)
  | vmin (o : R3) (t : BitVec 2)
  | vmax (o : R3) (t : BitVec 2)
  | vand (o : R3)
  | vor (o : R3)
  | vxor (o : R3)
  | vshl (o : R3)
  | vshr (o : R3) (t : BitVec 2)
  | vcmp (o : R3) (v : BitVec 4)
  | vsel (o : R3) (n : BitVec 3)
  | vcvt (o : R2) (v : BitVec 4)
  | vred (o : R2) (v : BitVec 4)
  | vperm (o : R3)
  | vbcast (o : R3) (lane : Bool)
  | vexp2 (o : R2)
  | vlog2 (o : R2)
  | vrcp (o : R2)
  | vrsq (o : R2)
  | vquant (o : R3) (int : Bool)
  | vdeq (o : R3) (fmt : BitVec 4)
  | qop (o : R3) (v : BitVec 4)
  -- copy and generator
  | gset (o : R3) (ofs : Bool)
  | gseed (o : RI)
  | ggen (o : R3) (t c : Bool)
  | cpy (o : A1)
  | cpys (o : A1)
  | cpyg (o : A1)
  | cpyr (o : A1)
  | cpyw (o : A1)
  -- memory
  | ld (o : MO) (size : BitVec 2)
  | st (o : MO) (size : BitVec 2)
  | ldv (o : MO)
  | stv (o : MO)
  | ldg (o : R3) (v : BitVec 4)
  | stg (o : R3) (v : BitVec 4)
  | probe (o : R3) (w : Bool)
  | lock (o : R3) (l1 : Bool)
  | unlock (o : AB)
  | pref (base : BitVec 5) (ofs : BitVec 8) (l2 ha : Bool)
  | drain
  | fenceo
  | fencer (o : AB) (v : BitVec 4)
  | atom (o : R3) (v : BitVec 4)
  | ratom (o : R3) (v : BitVec 4)
  | rld (o : MO) (size : BitVec 2)
  | rst (o : R3) (v : BitVec 4)
  | stver (o : R3)
  | owne (o : AB)
  | ownt (o : AB)
  | barm (o : AB)
  | cwait (o : AB)
  -- matrix
  | mcall (o : AB) (bank : BitVec 2)
  | mwait (o : A1) (bank : BitVec 2)
  | mver (d : BitVec 5) (bank : BitVec 2)
  | mpwr (o : AB)
  | mprd (o : R2)
  -- control
  | br (ofs : BitVec 21)
  | brl (ofs : BitVec 21)
  | jr (o : A1)
  | ret
  | jrL (o : R2)
  | loop (ls : BitVec 3) (a : BitVec 5) (ofs : BitVec 11)
  | bucket (o : R3)
  | nextt (o : AB)
  | suspend (o : A1) (v : BitVec 4)
  | tend
  | launch (o : R3)
  | raise (o : R3)
  | post (o : R2)
  | qpop (o : R2)
  | dispatch (o : R3)
  | agree (d : BitVec 5) (tag : BitVec 16)
  | abr (m a : BitVec 5) (ofs : BitVec 11)
  | abrp (p : Bool) (m : BitVec 4) (a : BitVec 5) (ofs : BitVec 11)
  | ares (o : R3) (v : BitVec 4)
  | coll (o : R3)
  | trap (code : BitVec 16)
  | rte (o : R2) (v : BitVec 4)
  | wfe (o : R3) (v : BitVec 4)
  | dbrk (code : BitVec 16)
  | srd (d : BitVec 5) (num : BitVec 12)
  | swr (d : BitVec 5) (num : BitVec 12)
  | pfxi (payload : BitVec 21)
  | pfxp (mode : BitVec 3) (reg : BitVec 5)
  -- microprogram steps (R219)
  | mend
  | wload (fmt : BitVec 4) (mx : Bool) (ma : BitVec 3) (rw : Bool) (ms : BitVec 3)
  | wgen (gn : BitVec 3) (t : Bool) (ma : BitVec 3)
  | astream (fmt : BitVec 4) (pm1 : BitVec 5) (ma : BitVec 3) (brow0 nm1 : BitVec 8) (rg : Bool)
  | agen (gn : BitVec 3) (t : Bool) (pm1 : BitVec 5) (ma : BitVec 3) (brow0 nm1 : BitVec 8) (rg : Bool)
  | asel (bank : BitVec 2)
  | aclr (brow0 nm1 : BitVec 8)
  | adrain (fmt : BitVec 4) (rm : BitVec 3) (sf : Bool) (ma : BitVec 3) (brow0 nm1 : BitVec 8) (clr : Bool) (ms : BitVec 3)
  | ragg (ma mc : BitVec 3)
  | zskip (en : Bool)
  | loopm (src : Bool) (ms : BitVec 3) (cm1 endw : BitVec 12)
  | mbr (cond ms : BitVec 3) (tgt : BitVec 12)
  | padd (md ms : BitVec 3) (src : Bool) (imm : W32)
  -- steps of the ordering machine (R183 to R189)
  | performLocal (c : Nat)
  | sendRemote (c i : Nat)
  | flag (p : FlagAt)
  | completeRemote (c i : Nat)
  | engineStart (k : Nat) (e : Engine)
  | engineAccess (k : Nat) (e : Engine)
  | engineComplete (k : Nat) (e : Engine)
  | retryAfterExpiry (k : Nat) (e : Engine)
  -- results
  | fixedResultLand (c : Nat)
  | variableResultLand (c seq : Nat)
  | nexttReply (c i : Nat)
  -- selector and sequencer
  | contextSwitch (k : Nat)
  | admission (cl e i : Nat)
  | pickUp (c : Nat)
  | pickUpLoadComplete (c : Nat)
  | waitConditionMet (cl i : Nat)
  | priorityPreemption (cl : Nat)
  | teamQuantumExpiry (c : Nat)
  | teamPromotion (cl i : Nat)
  | eviction (c : Nat)
  | launchRequestArrival (cl : Nat)
  -- stops
  | stopFreeze (c : Nat)
  | trapEntryDelivery
  | trespResume (rec vf : Nat)
  | trespKill (rec vf : Nat)
  | trespEvict (rec vf : Nat)
  | watchReportArrival (c : Nat)
  | remoteFaultReport (c : Nat)
  | eccCorrectedError (site : EccSite)
  | eccUncorrectableError (site : EccSite)
  -- agreement and fabric
  | agreeContributionArrival (i : Nat) (outside : Option Contribution)
  | agreeLateExpiry (vf gid seq : Nat)
  | agreeResultArrival (i : Nat)
  | linkLoss (pkg : Nat)
  | collSend (k : Nat)
  | collRadd (k : Nat) (data : PortData)
  | collRstore (k : Nat) (data : PortData)
  | collFlag (k : Nat)
  -- the command ring (R337)
  | partSet
  | vfSet
  | inval
  | groupSet
  | groupDel
  | schedSet
  | queueSet
  | switch
  | partReset
  | readmit
  | coreRetire
  | coreRetireMapping
  | migrateOut
  | migrateIn
  -- tenancy
  | switchTick (p : Nat)
  | operatorBoundarySave (p d : Nat)
  | saveDeadlineExpiry (p : Nat)
  | tierSwap (p d : Nat)
  | pageMoveComplete (d : Nat)
  | residencyGateOpen (p d : Nat)
  -- hub
  | queueNotify (n : BitVec 192)
  | heartbeat (h : Nat)
  | heartbeatTimeout (h : Nat)
  | hartRebuildComplete (h : Nat)
  | supDown
  | supervisorRestart (images : List (Option Nat × Image))
  | powerOn (failed : List Nat) (images : List (Option Nat × Image))
  | traceSample
  | registerWrite (ofs : Nat) (v : W64)
  | wfeDeadline (c : Nat)
  | linkBringUp (pkg : Nat) (caps : BitVec 3)
  | workQueueRecordWrite (qid ofs : Nat) (data : List Byte)
deriving DecidableEq, Repr, Inhabited

end Sys2Proof
end

