-- ==== Sys2Proof/Decode.lean ====
section
/-! DEFINITION. Reading and writing instruction words (R56 to R58, R219): a decoder that is total on any bits and
an encoder, both from the spec's encoding tables. Field values that the spec reserves decode with their row: the
machine refuses them as R59 says (WellFormed). -/

namespace Sys2Proof

/-- Bit `i` of a slot. -/
def bitAt (w : W32) (i : Nat) : Bool := w.getLsbD i
/-- D, bits 20:16 (R57). -/
def fD (w : W32) : BitVec 5 := w.extractLsb' 16 5
/-- A or BASE, bits 15:11. -/
def fA (w : W32) : BitVec 5 := w.extractLsb' 11 5
/-- B, bits 10:6. -/
def fB (w : W32) : BitVec 5 := w.extractLsb' 6 5
/-- V, bits 3:0. -/
def fV (w : W32) : BitVec 4 := w.extractLsb' 0 4
/-- OP, bits 27:21 (R56). -/
def fOp (w : W32) : BitVec 7 := w.extractLsb' 21 7
/-- S, bit 31 (R56). -/
def fS (w : W32) : Bool := w.getLsbD 31
/-- W, bits 30:28 (R56). -/
def fW (w : W32) : BitVec 3 := w.extractLsb' 28 3
/-- D, A, B, HA and HB. -/
def fR3 (w : W32) : R3 := ⟨fD w, fA w, fB w, bitAt w 5, bitAt w 4⟩
/-- D, A and HA. -/
def fR2 (w : W32) : R2 := ⟨fD w, fA w, bitAt w 5⟩
/-- A, B, HA and HB. -/
def fAB (w : W32) : AB := ⟨fA w, fB w, bitAt w 5, bitAt w 4⟩
/-- A and HA. -/
def fA1 (w : W32) : A1 := ⟨fA w, bitAt w 5⟩
/-- I form. -/
def fRI (w : W32) : RI := ⟨fD w, fA w, w.extractLsb' 0 11⟩
/-- M form. -/
def fMO (w : W32) : MO := ⟨fD w, fA w, w.extractLsb' 3 8, bitAt w 0⟩

/-- Keep an instruction under a condition. -/
def guardI (c : Bool) (i : Instr) : Option Instr := if c then some i else none
/-- The first of two readings. -/
def orI (a b : Option Instr) : Option Instr :=
  match a with
  | some i => some i
  | none => b

/-- What a slot's word reads as when its OP is `op`, or none where no row of the opcode table has these bits (R59, R92). -/
def rowOf (op : Nat) (w : W32) : Option Instr :=
  match op with
  | 0 => guardI (decide (w.extractLsb' 0 21 = 0)) (.nop)
  | 1 => guardI (decide (fV w = 0)) (.add (fR3 w))
  | 2 => guardI (decide (fV w = 0)) (.sub (fR3 w))
  | 3 => some (.addr (fR3 w) (fV w))
  | 4 => guardI (decide (fV w = 0)) (.and (fR3 w))
  | 5 => guardI (decide (fV w = 0)) (.or (fR3 w))
  | 6 => guardI (decide (fV w = 0)) (.xor (fR3 w))
  | 7 => orI (guardI (decide ((fV w).extractLsb' 0 2 = 0 ∧ bitAt w 3 = false)) (.shl (fR3 w) (bitAt w 2)))
      (orI (guardI (decide ((fV w).extractLsb' 0 2 = 1 ∧ bitAt w 3 = false)) (.shr (fR3 w) (bitAt w 2)))
      (guardI (decide ((fV w).extractLsb' 0 2 = 2 ∧ bitAt w 3 = false)) (.sra (fR3 w) (bitAt w 2))))
  | 8 => guardI (decide (fV w = 0)) (.mul (fR3 w))
  | 9 => some (.mulh (fR3 w) (fV w))
  | 10 => orI (guardI (decide ((fV w).extractLsb' 2 2 = 0 ∧ bitAt w 0 = false)) (.min (fR3 w) (bitAt w 1)))
      (guardI (decide ((fV w).extractLsb' 2 2 = 0 ∧ bitAt w 0 = true)) (.max (fR3 w) (bitAt w 1)))
  | 11 => some (.cmp (fR3 w) (fV w))
  | 12 => guardI (decide ((fV w).extractLsb' 1 3 = 0)) (.sel (fR3 w) (bitAt w 0))
  | 13 => guardI (decide (fB w = 0 ∧ bitAt w 4 = false ∧ (fV w).extractLsb' 1 3 = 0)) (.clz (fR2 w) (bitAt w 0))
  | 14 => guardI (decide (fB w = 0 ∧ bitAt w 4 = false ∧ (fV w).extractLsb' 1 3 = 0)) (.popc (fR2 w) (bitAt w 0))
  | 15 => guardI (decide (fB w = 0 ∧ bitAt w 4 = false)) (.movx (fR2 w) (fV w))
  | 16 => some (.addi (fRI w))
  | 17 => some (.andi (fRI w))
  | 18 => some (.ori (fRI w))
  | 19 => some (.xori (fRI w))
  | 20 => orI (guardI (decide (w.extractLsb' 6 5 = 0)) (.shli (fD w) (fA w) (w.extractLsb' 0 6)))
      (orI (guardI (decide (w.extractLsb' 6 5 = 1)) (.shri (fD w) (fA w) (w.extractLsb' 0 6)))
      (guardI (decide (w.extractLsb' 6 5 = 2)) (.srai (fD w) (fA w) (w.extractLsb' 0 6))))
  | 21 => some (.cmpi (fRI w))
  | 22 => some (.li (fD w) (w.extractLsb' 0 16))
  | 23 => some (.lih (fD w) (w.extractLsb' 0 16))
  | 24 => some (.div (fR3 w) (fV w))
  | 25 => guardI (decide (bitAt w 3 = false)) (.fadd (fR3 w) ((fV w).extractLsb' 0 3))
  | 26 => guardI (decide (bitAt w 3 = false)) (.fsub (fR3 w) ((fV w).extractLsb' 0 3))
  | 27 => guardI (decide (bitAt w 3 = false)) (.fmul (fR3 w) ((fV w).extractLsb' 0 3))
  | 28 => some (.fma (fR3 w) (bitAt w 3) ((fV w).extractLsb' 0 3))
  | 29 => guardI (decide (bitAt w 3 = false)) (.fdiv (fR3 w) ((fV w).extractLsb' 0 3))
  | 30 => guardI (decide (fB w = 0 ∧ bitAt w 4 = false ∧ bitAt w 3 = false)) (.fsqrt (fR2 w) ((fV w).extractLsb' 0 3))
  | 31 => guardI (decide (fB w = 0 ∧ bitAt w 4 = false ∧ bitAt w 3 = false)) (.frsq (fR2 w) ((fV w).extractLsb' 0 3))
  | 32 => some (.fcmp (fR3 w) (fV w))
  | 33 => orI (guardI (decide (fV w = 0)) (.fmin (fR3 w)))
      (guardI (decide (fV w = 1)) (.fmax (fR3 w)))
  | 34 => guardI (decide (fB w = 0 ∧ bitAt w 4 = false)) (.fcvt (fR2 w) (fV w))
  | 35 => guardI (decide (fB w = 0 ∧ bitAt w 4 = false ∧ fV w = 0)) (.fclass (fR2 w))
  | 36 => some (.brc (fD w) (fA w) (w.extractLsb' 0 11))
  | 40 => some (.vadd (fR3 w) (fV w))
  | 41 => some (.vsub (fR3 w) (fV w))
  | 42 => some (.vmul (fR3 w) (fV w))
  | 43 => some (.vfma (fR3 w) (fV w))
  | 44 => orI (guardI (decide (bitAt w 3 = false ∧ bitAt w 0 = false)) (.vmin (fR3 w) ((fV w).extractLsb' 1 2)))
      (guardI (decide (bitAt w 3 = false ∧ bitAt w 0 = true)) (.vmax (fR3 w) ((fV w).extractLsb' 1 2)))
  | 45 => orI (guardI (decide (fV w = 0)) (.vand (fR3 w)))
      (orI (guardI (decide (fV w = 1)) (.vor (fR3 w)))
      (guardI (decide (fV w = 2)) (.vxor (fR3 w))))
  | 46 => orI (guardI (decide (fV w = 0)) (.vshl (fR3 w)))
      (guardI (decide ((fV w).extractLsb' 2 2 = 0 ∧ (fV w).extractLsb' 0 2 ≠ 0)) (.vshr (fR3 w) ((fV w).extractLsb' 0 2)))
  | 47 => some (.vcmp (fR3 w) (fV w))
  | 48 => guardI (decide (bitAt w 3 = false)) (.vsel (fR3 w) ((fV w).extractLsb' 0 3))
  | 49 => guardI (decide (fB w = 0 ∧ bitAt w 4 = false)) (.vcvt (fR2 w) (fV w))
  | 50 => guardI (decide (fB w = 0 ∧ bitAt w 4 = false)) (.vred (fR2 w) (fV w))
  | 51 => guardI (decide (fV w = 0)) (.vperm (fR3 w))
  | 52 => guardI (decide ((fV w).extractLsb' 1 3 = 0)) (.vbcast (fR3 w) (bitAt w 0))
  | 53 => orI (guardI (decide (fB w = 0 ∧ bitAt w 4 = false ∧ fV w = 0)) (.vexp2 (fR2 w)))
      (orI (guardI (decide (fB w = 0 ∧ bitAt w 4 = false ∧ fV w = 1)) (.vlog2 (fR2 w)))
      (orI (guardI (decide (fB w = 0 ∧ bitAt w 4 = false ∧ fV w = 2)) (.vrcp (fR2 w)))
      (guardI (decide (fB w = 0 ∧ bitAt w 4 = false ∧ fV w = 3)) (.vrsq (fR2 w)))))
  | 54 => guardI (decide ((fV w).extractLsb' 1 3 = 0)) (.vquant (fR3 w) (bitAt w 0))
  | 55 => some (.vdeq (fR3 w) (fV w))
  | 56 => some (.qop (fR3 w) (fV w))
  | 61 => guardI (decide ((fV w).extractLsb' 1 3 = 0)) (.gset (fR3 w) (bitAt w 0))
  | 62 => some (.gseed (fRI w))
  | 63 => guardI (decide ((fV w).extractLsb' 2 2 = 0)) (.ggen (fR3 w) (bitAt w 1) (bitAt w 0))
  | 64 => some (.ld (fMO w) (w.extractLsb' 1 2))
  | 65 => some (.st (fMO w) (w.extractLsb' 1 2))
  | 66 => guardI (decide (w.extractLsb' 1 2 = 0)) (.ldv (fMO w))
  | 67 => guardI (decide (w.extractLsb' 1 2 = 0)) (.stv (fMO w))
  | 68 => some (.ldg (fR3 w) (fV w))
  | 69 => some (.stg (fR3 w) (fV w))
  | 70 => guardI (decide ((fV w).extractLsb' 1 3 = 0)) (.probe (fR3 w) (bitAt w 0))
  | 71 => orI (guardI (decide ((fV w).extractLsb' 1 3 = 0)) (.lock (fR3 w) (bitAt w 0)))
      (guardI (decide (fD w = 0 ∧ fV w = 2)) (.unlock (fAB w)))
  | 72 => guardI (decide (fD w = 0 ∧ bitAt w 2 = false)) (.pref (fA w) (w.extractLsb' 3 8) (bitAt w 1) (bitAt w 0))
  | 73 => guardI (decide (w.extractLsb' 0 21 = 0)) (.drain)
  | 74 => orI (guardI (decide (w.extractLsb' 0 21 = 0)) (.fenceo))
      (guardI (decide (fD w = 0)) (.fencer (fAB w) (fV w)))
  | 75 => some (.atom (fR3 w) (fV w))
  | 76 => some (.ratom (fR3 w) (fV w))
  | 77 => some (.rld (fMO w) (w.extractLsb' 1 2))
  | 78 => some (.rst (fR3 w) (fV w))
  | 79 => guardI (decide (fV w = 0)) (.stver (fR3 w))
  | 80 => orI (guardI (decide (fD w = 0 ∧ fV w = 0)) (.owne (fAB w)))
      (guardI (decide (fD w = 0 ∧ fV w = 1)) (.ownt (fAB w)))
  | 81 => guardI (decide (fD w = 0 ∧ fV w = 0)) (.barm (fAB w))
  | 82 => guardI (decide (fD w = 0 ∧ fV w = 0)) (.cwait (fAB w))
  | 84 => guardI (decide (fD w = 0 ∧ fB w = 0 ∧ bitAt w 4 = false ∧ fV w = 0)) (.cpy (fA1 w))
  | 85 => guardI (decide (fD w = 0 ∧ fB w = 0 ∧ bitAt w 4 = false ∧ fV w = 0)) (.cpys (fA1 w))
  | 86 => guardI (decide (fD w = 0 ∧ fB w = 0 ∧ bitAt w 4 = false ∧ fV w = 0)) (.cpyg (fA1 w))
  | 87 => guardI (decide (fD w = 0 ∧ fB w = 0 ∧ bitAt w 4 = false ∧ fV w = 0)) (.cpyr (fA1 w))
  | 88 => guardI (decide (fD w = 0 ∧ fB w = 0 ∧ bitAt w 4 = false ∧ fV w = 0)) (.cpyw (fA1 w))
  | 90 => guardI (decide (fD w = 0 ∧ (fV w).extractLsb' 2 2 = 0)) (.mcall (fAB w) ((fV w).extractLsb' 0 2))
  | 91 => guardI (decide (fD w = 0 ∧ fB w = 0 ∧ bitAt w 4 = false ∧ (fV w).extractLsb' 2 2 = 0)) (.mwait (fA1 w) ((fV w).extractLsb' 0 2))
  | 92 => guardI (decide (fA w = 0 ∧ fB w = 0 ∧ bitAt w 5 = false ∧ bitAt w 4 = false ∧ (fV w).extractLsb' 2 2 = 0)) (.mver (fD w) ((fV w).extractLsb' 0 2))
  | 93 => guardI (decide (fD w = 0 ∧ fV w = 0)) (.mpwr (fAB w))
  | 94 => guardI (decide (fB w = 0 ∧ bitAt w 4 = false ∧ fV w = 0)) (.mprd (fR2 w))
  | 96 => some (.br (w.extractLsb' 0 21))
  | 97 => some (.brl (w.extractLsb' 0 21))
  | 98 => orI (guardI (decide (fD w = 0 ∧ fB w = 0 ∧ bitAt w 4 = false ∧ fV w = 0)) (.jr (fA1 w)))
      (orI (guardI (decide (w.extractLsb' 0 21 = 1)) (.ret))
      (guardI (decide (fB w = 0 ∧ bitAt w 4 = false ∧ fV w = 2)) (.jrL (fR2 w))))
  | 99 => guardI (decide (w.extractLsb' 19 2 = 0)) (.loop (w.extractLsb' 16 3) (fA w) (w.extractLsb' 0 11))
  | 100 => guardI (decide (fV w = 0)) (.bucket (fR3 w))
  | 101 => guardI (decide (fD w = 0 ∧ fV w = 0)) (.nextt (fAB w))
  | 102 => guardI (decide (fD w = 0 ∧ fB w = 0 ∧ bitAt w 4 = false)) (.suspend (fA1 w) (fV w))
  | 103 => guardI (decide (w.extractLsb' 0 21 = 0)) (.tend)
  | 104 => guardI (decide (fV w = 0)) (.launch (fR3 w))
  | 105 => guardI (decide (fV w = 0)) (.raise (fR3 w))
  | 106 => guardI (decide (fB w = 0 ∧ bitAt w 4 = false ∧ fV w = 0)) (.post (fR2 w))
  | 107 => guardI (decide (fB w = 0 ∧ bitAt w 4 = false ∧ fV w = 0)) (.qpop (fR2 w))
  | 108 => guardI (decide (fV w = 0)) (.dispatch (fR3 w))
  | 109 => some (.agree (fD w) (w.extractLsb' 0 16))
  | 110 => some (.abr (fD w) (fA w) (w.extractLsb' 0 11))
  | 111 => some (.abrp (bitAt w 20) (w.extractLsb' 16 4) (fA w) (w.extractLsb' 0 11))
  | 112 => some (.ares (fR3 w) (fV w))
  | 113 => guardI (decide (fV w = 0)) (.coll (fR3 w))
  | 114 => guardI (decide (fD w = 0)) (.trap (w.extractLsb' 0 16))
  | 115 => guardI (decide (fB w = 0 ∧ bitAt w 4 = false)) (.rte (fR2 w) (fV w))
  | 116 => some (.wfe (fR3 w) (fV w))
  | 117 => guardI (decide (fD w = 0)) (.dbrk (w.extractLsb' 0 16))
  | 118 => guardI (decide (w.extractLsb' 12 4 = 0)) (.srd (fD w) (w.extractLsb' 0 12))
  | 119 => guardI (decide (w.extractLsb' 12 4 = 0)) (.swr (fD w) (w.extractLsb' 0 12))
  | 126 => some (.pfxi (w.extractLsb' 0 21))
  | 127 => guardI (decide (w.extractLsb' 0 13 = 0)) (.pfxp (w.extractLsb' 18 3) (w.extractLsb' 13 5))
  | _ => none
/-- The instruction of a slot. -/
def decodeSlot (w : W32) : Option Instr := rowOf (fOp w).toNat w

/-- R form word (R57). -/
def encR (s : Bool) (w : BitVec 3) (op : BitVec 7) (d a b : BitVec 5) (ha hb : Bool) (v : BitVec 4) : W32 :=
  (BitVec.ofBool s ++ w ++ op ++ d ++ a ++ b ++ BitVec.ofBool ha ++ BitVec.ofBool hb ++ v : BitVec 32)
/-- I form word. -/
def encI (s : Bool) (w : BitVec 3) (op : BitVec 7) (d a : BitVec 5) (imm : BitVec 11) : W32 :=
  (BitVec.ofBool s ++ w ++ op ++ d ++ a ++ imm : BitVec 32)
/-- L form word. -/
def encL (s : Bool) (w : BitVec 3) (op : BitVec 7) (d : BitVec 5) (imm : BitVec 16) : W32 :=
  (BitVec.ofBool s ++ w ++ op ++ d ++ imm : BitVec 32)
/-- M form word. -/
def encM (s : Bool) (w : BitVec 3) (op : BitVec 7) (d base : BitVec 5) (ofs : BitVec 8) (size : BitVec 2) (ha : Bool) : W32 :=
  (BitVec.ofBool s ++ w ++ op ++ d ++ base ++ ofs ++ size ++ BitVec.ofBool ha : BitVec 32)
/-- J and P form word. -/
def encJ (s : Bool) (w : BitVec 3) (op : BitVec 7) (p : BitVec 21) : W32 :=
  (BitVec.ofBool s ++ w ++ op ++ p : BitVec 32)

/-- The word of a slot with stop bit `s` and stall count `w`; 0 for what is no slot. -/
def encode (s : Bool) (w : BitVec 3) (i : Instr) : W32 :=
  match i with
  | .nop => encJ s w 0 0
  | .add o => encR s w 1 o.d o.a o.b o.ha o.hb (0)
  | .sub o => encR s w 2 o.d o.a o.b o.ha o.hb (0)
  | .addr o v => encR s w 3 o.d o.a o.b o.ha o.hb (v)
  | .and o => encR s w 4 o.d o.a o.b o.ha o.hb (0)
  | .or o => encR s w 5 o.d o.a o.b o.ha o.hb (0)
  | .xor o => encR s w 6 o.d o.a o.b o.ha o.hb (0)
  | .shl o t => encR s w 7 o.d o.a o.b o.ha o.hb ((0 : BitVec 1) ++ BitVec.ofBool t ++ (0 : BitVec 2))
  | .shr o t => encR s w 7 o.d o.a o.b o.ha o.hb ((0 : BitVec 1) ++ BitVec.ofBool t ++ (1 : BitVec 2))
  | .sra o t => encR s w 7 o.d o.a o.b o.ha o.hb ((0 : BitVec 1) ++ BitVec.ofBool t ++ (2 : BitVec 2))
  | .mul o => encR s w 8 o.d o.a o.b o.ha o.hb (0)
  | .mulh o v => encR s w 9 o.d o.a o.b o.ha o.hb (v)
  | .min o u => encR s w 10 o.d o.a o.b o.ha o.hb ((0 : BitVec 2) ++ BitVec.ofBool u ++ (0 : BitVec 1))
  | .max o u => encR s w 10 o.d o.a o.b o.ha o.hb ((0 : BitVec 2) ++ BitVec.ofBool u ++ (1 : BitVec 1))
  | .cmp o v => encR s w 11 o.d o.a o.b o.ha o.hb (v)
  | .sel o z => encR s w 12 o.d o.a o.b o.ha o.hb ((0 : BitVec 3) ++ BitVec.ofBool z)
  | .clz o z => encR s w 13 o.d o.a 0 o.ha false ((0 : BitVec 3) ++ BitVec.ofBool z)
  | .popc o z => encR s w 14 o.d o.a 0 o.ha false ((0 : BitVec 3) ++ BitVec.ofBool z)
  | .movx o v => encR s w 15 o.d o.a 0 o.ha false (v)
  | .addi o => encI s w 16 o.d o.a o.imm
  | .andi o => encI s w 17 o.d o.a o.imm
  | .ori o => encI s w 18 o.d o.a o.imm
  | .xori o => encI s w 19 o.d o.a o.imm
  | .shli d a n => encI s w 20 d a ((0 : BitVec 5) ++ n)
  | .shri d a n => encI s w 20 d a ((1 : BitVec 5) ++ n)
  | .srai d a n => encI s w 20 d a ((2 : BitVec 5) ++ n)
  | .cmpi o => encI s w 21 o.d o.a o.imm
  | .li d i => encL s w 22 d i
  | .lih d i => encL s w 23 d i
  | .div o v => encR s w 24 o.d o.a o.b o.ha o.hb (v)
  | .fadd o r => encR s w 25 o.d o.a o.b o.ha o.hb ((0 : BitVec 1) ++ r)
  | .fsub o r => encR s w 26 o.d o.a o.b o.ha o.hb ((0 : BitVec 1) ++ r)
  | .fmul o r => encR s w 27 o.d o.a o.b o.ha o.hb ((0 : BitVec 1) ++ r)
  | .fma o n r => encR s w 28 o.d o.a o.b o.ha o.hb (BitVec.ofBool n ++ r)
  | .fdiv o r => encR s w 29 o.d o.a o.b o.ha o.hb ((0 : BitVec 1) ++ r)
  | .fsqrt o r => encR s w 30 o.d o.a 0 o.ha false ((0 : BitVec 1) ++ r)
  | .frsq o r => encR s w 31 o.d o.a 0 o.ha false ((0 : BitVec 1) ++ r)
  | .fcmp o v => encR s w 32 o.d o.a o.b o.ha o.hb (v)
  | .fmin o => encR s w 33 o.d o.a o.b o.ha o.hb (0)
  | .fmax o => encR s w 33 o.d o.a o.b o.ha o.hb (1)
  | .fcvt o v => encR s w 34 o.d o.a 0 o.ha false (v)
  | .fclass o => encR s w 35 o.d o.a 0 o.ha false (0)
  | .brc c a i => encI s w 36 c a i
  | .vadd o v => encR s w 40 o.d o.a o.b o.ha o.hb (v)
  | .vsub o v => encR s w 41 o.d o.a o.b o.ha o.hb (v)
  | .vmul o v => encR s w 42 o.d o.a o.b o.ha o.hb (v)
  | .vfma o v => encR s w 43 o.d o.a o.b o.ha o.hb (v)
  | .vmin o t => encR s w 44 o.d o.a o.b o.ha o.hb ((0 : BitVec 1) ++ t ++ (0 : BitVec 1))
  | .vmax o t => encR s w 44 o.d o.a o.b o.ha o.hb ((0 : BitVec 1) ++ t ++ (1 : BitVec 1))
  | .vand o => encR s w 45 o.d o.a o.b o.ha o.hb (0)
  | .vor o => encR s w 45 o.d o.a o.b o.ha o.hb (1)
  | .vxor o => encR s w 45 o.d o.a o.b o.ha o.hb (2)
  | .vshl o => encR s w 46 o.d o.a o.b o.ha o.hb (0)
  | .vshr o t => encR s w 46 o.d o.a o.b o.ha o.hb ((0 : BitVec 2) ++ t)
  | .vcmp o v => encR s w 47 o.d o.a o.b o.ha o.hb (v)
  | .vsel o n => encR s w 48 o.d o.a o.b o.ha o.hb ((0 : BitVec 1) ++ n)
  | .vcvt o v => encR s w 49 o.d o.a 0 o.ha false (v)
  | .vred o v => encR s w 50 o.d o.a 0 o.ha false (v)
  | .vperm o => encR s w 51 o.d o.a o.b o.ha o.hb (0)
  | .vbcast o z => encR s w 52 o.d o.a o.b o.ha o.hb ((0 : BitVec 3) ++ BitVec.ofBool z)
  | .vexp2 o => encR s w 53 o.d o.a 0 o.ha false (0)
  | .vlog2 o => encR s w 53 o.d o.a 0 o.ha false (1)
  | .vrcp o => encR s w 53 o.d o.a 0 o.ha false (2)
  | .vrsq o => encR s w 53 o.d o.a 0 o.ha false (3)
  | .vquant o z => encR s w 54 o.d o.a o.b o.ha o.hb ((0 : BitVec 3) ++ BitVec.ofBool z)
  | .vdeq o v => encR s w 55 o.d o.a o.b o.ha o.hb (v)
  | .qop o v => encR s w 56 o.d o.a o.b o.ha o.hb (v)
  | .gset o z => encR s w 61 o.d o.a o.b o.ha o.hb ((0 : BitVec 3) ++ BitVec.ofBool z)
  | .gseed o => encI s w 62 o.d o.a o.imm
  | .ggen o t c => encR s w 63 o.d o.a o.b o.ha o.hb ((0 : BitVec 2) ++ BitVec.ofBool t ++ BitVec.ofBool c)
  | .ld o z => encM s w 64 o.d o.base o.ofs z o.ha
  | .st o z => encM s w 65 o.d o.base o.ofs z o.ha
  | .ldv o => encM s w 66 o.d o.base o.ofs 0 o.ha
  | .stv o => encM s w 67 o.d o.base o.ofs 0 o.ha
  | .ldg o v => encR s w 68 o.d o.a o.b o.ha o.hb (v)
  | .stg o v => encR s w 69 o.d o.a o.b o.ha o.hb (v)
  | .probe o z => encR s w 70 o.d o.a o.b o.ha o.hb ((0 : BitVec 3) ++ BitVec.ofBool z)
  | .lock o z => encR s w 71 o.d o.a o.b o.ha o.hb ((0 : BitVec 3) ++ BitVec.ofBool z)
  | .unlock o => encR s w 71 0 o.a o.b o.ha o.hb (2)
  | .pref a i l h => encM s w 72 0 a i ((0 : BitVec 1) ++ BitVec.ofBool l) h
  | .drain => encJ s w 73 0
  | .fenceo => encJ s w 74 0
  | .fencer o v => encR s w 74 0 o.a o.b o.ha o.hb (v)
  | .atom o v => encR s w 75 o.d o.a o.b o.ha o.hb (v)
  | .ratom o v => encR s w 76 o.d o.a o.b o.ha o.hb (v)
  | .rld o z => encM s w 77 o.d o.base o.ofs z o.ha
  | .rst o v => encR s w 78 o.d o.a o.b o.ha o.hb (v)
  | .stver o => encR s w 79 o.d o.a o.b o.ha o.hb (0)
  | .owne o => encR s w 80 0 o.a o.b o.ha o.hb (0)
  | .ownt o => encR s w 80 0 o.a o.b o.ha o.hb (1)
  | .barm o => encR s w 81 0 o.a o.b o.ha o.hb (0)
  | .cwait o => encR s w 82 0 o.a o.b o.ha o.hb (0)
  | .cpy o => encR s w 84 0 o.a 0 o.ha false (0)
  | .cpys o => encR s w 85 0 o.a 0 o.ha false (0)
  | .cpyg o => encR s w 86 0 o.a 0 o.ha false (0)
  | .cpyr o => encR s w 87 0 o.a 0 o.ha false (0)
  | .cpyw o => encR s w 88 0 o.a 0 o.ha false (0)
  | .mcall o n => encR s w 90 0 o.a o.b o.ha o.hb ((0 : BitVec 2) ++ n)
  | .mwait o n => encR s w 91 0 o.a 0 o.ha false ((0 : BitVec 2) ++ n)
  | .mver d n => encR s w 92 d 0 0 false false ((0 : BitVec 2) ++ n)
  | .mpwr o => encR s w 93 0 o.a o.b o.ha o.hb (0)
  | .mprd o => encR s w 94 o.d o.a 0 o.ha false (0)
  | .br i => encJ s w 96 i
  | .brl i => encJ s w 97 i
  | .jr o => encR s w 98 0 o.a 0 o.ha false (0)
  | .ret => encJ s w 98 1
  | .jrL o => encR s w 98 o.d o.a 0 o.ha false (2)
  | .loop l a i => encI s w 99 ((0 : BitVec 2) ++ l) a i
  | .bucket o => encR s w 100 o.d o.a o.b o.ha o.hb (0)
  | .nextt o => encR s w 101 0 o.a o.b o.ha o.hb (0)
  | .suspend o v => encR s w 102 0 o.a 0 o.ha false (v)
  | .tend => encJ s w 103 0
  | .launch o => encR s w 104 o.d o.a o.b o.ha o.hb (0)
  | .raise o => encR s w 105 o.d o.a o.b o.ha o.hb (0)
  | .post o => encR s w 106 o.d o.a 0 o.ha false (0)
  | .qpop o => encR s w 107 o.d o.a 0 o.ha false (0)
  | .dispatch o => encR s w 108 o.d o.a o.b o.ha o.hb (0)
  | .agree d i => encL s w 109 d i
  | .abr c a i => encI s w 110 c a i
  | .abrp p m a i => encI s w 111 (BitVec.ofBool p ++ m) a i
  | .ares o v => encR s w 112 o.d o.a o.b o.ha o.hb (v)
  | .coll o => encR s w 113 o.d o.a o.b o.ha o.hb (0)
  | .trap i => encL s w 114 0 i
  | .rte o v => encR s w 115 o.d o.a 0 o.ha false (v)
  | .wfe o v => encR s w 116 o.d o.a o.b o.ha o.hb (v)
  | .dbrk i => encL s w 117 0 i
  | .srd d n => encL s w 118 d ((0 : BitVec 4) ++ n)
  | .swr d n => encL s w 119 d ((0 : BitVec 4) ++ n)
  | .pfxi i => encJ s w 126 i
  | .pfxp m r => encJ s w 127 (m ++ r ++ (0 : BitVec 13))
  | _ => 0

/-- Bits lo to lo + n - 1 of a step word. -/
def mf (w : W64) (lo n : Nat) : BitVec n := w.extractLsb' lo n

/-- What a step's word reads as when its code is `op`, or none where the code is reserved or a reserved bit is set (R230). -/
def stepOf (op : Nat) (w : W64) : Option Instr :=
  match op with
  | 0 => guardI (decide (mf w 0 59 = 0)) .mend
  | 1 => guardI (decide (mf w 0 47 = 0)) (.wload (mf w 55 4) (w.getLsbD 54) (mf w 51 3) (w.getLsbD 50) (mf w 47 3))
  | 2 => guardI (decide (mf w 0 52 = 0)) (.wgen (mf w 56 3) (w.getLsbD 55) (mf w 52 3))
  | 3 => guardI (decide (mf w 0 30 = 0))
      (.astream (mf w 55 4) (mf w 50 5) (mf w 47 3) (mf w 39 8) (mf w 31 8) (w.getLsbD 30))
  | 4 => guardI (decide (mf w 0 30 = 0))
      (.agen (mf w 56 3) (w.getLsbD 55) (mf w 50 5) (mf w 47 3) (mf w 39 8) (mf w 31 8) (w.getLsbD 30))
  | 5 => guardI (decide (mf w 0 57 = 0)) (.asel (mf w 57 2))
  | 6 => guardI (decide (mf w 47 12 = 0 ∧ mf w 0 31 = 0)) (.aclr (mf w 39 8) (mf w 31 8))
  | 7 => guardI (decide (mf w 50 1 = 0 ∧ mf w 0 27 = 0))
      (.adrain (mf w 55 4) (mf w 52 3) (w.getLsbD 51) (mf w 47 3) (mf w 39 8) (mf w 31 8) (w.getLsbD 30) (mf w 27 3))
  | 8 => guardI (decide (mf w 50 9 = 0 ∧ mf w 0 44 = 0)) (.ragg (mf w 47 3) (mf w 44 3))
  | 9 => guardI (decide (mf w 0 58 = 0)) (.zskip (w.getLsbD 58))
  | 10 => guardI (decide (mf w 0 31 = 0)) (.loopm (w.getLsbD 58) (mf w 55 3) (mf w 43 12) (mf w 31 12))
  | 11 => guardI (decide (mf w 43 10 = 0 ∧ mf w 0 31 = 0)) (.mbr (mf w 56 3) (mf w 53 3) (mf w 31 12))
  | 12 => guardI (decide (mf w 32 20 = 0)) (.padd (mf w 56 3) (mf w 53 3) (w.getLsbD 52) (mf w 0 32))
  | _ => none
/-- The step of a microprogram word (R219). -/
def decodeMicro (w : W64) : Option Instr := stepOf (mf w 59 5).toNat w

/-- The word of a microprogram step; 0 for what is no step. -/
def encodeMicro (i : Instr) : W64 :=
  match i with
  | .wload f mx ma rw ms =>
    ((1 : BitVec 5) ++ f ++ BitVec.ofBool mx ++ ma ++ BitVec.ofBool rw ++ ms ++ (0 : BitVec 47) : BitVec 64)
  | .wgen gn t ma => ((2 : BitVec 5) ++ gn ++ BitVec.ofBool t ++ ma ++ (0 : BitVec 52) : BitVec 64)
  | .astream f p ma b n rg =>
    ((3 : BitVec 5) ++ f ++ p ++ ma ++ b ++ n ++ BitVec.ofBool rg ++ (0 : BitVec 30) : BitVec 64)
  | .agen gn t p ma b n rg =>
    ((4 : BitVec 5) ++ gn ++ BitVec.ofBool t ++ p ++ ma ++ b ++ n ++ BitVec.ofBool rg ++ (0 : BitVec 30) : BitVec 64)
  | .asel b => ((5 : BitVec 5) ++ b ++ (0 : BitVec 57) : BitVec 64)
  | .aclr b n => ((6 : BitVec 5) ++ (0 : BitVec 12) ++ b ++ n ++ (0 : BitVec 31) : BitVec 64)
  | .adrain f rm sf ma b n c ms =>
    ((7 : BitVec 5) ++ f ++ rm ++ BitVec.ofBool sf ++ (0 : BitVec 1) ++ ma ++ b ++ n ++ BitVec.ofBool c ++ ms
      ++ (0 : BitVec 27) : BitVec 64)
  | .ragg ma mc => ((8 : BitVec 5) ++ (0 : BitVec 9) ++ ma ++ mc ++ (0 : BitVec 44) : BitVec 64)
  | .zskip en => ((9 : BitVec 5) ++ BitVec.ofBool en ++ (0 : BitVec 58) : BitVec 64)
  | .loopm src ms c e => ((10 : BitVec 5) ++ BitVec.ofBool src ++ ms ++ c ++ e ++ (0 : BitVec 31) : BitVec 64)
  | .mbr c ms t => ((11 : BitVec 5) ++ c ++ ms ++ (0 : BitVec 10) ++ t ++ (0 : BitVec 31) : BitVec 64)
  | .padd md ms src imm =>
    ((12 : BitVec 5) ++ md ++ ms ++ BitVec.ofBool src ++ (0 : BitVec 20) ++ imm : BitVec 64)
  | _ => 0

/-- Little-endian value of a byte list (R14). -/
def natOfBytes : List Byte → Nat
  | [] => 0
  | b :: r => b.toNat + 256 * natOfBytes r
/-- The n low bytes of a number, lowest first (R14). -/
def bytesOfNat : Nat → Nat → List Byte
  | 0, _ => []
  | n + 1, v => BitVec.ofNat 8 v :: bytesOfNat n (v / 256)

/-- Read one slot from bytes: the instruction, its stop bit and stall count, and the bytes left (R56). -/
def decodeBytes (bs : List Byte) : Option (Instr × Bool × BitVec 3 × List Byte) :=
  match bs with
  | a :: b :: c :: d :: r =>
    let w : W32 := BitVec.ofNat 32 (natOfBytes [a, b, c, d])
    match decodeSlot w with
    | some i => some (i, fS w, fW w, r)
    | none => none
  | _ => none

/-- The decoder on a word of the opcode table: 32 bits for a slot, 64 for a microprogram step. -/
def decodeTableWord (nbits w : Nat) : Option Instr :=
  if nbits > 32 then decodeMicro (BitVec.ofNat 64 (natOfBytes (bytesOfNat 8 w)))
  else match decodeBytes (bytesOfNat 4 w) with
    | some (i, _, _, _) => some i
    | none => none

end Sys2Proof
end

