-- ==== Sys2Proof/Machine/Numbers.lean ====
section
/-! DEFINITION. Number formats, rounding and saturation (R115 to R143), exactly. -/

namespace Sys2Proof.Machine

/-- An exact value: (-1)^neg * mant * 2^exp, an infinity, or a NaN (R118, R121). A value that is no dyadic number
is held with one further low bit that stands for a non-zero rest. -/
inductive Num where
  | fin (neg : Bool) (mant : Nat) (exp : Int)
  | inf (neg : Bool)
  | nan (signalling : Bool)
deriving DecidableEq, Repr, Inhabited

/-- Rounding modes (R89). -/
inductive Rm where
  | rne | rtz | rdn | rup | sr
deriving DecidableEq, Repr, Inhabited

/-- The mode of a 3-bit FPCTL.RM or ADRAIN RM code; reserved codes give RNE (R89). -/
def rmOfBits (b : BitVec 3) : Rm :=
  match b.toNat with
  | 1 => .rtz | 2 => .rdn | 3 => .rup | 4 => .sr | _ => .rne

/-- FPFLAGS bits (R89): NV. -/
def flNV : BitVec 5 := 16
/-- DZ -/
def flDZ : BitVec 5 := 8
/-- OF -/
def flOF : BitVec 5 := 4
/-- UF -/
def flUF : BitVec 5 := 2
/-- NX -/
def flNX : BitVec 5 := 1

/-- floor(log2 n) for n > 0. -/
def log2 (n : Nat) : Nat := Nat.log2 n

/-- Number of bits of an element code (R211). -/
def fmtWidth (f : Nat) : Nat :=
  match f with
  | 0 => 32 | 1 => 16 | 2 => 16 | 3 => 8 | 4 => 8 | 5 => 6 | 6 => 6 | 7 => 4
  | 8 => 16 | 9 => 8 | 10 => 8 | 11 => 4 | 12 => 2 | 13 => 8 | 14 => 1 | _ => 1

/-- Floating-point parameters (R117): exponent bits, fraction bits, bias. -/
def fpParams (f : Nat) : Nat × Nat × Int :=
  match f with
  | 0 => (8, 23, 127) | 1 => (5, 10, 15) | 2 => (8, 7, 127) | 3 => (4, 3, 7) | 4 => (5, 2, 15)
  | 5 => (3, 2, 3) | 6 => (2, 3, 1) | _ => (2, 1, 1)

/-- Formats with an all-ones exponent for infinities and NaNs (R117). -/
def fmtIeee (f : Nat) : Bool := f = 0 || f = 1 || f = 2 || f = 4
/-- Formats with an infinity (R117, R121). -/
def fmtHasInf (f : Nat) : Bool := fmtIeee f || f = 13
/-- Formats with a NaN (R117, R121). -/
def fmtHasNan (f : Nat) : Bool := fmtIeee f || f = 3 || f = 13
/-- The NaN code an operation writes (R117, R140). -/
def fmtNanCode (f : Nat) : Nat :=
  match f with
  | 0 => 0x7FC00000 | 1 => 0x7E00 | 2 => 0x7FC0 | 3 => 0x7F | 4 => 0x7E | 13 => 0x80 | _ => 0

/-- Powers of ten used by M8 (R121). -/
def pow10 (n : Nat) : Nat := 10 ^ n

/-- Round the positive ratio num/den to a 12-bit binary significand, ties to even: (significand, exponent) (R123). -/
def round12 (num den : Nat) : Nat × Int :=
  -- scale so that the quotient has at least 12 bits
  let q0 := num * 2 ^ 64 / den
  let e := log2 q0
  let sh := e - 11
  let d := den * 2 ^ sh
  let n := num * 2 ^ 64
  let q := n / d
  let r := n % d
  let q' := if 2 * r > d || (2 * r = d && q % 2 = 1) then q + 1 else q
  (q', (sh : Int) - 64)

/-- Magnitude of an M8 body of 2 to 127, as significand and exponent (R121 to R123). -/
def m8Mag (body : Nat) : Nat × Int :=
  let k := 6 - log2 body
  if k = 5 then (if body = 2 then round12 (pow10 5) 1 else round12 1 (pow10 6))
  else
    let d := body / 2 ^ (5 - k) % 2
    let f := body % 2 ^ (5 - k)
    -- 1 + 9 f / 2^(5-k)
    let num := 2 ^ (5 - k) + 9 * f
    let den := 2 ^ (5 - k)
    if d = 0 then round12 (num * pow10 k) den else round12 num (den * pow10 (k + 1))

/-- The bodies in ascending order of magnitude, from 10^-6 up to 10^5 (R122). -/
def m8Order : List Nat :=
  [0x03, 0x06, 0x07] ++ (List.range 4).map (0x0C + ·) ++ (List.range 8).map (0x18 + ·)
    ++ (List.range 16).map (0x30 + ·) ++ (List.range 32).map (0x60 + ·) ++ (List.range 32).map (0x40 + ·)
    ++ (List.range 16).map (0x20 + ·) ++ (List.range 8).map (0x10 + ·) ++ (List.range 4).map (0x08 + ·)
    ++ [0x04, 0x05, 0x02]

/-- Sign-extend an n-bit code. -/
def sextNat (n c : Nat) : Int := if c ≥ 2 ^ (n - 1) then (c : Int) - 2 ^ n else c

/-- An integer as an exact value. -/
def numOfInt (z : Int) : Num := .fin (decide (z < 0)) z.natAbs 0

/-- The value of an element code (R118 to R123), with no scale. -/
def decodeFmt (f c : Nat) : Num :=
  match f with
  | 8 => numOfInt (sextNat 16 c)
  | 9 => numOfInt (sextNat 8 c)
  | 10 => numOfInt c
  | 11 => numOfInt (sextNat 4 c)
  | 12 => numOfInt (sextNat 2 c)
  | 13 =>
    let s := decide (c ≥ 128)
    let b := c % 128
    if b = 0 then (if s then .nan false else .fin false 0 0)
    else if b = 1 then .inf s
    else let (m, e) := m8Mag b; .fin s m e
  | 14 => .fin (decide (c = 1)) 1 0
  | 15 => .fin false c 0
  | _ =>
    let (eb, mb, bias) := fpParams f
    let s := decide (c / 2 ^ (eb + mb) % 2 = 1)
    let e := c / 2 ^ mb % 2 ^ eb
    let fr := c % 2 ^ mb
    if fmtIeee f && e = 2 ^ eb - 1 then
      (if fr = 0 then .inf s else .nan (decide (fr / 2 ^ (mb - 1) = 0)))
    else if f = 3 && c % 128 = 0x7F then .nan false
    else if e = 0 then .fin s fr (1 - bias - mb)
    else .fin s (2 ^ mb + fr) ((e : Int) - bias - mb)

/-- Multiply an exact value by 2^n. -/
def Num.scale (x : Num) (n : Int) : Num :=
  match x with
  | .fin s m e => .fin s m (e + n)
  | y => y

/-- The sign bit of a value; a NaN has none. -/
def Num.neg? (x : Num) : Bool :=
  match x with
  | .fin s _ _ => s
  | .inf s => s
  | .nan _ => false

/-- Is the value a zero of either sign? -/
def Num.isZero (x : Num) : Bool :=
  match x with
  | .fin _ m _ => m = 0
  | _ => false

/-- Is it a NaN? -/
def Num.isNan (x : Num) : Bool :=
  match x with
  | .nan _ => true
  | _ => false

/-- Is it a signalling NaN? -/
def Num.isSnan (x : Num) : Bool :=
  match x with
  | .nan b => b
  | _ => false

/-- Negation of the sign. -/
def Num.flip (x : Num) : Num :=
  match x with
  | .fin s m e => .fin (!s) m e
  | .inf s => .inf (!s)
  | y => y

/-- Signed mantissa at exponent `e`, which is at most the value's own. -/
def Num.intAt (s : Bool) (m : Nat) (e e0 : Int) : Int :=
  let v : Int := (m * 2 ^ (e - e0).toNat : Nat)
  if s then -v else v

/-- Decide a rounding between the grid points k and k + 1 below and above a magnitude: `rest` of `whole` is the
distance from k (R136, R137). `up?` says whether to take k + 1. -/
def roundUp? (neg : Bool) (k rest whole : Nat) (rm : Rm) (draw : W32) (inRange : Bool) : Bool :=
  if rest = 0 then false
  else match rm with
    | .rtz => false
    | .rdn => neg
    | .rup => !neg
    | .rne => if 2 * rest > whole then true else if 2 * rest < whole then false else k % 2 = 1
    | .sr =>
      if inRange then
        -- distance of x from the lower neighbour, ovf the gap, against the draw (R137)
        let fromLo := if neg then whole - rest else rest
        let toHi := decide (draw.toNat * whole < fromLo * 2 ^ 32)
        if neg then !toHi else toHi
      else true

/-- Encode a finite non-zero magnitude in a floating-point format (R136 to R140). -/
def encodeFp (f : Nat) (neg : Bool) (m : Nat) (e : Int) (rm : Rm) (sat : Bool) (draw : W32) : Nat × BitVec 5 :=
  let (eb, mb, bias) := fpParams f
  let emin : Int := 1 - bias
  let top : Int := (log2 m : Int) + e
  let q : Int := (if top < emin then emin else top) - mb
  let sbit := if neg then 2 ^ (eb + mb) else 0
  -- largest finite value: kmax * 2^qmax
  let emax : Int := if fmtIeee f then (2 ^ eb - 2 : Nat) - bias else (2 ^ eb - 1 : Nat) - bias
  let kmax := if f = 3 then 2 ^ (mb + 1) - 2 else 2 ^ (mb + 1) - 1
  let qmax : Int := emax - mb
  let (k, rest, whole) : Nat × Nat × Nat :=
    if e ≥ q then (m * 2 ^ (e - q).toNat, 0, 1)
    else let d := 2 ^ (q - e).toNat; (m / d, m % d, d)
  -- |x| at or beyond up, and |x| above max
  let beyondUp := decide (q > qmax) || (decide (q = qmax) && decide (k ≥ kmax + 1))
  let aboveMax := beyondUp || (decide (q = qmax) && decide (k = kmax) && decide (rest > 0))
  let ovf : Nat × BitVec 5 :=
    let code := if !sat && fmtHasInf f then (2 ^ eb - 1) * 2 ^ mb
      else if !sat && fmtHasNan f then fmtNanCode f
      else if fmtIeee f then (2 ^ eb - 1) * 2 ^ mb - 1
      else if f = 3 then 0x7E else 2 ^ (eb + mb) - 1
    let code := if !sat && !fmtHasInf f && fmtHasNan f then code else sbit + code
    (code, flOF ||| flNX)
  let maxCode := if fmtIeee f then (2 ^ eb - 1) * 2 ^ mb - 1 else if f = 3 then 0x7E else 2 ^ (eb + mb) - 1
  if beyondUp then
    (match rm with
    | .rtz => (sbit + maxCode, flOF ||| flNX)
    | .rdn => if neg then ovf else (sbit + maxCode, flOF ||| flNX)
    | .rup => if neg then (sbit + maxCode, flOF ||| flNX) else ovf
    | _ => ovf)
  else
    let up := roundUp? neg k rest whole rm draw (!aboveMax)
    let k' := if up then k + 1 else k
    if decide (q = qmax) && decide (k' = kmax + 1) then ovf
    else
      let nx := if rest = 0 then (0 : BitVec 5) else flNX
      let uf := if rest ≠ 0 && decide (top < emin) then flUF else (0 : BitVec 5)
      -- the code of k' * 2^q: subnormals and normals share one arithmetic
      let code := if decide (k' < 2 ^ mb) then k'
        else if decide (k' = 2 ^ (mb + 1)) then ((q + mb + 1 + bias).toNat) * 2 ^ mb
        else ((q + mb + bias).toNat) * 2 ^ mb + (k' - 2 ^ mb)
      (sbit + code, nx ||| uf)

/-- Range of an integer format (R119). -/
def intRange (f : Nat) : Int × Int :=
  match f with
  | 8 => (-32768, 32767) | 9 => (-128, 127) | 10 => (0, 255) | 11 => (-8, 7) | _ => (-2, 1)

/-- Round a finite value to an integer in magnitude form: grid point below, whether up was taken, exactness. -/
def roundIntMag (neg : Bool) (m : Nat) (e : Int) (rm : Rm) (draw : W32) (inRange : Bool) : Nat × Bool :=
  if e ≥ 0 then (m * 2 ^ e.toNat, true)
  else
    let d := 2 ^ (-e).toNat
    let k := m / d
    let r := m % d
    (if roundUp? neg k r d rm draw inRange then k + 1 else k, decide (r = 0))

/-- Is a finite value at least the integer z? -/
def geInt (neg : Bool) (m : Nat) (e : Int) (z : Int) : Bool :=
  let e0 := if e < 0 then e else 0
  decide (Num.intAt neg m e e0 ≥ z * (2 ^ (-e0).toNat : Nat))
/-- Is a finite value at most the integer z? -/
def leInt (neg : Bool) (m : Nat) (e : Int) (z : Int) : Bool :=
  let e0 := if e < 0 then e else 0
  decide (Num.intAt neg m e e0 ≤ z * (2 ^ (-e0).toNat : Nat))

/-- Encode a finite value in an integer format (R136 to R140); integer formats have neither infinity nor NaN. -/
def encodeInt (f : Nat) (neg : Bool) (m : Nat) (e : Int) (rm : Rm) (draw : W32) : Nat × BitVec 5 :=
  let (lo, hi) := intRange f
  let w := 2 ^ fmtWidth f
  let code (z : Int) : Nat := (z % (w : Int)).toNat
  let atUp := geInt neg m e (hi + 1)
  let atDn := leInt neg m e (lo - 1)
  let aboveMax := !(leInt neg m e hi)
  let belowMin := !(geInt neg m e lo)
  let (k, exact) := roundIntMag neg m e rm draw (!aboveMax && !belowMin)
  let z : Int := if neg then -(k : Int) else k
  if atUp then (code hi, flOF ||| flNX)
  else if atDn then (code lo, flOF ||| flNX)
  else if z > hi then (code hi, flOF ||| flNX)
  else if z < lo then (code lo, flOF ||| flNX)
  else (code z, if exact then 0 else flNX)

/-- Compare two positive dyadic magnitudes. -/
def magLe (m : Nat) (e : Int) (m' : Nat) (e' : Int) : Bool :=
  let e0 := if e < e' then e else e'
  decide (m * 2 ^ (e - e0).toNat ≤ m' * 2 ^ (e' - e0).toNat)

/-- Number of M8 magnitudes, in ascending order, that are at most m * 2^e. -/
def m8Below (m : Nat) (e : Int) : List Nat → Nat → Nat
  | [], n => n
  | b :: r, n => if magLe (m8Mag b).1 (m8Mag b).2 m e then m8Below m e r (n + 1) else n

/-- Encode a finite non-zero value in M8 (R119, R121 to R123, R136 to R140). -/
def encodeM8 (neg : Bool) (m : Nat) (e : Int) (rm : Rm) (sat : Bool) (draw : W32) : Nat × BitVec 5 :=
  let n := m8Below m e m8Order 0
  let mag (i : Nat) : Nat × Int :=
    if i = 0 then (0, 0) else if i > 126 then (3125, 6) else m8Mag (m8Order.getD (i - 1) 0)
  let (ml, el) := mag n
  let (mh, eh) := mag (n + 1)
  let e0 := min e (min el eh)
  let at0 (a : Nat) (b : Int) : Nat := a * 2 ^ (b - e0).toNat
  let rest := at0 m e - at0 ml el
  let whole := at0 mh eh - at0 ml el
  let beyondUp := magLe 3125 6 m e
  let aboveMax := decide (n = 126) && decide (rest > 0)
  let sbit := if neg then 128 else 0
  let body (i : Nat) : Nat := m8Order.getD (i - 1) 0
  let ovf : Nat × BitVec 5 := (sbit + (if sat then 0x02 else 0x01), flOF ||| flNX)
  let atMax : Nat × BitVec 5 := (sbit + 0x02, flOF ||| flNX)
  if beyondUp then
    (match rm with
    | .rtz => atMax
    | .rdn => if neg then ovf else atMax
    | .rup => if neg then atMax else ovf
    | _ => ovf)
  else
    let i := if roundUp? neg n rest whole rm draw (!aboveMax) then n + 1 else n
    if i > 126 then ovf
    else
      let nx := if rest = 0 then (0 : BitVec 5) else flNX
      let uf := if rest ≠ 0 && n = 0 then flUF else (0 : BitVec 5)
      ((if i = 0 then 0 else sbit + body i), nx ||| uf)

/-- encode_fmt (R140): code and flags of a result. `sat` is SATFINITE, otherwise IEEE. -/
def encodeFmt (f : Nat) (x : Num) (rm : Rm) (sat : Bool) (draw : W32) : Nat × BitVec 5 :=
  if f = 14 then
    (match x with
    | .nan _ => (0, flNV)
    | y => (if y.neg? then 1 else 0, 0))
  else if f = 15 then
    (match x with
    | .nan _ => (0, flNV)
    | y => (if y.isZero then 0 else 1, 0))
  else match x with
    | .nan sg =>
      let fl := if sg then flNV else 0
      if fmtHasNan f then (fmtNanCode f, fl) else (0, flNV)
    | .inf neg =>
      if f = 13 then (if neg then 0x81 else 0x01, 0)
      else if fmtHasInf f then
        let (eb, mb, _) := fpParams f
        ((if neg then 2 ^ (eb + mb) else 0) + (2 ^ eb - 1) * 2 ^ mb, 0)
      else if f ≥ 8 && f ≤ 12 then
        let (lo, hi) := intRange f
        (((if neg then lo else hi) % ((2 ^ fmtWidth f : Nat) : Int)).toNat, flNV)
      else if !sat && fmtHasNan f then (fmtNanCode f, flNV)
      else
        let (eb, mb, _) := fpParams f
        let maxCode := if f = 3 then 0x7E else 2 ^ (eb + mb) - 1
        ((if neg then 2 ^ (eb + mb) else 0) + maxCode, flNV)
    | .fin neg m e =>
      if m = 0 then
        (if f ≤ 7 then (if neg then let (eb, mb, _) := fpParams f; 2 ^ (eb + mb) else 0) else 0, 0)
      else if f = 13 then encodeM8 neg m e rm sat draw
      else if f ≥ 8 then encodeInt f neg m e rm draw
      else encodeFp f neg m e rm sat draw

/-- An FP32 code as a number. -/
def f32 (c : W32) : Num := decodeFmt 0 c.toNat
/-- The canonical NaN (R132). -/
def nan32 : W32 := 0x7FC00000
/-- encode_fmt to FP32 with IEEE saturation. -/
def toF32 (x : Num) (rm : Rm) (draw : W32) : W32 × BitVec 5 :=
  let (c, fl) := encodeFmt 0 x rm false draw
  (BitVec.ofNat 32 c, fl)

/-- Exact sum with the zero signs of R134. -/
def Num.add (x y : Num) (rm : Rm) : Num :=
  match x, y with
  | .nan a, .nan b => .nan (a || b)
  | .nan a, _ => .nan a
  | _, .nan b => .nan b
  | .inf a, .inf b => if a = b then .inf a else .nan true
  | .inf a, _ => .inf a
  | _, .inf b => .inf b
  | .fin s m e, .fin s' m' e' =>
    let e0 := if e < e' then e else e'
    let z := Num.intAt s m e e0 + Num.intAt s' m' e' e0
    if z = 0 then
      (if m = 0 && m' = 0 && s = s' then .fin s 0 0 else .fin (decide (rm = .rdn)) 0 0)
    else .fin (decide (z < 0)) z.natAbs e0

/-- Exact product; 0 times an infinity is the invalid NaN. -/
def Num.mul (x y : Num) : Num :=
  match x, y with
  | .nan a, .nan b => .nan (a || b)
  | .nan a, _ => .nan a
  | _, .nan b => .nan b
  | .inf a, .inf b => .inf (a != b)
  | .inf a, .fin s m _ => if m = 0 then .nan true else .inf (a != s)
  | .fin s m _, .inf b => if m = 0 then .nan true else .inf (s != b)
  | .fin s m e, .fin s' m' e' => .fin (s != s') (m * m') (e + e')

/-- Quotient of two positive magnitudes with a sticky low bit: exact to 200 bits and beyond for comparisons. -/
def divSticky (m m' : Nat) : Nat × Int :=
  let n := m * 2 ^ 256
  (2 * (n / m') + (if n % m' = 0 then 0 else 1), -257)

/-- Floor square root, one bit of the root at a time. -/
def isqrtL (n : Nat) : Nat → Nat → Nat
  | 0, r => r
  | i + 1, r => isqrtL n i (if (r + 2 ^ i) * (r + 2 ^ i) ≤ n then r + 2 ^ i else r)
/-- Floor square root. -/
def isqrt (n : Nat) : Nat := isqrtL n (log2 n / 2 + 1) 0

/-- Floor square root of m * 2^e, e even, with a sticky low bit. -/
def sqrtSticky (m : Nat) (e : Int) : Nat × Int :=
  -- m * 2^e = n * 2^(e - 2h) with n = m * 2^(2h)
  let m1 := if e % 2 = 0 then m else 2 * m
  let e1 : Int := if e % 2 = 0 then e else e - 1
  let n := m1 * 2 ^ 256
  let r := isqrt n
  (2 * r + (if r * r = n then 0 else 1), e1 / 2 - 128 - 1)

/-- FADD, FSUB and FMA's core (R417): NaN and invalid cases, then one rounding of an exact value. -/
def finish32 (x : Num) (rm : Rm) (draw : W32) (anyNan anySnan : Bool) : W32 × BitVec 5 :=
  if anyNan then (nan32, if anySnan then flNV else 0)
  else match x with
    | .nan _ => (nan32, flNV)
    | y => toF32 y rm draw

/-- a + b (R417). -/
def fAdd (a b : W32) (rm : Rm) (draw : W32) : W32 × BitVec 5 :=
  finish32 ((f32 a).add (f32 b) rm) rm draw ((f32 a).isNan || (f32 b).isNan) ((f32 a).isSnan || (f32 b).isSnan)
/-- a - b (R417). -/
def fSub (a b : W32) (rm : Rm) (draw : W32) : W32 × BitVec 5 :=
  finish32 ((f32 a).add (f32 b).flip rm) rm draw ((f32 a).isNan || (f32 b).isNan) ((f32 a).isSnan || (f32 b).isSnan)
/-- a * b (R417). -/
def fMul (a b : W32) (rm : Rm) (draw : W32) : W32 × BitVec 5 :=
  finish32 ((f32 a).mul (f32 b)) rm draw ((f32 a).isNan || (f32 b).isNan) ((f32 a).isSnan || (f32 b).isSnan)
/-- c + a * b, or c - a * b (R417). -/
def fFma (neg : Bool) (a b c : W32) (rm : Rm) (draw : W32) : W32 × BitVec 5 :=
  let p := (f32 a).mul (f32 b)
  let p := if neg then p.flip else p
  let x := match p with
    | .nan s => .nan s
    | q => (f32 c).add q rm
  finish32 x rm draw ((f32 a).isNan || (f32 b).isNan || (f32 c).isNan)
    ((f32 a).isSnan || (f32 b).isSnan || (f32 c).isSnan)
/-- a / b (R417). -/
def fDiv (a b : W32) (rm : Rm) (draw : W32) : W32 × BitVec 5 :=
  match f32 a, f32 b with
  | .nan s, .nan s' => (nan32, if s || s' then flNV else 0)
  | .nan s, _ => (nan32, if s then flNV else 0)
  | _, .nan s => (nan32, if s then flNV else 0)
  | .inf _, .inf _ => (nan32, flNV)
  | .inf s, .fin s' _ _ => toF32 (.inf (s != s')) rm draw
  | .fin s _ _, .inf s' => toF32 (.fin (s != s') 0 0) rm draw
  | .fin s m e, .fin s' m' e' =>
    if m' = 0 then
      (if m = 0 then (nan32, flNV) else ((toF32 (.inf (s != s')) rm draw).1, flDZ))
    else if m = 0 then toF32 (.fin (s != s') 0 0) rm draw
    else let (q, x) := divSticky m m'; toF32 (.fin (s != s') q (x + e - e')) rm draw
/-- Square root (R417). -/
def fSqrt (a : W32) (rm : Rm) (draw : W32) : W32 × BitVec 5 :=
  match f32 a with
  | .nan s => (nan32, if s then flNV else 0)
  | .inf s => if s then (nan32, flNV) else toF32 (.inf false) rm draw
  | .fin s m e =>
    if m = 0 then toF32 (.fin s 0 0) rm draw
    else if s then (nan32, flNV)
    else let (q, x) := sqrtSticky m e; toF32 (.fin false q x) rm draw
/-- Reciprocal square root (R423, R482). -/
def fRsq (a : W32) (rm : Rm) (draw : W32) : W32 × BitVec 5 :=
  match f32 a with
  | .nan s => (nan32, if s then flNV else 0)
  | .inf s => if s then (nan32, flNV) else (0, 0)
  | .fin s m e =>
    if m = 0 then ((if s then 0xFF800000 else 0x7F800000), flDZ)
    else if s then (nan32, flNV)
    else
      -- 1/sqrt(m 2^e) = sqrt(2^k / m) 2^..., with the quotient exact or sticky
      let e1 : Int := if e % 2 = 0 then e else e - 1
      let m1 := if e % 2 = 0 then m else 2 * m
      let n := 2 ^ 400 / m1
      let r := isqrt n
      let exact := decide (r * r * m1 = 2 ^ 400)
      toF32 (.fin false (2 * r + (if exact then 0 else 1)) (-201 - e1 / 2)) rm draw

/-- Reciprocal (R482). -/
def fRcp (a : W32) : W32 × BitVec 5 :=
  match f32 a with
  | .nan s => (nan32, if s then flNV else 0)
  | .inf s => ((if s then 0x80000000 else 0), 0)
  | .fin s m e =>
    if m = 0 then ((if s then 0xFF800000 else 0x7F800000), flDZ)
    else let (q, x) := divSticky 1 m; toF32 (.fin s q (x - e)) .rne 0

/-- `2^(2^-j)` for j = 1, 2, … as 320-bit fixed point, by repeated square roots: multiply into `acc` where the
fraction bit j is set. -/
def exp2Loop : Nat → Nat → Nat → Nat → Nat
  | 0, _, _, acc => acc
  | n + 1, root, frac, acc =>
    -- root = floor(2^320 * 2^(2^-j)); frac: remaining fraction bits, top bit first, of 160
    let bit := frac / 2 ^ 159 % 2
    let acc' := if bit = 1 then acc * root / 2 ^ 320 else acc
    exp2Loop n (isqrt (root * 2 ^ 320)) (frac * 2 % 2 ^ 160) acc'

/-- 2^a rounded once (R482). -/
def fExp2 (a : W32) : W32 × BitVec 5 :=
  match f32 a with
  | .nan s => (nan32, if s then flNV else 0)
  | .inf s => ((if s then 0 else 0x7F800000), 0)
  | .fin s m e =>
    if m = 0 then (0x3F800000, 0)
    else if magLe 512 0 m e then
      -- far outside the exponent range: any value there rounds alike
      (if s then toF32 (.fin false 1 (-512)) .rne 0 else toF32 (.fin false 1 512) .rne 0)
    else
      -- split into floor and a fraction of 160 bits (a has at most 149 fraction bits)
      let z := Num.intAt s m (e + 160) 0
      let fl : Int := z.fdiv (2 ^ 160)
      let fr := (z - fl * 2 ^ 160).toNat
      if fr = 0 then toF32 (.fin false 1 fl) .rne 0
      else
        let v := exp2Loop 160 (isqrt (2 ^ 641)) fr (2 ^ 320)
        toF32 (.fin false (2 * v + 1) (fl - 321)) .rne 0

/-- Bits of log2 of x / 2^256, x in [2^256, 2^257): repeated squaring. -/
def log2Loop : Nat → Nat → Nat → Nat
  | 0, _, acc => acc
  | n + 1, x, acc =>
    let y := x * x / 2 ^ 256
    if y ≥ 2 ^ 257 then log2Loop n (y / 2) (2 * acc + 1) else log2Loop n y (2 * acc)

/-- log2 a rounded once (R482). -/
def fLog2 (a : W32) : W32 × BitVec 5 :=
  match f32 a with
  | .nan s => (nan32, if s then flNV else 0)
  | .inf s => if s then (nan32, flNV) else (0x7F800000, 0)
  | .fin s m e =>
    if m = 0 then (0xFF800000, flDZ)
    else if s then (nan32, flNV)
    else
      let t := log2 m
      let n : Int := (t : Int) + e
      if m = 2 ^ t then toF32 (numOfInt n) .rne 0
      else
        let x := m * 2 ^ (256 - t)
        let fr := log2Loop 128 x 0
        let z : Int := 2 * (n * 2 ^ 128 + fr) + 1
        toF32 (.fin (decide (z < 0)) z.natAbs (-129)) .rne 0

/-- Compare two numbers that are no NaN: less, equal, greater, -0 equal to +0. -/
def Num.cmp (x y : Num) : Ordering :=
  match x, y with
  | .inf a, .inf b => if a = b then .eq else if a then .lt else .gt
  | .inf a, _ => if a then .lt else .gt
  | _, .inf b => if b then .gt else .lt
  | .fin s m e, .fin s' m' e' =>
    let e0 := if e < e' then e else e'
    compare (Num.intAt s m e e0) (Num.intAt s' m' e' e0)
  | _, _ => .eq

/-- FCMP conditions (R419): result and NV. -/
def fCmp (v : Nat) (a b : W32) : Bool × BitVec 5 :=
  let x := f32 a
  let y := f32 b
  let un := x.isNan || y.isNan
  let sn := x.isSnan || y.isSnan
  let c := x.cmp y
  match v with
  | 0 => (!un && decide (c = .eq), if sn then flNV else 0)
  | 1 => (un || decide (c ≠ .eq), if sn then flNV else 0)
  | 2 => (!un && decide (c = .lt), if un then flNV else 0)
  | 3 => (!un && decide (c ≠ .gt), if un then flNV else 0)
  | 4 => (!un && decide (c = .gt), if un then flNV else 0)
  | 5 => (!un && decide (c ≠ .lt), if un then flNV else 0)
  | _ => (un, if sn then flNV else 0)

/-- FMIN and FMAX (R422), -0 below +0. -/
def fMinMax (max : Bool) (a b : W32) : W32 × BitVec 5 :=
  let x := f32 a
  let y := f32 b
  if x.isNan || y.isNan then (nan32, if x.isSnan || y.isSnan then flNV else 0)
  else
    let aLess := match x.cmp y with
      | .lt => true
      | .gt => false
      | .eq => x.neg? && !y.neg?
    let aMore := match x.cmp y with
      | .gt => true
      | .lt => false
      | .eq => !x.neg? && y.neg?
    (if max then (if aMore then a else b) else (if aLess then a else b), 0)

/-- FCLASS (R418). -/
def fClass (a : W32) : Nat :=
  match f32 a with
  | .nan s => if s then 256 else 512
  | .inf s => if s then 1 else 128
  | .fin s m _ =>
    let sub := decide (a.toNat / 2 ^ 23 % 256 = 0)
    if m = 0 then (if s then 8 else 16)
    else if s then (if sub then 4 else 2) else (if sub then 32 else 64)

/-- FP32 to an integer of range lo to hi (R420): the integer and flags. -/
def toInt (a : W32) (lo hi : Int) (rm : Rm) (draw : W32) : Int × BitVec 5 :=
  match f32 a with
  | .nan _ => (0, flNV)
  | .inf s => (if s then lo else hi, flNV)
  | .fin s m e =>
    -- values far outside are decided without building the integer
    if m ≠ 0 && decide ((log2 m : Int) + e ≥ 70) then (if s then lo else hi, flNV)
    else
      let (k, exact) := roundIntMag s m e rm draw true
      let z : Int := if s then -(k : Int) else k
      if z < lo || z > hi then (if s then lo else hi, flNV) else (z, if exact then 0 else flNX)

/-- A value with an E8M0 scale code; 0xFF makes it a NaN (R125). -/
def scaled (x : Num) (c : Nat) : Num := if c = 255 then .nan false else x.scale ((c : Int) - 127)

/-- rne of a value to FP32 (R140). -/
def rne32 (x : Num) : W32 := (toF32 x .rne 0).1

/-- Element i of a dense sequence of w-bit codes (R116). -/
def denseAt (bits w i : Nat) : Nat := bits / 2 ^ (w * i) % 2 ^ w

/-- log2 of the largest magnitude of a list of finite values, as floor; none when all are zero. -/
def maxLog : List Num → Option Int
  | [] => none
  | x :: r =>
    match x, maxLog r with
    | .fin _ m e, none => if m = 0 then none else some ((log2 m : Int) + e)
    | .fin _ m e, some b => if m = 0 then some b else some (max ((log2 m : Int) + e) b)
    | _, o => o

/-- emax of R126 step 2. -/
def mxEmax (f : Nat) : Int :=
  match f with
  | 3 => 8 | 4 => 15 | 5 => 4 | 6 => 2 | 7 => 2 | _ => 0

/-- The E8M0 scale code of a block (R126 steps 1 to 3). -/
def mxScale (f : Nat) (xs : List Num) : Nat :=
  if xs.any fun x => match x with
    | .fin _ _ _ => false
    | _ => true
  then 255
  else match maxLog xs with
    | none => 0
    | some t => (min 127 (max (-127) (t - mxEmax f)) + 127).toNat

/-- Clamp an integer. -/
def clampInt (z lo hi : Int) : Int := min hi (max lo z)

/-- quant_blk (R129) on decoded elements: exponent, nf flag and integers. `ints` are the stored integers of the
integer path. -/
def quantBlk (f p : Nat) (xs : List Num) (ints : List Int) : Int × Bool × List Int :=
  if f ≥ 8 && f ≠ 13 then
    ((p : Int) - 2, false, ints.map fun z => clampInt z (-(2 ^ (p - 1) : Nat)) ((2 ^ (p - 1) : Nat) - 1))
  else if xs.any fun x => match x with
    | .fin _ _ _ => false
    | _ => true
  then (0, true, xs.map fun _ => 0)
  else match maxLog xs with
    | none => (0, false, xs.map fun _ => 0)
    | some e =>
      (e, false, xs.map fun x => match x with
        | .fin s m ex =>
          let (k, _) := roundIntMag s m (ex + (p : Int) - 2 - e) .rne 0 true
          clampInt (if s then -(k : Int) else k) (-((2 ^ (p - 1) : Nat) - 1)) ((2 ^ (p - 1) : Nat) - 1)
        | _ => 0)

/-- The stored integer of a code on the integer path of R129: SIGN1 gives 1 or -1, MASK1 0 or 1. -/
def storedInt (f c : Nat) : Int :=
  match decodeFmt f c with
  | .fin s m e => (if s then -1 else 1) * (m * 2 ^ e.toNat : Nat)
  | _ => 0

/-- kgroup (R142): the rounded contribution of one K-group to one column. -/
def kgroup (ws : List Num) (scale : Nat) (e : Int) (nf : Bool) (a : List Int) (p : Nat) : W32 :=
  if nf || scale = 255 then nan32
  else
    let t := (ws.zip a).foldl (fun (t : Num) (wa : Num × Int) => t.add (wa.1.mul (numOfInt wa.2)) .rne)
      (.fin false 0 0)
    match t with
    | .nan _ => nan32
    | .inf s => if s then 0xFF800000 else 0x7F800000
    | .fin s m ex =>
      if m = 0 then 0x80000000
      else rne32 (.fin s m (ex + ((scale : Int) - 127) + e - p + 2))

/-- FP32 add under RNE with no flags, as accumulators use it (R142). -/
def accAdd (a b : W32) : W32 := (fAdd a b .rne 0).1

/-- One atomic operation of R202 on a 32-bit word. -/
def atomOp (v : Nat) (old : W32) (xb : W64) : W32 :=
  let b : W32 := xb.setWidth 32
  let halves (f : Nat) : W32 :=
    let h (i : Nat) : Nat :=
      let x := decodeFmt f (old.toNat / 2 ^ (16 * i) % 65536)
      let y := decodeFmt f (b.toNat / 2 ^ (16 * i) % 65536)
      (encodeFmt f (x.add y .rne) .rne false 0).1
    BitVec.ofNat 32 (h 0 + 65536 * h 1)
  match v with
  | 0 => b
  | 1 => if old = b then xb.extractLsb' 32 32 else old
  | 2 => old + b
  | 3 => old &&& b
  | 4 => old ||| b
  | 5 => old ^^^ b
  | 6 => if old.slt b then old else b
  | 7 => if b.slt old then old else b
  | 8 => if old.ult b then old else b
  | 9 => if b.ult old then old else b
  | 10 => (fAdd old b .rne 0).1
  | 11 => (fMinMax false old b).1
  | 12 => (fMinMax true old b).1
  | 13 => halves 2
  | _ => halves 1

end Sys2Proof.Machine
end

