-- ==== Sys2Proof/Config.lean ====
section
/-! DEFINITION. What one GL4 fixes and the values the spec leaves open. An opaque constant has no body, so no
proof can lean on its value. -/

namespace Sys2Proof.Config

/-- Word `i` of the standard microprogram library loaded at boot (R218); its contents are not given (log 13). -/
opaque libraryWord : Nat → W64
/-- The n-th retry-after hint that an owner gives, before it is brought into 1 to 65,535 (R175, log 9). -/
opaque retryHint : Nat → BitVec 16
/-- Misses that wait in the walk queue of an owner die in a cycle: the spec gives no cache of translations (R175, log 63). -/
opaque walkMisses : Nat → Nat → Nat
/-- What an uncorrectable error leaves in a place that carries no poison (R320, log 64). -/
opaque eccValue : Nat → W64
/-- What the source signed of a migration image, after decryption; an image is what a receive buffer holds, by offset (R358, R359, log 11). -/
opaque imageClear : List (Nat × Byte) → List Byte
/-- The signature that a migration image carries (R358, R359, log 11). -/
opaque imageSignature : List (Nat × Byte) → List Byte
/-- The public identity key of the package that a migration image comes from (R7, R358, log 11). -/
opaque identityKey : List (Nat × Byte) → List Byte
/-- The numbers of the VS guest that a migration image holds: its hart state and its memory (R358, R359, log 11). -/
opaque imageGuest : List (Nat × Byte) → List Nat
/-- Word `i` of a migration image after decryption (R358, R359, log 11). -/
opaque imageWord : List (Nat × Byte) → Nat → W64
/-- The numbers of the graph position that a migration image holds for a cluster: list 0 its dependency table, 1 its READY and 2 its WAITING records
(R358, R359, log 11). -/
opaque imageGraph : List (Nat × Byte) → Nat → Nat → List (List Nat)
/-- Whether the target of the n-th migration answers OK (R359, log 11). -/
opaque targetAnswers : Nat → Bool
/-- The tenant key M firmware draws at boot for the supervisor queue (R335, log 11). -/
opaque supervisorKey : Nat → W32

/-- The bytes, by location, that rebuilding a migration image writes in the target's memory (R359, log 11). -/
opaque imageBytes : List (Nat × Byte) → List (Nat × Byte)
/-- The image of a function with these contents, signed and encrypted under the key of the n-th transfer (R358, log 11). -/
opaque imageOut : List (List Nat) → Nat → List Byte

/-- The set of its L2 slice in which a line is held: the spec gives the slice alone (R154, R156, log 15). -/
opaque l2Set : Nat → Nat

/-- Typical figures are no part of the model: one FTB tick is two core cycles (R4). -/
def cyclesPerTick : Nat := 2
/-- Core cycles of one microsecond at 2.1 GHz (R4, R340). -/
def cyclesPerMicrosecond : Nat := 2100

end Sys2Proof.Config
end

