-- ==== Sys2Proof/Machine/Table.lean ====
section
/-! DEFINITION. Two plain data structures: a table sorted by key, and byte memory in canonical form. -/

namespace Sys2Proof.Machine

/-- A list of key and value pairs, keys rising. -/
structure Table (β : Type) where
  l : List (Nat × β)
deriving DecidableEq, Repr, Inhabited

/-- The table with nothing in it. -/
def Table.empty {β : Type} : Table β := ⟨[]⟩

/-- The value at key `k` of a sorted list. -/
def Table.findL {β : Type} : List (Nat × β) → Nat → Option β
  | [], _ => none
  | (k', v) :: r, k => if k' = k then some v else Table.findL r k

/-- Sorted insertion, replacing the value of an equal key. -/
def Table.setL {β : Type} : List (Nat × β) → Nat → β → List (Nat × β)
  | [], k, v => [(k, v)]
  | (k', w) :: r, k, v =>
    if k < k' then (k, v) :: (k', w) :: r
    else if k = k' then (k, v) :: r
    else (k', w) :: Table.setL r k v

/-- The value at `k`, if any. -/
def Table.find {β : Type} (t : Table β) (k : Nat) : Option β := Table.findL t.l k
/-- The value at `k`, or `d`. -/
def Table.get {β : Type} (t : Table β) (k : Nat) (d : β) : β := (t.find k).getD d
/-- Write key `k`. -/
def Table.set {β : Type} (t : Table β) (k : Nat) (v : β) : Table β := ⟨Table.setL t.l k v⟩
/-- Remove key `k`. -/
def Table.del {β : Type} (t : Table β) (k : Nat) : Table β := ⟨t.l.filter fun p => p.1 != k⟩
/-- The keys, rising. -/
def Table.keys {β : Type} (t : Table β) : List Nat := t.l.map (·.1)

/-- What a byte that nothing has written reads as (log 2). -/
def Memory.unlisted : Byte := 0

/-- Memory: (location, byte) pairs, locations strictly rising, no byte equal to `Memory.unlisted`. -/
structure Memory where
  cells : List Host.Cell
deriving DecidableEq, Repr, Inhabited

/-- The byte at a location of a cell list. -/
def Memory.readL : List Host.Cell → Nat → Byte
  | [], _ => Memory.unlisted
  | (k, b) :: r, a => if k = a then b else if a < k then Memory.unlisted else Memory.readL r a

/-- Write one byte, keeping the canonical form. -/
def Memory.writeL : List Host.Cell → Nat → Byte → List Host.Cell
  | [], a, b => if b = Memory.unlisted then [] else [(a, b)]
  | (k, c) :: r, a, b =>
    if a < k then (if b = Memory.unlisted then (k, c) :: r else (a, b) :: (k, c) :: r)
    else if a = k then (if b = Memory.unlisted then r else (a, b) :: r)
    else (k, c) :: Memory.writeL r a b

/-- Locations above `lo`, strictly rising, every byte listed for a reason. -/
def Memory.wfL : Nat → List Host.Cell → Bool
  | _, [] => true
  | lo, (k, b) :: r => decide (lo ≤ k) && (b != Memory.unlisted) && Memory.wfL (k + 1) r

/-- The canonical form. -/
def Memory.wf (m : Memory) : Bool := Memory.wfL 0 m.cells
/-- Read one byte (R14). -/
def Memory.read (m : Memory) (a : Nat) : Byte := Memory.readL m.cells a
/-- Write one byte. -/
def Memory.write (m : Memory) (a : Nat) (b : Byte) : Memory := ⟨Memory.writeL m.cells a b⟩

/-- Read `n` bytes little-endian (R14). -/
def Memory.readNat (m : Memory) (a : Nat) : Nat → Nat
  | 0 => 0
  | n + 1 => (m.read a).toNat + 256 * Memory.readNat m (a + 1) n

/-- Write `n` bytes little-endian (R14). -/
def Memory.writeNat (m : Memory) (a : Nat) : Nat → Nat → Memory
  | 0, _ => m
  | n + 1, v => Memory.writeNat (m.write a (BitVec.ofNat 8 v)) (a + 1) n (v / 256)

/-- Insert a number in a strictly rising list. -/
def insertSorted : List Nat → Nat → List Nat
  | [], a => [a]
  | k :: r, a => if a < k then a :: k :: r else if a = k then k :: r else k :: insertSorted r a

/-- Modify the element at an index. -/
def modifyAt {β : Type} : List β → Nat → (β → β) → List β
  | [], _, _ => []
  | b :: r, 0, f => f b :: r
  | b :: r, n + 1, f => b :: modifyAt r n f

end Sys2Proof.Machine
end

