-- ==== Sys2Proof/Machine/State.lean ====
section
/-! DEFINITION. The state of a GL4 package: everything the spec gives it, as plain data, and its reset value. -/

namespace Sys2Proof.Machine

/-- Why a run stops with a fault. -/
inductive Fault where
  /-- Raised by `step` alone, when the agenda names an instruction slot or a microprogram step, which only a bundle
  or a routine can run. Safe: the agenda is the model's own field, so the machine itself never comes here. -/
  | agendaNamesASlot
deriving DecidableEq, Repr

/-- Why an instruction has no outcome. -/
inductive Refusal where
  /-- Raised by an arm of `exec` with no meaning yet. Safe: nothing runs. -/
  | notModelled (mnemonic : String)
deriving DecidableEq, Repr

/-- The register files of R316, and `sr` for a status register that an SWR writes (R85). -/
inductive File where
  | x | y | v | q | g | n | m | sr
deriving DecidableEq, Repr, Inhabited

/-- One result on its way to a register (R71 to R75, R316). -/
structure Res where
  file : File
  idx : Nat
  val : Wide
  /-- the result is masked by `lanes` -/
  lm : Bool
  /-- lanes of a v register, bits of a q register, bytes of a g register -/
  lanes : W64
  /-- poisoned lanes; bit 0 for a scalar -/
  psn : W64
  flags : BitVec 5
  seq : Nat
  /-- bundle count of its producer (R75) -/
  iss : Nat
  /-- bundle count at which an n result lands (R273) -/
  bun : Nat
  /-- first cycle in which it may be seen; a distance while the context is frozen (R313) -/
  due : Nat
  fixed : Bool
  /-- parts that have not returned yet (R74) -/
  need : Nat
  /-- least sequence number of a result of a later bundle to the register that has landed (R75); 0 for none -/
  sup : Nat
  /-- the cycle at whose end a result of a later slot of the same bundle to the register landed (R75); 0 for none -/
  tie : Nat
  /-- the lanes that later slots of the bundle wrote in that cycle -/
  tied : W64
deriving DecidableEq, Repr, Inhabited

/-- A read-modify-write on one word or block (R183, R185). -/
inductive Rmw where
  | atom (v : Nat) (b : W64)
  | stver (exp data : W64)
  | barm (n : W64)
  | nextt (n wd : Nat)
  | post (own : Bool)
  | raise (own : Bool) (k : Nat)
deriving DecidableEq, Repr, Inhabited

/-- A pending local write of LSQ(c) (R179). Locations are home locations. -/
inductive LOp where
  | store (bytes : List (Nat × Byte))
  | rmw (loc : Nat) (op : Rmw)
deriving DecidableEq, Repr, Inhabited

/-- An entry of LSQ(c). -/
structure LEntry where
  op : LOp
  /-- sequence number of the result it returns -/
  seq : Nat
  /-- leaf entries whose D bit its write sets (R168) -/
  ptes : List Nat
  /-- performs only when every remote operation numbered below this has gone (R264 at a Release); 0 for none, 1 in the basket -/
  alone : Nat
deriving DecidableEq, Repr, Inhabited

/-- A remote operation (R185). Addresses are virtual; its owner translates it. -/
inductive ROp where
  /-- bytes of the range that the basket covers come from there (R207) -/
  | load (va len off : Nat) (ov : List (Nat × Byte))
  | store (bytes : List (Nat × Byte))
  | rst (bytes : List (Nat × Byte)) (flag : Nat)
  | rmw (va : Nat) (op : Rmw)
deriving DecidableEq, Repr, Inhabited

/-- An entry of ROUT(c): phase 0 not performed, 1 awaiting its flag increment, 2 ready to complete (R187). -/
structure REntry where
  id : Nat
  op : ROp
  seq : Nat
  phase : Nat
  /-- performs only when the LSQ has performed this many entries and every older remote operation has gone (R264 at a Release) -/
  alone : Option Nat
  /-- predictions outstanding at its issue (R458) -/
  arm : Nat
  /-- the value it returns, and poison -/
  val : Wide
  psn : W64
deriving DecidableEq, Repr, Inhabited

/-- A copy or gather command (R405). Kinds 0 CPY, 1 CPYS, 2 CPYG, 3 CPYR. -/
structure CopyCmd where
  kind : Nat
  desc : Nat
  vf : Nat
  ctx : Nat
  pc : Nat
  mark : Nat
  rcd : Nat
  /-- issued on a deterministic queue, and the cycle of issue (R276) -/
  det : Bool
  born : Nat
deriving DecidableEq, Repr, Inhabited

/-- Progress of a running copy (R406). -/
structure CopyRun where
  d : List W64
  pos : Nat
  done : Nat
  errs : Nat
  addr : Nat
  status : Nat
  tries : Nat
  wait : Nat
  /-- 0 accesses, 1 flag increment outstanding, 2 finished, 3 the read of the descriptor has been refused -/
  phase : Nat
  since : Nat
  /-- the index of the present element and whether it is poisoned, once its request has passed (R408) -/
  idx : Option (Nat × Bool)
  /-- the bytes read for the present destination, with their poison, once the request for the source has passed (R175) -/
  buf : Option (List (Byte × Bool))
  /-- destination dwords, by location / 8, that this command has poisoned (R322) -/
  bads : List Nat
deriving DecidableEq, Repr, Inhabited

/-- A matrix command with the copies taken at its issue (R232). -/
structure MatCmd where
  routine : Nat
  bank : Nat
  tag : W64
  m : Vector W64 8
  g : Vector (BitVec 128) 8
  vf : Nat
  ctx : Nat
  pc : Nat
  mark : Nat
  rcd : Nat
  /-- TASK scope value of R242 -/
  task : W64
  /-- issued on a deterministic queue (R276) -/
  det : Bool
  /-- schedule cycle of its bundle (R371) -/
  scyc : Nat
deriving DecidableEq, Repr, Inhabited

/-- Working state of a running routine (R221). -/
structure MatRun where
  word : Nat
  sel : Nat
  banks : BitVec 4
  rgv : Bool
  rgf : Nat
  rgc : Nat
  rgw : Nat
  re : Bool
  zs : Bool
  /-- address of the last ragged record read -/
  rga : Nat
  /-- first body word, last body word, passes left -/
  loops : List (Nat × Nat × Nat)
  steps : Nat
  done : Nat
  errs : Nat
  /-- first address in error, plus 1; 0 for none -/
  addr : Nat
  clip : Nat
  poisoned : Bool
  clipped : Bool
  /-- refusals of the present access, and the tick before which it is not sent again (R175) -/
  tries : Nat
  wait : Nat
  /-- ended: status and address of the record -/
  ended : Option (Nat × Nat)
  /-- rows of the present ADRAIN already written -/
  row : Nat
  /-- the cycle from which the present step may begin (R237, R238) -/
  cost : Nat
  /-- the class of the step that began last (R237) -/
  cls : Nat
  /-- cycles of the rows that the present step has streamed, and its cycles of waiting for generator values (R238, R386) -/
  cyc : Nat
  genWait : Nat
  /-- the last cycles before `cost` in which the step that began last waits for generator values (R237, R386, R490) -/
  tail : Nat
deriving DecidableEq, Repr, Inhabited

/-- A collective command (R302). -/
structure CollCmd where
  idx : Nat
  t0 : Nat
  vf : Nat
  ctx : Nat
  pc : Nat
  mark : Nat
  rcd : Nat
deriving DecidableEq, Repr, Inhabited

/-- Progress of a collective (R305, R306). -/
structure CollRun where
  entry : Nat
  /-- 0 the next entry is due, 1 its flag increment is outstanding -/
  phase : Nat
  done : Nat
  errs : Nat
  status : Nat
  addr : Nat
  tries : Nat
  wait : Nat
  ended : Bool
deriving DecidableEq, Repr, Inhabited

/-- A completion record (R159): its four dwords. -/
structure CRec where
  w0 : W64
  w1 : W64
  w2 : W64
  w3 : W64
  /-- virtual function of the command, for R270 and R333 -/
  vf : Nat
deriving DecidableEq, Repr, Inhabited

/-- A request of LAUNCH or DISPATCH on its way (R266). -/
structure LaunchReq where
  dispatch : Bool
  desc : Nat
  xb : W64
  vf : Nat
  core : Nat
  ctx : Nat
  /-- the record the issuing context ran -/
  rcd : Nat
  seq : Nat
  don : Bool
  /-- waits until LSQ and ROUT of the context are empty (R294) -/
  held : Bool
deriving DecidableEq, Repr, Inhabited

/-- An effect held in the basket (R207). -/
inductive Held where
  /-- the memory effects of one slot: local entries, remote entries -/
  | mem (ls : List LEntry) (rs : List REntry)
  | copy (e : Engine) (c : CopyCmd)
  | mcall (c : MatCmd) (reject : Bool)
  | launch (r : LaunchReq)
deriving DecidableEq, Repr, Inhabited

/-- Result of an agreement instance (R289). -/
structure AgrRes where
  word : W64
  pres : BitVec 1024
  mism : BitVec 1024
  /-- mismatch policy TARGET of the group (R282) -/
  mm : Bool
deriving DecidableEq, Repr, Inhabited

/-- An agreement result slot (R286). -/
structure AgrSlot where
  ticket : W64
  seq : Nat
  res : Option AgrRes
deriving DecidableEq, Repr, Inhabited

/-- The register state that an ABRP checkpoint holds (R293). -/
structure Regs where
  x : Vector W64 32
  y : Vector W64 32
  v : Vector Wide 32
  q : Vector W64 8
  m : Vector W64 8
  g : Vector (BitVec 128) 8
  xp : BitVec 32
  yp : BitVec 32
  vp : Vector W64 32
  /-- hold latches, numbered as the save area orders them (R368) -/
  latch : Vector Wide 16
  latchp : Vector W64 16
  schk : Bool
  rm : BitVec 3
  fpflags : BitVec 5
  srstream : W64
  loopCnt : W64
  loopBegin : W64
  loopEnd : W64
  watchLo : W64
  watchHi : W64
  watchMask : W64
  agrGroup : BitVec 16
  slots : List AgrSlot
deriving DecidableEq, Repr, Inhabited

/-- An outstanding ABRP prediction (R292, R293, R380). -/
structure Pred where
  regs : Regs
  seq : Nat
  dir : Bool
  ticket : W64
  target : Nat
  /-- mismatch target, when field M is not 0 -/
  xm : Option Nat
  bundle : Nat
  after : Nat
  pending : Option Nat
  /-- the taken BRC of the ABRP's bundle (R78) -/
  other : Option Nat
deriving DecidableEq, Repr, Inhabited

/-- A save area (R49): the core that its record resumes on, its first 4 KiB unit as an address / 4096, and its length in units. -/
structure SaveRef where
  core : Nat
  unit : Nat
  units : Nat
deriving DecidableEq, Repr, Inhabited

/-- What a context is doing (R42, R313, R34). -/
inductive Phase where
  | idle | loading | run | stopping | frozen | leaving
deriving DecidableEq, Repr, Inhabited

/-- Why a bundle is held (R43, R74). -/
inductive HoldKind where
  | none | engine | interlock | abr
deriving DecidableEq, Repr, Inhabited

/-- A stop that has been taken (R311 to R313). -/
structure Stop where
  cause : Nat
  /-- 0 the handler answers, 1 the sequencer evicts (R52, R53), 2 a handler asked for the eviction (R319), 3 stands with member
  0's STEP (R366) -/
  plan : Nat
  /-- the cycle F of R313 -/
  f : Nat
  /-- the trap entry has been sent -/
  sent : Bool
deriving DecidableEq, Repr, Inhabited

/-- What a CWAIT or WFE that is held watches for (R412, R489). -/
structure Wait where
  loc : Nat
  /-- CWAIT: the value the word must reach; none for the line of WFE.W -/
  target : Option W64
  hit : Bool
  since : Nat
deriving DecidableEq, Repr, Inhabited

/-- What the error counters of a context counted in one cycle (R85). -/
structure Tally where
  cyc : Nat
  multibr : W32
  ragged : W32
  unsup : W32
  raise : W32
deriving DecidableEq, Repr, Inhabited

/-- A bundle that member 0 of a gang has issued, for a follower (R275). -/
structure GangItem where
  /-- the slots that member 0 fetched, with their addresses -/
  ws : List (Nat × W32)
  cyc : Nat
  takenK : Option Nat
  takenY : Option Nat
  /-- member 0's loop registers after the slots of the bundle -/
  loop : W64 × W64 × W64
deriving DecidableEq, Repr, Inhabited

/-- A pinned line (R156): home line, virtual line and IPA line, whether in the L1 too, and whether it is still pinned: a line whose
translation was invalidated keeps counting (R158). -/
structure Pin where
  line : Nat
  va : Nat
  ipa : Nat
  l1 : Bool
  live : Bool
deriving DecidableEq, Repr, Inhabited

/-- One context (R41). -/
structure Ctx where
  r : Regs
  n : Vector W64 4
  np : BitVec 4
  nrot : BitVec 2
  pc : Nat
  pending : Option Nat
  phase : Phase
  /-- address of the running record and its words at pick-up -/
  rcd : Nat
  words : Vector W64 8
  vf : Nat
  part : Nat
  prv : Bool
  seqr : Bool
  tmem : BitVec 3
  posted : Bool
  /-- JCB field and index of word 1 (R25) -/
  jcb : BitVec 48
  idx : BitVec 16
  errMultibr : W32
  errRagged : W32
  errUnsup : W32
  errRaise : W32
  tally : Tally
  trapCause : W64
  trapPc : W64
  trapAddr : W64
  trapSrc : W64
  lockQuota : W64
  /-- the node's lock quota, which LOCK_QUOTA takes at each pick-up (R157) -/
  lquo : Nat
  pins : List Pin
  ltag : BitVec 16
  inflight : List Res
  /-- the distances of `inflight` are relative until the first bundle of a resumption issues (R317) -/
  replay : Bool
  nextSeq : Nat
  bundles : Nat
  nextIssue : Nat
  scyc : Nat
  /-- address and schedule cycle of the bundle that issued last (R371) -/
  ran : Nat × Nat
  stepMode : Bool
  lsq : List LEntry
  /-- entries of the LSQ performed so far: marks count on from it (R188) -/
  lsqDone : Nat
  rout : List REntry
  basket : List (Nat × Held)
  preds : List Pred
  held : HoldKind
  /-- the CWAIT of the held bundle, and its WFE (R412, R489) -/
  wait : Option Wait
  wfe : Option Wait
  /-- the cycle in which a held FENCER of a deterministic queue was first presented (R421) -/
  fence : Option Nat
  /-- a stop stood while a WFE was held: it issues at once (R489) -/
  resumed : Bool
  stop : Option Stop
  wsk : Bool
  /-- an agreement trap that stands at the next boundary (R296): cause and ticket -/
  agrTrap : Option (Nat × W64)
  /-- a watch report on its way: perform cycle, address, source, MORE, bundles since; arrived? -/
  report : Option (Nat × Nat × W64 × Bool × Nat × Bool)
  /-- a kill report on its way (R458): address, predictions outstanding at its bundle, and whether it has arrived -/
  killReport : Option (Nat × Nat × Bool)
  /-- leaving: TEND-like end?, word 6, PC to write (R35) -/
  leave : Option (Bool × W64 × Nat)
  /-- the save area that a restore under way reads (R49) -/
  save : Option SaveRef
  /-- the loop registers as they stood before a LOOP, which an SRD in its delay bundle reads: the bundle count of the LOOP,
  LOOP_CNT, LOOP_BEGIN, LOOP_END (R431) -/
  loopOld : Option (Nat × W64 × W64 × W64)
  picked : Nat
  /-- quantum start, team key, team size; node footprint (R53, R149) -/
  quantum : Nat
  team : Nat
  tsize : Nat
  foot : Nat
  fslot : Nat
  gang : List GangItem
  /-- member 0's context in a gang, when this context follows it -/
  leader : Option Nat
  /-- this quantum goes before every PRIO (R54) -/
  promoted : Bool
  /-- the save areas in use when this context's eviction found no free run; it is tried again when one of them frees (R49) -/
  barred : Option (List SaveRef)
deriving DecidableEq, Repr, Inhabited

/-- One physical core's shared state, by exposed number; sequencer cores use only part of it (R41, R82, R209). -/
structure CoreSt where
  issuing : Option Nat
  lastIssue : Option Nat
  /-- a switch in progress: the chosen context and the cycle in which it issues (R44) -/
  switching : Option (Nat × Nat)
  phys : Nat
  exposed : Bool
  spk : Nat
  store : Table W64
  library : Bool
  /-- MPWR writes: effective cycle, word index, value (R438) -/
  mpw : List (Nat × Nat × W64)
  mpwBase : W64
  mpwLimit : W64
  cells : Table Nat
  scales : Table Nat
  latch : Option Nat
  mxOn : Bool
  wnf : BitVec 4
  /-- poisoned weights: the source address of the first -/
  wpsn : Option Nat
  wuser : Option Nat
  banks : Table W32
  bankPsn : List Nat
  ver : Vector (BitVec 16) 4
  user : Vector (Option Nat) 4
  mq : List MatCmd
  mrun : Option MatRun
  cq : List CopyCmd
  crun : Option CopyRun
  gq : List CopyCmd
  grun : Option CopyRun
  kq : List CollCmd
  krun : Option CollRun
  origin : Nat
  errEcc : W32
  /-- what ERR_ECC counted in a cycle: the cycle and the count (R85) -/
  eccTally : Nat × W32
  retiring : Bool
deriving DecidableEq, Repr, Inhabited

/-- An entry of a dependency table (R259). -/
structure DepEntry where
  desc : List W64
  addr : Nat
  first : Nat
  count : Nat
  vf : Nat
  part : Nat
  core : Nat
  ctx : Nat
  /-- instances done with -/
  done : List Nat
  /-- inputs found ready: instance, mask and the cycle in which the last of them was found (R258, R260) -/
  found : List (Nat × BitVec 3 × Nat)
  /-- the cycle in which the request was entered (R269) -/
  born : Nat
deriving DecidableEq, Repr, Inhabited

/-- A record the sequencer holds: READY, EVICTED or WAITING (R52). -/
structure RecRef where
  addr : Nat
  vf : Nat
  part : Nat
  foot : Nat
  fslot : Nat
  lquo : Nat
  team : Nat
  tsize : Nat
  member : Nat
  prio : Nat
  det : Bool
  stamp : Nat
  evicted : Option SaveRef
  /-- promoted above every PRIO (R54) -/
  promoted : Bool
deriving DecidableEq, Repr, Inhabited

/-- One cluster's sequencer hardware (R256). -/
structure ClusterSt where
  evq : List CRec
  /-- records of the sequencer's own that wait for a place in the event queue (R161) -/
  late : List CRec
  dep : List DepEntry
  ready : List RecRef
  waiting : List RecRef
  reqs : List LaunchReq
  errLaunch : W32
deriving DecidableEq, Repr, Inhabited

/-- A pending flag increment (R186): who waits for it. -/
structure Incr where
  loc : Nat
  /-- virtual address, translated when it falls due, for a CPYR and a completion flag -/
  va : Option Nat
  vf : Nat
  ctx : Option (Nat × Nat)
  copy : Option Nat
deriving DecidableEq, Repr, Inhabited

/-- A page move of the tier engine (R354). -/
structure Move where
  pte : Nat
  src : Nat
  dst : Nat
  size : Nat
  up : Bool
  part : Nat
deriving DecidableEq, Repr, Inhabited

/-- Per-die state. -/
structure DieSt where
  flags : List Incr
  replace : Bool
  spares : List Nat
  moves : List Move
deriving DecidableEq, Repr, Inhabited

/-- A partition (R340, R352, R353). -/
structure Part where
  desc : Vector W64 8
  next : Option (Vector W64 8)
  tenant : Option Nat
  incoming : Option Nat
  /-- the function that a switch under way takes out -/
  outgoing : Option Nat
  /-- a SWITCH command of the ring waits for this switch -/
  cmdWaits : Bool
  sliceStart : Nat
  /-- a switch in progress since this FTB tick -/
  tick : Option Nat
  saved : BitVec 4
  /-- dies whose residency gate is open (R356) -/
  gates : BitVec 4
  swapping : Bool
  /-- dies whose outgoing working set has been noted (R354), and dies whose up-swap has ended (R356) -/
  noted : BitVec 4
  upDone : BitVec 4
  overrun : W32
  cmiss : Nat
  reset : Bool
deriving DecidableEq, Repr, Inhabited

/-- A member entry and its sequence number (R281, R282). -/
structure Member where
  live : Bool
  pkg : Nat
  die : Nat
  core : Nat
  next : Nat
deriving DecidableEq, Repr, Inhabited

/-- An unresolved instance of a group (R298). -/
structure Inst where
  seq : Nat
  first : Nat
  /-- contributions that have arrived -/
  got : List Contribution
  /-- members found absent while they were missing: a contribution of one that arrives later is answered and not present (R298, R300) -/
  gone : List Nat
deriving DecidableEq, Repr, Inhabited

/-- An agreement group (R281, R282). -/
structure Group where
  vf : Nat
  gid : Nat
  op : Nat
  excl : Bool
  mm : Bool
  k : Nat
  late : Nat
  gen : BitVec 32
  addr : Nat
  members : List Member
  insts : List Inst
  /-- resolved instances: sequence number and result -/
  past : List (Nat × AgrRes)
  /-- this package cannot reach the root (R285) -/
  cut : Bool
deriving DecidableEq, Repr, Inhabited

/-- A result on its way to a context (R286); a context of 4,096 or more is a save number, for a record that is EVICTED (R297). -/
structure AgrMsg where
  ctx : Nat
  ticket : W64
  seq : Nat
  res : AgrRes
deriving DecidableEq, Repr, Inhabited

/-- A trap entry (R318). -/
structure TrapEntry where
  cause : Nat
  act : Bool
  ctx : Nat
  vf : Nat
  rcd : Nat
  pc : Nat
  addr : W64
  src : W64
deriving DecidableEq, Repr, Inhabited

/-- A work queue (R347). -/
structure WorkQueue where
  vf : Nat
  ring : W64
  lastSeq : W64
  badTag : W32
  replay : W32
  key : BitVec 256
  pi : W32
deriving DecidableEq, Repr, Inhabited

/-- A graph position: what a cluster's sequencer keeps of a function's work (R51, R259, R352). -/
structure Graph where
  dep : List DepEntry
  ready : List RecRef
  waiting : List RecRef
deriving DecidableEq, Repr, Inhabited

/-- A virtual function (R341): its descriptor's dwords, its trap queue's indices, whether a migration is in progress, the graph positions
saved at operator boundaries, by cluster (R352, R358), and its Ultra Ethernet endpoint address (R358). -/
structure VfSt where
  d : Vector W64 16
  tqProd : Nat
  tqCons : Nat
  migrating : Bool
  graph : Table Graph
  endpoint : W64
deriving DecidableEq, Repr, Inhabited

/-- A function as another package of the job installs it: the dwords of its descriptor there, and the channels of its partition there, which are
dword 6 of that description (R165, R166, R340, R341). -/
structure FarVf where
  d : Vector W64 16
  channels : W64
deriving DecidableEq, Repr, Inhabited

/-- What a SEND entry of a collective puts on a link inside the package (R303, R304): participants are dies 0 to 3 and 4 for the
hub; element codes, block scales, and the poisoned dwords of the FP32 data. -/
structure Payload where
  src : Nat
  dst : Nat
  idx : Nat
  chunk : Nat
  fmt : Nat
  data : List Nat
  scales : List Nat
  psn : List Nat
deriving DecidableEq, Repr, Inhabited

/-- A saved accumulator bank (R49). -/
structure SavedBank where
  bank : Nat
  words : List (Nat × W32)
  psn : List Nat
  ver : BitVec 16
deriving DecidableEq, Repr, Inhabited

/-- Saved weights with their latch (R49, R50). -/
structure SavedWeights where
  cells : Table Nat
  scales : Table Nat
  latch : Option Nat
  mxOn : Bool
  wnf : BitVec 4
  wpsn : Option Nat
deriving DecidableEq, Repr, Inhabited

/-- What the ENG region of a save area holds, in a form that only the device restores (R368). -/
structure Saved where
  ctx : Ctx
  banks : List SavedBank
  weights : Option SavedWeights
  /-- tile slots held, with their O bits -/
  tiles : List (Nat × Bool)
deriving DecidableEq, Repr, Inhabited

/-- The levels of a hart (R334). -/
inductive Level where
  | m | hs | vs | u
deriving DecidableEq, Repr, Inhabited

/-- One RV64 hart of the supervisor complex (R334): its level, the function whose guest it runs, and its registers; control and status registers by
number (log 84). -/
structure Hart where
  level : Level
  guest : Option Nat
  pc : W64
  x : Vector W64 32
  csr : Table W64
deriving DecidableEq, Repr, Inhabited

/-- The VS guest of a function (R334, R358): the state of its hart while no hart runs it, and its memory by address. -/
structure Guest where
  hart : Hart
  mem : Table Byte
deriving DecidableEq, Repr, Inhabited

/-- The decisions of HS that the device does not itself record (R350): the hart on which a function's guest is placed, handler registrations by function,
and consumer indices by work queue. -/
structure Decisions where
  place : Table Nat
  handler : Table W64
  consumer : Table W64
deriving DecidableEq, Repr, Inhabited

/-- An entry of the mending journal (R350). -/
inductive JEntry where
  | cmd (w : Vector W64 8)
  | place (vf : Nat) (hart : Option Nat)
  | handler (vf : Nat) (a : W64)
  | consumer (q : Nat) (v : W64)
deriving DecidableEq, Repr, Inhabited

/-- The hub (R334 to R351, R370 to R373). -/
structure HubSt where
  cmdBase : W64
  cmdSize : Nat
  cmdPi : W64
  cmdCi : W64
  trespIgn : W64
  bootFail : Bool
  supDown : Bool
  hbeat : Vector W64 8
  /-- the mending journal since its last checkpoint: the copies in the far tier of die 0 and of die 2, what HS had decided at the checkpoint, and the
  commands that the journal has taken so far (R350) -/
  journal : List JEntry
  mirror : List JEntry
  checkpoint : Decisions
  begun : Nat
  /-- what HS has decided, as the live harts know it (R350) -/
  hs : Decisions
  harts : Vector Hart 8
  guests : Table Guest
  /-- responses of guests whose hart is in reset: function and value (R349) -/
  heldResp : List (Nat × W64)
  /-- a command that has begun and waits, such as SWITCH, INVAL or CORE_RETIRE (R337), with the LSQ marks that an INVAL waits for -/
  waiting : Option (List (Nat × Nat))
  parts : Table Part
  vfs : Table VfSt
  /-- functions as the other packages of the job install them, by package * 128 + function -/
  farVfs : Table FarVf
  groups : Table Group
  /-- schedules by partition * 2^20 + core * 256 + index, core 512 being the hub reducer: table address -/
  scheds : Table Nat
  queues : Table WorkQueue
  /-- BADTAG of queues that are not valid (R346) -/
  badTags : Table W32
  traps : List TrapEntry
  /-- HS's trap queue: the entries between its consumer index and its producer index, the two indices, and its slots (R343) -/
  hsq : List TrapEntry
  hsProd : Nat
  hsCons : Nat
  hsSlots : Nat
  vsIrq : List Nat
  /-- the hart to which an HS external interrupt is raised (R343) -/
  hsIrq : Option Nat
  hartRun : BitVec 8
  hartSeen : Vector Nat 8
  /-- boots so far, each of which draws a key for the supervisor queue (R335) -/
  images : Nat
  booted : Bool
  fuse : W32
  /-- the SHA3-512 hash of the Salusk public key, fused (R339) -/
  fuseKey : BitVec 512
  /-- the firmware image of the module's flash (R339) -/
  flash : Option Image
  peers : Table (BitVec 3)
  /-- packages whose path is lost, and 1,024 + d for compute die d of this package (R300) -/
  lost : List Nat
  membership : List Nat
  /-- the package's number in the job, and the one under which its memory is kept: they differ after a MIGRATE_IN (R359, log 79) -/
  pkg : Nat
  home : Nat
  dbgCtl : W64
  trBase : W64
  trSize : Nat
  trPi : W64
  trCi : W64
  trDrop : W64
  smask : Vector W64 4
  mfAddr : W64
  errcnt : Table W64
  mclass : Table W64
  /-- the cycle of the last trace samples (R371) -/
  lastSample : Nat
  payloads : List Payload
  /-- what has left the package: UALink port, bytes, and the poisoned dwords of the FP32 data; from 32 on an image that goes to the Ultra Ethernet peer
  whose address is the number less 32 (R359) -/
  sent : List (Nat × List Byte × List Nat)
  /-- the cycle of the last power-on, from which idle engine cycles count (R372) -/
  epoch : Nat
deriving DecidableEq, Repr, Inhabited

/-- The bundle being issued: the model's own scratch (log 6). -/
structure Issue where
  /-- the checks of the bundle have been made: `exec` of a slot applies its effect -/
  checked : Bool
  bundle : Nat
  slot : Nat
  /-- address of the slot after the stop slot -/
  after : Nat
  pfxi : Option (BitVec 21)
  pfxp : Option (BitVec 3 × BitVec 5)
  pfxiBad : Bool
  vec : Nat
  takenK : Option Nat
  takenY : Option Nat
  /-- the bundle holds a SUSPEND of KIND JCB (R268) -/
  don : Bool
  /-- a stop of kind after: lowest cause so far -/
  stopAfter : Option Nat
  /-- a prediction made by this bundle -/
  pred : Option Pred
  leave : Option (Bool × W64)
  /-- the hold latches as the bundle found them, and their poison (R69) -/
  latches : Option (Vector Wide 16 × Vector W64 16)
deriving DecidableEq, Repr, Inhabited

/-- What the agenda asks of a step (log 6): an event, or that the clock goes on: the bundle whose turn it is issues or, with none, one
cycle passes, and no event takes place. -/
inductive Act where
  | ev (i : Instr)
  | clock
deriving DecidableEq, Repr, Inhabited

/-- The machine. -/
structure State where
  now : Nat
  agenda : List Act
  fresh : Nat
  cur : Nat
  /-- engine whose microprogram step runs: core -/
  eng : Nat
  iss : Issue
  ctxs : Table Ctx
  cores : Table CoreSt
  clusters : Table ClusterSt
  dies : Table DieSt
  mem : Memory
  /-- poisoned aligned dwords, by location / 8, rising (R320) -/
  poison : List Nat
  /-- tile slots by core * 2048 + slot: HOLD (context 0 to 3, or 4 for none), O, TEN, draining (R148, R149) -/
  slots : Table (Nat × Bool × Option Nat × Bool)
  contribs : List Contribution
  msgs : List AgrMsg
  /-- basket, checkpoints, banks and weights saved under R49, by save number -/
  saved : Table Saved
  /-- misses that wait in the walk queue of an owner, by die number: a free value of each cycle (R175, log 63) -/
  walks : Vector Nat 4
  hub : HubSt
deriving DecidableEq, Repr, Inhabited

/-- Register state with every register zero (R33). -/
def Regs.zero : Regs where
  x := Vector.replicate 32 0
  y := Vector.replicate 32 0
  v := Vector.replicate 32 0
  q := Vector.replicate 8 0
  m := Vector.replicate 8 0
  g := Vector.replicate 8 0
  xp := 0
  yp := 0
  vp := Vector.replicate 32 0
  latch := Vector.replicate 16 0
  latchp := Vector.replicate 16 0
  schk := false
  rm := 0
  fpflags := 0
  srstream := 0
  loopCnt := 0
  loopBegin := 0
  loopEnd := 0
  watchLo := 0
  watchHi := 0
  watchMask := 0
  agrGroup := 0
  slots := []

/-- A context that holds no record. -/
def Ctx.idle : Ctx where
  r := Regs.zero
  n := Vector.replicate 4 0
  np := 0
  nrot := 0
  pc := 0
  pending := none
  phase := .idle
  rcd := 0
  words := Vector.replicate 8 0
  vf := 0
  part := 0
  prv := false
  seqr := false
  tmem := 0
  posted := false
  jcb := 0
  idx := 0
  errMultibr := 0
  errRagged := 0
  errUnsup := 0
  errRaise := 0
  tally := ⟨0, 0, 0, 0, 0⟩
  trapCause := 0
  trapPc := 0
  trapAddr := 0
  trapSrc := 0
  lockQuota := 0
  lquo := 0
  pins := []
  ltag := 0
  inflight := []
  replay := false
  nextSeq := 1
  bundles := 0
  nextIssue := 0
  scyc := 0
  ran := (0, 0)
  stepMode := false
  lsq := []
  lsqDone := 0
  rout := []
  basket := []
  preds := []
  held := .none
  wait := none
  wfe := none
  fence := none
  resumed := false
  stop := none
  wsk := false
  agrTrap := none
  report := none
  killReport := none
  leave := none
  save := none
  loopOld := none
  picked := 0
  quantum := 0
  team := 0
  tsize := 0
  foot := 0
  fslot := 0
  gang := []
  leader := none
  promoted := false
  barred := none

/-- A core with empty engines and zero array (R210, R236). -/
def CoreSt.zero : CoreSt where
  issuing := none
  lastIssue := none
  switching := none
  phys := 0
  exposed := true
  spk := 0
  store := Table.empty
  library := false
  mpw := []
  mpwBase := 0
  mpwLimit := 0
  cells := Table.empty
  scales := Table.empty
  latch := none
  mxOn := false
  wnf := 0
  wpsn := none
  wuser := none
  banks := Table.empty
  bankPsn := []
  ver := Vector.replicate 4 0
  user := Vector.replicate 4 none
  mq := []
  mrun := none
  cq := []
  crun := none
  gq := []
  grun := none
  kq := []
  krun := none
  origin := 0
  errEcc := 0
  eccTally := (0, 0)
  retiring := false

/-- A cluster with empty tables. -/
def ClusterSt.zero : ClusterSt := ⟨[], [], [], [], [], [], 0⟩

/-- A die with four spare cores (R2). -/
def DieSt.zero : DieSt := ⟨[], false, [64, 65, 66, 67], []⟩

/-- A hart before its first instruction: at level M. -/
def Hart.zero : Hart := ⟨.m, none, 0, Vector.replicate 32 0, Table.empty⟩
/-- A guest before its first instruction. -/
def Guest.zero : Guest := ⟨{ Hart.zero with level := .vs }, Table.empty⟩
/-- HS has decided nothing. -/
def Decisions.none : Decisions := ⟨Table.empty, Table.empty, Table.empty⟩

/-- The hub at reset (R338, R370): every register at the reset value its map gives. -/
def HubSt.zero : HubSt where
  cmdBase := 0
  cmdSize := 4
  cmdPi := 0
  cmdCi := 0
  trespIgn := 0
  bootFail := false
  supDown := false
  hbeat := Vector.replicate 8 0
  journal := []
  mirror := []
  checkpoint := Decisions.none
  begun := 0
  hs := Decisions.none
  harts := Vector.replicate 8 Hart.zero
  guests := Table.empty
  heldResp := []
  waiting := none
  parts := Table.empty
  vfs := Table.empty
  farVfs := Table.empty
  groups := Table.empty
  scheds := Table.empty
  queues := Table.empty
  badTags := Table.empty
  traps := []
  hsq := []
  hsProd := 0
  hsCons := 0
  hsSlots := 65535
  vsIrq := []
  hsIrq := none
  hartRun := 1
  hartSeen := Vector.replicate 8 0
  images := 0
  booted := false
  fuse := 0
  fuseKey := 0
  flash := none
  peers := Table.empty
  lost := []
  membership := [0, 1, 2, 3]
  pkg := 0
  home := 0
  dbgCtl := 0x0040000000000000
  trBase := 0
  trSize := 7
  trPi := 0
  trCi := 0
  trDrop := 0
  smask := Vector.replicate 4 0
  mfAddr := 0
  errcnt := Table.empty
  mclass := Table.empty
  lastSample := 0
  payloads := []
  sent := []
  epoch := 0

/-- No bundle is being issued. -/
def Issue.none : Issue where
  checked := false
  bundle := 0
  slot := 0
  after := 0
  pfxi := Option.none
  pfxp := Option.none
  pfxiBad := false
  vec := 0
  takenK := Option.none
  takenY := Option.none
  don := false
  stopAfter := Option.none
  pred := Option.none
  leave := Option.none
  latches := Option.none

/-- The machine right after reset: no context holds a record, memory lists nothing (log 1 to 6). -/
def State.reset : State where
  now := 0
  agenda := []
  fresh := 0
  cur := 0
  eng := 0
  iss := Issue.none
  ctxs := Table.empty
  cores := Table.empty
  clusters := Table.empty
  dies := Table.empty
  mem := ⟨[]⟩
  poison := []
  slots := Table.empty
  contribs := []
  msgs := []
  saved := Table.empty
  walks := Vector.replicate 4 0
  hub := HubSt.zero

end Sys2Proof.Machine
end

