-- ==== Sys2Proof/Machine/Ops.lean ====
section
/-! DEFINITION. The named operations over registers, memory, translation and the queues of a context that every
meaning uses, and taking a trap and answering one. -/

namespace Sys2Proof.Machine

/-! ### Names of the parts -/

/-- Core of a context number: core * 4 + context. -/
def coreOf (c : Nat) : Nat := c / 4
/-- Cores from 256 on are the cluster sequencers: 256 + die * 8 + cluster. -/
def isSeq (k : Nat) : Bool := decide (256 ≤ k)
/-- Die of a core. -/
def dieOf (k : Nat) : Nat := if 256 ≤ k then (k - 256) / 8 else k / 64
/-- Exposed core number, 0 to 63; on a sequencer bits 5:3 name the cluster (R87). -/
def exposedOf (k : Nat) : Nat := if 256 ≤ k then (k - 256) % 8 * 8 else k % 64
/-- Cluster number over the package: die * 8 + cluster. -/
def clusterOf (k : Nat) : Nat := if 256 ≤ k then k - 256 else k / 64 * 8 + k % 64 / 8

/-- A core in its first state (R2, R87). -/
def coreDefault (k : Nat) : CoreSt := { CoreSt.zero with phys := if 256 ≤ k then 0x7F else k % 64 }

/-- Context c. -/
def State.ctx (s : State) (c : Nat) : Ctx := s.ctxs.get c Ctx.idle
/-- Replace context c. -/
def State.setCtx (s : State) (c : Nat) (x : Ctx) : State := { s with ctxs := s.ctxs.set c x }
/-- Change context c. -/
def State.modCtx (s : State) (c : Nat) (f : Ctx → Ctx) : State := s.setCtx c (f (s.ctx c))
/-- Core k. -/
def State.core (s : State) (k : Nat) : CoreSt := s.cores.get k (coreDefault k)
/-- Replace core k. -/
def State.setCore (s : State) (k : Nat) (x : CoreSt) : State := { s with cores := s.cores.set k x }
/-- Change core k. -/
def State.modCore (s : State) (k : Nat) (f : CoreSt → CoreSt) : State := s.setCore k (f (s.core k))
/-- Cluster cl. -/
def State.cluster (s : State) (cl : Nat) : ClusterSt := s.clusters.get cl ClusterSt.zero
/-- Change cluster cl. -/
def State.modCluster (s : State) (cl : Nat) (f : ClusterSt → ClusterSt) : State :=
  { s with clusters := s.clusters.set cl (f (s.cluster cl)) }
/-- Die d. -/
def State.die (s : State) (d : Nat) : DieSt := s.dies.get d DieSt.zero
/-- Change die d. -/
def State.modDie (s : State) (d : Nat) (f : DieSt → DieSt) : State := { s with dies := s.dies.set d (f (s.die d)) }
/-- Change the hub. -/
def State.modHub (s : State) (f : HubSt → HubSt) : State := { s with hub := f s.hub }
/-- The FTB count (R4, log 4). -/
def State.ftb (s : State) : Nat := s.now / Config.cyclesPerTick
/-- Next number of the counter of free values. -/
def State.bump (s : State) : State := { s with fresh := s.fresh + 1 }
/-- (a - b) mod 2^64 < 2^63, the wrap rule of R28. -/
def reached (a b : W64) : Bool := decide ((a - b).toNat < 2 ^ 63)
/-- Is condition c true, and if so apply f. -/
def whenS (c : Bool) (f : State → State) (s : State) : State := if c then f s else s

/-- Dword i of a partition's description (R340). -/
def State.partWord (s : State) (p i : Nat) : Nat :=
  match s.hub.parts.find p with
  | none => 0
  | some q => (q.desc.toList.getD i 0).toNat
/-- Does partition p hold core k: an exposed core, or for a sequencer any core of its cluster (R340)? -/
def State.partHolds (s : State) (p k : Nat) : Bool :=
  let w := s.partWord p (2 + dieOf k)
  if isSeq k then decide (w / 2 ^ exposedOf k % 256 ≠ 0) else decide (w / 2 ^ (k % 64) % 2 = 1)
/-- The partition that holds core k. -/
def State.corePart (s : State) (k : Nat) : Option Nat := s.hub.parts.keys.find? fun p => s.partHolds p k

/-! ### Locations -/

/-- Home location of physical address pa of die `owner` (package * 4 + die). -/
def memLoc (owner pa : Nat) : Nat := owner * 2 ^ 42 + pa
/-- Home location of a scratchpad byte (R147). -/
def spLoc (owner core ofs : Nat) : Nat := 2 ^ 54 + (owner * 64 + core) * 2 ^ 23 + ofs
/-- Home location of a byte of hub memory (R336). -/
def hubLoc (a : Nat) : Nat := 2 ^ 60 + a
/-- Owner die of a location. -/
def ownerOfLoc (l : Nat) : Nat := if l < 2 ^ 54 then l / 2 ^ 42 else (l - 2 ^ 54) / 2 ^ 29
/-- Owner id of a core of this package. -/
def State.owner (s : State) (k : Nat) : Nat := s.hub.pkg * 4 + dieOf k
/-- The owner id under which locations keep the memory of an owner die, and back: a package that takes another's number keeps its memory (R359,
log 79). -/
def State.key (s : State) (owner : Nat) : Nat :=
  if owner / 4 = s.hub.pkg then s.hub.home * 4 + owner % 4
  else if owner / 4 = s.hub.home then s.hub.pkg * 4 + owner % 4
  else owner

/-- The owner's part of the virtual addresses that name a location. -/
def State.ownerVa (s : State) (l : Nat) : Nat := s.key (ownerOfLoc l) * 2 ^ 42

/-- What an address names (R162, R163). -/
inductive Place where
  /-- own scratchpad offset -/
  | own (ofs : Nat)
  /-- scratchpad window of an exposed core of a die -/
  | window (owner core ofs : Nat)
  /-- translated offset of a die -/
  | mem (owner ofs : Nat)
  /-- reserved offset, or bits 63:54 set -/
  | bad
  /-- owner outside the job (R173) -/
  | outside
deriving DecidableEq, Repr, Inhabited

/-- Scratchpad size in bytes of a core (R146). -/
def State.spSize (s : State) (k : Nat) : Nat := (s.core k).spk * 2 ^ 19
/-- Core number of exposed core n of an owner die: 1,024 and above for another package, of whose cores State holds the scratchpad split and the
owner map alone. -/
def State.coreAt (s : State) (owner n : Nat) : Nat :=
  if owner / 4 = s.hub.pkg then owner % 4 * 64 + n else 1024 + owner * 64 + n

/-- Classify a virtual address (R162, R163, R173). -/
def State.place (s : State) (va : Nat) : Place :=
  let top := va / 2 ^ 42
  let ofs := va % 2 ^ 42
  if 2 ^ 54 ≤ va then .bad
  else if top = 0xFFF ∧ ofs < 2 ^ 23 then .own ofs
  else if !(s.hub.membership.contains top) then .outside
  else if ofs < 0x03FF00000000 then .mem top ofs
  else
    let n := (ofs - 0x03FF00000000) / 2 ^ 23
    let o := (ofs - 0x03FF00000000) % 2 ^ 23
    if n < 64 ∧ o < s.spSize (s.coreAt top n) then .window top n o else .bad

/-- Does the address lie in a scratchpad window, or the own-scratchpad window (R163)? -/
def State.inScratch (s : State) (va : Nat) : Bool :=
  match s.place va with
  | .own _ => true
  | .window _ _ _ => true
  | _ => false

/-! ### Bytes and poison -/

/-- Is the aligned dword of a location poisoned (R320)? -/
def State.poisoned (s : State) (l : Nat) : Bool := s.poison.contains (l / 8)
/-- Little-endian number of n bytes. -/
def State.rd (s : State) (l n : Nat) : Nat := s.mem.readNat l n
/-- The dword at a location. -/
def State.rd64 (s : State) (l : Nat) : W64 := BitVec.ofNat 64 (s.rd l 8)
/-- Does any dword of a range carry poison? -/
def State.anyPoison (s : State) (l n : Nat) : Bool :=
  (List.range ((l + n + 7) / 8 - l / 8)).any fun i => s.poison.contains (l / 8 + i)

/-- Does a write at these locations answer a wait: a CWAIT by the value of its word, a WFE.W by its line (R412, R489)? -/
def waitHit (s : State) (locs : List Nat) (w : Wait) : Bool :=
  match w.target with
  | none => locs.any fun l => decide (l / 64 = w.loc / 64)
  | some t => (locs.any fun l => decide (l / 8 = w.loc / 8)) && !(s.poisoned w.loc) && reached (s.rd64 w.loc) t

/-- Tell a context that waits in a held CWAIT or WFE.W that bytes were written. -/
def wakeOne (s : State) (locs : List Nat) (x : Ctx) : Ctx :=
  let f (w : Wait) : Wait := if waitHit s locs w then { w with hit := true } else w
  { x with wait := x.wait.map f, wfe := x.wfe.map f }

/-- Wake every waiting context. -/
def State.wake (s : State) (locs : List Nat) : State :=
  { s with ctxs := ⟨s.ctxs.l.map fun p => (p.1, wakeOne s locs p.2)⟩ }

/-- Write bytes at their homes in one step: a partial write of a poisoned dword is discarded and a full one clears
its poison (R320). -/
def State.storeBytes (s : State) (bs : List (Nat × Byte)) : State :=
  let cnt (d : Nat) : Nat := (bs.filter fun (p : Nat × Byte) => p.1 / 8 = d).length
  let live := bs.filter fun (p : Nat × Byte) => !(s.poison.contains (p.1 / 8)) || decide (8 ≤ cnt (p.1 / 8))
  let mem := live.foldl (fun m p => m.write p.1 p.2) s.mem
  let pz := s.poison.filter fun d => decide (cnt d < 8)
  State.wake { s with mem := mem, poison := pz } (bs.map fun (p : Nat × Byte) => p.1)

/-- The bytes of a number at consecutive locations. -/
def bytesAt (l n v : Nat) : List (Nat × Byte) :=
  ((List.range n).zip (bytesOfNat n v)).map fun (p : Nat × Byte) => (l + p.1, p.2)
/-- Store a number little-endian. -/
def State.wr (s : State) (l n v : Nat) : State := s.storeBytes (bytesAt l n v)
/-- Poison the aligned dwords of a range. -/
def State.addPoison (s : State) (l n : Nat) : State :=
  { s with poison := (List.range ((l + n + 7) / 8 - l / 8)).foldl (fun p i => insertSorted p (l / 8 + i)) s.poison }

/-! ### Translation (R166 to R178) -/

/-- What an access asks of a mapping. -/
inductive Acc where
  | rd | wr | rw | ex
deriving DecidableEq, Repr, Inhabited

/-- A leaf reached by one stage: output address, its entry's location and bits, log2 of the page size. -/
structure Leaf where
  out : Nat
  pte : Nat
  bits : Nat
  log : Nat
deriving DecidableEq, Repr, Inhabited

/-- Does an entry grant the access (R168)? -/
def grants (bits : Nat) (a : Acc) : Bool :=
  match a with
  | .rd => bits / 8 % 2 = 1
  | .wr => bits / 16 % 2 = 1
  | .rw => bits / 8 % 2 = 1 && bits / 16 % 2 = 1
  | .ex => bits / 256 % 2 = 1

/-- Reserved bits 63:54, 15:10, 7 and 2 of an entry are zero, and MV too in stage 1 (R168, R171). -/
def entryOk (stage1 : Bool) (e : Nat) : Bool :=
  e % 2 = 1 && decide (e / 2 ^ 54 = 0) && decide (e / 2 ^ 10 % 64 = 0) && decide (e / 128 % 2 = 0)
    && decide (e / 4 % 2 = 0) && !(stage1 && decide (e / 512 % 2 = 1)) && decide (e % 2 ^ 54 / 2 ^ 42 = 0)

/-- Three-level walk over a 42-bit input (R167). `levels` lists the low bit of each level's index and its width;
`loc` gives the home location of a table address, where it can be read. -/
def walk (s : State) (stage1 : Bool) (loc : Nat → Option Nat) (inp : Nat) : List (Nat × Nat) → Nat → Option Leaf
  | [], _ => none
  | (lo, wd) :: more, table =>
    match loc (table + 8 * (inp / 2 ^ lo % 2 ^ wd)) with
    | none => none
    | some l =>
      let e := s.rd l 8
      let oa := e % 2 ^ 54 / 2 ^ 16 * 2 ^ 16
      if !(entryOk stage1 e) then none
      else if e / 2 % 2 = 1 then
        (if oa % 2 ^ lo = 0 then some ⟨oa + inp % 2 ^ lo, l, e, lo⟩ else none)
      else if more.isEmpty then none
      else walk s stage1 loc inp more oa

/-- The levels of R167. -/
def levels : List (Nat × Nat) := [(30, 12), (21, 9), (16, 5)]

/-- Dword i of a function's descriptor (R341). -/
def State.vfWord (s : State) (vf i : Nat) : Option Nat :=
  match s.hub.vfs.find vf with
  | none => none
  | some f => some (f.d.toList.getD i 0).toNat

/-- Dword i of a function's descriptor as package `pkg` installs it (R165, R341). -/
def State.vfWordAt (s : State) (pkg vf i : Nat) : Option Nat :=
  if pkg = s.hub.pkg then s.vfWord vf i
  else (s.hub.farVfs.find (pkg * 128 + vf)).map fun f => (f.d.toList.getD i 0).toNat

/-- Partition a function runs in (R341). -/
def State.partOf (s : State) (vf : Nat) : Option Nat := (s.vfWord vf 0).map fun w => w / 2 ^ 50 % 64

/-- Does a channel dword of a partition's description name the channel of a physical address of die d (R169, R340)? -/
def channelIn (w d pa : Nat) : Bool :=
  if pa < 0x00C00000000 then (w / 2 ^ 32 / 2 ^ (8 * d + pa / (6 * 2 ^ 30))) % 2 = 1
  else if 0x01000000000 ≤ pa ∧ pa < 0x07000000000 then
    (w % 2 ^ 32 / 2 ^ (8 * d + (pa - 0x01000000000) / (48 * 2 ^ 30))) % 2 = 1
  else decide (0x10000000000 ≤ pa ∧ pa < 0x20000000000)

/-- Does the partition hold the channel of a physical address (R169, R340)? -/
def State.holdsChannel (s : State) (part d pa : Nat) : Bool :=
  match s.hub.parts.find part with
  | none => false
  | some p => channelIn (p.desc.toList.getD 6 0).toNat d pa

/-- Does the partition of a function, in package `pkg`, hold the channel of a physical address of its die d? -/
def State.vfChannel (s : State) (pkg vf d pa : Nat) : Bool :=
  if pkg = s.hub.pkg then s.holdsChannel ((s.partOf vf).getD 64) d pa
  else match s.hub.farVfs.find (pkg * 128 + vf) with
    | none => false
    | some f => channelIn f.channels.toNat d pa

/-- A translation: home location, the two leaf entries, MV, and log2 of the page size. -/
structure Xlat where
  loc : Nat
  ptes : List Nat
  mv : Bool
  log : Nat
  ipa : Nat
deriving DecidableEq, Repr, Inhabited

/-- Stage 2 (R166): IPA to physical address of the owner die. -/
def State.stage2 (s : State) (vf owner ipa : Nat) (a : Acc) : Option Leaf :=
  if 2 ^ 42 ≤ ipa then none
  else match s.vfWordAt (owner / 4) vf (6 + owner % 4) with
    | none => none
    | some root =>
      match walk s false (fun t => some (memLoc (s.key owner) t)) ipa levels root with
      | none => none
      | some l =>
        if grants l.bits a && s.vfChannel (owner / 4) vf (owner % 4) l.out then some l else none

/-- Two-stage translation at the owner (R166 to R171). The supervisor queue's function maps every offset to the
same physical address (log 14). A page that holds a stage-1 table is read through its stage-2 leaf whatever that leaf's MV says, and the walk sets
no AC there (log 65). -/
def State.translate (s : State) (vf owner ofs : Nat) (a : Acc) : Option Xlat :=
  if vf = 0x7F then
    (if ofs < 0x00C00000000 ∨ (0x01000000000 ≤ ofs ∧ ofs < 0x07000000000) ∨ (0x10000000000 ≤ ofs ∧ ofs < 0x20000000000)
     then some ⟨memLoc (s.key owner) ofs, [], false, 16, ofs⟩ else none)
  else match s.vfWordAt (owner / 4) vf (2 + owner % 4) with
    | none => none
    | some root =>
      let loc (t : Nat) : Option Nat := (s.stage2 vf owner t .rd).map fun l => memLoc (s.key owner) l.out
      match walk s true loc ofs levels root with
      | none => none
      | some l1 =>
        if !(grants l1.bits a) then none
        else match s.stage2 vf owner l1.out a with
          | none => none
          | some l2 =>
            some ⟨memLoc (s.key owner) l2.out, [l1.pte, l2.pte], l2.bits / 512 % 2 = 1, min l1.log l2.log, l1.out⟩

/-- Set AC, and D on a write, in leaf entries (R168). -/
def State.touch (s : State) (ptes : List Nat) (write : Bool) : State :=
  { s with mem := ptes.foldl (fun m p => m.write p (m.read p ||| (if write then 0x60 else 0x20))) s.mem }

/-- Translate an address that lies in memory. -/
def State.xlatVa (s : State) (vf va : Nat) (a : Acc) : Option Xlat :=
  match s.place va with
  | .mem o f => s.translate vf o f a
  | _ => none

/-- Is the address local to a core: its own scratchpad, or memory its die owns (R181)? -/
def State.isLocal (s : State) (k va : Nat) : Bool :=
  match s.place va with
  | .own _ => true
  | .mem o _ => o = s.owner k
  | .bad => va / 2 ^ 42 % 2 ^ 12 = s.owner k
  | _ => false

/-- An address on another package: a deterministic queue kills (R276). -/
def State.offPackage (s : State) (va : Nat) : Bool :=
  match s.place va with
  | .own _ => false
  | _ => va / 2 ^ 44 % 2 ^ 10 != s.hub.pkg

/-- Does a location lie in the memory or the scratchpads of a partition that resets, for a core outside that partition (R332)? -/
def State.resetting (s : State) (k l : Nat) : Bool :=
  s.hub.parts.l.any fun (p : Nat × Part) => p.2.reset && !s.partHolds p.1 k &&
    (if l < 2 ^ 54 then decide (l / 2 ^ 44 = s.hub.home) && decide (l % 2 ^ 42 < 0x07000000000) && s.holdsChannel p.1 (l / 2 ^ 42 % 4) (l % 2 ^ 42)
     else decide (ownerOfLoc l / 4 = s.hub.home) && s.partHolds p.1 (s.coreAt (s.key (ownerOfLoc l)) ((l - 2 ^ 54) / 2 ^ 23 % 64)))

/-- Is the path from core k to the owner of an address lost: the package's, or one between dies of this package (R300)? -/
def State.pathLost (s : State) (k va : Nat) : Bool :=
  let pkg := va / 2 ^ 44 % 2 ^ 10
  let d := va / 2 ^ 42 % 4
  s.hub.lost.contains pkg ||
    (decide (pkg = s.hub.pkg) && decide (d ≠ dieOf k) && (s.hub.lost.contains (1024 + d) || s.hub.lost.contains (1024 + dieOf k)))

/-- Is the path lost, or does the partition that owns the location reset (R300, R332)? -/
def State.deadPath (s : State) (k va : Nat) (loc : Option Nat) : Bool :=
  s.pathLost k va ||
    match loc with
    | none => false
    | some l => s.resetting k l

/-! ### The owner map (R148 to R151) -/

/-- A tile slot: HOLD (4 is none), O, TEN, draining. -/
def State.slotOf (s : State) (k i : Nat) : Nat × Bool × Option Nat × Bool := s.slots.get (k * 2048 + i) (4, false, none, false)
/-- Change a tile slot. -/
def State.setSlot (s : State) (k i : Nat) (v : Nat × Bool × Option Nat × Bool) : State :=
  { s with slots := s.slots.set (k * 2048 + i) v }
/-- May context c touch this offset of its own scratchpad (R150)? -/
def State.ownOk (s : State) (c ofs : Nat) : Bool :=
  let k := coreOf c
  let sl := s.slotOf k (ofs / 4096)
  decide (ofs < s.spSize k) && decide (sl.1 = c % 4) && !sl.2.1
/-- May an engine touch this scratchpad offset for a function (R151)? -/
def State.engineOk (s : State) (k ofs vf : Nat) : Bool :=
  let sl := s.slotOf k (ofs / 4096)
  decide (ofs < s.spSize k) && sl.2.1 && decide (sl.2.2.1 = some vf) && (decide (sl.1 ≠ 4) || sl.2.2.2)

/-! ### Registers -/

/-- Lane l of a 256-byte value. -/
def lane (v : Wide) (l : Nat) : W32 := v.extractLsb' (32 * l) 32
/-- The 256-byte value with lanes given by a function of the lane number. -/
def ofLanes (f : Nat → W32) : Wide :=
  BitVec.ofNat 2048 ((List.range 64).foldr (fun l (acc : Nat) => (f l).toNat + 2 ^ 32 * acc) 0)
/-- A scalar in the low bytes. -/
def wide64 (v : W64) : Wide := v.setWidth 2048
/-- x register; x0 reads zero (R83). -/
def Ctx.getX (c : Ctx) (r : BitVec 5) : W64 := if r = 0 then 0 else c.r.x[r.toNat]'r.isLt
/-- y register; y0 reads zero. -/
def Ctx.getY (c : Ctx) (r : BitVec 5) : W64 := if r = 0 then 0 else c.r.y[r.toNat]'r.isLt
/-- v register. -/
def Ctx.getV (c : Ctx) (r : BitVec 5) : Wide := c.r.v[r.toNat]'r.isLt
/-- q register. -/
def Ctx.getQ (c : Ctx) (r : BitVec 5) : W64 := c.r.q[r.toNat % 8]'(Nat.mod_lt _ (by decide))
/-- m register. -/
def Ctx.getM (c : Ctx) (r : BitVec 5) : W64 := c.r.m[r.toNat % 8]'(Nat.mod_lt _ (by decide))
/-- g register. -/
def Ctx.getG (c : Ctx) (r : BitVec 5) : BitVec 128 := c.r.g[r.toNat % 8]'(Nat.mod_lt _ (by decide))
/-- n register. -/
def Ctx.getN (c : Ctx) (r : BitVec 5) : W64 := c.n[r.toNat % 4]'(Nat.mod_lt _ (by decide))
/-- Change the register state. -/
def Ctx.modR (c : Ctx) (f : Regs → Regs) : Ctx := { c with r := f c.r }

/-- Set or clear one bit. -/
def putBit {w : Nat} (v : BitVec w) (i : Nat) (b : Bool) : BitVec w :=
  if b then v ||| (1#w <<< i) else v &&& ~~~(1#w <<< i)

/-- Mix two values under a mask of bits. -/
def mixBits {w : Nat} (m new old : BitVec w) : BitVec w := (m &&& new) ||| (~~~m &&& old)

/-- The lane mask of 64 lanes as a mask of 2,048 bits. -/
def laneBits (m : W64) : Wide := ofLanes fun l => if m.getLsbD l then 0xFFFFFFFF else 0
/-- The mask of sixteen bytes as a mask of 128 bits. -/
def byteBits (m : W64) : BitVec 128 :=
  BitVec.ofNat 128 ((List.range 16).foldr (fun i (acc : Nat) => (if m.getLsbD i then 255 else 0) + 256 * acc) 0)

/-- An effective address of a LOOP or watch register, reserved bits kept (R17). -/
def maskOf (num : Nat) : W64 :=
  match num with
  | 0x008 => 1
  | 0x009 => 7
  | 0x00A => 31
  | 0x011 => 0x003FFFFFFFFFFFFC
  | 0x012 => 0x003FFFFFFFFFFFFC
  | 0x020 => 0x003FFFFFFFFFFFF0
  | 0x021 => 7
  | 0x022 => 0xFFFF
  | 0x031 => 0xFFFF
  | 0x040 => 0xFFFFFFFF
  | 0x041 => 0xFFFFFFFF
  | 0x042 => 0xFFFFFFFF
  | 0x043 => 0xFFFFFFFF
  | 0x048 => 0xFFFFFFFF
  | 0x050 => 0xFF
  | 0x051 => 0x003FFFFFFFFFFFFC
  | 0x053 => 0xE000FFFFFF000000
  | _ => 0xFFFFFFFFFFFFFFFF

/-- Write a status register of a context (R85, R89, R90); RO registers ignore it. -/
def Ctx.writeSr (c : Ctx) (num : Nat) (v0 : W64) : Ctx :=
  let v := v0 &&& maskOf num
  match num with
  | 0x008 => c.modR fun r => { r with schk := v.getLsbD 0 }
  | 0x009 => if v.toNat ≤ 4 then c.modR fun r => { r with rm := v.setWidth 3 } else c
  | 0x00A => c.modR fun r => { r with fpflags := v.setWidth 5 }
  | 0x00B => c.modR fun r => { r with srstream := v }
  | 0x010 => c.modR fun r => { r with loopCnt := v }
  | 0x011 => c.modR fun r => { r with loopBegin := v }
  | 0x012 => c.modR fun r => { r with loopEnd := v }
  | 0x020 => c.modR fun r => { r with watchLo := v }
  | 0x021 => c.modR fun r => { r with watchHi := v }
  | 0x022 => c.modR fun r => { r with watchMask := v }
  | 0x031 => c.modR fun r => { r with agrGroup := v.setWidth 16 }
  | 0x040 => { c with errMultibr := v.setWidth 32 }
  | 0x041 => { c with errRagged := v.setWidth 32 }
  | 0x042 => { c with errUnsup := v.setWidth 32 }
  | 0x043 => { c with errRaise := v.setWidth 32 }
  | 0x050 => { c with trapCause := v }
  | 0x051 => { c with trapPc := v }
  | 0x052 => { c with trapAddr := v }
  | 0x053 => { c with trapSrc := v }
  | 0x070 => { c with lockQuota := v }
  | _ => c

/-- Saturating 32-bit count (R85). -/
def satAdd (a : W32) (n : Nat) : W32 := BitVec.ofNat 32 (min (a.toNat + n) 0xFFFFFFFF)

/-- What the counters of a context have counted in the present cycle (R85). -/
def Ctx.tallyAt (x : Ctx) (now : Nat) : Tally := if x.tally.cyc = now then x.tally else ⟨now, 0, 0, 0, 0⟩
/-- ERR_MULTIBR counts one. -/
def Ctx.countMultibr (x : Ctx) (now : Nat) : Ctx :=
  { x with errMultibr := satAdd x.errMultibr 1, tally := { x.tallyAt now with multibr := satAdd (x.tallyAt now).multibr 1 } }
/-- ERR_RAGGED counts n. -/
def Ctx.countRagged (x : Ctx) (now n : Nat) : Ctx :=
  { x with errRagged := satAdd x.errRagged n, tally := { x.tallyAt now with ragged := satAdd (x.tallyAt now).ragged n } }
/-- ERR_UNSUP counts one. -/
def Ctx.countUnsup (x : Ctx) (now : Nat) : Ctx :=
  { x with errUnsup := satAdd x.errUnsup 1, tally := { x.tallyAt now with unsup := satAdd (x.tallyAt now).unsup 1 } }
/-- ERR_RAISE counts one. -/
def Ctx.countRaise (x : Ctx) (now : Nat) : Ctx :=
  { x with errRaise := satAdd x.errRaise 1, tally := { x.tallyAt now with raise := satAdd (x.tallyAt now).raise 1 } }
/-- What ERR_ECC of a core has counted in the present cycle. -/
def CoreSt.eccAt (x : CoreSt) (now : Nat) : W32 := if x.eccTally.1 = now then x.eccTally.2 else 0
/-- ERR_ECC counts one. -/
def CoreSt.countEcc (x : CoreSt) (now : Nat) : CoreSt :=
  { x with errEcc := satAdd x.errEcc 1, eccTally := (now, satAdd (x.eccAt now) 1) }

/-- The value of an SWR arrives in its register. A counter has counted from zero since the SWR issued, and what it counted is added (R85). -/
def Ctx.landSr (c : Ctx) (num : Nat) (v : W64) : Ctx :=
  match num with
  | 0x040 => { c with errMultibr := satAdd (v.setWidth 32) c.errMultibr.toNat }
  | 0x041 => { c with errRagged := satAdd (v.setWidth 32) c.errRagged.toNat }
  | 0x042 => { c with errUnsup := satAdd (v.setWidth 32) c.errUnsup.toNat }
  | 0x043 => { c with errRaise := satAdd (v.setWidth 32) c.errRaise.toNat }
  | n => c.writeSr n v

/-- Write a landing result into its register, poison and flags (R75, R317, R321). Writes to x0 and y0 are
discarded. -/
def Ctx.landReg (c : Ctx) (t : Res) : Ctx :=
  let p := t.psn.getLsbD 0
  let c1 : Ctx :=
    match t.file with
    | .x => if t.idx % 32 = 0 then c
      else c.modR fun r => { r with x := r.x.set (t.idx % 32) (t.val.setWidth 64) (Nat.mod_lt _ (by decide)),
                                    xp := putBit r.xp t.idx p }
    | .y => if t.idx % 32 = 0 then c
      else c.modR fun r => { r with y := r.y.set (t.idx % 32) (t.val.setWidth 64) (Nat.mod_lt _ (by decide)),
                                    yp := putBit r.yp t.idx p }
    | .v =>
      let m : W64 := if t.lm then t.lanes else ~~~(0 : W64)
      c.modR fun r =>
        { r with v := r.v.set (t.idx % 32) (mixBits (laneBits m) t.val (r.v[t.idx % 32]'(Nat.mod_lt _ (by decide))))
                        (Nat.mod_lt _ (by decide)),
                 vp := r.vp.set (t.idx % 32) (mixBits m t.psn (r.vp[t.idx % 32]'(Nat.mod_lt _ (by decide))))
                        (Nat.mod_lt _ (by decide)) }
    | .q =>
      let m : W64 := if t.lm then t.lanes else ~~~(0 : W64)
      c.modR fun r =>
        { r with q := r.q.set (t.idx % 8) (mixBits m (t.val.setWidth 64) (r.q[t.idx % 8]'(Nat.mod_lt _ (by decide))))
                        (Nat.mod_lt _ (by decide)) }
    | .g =>
      let m : BitVec 128 := if t.lm then byteBits t.lanes else ~~~(0 : BitVec 128)
      c.modR fun r =>
        { r with g := r.g.set (t.idx % 8) (mixBits m (t.val.setWidth 128) (r.g[t.idx % 8]'(Nat.mod_lt _ (by decide))))
                        (Nat.mod_lt _ (by decide)) }
    | .n => { c with n := c.n.set (t.idx % 4) (t.val.setWidth 64) (Nat.mod_lt _ (by decide)), np := putBit c.np t.idx p }
    | .m => c.modR fun r => { r with m := r.m.set (t.idx % 8) (t.val.setWidth 64) (Nat.mod_lt _ (by decide)) }
    | .sr => c.landSr t.idx (t.val.setWidth 64)
  c1.modR fun r => { r with fpflags := r.fpflags ||| t.flags }

/-- The lanes, bits or bytes that a result writes (R65). -/
def Res.cover (t : Res) : W64 := if t.lm then t.lanes else ~~~(0 : W64)
/-- Do results of later slots of its bundle, which land in the same cycle, write all that a result writes (R75)? -/
def Res.hidden (t : Res) (cyc : Nat) : Bool := decide (t.tie ≠ 0) && decide (t.tie = cyc) && decide (t.cover &&& ~~~t.tied = 0)
/-- What is left of a result beside those of later slots of its bundle that land in the same cycle (R75). -/
def Res.beside (t : Res) (cyc : Nat) : Res :=
  if t.tie ≠ 0 ∧ t.tie = cyc then { t with lm := true, lanes := t.cover &&& ~~~t.tied } else t
/-- A result of the same register is landing in a cycle: one of an earlier bundle is superseded, and an earlier slot's gives way to it in the lanes that
it writes, should it land in that cycle too (R75). -/
def Res.yield (u t : Res) (cyc : Nat) : Res :=
  if u.file = t.file ∧ u.idx = t.idx ∧ u.iss < t.iss then { u with sup := if u.sup = 0 then t.seq else min u.sup t.seq }
  else if u.file = t.file ∧ u.idx = t.idx ∧ u.iss = t.iss ∧ u.seq < t.seq
  then { u with tie := cyc, tied := (if u.tie = cyc then u.tied else 0) ||| t.cover } else u

/-- Land one result that is visible from cycle `cyc`: a superseded one is discarded, and results of earlier bundles to the register that are still
in flight become so; of two slots of one bundle that land in the same cycle the later slot's result stays, in the lanes that it writes (R65, R75); a
checkpoint receives the result when its producer was issued before the ABRP (R293). -/
def Ctx.land (c : Ctx) (cyc : Nat) (t : Res) : Ctx :=
  let c0 := { c with inflight := (c.inflight.filter fun u => u.seq != t.seq).map fun u => u.yield t cyc }
  -- the flags of a discarded result still belong to it (R89)
  let put (b : Bool) (y : Ctx) : Ctx := if b then y.modR fun r => { r with fpflags := r.fpflags ||| t.flags } else y.landReg (t.beside cyc)
  -- a producer issued before an ABRP lands in its checkpoint too (R293)
  let preds := c.preds.map fun p =>
    if t.seq < p.seq then { p with regs := (put (t.hidden cyc || (decide (t.sup ≠ 0) && decide (t.sup < p.seq))) { c0 with r := p.regs }).r } else p
  { put (t.hidden cyc || decide (t.sup ≠ 0)) c0 with preds := preds }

/-- The earliest fixed result that is due at a cycle, in order of landing, then of issue (R71, R75): an SWR to FPFLAGS and flags that land in its cycle
follow the order of issue as well (R89, log 85). -/
def pickDue (now : Nat) : List Res → Option Res
  | [] => none
  | t :: r =>
    match pickDue now r with
    | none => if t.fixed && decide (t.need = 0) && decide (t.due ≤ now) then some t else none
    | some u =>
      if t.fixed && decide (t.need = 0) && decide (t.due ≤ now) && (decide (t.due < u.due) || (decide (t.due = u.due) && decide (t.seq < u.seq)))
      then some t else some u

/-- Land every fixed result visible at a cycle, in order. -/
def landDueL (now : Nat) : Nat → Ctx → Ctx
  | 0, c => c
  | n + 1, c =>
    match pickDue now c.inflight with
    | none => c
    | some t => landDueL now n (c.land t.due t)
/-- Land every fixed result visible at a cycle. -/
def Ctx.landDue (c : Ctx) (now : Nat) : Ctx := landDueL now c.inflight.length c

/-- SWRs to core-scope registers take effect through the core (R86). -/
def State.landCore (s : State) (k : Nat) (t : Res) : State :=
  if t.file ≠ .sr then s
  else match t.idx with
    | 0x048 => s.modCore k fun x => { x with errEcc := satAdd (t.val.setWidth 32) x.errEcc.toNat }
    | 0x078 => s.modCore k fun x => { x with mpwBase := t.val.setWidth 64 }
    | 0x079 => s.modCore k fun x => { x with mpwLimit := t.val.setWidth 64 }
    | _ => s

/-- The last cycle whose results may land: none while the distances of a snapshot are relative, F for a context that stops
(R313, R317). -/
def Ctx.horizon (x : Ctx) (now : Nat) : Option Nat :=
  if x.replay || decide (x.phase = .frozen) then none
  else match x.phase, x.stop with
    | .stopping, some st => some (min now st.f)
    | _, _ => some now

/-- Land the fixed results of context c that are due, with their effects on the core. -/
def State.landCtx (s : State) (c : Nat) : State :=
  let x := s.ctx c
  match x.horizon s.now with
  | none => s
  | some h =>
    let due := x.inflight.filter fun t => t.fixed && decide (t.need = 0) && decide (t.due ≤ h)
    (due.foldl (fun s t => s.landCore (coreOf c) t) s).modCtx c fun x => x.landDue h

/-- An SWR to a counter issues: the counter keeps what it has counted in this cycle and counts on from it, for the value that lands to be added
(R85). -/
def State.clearCounter (s : State) (c num : Nat) : State :=
  match num with
  | 0x040 => s.modCtx c fun x => { x with errMultibr := (x.tallyAt s.now).multibr }
  | 0x041 => s.modCtx c fun x => { x with errRagged := (x.tallyAt s.now).ragged }
  | 0x042 => s.modCtx c fun x => { x with errUnsup := (x.tallyAt s.now).unsup }
  | 0x043 => s.modCtx c fun x => { x with errRaise := (x.tallyAt s.now).raise }
  | 0x048 => s.modCore (coreOf c) fun x => { x with errEcc := x.eccAt s.now }
  | _ => s

/-- A fixed result issued now (R71). -/
def mkRes (file : File) (idx : Nat) (val : Wide) (due : Nat) : Res :=
  ⟨file, idx, val, false, 0, 0, 0, 0, 0, 0, due, true, 0, 0, 0, 0⟩

/-- Put a result in flight with the next sequence number. -/
def Ctx.push (c : Ctx) (t : Res) : Ctx :=
  { c with inflight := c.inflight ++ [{ t with seq := c.nextSeq, iss := c.bundles }], nextSeq := c.nextSeq + 1 }

/-- Deliver one returned part of a variable result (R74). -/
def Ctx.deliver (c : Ctx) (seq : Nat) (val : Wide) (psn : W64) : Ctx :=
  { c with inflight := c.inflight.map fun t =>
      if t.seq = seq then { t with val := t.val ||| val, psn := t.psn ||| psn, need := t.need - 1 } else t }
/-- Deliver to context c. -/
def State.deliver (s : State) (c seq : Nat) (val : Wide) (psn : W64) : State := s.modCtx c fun x => x.deliver seq val psn

/-- Home location of an address that HS or the hub names in a descriptor, a command or a register: physical memory of the die
in bits 53:42 (log 17). -/
def hsLoc (a : Nat) : Nat := memLoc (a / 2 ^ 42 % 2 ^ 12) (a % 2 ^ 42)

/-! ### Completion records and flags -/

/-- Status codes (R160). -/
def stOK : Nat := 0
/-- POISONED -/
def stPOISONED : Nat := 1
/-- UNSUPPORTED_AT_TARGET -/
def stUNSUP : Nat := 2
/-- RETRY_EXHAUSTED -/
def stRETRY : Nat := 3
/-- OWNER_REFUSED -/
def stOWNER : Nat := 4
/-- RAGGED_CLIP -/
def stRAGGED : Nat := 5
/-- QUOTA -/
def stQUOTA : Nat := 6
/-- CONTEXT_GONE -/
def stGONE : Nat := 7
/-- REFUSED_DET -/
def stDET : Nat := 8
/-- VERSION_REJECT -/
def stVERSION : Nat := 9
/-- FAULT -/
def stFAULT : Nat := 10

/-- Build a completion record (R159). -/
def State.mkRec (s : State) (status kind c done errs addr tag vf : Nat) : CRec :=
  let k := coreOf c
  let w0 := status * 2 ^ 56 + kind * 2 ^ 52 + s.hub.pkg * 2 ^ 38 + dieOf k * 2 ^ 36 + exposedOf k * 2 ^ 30 + c % 4 * 2 ^ 28
  ⟨BitVec.ofNat 64 w0, BitVec.ofNat 64 (done % 2 ^ 32 * 2 ^ 32 + errs % 2 ^ 32), BitVec.ofNat 64 (addr % 2 ^ 54),
   BitVec.ofNat 64 tag, vf⟩

/-- The flag unit of an owner die: 0 to 3 for the dies of this package, and 16 + owner for a die of another one (R186, R301). -/
def State.flagUnit (s : State) (owner : Nat) : Nat := if owner / 4 = s.hub.pkg then owner % 4 else 16 + owner
/-- Queue a flag increment at the flag unit of the die that owns its address (R186). -/
def State.pushIncr (s : State) (va vf : Nat) (ctx : Option (Nat × Nat)) (copy : Option Nat) : State :=
  s.modDie (s.flagUnit (va / 2 ^ 42 % 2 ^ 12)) fun d => { d with flags := d.flags ++ [⟨0, some va, vf, ctx, copy⟩] }
/-- Queue the increment of a flag whose home is known. -/
def State.pushIncrAt (s : State) (loc vf : Nat) (ctx : Nat × Nat) : State :=
  s.modDie (s.flagUnit (s.key (ownerOfLoc loc))) fun d => { d with flags := d.flags ++ [⟨loc, none, vf, some ctx, none⟩] }

/-- Is there room in a cluster's event queue (R161)? -/
def State.evRoom (s : State) (cl : Nat) : Bool := decide ((s.cluster cl).evq.length < 256)

/-- A completion record enters an event queue, with the increment of a flag TAG (R270). -/
def State.enterRec (s : State) (cl : Nat) (r : CRec) : State :=
  let s1 := s.modCluster cl fun q => { q with evq := q.evq ++ [r] }
  if r.w3.getLsbD 63 && decide (r.w3.toNat / 2 ^ 54 % 2 ^ 9 = 0)
  then s1.pushIncr (r.w3.toNat % 2 ^ 54 / 8 * 8) r.vf none none else s1

/-- Post a completion record (R161): in a full queue it waits for a place. -/
def State.postRec (s : State) (cl : Nat) (r : CRec) : State :=
  if s.evRoom cl then s.enterRec cl r else s.modCluster cl fun q => { q with late := q.late ++ [r] }

/-- Records that wait take the places that have become free (R161). -/
def refillL (cl : Nat) : Nat → State → State
  | 0, s => s
  | n + 1, s =>
    match (s.cluster cl).late with
    | [] => s
    | r :: q => if s.evRoom cl then refillL cl n ((s.modCluster cl fun x => { x with late := q }).enterRec cl r) else s
/-- The oldest record of a queue has been removed. -/
def State.dropRec (s : State) (cl : Nat) : State :=
  refillL cl (s.cluster cl).late.length (s.modCluster cl fun q => { q with evq := q.evq.drop 1 })

/-! ### Job control blocks (R263) -/

/-- The translation of a JCB for a function. -/
def State.jcbLoc (s : State) (vf va : Nat) : Option Xlat := s.xlatVa vf va .rw

/-- count(J, fault) of R263. -/
def State.jcbCount (s : State) (l vf : Nat) (fault : Bool) : State :=
  let d0 := s.rd l 8
  let d1 := s.rd (l + 8) 8
  let d2 := s.rd (l + 16) 8
  let d3 := s.rd (l + 24) 8
  let done := (d0 + 1) % 2 ^ 32
  let expect := d0 / 2 ^ 32
  let s1 := s.wr l 8 (expect * 2 ^ 32 + done)
  let s2 := if fault then s1.wr (l + 8) 8 (((d1 / 2 ^ 32 + 1) % 2 ^ 32) * 2 ^ 32 + d1 % 2 ^ 32) else s1
  if d3 / 2 ^ 63 = 0 ∧ expect ≤ done then
    let s3 := s2.wr (l + 24) 8 (2 ^ 63 + d3)
    if d2 / 2 ^ 63 = 1 then s3.pushIncr (d2 % 2 ^ 54 / 8 * 8) vf none none else s3
  else s2

/-- DROPS += 1 (R264). -/
def State.jcbDrop (s : State) (l : Nat) : State :=
  let d1 := s.rd (l + 8) 8
  s.wr (l + 8) 8 (d1 / 2 ^ 32 * 2 ^ 32 + (d1 + 1) % 2 ^ 32)

/-- FAULTS += 1 (R263, a kill with POSTED set). -/
def State.jcbFaultOnly (s : State) (l : Nat) : State :=
  let d1 := s.rd (l + 8) 8
  s.wr (l + 8) 8 (((d1 / 2 ^ 32 + 1) % 2 ^ 32) * 2 ^ 32 + d1 % 2 ^ 32)

/-- Count a record that ended FAULT in its JCB (R263). -/
def State.countFault (s : State) (vf : Nat) (jcb : BitVec 48) (posted : Bool) : State :=
  if jcb = 0 then s
  else match s.jcbLoc vf (jcb.toNat * 64) with
    | none => s
    | some x =>
      let s1 := s.touch x.ptes true
      if s.anyPoison x.loc 64 then s else if posted then s1.jcbFaultOnly x.loc else s1.jcbCount x.loc vf true

/-! ### Read-modify-writes (R183, R185, R202 to R205, R263, R264, R272) -/

/-- Bytes a read-modify-write covers. -/
def Rmw.len (r : Rmw) : Nat :=
  match r with
  | .atom _ _ => 4
  | .stver _ _ => 16
  | .barm _ => 8
  | .nextt _ _ => 8
  | .post _ => 64
  | .raise _ _ => 64

/-- What one returns that is discarded: POISONED for an atomic, a counter read as poison, and the statuses of STVER, POST and RAISE (R300, R332). -/
def Rmw.dead (r : Rmw) : Wide × W64 :=
  match r with
  | .atom _ _ => (BitVec.ofNat 2048 (stPOISONED * 2 ^ 32), 0)
  | .nextt _ _ => (0, 1)
  | _ => (BitVec.ofNat 2048 stPOISONED, 0)

/-- Perform one at its home for context c: the state, the value it returns and its poison. -/
def State.doRmw (s : State) (c l : Nat) (op : Rmw) : State × W64 × Bool :=
  let vf := (s.ctx c).vf
  match op with
  | .atom v b =>
    if s.poisoned l then (s, BitVec.ofNat 64 (stPOISONED * 2 ^ 32), false)
    else
      let old : W32 := BitVec.ofNat 32 (s.rd l 4)
      (s.wr l 4 (atomOp v old b).toNat, old.setWidth 64, false)
  | .stver e d =>
    if s.anyPoison l 16 then (s, BitVec.ofNat 64 stPOISONED, false)
    else
      let ver := s.rd64 l
      let ok := decide (ver = e)
      let s1 := if ok then (s.wr (l + 8) 8 d.toNat).wr l 8 (e + 1).toNat else s
      (s1, BitVec.ofNat 64 ((s1.rd l 8) % 2 ^ 48 * 2 ^ 16 + (if ok then stOK else stVERSION)), false)
  | .barm n => if s.poisoned l then (s, 0, false) else (s.wr l 8 (s.rd64 l - n).toNat, 0, false)
  | .nextt n wd =>
    if s.poisoned l then (s, 0, true)
    else
      let idx := s.rd l 8
      let res := if n ≤ idx then 2 ^ 64 - 1 else if wd = 0 then idx else idx / wd * 2 ^ 32 + idx % wd
      (s.wr l 8 ((idx + 1) % 2 ^ 64), BitVec.ofNat 64 res, false)
  | .post own =>
    if s.anyPoison l 64 then (s, BitVec.ofNat 64 stPOISONED, false)
    else if own && (s.ctx c).posted then (s.jcbDrop l, BitVec.ofNat 64 stFAULT, false)
    else
      let s1 := s.jcbCount l vf false
      (if own then s1.modCtx c fun x => { x with posted := true } else s1, BitVec.ofNat 64 stOK, false)
  | .raise own k =>
    if s.anyPoison l 64 then (s, BitVec.ofNat 64 stPOISONED, false)
    else if s.rd (l + 24) 8 / 2 ^ 63 = 1 ∨ (own ∧ (s.ctx c).posted) then
      ((s.jcbDrop l).modCtx c fun x => x.countRaise s.now, BitVec.ofNat 64 stFAULT, false)
    else
      let d0 := s.rd l 8
      (s.wr l 8 ((d0 / 2 ^ 32 + k) % 2 ^ 32 * 2 ^ 32 + d0 % 2 ^ 32), BitVec.ofNat 64 stOK, false)

/-! ### Watches (R324 to R330) -/

/-- First byte of a written range that a context's watch matches (R325): addresses rising. -/
def watchHit (r : Regs) (src : Nat) (bytes : List Nat) : Option Nat :=
  if r.watchHi.getLsbD src then
    bytes.find? fun a => decide (a / 16 * 16 = r.watchLo.toNat) && r.watchMask.getLsbD (a % 16)
  else none

/-- Report a match to a watching context (R329): the first one is kept and later ones set MORE. -/
def Ctx.noteWatch (x : Ctx) (now addr : Nat) (src : W64) : Ctx :=
  match x.report with
  | none => { x with report := some (now, addr, src, false, 0, false) }
  | some (t, a, sr, _, n, ar) => { x with report := some (t, a, sr, true, n, ar) }

/-- Compare a write at its home with the watches of the contexts of the die that owns it (R324). `bit` is 1 for
ENG and 2 for RATM; `own` gives the core whose own-scratchpad offset the write reaches. -/
def State.watchHome (s : State) (bit : Nat) (vf owner : Nat) (own : Option (Nat × List Nat)) (vas : List Nat) (src : W64) : State :=
  { s with ctxs := ⟨s.ctxs.l.map fun p =>
      let x := p.2
      let mine := decide (s.owner (coreOf p.1) = owner)
      let vas' := match own with
        | some (k, os) => if coreOf p.1 = k then os.map fun o => 0x3FFC0000000000 + o else []
        | none => vas
      if mine && decide (x.phase ≠ .idle) && decide (x.vf = vf) then
        (match watchHit x.r bit vas' with
        | some a => (p.1, x.noteWatch s.now a src)
        | none => p)
      else p⟩ }

/-- TRAP_SRC of R326. -/
def State.watchSrc (s : State) (kind c eng : Nat) : W64 :=
  let k := coreOf c
  BitVec.ofNat 64 (kind * 2 ^ 62 + s.hub.pkg * 2 ^ 38 + dieOf k * 2 ^ 36 + exposedOf k * 2 ^ 30 + c % 4 * 2 ^ 28 + eng * 2 ^ 24)

/-! ### Local order (R182 to R184) -/

/-- What an entry says of a byte: a stored byte, a pending read-modify-write, or nothing. -/
inductive Cover where
  | byte (b : Byte)
  | pending
  | nothing
deriving DecidableEq, Repr, Inhabited

/-- The cover of one entry. -/
def LOp.cover (o : LOp) (l : Nat) : Cover :=
  match o with
  | .store bs =>
    match bs.reverse.find? fun p => p.1 = l with
    | some p => .byte p.2
    | none => .nothing
  | .rmw l' r => if l' ≤ l ∧ l < l' + r.len then .pending else .nothing

/-- The newest cover among entries listed newest first. -/
def coverL (l : Nat) : List LOp → Cover
  | [] => .nothing
  | o :: r =>
    match o.cover l with
    | .nothing => coverL l r
    | x => x

/-- The cover of a remote operation, by virtual address. -/
def ROp.cover (o : ROp) (va : Nat) : Cover :=
  let find (bs : List (Nat × Byte)) : Cover := match bs.reverse.find? fun (p : Nat × Byte) => p.1 = va with
    | some p => .byte p.2
    | none => .nothing
  match o with
  | .store bs => find bs
  | .rst bs _ => find bs
  | .rmw v r => if v ≤ va ∧ va < v + r.len then .pending else .nothing
  | .load _ _ _ _ => .nothing

/-- The newest cover of a byte among remote operations listed newest first. -/
def coverR (va : Nat) : List ROp → Cover
  | [] => .nothing
  | o :: r =>
    match o.cover va with
    | .nothing => coverR va r
    | x => x

/-- The newest cover of a byte in a basket listed newest first: local entries go by location, remote ones by address
(R182, R207). -/
def basketL (va : Nat) (loc : Option Nat) : List (Nat × Held) → Cover
  | [] => .nothing
  | h :: r =>
    let k : Cover := match h.2 with
      | .mem ls rs =>
        match coverR va (rs.reverse.map (·.op)), loc with
        | .nothing, some l => coverL l (ls.reverse.map (·.op))
        | x, _ => x
      | _ => .nothing
    match k with
    | .nothing => basketL va loc r
    | x => x

/-- The newest cover of a byte in a context's basket. -/
def Ctx.basketCover (x : Ctx) (va : Nat) (loc : Option Nat) : Cover := basketL va loc x.basket.reverse
/-- The newest cover of a byte in the basket, then LSQ (R182). -/
def Ctx.cover (x : Ctx) (va l : Nat) : Cover :=
  match x.basketCover va (some l) with
  | .nothing => coverL l (x.lsq.reverse.map (·.op))
  | k => k

/-- A byte as context c's local loads see it: none while its newest write is pending (R184). -/
def State.localByte (s : State) (c va l : Nat) : Option Byte :=
  match (s.ctx c).cover va l with
  | .byte b => some b
  | .pending => none
  | .nothing => some (s.mem.read l)
/-- Does one local write cover the whole aligned dword of a location, so that it clears its poison (R320)? -/
def LOp.clears (o : LOp) (l : Nat) : Bool :=
  match o with
  | .store bs => decide (8 ≤ (bs.filter fun (p : Nat × Byte) => decide (p.1 / 8 = l / 8)).length)
  | .rmw _ _ => false
/-- The same for a remote write, by virtual address. -/
def ROp.clears (o : ROp) (va : Nat) : Bool :=
  let full (bs : List (Nat × Byte)) : Bool := decide (8 ≤ (bs.filter fun (p : Nat × Byte) => decide (p.1 / 8 = va / 8)).length)
  match o with
  | .store bs => full bs
  | .rst bs _ => full bs
  | .rmw _ _ => false
  | .load _ _ _ _ => false
/-- Does the context hold a write, not yet performed, that clears the poison of a dword? A partial write is discarded there and
does not (R320). -/
def Ctx.clearsAt (x : Ctx) (va l : Nat) : Bool :=
  (x.lsq.any fun (n : LEntry) => n.op.clears l) || x.basket.any fun (h : Nat × Held) => match h.2 with
    | .mem ls rs => (ls.any fun (n : LEntry) => n.op.clears l) || rs.any fun (n : REntry) => n.op.clears va
    | _ => false

/-- n bytes as local loads see them. -/
def State.localRead (s : State) (c va l : Nat) : Nat → Option Nat
  | 0 => some 0
  | n + 1 =>
    match s.localByte c va l, State.localRead s c (va + 1) (l + 1) n with
    | some b, some r => some (b.toNat + 256 * r)
    | _, _ => none
/-- Is a byte of a local load poisoned (R321)? -/
def State.localPoison (s : State) (c va l n : Nat) : Bool :=
  (List.range n).any fun i => s.poisoned (l + i) && !((s.ctx c).clearsAt (va + i) (l + i))

/-- The first location of an entry. -/
def LOp.loc (o : LOp) : Nat :=
  match o with
  | .store bs => (bs.map (·.1)).headD 0
  | .rmw l _ => l

/-- Perform the head entry of LSQ(c) (R183): one step at its home. An entry whose home resets with a partition from outside is discarded (R332). -/
def State.performHead (s : State) (c : Nat) : State :=
  match (s.ctx c).lsq with
  | [] => s
  | e :: rest =>
    let s0 := s.modCtx c fun x => { x with lsq := rest, lsqDone := x.lsqDone + 1 }
    let s1 := s0.touch e.ptes true
    if s.resetting (coreOf c) e.op.loc then
      match e.op with
      | .store _ => s0
      | .rmw _ r => s0.deliver c e.seq r.dead.1 r.dead.2
    else match e.op with
    | .store bs => s1.storeBytes bs
    | .rmw l r =>
      let (s2, v, p) := s1.doRmw c l r
      s2.deliver c e.seq (wide64 v) (if p then 1 else 0)

/-- Perform every LSQ entry of a context (R198). -/
def drainLsqL (c : Nat) : Nat → State → State
  | 0, s => s
  | n + 1, s => drainLsqL c n (s.performHead c)
/-- Serialise a core: every entry of every LSQ of its contexts performs (R198). -/
def State.serialise (s : State) (k : Nat) : State :=
  [0, 1, 2, 3].foldl (fun s i => drainLsqL (k * 4 + i) (s.ctx (k * 4 + i)).lsq.length s) s

/-! ### Tile slots, pins and the end of a run -/

/-- Dword i of a copy descriptor. -/
def CopyRun.w (r : CopyRun) (i : Nat) : Nat := (r.d.getD i 0).toNat
/-- BYTES. -/
def CopyRun.bytes (r : CopyRun) : Nat := r.w 2 % 2 ^ 32
/-- Rows of a CPYS, elements of a CPYG, 1 for the others. -/
def CopyRun.rows (r : CopyRun) (kind : Nat) : Nat :=
  match kind with
  | 1 => r.w 4 % 2 ^ 32
  | 2 => r.w 5 % 2 ^ 32
  | _ => 1
/-- Bytes of the whole copy. -/
def CopyRun.total (r : CopyRun) (kind : Nat) : Nat := r.bytes * r.rows kind
/-- The cycle before which a command of a deterministic queue does not complete (R276). -/
def copyPad (c : CopyCmd) (r : CopyRun) : Nat := if c.det then c.born + 720 + 2 * ((r.total c.kind + 63) / 64) else 0
/-- A run that has read its descriptor and has made no access. -/
def CopyRun.first (d : List W64) (now : Nat) : CopyRun := ⟨d, 0, 0, 0, 0, 0, 0, 0, 0, now, none, none, []⟩

/-- Does the range of n bytes at va reach tile slot i of core k (R147, R163)? -/
def State.reaches (s : State) (k i va n : Nat) : Bool :=
  let hit (ofs : Nat) : Bool := decide (ofs < 4096 * (i + 1)) && decide (4096 * i < ofs + n)
  match s.place va with
  | .own ofs => hit ofs
  | .window o c ofs => decide (s.coreAt o c = k) && hit ofs
  | _ => false
/-- A byte of memory as it will stand when the local stores of context c have performed (R183, R188). -/
def State.laterByte (s : State) (c l : Nat) : Byte :=
  match coverL l ((s.ctx c).lsq.reverse.map (·.op)) with
  | .byte b => b
  | _ => s.mem.read l
/-- n bytes of it, little-endian. -/
def State.laterNum (s : State) (c l n : Nat) : Nat := (List.range n).foldr (fun i (acc : Nat) => (s.laterByte c (l + i)).toNat + 256 * acc) 0
/-- The run of a copy or gather command: the one that has read its descriptor, or else one of the descriptor as it will stand when what precedes the
command has performed. -/
def State.copyForm (s : State) (c : CopyCmd) (run : Option CopyRun) : CopyRun :=
  let first : CopyRun := match s.xlatVa c.vf c.desc .rd with
    | some y => CopyRun.first ((List.range (if c.kind = 0 then 4 else 8)).map fun j => BitVec.ofNat 64 (s.laterNum c.ctx (y.loc + 8 * j) 8)) s.now
    | none => CopyRun.first [] s.now
  match run with
  | some r => if r.phase = 3 then first else r
  | none => first
/-- Does a copy or gather command of core k name tile slot i (R149)? -/
def State.copyNames (s : State) (k i : Nat) (c : CopyCmd) (run : Option CopyRun) : Bool :=
  let r := s.copyForm c run
  match c.kind with
  | 1 => (List.range (r.rows 1)).any fun j =>
      s.reaches k i ((r.w 0 + j * r.w 5) % 2 ^ 64) r.bytes || s.reaches k i ((r.w 1 + j * r.w 6) % 2 ^ 64) r.bytes
  | 2 => s.reaches k i (r.w 1) (r.total 2) || s.reaches k i (r.w 4) (4 * r.rows 2) || (List.range (r.rows 2)).any fun j =>
      match s.place (r.w 4 + 4 * j) with
      | .own ofs => s.reaches k i ((r.w 0 + s.laterNum c.ctx (spLoc (s.key (s.owner k)) (k % 64) ofs) 4 * r.w 6) % 2 ^ 64) r.bytes
      | .mem o f => (match s.translate c.vf o f .rd with
        | some y => s.reaches k i ((r.w 0 + s.laterNum c.ctx y.loc 4 * r.w 6) % 2 ^ 64) r.bytes
        | none => false)
      | _ => false
  | _ => s.reaches k i (r.w 0) r.bytes || s.reaches k i (r.w 1) r.bytes
/-- Key of a schedule (R302, R337). -/
def schedKey (part k idx : Nat) : Nat := part * 2 ^ 20 + k * 256 + idx
/-- Partition whose schedule a command runs. -/
def State.collPart (s : State) (c : CollCmd) : Nat := (s.partOf c.vf).getD (s.ctx c.ctx).part
/-- Does a collective of core k name tile slot i: the buffer range of an entry of its table (R303)? -/
def State.collNames (s : State) (k i : Nat) (c : CollCmd) : Bool :=
  match s.hub.scheds.find (schedKey (s.collPart c) k c.idx) with
  | none => false
  | some t => (List.range (s.rd (hsLoc t) 8 % 2 ^ 16)).any fun j =>
      let w := s.rd (hsLoc (t + 64 + 16 * j) + 8) 8
      s.reaches k i (s.rd (hsLoc (t + 8)) 8 + w / 2 ^ 32) (w % 2 ^ 32)
/-- Does an engine command issued from core k name tile slot i (R149)? A routine computes its operand addresses as it runs: it names every slot of
its function (log 66). -/
def State.named (s : State) (k i : Nat) : Bool :=
  let x := s.core k
  let copies (q : List CopyCmd) (r : Option CopyRun) : Bool := (q.mapIdx fun j c => s.copyNames k i c (if j = 0 then r else none)).any id
  copies x.cq x.crun || copies x.gq x.grun || (x.kq.any fun c => s.collNames k i c)
    || x.mq.any fun c => decide ((s.slotOf k i).2.2.1 = some c.vf)

/-- Release the tile slots that a context holds (R149): O = 0 becomes free, O = 1 drains while a command names the slot. -/
def State.releaseSlots (s : State) (c : Nat) : State :=
  let k := coreOf c
  { s with slots := ⟨s.slots.l.map fun p =>
      if p.1 / 2048 = k ∧ p.2.1 = c % 4 then
        (if p.2.2.1 && s.named k (p.1 % 2048) then (p.1, (4, true, p.2.2.2.1, true)) else (p.1, (4, false, p.2.2.2.1, false)))
      else p⟩ }

/-- Free the draining slots of a core that no command names any more (R149). -/
def State.endDrain (s : State) (k : Nat) : State :=
  { s with slots := ⟨s.slots.l.map fun p =>
      if p.1 / 2048 = k ∧ p.2.2.2.2 ∧ !s.named k (p.1 % 2048) then (p.1, (4, false, p.2.2.2.1, false)) else p⟩ }

/-- The context gives up its record: slots, pins, watch, results, predictions and basket (R149, R157, R330, R208). -/
def State.vacate (s : State) (c : Nat) : State :=
  let s1 := s.releaseSlots c
  let s2 := s1.modCtx c fun x =>
    { x with phase := .idle, pins := [], inflight := [], replay := false, basket := [], preds := [], held := .none,
             wait := none, wfe := none, fence := none, loopOld := none, resumed := false, stop := none, wsk := false, agrTrap := none, report := none,
             killReport := none, leave := none, save := none, pending := none, gang := [], leader := none, promoted := false, barred := none,
             stepMode := false, r := { x.r with watchHi := 0, watchLo := 0, watchMask := 0 } }
  s2.modCore (coreOf c) fun k =>
    if k.issuing = some (c % 4) then { k with issuing := none, lastIssue := some (c % 4) } else k

/-- Write dword i of a record (R29) when its address translates; nothing otherwise. -/
def State.recWrite (s : State) (vf addr i v : Nat) : State :=
  match s.xlatVa vf (addr + 8 * i) .wr with
  | some x => (s.touch x.ptes true).wr x.loc 8 v
  | none => s
/-- Read dword i of a record. -/
def State.recRead (s : State) (vf addr i : Nat) : Option Nat :=
  (s.xlatVa vf (addr + 8 * i) .rd).map fun x => s.rd x.loc 8

/-- Memory that the sequencer reads for a function is accessed: AC is set in the leaf entries of the address (R168). -/
def State.seenAt (s : State) (vf va : Nat) : State :=
  match s.xlatVa vf va .rd with
  | some x => s.touch x.ptes false
  | none => s

/-- Word 7 with a new STATE and CAUSE, every other field kept (R29). -/
def withState (w st cause : Nat) : Nat := st * 2 ^ 56 + cause * 2 ^ 48 + w % 2 ^ 48

/-- Mark a record FAULT with a cause, writing word 7 only (R37). -/
def State.recFault (s : State) (vf addr cause : Nat) : State :=
  s.recWrite vf addr 7 (withState ((s.recRead vf addr 7).getD 0) 5 cause)

/-- Write a trace record (R370, R371). -/
def State.traceAs (s : State) (kind c vf code pc scyc : Nat) : State :=
  let h := s.hub
  if h.dbgCtl.getLsbD 63 then
    (if h.trPi.toNat - h.trCi.toNat = 2 ^ h.trSize then s.modHub fun h => { h with trDrop := if h.trDrop = ~~~(0 : W64) then h.trDrop else h.trDrop + 1 }
     else
      let k := coreOf c
      let w0 := kind * 2 ^ 60 + h.pkg * 2 ^ 50 + dieOf k * 2 ^ 48 + exposedOf k * 2 ^ 42 + c % 4 * 2 ^ 40 + code % 256 * 2 ^ 32 + vf
      let base := h.trBase.toNat + 32 * (h.trPi.toNat % 2 ^ h.trSize)
      let l := memLoc (base / 2 ^ 42) (base % 2 ^ 42)
      let w3 := (s.now - (s.core k).origin) % 2 ^ 64
      ((((s.wr l 8 w0).wr (l + 8) 8 pc).wr (l + 16) 8 scyc).wr (l + 24) 8 w3).modHub
        fun h => { h with trPi := h.trPi + 1 })
  else s

/-- Trace record of a context that holds a record. -/
def State.traceRec (s : State) (kind c code pc scyc : Nat) : State := s.traceAs kind c (s.ctx c).vf code pc scyc

/-- Send a trap entry (R318). -/
def State.sendTrap (s : State) (c cause : Nat) (act : Bool) : State :=
  let x := s.ctx c
  s.modHub fun h => { h with traps := h.traps ++
    [⟨cause, act, c, x.vf, x.rcd, x.trapPc.toNat, x.trapAddr, if cause = 0x11 then x.trapSrc else 0⟩] }

/-- Is the context frozen by a stop of this cause, whose TRAP_PC then stands (R318, R319)? -/
def Ctx.standsAt (x : Ctx) (cause : Nat) : Bool := decide (x.phase = .frozen) && (match x.stop with
  | some st => decide (st.cause = cause)
  | none => false)

/-- A launch that reached the sequencer in the cycle in which its context is torn down is dropped: no entry stays, ERR_LAUNCH counts it, and a
launch completion record says CONTEXT_GONE (R269). -/
def State.dropLaunches (s : State) (c : Nat) : State :=
  let cl := clusterOf (coreOf c)
  let mine (d : DepEntry) : Bool := decide (d.ctx = c) && decide (d.born = s.now) && decide (d.vf = (s.ctx c).vf)
  ((s.cluster cl).dep.filter mine).foldl (fun (s : State) d =>
    (s.modCluster cl fun q => { q with dep := q.dep.erase d, errLaunch := satAdd q.errLaunch 1 }).postRec cl
      (s.mkRec stGONE 4 c 0 1 d.addr (d.count * 2 ^ 32 + d.first) d.vf)) s

/-- Kill a context (R37, R318): word 7 alone is written back, the completion is counted and posted as FAULT, and the
entry goes out with ACT = 1 where a trap cause killed it. -/
def State.kill (s : State) (c cause : Nat) (addr : W64) (entry : Bool) : State :=
  let x := s.ctx c
  let s0 := s.modCtx c fun x => { x with trapCause := BitVec.ofNat 64 cause, trapPc := if x.standsAt cause then x.trapPc else BitVec.ofNat 64 x.pc, trapAddr := addr }
  let s1 := s0.recWrite x.vf x.rcd 7 (withState (x.words.toList.getD 7 0).toNat 5 cause)
  let s2 := s1.countFault x.vf x.jcb x.posted
  let s3 := s2.postRec (clusterOf (coreOf c)) (s2.mkRec stFAULT 5 c 0 1 x.rcd 0 x.vf)
  let s4 := if entry then s3.sendTrap c cause true else s3
  let s5 := if s4.hub.dbgCtl.getLsbD 62 && !x.standsAt cause then s4.traceRec 2 c cause x.pc x.scyc else s4
  (s5.dropLaunches c).vacate c

/-! ### Taking a trap (R311 to R318) -/

/-- Causes of R311. -/
def cILLEGAL : Nat := 0x01
/-- ILLEGAL_PREFIX -/
def cPREFIX : Nat := 0x02
/-- BUNDLE_FORM -/
def cFORM : Nat := 0x03
/-- STALL_UNDERSIZED -/
def cSTALL : Nat := 0x04
/-- MULTI_BRANCH -/
def cMULTI : Nat := 0x05
/-- PRIV -/
def cPRIV : Nat := 0x06
/-- OWNER_VIOLATION -/
def cOWNER : Nat := 0x08
/-- MISALIGNED -/
def cALIGN : Nat := 0x09
/-- TRANSLATION_FATAL -/
def cXLAT : Nat := 0x0A
/-- PROBE_FAULT -/
def cPROBE : Nat := 0x0B
/-- WATCH_PRECISE -/
def cWATCH : Nat := 0x10
/-- WATCH_IMPRECISE -/
def cWATCHI : Nat := 0x11
/-- DBRK -/
def cDBRK : Nat := 0x12
/-- STEP -/
def cSTEP : Nat := 0x13
/-- ECC_UNCORRECTABLE -/
def cECC : Nat := 0x18
/-- AGREE_MISMATCH -/
def cMISMATCH : Nat := 0x20
/-- AGREE_ABSENT -/
def cABSENT : Nat := 0x21
/-- TRAP_INSN -/
def cTRAP : Nat := 0x28
/-- PREEMPT -/
def cPREEMPT : Nat := 0x30
/-- PARTITION_RESET -/
def cRESET : Nat := 0x38

/-- Stop a context at a bundle boundary with a trap (R311, R313, R318): the TRAP_ registers are written, issue ends, and
F is the cycle in which the next bundle would have issued. PREEMPT writes no register. -/
def takeTrap (c cause : Nat) (addr : W64) (pc : Nat) (s : State) : State :=
  s.modCtx c fun x =>
    let y := if cause = cPREEMPT then x
      else { x with trapCause := BitVec.ofNat 64 cause, trapPc := BitVec.ofNat 64 pc, trapAddr := addr }
    { y with phase := .stopping, held := .none, wait := none, wfe := none, fence := none,
             resumed := y.resumed || y.wfe.isSome,
             stop := some ⟨cause, 0, max s.now x.nextIssue, false⟩,
             wsk := decide (cause = cWATCH) }

/-- A trap cause met on a predicted arm holds the context as an ABR wait instead (R297). -/
def trapOrWait (c cause : Nat) (addr : W64) (pc : Nat) (s : State) : State :=
  if (s.ctx c).preds.isEmpty then takeTrap c cause addr pc s
  else s.modCtx c fun x => { x with held := .abr }

/-- A local access whose translation fails kills the context, or waits on a predicted arm (R68, R172, R297). -/
def killOrWait (c : Nat) (addr : W64) (s : State) : State :=
  if (s.ctx c).preds.isEmpty then s.kill c cXLAT addr true
  else s.modCtx c fun x => { x with held := .abr }

/-- Resume a frozen context (R317, R319): its snapshot replays from the first bundle it issues. -/
def State.resume (s : State) (c : Nat) : State :=
  s.modCtx c fun x => { x with phase := .run, stop := none, replay := true, held := .none, nextIssue := s.now }

/-! ### Pre-emption (R40, R47, R48, R275, R366) -/

/-- The cycle in which a context's next bundle would issue (R313): a follower of a gang keeps its skew. -/
def Ctx.nextCycle (x : Ctx) (now : Nat) : Nat :=
  match x.leader, x.gang with
  | some _, g :: _ => max now (max x.nextIssue (g.cyc + 2 * x.tmem.toNat))
  | _, _ => max now x.nextIssue

/-- What has been planned for a stopped context; nothing any more for one that a pick-up restores (R49). -/
def Ctx.plan (x : Ctx) : Option Nat := if x.phase = .loading then none else x.stop.map (·.plan)

/-- Pre-empt a running context at its bundle boundary, with a plan for what follows; a follower that stands with member 0's STEP
takes the plan. -/
def State.preempt (s : State) (c plan : Nat) : State :=
  let x := s.ctx c
  if x.phase = .run then
    (takeTrap c cPREEMPT 0 x.pc s).modCtx c fun y => { y with stop := some ⟨cPREEMPT, plan, x.nextCycle s.now, false⟩ }
  else if x.plan = some 3 then s.modCtx c fun y => { y with stop := y.stop.map fun st => { st with plan := plan } }
  else s

/-- Contexts of a cluster that hold records of the context's team, itself among them (R40). -/
def State.mates (s : State) (c : Nat) : List Nat :=
  let x := s.ctx c
  (s.ctxs.l.filter fun (p : Nat × Ctx) => decide (p.1 = c) ||
    (decide (1 < x.tsize) && decide (p.2.phase ≠ .idle) && decide (p.2.team = x.team) && decide (p.2.vf = x.vf) &&
      decide (clusterOf (coreOf p.1) = clusterOf (coreOf c)))).map (·.1)

/-- Pre-empt a whole team (R40). -/
def State.preemptTeam (s : State) (c plan : Nat) : State := (s.mates c).foldl (fun (s : State) m => s.preempt m plan) s

/-- A follower that has stopped with member 0's STEP and has not frozen yet goes on: its results keep their distance from its next bundle, which
issues `shift` cycles later than it would have (R317, R366). -/
def State.unstop (s : State) (c shift : Nat) : State :=
  s.modCtx c fun x =>
    { x with phase := .run, stop := none, held := .none,
             inflight := if x.replay then x.inflight else x.inflight.map fun (t : Res) => if t.fixed then { t with due := t.due + shift } else t }

/-- Resume contexts that stopped together: a gang keeps its skew (R275, R317). -/
def State.resumeAll (s : State) (cs : List Nat) : State :=
  let f (c : Nat) : Nat := match (s.ctx c).stop with
    | some st => st.f
    | none => s.now
  let first := (cs.foldl (fun (b : Option Nat) c => match b with
    | none => some (f c)
    | some n => some (min n (f c))) none).getD s.now
  cs.foldl (fun (s : State) c =>
    let at0 := match (s.ctx c).stop with
      | some st => st.f - first
      | none => 0
    (if (s.ctx c).phase = .stopping then s.unstop c (s.now - first) else s.resume c).modCtx c fun x =>
      { x with nextIssue := s.now + at0, gang := x.gang.map fun (g : GangItem) => { g with cyc := g.cyc + (s.now - first) } }) s

/-- Followers that stand with member 0's STEP (R366). -/
def State.stepFollowers (s : State) (c : Nat) : List Nat :=
  (s.ctxs.l.filter fun (p : Nat × Ctx) => decide (p.2.leader = some c) && decide (p.2.plan = some 3)).map (·.1)

/-- The context that a response names: frozen, its record at `rcd`, awaiting a response; a guest names only records of its own function, and 0x7F
is HS (R344, log 86). -/
def State.frozenAt (s : State) (rcd vf : Nat) : Option Nat :=
  (s.ctxs.l.find? fun p => decide (p.2.phase = .frozen) && decide (p.2.rcd = rcd) && (decide (vf = 0x7F) || decide (p.2.vf = vf)) &&
    (match p.2.stop with
     | some st => st.sent
     | none => false)).map (·.1)

/-- Count an ignored response (R344). -/
def State.ignoreResponse (s : State) : State :=
  s.modHub fun h => { h with trespIgn := if h.trespIgn = 0xFFFFFFFFFFFFFFFF then h.trespIgn else h.trespIgn + 1 }

/-- Answer a frozen context (R319, R344): whether the response decided, and the state. A guest of a function may name
only a record of its own; 0x7F is HS. RSP 0 RESUME, 1 KILL, 2 EVICT. -/
def State.respond (s : State) (rsp rcd vf : Nat) : Bool × State :=
  if rcd % 64 ≠ 0 ∨ 3 ≤ rsp then (false, s.ignoreResponse)
  else match s.frozenAt rcd vf with
    | none => (false, s.ignoreResponse)
    | some c =>
      let x := s.ctx c
      if rsp = 0 then
        -- a pre-emption of the team that waited for the response takes effect (R312)
        (true, if (s.mates c).any fun m => decide (m ≠ c) && (decide ((s.ctx m).plan = some 1) || decide ((s.ctx m).plan = some 2))
          then s.modCtx c fun y => { y with stop := y.stop.map fun st => { st with sent := false, cause := cPREEMPT, plan := 1 } }
          else s.resumeAll (c :: s.stepFollowers c))
      else if rsp = 1 then
        let k := s.kill c (match x.stop with
          | some st => st.cause
          | none => 0) x.trapAddr true
        (true, k.resumeAll (s.stepFollowers c))
      else
        (true, (s.modCtx c fun y =>
          { y with stop := y.stop.map fun st => { st with sent := false, cause := cPREEMPT, plan := 2 } }).preemptTeam c 2)

end Sys2Proof.Machine
end

