-- ==== Sys2Proof/Machine/Generator.lean ====
section
/-! DEFINITION. The generator: hash, seeds, element values and the stochastic-rounding stream (R239 to R252). -/

namespace Sys2Proof.Machine

/-- The round constants C of R241. -/
def genC : List W32 := [0x6A3D91C5, 0x2F84E617, 0xB15C07A9, 0x4E92D36B, 0x937A5C0D, 0x0DC6B8F1]
/-- The rotations S of R241. -/
def genS : List Nat := [8, 20, 12, 24, 4, 16]

/-- gen_hash (R241). -/
def genHash (key : W64) (i j : W32) (d : BitVec 8) : W64 :=
  let a0 : W32 := key.setWidth 32 ^^^ i
  let b0 : W32 := key.extractLsb' 32 32 ^^^ j
  let (a, b) := (genC.zip genS).foldl (fun (ab : W32 × W32) (cs : W32 × Nat) =>
    let a := ab.1 + (ab.2 ^^^ cs.1 ^^^ d.setWidth 32)
    (a, ab.2.rotateLeft cs.2 ^^^ a)) (a0, b0)
  a ++ b

/-- What a generator needs of the context that uses it: tenant key and scope values (R242). -/
structure GenEnv where
  tkey : W32
  chip : W64
  task : W64
  tenant : W64
deriving DecidableEq, Repr, Inhabited

/-- The tenant key of a function (R242, R335). -/
def State.tkey (s : State) (vf : Nat) : W32 :=
  if vf = 0x7F then Config.supervisorKey s.hub.images else BitVec.ofNat 32 ((s.vfWord vf 0).getD 0)

/-- TASK scope value: TASK_JCB and TASK_IDX (R242). -/
def taskScope (jcb : BitVec 48) (idx : BitVec 16) : W64 := jcb ++ idx

/-- Generator environment of a core, function and task. -/
def State.genEnv (s : State) (k vf : Nat) (task : W64) : GenEnv :=
  ⟨s.tkey vf, BitVec.ofNat 64 (s.hub.pkg * 4 + dieOf k), task, BitVec.ofNat 64 vf⟩

/-- KIND of a descriptor (R239). -/
def gKind (d : BitVec 128) : Nat := (d.extractLsb' 121 3).toNat
/-- OFMT. -/
def gFmt (d : BitVec 128) : Nat := (d.extractLsb' 124 4).toNat
/-- SCOPE. -/
def gScope (d : BitVec 128) : Nat := (d.extractLsb' 119 2).toNat
/-- PARAM. -/
def gParam (d : BitVec 128) : Nat := (d.extractLsb' 96 16).toNat
/-- SEED. -/
def gSeed (d : BitVec 128) : W32 := d.extractLsb' 64 32
/-- ROWOFS. -/
def gRow (d : BitVec 128) : Nat := (d.extractLsb' 24 24).toNat
/-- COLOFS. -/
def gCol (d : BitVec 128) : Nat := (d.extractLsb' 0 24).toNat
/-- Validity of a descriptor (R240). -/
def gValid (d : BitVec 128) : Bool := gKind d ≠ 7 && d.extractLsb' 112 7 = 0 && d.extractLsb' 48 16 = 0

/-- The effective seed of R242. -/
def effSeed (e : GenEnv) (d : BitVec 128) : W64 :=
  let sv : W64 := match gScope d with
    | 0 => 0
    | 1 => e.chip
    | 2 => e.task
    | _ => e.tenant
  genHash (e.tkey ++ gSeed d) (sv.setWidth 32) (sv.extractLsb' 32 32) (0x40 + BitVec.ofNat 8 (gScope d))

/-- A[k] of R244: the nearest integer to 2^32 * atan(2^-k) / (2 pi). -/
def cordicA : List Int :=
  [0x20000000, 0x12E4051E, 0x9FB385B, 0x51111D4, 0x28B0D43, 0x145D7E1, 0xA2F61E, 0x517C55, 0x28BE53, 0x145F2F,
   0xA2F98, 0x517CC, 0x28BE6, 0x145F3, 0xA2FA, 0x517D, 0x28BE, 0x145F, 0xA30, 0x518, 0x28C, 0x146, 0xA3, 0x51]

/-- The phase of one column pair (R244). -/
def rotPhase (param : Nat) : Nat → Nat → Nat
  | 0, ph => ph
  | n + 1, ph => rotPhase param n (ph * (param * 65536) / 2 ^ 32)

/-- rot of R244. -/
def rot (cos : Bool) (i j param : Nat) : Num :=
  let ph := rotPhase param (j / 2 % 256) 0x28BE60DB
  let t := i * ph % 2 ^ 32
  let (x, y, _) := (List.range 24).foldl (fun (v : Int × Int × Int) k =>
      let (x, y, z) := v
      let a := cordicA.getD k 0
      if z ≥ 0 then (x - y.fdiv (2 ^ k), y + x.fdiv (2 ^ k), z - a)
      else (x + y.fdiv (2 ^ k), y - x.fdiv (2 ^ k), z + a))
    ((0x26DD3B6A : Int), (0 : Int), ((t % 2 ^ 30 : Nat) : Int))
  let (c, sn) : Int × Int := match t / 2 ^ 30 with
    | 0 => (x, y)
    | 1 => (-y, x)
    | 2 => (-x, -y)
    | _ => (y, -x)
  f32 (rne32 ((numOfInt (if cos then c else sn)).scale (-30)))

/-- gen_value of R243, exactly. -/
def genValue (e : GenEnv) (d : BitVec 128) (i j : W32) : Num :=
  let seed := effSeed e d
  let sc := decodeFmt 2 (gParam d)
  match gKind d with
  | 0 =>
    let h := genHash seed (i >>> 3) (j >>> 3) 0x00
    let b := h.getLsbD (8 * (i.toNat % 8) + j.toNat % 8)
    (numOfInt (if b then -1 else 1)).mul sc
  | 1 => numOfInt (if j.toNat ≤ i.toNat then 1 else 0)
  | 2 => numOfInt (if j.toNat ≤ i.toNat ∧ i.toNat - j.toNat ≤ gParam d then 1 else 0)
  | 3 =>
    let h := genHash seed (i >>> 1) (j >>> 1) 0x18
    let q := 2 * (i.toNat % 2) + j.toNat % 2
    let u := (h.extractLsb' (16 * q) 16).toNat
    ((numOfInt (2 * (u : Int) + 1 - 65536)).scale (-16)).mul sc
  | 4 =>
    let s := (List.range 8).foldl (fun (s : Int) n =>
      let h := genHash seed i j (0x20 + BitVec.ofNat 8 (n / 4))
      s + ((h.extractLsb' (16 * (n % 4)) 16).toNat : Int)) (-262140)
    (f32 (rne32 ((numOfInt s).mul (f32 0x379CC471)))).mul sc
  | 5 => rot true i.toNat j.toNat (gParam d)
  | _ => rot false i.toNat j.toNat (gParam d)

/-- The code of element (i, j) (R245). -/
def genCode (e : GenEnv) (d : BitVec 128) (i j : W32) : Nat := (encodeFmt (gFmt d) (genValue e d i j) .rne true 0).1

/-- Draw n of the stream of descriptor g7 (R252). -/
def genDraw (e : GenEnv) (g7 : BitVec 128) (n : W64) : W32 :=
  let h := genHash (effSeed e g7) (n.extractLsb' 1 32) ((n.extractLsb' 33 31).setWidth 32) 0x7F
  if n.getLsbD 0 then h.extractLsb' 32 32 else h.setWidth 32

end Sys2Proof.Machine
end

