-- ==== Sys2Proof/Machine/Flags.lean ====
section
/-! DEFINITION. Rounding modes, stochastic-rounding draws and floating-point flags of a slot (R89, R131 to R138). -/

namespace Sys2Proof.Machine

/-- The mode an RM field selects (R417): 0 is FPCTL.RM. -/
def rmSel (x : Ctx) (r : BitVec 3) : Rm :=
  match r.toNat with
  | 0 => rmOfBits x.r.rm
  | 1 => .rne
  | 2 => .rtz
  | 3 => .rdn
  | 4 => .rup
  | _ => .sr

/-- The generator environment of a context (R242). -/
def State.ctxGen (s : State) (c : Nat) : GenEnv :=
  let x := s.ctx c
  s.genEnv (coreOf c) x.vf (taskScope x.jcb x.idx)

/-- Draw at position SRSTREAM + i of a context's stream, as it stands at issue (R138, R252). -/
def State.drawAt (s : State) (c i : Nat) : W32 :=
  let x := s.ctx c
  genDraw (s.ctxGen c) (x.getG 7) (x.r.srstream + BitVec.ofNat 64 i)

/-- SRSTREAM advances by the draws consumed (R138). -/
def Ctx.consume (x : Ctx) (rm : Rm) (n : Nat) : Ctx :=
  if rm = .sr then x.modR fun r => { r with srstream := r.srstream + BitVec.ofNat 64 n } else x

/-- The draw of a scalar slot: used only under SR. -/
def State.draw1 (s : State) (c : Nat) (rm : Rm) : W32 := if rm = .sr then s.drawAt c 0 else 0
/-- The draw of lane l of a vector slot. -/
def State.drawL (s : State) (c : Nat) (rm : Rm) (l : Nat) : W32 := if rm = .sr then s.drawAt c l else 0

/-- OR the flags of the enabled lanes (R475). -/
def orFlags (lanes : W64) (f : Nat → BitVec 5) : BitVec 5 :=
  (List.range 64).foldl (fun a l => if lanes.getLsbD l then a ||| f l else a) 0

/-- Integer to FP32 (R420). -/
def intToF32 (z : Int) (rm : Rm) (draw : W32) : W32 × BitVec 5 := toF32 (numOfInt z) rm draw

end Sys2Proof.Machine
end

