-- ==== Sys2Proof/WellFormed.lean ====
section
/-! DEFINITION. Which instructions the spec defines (R58, R59): a slot that is not well formed traps
ILLEGAL_INSTR, and a microprogram step that is not aborts its routine with FAULT (R230). -/

namespace Sys2Proof

/-- The assigned status-register numbers (R86). -/
def statusNumbers : List Nat :=
  [0x000, 0x001, 0x002, 0x003, 0x004, 0x005, 0x008, 0x009, 0x00A, 0x00B, 0x010, 0x011, 0x012, 0x018, 0x020, 0x021,
   0x022, 0x030, 0x031, 0x040, 0x041, 0x042, 0x043, 0x048, 0x049, 0x050, 0x051, 0x052, 0x053, 0x060, 0x061, 0x070,
   0x071, 0x078, 0x079]

/-- Is a 5-bit field a register of a file of n registers (R58)? -/
def inFile (r : BitVec 5) (n : Nat) : Bool := decide (r.toNat < n)

/-- The operand formats that take MX scales (R124). -/
def mxFormat (f : BitVec 4) : Bool :=
  f = 3 || f = 4 || f = 5 || f = 6 || f = 7 || f = 9

/-- MOVX: variant and the ranges of its two files (R84, R437). -/
def movxOk (o : R2) (v : BitVec 4) : Bool :=
  match v.toNat with
  | 0 => true
  | 1 => true
  | 2 => o.ha || inFile o.a 4
  | 3 => inFile o.d 8
  | 4 => o.ha || inFile o.a 8
  | 5 => o.ha || inFile o.a 8
  | 6 => inFile o.d 8
  | _ => false

/-- QOP: variant, ranges and unused fields (R452). -/
def qopOk (o : R3) (v : BitVec 4) : Bool :=
  inFile o.d 8 &&
    (if v.toNat ≤ 3 then (o.ha || inFile o.a 8) && (o.hb || inFile o.b 8)
     else if v = 4 then o.a = 0 && !o.ha && (o.hb || inFile o.b 8)
     else if v.toNat ≤ 6 then (o.ha || inFile o.a 8) && o.b = 0 && !o.hb
     else false)

/-- The instruction is one the spec defines. -/
def wellFormed (i : Instr) : Bool :=
  match i with
  | .addr _ v => v.toNat < 8
  | .mulh _ v => v.toNat < 3
  | .cmp _ v => v.toNat < 6
  | .movx o v => movxOk o v
  | .div _ v => v.toNat < 8
  | .fadd _ r => r.toNat ≤ 5
  | .fsub _ r => r.toNat ≤ 5
  | .fmul _ r => r.toNat ≤ 5
  | .fma _ _ r => r.toNat ≤ 5
  | .fdiv _ r => r.toNat ≤ 5
  | .fsqrt _ r => r.toNat ≤ 5
  | .frsq _ r => r.toNat ≤ 5
  | .fcmp _ v => v.toNat < 7
  | .fcvt _ v => v.toNat < 8
  | .brc c _ _ => c.toNat < 11
  | .vadd _ v => v.toNat ≤ 5 || v = 8 || v = 9
  | .vsub _ v => v.toNat ≤ 5 || v = 8 || v = 9
  | .vmul _ v => v.toNat ≤ 5 || v = 8 || v = 9 || v = 10
  | .vfma _ v => v.toNat % 8 ≤ 5
  | .vmin _ t => t ≠ 3
  | .vmax _ t => t ≠ 3
  | .vshr _ t => t = 1 || t = 2
  | .vcmp o v => inFile o.d 8 && (v.toNat < 7 || (8 ≤ v.toNat && v.toNat < 14))
  | .vcvt _ v => v.toNat < 10
  | .vred _ v => v.toNat < 8
  | .vbcast o lane => lane || (o.b = 0 && !o.hb)
  | .qop o v => qopOk o v
  | .gset o _ => inFile o.d 8
  | .gseed o => inFile o.d 8
  | .ggen o _ _ => o.ha || inFile o.a 8
  | .ldg _ v => v.toNat < 4 || v = 8 || v = 9
  | .stg _ v => v.toNat < 4 || v = 8 || v = 9
  | .fencer o v => v = 1 || v = 2 || ((v = 3 || v = 4) && o.b = 0 && !o.hb)
  | .atom _ v => v ≠ 15
  | .ratom _ v => v ≠ 15
  | .rst _ v => v.toNat < 5
  | .loop l _ _ => l.toNat ≤ 4
  | .bucket o => inFile o.d 8
  | .suspend o v => v = 1 || v = 2 || ((v = 0 || v = 3) && o.a = 0 && !o.ha)
  | .ares o v => v = 1 || v = 2 || (v = 0 && o.b = 0 && !o.hb)
  | .rte _ v => v.toNat < 3
  | .wfe o v => v = 2 || (v = 0 && o.a = 0 && !o.ha) || (v = 1 && o.b = 0 && !o.hb)
  | .srd _ n => statusNumbers.contains n.toNat
  | .swr _ n => statusNumbers.contains n.toNat
  | .pfxp m r => m.toNat < 4 || (m.toNat < 6 && inFile r 8)
  | .wload f mx _ rw ms => f ≠ 0 && (!mx || mxFormat f) && (rw || ms = 0)
  | .astream _ p _ b n _ => p.toNat ≤ 23 && b.toNat + n.toNat + 1 ≤ 256
  | .agen _ _ p _ b n _ => p.toNat ≤ 23 && b.toNat + n.toNat + 1 ≤ 256
  | .aclr b n => b.toNat + n.toNat + 1 ≤ 256
  | .adrain f rm sf _ b n _ ms =>
    rm.toNat ≤ 4 && (rm = 4 || ms = 0) && f ≠ 14 && f ≠ 15 && !(f = 0 && sf) && b.toNat + n.toNat + 1 ≤ 256
  | .ragg ma mc => ma ≠ mc
  | .loopm src ms c _ => if src then c = 0 else ms = 0
  | .mbr c ms _ => c.toNat < 5 && (3 ≤ c.toNat || ms = 0)
  | .padd _ ms src imm => if src then imm = 0 else ms = 0
  | _ => true

end Sys2Proof
end

