-- ==== Sys2Proof/Machine/Operands.lean ====
section
/-! DEFINITION. Every operand form of a slot: registers, hold latches, immediates with PFXI, addresses, conditions and
lane masks; what a slot is to the issue stage; and the checks that decide whether a bundle issues (R56 to R75). -/

namespace Sys2Proof.Machine

/-! ### What a slot sees -/

/-- What a slot sees at its issue: the state, its context and the prefixes before it. -/
structure Env where
  s : State
  c : Nat
  k : Nat
  x : Ctx
  pfxi : Option (BitVec 21)
  pfxp : Option (BitVec 3 × BitVec 5)
  /-- address of the slot -/
  addr : Nat

/-- The view of the slot that `iss` names in the context whose turn it is. -/
def State.env (s : State) : Env :=
  ⟨s, s.cur, coreOf s.cur, s.ctx s.cur, s.iss.pfxi, s.iss.pfxp, s.iss.slot⟩

/-- The scalar condition of a PFXP (R65); true with none, and under a lane mask. -/
def Env.cond (e : Env) : Bool :=
  match e.pfxp with
  | none => true
  | some (m, r) =>
    match m.toNat with
    | 0 => e.x.getX r != 0
    | 1 => e.x.getX r == 0
    | 2 => e.x.getY r != 0
    | 3 => e.x.getY r == 0
    | _ => true
/-- Is the prefix a lane mask? -/
def Env.lm (e : Env) : Bool :=
  match e.pfxp with
  | none => false
  | some (m, _) => decide (4 ≤ m.toNat)
/-- The enabled lanes (R65). -/
def Env.lanes (e : Env) : W64 :=
  match e.pfxp with
  | none => ~~~(0 : W64)
  | some (m, r) =>
    match m.toNat with
    | 4 => e.x.getQ r
    | 5 => ~~~(e.x.getQ r)
    | _ => ~~~(0 : W64)
/-- Does the record run on a deterministic queue (R275)? -/
def Ctx.det (x : Ctx) : Bool := (x.words.toList.getD 0 0).getLsbD 61
/-- PRIO of the running record. -/
def Ctx.prio (x : Ctx) : Nat := ((x.words.toList.getD 0 0).extractLsb' 56 4).toNat
/-- TM of the running record. -/
def Ctx.tm (x : Ctx) : Bool := (x.words.toList.getD 0 0).getLsbD 60
/-- Owner id of the context's die. -/
def Env.owner (e : Env) : Nat := e.s.owner e.k
/-- Lane l enabled? -/
def Env.on (e : Env) (l : Nat) : Bool := e.lanes.getLsbD l

/-! ### Register operands and hold latches (R58, R69, R321) -/

/-- The 256-byte view of a register and its poison by lane: a scalar's poison is lane 0's (R69). -/
def Ctx.regVal (x : Ctx) (f : File) (r : BitVec 5) : Wide × W64 :=
  match f with
  | .x => (wide64 (x.getX r), if r ≠ 0 ∧ x.r.xp.getLsbD r.toNat then 1 else 0)
  | .y => (wide64 (x.getY r), if r ≠ 0 ∧ x.r.yp.getLsbD r.toNat then 1 else 0)
  | .v => (x.getV r, x.r.vp[r.toNat]'r.isLt)
  | .q => (wide64 (x.getQ r), 0)
  | .g => ((x.getG r).setWidth 2048, 0)
  | .n => (wide64 (x.getN r), if x.np.getLsbD (r.toNat % 4) then 1 else 0)
  | .m => (wide64 (x.getM r), 0)
  | .sr => (0, 0)

/-- File codes of R316. -/
def File.code (f : File) : Nat :=
  match f with
  | .x => 0
  | .y => 1
  | .v => 2
  | .q => 3
  | .g => 4
  | .n => 5
  | .m => 6
  | .sr => 7

/-- An operand: value, poison, the register read, the code R323 reports and the latch it fills. -/
structure Opnd where
  val : Wide
  psn : W64
  rd : List (File × Nat)
  code : Nat
  fill : List (Nat × Wide × W64)

/-- A scoreboard entry for a register read: none for x0 and y0 (R62). -/
def readOf (f : File) (r : BitVec 5) : List (File × Nat) :=
  if r = 0 ∧ (f = .x ∨ f = .y) then [] else [(f, r.toNat)]

/-- An operand of a file, from the register or from latch `lt` of the engine (R69). -/
def Env.opnd (e : Env) (f : File) (r : BitVec 5) (held : Bool) (lt : Nat) : Opnd :=
  if held then
    let (vs, ps) := e.s.iss.latches.getD (e.x.r.latch, e.x.r.latchp)
    let v : Wide := vs[lt % 16]'(Nat.mod_lt _ (by decide))
    let p : W64 := ps[lt % 16]'(Nat.mod_lt _ (by decide))
    match f with
    | .v => ⟨v, p, [], f.code * 256 + r.toNat, []⟩
    | .g => ⟨(v.setWidth 128).setWidth 2048, p &&& 0xF, [], f.code * 256 + r.toNat, []⟩
    | _ => ⟨wide64 (v.setWidth 64), if p &&& 3 = 0 then 0 else 1, [], f.code * 256 + r.toNat, []⟩
  else
    let (v, p) := e.x.regVal f r
    ⟨v, p, readOf f r, f.code * 256 + r.toNat, [(lt, v, p)]⟩

/-- A register that a slot reads beside operands A and B, such as D (R62): no latch stands in for it. -/
def Env.reg (e : Env) (f : File) (r : BitVec 5) : Opnd :=
  let (v, p) := e.x.regVal f r
  ⟨v, p, readOf f r, f.code * 256 + r.toNat, []⟩

/-- The low dword of an operand. -/
def Opnd.d (o : Opnd) : W64 := o.val.setWidth 64
/-- The low word of an operand: lane 0. -/
def Opnd.w (o : Opnd) : W32 := o.val.setWidth 32
/-- Lane l of an operand. -/
def Opnd.lane (o : Opnd) (l : Nat) : W32 := Machine.lane o.val l
/-- No operand. -/
def Opnd.none : Opnd := ⟨0, 0, [], 0, []⟩

/-! ### Immediates (R58, R64) -/

/-- Sign-extended imm11, or payload:imm11 (R64). -/
def Env.imm11 (e : Env) (i : BitVec 11) : W64 :=
  match e.pfxi with
  | none => i.signExtend 64
  | some p => (p ++ i : BitVec 32).signExtend 64
/-- Sign-extended imm16, or payload:imm16 (R64, R429). -/
def Env.imm16 (e : Env) (i : BitVec 16) : W64 :=
  match e.pfxi with
  | none => i.signExtend 64
  | some p => (p ++ i : BitVec 37).signExtend 64
/-- Sign-extended OFS, or payload:OFS (R64). -/
def Env.ofs8 (e : Env) (i : BitVec 8) : W64 :=
  match e.pfxi with
  | none => i.signExtend 64
  | some p => (p ++ i : BitVec 29).signExtend 64
/-- A PFXI, if any, carries payload 0. -/
def Env.zeroPfxi (e : Env) : Bool :=
  match e.pfxi with
  | none => true
  | some p => p = 0
/-- Target of an I-form branch: slot address + 4 * imm (R379, R396). -/
def Env.target11 (e : Env) (i : BitVec 11) : Nat := (BitVec.ofNat 64 e.addr + 4 * e.imm11 i).toNat
/-- Target of a J-form branch (R58). -/
def Env.target21 (e : Env) (i : BitVec 21) : Nat := (BitVec.ofNat 64 e.addr + 4 * i.signExtend 64).toNat

/-! ### A slot as the issue stage sees it -/

/-- Engine classes (R61). -/
inductive Cls where
  | none | x | y | vec | mem | copy | mat | ctl | launch | suspend
deriving DecidableEq, Repr, Inhabited

/-- What a slot asks of the issue stage, and what it does when its bundle issues. -/
structure Slot where
  cls : Cls := .none
  /-- no ILLEGAL_INSTR (R59) -/
  legal : Bool := true
  /-- PRIV by the mode alone, and PRIV by operand values (R94, R438) -/
  priv : Bool := false
  privVal : Bool := false
  /-- accepts PFXI, a scalar PFXP, a lane mask (R66) -/
  okI : Bool := false
  okP : Bool := false
  okL : Bool := false
  /-- register reads (R62, R73, R74) -/
  reads : List (File × Nat) := []
  /-- the reads on which its engine wait and its places in the basket depend (R43): where none are named, no read for an ABR wait and all of them
  for any other -/
  keys : Option (List (File × Nat)) := .none
  /-- poison consumed: the address R323 reports -/
  ecc : Option Nat := .none
  /-- latches filled -/
  fills : List (Nat × Wide × W64) := []
  /-- a hold of its own, tested once its reads have landed -/
  hold : HoldKind := .none
  /-- the hold waits for the context's results to land (R34) -/
  lands : Bool := false
  /-- what the first presentation of a held bundle starts; `calm` puts it off while an interlock holds (R489) -/
  present : State → State := id
  calm : Bool := false
  /-- ILLEGAL_INSTR by operand values, once they are known, with TRAP_ADDR (R68, R291, R469) -/
  illVal : Option W64 := .none
  /-- causes of kind before, with TRAP_ADDR -/
  traps : List (Nat × W64) := []
  /-- a translation failure that kills (R172) -/
  kill : Option W64 := .none
  /-- taken branch of the control slot, of scalar Y -/
  takenK : Option Nat := .none
  takenY : Option Nat := .none
  /-- fixed results (R314) -/
  nres : Nat := 0
  /-- basket entries under a prediction (R294) -/
  loc : Nat := 0
  rem : Nat := 0
  /-- 0 owner flips, 1 local loads, 2 everything else (R182) -/
  phase : Nat := 2
  eff : State → State := id

/-- Poison of a list of operands, lanes masked: the first poisoned one's code (R323). -/
def eccOf : List (W64 × Nat) → Option Nat
  | [] => none
  | (p, c) :: r => if p = 0 then eccOf r else some c

/-- A scalar operand's poison and code. -/
def Opnd.sc (o : Opnd) : W64 × Nat := (o.psn &&& 1, o.code)
/-- A vector operand's poison in the enabled lanes, and code. -/
def Opnd.lc (o : Opnd) (lanes : W64) : W64 × Nat := (o.psn &&& lanes, o.code)

/-- Fill hold latches (R69). -/
def Ctx.fill (x : Ctx) (fs : List (Nat × Wide × W64)) : Ctx :=
  fs.foldl (fun (x : Ctx) (f : Nat × Wide × W64) =>
    x.modR fun r => { r with latch := r.latch.set (f.1 % 16) f.2.1 (Nat.mod_lt _ (by decide)),
                             latchp := r.latchp.set (f.1 % 16) f.2.2 (Nat.mod_lt _ (by decide)) }) x

/-- The condition register of a PFXP: a read, and an operand that may carry poison (R447). -/
def Env.condReg (e : Env) : List (File × Nat) × List (W64 × Nat) :=
  match e.pfxp with
  | none => ([], [])
  | some (m, r) =>
    let f : File := if m.toNat < 2 then .x else if m.toNat < 4 then .y else .q
    let o := e.reg f r
    (o.rd, [o.sc])

/-- Prefixes of the wrong kind (R66, R67). -/
def Slot.prefixBad (sl : Slot) (e : Env) : Bool :=
  (e.pfxi.isSome && !sl.okI) || (e.pfxp.isSome && (if e.lm then !sl.okL else !sl.okP))

/-- Complete a slot: the operands that it reads, the prefix that conditions it, and the latches (R65, R69, R447). A slot whose scalar condition is false
has no engine wait: a `movx.nx` among them does not wait for its NEXTT result (log 90). -/
def Slot.finish (sl : Slot) (e : Env) (ops : List Opnd) (psn : List (W64 × Nat)) : Slot :=
  let (cr, cp) := e.condReg
  let reads := cr ++ ops.flatMap (·.rd)
  let fills := ops.flatMap (·.fill)
  if e.cond then
    { sl with reads := reads, keys := (if sl.keys.isNone && decide (sl.hold = .abr) then some [] else sl.keys).map (cr ++ ·), fills := fills, ecc := eccOf (cp ++ psn),
              eff := fun s => sl.eff (s.modCtx e.c fun x => x.fill fills) }
  else
    { sl with reads := reads, fills := [], ecc := eccOf cp, hold := .none, present := id, illVal := none, traps := [], kill := none,
              takenK := none, takenY := none, nres := 0, loc := 0, rem := 0, eff := id }

/-! ### Whether a bundle issues (R68, R73, R74, R78, R294, R314) -/

/-- What the issue stage decides. -/
inductive Verdict where
  | go
  | hold (h : HoldKind)
  | trap (cause : Nat) (addr : W64)
  | kill (addr : W64)
deriving DecidableEq, Repr, Inhabited

/-- A read is interlocked while a variable result to the register has not landed (R74). -/
def Ctx.ilock (x : Ctx) (rs : List (File × Nat)) : Bool :=
  rs.any fun r => x.inflight.any fun t => decide (t.file = r.1) && decide (t.idx = r.2) && !t.fixed
/-- A fixed result to a read register has not landed (R73). -/
def Ctx.early (x : Ctx) (now : Nat) (rs : List (File × Nat)) : Bool :=
  rs.any fun r => x.inflight.any fun t =>
    decide (t.file = r.1) && decide (t.idx = r.2) && t.fixed && (x.replay || decide (now < t.due))
/-- A padded access, or the reply of a padded NEXTT, has not returned by its latency (R276). -/
def Ctx.lateParts (x : Ctx) (now : Nat) : Bool :=
  !x.replay && x.inflight.any fun t => (t.fixed || (x.det && decide (t.file = .n))) && decide (0 < t.need) && decide (t.due ≤ now)
/-- Is the engine wait of a slot known: have the results landed on which it depends (R43)? -/
def Ctx.knows (x : Ctx) (sl : Slot) : Bool := !x.ilock (sl.keys.getD sl.reads)

/-- Is a remote operation a POST, whose effect is of the local class wherever its block lies (R294)? -/
def ROp.isPost (o : ROp) : Bool :=
  match o with
  | .rmw _ (.post _) => true
  | _ => false
/-- Entries of the basket in the local class: one for each slot with a local effect (R294). -/
def Ctx.basketLocal (x : Ctx) : Nat := (x.basket.filter fun (h : Nat × Held) => match h.2 with
  | .mem ls rs => !ls.isEmpty || rs.any fun (r : REntry) => r.op.isPost
  | _ => true).length
/-- Entries in the remote class. -/
def Ctx.basketRemote (x : Ctx) : Nat := (x.basket.filter fun (h : Nat × Held) => match h.2 with
  | .mem _ rs => rs.any fun (r : REntry) => !r.op.isPost
  | _ => false).length

/-- The lowest cause, and among equal causes the earliest slot (R68). -/
def lowest : List (Nat × W64) → Option (Nat × W64)
  | [] => none
  | t :: r =>
    match lowest r with
    | none => some t
    | some u => if t.1 ≤ u.1 then some t else some u

/-- ILLEGAL_INSTR of a slot, with TRAP_ADDR: by its word, or by the value of an operand once that is known (R59, R68, R291, R469, log 62). -/
def Slot.illegal (sl : Slot) (x : Ctx) : Option W64 :=
  if !sl.legal then some 0 else if x.ilock sl.reads then none else sl.illVal

/-- The verdict on the slots of a bundle, in slot order. `bad` tells whether a prefix is misplaced. ILLEGAL_INSTR and PRIV by an operand's value wait
until the value is known (log 62). An engine wait holds the bundle whatever interlocks also do (R43). -/
def verdict (x : Ctx) (now : Nat) (sls : List Slot) (bad : Bool) : Verdict :=
  if let some a := sls.findSome? (·.illegal x) then .trap cILLEGAL a
  else if bad then .trap cPREFIX 0
  else if sls.any fun sl => sl.priv || (sl.privVal && !x.ilock sl.reads) then .trap cPRIV 0
  else
    let free := sls.filter x.knows
    let room := x.preds.isEmpty ||
      (decide (x.basketLocal + (free.map (·.loc)).sum ≤ 64) && decide (x.basketRemote + (free.map (·.rem)).sum ≤ 16))
    if free.any fun sl => sl.hold = .abr then .hold .abr
    else if (free.any fun sl => sl.hold = .engine) || !room then .hold .engine
    else if (sls.any fun sl => x.ilock sl.reads) || (free.any fun sl => sl.hold = .interlock) || x.lateParts now
        || decide (48 < x.inflight.length + (sls.map (·.nres)).sum ∧ 0 < (sls.map (·.nres)).sum) then .hold .interlock
    else
      let stall : List (Nat × W64) := if x.r.schk && (sls.any fun sl => x.early now sl.reads) then [(cSTALL, 0)] else []
      let multi : List (Nat × W64) :=
        if x.r.schk && (sls.any fun sl => sl.takenK.isSome) && (sls.any fun sl => sl.takenY.isSome)
        then [(cMULTI, 0)] else []
      let rest := sls.flatMap fun sl => sl.traps ++ (match sl.ecc with
        | some a => [(cECC, BitVec.ofNat 64 a)]
        | none => [])
      match lowest (stall ++ multi ++ rest) with
      | some (c, a) => .trap c a
      | none =>
        match sls.findSome? (·.kill) with
        | some a => .kill a
        | none => .go

/-- Results of a snapshot take their dues when the first bundle of a resumption issues (R317), or when a bundle is first presented whose
hold waits for them to land (R34, R314). -/
def Ctx.rebase (x : Ctx) (now : Nat) : Ctx :=
  if x.replay then
    { x with replay := false, inflight := x.inflight.map fun t => if t.fixed then { t with due := now + t.due } else t }
  else x

/-- Carry out a verdict that is not to go: a hold, a trap (ERR_MULTIBR counts a MULTI_BRANCH, R78) or a kill; a trap or
kill on a predicted arm waits for the resolution (R297). -/
def State.stopFor (s : State) (c : Nat) (v : Verdict) (sls : List Slot) : State :=
  match v with
  | .go => s
  | .hold h =>
    let busy := sls.any fun sl => (s.ctx c).ilock sl.reads || decide (sl.hold = .interlock)
    let s1 := sls.foldl (fun s (sl : Slot) =>
      if (s.ctx c).ilock sl.reads || (sl.calm && busy) then s else sl.present s) s
    let full := decide (48 < (s.ctx c).inflight.length + (sls.map (·.nres)).sum ∧ 0 < (sls.map (·.nres)).sum)
    s1.modCtx c fun x =>
      { (if h = .interlock ∧ (full ∨ sls.any (·.lands)) then x.rebase s.now else x) with held := h }
  | .trap cause a =>
    let pc := (s.ctx c).pc
    let s1 := if cause = cMULTI ∧ (s.ctx c).preds.isEmpty
      then s.modCtx c fun x => x.countMultibr s.now else s
    trapOrWait c cause a pc s1
  | .kill a => killOrWait c a s

/-! ### Results -/

/-- Put a fixed result of latency `lat` in flight for the current context (R71). -/
def Env.fixed (e : Env) (f : File) (r : BitVec 5) (v : Wide) (lat : Nat) (s : State) : State :=
  s.modCtx e.c fun x => x.push (mkRes f r.toNat v (e.s.now + lat))
/-- The same with flags (R89). -/
def Env.fixedF (e : Env) (f : File) (r : BitVec 5) (v : Wide) (lat : Nat) (fl : BitVec 5) (s : State) : State :=
  s.modCtx e.c fun x => x.push { mkRes f r.toNat v (e.s.now + lat) with flags := fl }
/-- The same, masked by the enabled lanes (R65). -/
def Env.fixedL (e : Env) (f : File) (r : BitVec 5) (v : Wide) (lat : Nat) (fl : BitVec 5) (s : State) : State :=
  s.modCtx e.c fun x => x.push { mkRes f r.toNat v (e.s.now + lat) with flags := fl, lm := e.lm, lanes := e.lanes }

end Sys2Proof.Machine
end

