-- ==== Sys2Proof/Machine/Records.lean ====
section
/-! DEFINITION. The end of a run: the write-back of SUSPEND and TEND (R34, R35, R264, R473). -/

namespace Sys2Proof.Machine

/-- What the sequencer keeps of the record that a context runs. -/
def State.recRef (s : State) (c : Nat) : RecRef :=
  let x := s.ctx c
  ⟨x.rcd, x.vf, x.part, x.foot, x.fslot, x.lquo, x.team, x.tsize, x.tmem.toNat, x.prio, x.det, s.now, none, false⟩

/-- The contexts of a deterministic gang, whose member 0 is `l` (R275). -/
def State.gang (s : State) (l : Nat) : List Nat :=
  (s.ctxs.l.filter fun (p : Nat × Ctx) => decide (p.2.leader = some l) || decide (p.1 = l)).map (·.1)
/-- Member 0 of the context's gang: itself for a solitary task. -/
def State.leaderOf (s : State) (c : Nat) : Nat := ((s.ctx c).leader).getD c

/-- May the write-back take place: every result of the bundle has landed (R34), and in a gang every member has issued
the bundle (R473). -/
def State.leaveReady (s : State) (c : Nat) : Bool :=
  let x := s.ctx c
  decide (x.phase = .leaving) && x.inflight.isEmpty &&
    (s.gang (s.leaderOf c)).all fun m =>
      decide (m = c) || decide ((s.ctx m).phase = .idle) || (decide ((s.ctx m).phase = .leaving) && (s.ctx m).inflight.isEmpty)

/-- One completion counted to the record's job control block (R263). -/
def State.countDone (s : State) (vf : Nat) (jcb : BitVec 48) : State :=
  if jcb = 0 then s
  else match s.jcbLoc vf (jcb.toNat * 64) with
    | none => s
    | some x => if s.anyPoison x.loc 64 then s else (s.touch x.ptes true).jcbCount x.loc vf false

/-- Write back dwords of a record from a list, from dword i on. -/
def State.recWrites (s : State) (vf addr i : Nat) : List W64 → State
  | [] => s
  | w :: r => State.recWrites (s.recWrite vf addr i w.toNat) vf addr (i + 1) r

/-- The write-back (R35): TEND, and SUSPEND with POSTED set, end the record DONE; SUSPEND otherwise makes it READY or
WAITING and hands it to the sequencer. The context is free afterwards. -/
def State.writeBack (s : State) (c : Nat) : State :=
  let x := s.ctx c
  match x.leave with
  | none => s
  | some (tend, w6, pc) =>
    let w := x.words
    if tend || x.posted then
      let s1 := s.recWrites x.vf x.rcd 0
        [w[0], w[1], w[2], w[3], w[4], w[5], 0, BitVec.ofNat 64 (withState w[7].toNat 4 0)]
      let s2 := if x.posted then s1 else s1.countDone x.vf x.jcb
      s2.vacate c
    else
      let w0 := (w[0] &&& 0xFFC0000000000000) ||| BitVec.ofNat 64 (pc % 2 ^ 54 / 4 * 4)
      let waits := decide (w6.toNat / 2 ^ 60 ≠ 0)
      let s1 := s.recWrites x.vf x.rcd 0
        [w0, w[1], x.getX 1, x.getX 2, x.getX 3, x.getX 4, w6, BitVec.ofNat 64 (withState w[7].toNat (if waits then 3 else 1) 0)]
      let r := s.recRef c
      let s2 := s1.modCluster (clusterOf (coreOf c)) fun q =>
        if waits then { q with waiting := q.waiting ++ [r] } else { q with ready := q.ready ++ [r] }
      s2.vacate c

end Sys2Proof.Machine
end

