-- ==== Sys2Proof/Machine/Issue.lean ====
section
/-! DEFINITION. What follows the slots of a bundle that has issued: the next program counter, the spacing of bundles, the
stops of kind after, predictions and the end of a run (R70, R76 to R81, R311, R364, R366); and the issue of one slot. -/

namespace Sys2Proof.Machine

/-- The next program counter (R77), after the bundle at `b` whose following bundle in memory is `after`. -/
def Ctx.next (x : Ctx) (b after : Nat) (taken : Option Nat) : Ctx :=
  let due := x.r.loopCnt ≠ 0 ∧ b = x.r.loopEnd.toNat
  let seq := match x.pending with
    | some p => p
    | none => after
  if due then
    (if x.pending = none ∧ taken = none ∧ 1 < x.r.loopCnt.toNat then
      { x with pc := x.r.loopBegin.toNat, pending := taken, r := { x.r with loopCnt := x.r.loopCnt - 1 } }
     else { x with pc := seq, pending := taken, r := { x.r with loopCnt := 0 } })
  else { x with pc := seq, pending := taken }

/-- The branch that counts (R78): the control slot's wins, and ERR_MULTIBR counts a second one. -/
def takenOf (i : Issue) : Option Nat :=
  match i.takenK with
  | some t => some t
  | none => i.takenY

/-- Has the reply of a NEXTT request returned (R273, R276)? -/
def Res.back (t : Res) (now : Nat) : Bool := decide (t.need = 0) && decide (t.due ≤ now)
/-- NEXTT results that have returned land at the bundle in which they fall due, before its reads (R273). -/
def Ctx.landNextt (x : Ctx) (now : Nat) : Ctx :=
  (x.inflight.filter fun (t : Res) => decide (t.file = .n) && t.back now && decide (t.bun ≤ x.bundles)).foldl
    (fun (y : Ctx) t => y.land now t) x

/-- Enter the issue of a bundle in the current context: the checks are made, its slots take effect, and held operands come from the latches as they
stand now (R69). -/
def State.enter (s : State) : State :=
  let s1 := s.modCtx s.cur fun x => (x.rebase s.now).landNextt s.now
  { s1 with iss := { s1.iss with checked := true, latches := some ((s1.ctx s1.cur).r.latch, (s1.ctx s1.cur).r.latchp) } }

/-- The stop of kind after that a bundle ends with (R312); `own` says that the bundle holds a DBRK or a TRAP. A follower of a gang that has issued
such a bundle freezes as under PREEMPT (R413, R474), and with member 0's STEP alone the followers stop at once (R366). -/
def State.stopAfter (s : State) (c cause bundle : Nat) (own : Bool) : State :=
  if (s.ctx c).leader.isSome then s.preempt c 3
  else
    let s1 := takeTrap c cause 0 bundle s
    if !own then
      s1.ctxs.keys.foldl (fun (s : State) m => if (s.ctx m).leader = some c then s.preempt m 3 else s) s1
    else s1

/-- After a bundle: R77, R70, R364, the stops of kind after and the end of a run. -/
def State.endBundle (s : State) (maxW : Nat) : State :=
  let c := s.cur
  let i := s.iss
  let x0 := s.ctx c
  let both := i.takenK.isSome && i.takenY.isSome
  -- a SUSPEND in a loop resumes at the next bundle in memory (R469)
  let y := match i.leave with
    | some (false, _) => ({ x0 with r := { x0.r with loopCnt := 0 } } : Ctx).next i.bundle i.after (takenOf i)
    | _ => x0.next i.bundle i.after (takenOf i)
  let x1 : Ctx := { (if both then y.countMultibr s.now else y) with
    ran := (i.bundle, x0.scyc), bundles := x0.bundles + 1, nextIssue := s.now + 1 + maxW, scyc := (x0.scyc + 1 + maxW) % 2 ^ 64,
    held := .none, wait := none, wfe := none, fence := none, resumed := false, wsk := false,
    report := x0.report.map fun (t, a, src, m, n, ar) => (t, a, src, m, n + 1, ar),
    preds := match i.pred with
      | some p => x0.preds ++ [{ p with regs := x0.r, seq := x0.nextSeq, bundle := i.bundle, after := i.after,
                                        pending := x0.pending, other := i.takenY }]
      | none => x0.preds }
  let s1 := { s.setCtx c x1 with iss := Issue.none }
  match i.leave with
  | some (tend, w6) =>
    let s2 := s1.modCtx c fun x => { x with phase := .leaving, leave := some (tend, w6, x.pc) }
    if s2.leaveReady c then s2.writeBack c else s2
  | none =>
    let step : Option Nat := if x1.stepMode && x1.leader.isNone then some cSTEP else none
    let cause := match i.stopAfter, step with
      | some a, some b => some (min a b)
      | some a, none => some a
      | none, b => b
    match cause with
    | some a => s1.stopAfter c a i.bundle i.stopAfter.isSome
    | none => s1

/-- Issue one slot. Inside a bundle whose checks are made it takes its effect. On its own it is a bundle of one slot at
the program counter: the checks come first, and a hold, trap or kill takes the place of the effect. -/
def issueSlot (sl : Slot) (s : State) : Host.Outcome State Fault Refusal :=
  if s.iss.checked then .next (sl.eff s)
  else
    match verdict (s.ctx s.cur) s.now [sl] (sl.prefixBad s.env || s.iss.pfxiBad) with
    | .go => .next ((sl.eff s.enter).endBundle 0)
    | v => .next (s.stopFor s.cur v [sl])

/-- The state in which one slot stands alone as a bundle at the current context's program counter. -/
def State.alone (s : State) : State :=
  if s.iss.checked then s
  else
    let pc := (s.ctx s.cur).pc
    { s with iss := { s.iss with bundle := pc, slot := pc, after := pc + 4 } }

/-- Issue the slot that `f` reads from the state. -/
def issue (f : State → Slot) (s : State) : Host.Outcome State Fault Refusal := issueSlot (f s.alone) s.alone

end Sys2Proof.Machine
end

