-- ==== Sys2Proof/Machine/Access.lean ====
section
/-! DEFINITION. Engine accesses: the owner map and translation for an engine, reading and writing a range page by page
(R151, R163, R172 to R176, R320, R322). -/

namespace Sys2Proof.Machine

/-- How one engine access ends before it performs. -/
inductive EngRes where
  /-- the pieces of the range: home location and length, in address order, and leaf entries -/
  | ok (ps : List (Nat × Nat)) (ptes : List Nat)
  /-- refused with a retry-after hint (R175) -/
  | moving (va : Nat)
  /-- OWNER_REFUSED (R151) -/
  | owner (va : Nat)
  /-- a failed translation (R172, R173) -/
  | fail (va : Nat)
  /-- the path to the owner is lost: reads give poison, and writes are discarded (R300) -/
  | lost (va : Nat)
deriving DecidableEq, Repr, Inhabited

/-- Does the walk queue of an owner hold more than 192 waiting misses (R175)? -/
def State.walksFull (s : State) (owner : Nat) : Bool := decide (192 < s.walks.toList.getD (owner % 4) 0)

/-- An access inside one tile slot or page by an engine of core k for function vf. One from outside to a partition that resets fails (R332). -/
def State.engPiece (s : State) (k vf va n : Nat) (a : Acc) : EngRes :=
  match s.place va with
  | .own ofs => if s.engineOk k ofs vf then .ok [(spLoc (s.key (s.owner k)) (k % 64) ofs, n)] [] else .owner va
  | .window o c ofs =>
    if s.pathLost k va then .lost va
    else if s.resetting k (spLoc (s.key o) c ofs) then .fail va else if s.engineOk (s.coreAt o c) ofs vf then .ok [(spLoc (s.key o) c ofs, n)] [] else .owner va
  | .mem o f =>
    if s.pathLost k va then .lost va
    else match s.translate vf o f a with
    | none => .fail va
    | some x => if s.resetting k x.loc then .fail va else if x.mv || s.walksFull o then .moving va else .ok [(x.loc, n)] x.ptes
  | _ => .fail va

/-- An access to a range, cut at multiples of 4 KiB; the first piece that does not pass decides. -/
def State.engRange (s : State) (k vf : Nat) (a : Acc) : Nat → Nat → Nat → EngRes
  | 0, _, _ => .ok [] []
  | fuel + 1, va, n =>
    if n = 0 then .ok [] []
    else
      let m := min n (4096 - va % 4096)
      match s.engPiece k vf va m a with
      | .ok ps pt =>
        (match s.engRange k vf a fuel (va + m) (n - m) with
         | .ok qs qt => .ok (ps ++ qs) (pt ++ qt)
         | r => r)
      | r => r

/-- An engine access to n bytes at va. -/
def State.engAcc (s : State) (k vf : Nat) (a : Acc) (va n : Nat) : EngRes := s.engRange k vf a (n / 4096 + 2) va n

/-- The bytes of pieces as one little-endian number (R14). -/
def State.rdPieces (s : State) : List (Nat × Nat) → Nat
  | [] => 0
  | (l, n) :: r => s.rd l n + 2 ^ (8 * n) * State.rdPieces s r

/-- Address of the first poisoned aligned dword of pieces that begin at address va, not below va (R322). -/
def State.psnPieces (s : State) : Nat → List (Nat × Nat) → Option Nat
  | _, [] => none
  | va, (l, n) :: r =>
    match (List.range ((l + n + 7) / 8 - l / 8)).find? fun i => s.poison.contains (l / 8 + i) with
    | some i => some (va + (max ((l / 8 + i) * 8) l - l))
    | none => State.psnPieces s (va + n) r

/-- Write a little-endian number over pieces, or poison them (R320, R322). -/
def State.wrPieces (s : State) : Nat → Bool → List (Nat × Nat) → State
  | _, _, [] => s
  | v, p, (l, n) :: r => State.wrPieces (if p then (s.addPoison l n).wake ((List.range n).map (l + ·)) else s.wr l n (v % 2 ^ (8 * n))) (v / 2 ^ (8 * n)) p r

/-- The next retry-after hint of an owner, 1 to 65,535 FTB ticks (R175, log 9). -/
def State.hint (s : State) : Nat := (Config.retryHint s.fresh).toNat % 65535 + 1

end Sys2Proof.Machine
end

