-- ==== Sys2Proof/Machine/MemoryOps.lean ====
section
/-! DEFINITION. The memory class: loads, stores, atomics, versioned stores, owner flips, pins, probes, fences and waits (R150
to R158, R164, R174, R192 to R206, R392 to R394, R412, R416, R421, R427 to R430, R445, R450, R451, R456 to R459, R465 to R467). -/

namespace Sys2Proof.Machine

/-! ### Where an access goes -/

/-- Where an access of a slot goes (R166, R172, R175, R181). -/
inductive Route where
  /-- a home location of the own die or scratchpad, and the leaf entries of its translation -/
  | loc (l : Nat) (ptes : List Nat)
  /-- its page is being moved: held -/
  | moving
  | remote
  /-- a local translation that fails: kills -/
  | fail
deriving DecidableEq, Repr, Inhabited

/-- Route of an address for an access of kind `a`. -/
def State.route (s : State) (c va : Nat) (a : Acc) : Route :=
  let k := coreOf c
  match s.place va with
  | .own ofs => .loc (spLoc (s.key (s.owner k)) (k % 64) ofs) []
  | .window _ _ _ => .fail
  | .outside => .remote
  | .bad => if s.isLocal k va then .fail else .remote
  | .mem o f =>
    if o ≠ s.owner k then .remote
    else match s.translate (s.ctx c).vf o f a with
      | none => .fail
      | some x => if x.mv then .moving else .loc x.loc x.ptes

/-- A core access to the own scratchpad is to a slot the context holds thread-owned, and any other scratchpad window is
refused (R150). -/
def State.ownerBad (s : State) (c va : Nat) : Bool :=
  match s.place va with
  | .own ofs => !s.ownOk c ofs
  | .window _ _ _ => true
  | _ => false

/-- Causes of an access that may name the own scratchpad. -/
def Env.chk (e : Env) (va : W64) (align : Nat) : List (Nat × W64) :=
  (if e.s.ownerBad e.c va.toNat then [(cOWNER, va)] else []) ++ (if va.toNat % align ≠ 0 then [(cALIGN, va)] else [])
/-- Causes of an access that no scratchpad window takes. -/
def Env.chkMem (e : Env) (va : W64) (align : Nat) : List (Nat × W64) :=
  (if e.s.inScratch va.toNat then [(cOWNER, va)] else []) ++ (if va.toNat % align ≠ 0 then [(cALIGN, va)] else [])

/-- One element of an access: address, bytes, and the byte of the register it belongs to. -/
structure Elem where
  va : Nat
  len : Nat
  off : Nat
deriving DecidableEq, Repr, Inhabited

/-- The first element whose access kills at the bundle, with a failing local translation or on another package from a
deterministic queue. -/
def Env.killOf (e : Env) (a : Acc) (els : List Elem) : Option W64 :=
  (els.find? fun (l : Elem) => decide (e.s.route e.c l.va a = .fail) || (e.x.det && e.s.offPackage l.va)).map
    fun (l : Elem) => BitVec.ofNat 64 l.va
/-- Is any element's page being moved (R175)? -/
def Env.movingOf (e : Env) (a : Acc) (els : List Elem) : Bool :=
  els.any fun (l : Elem) => decide (e.s.route e.c l.va a = .moving)
/-- Is the address reached remotely? -/
def Env.isRemote (e : Env) (va : Nat) : Bool := !e.s.isLocal e.k va

/-! ### Entering the queues (R182, R207) -/

/-- Remote operations take their places in ROUT(c), each under its own number. -/
def Ctx.addRout (x : Ctx) (rs : List REntry) : Ctx :=
  rs.foldl (fun (x : Ctx) (r : REntry) => { x with rout := x.rout ++ [{ r with id := x.nextSeq }], nextSeq := x.nextSeq + 1 }) x

/-- The memory effects of one slot enter LSQ(c) and ROUT(c), or the basket under a prediction. -/
def State.enterMem (s : State) (c : Nat) (ls : List LEntry) (rs : List REntry) : State :=
  s.modCtx c fun x =>
    if ls.isEmpty && rs.isEmpty then x
    else if x.preds.isEmpty then { x with lsq := x.lsq ++ ls }.addRout rs
    else { x with basket := x.basket ++ [(x.preds.length, .mem ls rs)] }

/-- A local entry. -/
def mkL (op : LOp) (seq : Nat) (ptes : List Nat) : LEntry := ⟨op, seq, ptes, 0⟩
/-- A remote entry. -/
def Env.mkR (e : Env) (op : ROp) (seq : Nat) : REntry := ⟨0, op, seq, 0, none, e.x.preds.length, 0, 0⟩

/-- The result of a variable-latency access: it lands when all its parts have returned and not before `lat` cycles; on a
deterministic queue it is fixed at the padded latency `pad` (R74, R276). -/
def Env.varRes (e : Env) (f : File) (r : BitVec 5) (lat pad need : Nat) : Res :=
  { mkRes f r.toNat 0 (e.s.now + (if e.x.det then pad else lat)) with fixed := e.x.det, need := need }
/-- Fixed results that such an access makes: one where a deterministic queue pads it (R276, R314). -/
def Env.padded (e : Env) : Nat := if e.x.det then 1 else 0

/-! ### Loads -/

/-- The bytes of the basket that a remote load takes (R207); none while one of them is pending. -/
def overlay (x : Ctx) (va : Nat) (loc : Option Nat) : Nat → Option (List (Nat × Byte))
  | 0 => some []
  | n + 1 =>
    match overlay x va loc n with
    | none => none
    | some r =>
      match x.basketCover (va + n) (loc.map (· + n)) with
      | .byte b => some (r ++ [(n, b)])
      | .pending => none
      | .nothing => some r

/-- Home location of an address on this package that translates for reading, for the basket's sake. -/
def State.homeOf (s : State) (vf va : Nat) : Option Nat := (s.xlatVa vf va .rd).map (·.loc)

/-- Must the element wait for a pending write of its own (R184)? -/
def Env.pendingAt (e : Env) (l : Elem) : Bool :=
  match e.s.route e.c l.va .rd with
  | .loc a _ => (e.s.localRead e.c l.va a l.len).isNone
  | .remote => (overlay e.x l.va (e.s.homeOf e.x.vf l.va) l.len).isNone
  | _ => false

/-- Poison of an element by lane: bit 0 alone for a scalar at offset 0. A home that resets with another partition reads as poison (R332). -/
def Env.elemPsn (e : Env) (l : Elem) (a : Nat) : W64 :=
  maskOfLanes (fun i => e.s.localPoison e.c (l.va + 4 * i) (a + 4 * i) (min 4 (l.len - 4 * i)) || e.s.resetting e.k (a + 4 * i)) l.off
    ((l.len + 3) / 4)
where
  /-- A mask of n lanes from a function of the lane, from the lane of byte `off` on. -/
  maskOfLanes (f : Nat → Bool) (off n : Nat) : W64 :=
    (List.range n).foldl (fun (m : W64) i => if f i then m ||| (1#64 <<< (off / 4 + i)) else m) 0

/-- What the local elements of a load give: value and poison. -/
def Env.localVal (e : Env) (els : List Elem) : Wide × W64 :=
  els.foldl (fun (r : Wide × W64) (l : Elem) =>
    match e.s.route e.c l.va .rd with
    | .loc a _ => (r.1 ||| (BitVec.ofNat 2048 ((e.s.localRead e.c l.va a l.len).getD 0) <<< (8 * l.off)), r.2 ||| e.elemPsn l a)
    | _ => r) (0, 0)

/-- Leaf entries that local elements reach (R168). -/
def Env.ptesOf (e : Env) (a : Acc) (els : List Elem) : List Nat :=
  els.flatMap fun (l : Elem) => match e.s.route e.c l.va a with
    | .loc _ p => p
    | _ => []

/-- A load of elements into a register (R182, R185, R427, R428): local elements are read now, and remote ones enter ROUT(c).
`own` makes an access to the own scratchpad fixed at latency 6. -/
def Env.load (e : Env) (f : File) (d : BitVec 5) (els : List Elem) (lat : Nat) (own always : Bool) : State → State := fun s =>
  let rem := if always then els else els.filter fun (l : Elem) => e.isRemote l.va
  let loc := if always then [] else els.filter fun (l : Elem) => !e.isRemote l.va
  let (v, p) := e.localVal loc
  let t0 := e.varRes f d lat (if rem.isEmpty then 720 else 1600) rem.length
  let t1 := { t0 with val := v, psn := p, lm := e.lm && decide (f = .v), lanes := e.lanes }
  let t := if own then { t1 with due := e.s.now + 6, fixed := true } else t1
  let seq := (s.ctx e.c).nextSeq
  let rs := rem.map fun (l : Elem) =>
    e.mkR (.load l.va l.len l.off ((overlay e.x l.va (e.s.homeOf e.x.vf l.va) l.len).getD [])) seq
  (s.touch (e.ptesOf .rd loc) false).modCtx e.c fun x => (x.push t).addRout rs

/-- The slot of a load. -/
def Env.loadSlot (e : Env) (sl : Slot) (ops : List Opnd) (psn : List (W64 × Nat)) (f : File) (d : BitVec 5)
    (els : List Elem) (lat : Nat) (own : Bool) : Slot :=
  Slot.finish
    { sl with
      cls := .mem, phase := 1, nres := if own then 1 else e.padded,
      hold := if e.movingOf .rd els || els.any e.pendingAt then .interlock else .none,
      kill := e.killOf .rd els, eff := e.load f d els lat own false } e ops psn

/-- Effective address of an M-form access (R427). -/
def Env.ea (e : Env) (base : W64) (ofs : BitVec 8) (unit : Nat) : W64 := base + e.ofs8 ofs * BitVec.ofNat 64 unit

/-- Does the address lie in the own-scratchpad window? -/
def State.inOwn (s : State) (va : Nat) : Bool :=
  match s.place va with
  | .own _ => true
  | _ => false

/-- LD (R427). -/
def slotLd (o : MO) (size : BitVec 2) (s : State) : Slot :=
  let e := s.env
  let n := 2 ^ size.toNat
  let a := e.opnd .x o.base o.ha 8
  let ea := e.ea a.d o.ofs n
  e.loadSlot { okI := true, okP := true, traps := e.chk ea n } [a] [a.sc] .x o.d [⟨ea.toNat, n, 0⟩] 6 (e.s.inOwn ea.toNat)

/-- The elements of a 256-byte access under the lane mask: lanes when local, 64-byte lines when remote (R427, R465). -/
def Env.vElems (e : Env) (ea : Nat) : List Elem :=
  if e.isRemote ea then
    ((List.range 4).filter fun i => (List.range 16).any fun l => e.on (16 * i + l)).map fun i => ⟨ea + 64 * i, 64, 64 * i⟩
  else ((List.range 64).filter fun l => e.on l).map fun l => ⟨ea + 4 * l, 4, 4 * l⟩

/-- LDV (R427): with every lane disabled it makes no access. -/
def slotLdv (o : MO) (s : State) : Slot :=
  let e := s.env
  let a := e.opnd .x o.base o.ha 8
  let ea := e.ea a.d o.ofs 256
  e.loadSlot { okI := true, okP := true, okL := true, traps := if e.lanes = 0 then [] else e.chk ea 256 }
    [a] [a.sc] .v o.d (e.vElems ea.toNat) 6 (e.s.inOwn ea.toNat)

/-- Element size, address unit and whether the form is one of the y forms (R428). -/
def gatherForm (v : Nat) : Nat × Nat × Bool :=
  match v with
  | 0 => (4, 1, false)
  | 1 => (4, 4, false)
  | 2 => (2, 1, false)
  | 3 => (1, 1, false)
  | 8 => (8, 1, true)
  | _ => (4, 1, true)

/-- The element addresses of a gather or scatter, enabled lanes in ascending order (R428). -/
def Env.gElems (e : Env) (v : Nat) (a : W64) (b : Opnd) : List Elem :=
  let (n, u, y) := gatherForm v
  if y then (if e.on 0 then [⟨(a + b.d).toNat, n, 0⟩] else [])
  else ((List.range 64).filter fun l => e.on l).map fun l =>
    ⟨(a + BitVec.ofNat 64 u * (b.lane l).setWidth 64).toNat, n, 4 * l⟩

/-- Causes of the elements, lowest lane first (R428). -/
def Env.elemTraps (e : Env) (els : List Elem) : List (Nat × W64) :=
  els.flatMap fun (l : Elem) => e.chk (BitVec.ofNat 64 l.va) l.len

/-- LDG (R428). A lane mask before a y form enables it by lane 0; disabled, it writes nothing. -/
def slotLdg (o : R3) (v : BitVec 4) (s : State) : Slot :=
  let e := s.env
  let y := (gatherForm v.toNat).2.2
  let a := e.opnd .x o.a o.ha 8
  let b := e.opnd (if y then .x else .v) o.b o.hb 9
  let els := e.gElems v.toNat a.d b
  let sl : Slot := { legal := wellFormed (.ldg o v), okP := true, okL := true, traps := e.elemTraps els }
  let ps := [a.sc, if y then b.sc else b.lc e.lanes]
  if y && !e.on 0 then Slot.finish { sl with cls := .mem } e [a, b] []
  else e.loadSlot sl [a, b] ps (if y then .y else .v) o.d els 10 false

/-- RLD is a remote load in every case (R457). -/
def slotRld (o : MO) (size : BitVec 2) (s : State) : Slot :=
  let e := s.env
  let n := 2 ^ size.toNat
  let a := e.opnd .x o.base o.ha 8
  let ea := e.ea a.d o.ofs n
  let el : Elem := ⟨ea.toNat, n, 0⟩
  let pend := (overlay e.x el.va (e.s.homeOf e.x.vf el.va) n).isNone
  Slot.finish { cls := .mem, okI := true, okP := true, nres := e.padded, traps := e.chkMem ea n,
                hold := if pend then .interlock else .none,
                kill := if e.x.det && e.s.offPackage el.va then some ea else none,
                eff := e.load .x o.d [el] 12 false true } e [a] [a.sc]

/-! ### Stores -/

/-- The first byte that a CST watch matches (R324, R325, R327), unless the resumption suppresses it (R328). -/
def Env.watchTrap (e : Env) (vas : List Nat) : List (Nat × W64) :=
  if e.x.wsk then []
  else match watchHit e.x.r 0 vas with
    | some a => [(cWATCH, BitVec.ofNat 64 a)]
    | none => []

/-- The addresses of the bytes of elements. -/
def byteVas (els : List Elem) : List Nat := els.flatMap fun (l : Elem) => (List.range l.len).map (l.va + ·)

/-- The bytes of a register from byte `off` on, at consecutive addresses. -/
def regBytes (v : Wide) (l : Elem) (at0 : Nat) : List (Nat × Byte) :=
  (List.range l.len).map fun i => (at0 + i, v.extractLsb' (8 * (l.off + i)) 8)

/-- The slot of a store of elements of a register value (R465, R466): local elements enter LSQ(c) in order, remote ones
ROUT(c); under a prediction the slot takes one basket entry of each class it touches (R294). `merge` makes the local elements
one entry, and `keys` are the reads of the address. -/
def Env.storeSlot (e : Env) (sl : Slot) (ops : List Opnd) (psn : List (W64 × Nat)) (v : Wide) (els rels : List Elem)
    (merge : Bool) (keys : List (File × Nat)) : Slot :=
  let loc := els.filter fun (l : Elem) => !e.isRemote l.va
  let rem := rels.filter fun (l : Elem) => e.isRemote l.va
  let pred := !e.x.preds.isEmpty
  let entries : List LEntry := loc.filterMap fun (l : Elem) => match e.s.route e.c l.va .wr with
    | .loc a p => some (mkL (.store (regBytes v l a)) 0 p)
    | _ => none
  let ls := if merge then
      (if entries.isEmpty then [] else
        [mkL (.store (entries.flatMap fun (n : LEntry) => match n.op with
          | .store bs => bs
          | _ => [])) 0 (e.ptesOf .wr loc)])
    else entries
  let rs := rem.map fun (l : Elem) => e.mkR (.store (regBytes v l l.va)) 0
  Slot.finish
    { sl with
      cls := .mem, keys := some keys, hold := if e.movingOf .wr loc then .interlock else .none,
      kill := e.killOf .wr els, loc := if pred && !ls.isEmpty then 1 else 0, rem := if pred && !rs.isEmpty then 1 else 0,
      eff := fun s => s.enterMem e.c ls rs } e ops psn

/-- ST (R465). -/
def slotSt (o : MO) (size : BitVec 2) (s : State) : Slot :=
  let e := s.env
  let n := 2 ^ size.toNat
  let a := e.opnd .x o.base o.ha 8
  let d := e.reg .x o.d
  let ea := e.ea a.d o.ofs n
  let els : List Elem := [⟨ea.toNat, n, 0⟩]
  e.storeSlot { okI := true, okP := true, traps := e.chk ea n ++ e.watchTrap (byteVas els) }
    [a, d] [a.sc, d.sc] d.val els els false a.rd

/-- STV (R465): one local entry, or one remote store for each line. -/
def slotStv (o : MO) (s : State) : Slot :=
  let e := s.env
  let a := e.opnd .x o.base o.ha 8
  let d := e.reg .v o.d
  let ea := e.ea a.d o.ofs 256
  let lanes : List Elem := ((List.range 64).filter fun l => e.on l).map fun l => ⟨ea.toNat + 4 * l, 4, 4 * l⟩
  let lines : List REntry := ((List.range 4).map fun i =>
    (lanes.filter fun (l : Elem) => decide (l.off / 64 = i)).flatMap fun (l : Elem) => regBytes d.val l l.va).filterMap
      fun bs => if bs.isEmpty then none else some (e.mkR (.store bs) 0)
  let sl := e.storeSlot
    { okI := true, okP := true, okL := true,
      traps := if e.lanes = 0 then [] else e.chk ea 256 ++ e.watchTrap (byteVas lanes) }
    [a, d] [a.sc, d.lc e.lanes] d.val lanes lanes true a.rd
  if e.isRemote ea.toNat && e.cond && !lines.isEmpty then
    { sl with eff := fun s => (s.modCtx e.c fun x => x.fill a.fill).enterMem e.c [] lines } else sl

/-- STG (R466). -/
def slotStg (o : R3) (v : BitVec 4) (s : State) : Slot :=
  let e := s.env
  let y := (gatherForm v.toNat).2.2
  let a := e.opnd .x o.a o.ha 8
  let b := e.opnd (if y then .x else .v) o.b o.hb 9
  let d := e.reg (if y then .y else .v) o.d
  let els := e.gElems v.toNat a.d b
  let ps := if y then (if e.on 0 then [a.sc, b.sc, d.sc] else []) else [a.sc, b.lc e.lanes, d.lc e.lanes]
  e.storeSlot { legal := wellFormed (.stg o v), okP := true, okL := true, traps := e.elemTraps els ++ e.watchTrap (byteVas els) }
    [a, b, d] ps d.val els els false (a.rd ++ b.rd)

/-- RST: a flagged remote store, also when the address is local (R193, R459). -/
def slotRst (o : R3) (v : BitVec 4) (s : State) : Slot :=
  let e := s.env
  let isV := decide (v = 4)
  let n := if isV then 256 else 2 ^ v.toNat
  let a := e.opnd .x o.a o.ha 8
  let b := e.opnd .x o.b o.hb 9
  let d := e.reg (if isV then .v else .x) o.d
  let el : Elem := ⟨a.d.toNat, n, 0⟩
  let fl : W64 := (a.d &&& 0x003FFC0000000000) ||| (b.d &&& 0xFFC003FFFFFFFFFF)
  Slot.finish
    { cls := .mem, legal := wellFormed (.rst o v), okP := true, keys := some [], rem := if e.x.preds.isEmpty then 0 else 1,
      traps := e.chkMem a.d n ++ (if e.s.inScratch fl.toNat then [(cOWNER, b.d)] else [])
        ++ (if b.d.toNat % 8 ≠ 0 then [(cALIGN, b.d)] else []) ++ e.watchTrap (byteVas [el]),
      kill := if e.x.det && e.s.offPackage el.va then some a.d else none,
      eff := fun s => s.enterMem e.c [] [e.mkR (.rst (regBytes d.val el el.va) fl.toNat) 0] }
    e [a, b, d] [a.sc, b.sc, if isV then d.lc (~~~(0 : W64)) else d.sc]

/-! ### Read-modify-writes -/

/-- The slot of a read-modify-write at an address: local ones enter LSQ(c), remote ones ROUT(c) (R181, R183, R185). `res` says
whether it returns a result in x register d, padded to `pad` cycles on a deterministic queue when it is local (R276). -/
def Env.rmwSlot (e : Env) (sl : Slot) (addr : Opnd) (ops : List Opnd) (psn : List (W64 × Nat)) (va : W64) (op : Rmw) (d : BitVec 5)
    (pad : Nat) (res always : Bool) : Slot :=
  let el : Elem := ⟨va.toNat, op.len, 0⟩
  let rem := always || e.isRemote va.toNat
  let pred := !e.x.preds.isEmpty
  Slot.finish
    { sl with
      cls := .mem, nres := if res then e.padded else 0, keys := some (if always then [] else addr.rd),
      hold := if !rem && e.movingOf .rw [el] then .interlock else .none,
      kill := if rem then (if e.x.det && e.s.offPackage el.va then some va else none) else e.killOf .rw [el],
      loc := if pred && !rem then 1 else 0, rem := if pred && rem then 1 else 0,
      eff := fun s =>
        let seq := if res then (s.ctx e.c).nextSeq else 0
        let s1 := if res then s.modCtx e.c fun x => x.push (e.varRes .x d 12 (if rem then 1600 else pad) 1) else s
        if rem then s1.enterMem e.c [] [e.mkR (.rmw va.toNat op) seq]
        else match e.s.route e.c va.toNat .rw with
          | .loc l p => s1.enterMem e.c [mkL (.rmw l op) seq p] []
          | _ => s1 } e ops psn

/-- ATOM (R392, R393). -/
def slotAtom (o : R3) (v : BitVec 4) (s : State) : Slot :=
  let e := s.env
  let a := e.opnd .x o.a o.ha 8
  let b := e.opnd .x o.b o.hb 9
  e.rmwSlot { legal := wellFormed (.atom o v), okP := true,
              traps := e.chk a.d 4 ++ e.watchTrap (byteVas [⟨a.d.toNat, 4, 0⟩]) }
    a [a, b] [a.sc, b.sc] a.d (.atom v.toNat b.d) o.d 720 true false
/-- RATOM is always remote (R456). -/
def slotRatom (o : R3) (v : BitVec 4) (s : State) : Slot :=
  let e := s.env
  let a := e.opnd .x o.a o.ha 8
  let b := e.opnd .x o.b o.hb 9
  e.rmwSlot { legal := wellFormed (.ratom o v), okP := true,
              traps := e.chkMem a.d 4 ++ e.watchTrap (byteVas [⟨a.d.toNat, 4, 0⟩]) }
    a [a, b] [a.sc, b.sc] a.d (.atom v.toNat b.d) o.d 720 true true
/-- STVER: D is the expected version and takes the status (R205, R467). On a deterministic queue its status is padded to
1,600 cycles wherever the cell is (R276). -/
def slotStver (o : R3) (s : State) : Slot :=
  let e := s.env
  let a := e.opnd .x o.a o.ha 8
  let b := e.opnd .x o.b o.hb 9
  let d := e.reg .x o.d
  e.rmwSlot { okP := true, traps := e.chk a.d 16 ++ e.watchTrap (byteVas [⟨a.d.toNat, 16, 0⟩]) }
    a [a, b, d] [a.sc, b.sc, d.sc] a.d (.stver d.d b.d) o.d 1600 true false
/-- BARM: no scratchpad window takes it, and it writes no register (R194, R394). -/
def slotBarm (o : AB) (s : State) : Slot :=
  let e := s.env
  let a := e.opnd .x o.a o.ha 8
  let b := e.opnd .x o.b o.hb 9
  e.rmwSlot { okP := true, traps := e.chkMem a.d 8 ++ e.watchTrap (byteVas [⟨a.d.toNat, 8, 0⟩]) }
    a [a, b] [a.sc, b.sc] a.d (.barm b.d) 0 720 false false

/-! ### Owner flips (R152, R199, R445) -/

/-- The lowest cause of R152's checks, if any. -/
def Env.flipTrap (e : Env) (a b : W64) : List (Nat × W64) :=
  let first := a.toNat % 2 ^ 23 / 4096
  let n := b.toNat
  if a.toNat / 2 ^ 54 ≠ 0 ∨ a.toNat / 2 ^ 42 % 2 ^ 12 ≠ 0xFFF ∨ a.toNat / 2 ^ 23 % 2 ^ 19 ≠ 0 then [(cOWNER, a)]
  else if a.toNat % 4096 ≠ 0 then [(cALIGN, a)]
  else if 1536 < n ∨ e.s.spSize e.k < (first + n) * 4096 then [(cOWNER, a)]
  else if (List.range n).any fun i => decide ((e.s.slotOf e.k (first + i)).1 ≠ e.c % 4) then [(cOWNER, a)]
  else []

/-- Set O of n slots (R152). -/
def State.flip (s : State) (k first n : Nat) (o : Bool) : State :=
  (List.range n).foldl (fun (s : State) i =>
    let v := s.slotOf k (first + i)
    s.setSlot k (first + i) (v.1, o, v.2.2.1, v.2.2.2)) s

/-- Does an entry of LSQ(c) write one of the slots (R199)? -/
def Env.lsqTouches (e : Env) (first n : Nat) : Bool :=
  let lo := spLoc (e.s.key (e.s.owner e.k)) (e.k % 64) (first * 4096)
  let hi := lo + n * 4096
  e.x.lsq.any fun t => match t.op with
    | .store bs => bs.any fun p => decide (lo ≤ p.1 ∧ p.1 < hi)
    | .rmw l r => decide (l < hi ∧ lo < l + r.len)

/-- The slot of OWNE and OWNT. -/
def flipSlot (e : Env) (o : AB) (eng : Bool) : Slot :=
  let a := e.opnd .x o.a o.ha 8
  let b := e.opnd .x o.b o.hb 9
  let first := a.d.toNat % 2 ^ 23 / 4096
  let n := b.d.toNat
  Slot.finish
    { cls := .mem, okP := true, phase := 0, traps := e.flipTrap a.d b.d,
      hold := if !e.x.preds.isEmpty then .abr
        else if eng && (e.flipTrap a.d b.d).isEmpty && e.lsqTouches first n then .interlock else .none,
      eff := fun s => s.flip e.k first (min n 1536) eng } e [a, b] [a.sc, b.sc]

/-- OWNE (R152, R199). -/
def slotOwne (o : AB) (s : State) : Slot := flipSlot s.env o true
/-- OWNT waits for nothing (R199). -/
def slotOwnt (o : AB) (s : State) : Slot := flipSlot s.env o false

/-! ### Pins (R156 to R158, R430) -/

/-- The 64-byte lines of a range: first line and how many. -/
def lineRange (a b : W64) : Nat × Nat :=
  let first := a.toNat / 64
  (first, if b = 0 then 0 else (a.toNat + b.toNat - 1) / 64 + 1 - first)

/-- A run of lines: first home line, how many, first virtual line, first IPA line. -/
abbrev Run := Nat × Nat × Nat × Nat

/-- Does a range of lines lie wholly in memory of the context's die (R156)? -/
def pinRange (s : State) (c : Nat) : Nat → Nat → Nat → Bool
  | 0, _, _ => true
  | fuel + 1, line, n =>
    decide (n = 0) || ((match s.place (line * 64) with
      | .mem o _ => decide (o = s.owner (coreOf c))
      | _ => false) && pinRange s c fuel (line + min n (1024 - line % 1024)) (n - min n (1024 - line % 1024)))

/-- What translating a range of lines comes to: the runs in order, their leaf entries, the address that fails, if one does, and whether the tier
engine moves a page of the range (R175). -/
structure PinXlat where
  runs : List Run
  ptes : List Nat
  bad : Option Nat
  moving : Bool

/-- Translate a range of lines page by page. The access asks for RD alone (log 68). -/
def pinLines (s : State) (c : Nat) : Nat → Nat → Nat → PinXlat
  | 0, _, _ => ⟨[], [], none, false⟩
  | fuel + 1, line, n =>
    if n = 0 then ⟨[], [], none, false⟩
    else match s.xlatVa (s.ctx c).vf (line * 64) .rd with
      | none => ⟨[], [], some (line * 64), false⟩
      | some x =>
        let cnt := min n (1024 - line % 1024)
        let r := pinLines s c fuel (line + cnt) (n - cnt)
        ⟨(x.loc / 64, cnt, line, x.ipa / 64) :: r.runs, x.ptes ++ r.ptes, r.bad, x.mv || r.moving⟩

/-- The home lines of runs. -/
def runLines (rs : List Run) : List Nat := rs.flatMap fun (p : Run) => (List.range p.2.1).map (p.1 + ·)
/-- The pins of runs. -/
def runPins (rs : List Run) (l1 : Bool) : List Pin :=
  rs.flatMap fun (p : Run) => (List.range p.2.1).map fun i => ⟨p.1 + i, p.2.2.1 + i, p.2.2.2 + i, l1, true⟩

/-- Lines that contexts of a die pin, each once. -/
def State.pinnedOn (s : State) (d : Nat) : List Nat :=
  (s.ctxs.l.flatMap fun (p : Nat × Ctx) => if dieOf (coreOf p.1) = d then
    (p.2.pins.filter fun (q : Pin) => q.live).map (·.line) else []).eraseDups
/-- Lines that contexts of a core pin in its L1, each once. -/
def State.pinnedL1 (s : State) (k : Nat) : List Nat :=
  (s.ctxs.l.flatMap fun (p : Nat × Ctx) => if coreOf p.1 = k then
    (p.2.pins.filter fun (q : Pin) => q.live && q.l1).map (·.line) else []).eraseDups

/-- Home slice of a line (R154) and its set in the slice, whose choice the spec leaves open. -/
def lineSet (line : Nat) : Nat × Nat :=
  let f (i : Nat) : Nat := line / 2 ^ i % 16
  (Nat.xor (Nat.xor (f 0) (f 4)) (Nat.xor (f 8) (f 12)), Config.l2Set line)
/-- Would a set of the L2 hold more than eight pinned ways (R156)? Eight lines or fewer never do. -/
def overfull (lines : List Nat) : Bool :=
  decide (8 < lines.length) && lines.any fun l => decide (8 < (lines.filter fun m => lineSet m = lineSet l).length)

/-- The translation of LOCK's range. -/
def Env.lockXlat (e : Env) (a b : W64) : PinXlat := pinLines e.s e.c 65540 (lineRange a b).1 (lineRange a b).2
/-- Is LOCK's range translated at all: is it no longer than 2^32 bytes, and wholly in memory of the die (R156, R430)? -/
def Env.lockHere (e : Env) (a b : W64) : Bool :=
  !decide (2 ^ 32 < b.toNat) && pinRange e.s e.c 65540 (lineRange a b).1 (lineRange a b).2

/-- LOCK's outcome (R156): a failing address, or the status with the new pins. A line whose pin was invalidated is pinned anew and counts in
LOCK_USED again (R158, log 69). -/
def Env.lockOut (e : Env) (a b : W64) (l1 : Bool) : Option Nat × Nat × List Pin :=
  let n := (lineRange a b).2
  if !e.lockHere a b then (none, stFAULT, [])
  else
    let t := e.lockXlat a b
    let rs := t.runs
    match t.bad with
    | some bad => (some bad, stFAULT, [])
    | none =>
      let quota := e.x.lockQuota.toNat
      let used := e.x.pins.length
      if quota + used < n then (none, stQUOTA, [])
      else
        let lines := (runPins rs l1).filter fun l => !(e.x.pins.any fun (p : Pin) => decide (p.line = l.line) && p.live)
        let die := dieOf e.k
        let all := (lines.map (·.line) ++ e.s.pinnedOn die).eraseDups
        let l1cap := (12 - (e.s.core e.k).spk) * 2 ^ 13
        if quota < used + lines.length || overfull all
            || (l1 && decide (l1cap / 2 < (runLines rs ++ e.s.pinnedL1 e.k).eraseDups.length))
        then (none, stQUOTA, [])
        else (none, stOK, lines)

/-- LOCK (R156, R430). -/
def slotLock (o : R3) (l1 : Bool) (s : State) : Slot :=
  let e := s.env
  let a := e.opnd .x o.a o.ha 8
  let b := e.opnd .x o.b o.hb 9
  let (bad, st, new) := e.lockOut a.d b.d l1
  let val : W64 := BitVec.ofNat 64 ((if st = stOK then new.length else 0) * 2 ^ 32 + st)
  Slot.finish
    { cls := .mem, okP := true, nres := e.padded,
      hold := if !e.x.preds.isEmpty then .abr
        else if e.lockHere a.d b.d && bad.isNone && (e.lockXlat a.d b.d).moving then .interlock else .none,
      kill := bad.map (BitVec.ofNat 64),
      eff := fun s => (if st = stOK then s.touch (e.lockXlat a.d b.d).ptes false else s).modCtx e.c fun x =>
        let pins := if st = stOK then
            (x.pins.map fun (p : Pin) =>
              if l1 && p.live && (runLines (e.lockXlat a.d b.d).runs).contains p.line then { p with l1 := true } else p) ++ new
          else x.pins
        { x with pins := pins }.push { e.varRes .x o.d 12 1600 0 with val := wide64 val } }
    e [a, b] [a.sc, b.sc]

/-- UNLOCK releases the context's pins of the range's lines (R156, R158). -/
def slotUnlock (o : AB) (s : State) : Slot :=
  let e := s.env
  let a := e.opnd .x o.a o.ha 8
  let b := e.opnd .x o.b o.hb 9
  let (first, n) := lineRange a.d b.d
  let big := decide (2 ^ 32 < b.d.toNat)
  let rs := if big then [] else unlockRuns e.s e.c 65540 first n
  Slot.finish
    { cls := .mem, okP := true, hold := if e.x.preds.isEmpty then .none else .abr,
      eff := fun s => s.modCtx e.c fun x => { x with pins := x.pins.filter fun (p : Pin) =>
        !(!big && decide (first ≤ p.va ∧ p.va < first + n)) && !(p.live && rs.any fun (r : Nat × Nat) => decide (r.1 ≤ p.line ∧ p.line < r.1 + r.2)) } }
    e [a, b] [a.sc, b.sc]
where
  /-- Runs of home lines of the part of a range that translates on the own die; the rest is ignored. -/
  unlockRuns (s : State) (c : Nat) : Nat → Nat → Nat → List (Nat × Nat)
    | 0, _, _ => []
    | fuel + 1, line, n =>
      if n = 0 then []
      else
        let cnt := min n (1024 - line % 1024)
        let rest := unlockRuns s c fuel (line + cnt) (n - cnt)
        match s.place (line * 64) with
        | .mem o f =>
          if o ≠ s.owner (coreOf c) then rest
          else match s.translate (s.ctx c).vf o f .rd with
            | none => rest
            | some x => (x.loc / 64, cnt) :: rest
        | _ => rest

/-! ### PREF, PROBE (R174, R450, R451) -/

/-- PREF is a hint: it reads its base and changes nothing (R450). -/
def slotPref (base : BitVec 5) (_ofs : BitVec 8) (_l2 ha : Bool) (s : State) : Slot :=
  let e := s.env
  let a := e.opnd .x base ha 8
  Slot.finish { cls := .mem, okI := true, okP := true } e [a] [a.sc]

/-- The first failure of a range, page by page in ascending order: cause and address (R174). -/
def probeFail (s : State) (c : Nat) (a : Acc) : Nat → Nat → Nat → Option (Nat × Nat)
  | 0, _, _ => none
  | fuel + 1, va, n =>
    if n = 0 then none
    else
      let step (sz : Nat) : Nat := min n (sz - va % sz)
      match s.place va with
      | .own ofs =>
        if !s.ownOk c ofs then some (cOWNER, va) else probeFail s c a fuel (va + step 4096) (n - step 4096)
      | .window _ _ _ => some (cOWNER, va)
      | .mem o f =>
        (match s.translate (s.ctx c).vf o f a with
         | none => some (cPROBE, va)
         | some _ => probeFail s c a fuel (va + step 65536) (n - step 65536))
      | _ => some (cPROBE, va)

/-- PROBE (R174, R451): no access is made and no AC or D bit set. -/
def slotProbe (o : R3) (w : Bool) (s : State) : Slot :=
  let e := s.env
  let a := e.opnd .x o.a o.ha 8
  let b := e.opnd .x o.b o.hb 9
  let long := decide (2 ^ 32 < b.d.toNat)
  let bad := if long then none else probeFail e.s e.c (if w then .rw else .rd) 1050000 a.d.toNat b.d.toNat
  let off := e.x.det && !long && decide (b.d ≠ 0) &&
    (e.s.offPackage a.d.toNat || e.s.offPackage (a.d.toNat + b.d.toNat - 1))
  Slot.finish
    { cls := .mem, okP := true, nres := e.padded,
      traps := match bad with
        | some (c, va) => if off then [] else [(c, BitVec.ofNat 64 va)]
        | none => [],
      kill := if off then some a.d else none,
      eff := fun s => s.modCtx e.c fun x =>
        x.push { e.varRes .x o.d 12 1600 0 with val := wide64 (BitVec.ofNat 64 (if long then stFAULT else stOK)) } }
    e [a, b] [a.sc, b.sc]

/-! ### Ordering (R195 to R198, R412, R416, R421) -/

/-- Is the word at an address, in M, at or past a target? -/
def State.wordReached (s : State) (l : Nat) (t : W64) : Bool := !s.poisoned l && reached (s.rd64 l) t

/-- CWAIT (R195, R412): the test is on M alone. While held, every write to the word is tested (`Wait`). -/
def slotCwait (o : AB) (s : State) : Slot :=
  let e := s.env
  let a := e.opnd .x o.a o.ha 8
  let b := e.opnd .x o.b o.hb 9
  let tr := e.chkMem a.d 8
  let x := e.s.xlatVa e.x.vf a.d.toNat .rd
  let off := e.x.det && e.s.offPackage a.d.toNat
  let hold : HoldKind := match x with
    | none => .none
    | some y =>
      if y.mv then .interlock
      else
        let hit := match e.x.wait with
          | some w => decide (w.loc = y.loc) && decide (w.target = some b.d) && w.hit
          | none => false
        if hit || e.s.wordReached y.loc b.d then .none else .engine
  Slot.finish
    { cls := .mem, okP := true, traps := tr, hold := if tr.isEmpty && !off then hold else .none,
      kill := if x.isNone || off then some a.d else none,
      present := fun s => match x with
        | none => s
        | some y => if y.mv then s else s.modCtx e.c fun z =>
            match z.wait with
            | some w => if w.loc = y.loc ∧ w.target = some b.d then z else { z with wait := some ⟨y.loc, some b.d, false, e.s.now⟩ }
            | none => { z with wait := some ⟨y.loc, some b.d, false, e.s.now⟩ },
      eff := fun s => match x with
        | none => s
        | some y => s.touch y.ptes false } e [a, b] [a.sc, b.sc]

/-- DRAIN (R196, R416). -/
def slotDrain (s : State) : Slot :=
  let e := s.env
  Slot.finish { cls := .mem, okP := true,
                hold := if !e.x.preds.isEmpty then .abr else if e.x.rout.isEmpty then .none else .interlock } e [] []
/-- FENCEO takes no step (R197, R421). -/
def slotFenceo (s : State) : Slot := Slot.finish { cls := .mem, okP := true } s.env [] []

/-- The cores that FENCER names (R198, R421): cores of the issuing context's partition on the named dies. -/
def Env.fenced (e : Env) (v : Nat) (a b : W64) : List Nat :=
  let die := a.toNat / 2 ^ 42 % 4
  let named (k : Nat) : Bool :=
    match v with
    | 1 => decide (k / 64 = die) && b.getLsbD (k % 64)
    | 2 => decide (k / 64 = die) && b.getLsbD (k % 64 / 8)
    | 3 => decide (k / 64 = die)
    | _ => true
  (List.range 256).filter fun k => named k && (e.s.partHolds e.x.part k || decide (k = e.k))

/-- FENCER (R198): it waits for LSQ(c) and ROUT(c), then serialises the named cores in one step (log 67), before any other slot of its bundle has
its effect. A die or package outside the job kills. On a deterministic queue the bundle is held for 1,600 cycles (R421). -/
def slotFencer (o : AB) (v : BitVec 4) (s : State) : Slot :=
  let e := s.env
  let a := e.opnd .x o.a o.ha 8
  let b := if v.toNat ≤ 2 then e.opnd .x o.b o.hb 9 else Opnd.none
  let own := a.d.toNat / 2 ^ 42 % 2 ^ 12
  let inJob := if v = 4 then e.s.hub.membership.any fun m => m / 4 = own / 4 else e.s.hub.membership.contains own
  let here := decide (own / 4 = e.s.hub.pkg)
  let bad := !inJob || (e.x.det && !here)
  Slot.finish
    { cls := .mem, legal := wellFormed (.fencer o v), okP := true,
      phase := 0,
      hold := if !e.x.preds.isEmpty then .abr
        else if bad then .none
        else if e.x.lsq.isEmpty && e.x.rout.isEmpty && (!e.x.det || (match e.x.fence with
          | some t => decide (t + 1600 ≤ e.s.now)
          | none => false)) then .none else .interlock,
      present := fun s => s.modCtx e.c fun x => if x.det && x.fence.isNone then { x with fence := some s.now } else x,
      kill := if bad then some a.d else none,
      eff := fun s => if here then (e.fenced v.toNat a.d b.d).foldl State.serialise s else s } e [a, b] [a.sc, b.sc]

/-! ### The meanings -/

def execLd (o : MO) (size : BitVec 2) (s : State) : Host.Outcome State Fault Refusal := issue (slotLd o size) s
def execSt (o : MO) (size : BitVec 2) (s : State) : Host.Outcome State Fault Refusal := issue (slotSt o size) s
def execLdv (o : MO) (s : State) : Host.Outcome State Fault Refusal := issue (slotLdv o) s
def execStv (o : MO) (s : State) : Host.Outcome State Fault Refusal := issue (slotStv o) s
def execLdg (o : R3) (v : BitVec 4) (s : State) : Host.Outcome State Fault Refusal := issue (slotLdg o v) s
def execStg (o : R3) (v : BitVec 4) (s : State) : Host.Outcome State Fault Refusal := issue (slotStg o v) s
def execProbe (o : R3) (w : Bool) (s : State) : Host.Outcome State Fault Refusal := issue (slotProbe o w) s
def execLock (o : R3) (l1 : Bool) (s : State) : Host.Outcome State Fault Refusal := issue (slotLock o l1) s
def execUnlock (o : AB) (s : State) : Host.Outcome State Fault Refusal := issue (slotUnlock o) s
def execPref (base : BitVec 5) (ofs : BitVec 8) (l2 ha : Bool) (s : State) : Host.Outcome State Fault Refusal :=
  issue (slotPref base ofs l2 ha) s
def execDrain (s : State) : Host.Outcome State Fault Refusal := issue slotDrain s
def execFenceo (s : State) : Host.Outcome State Fault Refusal := issue slotFenceo s
def execFencer (o : AB) (v : BitVec 4) (s : State) : Host.Outcome State Fault Refusal := issue (slotFencer o v) s
def execAtom (o : R3) (v : BitVec 4) (s : State) : Host.Outcome State Fault Refusal := issue (slotAtom o v) s
def execRatom (o : R3) (v : BitVec 4) (s : State) : Host.Outcome State Fault Refusal := issue (slotRatom o v) s
def execRld (o : MO) (size : BitVec 2) (s : State) : Host.Outcome State Fault Refusal := issue (slotRld o size) s
def execRst (o : R3) (v : BitVec 4) (s : State) : Host.Outcome State Fault Refusal := issue (slotRst o v) s
def execStver (o : R3) (s : State) : Host.Outcome State Fault Refusal := issue (slotStver o) s
def execOwne (o : AB) (s : State) : Host.Outcome State Fault Refusal := issue (slotOwne o) s
def execOwnt (o : AB) (s : State) : Host.Outcome State Fault Refusal := issue (slotOwnt o) s
def execBarm (o : AB) (s : State) : Host.Outcome State Fault Refusal := issue (slotBarm o) s
def execCwait (o : AB) (s : State) : Host.Outcome State Fault Refusal := issue (slotCwait o) s

end Sys2Proof.Machine
end

