-- ==== Sys2Proof/Machine/Ordering.lean ====
section
/-! DEFINITION. The steps of the ordering machine over a context's queues and the flag units: PERFORM_LOCAL, SEND_REMOTE, FLAG and
COMPLETE_REMOTE (R165, R172, R173, R183 to R187, R201 to R205, R300, R332, R458, R459). A step whose condition does not hold changes
nothing. -/

namespace Sys2Proof.Machine

/-! ### PERFORM_LOCAL -/

/-- May the head of LSQ(c) perform? -/
def Ctx.headFree (x : Ctx) : Bool :=
  match x.lsq with
  | [] => false
  | e :: _ => x.rout.all fun (r : REntry) => decide (e.alone ≤ r.id)

/-- PERFORM_LOCAL (R183). -/
def execPerformLocal (c : Nat) (s : State) : Host.Outcome State Fault Refusal :=
  .next (if (s.ctx c).headFree then s.performHead c else s)

/-! ### SEND_REMOTE -/

/-- Change the entry of ROUT(c) that has a number. -/
def State.modRout (s : State) (c id : Nat) (f : REntry → REntry) : State :=
  s.modCtx c fun x => { x with rout := x.rout.map fun r => if r.id = id then f r else r }

/-- The address of a remote operation. -/
def ROp.va (o : ROp) : Nat :=
  match o with
  | .load va _ _ _ => va
  | .store bs => (bs.map (·.1)).headD 0
  | .rst bs _ => (bs.map (·.1)).headD 0
  | .rmw va _ => va
/-- The access it makes. -/
def ROp.acc (o : ROp) : Acc :=
  match o with
  | .load _ _ _ _ => .rd
  | .store _ => .wr
  | .rst _ _ => .wr
  | .rmw _ _ => .rw

/-- The capability that an operation needs of its target package: 0 MINMAX32, 1 ADDBF16, 2 ADDFP16 (R202, R204). -/
def capOf (o : ROp) : Option Nat :=
  match o with
  | .rmw _ (.atom v _) => if v = 11 ∨ v = 12 then some 0 else if v = 13 then some 1 else if v = 14 then some 2 else none
  | _ => none

/-- Does the target package lack the capability? Dies of the own package lack none, and a package with no table lacks all. -/
def State.lacksCap (s : State) (o : ROp) (va : Nat) : Bool :=
  let pkg := va / 2 ^ 44 % 2 ^ 10
  match capOf o with
  | none => false
  | some i => decide (pkg ≠ s.hub.pkg) && !((s.hub.peers.get pkg 0).getLsbD i)

/-- The value with which a discarded operation completes: poison for a load, POISONED for an atomic, a NEXTT counter read as
poison, and the statuses of STVER, POST and RAISE (R300). -/
def deadValue (o : ROp) : Wide × W64 :=
  match o with
  | .load _ len off _ => (0, Env.elemPsn.maskOfLanes (fun _ => true) off ((len + 3) / 4))
  | .rmw _ r => r.dead
  | _ => (0, 0)

/-- An operation has performed, or never will: it is ready to complete with a value. -/
def State.remoteDone (s : State) (c id : Nat) (v : Wide × W64) : State :=
  s.modRout c id fun r => { r with phase := 2, val := v.1, psn := v.2 }

/-- The `arm` of an operation whose predicted arm has been dropped (R297). -/
def armDropped : Nat := 1000
/-- A failed translation is reported to the context, whose kill it brings; the operation performs nothing and completes, a load of it with zero, not
poisoned, should its value return before the kill (R458, log 89). Of two reports the one that hangs on fewer predictions counts (R297). -/
def State.remoteFail (s : State) (c id va arm : Nat) : State :=
  (if armDropped ≤ arm then s
   else s.modCtx c fun x => { x with killReport := match x.killReport with
    | some k => if arm < k.2.1 then some (va, arm, false) else some k
    | none => some (va, arm, false) }).remoteDone c id (0, 0)

/-- Read a remote load at its home, the basket's bytes laid over it: a poisoned dword counts unless all that is read of it is laid over
(log 24). -/
def State.remoteLoad (s : State) (l len off : Nat) (ov : List (Nat × Byte)) : Wide × W64 :=
  let byte (i : Nat) : Byte := ((ov.find? fun (p : Nat × Byte) => decide (p.1 = i)).map (·.2)).getD (s.mem.read (l + i))
  let v := (List.range len).foldr (fun i (acc : Nat) => (byte i).toNat + 256 * acc) 0
  let laid (i : Nat) : Bool := (List.range len).all fun j => decide ((l + j) / 8 ≠ (l + i) / 8) || ov.any fun (p : Nat × Byte) => decide (p.1 = j)
  let bad (i : Nat) : Bool := s.poisoned (l + i) && !laid i
  (BitVec.ofNat 2048 v <<< (8 * off),
   Env.elemPsn.maskOfLanes (fun n => (List.range (min 4 (len - 4 * n))).any fun i => bad (4 * n + i)) off ((len + 3) / 4))

/-- Perform a remote operation at its home location `l` (R185). -/
def State.remotePerform (s : State) (c : Nat) (r : REntry) (l : Nat) (ptes : List Nat) : State :=
  let x := s.ctx c
  let va := r.op.va
  let s1 := s.touch ptes (decide (r.op.acc ≠ .rd))
  let move (bs : List (Nat × Byte)) : List (Nat × Byte) := bs.map fun (p : Nat × Byte) => (l + (p.1 - va), p.2)
  match r.op with
  | .load _ len off ov => s1.remoteDone c r.id (s1.remoteLoad l len off ov)
  | .store bs => (s1.storeBytes (move bs)).remoteDone c r.id (0, 0)
  | .rst bs flag =>
    (match s1.xlatVa x.vf flag .rw with
     | none => s1
     | some f => (((s1.storeBytes (move bs)).touch f.ptes true).pushIncrAt f.loc x.vf (c, r.id)).modRout c r.id
         fun r => { r with phase := 1 })
  | .rmw _ op =>
    let wrote := !(s1.poisoned l)
    let (s2, v, p) := s1.doRmw c l op
    let s3 := match op with
      | .atom _ _ => if wrote then s2.watchHome 2 x.vf (va / 2 ^ 42 % 2 ^ 12) none [va, va + 1, va + 2, va + 3] (s2.watchSrc 2 c 0) else s2
      | _ => s2
    s3.remoteDone c r.id (wide64 v, if p then 1 else 0)

/-- Must it wait for older operations of its context (R264 at a Release)? -/
def Ctx.mustWait (x : Ctx) (r : REntry) : Bool :=
  match r.alone with
  | none => false
  | some m => decide (x.lsqDone < m) || x.rout.any fun (q : REntry) => decide (q.id < r.id)

/-- SEND_REMOTE: entry i of ROUT(c) performs at its home (R185). A page that is being moved holds it there (R175). -/
def State.sendEntry (s : State) (c : Nat) (r : REntry) : State :=
  let x := s.ctx c
  let va := r.op.va
  let path := s.xlatVa x.vf va r.op.acc
  let flagBad := match r.op with
    | .rst _ f => (s.xlatVa x.vf f .rw).isNone
    | _ => false
  let flagMoves := match r.op with
    | .rst _ f => (match s.xlatVa x.vf f .rw with
      | some y => y.mv
      | none => false)
    | _ => false
  if r.phase ≠ 0 || x.mustWait r then s
  else if s.place va = .outside then s.remoteFail c r.id va r.arm
  else if s.deadPath (coreOf c) va (path.map (·.loc)) then s.remoteDone c r.id (deadValue r.op)
  else if s.lacksCap r.op va then
    (s.modCtx c fun x => x.countUnsup s.now).remoteDone c r.id (BitVec.ofNat 2048 (stUNSUP * 2 ^ 32), 0)
  else match path with
    | none => s.remoteFail c r.id va r.arm
    | some y =>
      if y.mv || flagMoves then s
      else if flagBad then s.remoteFail c r.id (match r.op with
        | .rst _ f => f
        | _ => va) r.arm
      else s.remotePerform c r y.loc y.ptes

/-- SEND_REMOTE. -/
def execSendRemote (c i : Nat) (s : State) : Host.Outcome State Fault Refusal :=
  .next (match (s.ctx c).rout[i]? with
    | none => s
    | some r => s.sendEntry c r)

/-! ### FLAG -/

/-- Tell the waiting operation, copy (by its core) or collective (1,024 and its participant) that its flag has been incremented,
or could not be. -/
def State.flagDone (s : State) (n : Incr) (bad : Bool) : State :=
  let s1 := match n.ctx with
    | some (c, id) => s.modRout c id fun r => { r with phase := 2 }
    | none => s
  match n.copy with
  | none => s1
  | some k =>
    if k < 1024 then s1.modCore k fun x => { x with crun := x.crun.map fun r =>
      if bad then { r with phase := 2, status := stFAULT, errs := r.errs + 1, addr := n.va.getD 0 } else { r with phase := 2 } }
    else s1.modCore (k - 1024) fun x => { x with krun := x.krun.map fun r =>
      if bad then { r with phase := 0, ended := true, status := stFAULT, errs := r.errs + 1, addr := n.va.getD 0 }
      else { r with phase := 0, entry := r.entry + 1 } }

/-- Is the path to the die that owns an address lost from elsewhere (R300)? -/
def State.ownerLost (s : State) (a : Nat) : Bool :=
  s.hub.lost.contains (a / 2 ^ 44 % 2 ^ 10) || (decide (a / 2 ^ 44 % 2 ^ 10 = s.hub.pkg) && s.hub.lost.contains (1024 + a / 2 ^ 42 % 4))
/-- The core whose operation a flag increment announces; none for the flag of a completion. -/
def Incr.core (n : Incr) : Option Nat :=
  match n.ctx, n.copy with
  | some (c, _), _ => some (coreOf c)
  | none, some k => some (k % 1024)
  | none, none => none
/-- Is the path of an increment lost: from the core whose operation it announces, or with none to the die that owns the flag (R300, R409)? -/
def State.flagLost (s : State) (n : Incr) (a : Nat) : Bool :=
  match n.core with
  | some k => s.pathLost k a
  | none => s.ownerLost a
/-- Does a flag's home reset, for an increment from outside its partition (R332)? -/
def State.flagResets (s : State) (n : Incr) (l : Nat) : Bool :=
  match n.core with
  | some k => s.resetting k l
  | none => false

/-- FLAG: a flag unit takes the pending increment that `p` names and adds 1 to the flag word at its home (R186). A poisoned word stays as it is, and one
that fails translation is not incremented (R409, R459). -/
def execFlag (p : FlagAt) (s : State) : Host.Outcome State Fault Refusal :=
  .next (match (s.die p.unit).flags[p.i]? with
    | none => s
    | some n =>
      let gone := s.modDie p.unit fun d => { d with flags := d.flags.eraseIdx p.i }
      let add (l : Nat) (s : State) : State := if s.poisoned l then s else s.wr l 8 (s.rd64 l + 1).toNat
      match n.va with
      | none => (if s.flagLost n (s.ownerVa n.loc) || s.flagResets n n.loc then gone else add n.loc gone).flagDone n false
      | some va =>
        if s.flagLost n va then gone.flagDone n true
        else match s.xlatVa n.vf va .rw with
          | none => gone.flagDone n true
          | some y =>
            if s.flagResets n y.loc then gone.flagDone n true
            else if y.mv then s else ((add y.loc (gone.touch y.ptes true))).flagDone n false)

/-! ### COMPLETE_REMOTE -/

/-- COMPLETE_REMOTE: entry i of ROUT(c) is removed, and its value returns (R187). -/
def execCompleteRemote (c i : Nat) (s : State) : Host.Outcome State Fault Refusal :=
  .next (match (s.ctx c).rout[i]? with
    | none => s
    | some r =>
      if r.phase ≠ 2 then s
      else (s.modCtx c fun x => { x with rout := x.rout.filter fun (q : REntry) => decide (q.id ≠ r.id) }).deliver c r.seq r.val r.psn)

end Sys2Proof.Machine
end

