-- ==== Sys2Proof/Machine/CopyEngine.lean ====
section
/-! DEFINITION. The copy and gather engines of a core: their commands from start to completion (R151, R175, R188, R189, R276, R300,
R322, R324, R404 to R410). -/

namespace Sys2Proof.Machine

/-- The head command of a copy or gather engine, and its run. -/
def CoreSt.copyHead (x : CoreSt) (g : Bool) : Option CopyCmd := if g then x.gq.head? else x.cq.head?
/-- Progress of the head command. -/
def CoreSt.copyRun (x : CoreSt) (g : Bool) : Option CopyRun := if g then x.grun else x.crun
/-- Set the progress of the head command of core k. -/
def State.setRun (s : State) (k : Nat) (g : Bool) (r : CopyRun) : State :=
  s.modCore k fun x => if g then { x with grun := some r } else { x with crun := some r }

/-- Flag address of a CPYR, on the destination's owner die (R193, R409). -/
def CopyRun.flagVa (r : CopyRun) : Nat := r.w 4 / 2 ^ 54 * 2 ^ 54 + r.w 1 % 2 ^ 54 / 2 ^ 42 * 2 ^ 42 + r.w 4 % 2 ^ 42

/-- Is a range of n bytes refused before any access (R406): bits 63:54, or past the last offset of its owner? -/
def rangeBad (va n : Nat) : Bool := decide (n ≠ 0) && (decide (2 ^ 54 ≤ va) || decide (2 ^ 42 < va % 2 ^ 42 + n))
/-- A range that a command may not name: one of R406, or on another package from a deterministic queue. -/
def State.rangeRefused (s : State) (det : Bool) (va n : Nat) : Bool :=
  rangeBad va n || (det && decide (n ≠ 0) && s.offPackage va)

/-- Is the command refused before any access (R406)? -/
def State.copyRefused (s : State) (c : CopyCmd) (r : CopyRun) : Bool :=
  let n := r.bytes
  let two (a b : Nat) : Bool := s.rangeRefused c.det a n || s.rangeRefused c.det b n
  decide (r.w 2 / 2 ^ 32 ≠ 0) ||
  match c.kind with
  | 0 => two (r.w 0) (r.w 1)
  | 1 => decide (r.w 4 / 2 ^ 32 ≠ 0) || decide (r.w 7 ≠ 0) ||
      (List.range (if n = 0 then 0 else r.rows 1)).any fun i => two ((r.w 0 + i * r.w 5) % 2 ^ 64) ((r.w 1 + i * r.w 6) % 2 ^ 64)
  | 2 => decide (r.w 4 % 4 ≠ 0) || decide (2 ^ 24 < r.w 5) || decide (r.w 7 ≠ 0) || s.rangeRefused c.det (r.w 1) (n * r.rows 2)
      || s.rangeRefused c.det (r.w 4) (4 * r.rows 2)
  | _ => decide (r.w 4 % 8 ≠ 0) || decide (r.w 5 ≠ 0) || decide (r.w 6 ≠ 0) || decide (r.w 7 ≠ 0) || two (r.w 0) (r.w 1)
      || s.inScratch r.flagVa || (c.det && s.offPackage r.flagVa)

/-- A run that ends before any access. -/
def copyFault (d : List W64) (desc now : Nat) : CopyRun := { CopyRun.first d now with errs := 1, addr := desc, status := stFAULT, phase := 2 }

/-- The accesses of a command are over: a CPYR gives its increment to the flag unit, and any other is finished (R186, R409). -/
def State.copyDone (s : State) (k : Nat) (g : Bool) (c : CopyCmd) (r : CopyRun) : State :=
  if c.kind = 3 then (s.setRun k g { r with phase := 1 }).pushIncr r.flagVa c.vf none (some k)
  else s.setRun k g { r with phase := 2 }

/-- The locations of the bytes of pieces. -/
def byteLocs (ps : List (Nat × Nat)) : List Nat := ps.flatMap fun (p : Nat × Nat) => (List.range p.2).map (p.1 + ·)

/-- The bytes at locations, with their poison. -/
def State.bytesOf (s : State) (locs : List Nat) : List (Byte × Bool) := locs.map fun l => (s.mem.read l, s.poisoned l)

/-- Write bytes to destination locations: a destination dword that a poisoned byte feeds becomes poison (R322). The state, and the destination
dwords that became poison. -/
def State.copyBytes (s : State) (data : List (Byte × Bool)) (dst : List Nat) : State × List Nat :=
  let ps := data.zip dst
  let bad := (ps.filterMap fun (p : (Byte × Bool) × Nat) => if p.1.2 then some (p.2 / 8) else none).eraseDups
  let live := ps.filterMap fun (p : (Byte × Bool) × Nat) => if bad.contains (p.2 / 8) then none else some (p.2, p.1.1)
  let s1 := s.storeBytes live
  ((bad.foldl (fun (s : State) d => s.addPoison (8 * d) 8) s1).wake (dst.filter fun l => bad.contains (l / 8)), bad)

/-- Report a copy engine's write to the watches of its home (R324 to R326). -/
def State.watchEngine (s : State) (k : Nat) (c : CopyCmd) (dst n : Nat) : State :=
  let src := s.watchSrc 1 c.ctx (if c.kind = 2 then 2 else 0)
  match s.place dst with
  | .own ofs => s.watchHome 1 c.vf (s.owner k) (some (k, (List.range n).map (ofs + ·))) [] src
  | .window o e ofs => s.watchHome 1 c.vf o (some (s.coreAt o e, (List.range n).map (ofs + ·))) [] src
  | .mem o _ => s.watchHome 1 c.vf o none ((List.range n).map (dst + ·)) src
  | _ => s

/-- End a transfer with a status and the address in error (R151, R172, R175). -/
def State.copyAbort (s : State) (k : Nat) (g : Bool) (r : CopyRun) (st addr : Nat) : State :=
  s.setRun k g { r with status := st, addr := addr, errs := r.errs + 1, phase := 2 }

/-- An access that does not pass: a refusal counts for its request alone (R175). -/
def State.copyBad (s : State) (k : Nat) (g : Bool) (r : CopyRun) (x : EngRes) : State :=
  match x with
  | .moving va =>
    let s1 := s.bump
    if 15 ≤ r.tries then s1.copyAbort k g r stRETRY va
    else s1.setRun k g { r with tries := r.tries + 1, wait := s.ftb + s.hint }
  | .owner va => s.copyAbort k g r stOWNER va
  | .fail va => s.copyAbort k g r stFAULT va
  | .lost va => s.copyAbort k g r stFAULT va
  | .ok _ _ => s

/-- Is an address of a transfer on a lost path, or in a partition that resets (R300, R332)? -/
def State.transferLost (s : State) (k vf va : Nat) : Bool :=
  match s.place va with
  | .own _ => false
  | .window o c _ =>
    s.pathLost k va || s.hub.parts.l.any fun (p : Nat × Part) => p.2.reset && s.partHolds p.1 (s.coreAt o c)
  | _ => s.deadPath k va (s.homeOf vf va)

/-- Read the descriptor in one step, as the first request of a command (R188, R406). -/
def State.copyRead (s : State) (k : Nat) (g : Bool) (c : CopyCmd) (r : CopyRun) : State :=
  let len := if c.kind = 0 then 32 else 64
  match s.engAcc k c.vf .rd c.desc len with
  | .ok ps pt =>
    let v := s.rdPieces ps
    let r1 := CopyRun.first ((List.range (len / 8)).map fun i => BitVec.ofNat 64 (v / 2 ^ (64 * i))) s.now
    let s1 := s.touch pt false
    if (s.psnPieces c.desc ps).isSome || s.copyRefused c r1 then s1.setRun k g (copyFault r1.d c.desc s.now)
    else if r1.total c.kind = 0 then s1.copyDone k g c r1
    else s1.setRun k g r1
  | .moving va => s.copyBad k g { r with phase := 3 } (.moving va)
  | _ => s.setRun k g (copyFault [] c.desc s.now)

/-- ENGINE_START of a copy or gather command (R188, R406): once its LSQ mark has performed, the descriptor is read in one step. The commands of one queue
run one after the other (log 8). -/
def State.copyStart (s : State) (k : Nat) (g : Bool) : State :=
  let x := s.core k
  match x.copyHead g, x.copyRun g with
  | some c, none => if (s.ctx c.ctx).lsqDone < c.mark then s else s.copyRead k g c (CopyRun.first [] s.now)
  | _, _ => s

/-- Write the bytes read for n bytes from `src` to `dst`: ERRS counts each destination dword that becomes poison once (R322). -/
def State.copyWrite (s : State) (k : Nat) (g : Bool) (c : CopyCmd) (r : CopyRun) (src dst n : Nat) (data : List (Byte × Bool)) : State :=
  match s.engAcc k c.vf .wr dst n with
  | .ok qs qt =>
    let (s1, bad) := (s.touch qt true).copyBytes data (byteLocs qs)
    let more := bad.filter fun d => !r.bads.contains d
    let psn := decide (c.kind = 2) && (match r.idx with
      | some (_, p) => p
      | none => false)
    let r1 := { r with pos := r.pos + n, done := r.done + n, tries := 0, errs := r.errs + more.length, bads := r.bads ++ more,
                       idx := none, buf := none,
                       status := if bad.isEmpty then r.status else stPOISONED,
                       addr := if bad.isEmpty ∨ r.errs ≠ 0 then r.addr
                         else if psn then r.w 4 + 4 * (r.pos / r.bytes) else src + data.findIdx (fun b => b.2) }
    let s2 := s1.watchEngine k c dst n
    if r1.total c.kind ≤ r1.pos then s2.copyDone k g c r1 else s2.setRun k g r1
  | x => s.copyBad k g (if r.buf.isSome then r else { r with buf := some data, tries := 0 }) x

/-- One access of a transfer of n bytes from `src` to `dst`: the read, or once its bytes are here the write (R188). `psn` says that the index that chose
them is poisoned, and then nothing is read (R408). A refused write keeps the bytes that were read. -/
def State.copyMove (s : State) (k : Nat) (g : Bool) (c : CopyCmd) (r : CopyRun) (src dst n : Nat) (psn : Bool) : State :=
  if !psn && r.buf.isNone && s.transferLost k c.vf src then s.copyAbort k g r stFAULT (if c.kind = 3 then dst else src)
  else if s.transferLost k c.vf dst then s.copyAbort k g r stFAULT dst
  else match r.buf with
    | some data => s.copyWrite k g c r src dst n data
    | none =>
      if psn then s.copyWrite k g c r src dst n (List.replicate n (0, true))
      else match s.engAcc k c.vf .rd src n with
        | .ok ps pt => (s.touch pt false).setRun k g { r with buf := some (s.bytesOf (byteLocs ps)), tries := 0 }
        | x => s.copyBad k g r x

/-- The present element of a gather, whose index has been read (R408). -/
def State.copyElement (s : State) (k : Nat) (g : Bool) (c : CopyCmd) (r : CopyRun) (idx : Nat) (psn : Bool) : State :=
  let src := (r.w 0 + idx * r.w 6) % 2 ^ 64
  if !psn && s.rangeRefused c.det src r.bytes then s.copyAbort k g r stFAULT src
  else s.copyMove k g c r src ((r.w 1 + r.pos / r.bytes * r.bytes) % 2 ^ 64) r.bytes psn

/-- The next access of the head command, in ascending order: of up to 64 bytes of a row, ending at a 64-byte line of the destination, or of an index or a
whole element of a gather; a read and the write of what it read are two steps (R188, log 8). -/
def State.copyNext (s : State) (k : Nat) (g : Bool) : State :=
  let x := s.core k
  match x.copyHead g, x.copyRun g with
  | some c, some r =>
    if r.phase = 3 then s.copyRead k g c r
    else if r.phase ≠ 0 then s
    else
      let row := r.pos / r.bytes
      let col := r.pos % r.bytes
      (match c.kind with
       | 2 =>
         let va := r.w 4 + 4 * row
         (match r.idx with
          | some (i, p) => s.copyElement k g c r i p
          | none =>
            if s.transferLost k c.vf va then s.copyAbort k g r stFAULT va
            else match s.engAcc k c.vf .rd va 4 with
              | .ok ps pt =>
                let i := s.rdPieces ps
                let p := (s.psnPieces 0 ps).isSome
                (s.touch pt false).setRun k g { r with idx := some (i, p), tries := 0 }
              | y => s.copyBad k g r y)
       | _ =>
         let dst := ((r.w 1 + (if c.kind = 1 then row * r.w 6 else 0)) % 2 ^ 64 + col)
         let src := ((r.w 0 + (if c.kind = 1 then row * r.w 5 else 0)) % 2 ^ 64 + col)
         s.copyMove k g c r src dst (min (64 - dst % 64) (r.bytes - col)) false)
  | _, _ => s

/-- ENGINE_COMPLETE of a copy or gather command: its record enters the event queue, and draining slots become free (R149, R189). -/
def State.copyComplete (s : State) (k : Nat) (g : Bool) : State :=
  let x := s.core k
  match x.copyHead g, x.copyRun g with
  | some c, some r =>
    if r.phase ≠ 2 ∨ s.now < copyPad c r ∨ !s.evRoom (clusterOf k) then s
    else
      let s1 := s.postRec (clusterOf k) (s.mkRec r.status (if g then 2 else 0) c.ctx r.done r.errs r.addr (r.w 3) c.vf)
      (s1.modCore k fun x => if g then { x with gq := x.gq.drop 1, grun := none } else { x with cq := x.cq.drop 1, crun := none }).endDrain k
  | _, _ => s

end Sys2Proof.Machine
end

