-- ==== Sys2Proof/Machine/Fetch.lean ====
section
/-! DEFINITION. Fetching the words of a bundle at their home, and where a bundle ends (R56, R172, R175, R323, R367). -/

namespace Sys2Proof.Machine

/-- What a fetch of one slot gives. -/
inductive FetchWord where
  | word (w : W32)
  /-- the page is being moved (R175) -/
  | moving
  /-- translation without EX, or none (R172) -/
  | fail
  /-- a poisoned dword (R323) -/
  | psn
deriving DecidableEq, Repr, Inhabited

/-- Fetch the slot at an address for context c; a deterministic queue fetches from its own package alone (R276). -/
def State.fetchWord (s : State) (c va : Nat) : FetchWord :=
  match (if (s.ctx c).det && s.offPackage va then none else s.xlatVa (s.ctx c).vf va .ex) with
  | none => .fail
  | some x =>
    if x.mv then .moving
    else if s.poisoned x.loc then .psn
    else .word (BitVec.ofNat 32 (s.rd x.loc 4))

/-- A fetched bundle. -/
inductive FetchRes where
  /-- its slots with their addresses, up to and including the stop slot -/
  | ok (ws : List (Nat × W32))
  /-- no stop slot among the first eight (R60) -/
  | noStop
  | moving
  | fail (va : Nat)
  | psn (va : Nat)
deriving DecidableEq, Repr, Inhabited

/-- Fetch slots up to the stop slot, `n` at most. -/
def State.fetchFrom (s : State) (c : Nat) : Nat → Nat → FetchRes
  | 0, _ => .noStop
  | n + 1, va =>
    match s.fetchWord c va with
    | .moving => .moving
    | .fail => .fail va
    | .psn => .psn va
    | .word w =>
      if fS w then .ok [(va, w)]
      else match s.fetchFrom c n (va + 4) with
        | .ok ws => .ok ((va, w) :: ws)
        | r => r

/-- The leaf entries that fetching up to n slots from an address reaches. -/
def State.fetchPtes (s : State) (c : Nat) : Nat → Nat → List Nat
  | 0, _ => []
  | n + 1, va =>
    match s.xlatVa (s.ctx c).vf va .ex with
    | none => []
    | some x => if x.mv then [] else x.ptes ++ (if fS (BitVec.ofNat 32 (s.rd x.loc 4)) then [] else s.fetchPtes c n (va + 4))
/-- The next bundle of a context is fetched: AC is set in the leaf entries that it reaches (R168). A follower fetches nothing (R275). -/
def State.fetched (s : State) (c : Nat) : State :=
  if (s.ctx c).leader.isSome then s else s.touch (s.fetchPtes c 8 (s.ctx c).pc) false

/-- Fetch the bundle at an address. -/
def State.fetch (s : State) (c va : Nat) : FetchRes := s.fetchFrom c 8 va

/-- The address of the slot after the stop slot of the bundle at an address; 32 bytes on where no stop slot is found in eight
slots (R398). -/
def State.afterBundle (s : State) (c va : Nat) : Nat :=
  match s.fetch c va with
  | .ok ws => va + 4 * ws.length
  | _ => va + 32

/-- The delay bundle of the bundle being issued: the pending target when it is itself a delay bundle (R76, R77). -/
def Env.delayAt (e : Env) : Nat := e.x.pending.getD e.s.iss.after
/-- The link of a branch: the slot after the stop slot of its delay bundle (R398). -/
def Env.link (e : Env) : Nat := e.s.afterBundle e.c e.delayAt

end Sys2Proof.Machine
end

