-- ==== Sys2Proof/Machine/Branches.lean ====
section
/-! DEFINITION. The control class, branches and status registers: BR, BRL, JR, RET, LOOP, BUCKET, TRAP, DBRK, SRD and SWR (R85 to
R91, R274, R367, R395, R398, R399, R413, R425, R431, R464, R472, R474). -/

namespace Sys2Proof.Machine

/-! ### Groups of a member (R281, R288) -/

/-- Key of a group in the hub's table. -/
def groupKey (vf gid : Nat) : Nat := vf * 65536 + gid
/-- The LIVE member of a group that core k of this package is. -/
def State.memberOf (s : State) (g : Group) (k : Nat) : Option Nat :=
  ((List.range g.members.length).zip g.members).findSome? fun (p : Nat × Member) =>
    if p.2.live && decide (p.2.pkg = s.hub.pkg) && decide (p.2.die = dieOf k) && decide (p.2.core = exposedOf k) && !isSeq k
    then some p.1 else none
/-- Next sequence number of core k in a group of a function; 0 where it is no member. -/
def State.nextSeqOf (s : State) (vf gid k : Nat) : Nat :=
  match s.hub.groups.find (groupKey vf gid) with
  | none => 0
  | some g =>
    match s.memberOf g k with
    | none => 0
    | some m => (g.members[m]?.map (·.next)).getD 0

/-! ### Branches (R76 to R79) -/

/-- The branch of the control slot. -/
def Env.takeK (_ : Env) (t : Option Nat) : State → State := fun s => { s with iss := { s.iss with takenK := t } }

/-- BR (R395). -/
def slotBr (ofs : BitVec 21) (s : State) : Slot :=
  let e := s.env
  let t := some (e.target21 ofs)
  Slot.finish { cls := .ctl, okP := true, takenK := t, eff := e.takeK t } e [] []
/-- BRL (R398). -/
def slotBrl (ofs : BitVec 21) (s : State) : Slot :=
  let e := s.env
  let t := some (e.target21 ofs)
  Slot.finish { cls := .ctl, okP := true, takenK := t, nres := 1,
                eff := fun s => e.fixed .x 31 (BitVec.ofNat 2048 e.link) 2 (e.takeK t s) } e [] []
/-- The slot of a jump through a register (R425): the target is bits 53:2 of it, times 4. -/
def jumpSlot (e : Env) (a : Opnd) (link : Option (BitVec 5)) : Slot :=
  let t := some (a.d.toNat % 2 ^ 54 / 4 * 4)
  Slot.finish { cls := .ctl, okP := true, takenK := t, nres := if link.isSome then 1 else 0,
                eff := fun s => match link with
                  | some d => e.fixed .x d (BitVec.ofNat 2048 e.link) 2 (e.takeK t s)
                  | none => e.takeK t s } e [a] [a.sc]
/-- JR (R425). -/
def slotJr (o : A1) (s : State) : Slot := jumpSlot s.env (s.env.opnd .x o.a o.ha 14) none
/-- RET (R425): x31 is read beside the operands. -/
def slotRet (s : State) : Slot := jumpSlot s.env (s.env.reg .x 31) none
/-- JR.L (R425). -/
def slotJrL (o : R2) (s : State) : Slot := jumpSlot s.env (s.env.opnd .x o.a o.ha 14) (some o.d)

/-- LOOP (R431): the three registers take their values before R77 is evaluated for the LOOP bundle. -/
def slotLoop (ls : BitVec 3) (ra : BitVec 5) (ofs : BitVec 11) (s : State) : Slot :=
  let e := s.env
  let a := e.opnd .x ra false 14
  let n := a.d.toNat % 2 ^ 32
  let last := e.target11 ofs
  let t : Option Nat := if n = 0 then some ((last + 4 * (ls.toNat + 4)) % 2 ^ 64) else none
  Slot.finish
    { cls := .ctl, legal := wellFormed (.loop ls ra ofs), okI := true, takenK := t,
      eff := fun s => (e.takeK t s).modCtx e.c fun x =>
        { x with
          loopOld := some (x.bundles, x.r.loopCnt, x.r.loopBegin, x.r.loopEnd),
          r := if n = 0 then { x.r with loopCnt := 0 }
            else { x.r with loopCnt := BitVec.ofNat 64 n, loopEnd := BitVec.ofNat 64 last &&& maskOf 0x012,
                            loopBegin := BitVec.ofNat 64 e.link &&& maskOf 0x011 } } }
    e [a] [a.sc]

/-! ### BUCKET (R274, R399) -/

/-- What a read of table words gives before the decision. -/
inductive Peek where
  | val (v : Nat) (psn : Bool) (ptes : List Nat)
  /-- a pending write of the context, or a page being moved: an interlock -/
  | wait
  | fail
deriving DecidableEq, Repr, Inhabited

/-- Read 16 bytes of a table: as local loads of the bundle see them, or by remote loads, which take the basket's bytes. -/
def Env.peek (e : Env) (va : Nat) : Peek :=
  match e.s.route e.c va .rd with
  | .loc l p =>
    match e.s.localRead e.c va l 16 with
    | some v => .val v (e.s.localPoison e.c va l 16 || e.s.resetting e.k l) p
    | none => .wait
  | .moving => .wait
  | .fail => .fail
  | .remote =>
    let path := e.s.xlatVa e.x.vf va .rd
    -- a table on a lost path reads as poison (R300)
    if e.s.place va ≠ .outside ∧ e.s.deadPath e.k va (path.map (·.loc)) then .val 0 true []
    else match path with
    | none => .fail
    | some x =>
      if x.mv then .wait
      else match overlay e.x va (some x.loc) 16 with
        | none => .wait
        | some ov =>
          .val ((List.range 16).foldr (fun i (acc : Nat) =>
              ((ov.find? fun (p : Nat × Byte) => decide (p.1 = i)).map (·.2)).getD (e.s.mem.read (x.loc + i)) |>.toNat |> (· + 256 * acc)) 0)
            (e.s.anyPoison x.loc 16 && decide (ov.length < 16)) x.ptes

/-- BUCKET (R274, R399). -/
def slotBucket (o : R3) (s : State) : Slot :=
  let e := s.env
  let a := e.opnd .x o.a o.ha 14
  let b := e.opnd .x o.b o.hb 15
  let at0 := b.d.toNat
  let n := a.d.toNat % 2 ^ 32
  let head := if e.s.ownerBad e.c at0 then Peek.fail else e.peek at0
  let cnt := match head with
    | .val v _ _ => if v % 256 = 0 ∨ 64 < v % 256 ∨ v / 256 ≠ 0 then 0 else v % 256
    | _ => 0
  let vas := (List.range cnt).map fun i => (at0 + 16 + 16 * i) % 2 ^ 64
  let all := (at0, head) :: vas.map fun va => (va, if e.s.ownerBad e.c va then Peek.fail else e.peek va)
  let pick : Option (Nat × W64) := (all.drop 1).findSome? fun (p : Nat × Peek) => match p.2 with
    | .val v _ _ =>
      if v / 2 ^ 32 % 2 ^ 32 = 0 ∧ n ≤ v % 2 ^ 32 then
        some (v / 2 ^ 64 % 2 ^ 54 / 4 * 4, if n = 0 then 0 else BitVec.ofNat 64 (2 ^ ((n - 1) % 64 + 1) - 1))
      else none
    | _ => none
  let t := pick.map (·.1)
  let mask : W64 := (pick.map (·.2)).getD 0
  let owners := all.filter fun (p : Nat × Peek) => e.s.ownerBad e.c p.1
  let bad := all.find? fun (p : Nat × Peek) =>
    (decide (p.2 = .fail) && !e.s.ownerBad e.c p.1) || (e.x.det && e.s.offPackage p.1)
  let ptes := all.flatMap fun (p : Nat × Peek) => match p.2 with
    | .val _ _ q => q
    | _ => []
  let psn := all.find? fun (p : Nat × Peek) => match p.2 with
    | .val _ q _ => q
    | _ => false
  Slot.finish
    { cls := .ctl, legal := wellFormed (.bucket o), takenK := t, nres := 1, phase := 1,
      hold := if at0 % 16 = 0 && all.any fun (p : Nat × Peek) => decide (p.2 = .wait) then .interlock else .none,
      traps := (if at0 % 16 ≠ 0 then [(cALIGN, b.d)] else owners.map fun (p : Nat × Peek) => (cOWNER, BitVec.ofNat 64 p.1))
        ++ (match psn with
          | some p => [(cECC, BitVec.ofNat 64 p.1)]
          | none => []),
      kill := bad.map fun (p : Nat × Peek) => BitVec.ofNat 64 p.1,
      eff := fun s => e.fixed .q o.d (wide64 mask) 2 (e.takeK t (s.touch ptes false)) }
    e [a, b] [a.sc, b.sc]

/-! ### Stops of kind after (R311, R413, R474) -/

/-- A stop of kind after: the lowest cause counts. -/
def stopAfterBundle (cause : Nat) : State → State := fun s =>
  { s with iss := { s.iss with stopAfter := some (match s.iss.stopAfter with
      | some a => min a cause
      | none => cause) } }

/-- TRAP (R474). -/
def slotTrap (_code : BitVec 16) (s : State) : Slot :=
  let e := s.env
  Slot.finish { cls := .ctl, legal := e.zeroPfxi, okI := true, hold := if e.x.preds.isEmpty then .none else .abr,
                eff := stopAfterBundle cTRAP } e [] []
/-- DBRK (R413). -/
def slotDbrk (_code : BitVec 16) (s : State) : Slot :=
  let e := s.env
  Slot.finish { cls := .ctl, legal := e.zeroPfxi, okI := true, eff := stopAfterBundle cDBRK } e [] []

/-! ### Status registers (R85 to R91, R464, R472) -/

/-- NEXTT requests in flight (R86, R272): those whose reply has not returned. -/
def Ctx.nexttOut (x : Ctx) (now : Nat) : Nat :=
  (x.inflight.filter fun (t : Res) => decide (t.file = .n) && !t.back now).length

/-- The loop registers as the bundle being issued reads them (R431). -/
def Ctx.loopRegs (x : Ctx) : W64 × W64 × W64 :=
  match x.loopOld with
  | some (n, c, b, l) => if x.bundles = n + 1 then (c, b, l) else (x.r.loopCnt, x.r.loopBegin, x.r.loopEnd)
  | none => (x.r.loopCnt, x.r.loopBegin, x.r.loopEnd)

/-- Value of a status register in context c (R86 to R91). -/
def State.readSr (s : State) (c num : Nat) : W64 :=
  let x := s.ctx c
  let k := coreOf c
  let q := s.core k
  let bit (b : Bool) (i : Nat) : Nat := if b then 2 ^ i else 0
  match num with
  | 0x000 => BitVec.ofNat 64 (c % 4)
  | 0x001 => BitVec.ofNat 64 (s.hub.pkg % 2 ^ 10 * 2 ^ 22 + dieOf k * 2 ^ 20 + q.phys % 128 * 2 ^ 8 + bit (isSeq k) 7 + exposedOf k)
  | 0x002 => BitVec.ofNat 64 (x.prio * 2 ^ 12 + bit x.det 11 + bit x.tm 10 + (if x.tm then x.tmem.toNat * 2 ^ 7 else 0) + bit x.prv 6
      + bit x.seqr 5)
  | 0x003 => x.jcb.setWidth 64
  | 0x004 => x.idx.setWidth 64
  | 0x005 => BitVec.ofNat 64 (x.vf % 128)
  | 0x008 => if x.r.schk then 1 else 0
  | 0x009 => x.r.rm.setWidth 64
  | 0x00A => x.r.fpflags.setWidth 64
  | 0x00B => x.r.srstream
  | 0x010 => x.loopRegs.1
  | 0x011 => x.loopRegs.2.1
  | 0x012 => x.loopRegs.2.2
  | 0x018 => BitVec.ofNat 64 (x.nexttOut s.now % 8 * 4 + x.nrot.toNat)
  | 0x020 => x.r.watchLo
  | 0x021 => x.r.watchHi
  | 0x022 => x.r.watchMask
  | 0x030 => BitVec.ofNat 64 (s.nextSeqOf x.vf x.r.agrGroup.toNat k % 2 ^ 32 * 2 ^ 32 + x.ltag.toNat * 2 ^ 16 + x.preds.length * 2 ^ 14
      + x.basketRemote * 2 ^ 9 + x.basketLocal * 2 ^ 2)
  | 0x031 => x.r.agrGroup.setWidth 64
  | 0x040 => x.errMultibr.setWidth 64
  | 0x041 => x.errRagged.setWidth 64
  | 0x042 => x.errUnsup.setWidth 64
  | 0x043 => x.errRaise.setWidth 64
  | 0x048 => q.errEcc.setWidth 64
  | 0x049 => (s.cluster (clusterOf k)).errLaunch.setWidth 64
  | 0x050 => x.trapCause
  | 0x051 => x.trapPc
  | 0x052 => x.trapAddr
  | 0x053 => x.trapSrc
  | 0x060 => BitVec.ofNat 64 (s.now - q.origin)
  | 0x061 => BitVec.ofNat 64 s.ftb
  | 0x070 => x.lockQuota
  | 0x071 => BitVec.ofNat 64 x.pins.length
  | 0x078 => q.mpwBase
  | 0x079 => q.mpwLimit
  | _ => 0

/-- SRD (R464). -/
def slotSrd (d : BitVec 5) (num : BitVec 12) (s : State) : Slot :=
  let e := s.env
  Slot.finish { cls := .ctl, legal := wellFormed (.srd d num) && e.zeroPfxi, okI := true, nres := 1, phase := 1,
                eff := e.fixed .x d (wide64 (e.s.readSr e.c num.toNat)) 2 } e [] []

/-- Registers that only a privileged context may write (R86). -/
def privSr (num : Nat) : Bool := [0x050, 0x051, 0x052, 0x053, 0x070, 0x078, 0x079].contains num
/-- Registers that software may write at all. -/
def writableSr (num : Nat) : Bool :=
  [0x008, 0x009, 0x00A, 0x00B, 0x010, 0x011, 0x012, 0x020, 0x021, 0x022, 0x031, 0x040, 0x041, 0x042, 0x043, 0x048].contains num || privSr num
/-- Registers that an ABRP checkpoint holds (R293). -/
def checkpointSr (num : Nat) : Bool :=
  [0x008, 0x009, 0x00A, 0x00B, 0x010, 0x011, 0x012, 0x020, 0x021, 0x022, 0x031].contains num

/-- SWR (R85, R472): the effect comes from the next cycle. -/
def slotSwr (d : BitVec 5) (num : BitVec 12) (s : State) : Slot :=
  let e := s.env
  let a := e.reg .x d
  let n := num.toNat
  Slot.finish
    { cls := .ctl, legal := wellFormed (.swr d num) && e.zeroPfxi, okI := true, priv := privSr n && !e.x.prv,
      hold := if e.x.preds.isEmpty || checkpointSr n then .none else .abr,
      eff := fun s => if writableSr n then (s.clearCounter e.c n).modCtx e.c fun x => x.push (mkRes .sr n (wide64 a.d) (e.s.now + 1)) else s }
    e [a] [a.sc]

/-! ### The meanings -/

def execBr (ofs : BitVec 21) (s : State) : Host.Outcome State Fault Refusal := issue (slotBr ofs) s
def execBrl (ofs : BitVec 21) (s : State) : Host.Outcome State Fault Refusal := issue (slotBrl ofs) s
def execJr (o : A1) (s : State) : Host.Outcome State Fault Refusal := issue (slotJr o) s
def execRet (s : State) : Host.Outcome State Fault Refusal := issue slotRet s
def execJrL (o : R2) (s : State) : Host.Outcome State Fault Refusal := issue (slotJrL o) s
def execLoop (ls : BitVec 3) (a : BitVec 5) (ofs : BitVec 11) (s : State) : Host.Outcome State Fault Refusal := issue (slotLoop ls a ofs) s
def execBucket (o : R3) (s : State) : Host.Outcome State Fault Refusal := issue (slotBucket o) s
def execTrap (code : BitVec 16) (s : State) : Host.Outcome State Fault Refusal := issue (slotTrap code) s
def execDbrk (code : BitVec 16) (s : State) : Host.Outcome State Fault Refusal := issue (slotDbrk code) s
def execSrd (d : BitVec 5) (num : BitVec 12) (s : State) : Host.Outcome State Fault Refusal := issue (slotSrd d num) s
def execSwr (d : BitVec 5) (num : BitVec 12) (s : State) : Host.Outcome State Fault Refusal := issue (slotSwr d num) s

end Sys2Proof.Machine
end

