-- ==== Sys2Proof/Machine/CopySlots.lean ====
section
/-! DEFINITION. The copy and generator class: GSET, GSEED, GGEN, the four copy commands and CPYW (R248 to R251, R404 to
R411, R424). -/

namespace Sys2Proof.Machine

/-! ### Generator registers -/

/-- Put a g result in flight that writes only some bytes of the register (R249). -/
def Env.gRes (e : Env) (d : BitVec 5) (v : BitVec 128) (bytes : W64) : State → State := fun s =>
  s.modCtx e.c fun x => x.push { mkRes .g d.toNat (v.setWidth 2048) (e.s.now + 1) with lm := true, lanes := bytes }

/-- GSET: the whole register, or ROWOFS and COLOFS alone (R249). -/
def slotGset (o : R3) (ofs : Bool) (s : State) : Slot :=
  let e := s.env
  let a := e.opnd .x o.a o.ha 10
  let b := e.opnd .x o.b o.hb 11
  let v : BitVec 128 := if ofs then
      (((a.d.setWidth 24 : BitVec 24) ++ (b.d.setWidth 24 : BitVec 24) : BitVec 48)).setWidth 128
    else (b.d ++ a.d : BitVec 128)
  Slot.finish { cls := .copy, legal := wellFormed (.gset o ofs), okP := true, nres := 1,
                eff := e.gRes o.d v (if ofs then 0x3F else 0xFFFF) } e [a, b] [a.sc, b.sc]
/-- GSEED writes SEED alone (R249). -/
def slotGseed (o : RI) (s : State) : Slot :=
  let e := s.env
  let a := e.opnd .x o.a false 10
  let seed : W32 := a.w + (e.imm11 o.imm).setWidth 32
  Slot.finish { cls := .copy, legal := wellFormed (.gseed o), okI := true, okP := true, nres := 1,
                eff := e.gRes o.d (seed.setWidth 128 <<< 64) 0xF00 } e [a] [a.sc]
/-- GGEN: 64 elements of a generated row or column; an invalid descriptor gives +0 and NV (R250). -/
def slotGgen (o : R3) (t c : Bool) (s : State) : Slot :=
  let e := s.env
  let a := e.opnd .g o.a o.ha 10
  let b := e.opnd .x o.b o.hb 11
  let d : BitVec 128 := a.val.setWidth 128
  let g := e.s.ctxGen e.c
  let i0 : W32 := BitVec.ofNat 32 (gRow d)
  let j0 : W32 := BitVec.ofNat 32 (gCol d)
  let r : W32 := b.d.setWidth 32
  let k : W32 := b.d.extractLsb' 32 32
  let el (l : Nat) : W32 :=
    let m := j0 + k + BitVec.ofNat 32 l
    let code := if t then genCode g d m (i0 + r) else genCode g d (i0 + r) m
    if c then BitVec.ofNat 32 code
    else
      let x := decodeFmt (gFmt d) code
      if x.isNan then nan32 else rne32 x
  let v : Wide := if gValid d then ofLanes fun l => if e.on l then el l else 0 else 0
  Slot.finish { cls := .copy, legal := wellFormed (.ggen o t c), okP := true, okL := true, nres := 1,
                eff := e.fixedL .v o.d v 8 (if gValid d then 0 else flNV) }
    e [a, b] [(a.psn, a.code), b.sc]

/-! ### Copy commands -/

/-- The current tail of LSQ(c) as a count of entries (R182). -/
def Ctx.mark (x : Ctx) : Nat := x.lsqDone + x.lsq.length

/-- Enter a copy command in its engine's queue, with the mark of this step (R405). -/
def State.enqueueCopy (s : State) (eng : Engine) (cmd : CopyCmd) : State :=
  let m := { cmd with mark := (s.ctx cmd.ctx).mark }
  s.modCore (coreOf cmd.ctx) fun k =>
    match eng with
    | .gather => { k with gq := k.gq ++ [m] }
    | _ => { k with cq := k.cq ++ [m] }

/-- A copy command at issue: kinds 0 CPY, 1 CPYS, 2 CPYG, 3 CPYR (R405). A full queue is an interlock; under a prediction
the command takes a basket entry (R294). -/
def copySlot (e : Env) (o : A1) (kind : Nat) : Slot :=
  let a := e.opnd .x o.a o.ha 10
  let eng : Engine := if kind = 2 then .gather else .copy
  let k := e.s.core e.k
  let full := decide (16 ≤ (if kind = 2 then k.gq.length else k.cq.length))
  let pred := !e.x.preds.isEmpty
  let al := if kind = 0 then 32 else 64
  let cmd : CopyCmd := ⟨kind, a.d.toNat, e.x.vf, e.c, e.x.pc, 0, e.x.rcd, e.x.det, e.s.now⟩
  Slot.finish
    { cls := .copy, okP := true, keys := some [], loc := if pred then 1 else 0, phase := 3,
      hold := if full && !pred then .interlock else .none,
      traps := (if e.s.inScratch a.d.toNat then [(cOWNER, a.d)] else [])
        ++ (if a.d.toNat % al ≠ 0 then [(cALIGN, a.d)] else []),
      eff := fun s =>
        if pred then s.modCtx e.c fun x => { x with basket := x.basket ++ [(x.preds.length, .copy eng cmd)] }
        else s.enqueueCopy eng cmd }
    e [a] [a.sc]

/-- CPY (R407). -/
def slotCpy (o : A1) (s : State) : Slot := copySlot s.env o 0
/-- CPYS (R410). -/
def slotCpys (o : A1) (s : State) : Slot := copySlot s.env o 1
/-- CPYG (R408). -/
def slotCpyg (o : A1) (s : State) : Slot := copySlot s.env o 2
/-- CPYR (R409). -/
def slotCpyr (o : A1) (s : State) : Slot := copySlot s.env o 3

/-- Does any copy or gather command of context c with this descriptor stand in the basket, queued or running (R411)? -/
def State.copyOut (s : State) (c desc : Nat) : Bool :=
  let k := s.core (coreOf c)
  let m (q : CopyCmd) : Bool := decide (q.ctx = c) && decide (q.desc = desc)
  k.cq.any m || k.gq.any m || (s.ctx c).basket.any fun h => match h.2 with
    | .copy _ q => m q
    | _ => false

/-- CPYW waits for the copies of one descriptor (R411). -/
def slotCpyw (o : A1) (s : State) : Slot :=
  let e := s.env
  let a := e.opnd .x o.a o.ha 10
  Slot.finish { cls := .copy, okP := true, hold := if e.s.copyOut e.c a.d.toNat then .engine else .none } e [a] [a.sc]

/-! ### The meanings -/

def execGset (o : R3) (ofs : Bool) (s : State) : Host.Outcome State Fault Refusal := issue (slotGset o ofs) s
def execGseed (o : RI) (s : State) : Host.Outcome State Fault Refusal := issue (slotGseed o) s
def execGgen (o : R3) (t c : Bool) (s : State) : Host.Outcome State Fault Refusal := issue (slotGgen o t c) s
def execCpy (o : A1) (s : State) : Host.Outcome State Fault Refusal := issue (slotCpy o) s
def execCpys (o : A1) (s : State) : Host.Outcome State Fault Refusal := issue (slotCpys o) s
def execCpyg (o : A1) (s : State) : Host.Outcome State Fault Refusal := issue (slotCpyg o) s
def execCpyr (o : A1) (s : State) : Host.Outcome State Fault Refusal := issue (slotCpyr o) s
def execCpyw (o : A1) (s : State) : Host.Outcome State Fault Refusal := issue (slotCpyw o) s

end Sys2Proof.Machine
end

