-- ==== Sys2Proof/Machine/Tasks.lean ====
section
/-! DEFINITION. The control class towards the sequencer: NEXTT, SUSPEND, TEND, LAUNCH, DISPATCH, RAISE, POST, QPOP, COLL, RTE and
WFE (R34, R264 to R273, R302, R403, R414, R426, R442, R449, R453, R460, R469, R470, R473, R489). -/

namespace Sys2Proof.Machine

/-- LSQ(c) and ROUT(c) are empty (R264). -/
def Ctx.quiet (x : Ctx) : Bool := x.lsq.isEmpty && x.rout.isEmpty
/-- An ABR wait under a prediction, else an interlock until LSQ(c) and ROUT(c) are empty. -/
def Ctx.holdQuiet (x : Ctx) : HoldKind := if !x.preds.isEmpty then .abr else if x.quiet then .none else .interlock
/-- A status of the control class: minimum 8 cycles, padded to 1,600 on a deterministic queue (R95, R276). -/
def Env.status (e : Env) (d : BitVec 5) (need : Nat) (v : W64) : Res := { e.varRes .x d 8 1600 need with val := wide64 v }

/-! ### NEXTT (R272, R273, R442) -/

/-- The n register that the next request takes (R83). -/
def Ctx.takeN (x : Ctx) : Ctx := { x with nrot := x.nrot + 1 }

/-- NEXTT. -/
def slotNextt (o : AB) (s : State) : Slot :=
  let e := s.env
  let a := e.opnd .x o.a o.ha 14
  let b := e.opnd .x o.b o.hb 15
  let el : Elem := ⟨a.d.toNat, 8, 0⟩
  let rem := e.isRemote el.va
  let op : Rmw := .nextt (b.d.toNat % 2 ^ 32) (b.d.toNat / 2 ^ 32)
  Slot.finish
    { cls := .ctl, okP := true, traps := e.chk a.d 8,
      hold := if !e.x.preds.isEmpty then .abr
        else if decide (4 ≤ e.x.nexttOut e.s.now) || (!rem && e.movingOf .rw [el]) then .interlock else .none,
      kill := if rem then (if e.x.det && e.s.offPackage el.va then some a.d else none) else e.killOf .rw [el],
      eff := fun s =>
        let x := s.ctx e.c
        let t : Res := { mkRes .n x.nrot.toNat 0 (e.s.now + if e.x.det then 1600 else 0) with
          fixed := false, need := 2, bun := x.bundles + 6 }
        let s1 := s.modCtx e.c fun x => x.takeN.push t
        if rem then s1.enterMem e.c [] [e.mkR (.rmw el.va op) x.nextSeq]
        else match e.s.route e.c el.va .rw with
          | .loc l p => s1.enterMem e.c [mkL (.rmw l op) x.nextSeq p] []
          | _ => s1 }
    e [a, b] [a.sc, b.sc]

/-! ### SUSPEND and TEND (R34, R35, R469, R473) -/

/-- The holds of R34: predictions are an ABR wait; results, LSQ, ROUT and a watch report on its way (R330) an interlock. NEXTT
requests need only have returned, and no report of a failed remote access is on its way (R458). -/
def Env.leaveHold (e : Env) : HoldKind :=
  if !e.x.preds.isEmpty then .abr
  else if (e.x.inflight.all fun (t : Res) => decide (t.file = .n) && t.back e.s.now) && e.x.quiet && e.x.killReport.isNone &&
      (match e.x.report with
       | some (_, _, _, _, _, here) => here
       | none => true) then .none else .interlock
/-- NEXTT results land before the write-back (R273). -/
def Ctx.landAllNextt (x : Ctx) (now : Nat) : Ctx :=
  (x.inflight.filter fun (t : Res) => decide (t.file = .n)).foldl (fun (y : Ctx) t => y.land now t) x
/-- The bundle ends the run: TEND-like or not, and word 6. -/
def Env.leave (e : Env) (tend : Bool) (w6 : W64) : State → State := fun s =>
  let s1 := s.modCtx e.c fun x => x.landAllNextt s.now
  { s1 with iss := { s1.iss with leave := some (tend, w6) } }

/-- SUSPEND (R469). The write-back reads x1 to x4 after issue: they do not count towards R62, as the bundle of R470 shows. -/
def slotSuspend (o : A1) (v : BitVec 4) (s : State) : Slot :=
  let e := s.env
  let k := v.toNat
  let named := decide (k = 1) || decide (k = 2)
  let a := if named then e.opnd .x o.a o.ha 14 else Opnd.none
  let args := [e.reg .x 1, e.reg .x 2, e.reg .x 3, e.reg .x 4]
  let own := decide (k = 1) && decide (a.d = 0)
  let addr : Nat := if own then e.x.jcb.toNat * 64 else a.d.toNat % 2 ^ 54
  let w6 : W64 := BitVec.ofNat 64 (k * 2 ^ 60 + if named then addr / 8 * 8 else 0)
  Slot.finish
    { cls := .suspend, legal := wellFormed (.suspend o v), hold := e.leaveHold, lands := true,
      illVal := if own && decide (e.x.jcb = 0) then some 0 else none,
      traps := (if named && !own && decide (addr % (if k = 1 then 64 else 8) ≠ 0) then [(cALIGN, a.d)] else [])
        ++ (if named && e.s.inScratch addr then [(cOWNER, a.d)] else []),
      eff := e.leave false w6 }
    e [a] (a.sc :: args.map (·.sc))
/-- TEND (R473). -/
def slotTend (s : State) : Slot :=
  let e := s.env
  Slot.finish { cls := .ctl, hold := e.leaveHold, lands := true, eff := e.leave true 0 } e [] []

/-! ### LAUNCH and DISPATCH (R266 to R269, R414, R426) -/

/-- Send a request to the sequencer of a core's cluster. -/
def State.sendReq (s : State) (r : LaunchReq) : State :=
  s.modCluster (clusterOf r.core) fun q => { q with reqs := q.reqs ++ [r] }

/-- The slot of LAUNCH and DISPATCH. -/
def launchSlot (e : Env) (o : R3) (dispatch : Bool) : Slot :=
  let a := e.opnd .x o.a o.ha 14
  let b := e.opnd .x o.b o.hb 15
  let d := if dispatch then e.reg .x o.d else Opnd.none
  let pred := !e.x.preds.isEmpty
  let vf := if dispatch then d.d.toNat % 128 else e.x.vf
  let req : LaunchReq := ⟨dispatch, a.d.toNat, b.d, vf, e.k, e.c, e.x.rcd, 0, !dispatch && e.s.iss.don, false⟩
  Slot.finish
    { cls := if dispatch then .ctl else .launch, priv := dispatch && !e.x.seqr, nres := e.padded, keys := some [],
      loc := if pred then 1 else 0, phase := 3,
      hold := if pred then (if dispatch then .abr else .none) else if e.x.quiet then .none else .interlock,
      traps := if a.d.toNat % 64 ≠ 0 then [(cALIGN, a.d)] else [],
      eff := fun s =>
        let seq := (s.ctx e.c).nextSeq
        let s1 := s.modCtx e.c fun x => x.push (e.status o.d 1 0)
        if pred then s1.modCtx e.c fun x =>
          { x with basket := x.basket ++ [(x.preds.length, .launch { req with seq := seq, held := true })] }
        else s1.sendReq { req with seq := seq } }
    e [a, b, d] [a.sc, b.sc, d.sc]

/-- LAUNCH (R426). -/
def slotLaunch (o : R3) (s : State) : Slot := launchSlot s.env o false
/-- DISPATCH (R414). -/
def slotDispatch (o : R3) (s : State) : Slot := launchSlot s.env o true

/-! ### POST and RAISE (R264, R449) -/

/-- The slot of POST and RAISE on the block at xA, or on TASK_JCB for xA = 0. -/
def jcbSlot (e : Env) (raise : Bool) (d : BitVec 5) (a b : Opnd) : Slot :=
  let none0 := decide (a.d = 0) && decide (e.x.jcb = 0)
  let va : W64 := if a.d = 0 then BitVec.ofNat 64 (e.x.jcb.toNat * 64) else a.d
  let own := decide (va.toNat = e.x.jcb.toNat * 64)
  let op : Rmw := if raise then .raise own (b.d.toNat % 2 ^ 32) else .post own
  let el : Elem := ⟨va.toNat, 64, 0⟩
  let rem := e.isRemote el.va
  let pred := !e.x.preds.isEmpty
  Slot.finish
    { cls := .ctl, okP := true, nres := e.padded, keys := some [],
      traps := if none0 then [] else e.chkMem va 64,
      hold := if pred && raise then .abr
        else if (!pred && !e.x.quiet) || (!none0 && !rem && e.movingOf .rw [el]) then .interlock else .none,
      kill := if none0 then none
        else if rem then (if e.x.det && e.s.offPackage el.va then some va else none) else e.killOf .rw [el],
      loc := if pred && !none0 then 1 else 0,
      eff := fun s =>
        let seq := (s.ctx e.c).nextSeq
        if none0 then s.modCtx e.c fun x => x.push (e.status d 0 (BitVec.ofNat 64 stFAULT))
        else
          let s1 := s.modCtx e.c fun x => x.push (e.status d 1 0)
          if rem then s1.enterMem e.c [] [{ e.mkR (.rmw el.va op) seq with alone := if pred then some 0 else none }]
          else match e.s.route e.c el.va .rw with
            | .loc l p => s1.enterMem e.c [{ mkL (.rmw l op) seq p with alone := if pred then 1 else 0 }] []
            | _ => s1 }
    e [a, b] [a.sc, b.sc]

/-- RAISE. -/
def slotRaise (o : R3) (s : State) : Slot :=
  let e := s.env
  jcbSlot e true o.d (e.opnd .x o.a o.ha 14) (e.opnd .x o.b o.hb 15)
/-- POST. -/
def slotPost (o : R2) (s : State) : Slot :=
  let e := s.env
  jcbSlot e false o.d (e.opnd .x o.a o.ha 14) Opnd.none

/-! ### QPOP (R271, R453) -/

/-- QPOP: the oldest record of the cluster's event queue goes to xA as four dword stores of the bundle. -/
def slotQpop (o : R2) (s : State) : Slot :=
  let e := s.env
  let a := e.opnd .x o.a o.ha 14
  let q := (e.s.cluster (clusterOf e.k)).evq
  let els : List Elem := [0, 8, 16, 24].map fun i => ⟨(a.d.toNat + i) % 2 ^ 64, 8, i⟩
  let v : Wide := match q with
    | r :: _ => ((r.w3 ++ r.w2 : BitVec 128) ++ (r.w1 ++ r.w0 : BitVec 128) : BitVec 256).setWidth 2048
    | [] => 0
  let st : W64 := if q.isEmpty then 0x100 else BitVec.ofNat 64 ((q.length - 1) * 2 ^ 16)
  let wr := e.storeSlot { okP := true } [] [] v els els false []
  Slot.finish
    { cls := .ctl, okP := true, priv := !e.x.seqr, nres := e.padded,
      hold := if !e.x.preds.isEmpty then .abr else if e.movingOf .wr els then .interlock else .none,
      traps := (if a.d.toNat % 32 ≠ 0 then [(cALIGN, a.d)] else []) ++ (if e.s.ownerBad e.c a.d.toNat then [(cOWNER, a.d)] else [])
        ++ (if q.isEmpty then [] else e.watchTrap (byteVas els)),
      -- a target on another die is checked at issue too (R453)
      kill := match e.killOf .wr els with
        | some va => some va
        | none => (els.find? fun (l : Elem) => e.isRemote l.va && (e.s.xlatVa e.x.vf l.va .wr).isNone).map fun (l : Elem) => BitVec.ofNat 64 l.va,
      eff := fun s =>
        let s1 := s.modCtx e.c fun x => x.push (e.status o.d 0 st)
        if q.isEmpty then s1
        else wr.eff (s1.dropRec (clusterOf e.k)) }
    e [a] [a.sc]

/-! ### COLL (R302, R403) -/

/-- COLL: queued on the core's collective engine, or refused with a record. -/
def slotColl (o : R3) (s : State) : Slot :=
  let e := s.env
  let a := e.opnd .x o.a o.ha 14
  let b := e.opnd .x o.b o.hb 15
  let idx := a.d.toNat % 256
  let ok := (e.s.hub.scheds.find (schedKey e.x.part e.k idx)).isSome && decide (e.s.ftb + 256 ≤ b.d.toNat)
  Slot.finish
    { cls := .ctl, nres := e.padded, hold := e.x.holdQuiet, phase := 3,
      eff := fun s =>
        let s1 := s.modCtx e.c fun x => x.push (e.status o.d 0 (BitVec.ofNat 64 (if ok then stOK else stFAULT)))
        if ok then s1.modCore e.k fun q =>
          { q with kq := q.kq ++ [⟨idx, b.d.toNat, e.x.vf, e.c, e.x.pc, (s1.ctx e.c).mark, e.x.rcd⟩] }
        else s1.postRec (clusterOf e.k) (s1.mkRec stFAULT 3 e.c 0 0 0 0 e.x.vf) }
    e [a, b] [a.sc, b.sc]

/-! ### RTE (R344, R460) -/

/-- RTE responds to a frozen context, as a write to TRESP does. -/
def slotRte (o : R2) (v : BitVec 4) (s : State) : Slot :=
  let e := s.env
  let a := e.opnd .x o.a o.ha 14
  Slot.finish
    { cls := .ctl, legal := wellFormed (.rte o v), okP := true, priv := !e.x.prv, nres := e.padded, hold := e.x.holdQuiet,
      eff := fun s =>
        let (ok, s1) := s.respond v.toNat (a.d.toNat % 2 ^ 54) e.x.vf
        s1.modCtx e.c fun x => x.push { e.varRes .x o.d 8 8 0 with val := wide64 (BitVec.ofNat 64 (if ok then stOK else stFAULT)) } }
    e [a] [a.sc]

/-! ### WFE (R489) -/

/-- Is a deadline met: (FTB - d) mod 2^64 < 2^63, and d = 0 is none? -/
def State.deadline (s : State) (d : W64) : Bool := decide (d ≠ 0) && reached (BitVec.ofNat 64 s.ftb) d

/-- WFE: the reason is RESUMED after a stop, else EVENT before DEADLINE. -/
def slotWfe (o : R3) (v : BitVec 4) (s : State) : Slot :=
  let e := s.env
  let k := v.toNat
  let a := if k = 0 then Opnd.none else e.opnd .x o.a o.ha 14
  let b := if k = 1 then Opnd.none else e.opnd .x o.b o.hb 15
  let line := a.d.toNat / 64 * 64
  let scratch := decide (k = 2) && e.s.inScratch line
  let loc := if k = 2 then e.s.xlatVa e.x.vf line .rd else none
  let moving := match loc with
    | some x => x.mv
    | none => false
  let hit := match e.x.wfe with
    | some w => w.hit
    | none => false
  let filled := !(e.s.cluster (clusterOf e.k)).evq.isEmpty
  let event := match k with
    | 0 => filled || hit
    | 2 => hit
    | _ => false
  let late := e.s.deadline (if k = 1 then a.d else b.d)
  let reason : Nat := if e.x.resumed then 2 else if event then 0 else 1
  let off := decide (k = 2) && e.x.det && e.s.offPackage line
  Slot.finish
    { cls := .ctl, legal := wellFormed (.wfe o v), okP := true, nres := 1, calm := true,
      traps := if scratch then [(cOWNER, a.d)] else [],
      kill := if decide (k = 2) && !scratch && (loc.isNone || off) then some a.d else none,
      hold := if scratch || (decide (k = 2) && (loc.isNone || off)) || e.x.resumed || event || late then .none
        else if moving then .interlock else .engine,
      present := fun s => s.modCtx e.c fun x =>
        -- a member of a gang that has met its event stays released (R489)
        let met := decide (k = 0) && x.det && filled
        match x.wfe with
        | some w => { x with wfe := some { w with hit := w.hit || met } }
        | none => { x with wfe := some ⟨(loc.map (·.loc)).getD (2 ^ 64), none, met, e.s.now⟩ },
      eff := fun s =>
        let s1 := match loc with
          | some x => s.touch x.ptes false
          | none => s
        e.fixed .x o.d (BitVec.ofNat 2048 reason) 2 s1 }
    e [a, b] [a.sc, b.sc]

/-! ### The meanings -/

def execNextt (o : AB) (s : State) : Host.Outcome State Fault Refusal := issue (slotNextt o) s
def execSuspend (o : A1) (v : BitVec 4) (s : State) : Host.Outcome State Fault Refusal := issue (slotSuspend o v) s
def execTend (s : State) : Host.Outcome State Fault Refusal := issue slotTend s
def execLaunch (o : R3) (s : State) : Host.Outcome State Fault Refusal := issue (slotLaunch o) s
def execRaise (o : R3) (s : State) : Host.Outcome State Fault Refusal := issue (slotRaise o) s
def execPost (o : R2) (s : State) : Host.Outcome State Fault Refusal := issue (slotPost o) s
def execQpop (o : R2) (s : State) : Host.Outcome State Fault Refusal := issue (slotQpop o) s
def execDispatch (o : R3) (s : State) : Host.Outcome State Fault Refusal := issue (slotDispatch o) s
def execColl (o : R3) (s : State) : Host.Outcome State Fault Refusal := issue (slotColl o) s
def execRte (o : R2) (v : BitVec 4) (s : State) : Host.Outcome State Fault Refusal := issue (slotRte o v) s
def execWfe (o : R3) (v : BitVec 4) (s : State) : Host.Outcome State Fault Refusal := issue (slotWfe o v) s

end Sys2Proof.Machine
end

