-- ==== Sys2Proof/Machine/Collective.lean ====
section
/-! DEFINITION. Scheduled collectives: the tables, the entries and the four entry steps COLL_SEND, COLL_RADD, COLL_RSTORE and
COLL_FLAG (R126, R302 to R306, R403). Participant 512 is the hub reducer (log 18). -/

namespace Sys2Proof.Machine

/-- The participant number on a link: die 0 to 3, or 4 for the hub. -/
def linkSide (k : Nat) : Nat := if k = 512 then 4 else dieOf k

/-- The entry that a participant's collective runs next. -/
structure CollEnv where
  k : Nat
  c : CollCmd
  r : CollRun
  /-- home location of its table -/
  table : Nat
  w0 : Nat
  w1 : Nat
deriving DecidableEq, Repr, Inhabited

/-- The running collective of participant k and its next entry. -/
def State.collEnv (s : State) (k : Nat) : Option CollEnv :=
  match (s.core k).kq, (s.core k).krun with
  | c :: _, some r =>
    (match s.hub.scheds.find (schedKey (s.collPart c) k c.idx) with
     | none => none
     | some t =>
       let l := hsLoc (t + 64 + 16 * r.entry)
       some ⟨k, c, r, t, s.rd l 8, s.rd (l + 8) 8⟩)
  | _, _ => none

/-- Fields of an entry (R303). -/
def CollEnv.slot (e : CollEnv) : Nat := e.w0 / 2 ^ 32
/-- OPC. -/
def CollEnv.opc (e : CollEnv) : Nat := e.w0 / 2 ^ 28 % 16
/-- WFMT. -/
def CollEnv.fmt (e : CollEnv) : Nat := e.w0 / 2 ^ 24 % 16
/-- LINK. -/
def CollEnv.link (e : CollEnv) : Nat := e.w0 / 2 ^ 16 % 256
/-- CHUNK. -/
def CollEnv.chunk (e : CollEnv) : Nat := e.w0 % 2 ^ 16
/-- LOFS. -/
def CollEnv.lofs (e : CollEnv) : Nat := e.w1 / 2 ^ 32
/-- BYTES. -/
def CollEnv.bytes (e : CollEnv) : Nat := e.w1 % 2 ^ 32
/-- A wire format with block scales. -/
def CollEnv.scaled (e : CollEnv) : Bool := decide (e.fmt = 3) || decide (e.fmt = 4)

/-- Change the run of participant k. -/
def State.modColl (s : State) (k : Nat) (f : CollRun → CollRun) : State :=
  s.modCore k fun x => { x with krun := x.krun.map f }
/-- Number of entries of a table, and its buffer and flag base. -/
def State.collHead (s : State) (t : Nat) : Nat × Nat × Nat :=
  (s.rd (hsLoc t) 8 % 2 ^ 16, s.rd (hsLoc (t + 8)) 8, s.rd (hsLoc (t + 16)) 8)

/-- Does a participant's buffer, or n bytes at an offset in it, leave the memory that its die owns (R303)? The hub reducer has no die. -/
def State.bufBad (s : State) (k buf lofs n : Nat) : Bool :=
  decide (k ≠ 512) && (decide (buf / 2 ^ 42 ≠ s.owner k) || decide (0x03FF00000000 < buf % 2 ^ 42 + lofs + n))

/-- A reserved value in the entry or the header, or a buffer outside the die's memory (R303, R306). -/
def State.collBad (s : State) (e : CollEnv) : Bool :=
  let h := (s.rd (hsLoc e.table) 8)
  decide (h / 2 ^ 16 ≠ 0) || decide (h % 2 ^ 16 = 0)
    || ([3, 4, 5, 6, 7].any fun i => decide (s.rd (hsLoc (e.table + 8 * i)) 8 ≠ 0))
    || decide (4 ≤ e.opc) || !([0, 1, 2, 3, 4].contains e.fmt)
    || !(decide (e.link ≤ 4) || (decide (0x10 ≤ e.link) && decide (e.link ≤ 0x21)))
    || decide (e.lofs % 128 ≠ 0) || decide (e.bytes % 128 ≠ 0)
    || (decide (e.opc ≤ 2) && s.bufBad e.k (s.rd (hsLoc (e.table + 8)) 8) e.lofs e.bytes)

/-- Abort at the present entry: ADDR is its table address (R306). -/
def State.collAbort (s : State) (e : CollEnv) (st addr : Nat) : State :=
  s.modColl e.k fun r => { r with ended := true, status := st, errs := r.errs + 1, addr := addr }
/-- The table address of the present entry. -/
def CollEnv.at (e : CollEnv) : Nat := e.table + 64 + 16 * e.r.entry

/-- May the present entry run: it is due, it is no refused request that waits, and nothing of it is outstanding (R305)? -/
def State.collDue (s : State) (e : CollEnv) : Bool :=
  !e.r.ended && decide (e.r.phase = 0) && decide (e.r.entry < (s.collHead e.table).1)
    && decide (e.c.t0 + e.slot ≤ s.ftb) && (decide (e.r.tries = 0) || decide (e.r.wait ≤ s.ftb))

/-- The present entry is over. -/
def State.collNext (s : State) (k done : Nat) : State :=
  s.modColl k fun r => { r with entry := r.entry + 1, done := r.done + done, tries := 0 }

/-- An access that does not pass (R151, R175): a failed translation aborts with the failing address (R172). -/
def State.collRefused (s : State) (e : CollEnv) (x : EngRes) : State :=
  match x with
  | .moving va =>
    let s1 := s.bump
    if 15 ≤ e.r.tries then s1.collAbort e stRETRY va
    else s1.modColl e.k fun r => { r with tries := r.tries + 1, wait := s.ftb + s.hint }
  | .owner va => s.collAbort e stOWNER va
  | .fail va => s.collAbort e stFAULT va
  | .lost va => s.collAbort e stFAULT va
  | .ok _ _ => s

/-- FP32 word i of buffer data. -/
def wordAt (v i : Nat) : W32 := BitVec.ofNat 32 (v / 2 ^ (32 * i) % 2 ^ 32)

/-- Requantise buffer data for the wire (R304): element codes and block scales. -/
def requantise (fmt : Nat) (scaled : Bool) (v n : Nat) : List Nat × List Nat :=
  if scaled then
    let scales := (List.range (n / 32)).map fun b => mxScale fmt ((List.range 32).map fun i => f32 (wordAt v (32 * b + i)))
    ((List.range n).map fun i =>
      let sc := scales.getD (i / 32) 255
      if sc = 255 then 0 else (encodeFmt fmt ((f32 (wordAt v i)).scale (127 - (sc : Int))) .rne true 0).1, scales)
  else ((List.range n).map fun i => (encodeFmt fmt (f32 (wordAt v i)) .rne true 0).1, [])

/-- Widen element i of wire data (R304). -/
def widenPart (p : Payload) (i : Nat) : W32 :=
  let x := decodeFmt p.fmt (p.data.getD i 0)
  let y := if p.scales.isEmpty then x else Machine.scaled x (p.scales.getD (i / 32) 255)
  if y.isNan then nan32 else rne32 y

/-- Bytes of wire data, codes first and scales after them. -/
def wireBytes (fmt : Nat) (codes scales : List Nat) : List Byte :=
  (codes.flatMap fun c => bytesOfNat (fmtWidth fmt / 8) c) ++ scales.map (BitVec.ofNat 8)
/-- Wire data read from bytes that came over a link, with the dwords that travel as poison (R322). -/
def payloadOf (e : CollEnv) (data : List Byte) (psn : List Nat) : Payload :=
  let w := fmtWidth e.fmt / 8
  let n := e.bytes / 4
  let num (bs : List Byte) : Nat := bs.foldr (fun (b : Byte) (acc : Nat) => b.toNat + 256 * acc) 0
  ⟨e.link, linkSide e.k, e.c.idx, e.chunk, e.fmt, (List.range n).map fun i => num ((data.drop (w * i)).take w),
   if e.scaled then (List.range (n / 32)).map fun i => ((data.drop (w * n + i)).headD 0).toNat else [], psn⟩

/-- The poisoned dwords of buffer pieces, counted from the start of the data. -/
def State.psnDwords (s : State) (ps : List (Nat × Nat)) : List Nat :=
  (((List.range (byteLocs ps).length).zip (byteLocs ps)).filterMap fun (p : Nat × Nat) =>
    if s.poisoned p.2 then some (p.1 / 8) else none).eraseDups

/-- Is the link of the entry lost (R306): a port, once the path to any package is lost, and a die's own link (log 18)? -/
def State.collLost (s : State) (e : CollEnv) : Bool :=
  decide (e.opc < 3) &&
    (if 0x10 ≤ e.link then s.hub.lost.any fun p => decide (p < 1024)
     else s.hub.lost.contains (1024 + e.link) || s.hub.lost.contains (1024 + linkSide e.k))

/-- A transfer of a collective has met poison: ERRS counts the dwords that it poisons, and ADDR keeps the first poisoned address (R322, log 77). -/
def CollRun.poison (r : CollRun) (n addr : Nat) : CollRun :=
  if n = 0 then r else { r with errs := r.errs + n, status := stPOISONED, addr := if r.errs = 0 then addr else r.addr }

/-- SEND (R304): the buffer data, requantised, goes on the link with its poison (R322). -/
def State.collSend (s : State) (e : CollEnv) : State :=
  let (_, buf, _) := s.collHead e.table
  match s.engAcc e.k e.c.vf .rd (buf + e.lofs) e.bytes with
  | .ok ps pt =>
    let n := e.bytes / 4
    let (codes, scales) := requantise e.fmt e.scaled (s.rdPieces ps) n
    let bad := s.psnDwords ps
    let feeds := if e.scaled then (bad.flatMap fun d => (List.range 16).map (d / 16 * 16 + ·)).eraseDups else bad
    let s1 := s.touch pt false
    let s2 := if e.link ≤ 4
      then s1.modHub fun h => { h with payloads := h.payloads ++ [⟨linkSide e.k, e.link, e.c.idx, e.chunk, e.fmt, codes, scales, feeds⟩] }
      else s1.modHub fun h => { h with sent := h.sent ++ [(e.link - 0x10, wireBytes e.fmt codes scales, feeds)] }
    (s2.collNext e.k e.bytes).modColl e.k fun r => r.poison feeds.length (buf + e.lofs + 8 * bad.headD 0)
  | x => s.collRefused e x

/-- The matching SEND of a receiving entry: what came over a port, or the oldest payload of the link inside the package. -/
def State.collIn (s : State) (e : CollEnv) (data : List Byte) (psn : List Nat) : Option (Payload × State) :=
  if 0x10 ≤ e.link then (if data.isEmpty then none else some (payloadOf e data psn, s))
  else
    let hit (p : Payload) : Bool :=
      decide (p.src = e.link) && decide (p.dst = linkSide e.k) && decide (p.idx = e.c.idx) && decide (p.chunk = e.chunk)
    match s.hub.payloads.find? hit with
    | none => none
    | some p => some (p, s.modHub fun h => { h with payloads := h.payloads.eraseP hit })

/-- RADD and RSTORE (R304): the received data, widened, is added into the buffer or stored. Poison travels with it (R322). -/
def State.collReceive (s : State) (e : CollEnv) (data : List Byte) (psn : List Nat) (add : Bool) : State :=
  let (_, buf, _) := s.collHead e.table
  match s.collIn e data psn with
  | none => s
  | some (p, s1) =>
    match s.engAcc e.k e.c.vf (if add then .rw else .wr) (buf + e.lofs) e.bytes with
    | .ok ps pt =>
      let n := e.bytes / 4
      let old := s.rdPieces ps
      let el (i : Nat) : W32 := if add then accAdd (wordAt old i) (widenPart p i) else widenPart p i
      let v := (List.range n).foldr (fun i (acc : Nat) => (el i).toNat + 2 ^ 32 * acc) 0
      let bad := (p.psn ++ if add then s.psnDwords ps else []).eraseDups
      let locs := byteLocs ps
      let s2 := (s1.touch pt true).storeBytes ((locs.zip (bytesOfNat e.bytes v)).filter fun (q : Nat × Byte) =>
        !(bad.any fun d => decide (locs.getD (8 * d) 0 / 8 = q.1 / 8)))
      let s3 := bad.foldl (fun (s : State) d => s.addPoison (locs.getD (8 * d) 0) 8) s2
      (s3.collNext e.k e.bytes).modColl e.k fun r => r.poison bad.length (buf + e.lofs + 8 * bad.headD 0)
    | x => s.collRefused e x

/-- FLAG (R305): the chunk flag's increment goes to the flag unit, and the entry ends when it has been made. -/
def State.collFlag (s : State) (e : CollEnv) : State :=
  let (_, _, flags) := s.collHead e.table
  (s.modColl e.k fun r => { r with phase := 1 }).pushIncr (flags + 8 * e.chunk) e.c.vf none (some (1024 + e.k))

/-- Run the present entry of participant k, if it is due and `op` allows its operation. -/
def State.collEntry (s : State) (k : Nat) (op : Nat → Bool) (data : List Byte) (psn : List Nat) : State :=
  match s.collEnv k with
  | none => s
  | some e =>
    if !s.collDue e then s
    else if s.collBad e || s.collLost e then s.collAbort e stFAULT e.at
    else if !op e.opc then s
    else match e.opc with
      | 0 => s.collSend e
      | 1 => s.collReceive e data psn true
      | 2 => s.collReceive e data psn false
      | _ => s.collFlag e

/-- Start the head collective of participant k (R188, log 8), and the hub reducer's table of the same index with it. -/
def State.collStart (s : State) (k : Nat) : State :=
  match (s.core k).kq, (s.core k).krun with
  | c :: _, none =>
    if (s.ctx c.ctx).lsqDone < c.mark ∧ k ≠ 512 then s
    else
      let s1 := s.modCore k fun x => { x with krun := some ⟨0, 0, 0, 0, 0, 0, 0, 0, false⟩ }
      let joins := (s.hub.scheds.find (schedKey (s.collPart c) 512 c.idx)).isSome && decide (k ≠ 512)
        && !((s.core 512).kq.any fun (q : CollCmd) => decide (q.idx = c.idx) && decide (q.t0 = c.t0) && decide (q.vf = c.vf))
      if joins then s1.modCore 512 fun x => { x with kq := x.kq ++ [c] } else s1
  | _, _ => s

/-- Complete the head collective once its entries are over (R189, R306). The hub reducer posts no record. -/
def State.collComplete (s : State) (k : Nat) : State :=
  match (s.core k).kq, (s.core k).krun with
  | c :: _, some r =>
    let spent := match s.hub.scheds.find (schedKey (s.collPart c) k c.idx) with
      | none => true
      | some t => decide (s.rd (hsLoc t) 8 % 2 ^ 16 ≤ r.entry)
    if !(r.ended || (spent && decide (r.phase = 0))) then s
    else if k = 512 then s.modCore k fun x => { x with kq := x.kq.drop 1, krun := none }
    else if !s.evRoom (clusterOf k) then s
    else
      let s1 := s.postRec (clusterOf k) (s.mkRec r.status 3 c.ctx r.done r.errs r.addr 0 c.vf)
      (s1.modCore k fun x => { x with kq := x.kq.drop 1, krun := none }).endDrain k
  | _, _ => s

/-! ### The meanings -/

/-- COLL_SEND. -/
def execCollSend (k : Nat) (s : State) : Host.Outcome State Fault Refusal := .next (s.collEntry k (fun o => decide (o = 0)) [] [])
/-- COLL_RADD: `data` is what a port brings. -/
def execCollRadd (k : Nat) (data : PortData) (s : State) : Host.Outcome State Fault Refusal :=
  .next (s.collEntry k (fun o => decide (o = 1)) data.bytes data.psn)
/-- COLL_RSTORE: `data` is what a port brings. -/
def execCollRstore (k : Nat) (data : PortData) (s : State) : Host.Outcome State Fault Refusal :=
  .next (s.collEntry k (fun o => decide (o = 2)) data.bytes data.psn)
/-- COLL_FLAG. -/
def execCollFlag (k : Nat) (s : State) : Host.Outcome State Fault Refusal := .next (s.collEntry k (fun o => decide (o = 3)) [] [])

end Sys2Proof.Machine
end

