-- ==== Sys2Proof/Machine/Matrix.lean ====
section
/-! DEFINITION. The matrix engine: the microprogram store, the calls of a context, and the thirteen steps of a routine (R209 to
R238, R381, R385, R386, R390, R391, R432, R434 to R436, R438, R440, R441, R446, R454, R490, R491, R493). -/

namespace Sys2Proof.Machine

/-! ### The store and the banks -/

/-- Word i of core k's store as it reads now: an MPWR takes effect four cycles after its issue (R235, R438). -/
def State.storeWord (s : State) (k i : Nat) : W64 :=
  let x := s.core k
  match (x.mpw.filter fun (p : Nat × Nat × W64) => decide (p.1 ≤ s.now) && decide (p.2.1 = i)).getLast? with
  | some p => p.2.2
  | none => (x.store.find i).getD (if x.library then Config.libraryWord i else 0)

/-- MPWR writes that have taken effect move into the store. -/
def State.settleStore (s : State) (k : Nat) : State :=
  s.modCore k fun x =>
    { x with store := (x.mpw.filter fun (p : Nat × Nat × W64) => decide (p.1 ≤ s.now)).foldl
               (fun (t : Table W64) (p : Nat × Nat × W64) => t.set p.2.1 p.2.2) x.store,
             mpw := x.mpw.filter fun (p : Nat × Nat × W64) => decide (s.now < p.1) }

/-- The MPWR window of core k with the effective values of R86. -/
def State.inWindow (s : State) (k i : Nat) : Bool :=
  let x := s.core k
  decide (max x.mpwBase.toNat 64 ≤ i) && decide (i < min x.mpwLimit.toNat 4096)

/-- May MPWR write word `i` with `w` (R235)? -/
def State.mpwrOk (s : State) (k : Nat) (i w : W64) : Bool :=
  let own (e : W64) : Bool := !e.getLsbD 63 || s.inWindow k (e.toNat % 4096)
  s.inWindow k i.toNat || (decide (i.toNat < 64) && own (s.storeWord k i.toNat) && own w)

/-- Is a bank's MCALL in a basket of the core (R232, R440)? -/
def State.bankInBasket (s : State) (k b : Nat) : Bool :=
  [0, 1, 2, 3].any fun i => (s.ctx (k * 4 + i)).basket.any fun (h : Nat × Held) => match h.2 with
    | .mcall c r => decide (c.bank = b) && !r
    | _ => false

/-- Is a bank busy (R232, R390)? The running routine's banks count until its versions have advanced. -/
def State.bankBusy (s : State) (k b : Nat) : Bool :=
  let x := s.core k
  s.bankInBasket k b ||
    match x.mrun with
    | none => x.mq.any fun (c : MatCmd) => decide (c.bank = b)
    | some r => (x.mq.drop 1).any (fun (c : MatCmd) => decide (c.bank = b)) || (r.ended.isNone && r.banks.getLsbD b)

/-- Version of a bank (R236). -/
def State.version (s : State) (k b : Nat) : BitVec 16 := (s.core k).ver.toList.getD b 0

/-- Enter an MCALL in the engine queue with the LSQ mark of this step, or post its VERSION_REJECT record (R232). -/
def State.enterMcall (s : State) (cmd : MatCmd) (reject : Bool) : State :=
  let k := coreOf cmd.ctx
  if reject then s.postRec (clusterOf k) (s.mkRec stVERSION 1 cmd.ctx 0 0 0 cmd.tag.toNat cmd.vf)
  else
    let x := s.ctx cmd.ctx
    s.modCore k fun q =>
      { q with mq := q.mq ++ [{ cmd with mark := x.lsqDone + x.lsq.length }],
               user := q.user.set (cmd.bank % 4) (some cmd.ctx) (Nat.mod_lt _ (by decide)) }

/-! ### The instructions -/

/-- The m and g registers, which MCALL takes (R82, R232). -/
def paramRegs : List (File × Nat) := (List.range 8).flatMap fun i => [(.m, i), (.g, i)]
/-- MCALL (R232, R435). -/
def slotMcall (o : AB) (bank : BitVec 2) (s : State) : Slot :=
  let e := s.env
  let a := e.opnd .x o.a o.ha 12
  let b := e.opnd .x o.b o.hb 13
  let n := bank.toNat
  let ev : BitVec 16 := a.d.extractLsb' 16 16
  let d := (ev - s.version e.k n).toNat
  let pred := !e.x.preds.isEmpty
  let reject := decide (d ≠ 0)
  let full := if reject then !(s.evRoom (clusterOf e.k)) else decide (4 ≤ (s.core e.k).mq.length)
  let cmd : MatCmd := ⟨a.d.toNat % 64, n, b.d, e.x.r.m, e.x.r.g, e.x.vf, e.c, e.x.pc, 0, e.x.rcd, taskScope e.x.jcb e.x.idx, e.x.det, e.x.scyc⟩
  let f := Slot.finish
    -- the bank is busy whatever its operands hold (R43)
    { cls := .mat, okP := true, keys := some [], phase := 3, loc := if pred then 1 else 0,
      hold := if s.bankBusy e.k n || (!e.x.ilock a.rd && decide (1 ≤ d) && decide (d < 2 ^ 15)) then .engine
        else if full && !pred then .interlock else .none,
      eff := fun s =>
        if pred then s.modCtx e.c fun x => { x with basket := x.basket ++ [(x.preds.length, .mcall cmd reject)] }
        else s.enterMcall cmd reject }
    e [a, b] [a.sc, b.sc]
  { f with reads := f.reads ++ paramRegs }
/-- MWAIT (R233, R441). -/
def slotMwait (o : A1) (bank : BitVec 2) (s : State) : Slot :=
  let e := s.env
  let a := e.opnd .x o.a o.ha 12
  let ok := decide ((s.version e.k bank.toNat - a.d.setWidth 16).toNat < 2 ^ 15)
  Slot.finish { cls := .mat, okP := true, hold := if ok then .none else .engine } e [a] [a.sc]
/-- MVER (R234, R440). -/
def slotMver (d : BitVec 5) (bank : BitVec 2) (s : State) : Slot :=
  let e := s.env
  let v := (if s.bankBusy e.k bank.toNat then 2 ^ 16 else 0) + (s.version e.k bank.toNat).toNat
  Slot.finish { cls := .mat, okP := true, nres := 1, eff := e.fixed .x d (BitVec.ofNat 2048 v) 2 } e [] []
/-- MPWR (R235, R438): the privilege check is made whatever the condition. -/
def slotMpwr (o : AB) (s : State) : Slot :=
  let e := s.env
  let a := e.opnd .x o.a o.ha 12
  let b := e.opnd .x o.b o.hb 13
  Slot.finish
    { cls := .mat, okP := true, privVal := !(s.mpwrOk e.k a.d b.d), hold := if e.x.preds.isEmpty then .none else .abr,
      eff := fun s => (s.settleStore e.k).modCore e.k fun x =>
        { x with mpw := x.mpw ++ [(e.s.now + 4, a.d.toNat % 4096, b.d)] } }
    e [a, b] [a.sc, b.sc]
/-- MPRD (R235, R438). -/
def slotMprd (o : R2) (s : State) : Slot :=
  let e := s.env
  let a := e.opnd .x o.a o.ha 12
  Slot.finish { cls := .mat, okP := true, nres := 1,
                eff := e.fixed .x o.d (wide64 (s.storeWord e.k (a.d.toNat % 4096))) 4 } e [a] [a.sc]

/-! ### A running routine -/

/-- Cycle class of R237. -/
inductive MClass where
  | compute | wload | await | blocked
deriving DecidableEq, Repr, Inhabited

/-- Number of a class (R371). -/
def MClass.num (c : MClass) : Nat :=
  match c with
  | .compute => 0
  | .wload => 1
  | .await => 2
  | .blocked => 3

/-- Offset of an MCLASS counter in the debug block (R370). -/
def mclassAt (k c : Nat) : Nat := 0x1000 + 0x1000 * dieOf k + 0x40 * exposedOf k + 8 * c
/-- Saturating 64-bit count (R370). -/
def satAdd64 (a : W64) (n : Nat) : W64 := BitVec.ofNat 64 (min (a.toNat + n) 0xFFFFFFFFFFFFFFFF)


/-- Change the run of core k. -/
def State.modRun (s : State) (k : Nat) (f : MatRun → MatRun) : State :=
  s.modCore k fun x => { x with mrun := x.mrun.map f }

/-- The class of a step while it runs (R237). -/
def stepClass (i : Option Instr) : MClass :=
  match i with
  | some (.wload _ _ _ _ _) => .wload
  | some (.wgen _ _ _) => .wload
  | some (.ragg _ _) => .await
  | _ => .compute
/-- The class of a cycle in which a step waits (R237). -/
def waitClass (i : Option Instr) : MClass :=
  match i with
  | some (.adrain _ _ _ _ _ _ _ _) => .blocked
  | _ => .await

/-- The class of the present cycle of a routine (R237): the step that began last runs until `cost`, a generator's waiting at its end; then the next
step waits, or the record for its place. -/
def State.runClass (s : State) (k : Nat) (r : MatRun) : Nat :=
  if s.now < r.cost then (if r.cost ≤ s.now + r.tail then MClass.num .await else r.cls)
  else if r.ended.isSome then MClass.num .blocked
  else (waitClass (decodeMicro (s.storeWord k r.word))).num

/-- The cycle that passes is charged to the routine of core k (R237, R372): to the counter of its class where MF_ADDR lets the MCALL bundle count, and
to key mclassAt k 5, which holds the cycles that were not idle. -/
def State.chargeCycle (s : State) (k : Nat) : State :=
  match (s.core k).mq, (s.core k).mrun with
  | q :: _, some r =>
    let h := s.hub
    let hit := !h.mfAddr.getLsbD 63 || decide (h.mfAddr.toNat % 2 ^ 54 / 4 * 4 = q.pc)
    let at0 := mclassAt k (s.runClass k r)
    let t1 := if hit then h.mclass.set at0 (satAdd64 (h.mclass.get at0 0) 1) else h.mclass
    s.modHub fun h => { h with mclass := t1.set (mclassAt k 5) (t1.get (mclassAt k 5) 0 + 1) }
  | _, _ => s
/-- The cycle that passes is charged on every core. -/
def State.chargeAll (s : State) : State := s.cores.keys.foldl (fun (s : State) k => s.chargeCycle k) s

/-- Idle cycles of core k's matrix engine since power-on: those in which no routine ran (R237). -/
def State.idleCycles (s : State) (k : Nat) : Nat := s.now - s.hub.epoch - (s.hub.mclass.get (mclassAt k 5) 0).toNat
/-- An MCLASS counter as it reads (R370, R372): IDLE counts on from the value last written, at the idle cycle in key mclassAt k 6, and saturates. -/
def State.mclassRead (s : State) (k c : Nat) : W64 :=
  let v := s.hub.mclass.get (mclassAt k c) 0
  if c = 4 then satAdd64 v (s.idleCycles k - (s.hub.mclass.get (mclassAt k 6) 0).toNat) else v

/-- A routine as its steps see it: the core, the command and the run. -/
structure RunEnv where
  k : Nat
  c : MatCmd
  r : MatRun
deriving DecidableEq, Repr, Inhabited

/-- The routine that runs on a core, if one does and has not ended. -/
def State.routine (s : State) (k : Nat) : Option RunEnv :=
  match (s.core k).mq, (s.core k).mrun with
  | c :: _, some r => if r.ended.isNone then some ⟨k, c, r⟩ else none
  | _, _ => none

/-- The end of a routine (R229 step 2, R230): the versions of its banks advance, and clipped rows reach the issuing context if
it still holds the record (R223). The step that ends it takes one cycle of its class (R237, R238, log 74); then the record waits for its place in
the event queue. -/
def State.endRun (s : State) (e : RunEnv) (st addr : Nat) : State :=
  let bump (v : Vector (BitVec 16) 4) : Vector (BitVec 16) 4 :=
    v.mapIdx fun i x => if e.r.banks.getLsbD i then x + 1 else x
  let s1 := s.modCore e.k fun x => { x with ver := bump x.ver, mrun := x.mrun.map fun r =>
    { r with ended := some (st, addr), cost := s.now + 1, tail := 0, cls := (stepClass (decodeMicro (s.storeWord e.k e.r.word))).num } }
  let x := s1.ctx e.c.ctx
  if e.r.clip ≠ 0 ∧ x.phase ≠ .idle ∧ x.rcd = e.c.rcd ∧ x.vf = e.c.vf
  then s1.modCtx e.c.ctx fun x => x.countRagged s.now e.r.clip else s1

/-- Abort with a status and address (R230). -/
def State.abortRun (s : State) (e : RunEnv) (st addr : Nat) : State := s.endRun e st addr
/-- An abort that counts in ERRS, so that ADDR stands beside it (R159, R230, log 63). -/
def State.abortAt (s : State) (e : RunEnv) (st addr : Nat) : State := (s.modRun e.k fun r => { r with errs := r.errs + 1 }).abortRun e st addr
/-- A step fault: FAULT at the step's word index. -/
def State.stepFault (s : State) (e : RunEnv) : State := s.abortAt e stFAULT e.r.word

/-- Loops after the step at word w (R432): the loops left and the next word. -/
def loopAfter (w : Nat) : List (Nat × Nat × Nat) → List (Nat × Nat × Nat) × Nat
  | [] => ([], w + 1)
  | (b, e, n) :: r => if e = w then (if 1 < n then ((b, e, n - 1) :: r, b) else loopAfter w r) else ((b, e, n) :: r, w + 1)

/-- A step has completed: its cycles, those of waiting for generator values after them, and where the routine goes on (R238). -/
def State.stepTo (s : State) (k : Nat) (c : MClass) (cycles : Nat) (loops : List (Nat × Nat × Nat)) (next : Nat) : State :=
  s.modRun k fun r =>
    { r with word := next, loops := loops, steps := r.steps + 1, tries := 0, row := 0, cost := s.now + cycles + r.genWait, cls := c.num,
             cyc := 0, genWait := 0, tail := r.genWait }
/-- A step has completed and the next word follows (R228). -/
def State.stepOn (s : State) (e : RunEnv) (c : MClass) (cycles : Nat) : State :=
  let (ls, w) := loopAfter e.r.word e.r.loops
  s.stepTo e.k c cycles ls w

/-- Note an address in error: the first one is kept (R230). -/
def MatRun.note (r : MatRun) (a : Nat) : MatRun := if r.addr = 0 then { r with addr := a + 1 } else r
/-- m register copy. -/
def RunEnv.m (e : RunEnv) (i : BitVec 3) : W64 := e.c.m[i.toNat]'i.isLt
/-- g register copy. -/
def RunEnv.g (e : RunEnv) (i : BitVec 3) : BitVec 128 := e.c.g[i.toNat]'i.isLt
/-- Generator environment of the routine (R242, R247). -/
def State.runGen (s : State) (e : RunEnv) : GenEnv := s.genEnv e.k e.c.vf e.c.task

/-- One access of a routine: on a deterministic queue only the own scratchpad is an operand (R276). -/
def State.runAcc (s : State) (e : RunEnv) (a : Acc) (va n : Nat) : EngRes :=
  if e.c.det && !(match s.place va with
    | .own _ => true
    | _ => false) then .fail va
  else s.engAcc e.k e.c.vf a va n

/-- A refused access: retried after a hint, and RETRY_EXHAUSTED at the sixteenth refusal (R175). -/
def State.runRetry (s : State) (e : RunEnv) (va : Nat) : State :=
  let r := ((s.core e.k).mrun).getD e.r
  let s1 := s.bump
  if 15 ≤ r.tries then
    s1.abortAt { e with r := r } stRETRY va
  else s1.modRun e.k fun r => { r with tries := r.tries + 1, wait := s.ftb + s.hint }

/-- An access that does not pass: retry, or abort with its status and address (R151, R230). A refused access counts in ERRS. -/
def State.runBad (s : State) (e : RunEnv) (x : EngRes) : State :=
  match x with
  | .moving va => s.runRetry e va
  | .owner va => s.abortAt e stOWNER va
  | .fail va => s.abortAt e stFAULT va
  | .lost va => s.abortAt e stFAULT va
  | .ok _ _ => s

/-- Reserved bits of an operand descriptor that names a tile (R216). -/
def descBad (d : W64) : Bool := decide (d.extractLsb' 54 6 ≠ 0) || (d.getLsbD 63 && decide (d.extractLsb' 48 6 ≠ 0))
/-- ROW of a descriptor (R216). -/
def descRow (d : W64) : Nat := d.toNat / 2 ^ 24 % 2 ^ 24
/-- COL of a descriptor. -/
def descCol (d : W64) : Nat := d.toNat % 2 ^ 24

/-! ### Weights (R210, R213, R222, R490, R491) -/

/-- Code of planed element (k, j) of a tile of width w, from the tile as one number (R212, R213). -/
def planed (t w k j : Nat) : Nat :=
  (List.range w).foldl (fun (c : Nat) b => if t.testBit ((16 * w * k + 16 * b) * 8 + j) then c + 2 ^ b else c) 0

/-- Is a value non-finite? -/
def Num.nonFin (x : Num) : Bool :=
  match x with
  | .fin _ _ _ => false
  | _ => true

/-- Put weights into the array (R210, R222): WNF[g] is set when a cell of the group is not finite, or its scale is NaN. -/
def State.loadArray (s : State) (e : RunEnv) (fmt : Nat) (mx : Bool) (code scale : Nat → Nat) (psn : Option Nat) : State :=
  let bad (g : Nat) : Bool :=
    (mx && (List.range 128).any fun j => decide (scale (128 * g + j) = 255)) ||
      (List.range 4096).any fun i => (decodeFmt fmt (code (4096 * g + i))).nonFin
  s.modCore e.k fun x =>
    { x with cells := ⟨(List.range 16384).map fun i => (i, code i)⟩,
             scales := if mx then ⟨(List.range 512).map fun i => (i, scale i)⟩ else Table.empty,
             latch := some fmt, mxOn := mx, wpsn := psn, wuser := some e.c.ctx,
             wnf := (BitVec.ofBool (bad 3) ++ BitVec.ofBool (bad 2) ++ BitVec.ofBool (bad 1) ++ BitVec.ofBool (bad 0) : BitVec 4) }

/-- WGEN, and WLOAD from a generator (R217, R490). Of the descriptor that WGEN or AGEN names only ROW and COL count, and its reserved bits are ignored
too (R216, log 37); WLOAD has tested its own. -/
def State.loadGen (s : State) (e : RunEnv) (g : BitVec 128) (t : Bool) (d : W64) : State :=
  if gFmt g = 0 || !gValid g then s.stepFault e
  else
    let i0 : W32 := BitVec.ofNat 32 (gRow g + descRow d)
    let j0 : W32 := BitVec.ofNat 32 (gCol g + descCol d)
    let v := s.runGen e
    let code (i : Nat) : Nat :=
      let k : W32 := BitVec.ofNat 32 (i / 128)
      let j : W32 := BitVec.ofNat 32 (i % 128)
      if t then genCode v g (j0 + j) (i0 + k) else genCode v g (i0 + k) (j0 + j)
    let s1 := s.loadArray e (gFmt g) false code (fun _ => 127) none
    let s2 := if gKind g = 4 then s1.modRun e.k fun r => { r with genWait := 128 } else s1
    s2.stepOn e .wload (8 * fmtWidth (gFmt g) + 16)

/-- WLOAD (R222, R491). -/
def runWload (fmt : BitVec 4) (mx : Bool) (ma : BitVec 3) (rw : Bool) (ms : BitVec 3) (e : RunEnv) (s : State) : State :=
  let d := e.m ma
  let f := fmt.toNat
  let w := fmtWidth f
  if descBad d then s.stepFault e
  else if d.getLsbD 63 then s.loadGen e (e.g (d.extractLsb' 60 3)) false d
  else if f = 0 || (mx && !mxFormat fmt) || (!rw && decide (ms ≠ 0)) || (rw && !e.r.rgv) then s.stepFault e
  else
    let base := if rw then (d.toNat % 2 ^ 54 + e.r.rgw * (e.m ms).toNat) % 2 ^ 64 else d.toNat % 2 ^ 54
    if base % 16 ≠ 0 then s.stepFault e
    else
      let take (t : Nat) (psn : Option Nat) (s : State) : State :=
        let sc (i : Nat) : Nat := t / 2 ^ (8 * (2048 * w + i)) % 256
        let s1 := s.loadArray e f mx (fun i => planed t w (i / 128) (i % 128)) sc psn
        let s2 := match psn with
          | some a => s1.modRun e.k fun r => { r.note a with poisoned := true }
          | none => s1
        s2.stepOn e .wload (8 * w + 16 + if mx then 2 else 0)
      match s.runAcc e .rd base (2048 * w + if mx then 512 else 0) with
      | .ok ps pt => take (s.rdPieces ps) (s.psnPieces base ps) (s.touch pt false)
      -- what lies behind a lost path reads as poison (R300)
      | .lost va => take 0 (some va) s
      | x => s.runBad e x
/-- WGEN (R490). -/
def runWgen (gn : BitVec 3) (t : Bool) (ma : BitVec 3) (e : RunEnv) (s : State) : State := s.loadGen e (e.g gn) t (e.m ma)

/-! ### Streams (R214, R215, R223, R386, R391) -/

/-- A quantised activation row: exponents, nf flags and integers of its four groups. -/
structure ActRow where
  es : List Int
  nf : BitVec 4
  a : List Int
  /-- failed the header check of R215 -/
  bad : Bool
  psn : Option Nat
deriving DecidableEq, Repr, Inhabited

/-- An activation row read from memory (R214), checked under R215. -/
def actRow (t p fmt : Nat) (psn : Option Nat) : ActRow :=
  let h1 := t / 2 ^ 64 % 2 ^ 64
  let bad := decide (h1 / 16 % 32 ≠ p - 1) || decide (h1 / 4096 % 16 ≠ fmt) || decide (h1 / 2 ^ 16 ≠ 0) || decide (h1 / 512 % 8 ≠ 0)
  let int (k : Nat) : Int :=
    sextNat p ((List.range p).foldl (fun (c : Nat) b => if t.testBit ((16 + 16 * b) * 8 + k) then c + 2 ^ b else c) 0)
  ⟨[0, 1, 2, 3].map fun g => sextNat 16 (t / 2 ^ (16 * g) % 2 ^ 16), if bad then 15 else BitVec.ofNat 4 (h1 % 16),
   (List.range 128).map int, bad, psn⟩

/-- Row r of a generated operand (R217, R386). -/
def genActRow (v : GenEnv) (g : BitVec 128) (t : Bool) (d : W64) (p r : Nat) : ActRow :=
  let i : W32 := BitVec.ofNat 32 (gRow g + descRow d + r)
  let j0 : W32 := BitVec.ofNat 32 (gCol g + descCol d)
  let f := gFmt g
  let codes := (List.range 128).map fun k =>
    let j : W32 := j0 + BitVec.ofNat 32 k
    if t then genCode v g j i else genCode v g i j
  let q := [0, 1, 2, 3].map fun n =>
    let c := (codes.drop (32 * n)).take 32
    quantBlk f p (c.map (decodeFmt f)) (c.map (storedInt f))
  ⟨q.map (·.1), BitVec.ofNat 4 ((q.zip [1, 2, 4, 8]).foldl (fun (n : Nat) (x : (Int × Bool × List Int) × Nat) => if x.1.2.1 then n + x.2 else n) 0),
   q.flatMap (·.2.2), false, none⟩

/-- Key of element (row, j) of a bank. -/
def bankKey (b row j : Nat) : Nat := b * 32768 + row * 128 + j

/-- Stream one row into a bank row: the groups in ascending K order (R142, R223). An INT8 code with MX scales is the integer times 2^-6 (R119). -/
def CoreSt.stream (x : CoreSt) (b row p : Nat) (r : ActRow) : CoreSt :=
  let f := x.latch.getD 0
  let one (t : Table W32) (j : Nat) : Table W32 :=
    let acc := [0, 1, 2, 3].foldl (fun (acc : W32) g =>
      let ws := (List.range 32).map fun k =>
        let w := decodeFmt f (x.cells.get ((32 * g + k) * 128 + j) 0)
        if x.mxOn && decide (f = 9) then w.scale (-6) else w
      let sc := if x.mxOn then x.scales.get (128 * g + j) 127 else 127
      accAdd acc (kgroup ws sc (r.es.getD g 0) (r.nf.getLsbD g) ((r.a.drop (32 * g)).take 32) p)) (t.get (bankKey b row j) 0)
    t.set (bankKey b row j) acc
  let marked := r.psn.isSome || x.wpsn.isSome
  { x with banks := (List.range 128).foldl one x.banks,
           bankPsn := if marked then insertSorted x.bankPsn (b * 256 + row) else x.bankPsn }

/-- Is every group of a row skipped (R227)? -/
def skipped (zs : Bool) (wnf : BitVec 4) (r : ActRow) : Bool :=
  zs && [0, 1, 2, 3].all fun g =>
    !r.nf.getLsbD g && !wnf.getLsbD g && ((r.a.drop (32 * g)).take 32).all fun z => decide (z = 0)

/-- Account for a streamed row: DONE, ERRS, poison and the first address in error (R215, R223, R230, R322). Refusals of its access are over (R175). -/
def MatRun.rowDone (r : MatRun) (x : ActRow) (wpsn : Option Nat) (header : Nat) : MatRun :=
  let r1 := if x.bad then { r.note header with errs := r.errs + 1 } else { r with done := r.done + 1 }
  let r2 := match x.psn, wpsn with
    | some a, _ => { r1.note a with errs := r1.errs + 1, poisoned := true }
    | none, some a => { r1.note a with errs := r1.errs + 1, poisoned := true }
    | none, none => r1
  { r2 with row := r.row + 1, tries := 0 }

/-- Stream the rows that remain of a step; `gen` names a generator operand, and `cyc` counts the cycles of the rows streamed so far, which a refused
access keeps for when the step goes on (R238). -/
def streamRows (e : RunEnv) (p brow fmt addr first : Nat) (gen : Option (BitVec 128 × Bool × W64)) :
    Nat → Nat → Nat → State → State
  | 0, _, cyc, s => s.stepOn e .compute (20 + cyc)
  | n + 1, row, cyc, s =>
    let next (x : ActRow) (header : Nat) (s : State) : Nat × State :=
      let c := s.core e.k
      let zs := skipped e.r.zs c.wnf x
      (if zs then 0 else (p + 3) / 4,
       (s.modCore e.k fun c => c.stream e.r.sel (brow + row) p x).modRun e.k fun r => r.rowDone x c.wpsn header)
    match gen with
    | some (g, t, d) =>
      let (m, s1) := next (genActRow (s.runGen e) g t d p (first + row)) 0 s
      let s2 := if gKind g = 4 ∧ p ≤ 4 then s1.modRun e.k fun r => { r with genWait := r.genWait + 1 } else s1
      streamRows e p brow fmt addr first gen n (row + 1) (cyc + m) s2
    | none =>
      let va := addr + 16 * (p + 1) * (first + row)
      match s.runAcc e .rd va (16 * (p + 1)) with
      | .ok ps pt =>
        let (m, s1) := next (actRow (s.rdPieces ps) p fmt (s.psnPieces va ps)) va (s.touch pt false)
        streamRows e p brow fmt addr first gen n (row + 1) (cyc + m) s1
      -- a row behind a lost path is poison (R300)
      | .lost va =>
        let (m, s1) := next ⟨[0, 0, 0, 0], 0, List.replicate 128 0, false, some va⟩ va s
        streamRows e p brow fmt addr first gen n (row + 1) (cyc + m) s1
      | x => (s.modRun e.k fun r => { r with cyc := cyc }).runBad { e with r := ((s.core e.k).mrun).getD e.r } x

/-- ASTREAM and AGEN (R223). A ragged record that clips is the step's first address in error, before any of its rows (R230, log 75). -/
def State.streamStep (s : State) (e : RunEnv) (fmt p brow n addr : Nat) (rg : Bool) (gen : Option (BitVec 128 × Bool × W64)) : State :=
  let invalid := match gen with
    | some (g, _, _) => !gValid g
    | none => decide (addr % 16 ≠ 0)
  if (s.core e.k).latch.isNone || decide (256 < brow + n) || decide (24 < p) || invalid || (rg && !e.r.rgv) then s.stepFault e
  else
    let cnt := if rg then min e.r.rgc n else n
    let first := if rg then e.r.rgf else 0
    -- a retried step has counted its clipped rows already
    let fresh := decide (e.r.row = 0) && decide (e.r.tries = 0)
    let clip := if rg && fresh then e.r.rgc - cnt else 0
    let s1 := if clip = 0 then s
      else s.modRun e.k fun r => { r.note e.r.rga with clip := r.clip + clip, errs := r.errs + clip, clipped := true }
    let e1 := { e with r := ((s1.core e.k).mrun).getD e.r }
    streamRows e1 p brow fmt addr first gen (cnt - e.r.row) e.r.row e.r.cyc s1

/-- ASTREAM (R391). -/
def runAstream (fmt : BitVec 4) (pm1 : BitVec 5) (ma : BitVec 3) (brow0 nm1 : BitVec 8) (rg : Bool) (e : RunEnv) (s : State) : State :=
  let d := e.m ma
  if descBad d then s.stepFault e
  else s.streamStep e fmt.toNat (pm1.toNat + 1) brow0.toNat (nm1.toNat + 1) (d.toNat % 2 ^ 54) rg
    (if d.getLsbD 63 then some (e.g (d.extractLsb' 60 3), false, d) else none)
/-- AGEN (R386). -/
def runAgen (gn : BitVec 3) (t : Bool) (pm1 : BitVec 5) (ma : BitVec 3) (brow0 nm1 : BitVec 8) (rg : Bool) (e : RunEnv) (s : State) : State :=
  s.streamStep e 0 (pm1.toNat + 1) brow0.toNat (nm1.toNat + 1) 0 rg (some (e.g gn, t, e.m ma))

/-! ### Banks (R224, R225, R381, R385, R390) -/

/-- ASEL (R390): a bank that is busy for another command aborts. -/
def runAsel (bank : BitVec 2) (e : RunEnv) (s : State) : State :=
  let b := bank.toNat
  if s.bankInBasket e.k b || ((s.core e.k).mq.drop 1).any fun (c : MatCmd) => decide (c.bank = b) then s.stepFault e
  else (s.modRun e.k fun r => { r with sel := b, banks := putBit r.banks b true }).stepOn e .compute 1

/-- Clear a bank row and its poison mark. -/
def CoreSt.clearRow (x : CoreSt) (b row : Nat) : CoreSt :=
  { x with banks := ⟨x.banks.l.filter fun (p : Nat × W32) => decide (p.1 / 128 ≠ b * 256 + row)⟩,
           bankPsn := x.bankPsn.filter fun n => decide (n ≠ b * 256 + row) }

/-- ACLR (R381). -/
def runAclr (brow0 nm1 : BitVec 8) (e : RunEnv) (s : State) : State :=
  let n := nm1.toNat + 1
  if 256 < brow0.toNat + n then s.stepFault e
  else (s.modCore e.k fun x => (List.range n).foldl (fun (x : CoreSt) i => x.clearRow e.r.sel (brow0.toNat + i)) x).stepOn e .compute ((n + 7) / 8)

/-- Drain the rows that remain of an ADRAIN (R225). -/
def drainRows (e : RunEnv) (fmt : Nat) (rm : Rm) (sat : Bool) (addr brow cyc : Nat) (pos : W64) (clr : Bool) : Nat → Nat → State → State
  | 0, _, s => s.stepOn e .compute cyc
  | n + 1, row, s =>
    let w := fmtWidth fmt
    let va := addr + 16 * w * row
    let put (ps : List (Nat × Nat)) (pt : List Nat) : State :=
      let c := s.core e.k
      let b := e.r.sel
      let psn := c.bankPsn.contains (b * 256 + brow + row)
      let gv := s.runGen e
      let code (j : Nat) : Nat :=
        let dr : W32 := if rm = .sr then genDraw gv (e.g 7) (pos + BitVec.ofNat 64 (128 * row + j)) else 0
        (encodeFmt fmt (f32 (c.banks.get (bankKey b (brow + row) j) 0)) rm sat dr).1
      let v := (List.range 128).foldr (fun j (acc : Nat) => code j + 2 ^ w * acc) 0
      let s1 := (s.touch pt true).wrPieces v psn ps
      let s2 := if clr then s1.modCore e.k fun x => x.clearRow b (brow + row) else s1
      let s3 := s2.modRun e.k fun r =>
        let r1 := if psn then { r.note va with errs := r.errs + 128, poisoned := true } else r
        { r1 with row := row + 1, tries := 0 }
      s3
    match s.runAcc e .wr va (16 * w) with
    | .ok ps pt => drainRows e fmt rm sat addr brow cyc pos clr n (row + 1) (put ps pt)
    -- a write over a lost path is discarded (R300)
    | .lost _ => drainRows e fmt rm sat addr brow cyc pos clr n (row + 1) (put [] [])
    | x => s.runBad { e with r := ((s.core e.k).mrun).getD e.r } x

/-- ADRAIN (R225, R385). -/
def runAdrain (fmt : BitVec 4) (rm : BitVec 3) (sf : Bool) (ma : BitVec 3) (brow0 nm1 : BitVec 8) (clr : Bool) (ms : BitVec 3)
    (e : RunEnv) (s : State) : State :=
  let d := e.m ma
  let f := fmt.toNat
  let n := nm1.toNat + 1
  let addr := d.toNat % 2 ^ 54
  if descBad d || d.getLsbD 63 || decide (4 < rm.toNat) || (decide (rm ≠ 4) && decide (ms ≠ 0)) || decide (14 ≤ f)
      || (decide (f = 0) && sf) || decide (addr % 16 ≠ 0) || decide (256 < brow0.toNat + n) then s.stepFault e
  else
    let cyc := 4 + n * ((fmtWidth f + 15) / 16)
    drainRows e f (rmOfBits rm) sf addr brow0.toNat cyc (if rm = 4 then e.m ms else 0) clr (n - e.r.row) e.r.row s

/-! ### Ragged records and control (R226 to R228, R432, R434, R446, R454, R493) -/

/-- RAGG (R226, R454). -/
def runRagg (ma mc : BitVec 3) (e : RunEnv) (s : State) : State :=
  let d := e.m ma
  let c := e.m mc
  if ma = mc then s.stepFault e
  else if d.toNat / 2 ^ 54 ≠ 0 ∨ d.toNat % 16 ≠ 0 then s.abortAt e stFAULT (d.toNat % 2 ^ 54)
  else if c.toNat % 2 ^ 32 = 0 then (s.modRun e.k fun r => { r with re := true, rgv := false }).stepOn e .await 4
  else
    let take (t : Nat) (psn : Bool) (s : State) : State :=
      let s1 := s.modRun e.k fun r =>
        let r1 := { r with re := false, rgv := true, rga := d.toNat }
        if psn then { r1.note d.toNat with rgf := 0, rgc := 0, rgw := 0, errs := r.errs + 1, poisoned := true }
        else { r1 with rgf := t / 2 ^ 32 % 2 ^ 32, rgc := t / 2 ^ 64 % 2 ^ 32, rgw := t / 2 ^ 96 % 2 ^ 32 }
      let s2 := s1.modCore e.k fun x => { x with mq := modifyAt x.mq 0 fun q =>
        { q with m := (q.m.set ma.toNat (d + 16) ma.isLt).set mc.toNat
                        ((c &&& 0xFFFFFFFF00000000) ||| ((c - 1) &&& 0xFFFFFFFF)) mc.isLt } }
      s2.stepOn e .await 4
    match s.runAcc e .rd d.toNat 16 with
    | .ok ps pt => take (s.rdPieces ps) (s.psnPieces d.toNat ps).isSome (s.touch pt false)
    | .lost _ => take 0 true s
    | x => s.runBad e x
/-- ZSKIP (R493). -/
def runZskip (en : Bool) (e : RunEnv) (s : State) : State := (s.modRun e.k fun r => { r with zs := en }).stepOn e .compute 1
/-- LOOPM (R432). A count of 0 skips the body inside four loops too: no loop is nested, and the outer loops are not examined even where the LOOPM stands at
the end of one (log 76). -/
def runLoopm (src : Bool) (ms : BitVec 3) (cm1 endw : BitVec 12) (e : RunEnv) (s : State) : State :=
  let n := if src then (e.m ms).toNat % 2 ^ 16 else cm1.toNat + 1
  if (!src && decide (ms ≠ 0)) || (src && decide (cm1 ≠ 0)) || decide (endw.toNat ≤ e.r.word)
      || (decide (n ≠ 0) && decide (4 ≤ e.r.loops.length)) then s.stepFault e
  else if n = 0 then s.stepTo e.k .compute 1 e.r.loops (endw.toNat + 1)
  else s.stepTo e.k .compute 1 ((e.r.word + 1, endw.toNat, n) :: e.r.loops) (e.r.word + 1)
/-- Drop the loops that a branch leaves: each whose body does not hold the target (R434). -/
def leaveLoops (t : Nat) (ls : List (Nat × Nat × Nat)) : List (Nat × Nat × Nat) := ls.filter fun (l : Nat × Nat × Nat) => decide (l.1 ≤ t) && decide (t ≤ l.2.1)
/-- MBR (R434). Taken at the last word of a loop, with its target in the body, it uses up no pass (log 76). -/
def runMbr (cond ms : BitVec 3) (tgt : BitVec 12) (e : RunEnv) (s : State) : State :=
  if 4 < cond.toNat ∨ (cond.toNat ≤ 2 ∧ ms ≠ 0) then s.stepFault e
  else
    let c := match cond.toNat with
      | 0 => true
      | 1 => e.r.re
      | 2 => !e.r.re
      | 3 => e.m ms == 0
      | _ => e.m ms != 0
    if c then s.stepTo e.k .compute 1 (leaveLoops tgt.toNat e.r.loops) tgt.toNat else s.stepOn e .compute 1
/-- PADD (R446). -/
def runPadd (md ms : BitVec 3) (src : Bool) (imm : W32) (e : RunEnv) (s : State) : State :=
  if (!src && decide (ms ≠ 0)) || (src && decide (imm ≠ 0)) then s.stepFault e
  else
    let v := e.m md + if src then e.m ms else imm.signExtend 64
    (s.modCore e.k fun x => { x with mq := modifyAt x.mq 0 fun q => { q with m := q.m.set md.toNat v md.isLt } }).stepOn e .compute 1
/-- MEND (R436): the status is the first of POISONED, RAGGED_CLIP and OK that applies, and ADDR is 0 when ERRS is 0 (R230). -/
def runMend (e : RunEnv) (s : State) : State :=
  let r := e.r
  s.endRun e (if r.poisoned then stPOISONED else if r.clipped then stRAGGED else stOK)
    (if r.errs = 0 then 0 else r.addr - 1)

/-- Run one step of the routine of core `eng`; nothing where none runs. -/
def microStep (f : RunEnv → State → State) (s : State) : Host.Outcome State Fault Refusal :=
  match s.routine s.eng with
  | some e => .next (f e s)
  | none => .next s

/-- The step that a decoded word runs; anything else is no step. -/
def runStep (i : Instr) (e : RunEnv) (s : State) : State :=
  match i with
  | .mend => runMend e s
  | .wload f mx ma rw ms => runWload f mx ma rw ms e s
  | .wgen gn t ma => runWgen gn t ma e s
  | .astream f p ma b n rg => runAstream f p ma b n rg e s
  | .agen gn t p ma b n rg => runAgen gn t p ma b n rg e s
  | .asel b => runAsel b e s
  | .aclr b n => runAclr b n e s
  | .adrain f rm sf ma b n c ms => runAdrain f rm sf ma b n c ms e s
  | .ragg ma mc => runRagg ma mc e s
  | .zskip en => runZskip en e s
  | .loopm src ms c w => runLoopm src ms c w e s
  | .mbr c ms t => runMbr c ms t e s
  | .padd md ms src imm => runPadd md ms src imm e s
  | _ => s.stepFault e

/-- The next step of core k's routine (R230): a word out of range, a reserved word and too many steps abort. -/
def State.runNext (s : State) (k : Nat) : State :=
  match s.routine k with
  | none => s
  | some e =>
    if 4095 < e.r.word ∨ 2 ^ 24 ≤ e.r.steps then s.stepFault e
    else match decodeMicro (s.storeWord k e.r.word) with
      | none => s.stepFault e
      | some i => runStep i e { s with eng := k }

/-! ### The meanings -/

def execMcall (o : AB) (bank : BitVec 2) (s : State) : Host.Outcome State Fault Refusal := issue (slotMcall o bank) s
def execMwait (o : A1) (bank : BitVec 2) (s : State) : Host.Outcome State Fault Refusal := issue (slotMwait o bank) s
def execMver (d : BitVec 5) (bank : BitVec 2) (s : State) : Host.Outcome State Fault Refusal := issue (slotMver d bank) s
def execMpwr (o : AB) (s : State) : Host.Outcome State Fault Refusal := issue (slotMpwr o) s
def execMprd (o : R2) (s : State) : Host.Outcome State Fault Refusal := issue (slotMprd o) s
def execMend (s : State) : Host.Outcome State Fault Refusal := microStep runMend s
def execWload (fmt : BitVec 4) (mx : Bool) (ma : BitVec 3) (rw : Bool) (ms : BitVec 3) (s : State) : Host.Outcome State Fault Refusal :=
  microStep (runWload fmt mx ma rw ms) s
def execWgen (gn : BitVec 3) (t : Bool) (ma : BitVec 3) (s : State) : Host.Outcome State Fault Refusal := microStep (runWgen gn t ma) s
def execAstream (fmt : BitVec 4) (pm1 : BitVec 5) (ma : BitVec 3) (brow0 nm1 : BitVec 8) (rg : Bool) (s : State) : Host.Outcome State Fault Refusal :=
  microStep (runAstream fmt pm1 ma brow0 nm1 rg) s
def execAgen (gn : BitVec 3) (t : Bool) (pm1 : BitVec 5) (ma : BitVec 3) (brow0 nm1 : BitVec 8) (rg : Bool) (s : State) : Host.Outcome State Fault Refusal :=
  microStep (runAgen gn t pm1 ma brow0 nm1 rg) s
def execAsel (bank : BitVec 2) (s : State) : Host.Outcome State Fault Refusal := microStep (runAsel bank) s
def execAclr (brow0 nm1 : BitVec 8) (s : State) : Host.Outcome State Fault Refusal := microStep (runAclr brow0 nm1) s
def execAdrain (fmt : BitVec 4) (rm : BitVec 3) (sf : Bool) (ma : BitVec 3) (brow0 nm1 : BitVec 8) (clr : Bool) (ms : BitVec 3) (s : State) :
    Host.Outcome State Fault Refusal := microStep (runAdrain fmt rm sf ma brow0 nm1 clr ms) s
def execRagg (ma mc : BitVec 3) (s : State) : Host.Outcome State Fault Refusal := microStep (runRagg ma mc) s
def execZskip (en : Bool) (s : State) : Host.Outcome State Fault Refusal := microStep (runZskip en) s
def execLoopm (src : Bool) (ms : BitVec 3) (cm1 endw : BitVec 12) (s : State) : Host.Outcome State Fault Refusal :=
  microStep (runLoopm src ms cm1 endw) s
def execMbr (cond ms : BitVec 3) (tgt : BitVec 12) (s : State) : Host.Outcome State Fault Refusal := microStep (runMbr cond ms tgt) s
def execPadd (md ms : BitVec 3) (src : Bool) (imm : W32) (s : State) : Host.Outcome State Fault Refusal := microStep (runPadd md ms src imm) s

end Sys2Proof.Machine
end

