-- ==== Sys2Proof/Machine/Engines.lean ====
section
/-! DEFINITION. The engine steps: ENGINE_START, ENGINE_ACCESS, ENGINE_COMPLETE and RETRY_AFTER_EXPIRY for the four engines of a core
(R161, R175, R188, R189, R221, R229, R232, R406). A step whose condition does not hold changes nothing. -/

namespace Sys2Proof.Machine

/-- Start the head MCALL of core k once its LSQ mark has performed (R188, R232): an invalid table entry starts and aborts. -/
def State.matrixStart (s : State) (k : Nat) : State :=
  match (s.core k).mq, (s.core k).mrun with
  | c :: _, none =>
    if (s.ctx c.ctx).lsqDone < c.mark then s
    else
      let s0 := s.settleStore k
      let w := s0.storeWord k c.routine
      let entry := w.toNat % 4096
      let r : MatRun := ⟨entry, c.bank, 1#4 <<< c.bank, false, 0, 0, 0, false, false, 0, [], 0, 0, 0, 0, 0, false, false, 0, 0, none, 0, s.now, 0, 0, 0, 0⟩
      let s1 := s0.modCore k fun x => { x with mrun := some r }
      if !w.getLsbD 63 || decide (w.toNat / 2 ^ 12 % 2 ^ 51 ≠ 0) || decide (entry < 64)
      then (s1.modRun k fun r => { r with errs := 1 }).abortRun ⟨k, c, { r with errs := 1 }⟩ stFAULT c.routine
      else s1
  | _, _ => s

/-- Complete the head MCALL, after the cycle of its last step (R238): its record enters the event queue (R229); until it can, its cycles are
DRAIN_BLOCKED (R237). -/
def State.matrixComplete (s : State) (k : Nat) : State :=
  match (s.core k).mq, (s.core k).mrun with
  | c :: _, some r =>
    (match r.ended with
     | none => s
     | some (st, addr) =>
       if !s.evRoom (clusterOf k) || decide (s.now < r.cost) then s
       else
         let s2 := s.postRec (clusterOf k) (s.mkRec st 1 c.ctx r.done r.errs addr c.tag.toNat c.vf)
         (s2.modCore k fun x => { x with mq := x.mq.drop 1, mrun := none }).endDrain k)
  | _, _ => s

/-- Refusals of the present request of an engine, and the tick from which it may be sent again; none where nothing runs. -/
def State.pendingTry (s : State) (k : Nat) (e : Engine) : Option (Nat × Nat) :=
  let x := s.core k
  match e with
  | .copy => x.crun.map fun r => (r.tries, r.wait)
  | .gather => x.grun.map fun r => (r.tries, r.wait)
  | .matrix => x.mrun.map fun r => (r.tries, r.wait)
  | .coll => x.krun.map fun r => (r.tries, r.wait)

/-- The next access of the command that an engine runs. A matrix access is a step of the routine, which runs whole (log 8). -/
def State.engineStep (s : State) (k : Nat) (e : Engine) : State :=
  match e with
  | .copy => s.copyNext k false
  | .gather => s.copyNext k true
  | .matrix => (match (s.core k).mrun with
    | some r => if r.cost ≤ s.now then s.runNext k else s
    | none => s)
  | .coll => s.collEntry k (fun _ => true) [] []

/-- ENGINE_START (R188). -/
def execEngineStart (k : Nat) (e : Engine) (s : State) : Host.Outcome State Fault Refusal :=
  .next (match e with
    | .copy => s.copyStart k false
    | .gather => s.copyStart k true
    | .matrix => s.matrixStart k
    | .coll => s.collStart k)
/-- ENGINE_ACCESS (R188): a request that was refused is not sent again by this step. -/
def execEngineAccess (k : Nat) (e : Engine) (s : State) : Host.Outcome State Fault Refusal :=
  .next (match s.pendingTry k e with
    | some (0, _) => s.engineStep k e
    | _ => s)
/-- ENGINE_COMPLETE (R189). -/
def execEngineComplete (k : Nat) (e : Engine) (s : State) : Host.Outcome State Fault Refusal :=
  .next (match e with
    | .copy => s.copyComplete k false
    | .gather => s.copyComplete k true
    | .matrix => s.matrixComplete k
    | .coll => s.collComplete k)
/-- RETRY_AFTER_EXPIRY (R175): a refused request is sent again, no earlier than its hint says. -/
def execRetryAfterExpiry (k : Nat) (e : Engine) (s : State) : Host.Outcome State Fault Refusal :=
  .next (match s.pendingTry k e with
    | some (_ + 1, w) => if w ≤ s.ftb then s.engineStep k e else s
    | _ => s)

end Sys2Proof.Machine
end

