-- ==== Sys2Proof/Machine/Kmac.lean ====
section
/-! DEFINITION. KMAC256, the authentication of queue notifies (R346): NIST SP 800-185 on the permutation Keccak-f[1600] of FIPS 202, which the spec
names and does not repeat (log 83). -/

namespace Sys2Proof.Machine

/-- Round constants of Keccak-f[1600]. -/
def keccakRc : List W64 :=
  [0x0000000000000001, 0x0000000000008082, 0x800000000000808A, 0x8000000080008000, 0x000000000000808B, 0x0000000080000001,
   0x8000000080008081, 0x8000000000008009, 0x000000000000008A, 0x0000000000000088, 0x0000000080008009, 0x000000008000000A] ++
  [0x000000008000808B, 0x800000000000008B, 0x8000000000008089, 0x8000000000008003, 0x8000000000008002, 0x8000000000000080,
   0x000000000000800A, 0x800000008000000A, 0x8000000080008081, 0x8000000000008080, 0x0000000080000001, 0x8000000080008008]

/-- Rotation of lane x + 5y. -/
def keccakRho : List Nat :=
  [0, 1, 62, 28, 27, 36, 44, 6, 55, 20, 3, 10, 43, 25, 39, 41, 45, 15, 21, 8, 18, 2, 61, 56, 14]

/-- One round on the 25 lanes: theta, rho and pi, chi, iota. -/
def keccakRound (a : List W64) (rc : W64) : List W64 :=
  let g (i : Nat) : W64 := a.getD i 0
  let c := (List.range 5).map fun x => g x ^^^ g (x + 5) ^^^ g (x + 10) ^^^ g (x + 15) ^^^ g (x + 20)
  let d := (List.range 5).map fun x => c.getD ((x + 4) % 5) 0 ^^^ (c.getD ((x + 1) % 5) 0).rotateLeft 1
  let b := (List.range 25).map fun j =>
    let i := (j % 5 + 3 * (j / 5)) % 5 + 5 * (j % 5)
    (g i ^^^ d.getD (i % 5) 0).rotateLeft (keccakRho.getD i 0)
  (List.range 25).map fun j =>
    let y := j / 5 * 5
    let v := b.getD j 0 ^^^ (~~~(b.getD (y + (j + 1) % 5) 0) &&& b.getD (y + (j + 2) % 5) 0)
    if j = 0 then v ^^^ rc else v

/-- Keccak-f[1600]. -/
def keccakF (a : List W64) : List W64 := keccakRc.foldl keccakRound a

/-- Bytes of one block as lanes, little-endian. -/
def lanesOf (bs : List Byte) : List W64 :=
  (List.range 17).map fun i => BitVec.ofNat 64 ((((bs.drop (8 * i)).take 8).map BitVec.toNat).foldr (fun x acc => x + 256 * acc) 0)

/-- Absorb `n` blocks of 136 bytes. -/
def absorb : Nat → List Byte → List W64 → List W64
  | 0, _, a => a
  | n + 1, bs, a =>
    let m := lanesOf bs
    absorb n (bs.drop 136) (keccakF (a.mapIdx fun i x => x ^^^ m.getD i 0))

/-- A number in bytes, most significant first, at least one. -/
def bigBytes (n : Nat) : List Byte :=
  let k := if n < 256 then 1 else if n < 65536 then 2 else 4
  (List.range k).map fun i => BitVec.ofNat 8 (n / 256 ^ (k - 1 - i))
/-- left_encode of SP 800-185. -/
def leftEncode (n : Nat) : List Byte := BitVec.ofNat 8 (bigBytes n).length :: bigBytes n
/-- right_encode of SP 800-185. -/
def rightEncode (n : Nat) : List Byte := bigBytes n ++ [BitVec.ofNat 8 (bigBytes n).length]
/-- encode_string of SP 800-185. -/
def encodeString (bs : List Byte) : List Byte := leftEncode (8 * bs.length) ++ bs
/-- Zeros up to a multiple of the rate, 136 bytes. -/
def padRate (bs : List Byte) : List Byte := bs ++ List.replicate ((136 - bs.length % 136) % 136) 0
/-- bytepad of SP 800-185 with the rate of cSHAKE256. -/
def bytepad (bs : List Byte) : List Byte := padRate (leftEncode 136 ++ bs)

/-- The padding of cSHAKE: 0x04, zeros, and the top bit of the last byte of the block. -/
def cshakePad (bs : List Byte) : List Byte :=
  let p := padRate (bs ++ [0x04])
  p.mapIdx fun i x => if i + 1 = p.length then x ||| 0x80 else x

/-- KMAC256 with an output of n bytes, at most one block. -/
def kmac256 (key input : List Byte) (n : Nat) (custom : List Byte) : List Byte :=
  let kmac : List Byte := [0x4B, 0x4D, 0x41, 0x43]
  let msg := bytepad (encodeString kmac ++ encodeString custom) ++ cshakePad (bytepad (encodeString key) ++ input ++ rightEncode (8 * n))
  let out := absorb (msg.length / 136) msg (List.replicate 25 0)
  (List.range n).map fun i => (out.getD (i / 8) 0).extractLsb' (8 * (i % 8)) 8

/-- The tag of a notify (R346): key of 32 bytes, bytes 0 to 15 of the notify, 64 bits, customisation "QNOTIFY", all little-endian. -/
def notifyTag (key : BitVec 256) (n : BitVec 128) : W64 :=
  let bytes := kmac256 ((List.range 32).map fun i => key.extractLsb' (8 * i) 8) ((List.range 16).map fun i => n.extractLsb' (8 * i) 8) 8
    [0x51, 0x4E, 0x4F, 0x54, 0x49, 0x46, 0x59]
  BitVec.ofNat 64 ((bytes.map BitVec.toNat).foldr (fun x acc => x + 256 * acc) 0)

end Sys2Proof.Machine
end

