-- ==== Sys2Proof/Machine/Signature.lean ====
section
/-! DEFINITION. The signatures of firmware and of migration images (R7, R339, R358): verification by ML-DSA-87 as FIPS 204 defines it, with the
hash functions SHA3-512, SHAKE128 and SHAKE256 of FIPS 202, which the spec names and does not repeat (log 83). -/

namespace Sys2Proof.Machine

/-! ### SHA-3 and SHAKE -/

/-- A message with the suffix of a function, zeros, and the top bit of the last byte, in blocks of `rate` bytes. -/
def spongePad (rate : Nat) (suffix : Byte) (bs : List Byte) : List Byte :=
  let p := bs ++ [suffix] ++ List.replicate ((rate - (bs.length + 1) % rate) % rate) 0
  p.mapIdx fun i x => if i + 1 = p.length then x ||| 0x80 else x

/-- The bytes of a list from the i-th on, eight as a lane. -/
def laneAt (bs : List Byte) (i : Nat) : W64 :=
  BitVec.ofNat 64 ((((bs.drop (8 * i)).take 8).map BitVec.toNat).foldr (fun x acc => x + 256 * acc) 0)

/-- Absorb `n` blocks of `rate` bytes. -/
def absorbAt (rate : Nat) : Nat → List Byte → List W64 → List W64
  | 0, _, a => a
  | n + 1, bs, a => absorbAt rate n (bs.drop rate) (keccakF (a.mapIdx fun i x => if i < rate / 8 then x ^^^ laneAt bs i else x))

/-- The bytes of the first `rate` bytes of a state. -/
def blockBytes (rate : Nat) (a : List W64) : List Byte := (List.range rate).map fun i => (a.getD (i / 8) 0).extractLsb' (8 * (i % 8)) 8

/-- Squeeze `n` blocks of `rate` bytes. -/
def squeezeAt (rate : Nat) : Nat → List W64 → List Byte
  | 0, _ => []
  | n + 1, a => blockBytes rate a ++ squeezeAt rate n (keccakF a)

/-- A sponge on Keccak-f[1600] with n bytes of output. -/
def sponge (rate : Nat) (suffix : Byte) (bs : List Byte) (n : Nat) : List Byte :=
  let p := spongePad rate suffix bs
  let out := squeezeAt rate ((n + rate - 1) / rate) (absorbAt rate (p.length / rate) p (List.replicate 25 0))
  (List.range n).map fun i => out.getD i 0

/-- SHA3-512. -/
def sha3_512 (bs : List Byte) : List Byte := sponge 72 0x06 bs 64
/-- SHAKE128 with n bytes of output. -/
def shake128 (bs : List Byte) (n : Nat) : List Byte := sponge 168 0x1F bs n
/-- SHAKE256 with n bytes of output. -/
def shake256 (bs : List Byte) (n : Nat) : List Byte := sponge 136 0x1F bs n

/-! ### Polynomials of ML-DSA -/

/-- The modulus q. -/
def mlQ : Nat := 8380417
/-- The bound γ1 of a response. -/
def mlGamma1 : Nat := 2 ^ 19
/-- γ2 = (q - 1) / 32. -/
def mlGamma2 : Nat := 261888

/-- A polynomial: 256 coefficients below q. -/
abbrev Poly := List Nat
/-- The polynomial whose coefficients a function gives. -/
def polyOf (f : Nat → Nat) : Poly := (List.range 256).map f
/-- The zero polynomial. -/
def polyZero : Poly := List.replicate 256 0
/-- Sum of two polynomials. -/
def polyAdd (a b : Poly) : Poly := polyOf fun i => (a.getD i 0 + b.getD i 0) % mlQ
/-- Difference of two polynomials. -/
def polySub (a b : Poly) : Poly := polyOf fun i => (a.getD i 0 + mlQ - b.getD i 0 % mlQ) % mlQ
/-- Product of two polynomials under the transform. -/
def polyMul (a b : Poly) : Poly := polyOf fun i => a.getD i 0 * b.getD i 0 % mlQ

/-- The eight bits of a number in reverse. -/
def bitRev8 (n : Nat) : Nat := (List.range 8).foldl (fun (r : Nat) i => r + n / 2 ^ i % 2 * 2 ^ (7 - i)) 0
/-- The m-th root of unity of the transform, and its inverse: 1753 has order 512. -/
def zeta (m : Nat) : Nat := 1753 ^ bitRev8 m % mlQ
/-- The inverse of the m-th root. -/
def zetaInv (m : Nat) : Nat := (mlQ - 1753 ^ (256 - bitRev8 m) % mlQ) % mlQ

/-- The transform of 2^d coefficients under node m of its tree. -/
def nttAt : Nat → Nat → Poly → Poly
  | 0, _, l => l
  | d + 1, m, l =>
    let lo := l.take (2 ^ d)
    let hi := (l.drop (2 ^ d)).map fun x => zeta m * x % mlQ
    nttAt d (2 * m) (List.zipWith (fun a t => (a + t) % mlQ) lo hi) ++ nttAt d (2 * m + 1) (List.zipWith (fun a t => (a + mlQ - t) % mlQ) lo hi)
/-- The transform of a polynomial. -/
def ntt (l : Poly) : Poly := nttAt 8 1 l

/-- The inverse transform, scaled by 2^d. -/
def inttAt : Nat → Nat → Poly → Poly
  | 0, _, l => l
  | d + 1, m, l =>
    let lo := inttAt d (2 * m) (l.take (2 ^ d))
    let hi := inttAt d (2 * m + 1) (l.drop (2 ^ d))
    List.zipWith (fun a b => (a + b) % mlQ) lo hi ++ List.zipWith (fun a b => zetaInv m * (a + mlQ - b) % mlQ) lo hi
/-- The inverse transform of a polynomial: 8347681 is the inverse of 256. -/
def intt (l : Poly) : Poly := (inttAt 8 1 l).map fun x => 8347681 * x % mlQ

/-! ### Sampling -/

/-- Numbers of three bytes with the top bit dropped that are below q. -/
def rejectNtt : List Byte → List Nat
  | a :: b :: c :: r =>
    let n := a.toNat + 256 * b.toNat + 65536 * (c.toNat % 128)
    if n < mlQ then n :: rejectNtt r else rejectNtt r
  | _ => []
/-- Entry (row, col) of the matrix A, under the transform. -/
def expandA (rho : List Byte) (row col : Nat) : Poly :=
  let l := rejectNtt (shake128 (rho ++ [BitVec.ofNat 8 col, BitVec.ofNat 8 row]) 894)
  polyOf fun i => l.getD i 0

/-- The steps of SampleInBall from coefficient i on: signs are the bits of `h`. -/
def ballFrom (h : Nat) : List Byte → Nat → Poly → Poly
  | [], _, c => c
  | j :: r, i, c =>
    if 256 ≤ i then c
    else if i < j.toNat then ballFrom h r i c
    else
      let c1 := c.set i (c.getD j.toNat 0)
      ballFrom h r (i + 1) (c1.set j.toNat (if h / 2 ^ (i - 196) % 2 = 1 then mlQ - 1 else 1))
/-- The challenge polynomial of a commitment hash: 60 coefficients are 1 or -1. -/
def sampleInBall (ct : List Byte) : Poly :=
  let s := shake256 ct 272
  ballFrom (((s.take 8).map BitVec.toNat).foldr (fun x acc => x + 256 * acc) 0) (s.drop 8) 196 polyZero

/-! ### Encodings -/

/-- n-bit number i of a list of bytes, little-endian. -/
def bitsAt (bs : List Byte) (n i : Nat) : Nat :=
  let v := (((bs.drop (n * i / 8)).take 4).map BitVec.toNat).foldr (fun x acc => x + 256 * acc) 0
  v / 2 ^ (n * i % 8) % 2 ^ n
/-- Does byte list y, of ω bytes and eight counts, encode hints: each count at least the one before and at most ω, positions rising within a
polynomial, and zeros after the last? -/
def hintOk (y : List Byte) : Bool :=
  let n (i : Nat) : Nat := if i = 0 then 0 else (y.getD (74 + i) 0).toNat
  ((List.range 8).all fun i => decide (n i ≤ n (i + 1)) && decide (n (i + 1) ≤ 75) &&
    (List.range (n (i + 1) - n i)).all fun j => decide (j = 0) || decide ((y.getD (n i + j - 1) 0).toNat < (y.getD (n i + j) 0).toNat)) &&
  (List.range (75 - n 8)).all fun j => decide (y.getD (n 8 + j) 0 = 0)
/-- Is coefficient j of polynomial i hinted? -/
def hintAt (y : List Byte) (i j : Nat) : Bool :=
  let n (i : Nat) : Nat := if i = 0 then 0 else (y.getD (74 + i) 0).toNat
  (List.range (n (i + 1) - n i)).any fun t => decide ((y.getD (n i + t) 0).toNat = j)

/-- UseHint: the high part of a coefficient, corrected by its hint. -/
def useHint (h : Bool) (r : Nat) : Nat :=
  let al := 2 * mlGamma2
  let r0 : Int := if r % al ≤ mlGamma2 then (r % al : Int) else (r % al : Int) - al
  let top := decide ((r : Int) - r0 = (mlQ - 1 : Nat))
  let r1 : Nat := if top then 0 else (((r : Int) - r0) / al).toNat
  let low : Int := if top then r0 - 1 else r0
  if !h then r1 else if 0 < low then (r1 + 1) % 16 else (r1 + 15) % 16

/-- w1Encode: two coefficients a byte. -/
def encodeW1 (ws : List Poly) : List Byte :=
  ws.flatMap fun w => (List.range 128).map fun i => BitVec.ofNat 8 (w.getD (2 * i) 0 + 16 * w.getD (2 * i + 1) 0)

/-! ### Verification (FIPS 204, ML-DSA-87) -/

/-- Bytes of a public key, of a signature. -/
def mlPkLen : Nat := 2592
/-- Bytes of a signature. -/
def mlSigLen : Nat := 4627

/-- Polynomial i of t1 in a public key. -/
def pkT1 (pk : List Byte) (i : Nat) : Poly := polyOf fun j => bitsAt ((pk.drop (32 + 320 * i)).take 320) 10 j
/-- Coefficient j of response i of a signature, as an integer. -/
def sigZ (sig : List Byte) (i j : Nat) : Int := (mlGamma1 : Int) - bitsAt ((sig.drop (64 + 640 * i)).take 640) 20 j
/-- Response i of a signature, modulo q. -/
def sigPoly (sig : List Byte) (i : Nat) : Poly := polyOf fun j => (sigZ sig i j % mlQ).toNat
/-- The hint bytes of a signature. -/
def sigHint (sig : List Byte) : List Byte := (sig.drop 4544).take 83

/-- Row i of A z - c t1 2^13. -/
def approxW (rho : List Byte) (zs : List Poly) (c : Poly) (t1 : Poly) (i : Nat) : Poly :=
  let az := (List.range 7).foldl (fun (s : Poly) j => polyAdd s (polyMul (expandA rho i j) (zs.getD j polyZero))) polyZero
  intt (polySub az (polyMul c (ntt (polyOf fun n => t1.getD n 0 * 2 ^ 13 % mlQ))))

/-- The representative μ of a message under a public key, with the empty context. -/
def mlMu (pk msg : List Byte) : List Byte := shake256 (shake256 pk 64 ++ [0, 0] ++ msg) 64

/-- Does a signature of a message verify under a public key? -/
def mldsaVerify (pk msg sig : List Byte) : Bool :=
  let y := sigHint sig
  let zs := (List.range 7).map fun i => ntt (sigPoly sig i)
  let c := ntt (sampleInBall (sig.take 64))
  let w1 := (List.range 8).map fun i =>
    let w := approxW (pk.take 32) zs c (pkT1 pk i) i
    polyOf fun j => useHint (hintAt y i j) (w.getD j 0)
  decide (pk.length = mlPkLen) && decide (sig.length = mlSigLen) && hintOk y &&
    ((List.range 7).all fun i => (List.range 256).all fun j => decide ((sigZ sig i j).natAbs < mlGamma1 - 120)) &&
    decide (sig.take 64 = shake256 (mlMu pk msg ++ encodeW1 w1) 64)

end Sys2Proof.Machine
end

