-- ==== Sys2Proof/Machine/Agree.lean ====
section
/-! DEFINITION. The agreement instructions: AGREE, ABR, ABRP and ARES (R286 to R293, R379, R380, R387, R389). -/

namespace Sys2Proof.Machine

/-- The result slot of a ticket: the newest one that holds it (R290). Slots stand newest first. -/
def Ctx.agrSlot (x : Ctx) (ticket : W64) : Option AgrSlot := x.r.slots.find? fun (t : AgrSlot) => decide (t.ticket = ticket)
/-- STATUS of a result word (R289). -/
def AgrRes.status (r : AgrRes) : Nat := r.word.toNat / 2 ^ 28 % 16
/-- DEC of a result word. -/
def AgrRes.dec (r : AgrRes) : Bool := r.word.getLsbD 27

/-- How a resolved result decides (R291). -/
inductive Decision where
  | branch (t : Option Nat)
  | trap (cause : Nat)
deriving DecidableEq, Repr, Inhabited

/-- The decision of ABR for a result, a taken target and a mismatch target (R291). -/
def AgrRes.decide (r : AgrRes) (target : Nat) (xm : Option Nat) : Decision :=
  if r.status = 0 ∨ r.status = 3 then .branch (if r.dec then some target else none)
  else if r.status = 1 then
    (match r.mm, xm with
     | true, some t => .branch (some t)
     | _, _ => .trap cMISMATCH)
  else .trap cABSENT

/-- AGREE (R288, R387). -/
def slotAgree (d : BitVec 5) (tag : BitVec 16) (s : State) : Slot :=
  let e := s.env
  let a := e.reg .x d
  let gid := e.x.r.agrGroup
  let key := groupKey e.x.vf gid.toNat
  let who : Option (Group × Nat) := (e.s.hub.groups.find key).bind fun g => (e.s.memberOf g e.k).map fun m => (g, m)
  Slot.finish
    { cls := .ctl, legal := e.zeroPfxi, okI := true, nres := 1, hold := if e.x.preds.isEmpty then .none else .abr,
      traps := if who.isSome then [] else [(cABSENT, BitVec.ofNat 64 (tag.toNat * 2 ^ 16 + gid.toNat))],
      eff := fun s => match who with
        | none => s
        | some (_, m) =>
          let seq := s.nextSeqOf e.x.vf gid.toNat e.k
          let ticket : W64 := ((BitVec.ofNat 32 seq ++ tag : BitVec 48) ++ gid : BitVec 64)
          let s1 := { s with contribs := s.contribs ++ [(⟨e.x.vf, gid.toNat, seq, m, tag, a.d.setWidth 32, e.s.ftb, some e.c⟩ : Contribution)] }
          let s2 := s1.modHub fun h => { h with groups := match h.groups.find key with
            | some g => h.groups.set key { g with members := modifyAt g.members m fun (q : Member) => { q with next := (q.next + 1) % 2 ^ 64 } }
            | none => h.groups }
          e.fixed .x d (wide64 ticket) 2 (s2.modCtx e.c fun x =>
            { x with ltag := tag, r := { x.r with slots := ((⟨ticket, seq, none⟩ : AgrSlot) :: x.r.slots).take 4 } }) }
    e [a] [a.sc]

/-- The slot of an agreed branch on a ticket, which traps ILLEGAL_INSTR with the ticket as TRAP_ADDR where no slot holds it (R291, log 87); `predict` says what an ABRP does while its ticket is unresolved. -/
def agreedSlot (e : Env) (rm ra : BitVec 5) (ofs : BitVec 11) (predict : Option Bool) : Slot :=
  let a := e.opnd .x ra false 14
  let m := if rm = 0 then Opnd.none else e.reg .x rm
  let target := e.target11 ofs
  let xm : Option Nat := if rm = 0 then none else some (m.d.toNat % 2 ^ 54 / 4 * 4)
  let fin (sl : Slot) : Slot := Slot.finish { sl with cls := .ctl, okI := true } e [a, m] [a.sc, m.sc]
  match e.x.agrSlot a.d with
  | none => fin { illVal := some a.d }
  | some t =>
    match t.res with
    | some r =>
      (match r.decide target xm with
       | .branch b => fin { takenK := b, eff := e.takeK b }
       | .trap c => fin { traps := [(c, a.d)] })
    | none =>
      match predict with
      | none => fin { hold := .abr }
      | some p =>
        if 2 ≤ e.x.preds.length then fin { hold := .abr }
        else
          let b : Option Nat := if p then some target else none
          let pr : Pred := ⟨e.x.r, 0, p, a.d, target, xm, 0, 0, none, none⟩
          fin { takenK := b, eff := fun s => e.takeK b { s with iss := { s.iss with pred := some pr } } }

/-- ABR (R291, R379). -/
def slotAbr (m a : BitVec 5) (ofs : BitVec 11) (s : State) : Slot := agreedSlot s.env m a ofs none
/-- ABRP (R292, R380): the checkpoint is completed at the end of its bundle. -/
def slotAbrp (p : Bool) (m : BitVec 4) (a : BitVec 5) (ofs : BitVec 11) (s : State) : Slot :=
  agreedSlot s.env (m.setWidth 5) a ofs (some p)

/-- 64 bits of a member mask (R289). -/
def maskWindow (m : BitVec 1024) (w : Nat) : W64 := m.extractLsb' (64 * (w % 16)) 64

/-- ARES (R290, R389): an unknown ticket gives STATUS UNKNOWN and zero masks. -/
def slotAres (o : R3) (v : BitVec 4) (s : State) : Slot :=
  let e := s.env
  let a := e.opnd .x o.a o.ha 14
  let b := if v = 0 then Opnd.none else e.opnd .x o.b o.hb 15
  let w := b.d.toNat % 16
  let t := e.x.agrSlot a.d
  let val : W64 := match t with
    | none => if v = 0 then 0xF0000000 else 0
    | some q =>
      match q.res with
      | none => 0
      | some r => match v.toNat with
        | 0 => r.word
        | 1 => maskWindow r.pres w
        | _ => maskWindow r.mism w
  let open? := match t with
    | some q => q.res.isNone
    | none => false
  Slot.finish { cls := .ctl, legal := wellFormed (.ares o v), nres := 1, hold := if open? then .abr else .none,
                eff := e.fixed .x o.d (wide64 val) 2 } e [a, b] [a.sc, b.sc]

/-! ### The meanings -/

def execAgree (d : BitVec 5) (tag : BitVec 16) (s : State) : Host.Outcome State Fault Refusal := issue (slotAgree d tag) s
def execAbr (m a : BitVec 5) (ofs : BitVec 11) (s : State) : Host.Outcome State Fault Refusal := issue (slotAbr m a ofs) s
def execAbrp (p : Bool) (m : BitVec 4) (a : BitVec 5) (ofs : BitVec 11) (s : State) : Host.Outcome State Fault Refusal :=
  issue (slotAbrp p m a ofs) s
def execAres (o : R3) (v : BitVec 4) (s : State) : Host.Outcome State Fault Refusal := issue (slotAres o v) s

end Sys2Proof.Machine
end

