-- ==== Sys2Proof/Machine/ScalarX.lean ====
section
/-! DEFINITION. NOP, the prefixes and the scalar X class: integer arithmetic, shifts, compares and moves (R93, R382 to R493). -/

namespace Sys2Proof.Machine

/-! ### Forms of the class -/

/-- Three registers: D takes f of A and B after `lat` cycles (R57, R69, R71). -/
def xRRR (e : Env) (legal : Bool) (o : R3) (lat : Nat) (f : W64 → W64 → W64) : Slot :=
  let a := e.opnd .x o.a o.ha 0
  let b := e.opnd .x o.b o.hb 1
  Slot.finish { cls := .x, legal := legal, okP := true, nres := 1, eff := e.fixed .x o.d (wide64 (f a.d b.d)) lat }
    e [a, b] [a.sc, b.sc]

/-- Two registers: D takes f of A. -/
def xRR (e : Env) (legal : Bool) (o : R2) (lat : Nat) (f : W64 → W64) : Slot :=
  let a := e.opnd .x o.a o.ha 0
  Slot.finish { cls := .x, legal := legal, okP := true, nres := 1, eff := e.fixed .x o.d (wide64 (f a.d)) lat } e [a] [a.sc]

/-- I form: D takes f of A and the immediate (R58, R64, R383). -/
def xRI (e : Env) (o : RI) (f : W64 → W64 → W64) : Slot :=
  let a := e.opnd .x o.a false 0
  Slot.finish { cls := .x, okI := true, okP := true, nres := 1, eff := e.fixed .x o.d (wide64 (f a.d (e.imm11 o.imm))) 1 }
    e [a] [a.sc]

/-- A shift by an immediate; a PFXI carries payload 0 (R463). -/
def xShift (e : Env) (d a : BitVec 5) (f : W64 → W64) : Slot :=
  let a := e.opnd .x a false 0
  Slot.finish { cls := .x, legal := e.zeroPfxi, okI := true, okP := true, nres := 1, eff := e.fixed .x d (wide64 (f a.d)) 1 }
    e [a] [a.sc]

/-! ### Arithmetic of the class -/

/-- ADDR: the sum stays within the owner die (R384). -/
def addrSum (n : Nat) (a b : W64) : W64 :=
  (a &&& 0xFFFFFC0000000000) ||| ((a + b * BitVec.ofNat 64 (2 ^ n)) &&& 0x3FFFFFFFFFF)
/-- MULH (R439). -/
def mulHigh (v : Nat) (a b : W64) : W64 :=
  let sa : Int := if v = 1 then (a.toNat : Int) else a.toInt
  let sb : Int := if v = 0 then b.toInt else (b.toNat : Int)
  BitVec.ofInt 64 ((sa * sb).fdiv (2 ^ 64))
/-- The six conditions of CMP (R401). -/
def cmpX (v : Nat) (a b : W64) : Bool :=
  match v with
  | 0 => a == b
  | 1 => a != b
  | 2 => BitVec.slt a b
  | 3 => !BitVec.slt a b
  | 4 => BitVec.ult a b
  | _ => !BitVec.ult a b
/-- A truth value as a dword. -/
def bit64 (b : Bool) : W64 := if b then 1 else 0
/-- Number of zero bits above the highest 1 bit among w bits (R400). -/
def clzN (w : Nat) (a : Nat) : Nat := if a = 0 then w else w - 1 - log2 a
/-- Number of 1 bits (R448). -/
def popc64 (a : W64) : Nat := ((List.range 64).filter fun i => a.getLsbD i).length
/-- SHL (R462). -/
def shlX (w : Bool) (a b : W64) : W64 :=
  if w then ((a.setWidth 32 : W32) <<< (b.toNat % 32)).signExtend 64 else a <<< (b.toNat % 64)
/-- SHR (R462). -/
def shrX (w : Bool) (a b : W64) : W64 :=
  if w then ((a.setWidth 32 : W32) >>> (b.toNat % 32)).signExtend 64 else a >>> (b.toNat % 64)
/-- SRA (R462). -/
def sraX (w : Bool) (a b : W64) : W64 :=
  if w then ((a.setWidth 32 : W32).sshiftRight (b.toNat % 32)).signExtend 64 else a.sshiftRight (b.toNat % 64)

/-! ### No class -/

/-- NOP does nothing (R93, R443). -/
def slotNop (_ : State) : Slot := {}
/-- PFXI: its payload joins the next slot's immediate (R64). It is no effect of its own. -/
def execPfxi (p : BitVec 21) (s : State) : Host.Outcome State Fault Refusal :=
  .next { s with iss := { s.iss with pfxi := some p, pfxiBad := s.iss.pfxiBad || s.iss.pfxi.isSome } }
/-- PFXP: it conditions the next slot (R65); a reserved mode or register is an ILLEGAL_INSTR of the bundle. -/
def execPfxp (m : BitVec 3) (r : BitVec 5) (s : State) : Host.Outcome State Fault Refusal :=
  if wellFormed (.pfxp m r) then
    .next { s with iss := { s.iss with pfxp := some (m, r), pfxiBad := s.iss.pfxiBad || s.iss.pfxp.isSome } }
  else .next (s.stopFor s.cur (.trap cILLEGAL 0) [])

/-! ### The slots -/

/-- ADD (R382). -/
def slotAdd (o : R3) (s : State) : Slot := xRRR s.env true o 1 (· + ·)
/-- SUB (R468). -/
def slotSub (o : R3) (s : State) : Slot := xRRR s.env true o 1 (· - ·)
/-- ADDR (R384). -/
def slotAddr (o : R3) (v : BitVec 4) (s : State) : Slot := xRRR s.env (wellFormed (.addr o v)) o 1 (addrSum v.toNat)
/-- AND (R388). -/
def slotAnd (o : R3) (s : State) : Slot := xRRR s.env true o 1 (· &&& ·)
/-- OR (R444). -/
def slotOr (o : R3) (s : State) : Slot := xRRR s.env true o 1 (· ||| ·)
/-- XOR (R492). -/
def slotXor (o : R3) (s : State) : Slot := xRRR s.env true o 1 (· ^^^ ·)
/-- SHL (R462). -/
def slotShl (o : R3) (w : Bool) (s : State) : Slot := xRRR s.env true o 1 (shlX w)
/-- SHR (R462). -/
def slotShr (o : R3) (w : Bool) (s : State) : Slot := xRRR s.env true o 1 (shrX w)
/-- SRA (R462). -/
def slotSra (o : R3) (w : Bool) (s : State) : Slot := xRRR s.env true o 1 (sraX w)
/-- MUL (R439). -/
def slotMul (o : R3) (s : State) : Slot := xRRR s.env true o 3 (· * ·)
/-- MULH (R439). -/
def slotMulh (o : R3) (v : BitVec 4) (s : State) : Slot := xRRR s.env (wellFormed (.mulh o v)) o 3 (mulHigh v.toNat)
/-- MIN (R433). -/
def slotMin (o : R3) (u : Bool) (s : State) : Slot :=
  xRRR s.env true o 1 fun a b => if (if u then BitVec.ult b a else BitVec.slt b a) then b else a
/-- MAX (R433). -/
def slotMax (o : R3) (u : Bool) (s : State) : Slot :=
  xRRR s.env true o 1 fun a b => if (if u then BitVec.ult a b else BitVec.slt a b) then b else a
/-- CMP (R401). -/
def slotCmp (o : R3) (v : BitVec 4) (s : State) : Slot :=
  xRRR s.env (wellFormed (.cmp o v)) o 1 fun a b => bit64 (cmpX v.toNat a b)
/-- SEL reads D as its condition (R461). -/
def slotSel (o : R3) (z : Bool) (s : State) : Slot :=
  let e := s.env
  let a := e.opnd .x o.a o.ha 0
  let b := e.opnd .x o.b o.hb 1
  let d := e.reg .x o.d
  Slot.finish { cls := .x, okP := true, nres := 1,
                eff := e.fixed .x o.d (wide64 (if (d.d == 0) == z then a.d else b.d)) 1 }
    e [a, b, d] [a.sc, b.sc, d.sc]
/-- CLZ (R400). -/
def slotClz (o : R2) (w : Bool) (s : State) : Slot :=
  xRR s.env true o 1 fun a => BitVec.ofNat 64 (if w then clzN 32 (a.toNat % 2 ^ 32) else clzN 64 a.toNat)
/-- POPC (R448). -/
def slotPopc (o : R2) (w : Bool) (s : State) : Slot :=
  xRR s.env true o 1 fun a => BitVec.ofNat 64 (popc64 (if w then a &&& 0xFFFFFFFF else a))
/-- ADDI (R383). -/
def slotAddi (o : RI) (s : State) : Slot := xRI s.env o (· + ·)
/-- ANDI (R388). -/
def slotAndi (o : RI) (s : State) : Slot := xRI s.env o (· &&& ·)
/-- ORI (R444). -/
def slotOri (o : RI) (s : State) : Slot := xRI s.env o (· ||| ·)
/-- XORI (R492). -/
def slotXori (o : RI) (s : State) : Slot := xRI s.env o (· ^^^ ·)
/-- CMPI: less than, as INT64 (R402). -/
def slotCmpi (o : RI) (s : State) : Slot := xRI s.env o fun a i => bit64 (BitVec.slt a i)
/-- SHLI (R463). -/
def slotShli (d a : BitVec 5) (n : BitVec 6) (s : State) : Slot := xShift s.env d a fun v => v <<< n.toNat
/-- SHRI (R463). -/
def slotShri (d a : BitVec 5) (n : BitVec 6) (s : State) : Slot := xShift s.env d a fun v => v >>> n.toNat
/-- SRAI (R463). -/
def slotSrai (d a : BitVec 5) (n : BitVec 6) (s : State) : Slot := xShift s.env d a fun v => v.sshiftRight n.toNat
/-- LI (R429). -/
def slotLi (d : BitVec 5) (imm : BitVec 16) (s : State) : Slot :=
  let e := s.env
  Slot.finish { cls := .x, okI := true, okP := true, nres := 1, eff := e.fixed .x d (wide64 (e.imm16 imm)) 1 } e [] []
/-- LIH keeps the low word of D, which it reads (R429). -/
def slotLih (d : BitVec 5) (imm : BitVec 16) (s : State) : Slot :=
  let e := s.env
  let o := e.reg .x d
  Slot.finish { cls := .x, okI := true, okP := true, nres := 1,
                eff := e.fixed .x d (wide64 ((e.imm16 imm <<< 32) ||| (o.d &&& 0xFFFFFFFF))) 1 } e [o] [o.sc]

/-- Source and destination files of a MOVX variant (R84). -/
def movxFiles (v : Nat) : File × File :=
  match v with
  | 0 => (.y, .x)
  | 1 => (.x, .y)
  | 2 => (.n, .x)
  | 3 => (.x, .m)
  | 4 => (.m, .x)
  | 5 => (.q, .x)
  | _ => (.x, .q)

/-- The NEXTT requests of a context whose results name n register r (R273). -/
def Ctx.nextts (x : Ctx) (r : Nat) : List Res := x.inflight.filter fun (t : Res) => decide (t.file = .n) && decide (t.idx = r)

/-- MOVX (R437): a 64-bit copy between files that carries poison on to x and y. A read of an n register waits until the
result of the latest request that names it has returned, and lands it (R43, R273). -/
def slotMovx (o : R2) (v : BitVec 4) (s : State) : Slot :=
  let e := s.env
  let (src, dst) := movxFiles v.toNat
  let isY := decide (v = 1)
  let lt := if isY then 2 else 0
  let nn := decide (v = 2) && !o.ha
  let waits := nn && match (e.x.nextts o.a.toNat).getLast? with
    | some t => !t.back e.s.now
    | none => false
  let back (x : Ctx) : List Res := (x.nextts o.a.toNat).filter fun t => t.back e.s.now
  let x1 := if nn && !waits then (back e.x).foldl (fun (y : Ctx) t => y.land e.s.now t) e.x else e.x
  let a := { e with x := x1 }.opnd src o.a o.ha lt
  let carry := decide (dst = .x) || decide (dst = .y)
  let sl : Slot :=
    { cls := if isY then .y else .x, legal := wellFormed (.movx o v), okP := true, nres := 1, phase := if nn then 1 else 2,
      hold := if waits then .engine else .none,
      eff := fun s =>
        let s1 := if nn then s.modCtx e.c fun x => (back x).foldl (fun (y : Ctx) t => y.land e.s.now t) x else s
        s1.modCtx e.c fun x => x.push { mkRes dst o.d.toNat (wide64 a.d) (e.s.now + 2) with psn := if carry then a.psn &&& 1 else 0 } }
  let f := sl.finish e [a] (if carry then [] else [a.sc])
  if nn then { f with reads := f.reads.filter fun (r : File × Nat) => decide (r.1 ≠ .n) } else f

/-! ### The meanings -/

def execNop (s : State) : Host.Outcome State Fault Refusal := issue slotNop s
def execAdd (o : R3) (s : State) : Host.Outcome State Fault Refusal := issue (slotAdd o) s
def execSub (o : R3) (s : State) : Host.Outcome State Fault Refusal := issue (slotSub o) s
def execAddr (o : R3) (v : BitVec 4) (s : State) : Host.Outcome State Fault Refusal := issue (slotAddr o v) s
def execAnd (o : R3) (s : State) : Host.Outcome State Fault Refusal := issue (slotAnd o) s
def execOr (o : R3) (s : State) : Host.Outcome State Fault Refusal := issue (slotOr o) s
def execXor (o : R3) (s : State) : Host.Outcome State Fault Refusal := issue (slotXor o) s
def execShl (o : R3) (w : Bool) (s : State) : Host.Outcome State Fault Refusal := issue (slotShl o w) s
def execShr (o : R3) (w : Bool) (s : State) : Host.Outcome State Fault Refusal := issue (slotShr o w) s
def execSra (o : R3) (w : Bool) (s : State) : Host.Outcome State Fault Refusal := issue (slotSra o w) s
def execMul (o : R3) (s : State) : Host.Outcome State Fault Refusal := issue (slotMul o) s
def execMulh (o : R3) (v : BitVec 4) (s : State) : Host.Outcome State Fault Refusal := issue (slotMulh o v) s
def execMin (o : R3) (u : Bool) (s : State) : Host.Outcome State Fault Refusal := issue (slotMin o u) s
def execMax (o : R3) (u : Bool) (s : State) : Host.Outcome State Fault Refusal := issue (slotMax o u) s
def execCmp (o : R3) (v : BitVec 4) (s : State) : Host.Outcome State Fault Refusal := issue (slotCmp o v) s
def execSel (o : R3) (z : Bool) (s : State) : Host.Outcome State Fault Refusal := issue (slotSel o z) s
def execClz (o : R2) (w : Bool) (s : State) : Host.Outcome State Fault Refusal := issue (slotClz o w) s
def execPopc (o : R2) (w : Bool) (s : State) : Host.Outcome State Fault Refusal := issue (slotPopc o w) s
def execMovx (o : R2) (v : BitVec 4) (s : State) : Host.Outcome State Fault Refusal := issue (slotMovx o v) s
def execAddi (o : RI) (s : State) : Host.Outcome State Fault Refusal := issue (slotAddi o) s
def execAndi (o : RI) (s : State) : Host.Outcome State Fault Refusal := issue (slotAndi o) s
def execOri (o : RI) (s : State) : Host.Outcome State Fault Refusal := issue (slotOri o) s
def execXori (o : RI) (s : State) : Host.Outcome State Fault Refusal := issue (slotXori o) s
def execShli (d a : BitVec 5) (n : BitVec 6) (s : State) : Host.Outcome State Fault Refusal := issue (slotShli d a n) s
def execShri (d a : BitVec 5) (n : BitVec 6) (s : State) : Host.Outcome State Fault Refusal := issue (slotShri d a n) s
def execSrai (d a : BitVec 5) (n : BitVec 6) (s : State) : Host.Outcome State Fault Refusal := issue (slotSrai d a n) s
def execCmpi (o : RI) (s : State) : Host.Outcome State Fault Refusal := issue (slotCmpi o) s
def execLi (d : BitVec 5) (imm : BitVec 16) (s : State) : Host.Outcome State Fault Refusal := issue (slotLi d imm) s
def execLih (d : BitVec 5) (imm : BitVec 16) (s : State) : Host.Outcome State Fault Refusal := issue (slotLih d imm) s

end Sys2Proof.Machine
end

