-- ==== Sys2Proof/Machine/ScalarY.lean ====
section
/-! DEFINITION. The scalar Y class: integer divide, FP32 arithmetic, conversions and BRC (R396, R415 to R423). -/

namespace Sys2Proof.Machine

/-! ### Forms of the class -/

/-- Three y registers, no rounding: value and flags from A and B. -/
def yRRR (e : Env) (legal : Bool) (o : R3) (lat : Nat) (f : W64 → W64 → W64 × BitVec 5) : Slot :=
  let a := e.opnd .y o.a o.ha 2
  let b := e.opnd .y o.b o.hb 3
  let r := f a.d b.d
  Slot.finish { cls := .y, legal := legal, okP := true, nres := 1, eff := e.fixedF .y o.d (wide64 r.1) lat r.2 }
    e [a, b] [a.sc, b.sc]

/-- Three y registers under a rounding mode: one draw is consumed at issue under SR (R138, R417). -/
def yRound (e : Env) (legal : Bool) (o : R3) (rmf : BitVec 3) (lat : Nat) (f : W32 → W32 → Rm → W32 → W32 × BitVec 5) : Slot :=
  let a := e.opnd .y o.a o.ha 2
  let b := e.opnd .y o.b o.hb 3
  let rm := rmSel e.x rmf
  let r := f a.w b.w rm (e.s.draw1 e.c rm)
  Slot.finish { cls := .y, legal := legal, okP := true, nres := 1,
                eff := fun s => e.fixedF .y o.d (wide64 (r.1.setWidth 64)) lat r.2 (s.modCtx e.c fun x => x.consume rm 1) }
    e [a, b] [a.sc, b.sc]

/-- Two y registers under a rounding mode. -/
def yRound1 (e : Env) (legal : Bool) (o : R2) (rmf : BitVec 3) (lat : Nat) (f : W64 → Rm → W32 → W64 × BitVec 5) : Slot :=
  let a := e.opnd .y o.a o.ha 2
  let rm := rmSel e.x rmf
  let r := f a.d rm (e.s.draw1 e.c rm)
  Slot.finish { cls := .y, legal := legal, okP := true, nres := 1,
                eff := fun s => e.fixedF .y o.d (wide64 r.1) lat r.2 (s.modCtx e.c fun x => x.consume rm 1) }
    e [a] [a.sc]

/-! ### Arithmetic of the class -/

/-- Quotient or remainder of two w-bit values, rounding toward zero; a zero divisor gives all ones, or the dividend (R415). -/
def divW (w : Nat) (signed rem : Bool) (a b : BitVec w) : BitVec w :=
  if b = 0 then (if rem then a else BitVec.allOnes w)
  else if signed then BitVec.ofInt w (if rem then a.toInt.tmod b.toInt else a.toInt.tdiv b.toInt)
  else BitVec.ofNat w (if rem then a.toNat % b.toNat else a.toNat / b.toNat)

/-- DIV by variant (R415): bit 0 unsigned, bit 1 remainder, bit 2 32-bit. -/
def divY (v : BitVec 4) (a b : W64) : W64 :=
  let signed := !v.getLsbD 0
  if v.getLsbD 2 then
    let r := divW 32 signed (v.getLsbD 1) (a.setWidth 32) (b.setWidth 32)
    if signed then r.signExtend 64 else r.setWidth 64
  else divW 64 signed (v.getLsbD 1) a b

/-- FCVT by variant (R420). -/
def fcvtY (v : Nat) (a : W64) (rm : Rm) (draw : W32) : W64 × BitVec 5 :=
  let w : W32 := a.setWidth 32
  let fromInt (z : Int) : W64 × BitVec 5 :=
    let (c, fl) := intToF32 z rm draw
    (c.setWidth 64, fl)
  match v with
  | 0 => fromInt w.toInt
  | 1 => fromInt (w.toNat : Int)
  | 2 => fromInt a.toInt
  | 3 => fromInt (a.toNat : Int)
  | 4 => let (z, fl) := toInt w (-(2 ^ 31)) (2 ^ 31 - 1) rm draw; (BitVec.ofInt 64 z, fl)
  | 5 => let (z, fl) := toInt w 0 (2 ^ 32 - 1) rm draw; (BitVec.ofInt 64 z, fl)
  | 6 => let (z, fl) := toInt w (-(2 ^ 63)) (2 ^ 63 - 1) rm draw; (BitVec.ofInt 64 z, fl)
  | _ => let (z, fl) := toInt w 0 (2 ^ 64 - 1) rm draw; (BitVec.ofInt 64 z, fl)

/-- Is an FP32 value below, or above, zero (R396)? -/
def fpSign (a : W32) : Option Ordering :=
  match f32 a with
  | .nan _ => none
  | .inf s => some (if s then .lt else .gt)
  | .fin s m _ => some (if m = 0 then .eq else if s then .lt else .gt)

/-- The conditions of BRC (R396). -/
def brcCond (c : Nat) (a : W64) : Bool :=
  let f := fpSign (a.setWidth 32)
  match c with
  | 0 => a == 0
  | 1 => a != 0
  | 2 => decide (a.toInt < 0)
  | 3 => decide (0 ≤ a.toInt)
  | 4 => decide (0 < a.toInt)
  | 5 => decide (a.toInt ≤ 0)
  | 6 => f = some .lt
  | 7 => f = some .gt || f = some .eq
  | 8 => f = some .gt
  | 9 => f = some .lt || f = some .eq
  | _ => f.isNone

/-! ### The slots -/

/-- DIV (R415). -/
def slotDiv (o : R3) (v : BitVec 4) (s : State) : Slot :=
  yRRR s.env (wellFormed (.div o v)) o 20 fun a b => (divY v a b, 0)
/-- FADD (R417). -/
def slotFadd (o : R3) (rm : BitVec 3) (s : State) : Slot := yRound s.env (wellFormed (.fadd o rm)) o rm 4 fAdd
/-- FSUB (R417). -/
def slotFsub (o : R3) (rm : BitVec 3) (s : State) : Slot := yRound s.env (wellFormed (.fsub o rm)) o rm 4 fSub
/-- FMUL (R417). -/
def slotFmul (o : R3) (rm : BitVec 3) (s : State) : Slot := yRound s.env (wellFormed (.fmul o rm)) o rm 4 fMul
/-- FMA reads D as its addend (R417). -/
def slotFma (o : R3) (neg : Bool) (rmf : BitVec 3) (s : State) : Slot :=
  let e := s.env
  let a := e.opnd .y o.a o.ha 2
  let b := e.opnd .y o.b o.hb 3
  let d := e.reg .y o.d
  let rm := rmSel e.x rmf
  let r := fFma neg a.w b.w d.w rm (e.s.draw1 e.c rm)
  Slot.finish { cls := .y, legal := wellFormed (.fma o neg rmf), okP := true, nres := 1,
                eff := fun s => e.fixedF .y o.d (wide64 (r.1.setWidth 64)) 4 r.2 (s.modCtx e.c fun x => x.consume rm 1) }
    e [a, b, d] [a.sc, b.sc, d.sc]
/-- FDIV (R417). -/
def slotFdiv (o : R3) (rm : BitVec 3) (s : State) : Slot := yRound s.env (wellFormed (.fdiv o rm)) o rm 14 fDiv
/-- FSQRT (R417). -/
def slotFsqrt (o : R2) (rm : BitVec 3) (s : State) : Slot :=
  yRound1 s.env (wellFormed (.fsqrt o rm)) o rm 14 fun a m d =>
    let (c, fl) := fSqrt (a.setWidth 32) m d
    (c.setWidth 64, fl)
/-- FRSQ (R423). -/
def slotFrsq (o : R2) (rm : BitVec 3) (s : State) : Slot :=
  yRound1 s.env (wellFormed (.frsq o rm)) o rm 8 fun a m d =>
    let (c, fl) := fRsq (a.setWidth 32) m d
    (c.setWidth 64, fl)
/-- FCMP (R419). -/
def slotFcmp (o : R3) (v : BitVec 4) (s : State) : Slot :=
  yRRR s.env (wellFormed (.fcmp o v)) o 2 fun a b =>
    let (r, fl) := fCmp v.toNat (a.setWidth 32) (b.setWidth 32)
    (if r then 1 else 0, fl)
/-- FMIN (R422). -/
def slotFmin (o : R3) (s : State) : Slot :=
  yRRR s.env true o 2 fun a b =>
    let (c, fl) := fMinMax false (a.setWidth 32) (b.setWidth 32)
    (c.setWidth 64, fl)
/-- FMAX (R422). -/
def slotFmax (o : R3) (s : State) : Slot :=
  yRRR s.env true o 2 fun a b =>
    let (c, fl) := fMinMax true (a.setWidth 32) (b.setWidth 32)
    (c.setWidth 64, fl)
/-- FCVT under FPCTL.RM (R420). -/
def slotFcvt (o : R2) (v : BitVec 4) (s : State) : Slot :=
  yRound1 s.env (wellFormed (.fcvt o v)) o 0 3 (fcvtY v.toNat)
/-- FCLASS (R418). -/
def slotFclass (o : R2) (s : State) : Slot :=
  let e := s.env
  let a := e.opnd .y o.a o.ha 2
  Slot.finish { cls := .y, okP := true, nres := 1, eff := e.fixed .y o.d (wide64 (BitVec.ofNat 64 (fClass a.w))) 2 } e [a] [a.sc]
/-- BRC decides at issue (R396, R397). -/
def slotBrc (cond ra : BitVec 5) (ofs : BitVec 11) (s : State) : Slot :=
  let e := s.env
  let a := e.opnd .y ra false 2
  let t : Option Nat := if brcCond cond.toNat a.d then some (e.target11 ofs) else none
  Slot.finish { cls := .y, legal := wellFormed (.brc cond ra ofs), okI := true, okP := true, takenY := t,
                eff := fun s => { s with iss := { s.iss with takenY := t } } } e [a] [a.sc]

/-! ### The meanings -/

def execDiv (o : R3) (v : BitVec 4) (s : State) : Host.Outcome State Fault Refusal := issue (slotDiv o v) s
def execFadd (o : R3) (rm : BitVec 3) (s : State) : Host.Outcome State Fault Refusal := issue (slotFadd o rm) s
def execFsub (o : R3) (rm : BitVec 3) (s : State) : Host.Outcome State Fault Refusal := issue (slotFsub o rm) s
def execFmul (o : R3) (rm : BitVec 3) (s : State) : Host.Outcome State Fault Refusal := issue (slotFmul o rm) s
def execFma (o : R3) (neg : Bool) (rm : BitVec 3) (s : State) : Host.Outcome State Fault Refusal := issue (slotFma o neg rm) s
def execFdiv (o : R3) (rm : BitVec 3) (s : State) : Host.Outcome State Fault Refusal := issue (slotFdiv o rm) s
def execFsqrt (o : R2) (rm : BitVec 3) (s : State) : Host.Outcome State Fault Refusal := issue (slotFsqrt o rm) s
def execFrsq (o : R2) (rm : BitVec 3) (s : State) : Host.Outcome State Fault Refusal := issue (slotFrsq o rm) s
def execFcmp (o : R3) (v : BitVec 4) (s : State) : Host.Outcome State Fault Refusal := issue (slotFcmp o v) s
def execFmin (o : R3) (s : State) : Host.Outcome State Fault Refusal := issue (slotFmin o) s
def execFmax (o : R3) (s : State) : Host.Outcome State Fault Refusal := issue (slotFmax o) s
def execFcvt (o : R2) (v : BitVec 4) (s : State) : Host.Outcome State Fault Refusal := issue (slotFcvt o v) s
def execFclass (o : R2) (s : State) : Host.Outcome State Fault Refusal := issue (slotFclass o) s
def execBrc (cond a : BitVec 5) (ofs : BitVec 11) (s : State) : Host.Outcome State Fault Refusal := issue (slotBrc cond a ofs) s

end Sys2Proof.Machine
end

