-- ==== Sys2Proof/Machine/Vector.lean ====
section
/-! DEFINITION. The vector class: 64 lanes of 32 bits, and the mask operations on q registers (R141, R452, R475 to R488). -/

namespace Sys2Proof.Machine

/-! ### Forms of the class -/

/-- First hold latch of the vector engine that runs the slot: A for the bundle's first vector slot, B for its second (R61). -/
def Env.vlt (e : Env) : Nat := if e.s.iss.vec = 0 then 4 else 6

/-- Lanes from a function of the lane that gives value and flags: the value, and the flags of the enabled lanes (R475). -/
def Env.lanesOf (e : Env) (f : Nat → W32 × BitVec 5) : Wide × BitVec 5 :=
  (ofLanes fun l => if e.on l then (f l).1 else 0, orFlags e.lanes fun l => (f l).2)

/-- Three v registers: lane l of D from lane l of A and B. `draws` is 64 for a form that rounds (R138). -/
def vVVV (e : Env) (legal : Bool) (o : R3) (lat : Nat) (rm : Rm) (draws : Nat)
    (f : W32 → W32 → W32 → W32 × BitVec 5) : Slot :=
  let a := e.opnd .v o.a o.ha e.vlt
  let b := e.opnd .v o.b o.hb (e.vlt + 1)
  let r := e.lanesOf fun l => f (a.lane l) (b.lane l) (if draws = 0 then 0 else e.s.drawL e.c rm l)
  Slot.finish { cls := .vec, legal := legal, okP := true, okL := true, nres := 1,
                eff := fun s => e.fixedL .v o.d r.1 lat r.2 (s.modCtx e.c fun x => x.consume rm draws) }
    e [a, b] [a.lc e.lanes, b.lc e.lanes]

/-- Two v registers. -/
def vVV (e : Env) (legal : Bool) (o : R2) (lat : Nat) (rm : Rm) (draws : Nat) (f : W32 → W32 → W32 × BitVec 5) : Slot :=
  let a := e.opnd .v o.a o.ha e.vlt
  let r := e.lanesOf fun l => f (a.lane l) (if draws = 0 then 0 else e.s.drawL e.c rm l)
  Slot.finish { cls := .vec, legal := legal, okP := true, okL := true, nres := 1,
                eff := fun s => e.fixedL .v o.d r.1 lat r.2 (s.modCtx e.c fun x => x.consume rm draws) }
    e [a] [a.lc e.lanes]

/-- An integer lane operation: no flag, no draw. -/
def vInt (e : Env) (legal : Bool) (o : R3) (lat : Nat) (f : W32 → W32 → W32) : Slot :=
  vVVV e legal o lat .rne 0 fun a b _ => (f a b, 0)

/-- A mask result in q register D from a bit per lane (R479, R452). -/
def Env.maskRes (e : Env) (d : BitVec 5) (m : W64) (fl : BitVec 5) : State → State := e.fixedL .q d (wide64 m) 2 fl

/-- A mask from a truth value per lane. -/
def maskBits (f : Nat → Bool) : W64 := BitVec.ofNat 64 ((List.range 64).foldr (fun l (acc : Nat) => (if f l then 1 else 0) + 2 * acc) 0)

/-! ### Arithmetic of the class -/

/-- a op b as INT32, clamped (R476 .i32s). -/
def satI32 (z : Int) : W32 := BitVec.ofInt 32 (clampInt z (-(2 ^ 31)) (2 ^ 31 - 1))

/-- VADD, VSUB or VMUL by variant (R476): op 0, 1 or 2. -/
def vArith (op : Nat) (v : BitVec 4) (rm : Rm) (a b draw : W32) : W32 × BitVec 5 :=
  if v.getLsbD 3 then
    let i : W32 := match op, v.toNat with
      | 0, 8 => a + b
      | 0, _ => satI32 (a.toInt + b.toInt)
      | 1, 8 => a - b
      | 1, _ => satI32 (a.toInt - b.toInt)
      | _, 8 => a * b
      | _, 9 => BitVec.ofInt 32 ((a.toInt * b.toInt).fdiv (2 ^ 32))
      | _, _ => BitVec.ofNat 32 (a.toNat * b.toNat / 2 ^ 32)
    (i, 0)
  else match op with
    | 0 => fAdd a b rm draw
    | 1 => fSub a b rm draw
    | _ => fMul a b rm draw

/-- The slot of VADD, VSUB and VMUL. -/
def vArithSlot (e : Env) (legal : Bool) (op : Nat) (o : R3) (v : BitVec 4) : Slot :=
  let rm := rmSel e.x (v.setWidth 3)
  if v.getLsbD 3 then vVVV e legal o 4 .rne 0 (vArith op v .rne)
  else vVVV e legal o 4 rm 64 (vArith op v rm)

/-- Vector compare (R479). -/
def vCmpLane (v : Nat) (a b : W32) : Bool × BitVec 5 :=
  match v with
  | 8 => (a == b, 0)
  | 9 => (a != b, 0)
  | 10 => (BitVec.slt a b, 0)
  | 11 => (!BitVec.slt a b, 0)
  | 12 => (BitVec.ult a b, 0)
  | 13 => (!BitVec.ult a b, 0)
  | n => fCmp n a b

/-- A widening to FP32, exact (R480): canonical NaN, NV when signalling. -/
def widen (f : Nat) (a : W32) : W32 × BitVec 5 :=
  let x := decodeFmt f (a.toNat % 65536)
  if x.isNan then (nan32, if x.isSnan then flNV else 0) else (rne32 x, 0)
/-- A narrowing from FP32 (R480). -/
def narrow (f : Nat) (sat : Bool) (a : W32) (rm : Rm) (draw : W32) : W32 × BitVec 5 :=
  let (c, fl) := encodeFmt f (f32 a) rm sat draw
  (BitVec.ofNat 32 c, fl)
/-- VCVT by variant (R480). Format 1 is FP16 and 2 BF16. -/
def vCvtLane (v : Nat) (rm : Rm) (a draw : W32) : W32 × BitVec 5 :=
  match v with
  | 0 => intToF32 a.toInt rm draw
  | 1 => intToF32 (a.toNat : Int) rm draw
  | 2 => let (z, fl) := toInt a (-(2 ^ 31)) (2 ^ 31 - 1) rm draw; (BitVec.ofInt 32 z, fl)
  | 3 => let (z, fl) := toInt a 0 (2 ^ 32 - 1) rm draw; (BitVec.ofInt 32 z, fl)
  | 4 => widen 2 a
  | 5 => narrow 2 false a rm draw
  | 6 => widen 1 a
  | 7 => narrow 1 false a rm draw
  | 8 => narrow 2 true a rm draw
  | _ => narrow 1 true a rm draw

/-- One level of the tree of R141: the lower w values combined with the upper w, with flags and the number of steps taken. -/
def redLevel (op : W32 → W32 → W32 → W32 × BitVec 5) (draw : Nat → W32) (w : Nat) (st : List W32 × BitVec 5 × Nat) :
    List W32 × BitVec 5 × Nat :=
  let (xs, fl, j) := st
  let rs := (List.range w).map fun i => op (xs.getD i 0) (xs.getD (i + w) 0) (draw (j + i))
  (rs.map (·.1), rs.foldl (fun a r => a ||| r.2) fl, j + w)

/-- The reduction tree of R141. -/
def reduce (op : W32 → W32 → W32 → W32 × BitVec 5) (draw : Nat → W32) (xs : List W32) : W32 × BitVec 5 :=
  let (ys, fl, _) := [32, 16, 8, 4, 2, 1].foldl (fun st w => redLevel op draw w st) (xs, (0 : BitVec 5), 0)
  (ys.getD 0 0, fl)

/-- VRED's step by variant (R486). -/
def vRedOp (v : Nat) (rm : Rm) (a b draw : W32) : W32 × BitVec 5 :=
  match v with
  | 6 => fMinMax false a b
  | 7 => fMinMax true a b
  | _ => fAdd a b rm draw

/-- Vector shifts (R488). -/
def vShift (t : Nat) (a b : W32) : W32 :=
  let n := b.toNat % 256
  match t with
  | 0 => a <<< n
  | 1 => a >>> n
  | _ => a.sshiftRight n

/-- A whole number of an exponent field: the low 16 bits of e. -/
def half (e : Int) : Nat := (BitVec.ofInt 16 e).toNat

/-- VQUANT (R485): the 64 lanes from the row half in A and the control in B. -/
def vQuant (int : Bool) (a : Wide) (b : W64) : Wide × BitVec 5 :=
  let p := b.toNat % 32 + 1
  let h := b.toNat / 256 % 2
  let fmt := b.toNat / 4096 % 16
  let ok := if int then decide (8 ≤ fmt ∧ fmt ≤ 12) || decide (fmt = 14) || decide (fmt = 15) else decide (fmt ≤ 7) || decide (fmt = 13)
  if 24 < p || !ok then (0, flNV)
  else
    let grp (g : Nat) : Int × Bool × List Int :=
      let ws := (List.range 32).map fun i => lane a (32 * g + i)
      if int then
        quantBlk fmt p [] (ws.map fun w => w.toInt)
      else quantBlk fmt p (ws.map f32) []
    let g0 := grp 0
    let g1 := grp 1
    let plane (xs : List Int) (i : Nat) : W32 :=
      BitVec.ofNat 32 (xs.foldr (fun z (acc : Nat) => (if (BitVec.ofInt 32 z).getLsbD i then 1 else 0) + 2 * acc) 0)
    let nf := (if g1.2.1 then 2 else 0) + (if g0.2.1 then 1 else 0)
    (ofLanes fun l =>
      if l < 48 then (if l / 2 < p then plane (if l % 2 = 0 then g0.2.2 else g1.2.2) (l / 2) else 0)
      else if l = 48 then BitVec.ofNat 32 (half g1.1 * 65536 + half g0.1)
      else if l = 49 then BitVec.ofNat 32 (fmt * 4096 + (p - 1) * 16 + nf * 2 ^ (2 * h))
      else 0, 0)

/-- VDEQ of lane l (R481). -/
def vDeqLane (fmt : Nat) (bits : Nat) (b : W64) (l : Nat) : W32 × BitVec 5 :=
  let mx := b.getLsbD 16
  let code := denseAt bits (fmtWidth fmt) l
  let x := decodeFmt fmt code
  let y := if mx then
      scaled (if fmt = 9 then x.scale (-6) else x) (if l < 32 then b.toNat % 256 else b.toNat / 256 % 256)
    else x
  if y.isNan then (nan32, if x.isSnan then flNV else 0)
  else toF32 y .rne 0

/-! ### The slots -/

/-- VADD (R476). -/
def slotVadd (o : R3) (v : BitVec 4) (s : State) : Slot := vArithSlot s.env (wellFormed (.vadd o v)) 0 o v
/-- VSUB (R476). -/
def slotVsub (o : R3) (v : BitVec 4) (s : State) : Slot := vArithSlot s.env (wellFormed (.vsub o v)) 1 o v
/-- VMUL (R476). -/
def slotVmul (o : R3) (v : BitVec 4) (s : State) : Slot := vArithSlot s.env (wellFormed (.vmul o v)) 2 o v
/-- VFMA reads D as its addend (R476). -/
def slotVfma (o : R3) (v : BitVec 4) (s : State) : Slot :=
  let e := s.env
  let a := e.opnd .v o.a o.ha e.vlt
  let b := e.opnd .v o.b o.hb (e.vlt + 1)
  let d := e.reg .v o.d
  let rm := rmSel e.x (v.setWidth 3)
  let r := e.lanesOf fun l => fFma (v.getLsbD 3) (a.lane l) (b.lane l) (d.lane l) rm (e.s.drawL e.c rm l)
  Slot.finish { cls := .vec, legal := wellFormed (.vfma o v), okP := true, okL := true, nres := 1,
                eff := fun s => e.fixedL .v o.d r.1 4 r.2 (s.modCtx e.c fun x => x.consume rm 64) }
    e [a, b, d] [a.lc e.lanes, b.lc e.lanes, d.lc e.lanes]
/-- VMIN (R483). -/
def slotVmin (o : R3) (t : BitVec 2) (s : State) : Slot :=
  vVVV s.env (wellFormed (.vmin o t)) o 2 .rne 0 fun a b _ =>
    if t = 0 then fMinMax false a b
    else (if (if t = 1 then BitVec.slt b a else BitVec.ult b a) then b else a, 0)
/-- VMAX (R483). -/
def slotVmax (o : R3) (t : BitVec 2) (s : State) : Slot :=
  vVVV s.env (wellFormed (.vmax o t)) o 2 .rne 0 fun a b _ =>
    if t = 0 then fMinMax true a b
    else (if (if t = 1 then BitVec.slt a b else BitVec.ult a b) then b else a, 0)
/-- VAND (R477). -/
def slotVand (o : R3) (s : State) : Slot := vInt s.env true o 2 (· &&& ·)
/-- VOR (R477). -/
def slotVor (o : R3) (s : State) : Slot := vInt s.env true o 2 (· ||| ·)
/-- VXOR (R477). -/
def slotVxor (o : R3) (s : State) : Slot := vInt s.env true o 2 (· ^^^ ·)
/-- VSHL (R488). -/
def slotVshl (o : R3) (s : State) : Slot := vInt s.env true o 2 (vShift 0)
/-- VSHR (R488). -/
def slotVshr (o : R3) (t : BitVec 2) (s : State) : Slot := vInt s.env (wellFormed (.vshr o t)) o 2 (vShift t.toNat)
/-- VCMP writes a q register (R479). -/
def slotVcmp (o : R3) (v : BitVec 4) (s : State) : Slot :=
  let e := s.env
  let a := e.opnd .v o.a o.ha e.vlt
  let b := e.opnd .v o.b o.hb (e.vlt + 1)
  let f (l : Nat) := vCmpLane v.toNat (a.lane l) (b.lane l)
  Slot.finish { cls := .vec, legal := wellFormed (.vcmp o v), okP := true, okL := true, nres := 1,
                eff := e.maskRes o.d (maskBits fun l => (f l).1) (orFlags e.lanes fun l => (f l).2) }
    e [a, b] [a.lc e.lanes, b.lc e.lanes]
/-- VSEL: the lane that is not chosen is not consumed (R487). -/
def slotVsel (o : R3) (n : BitVec 3) (s : State) : Slot :=
  let e := s.env
  let a := e.opnd .v o.a o.ha e.vlt
  let b := e.opnd .v o.b o.hb (e.vlt + 1)
  let q := e.reg .q (n.setWidth 5)
  let r := e.lanesOf fun l => (if q.d.getLsbD l then a.lane l else b.lane l, 0)
  Slot.finish { cls := .vec, okP := true, okL := true, nres := 1, eff := e.fixedL .v o.d r.1 2 0 }
    e [a, b, q] [a.lc (e.lanes &&& q.d), b.lc (e.lanes &&& ~~~q.d)]
/-- VCVT under FPCTL.RM; the exact widenings consume no draw (R480). -/
def slotVcvt (o : R2) (v : BitVec 4) (s : State) : Slot :=
  let e := s.env
  let rm := rmOfBits e.x.r.rm
  vVV e (wellFormed (.vcvt o v)) o 4 rm (if v = 4 ∨ v = 6 then 0 else 64) (vCvtLane v.toNat rm)
/-- VRED: the mask selects input lanes, and all lanes of D take the result (R141, R486). -/
def slotVred (o : R2) (v : BitVec 4) (s : State) : Slot :=
  let e := s.env
  let a := e.opnd .v o.a o.ha e.vlt
  let rm := rmSel e.x (if v.toNat ≤ 5 then v.setWidth 3 else 1)
  let r := reduce (vRedOp v.toNat rm) (e.s.drawL e.c rm)
    ((List.range 64).map fun l => if e.on l then a.lane l else 0x80000000)
  Slot.finish { cls := .vec, legal := wellFormed (.vred o v), okP := true, okL := true, nres := 1,
                eff := fun s => e.fixedF .v o.d (ofLanes fun _ => r.1) 8 r.2 (s.modCtx e.c fun x => x.consume rm 64) }
    e [a] [a.lc e.lanes]
/-- VPERM: only selected lanes of A are consumed (R484). -/
def slotVperm (o : R3) (s : State) : Slot :=
  let e := s.env
  let a := e.opnd .v o.a o.ha e.vlt
  let b := e.opnd .v o.b o.hb (e.vlt + 1)
  let pick (l : Nat) : Nat := (b.lane l).toNat % 64
  let used : W64 := maskBits fun i => (List.range 64).any fun l => e.on l && decide (pick l = i)
  let r := e.lanesOf fun l => (a.lane (pick l), 0)
  Slot.finish { cls := .vec, okP := true, okL := true, nres := 1, eff := e.fixedL .v o.d r.1 4 0 }
    e [a, b] [a.lc used, b.lc e.lanes]
/-- VBCAST of an x register, or of one lane (R478). -/
def slotVbcast (o : R3) (ln : Bool) (s : State) : Slot :=
  let e := s.env
  if ln then
    let a := e.opnd .v o.a o.ha e.vlt
    let b := e.opnd .x o.b o.hb (e.vlt + 1)
    let i := b.d.toNat % 64
    let r := e.lanesOf fun _ => (a.lane i, 0)
    Slot.finish { cls := .vec, okP := true, okL := true, nres := 1, eff := e.fixedL .v o.d r.1 2 0 }
      e [a, b] [a.lc (1#64 <<< i), b.sc]
  else
    let a := e.opnd .x o.a o.ha e.vlt
    let r := e.lanesOf fun _ => (a.w, 0)
    Slot.finish { cls := .vec, legal := wellFormed (.vbcast o ln), okP := true, okL := true, nres := 1,
                  eff := e.fixedL .v o.d r.1 2 0 } e [a] [a.sc]
/-- VEXP2 (R482). -/
def slotVexp2 (o : R2) (s : State) : Slot := vVV s.env true o 8 .rne 0 fun a _ => fExp2 a
/-- VLOG2 (R482). -/
def slotVlog2 (o : R2) (s : State) : Slot := vVV s.env true o 8 .rne 0 fun a _ => fLog2 a
/-- VRCP (R482). -/
def slotVrcp (o : R2) (s : State) : Slot := vVV s.env true o 8 .rne 0 fun a _ => fRcp a
/-- VRSQ (R482). -/
def slotVrsq (o : R2) (s : State) : Slot := vVV s.env true o 8 .rne 0 fun a _ => fRsq a .rne 0
/-- VQUANT takes no lane mask (R485). -/
def slotVquant (o : R3) (int : Bool) (s : State) : Slot :=
  let e := s.env
  let a := e.opnd .v o.a o.ha e.vlt
  let b := e.opnd .x o.b o.hb (e.vlt + 1)
  let r := vQuant int a.val b.d
  Slot.finish { cls := .vec, okP := true, nres := 1, eff := e.fixedF .v o.d r.1 12 r.2 }
    e [a, b] [a.lc (~~~(0 : W64)), b.sc]
/-- VDEQ; scales with a format that takes none give +0 and NV (R481). -/
def slotVdeq (o : R3) (fmt : BitVec 4) (s : State) : Slot :=
  let e := s.env
  let a := e.opnd .v o.a o.ha e.vlt
  let b := e.opnd .x o.b o.hb (e.vlt + 1)
  let bad := b.d.getLsbD 16 && !mxFormat fmt
  let r := if bad then (0, flNV) else e.lanesOf (vDeqLane fmt.toNat a.val.toNat b.d)
  let w := fmtWidth fmt.toNat
  let used : W64 := maskBits fun i => (List.range 64).any fun l =>
    e.on l && decide (w * l / 32 ≤ i ∧ i ≤ (w * l + w - 1) / 32)
  Slot.finish { cls := .vec, okP := true, okL := true, nres := 1, eff := e.fixedL .v o.d r.1 6 r.2 }
    e [a, b] [a.lc used, b.sc]

/-- QOP by variant on 64-lane masks; the lowest lane is sought among the enabled ones (R452). -/
def qopVal (v : Nat) (a b lanes : W64) : W64 :=
  let first := (List.range 64).find? fun l => a.getLsbD l && lanes.getLsbD l
  match v with
  | 0 => a &&& b
  | 1 => a ||| b
  | 2 => a ^^^ b
  | 3 => a &&& ~~~b
  | 4 => ~~~b
  | 5 => maskBits fun l => decide (first = some l)
  | _ => maskBits fun l => match first with
    | none => true
    | some k => decide (l < k)

/-- QOP (R452): the unused field names no register. -/
def slotQop (o : R3) (v : BitVec 4) (s : State) : Slot :=
  let e := s.env
  let a := if v = 4 then Opnd.none else e.opnd .q o.a o.ha e.vlt
  let b := if v = 5 ∨ v = 6 then Opnd.none else e.opnd .q o.b o.hb (e.vlt + 1)
  Slot.finish { cls := .vec, legal := wellFormed (.qop o v), okP := true, okL := true, nres := 1,
                eff := e.maskRes o.d (qopVal v.toNat a.d b.d e.lanes) 0 } e [a, b] [a.sc, b.sc]

/-! ### The meanings -/

def execVadd (o : R3) (v : BitVec 4) (s : State) : Host.Outcome State Fault Refusal := issue (slotVadd o v) s
def execVsub (o : R3) (v : BitVec 4) (s : State) : Host.Outcome State Fault Refusal := issue (slotVsub o v) s
def execVmul (o : R3) (v : BitVec 4) (s : State) : Host.Outcome State Fault Refusal := issue (slotVmul o v) s
def execVfma (o : R3) (v : BitVec 4) (s : State) : Host.Outcome State Fault Refusal := issue (slotVfma o v) s
def execVmin (o : R3) (t : BitVec 2) (s : State) : Host.Outcome State Fault Refusal := issue (slotVmin o t) s
def execVmax (o : R3) (t : BitVec 2) (s : State) : Host.Outcome State Fault Refusal := issue (slotVmax o t) s
def execVand (o : R3) (s : State) : Host.Outcome State Fault Refusal := issue (slotVand o) s
def execVor (o : R3) (s : State) : Host.Outcome State Fault Refusal := issue (slotVor o) s
def execVxor (o : R3) (s : State) : Host.Outcome State Fault Refusal := issue (slotVxor o) s
def execVshl (o : R3) (s : State) : Host.Outcome State Fault Refusal := issue (slotVshl o) s
def execVshr (o : R3) (t : BitVec 2) (s : State) : Host.Outcome State Fault Refusal := issue (slotVshr o t) s
def execVcmp (o : R3) (v : BitVec 4) (s : State) : Host.Outcome State Fault Refusal := issue (slotVcmp o v) s
def execVsel (o : R3) (n : BitVec 3) (s : State) : Host.Outcome State Fault Refusal := issue (slotVsel o n) s
def execVcvt (o : R2) (v : BitVec 4) (s : State) : Host.Outcome State Fault Refusal := issue (slotVcvt o v) s
def execVred (o : R2) (v : BitVec 4) (s : State) : Host.Outcome State Fault Refusal := issue (slotVred o v) s
def execVperm (o : R3) (s : State) : Host.Outcome State Fault Refusal := issue (slotVperm o) s
def execVbcast (o : R3) (ln : Bool) (s : State) : Host.Outcome State Fault Refusal := issue (slotVbcast o ln) s
def execVexp2 (o : R2) (s : State) : Host.Outcome State Fault Refusal := issue (slotVexp2 o) s
def execVlog2 (o : R2) (s : State) : Host.Outcome State Fault Refusal := issue (slotVlog2 o) s
def execVrcp (o : R2) (s : State) : Host.Outcome State Fault Refusal := issue (slotVrcp o) s
def execVrsq (o : R2) (s : State) : Host.Outcome State Fault Refusal := issue (slotVrsq o) s
def execVquant (o : R3) (int : Bool) (s : State) : Host.Outcome State Fault Refusal := issue (slotVquant o int) s
def execVdeq (o : R3) (fmt : BitVec 4) (s : State) : Host.Outcome State Fault Refusal := issue (slotVdeq o fmt) s
def execQop (o : R3) (v : BitVec 4) (s : State) : Host.Outcome State Fault Refusal := issue (slotQop o v) s

end Sys2Proof.Machine
end

