-- ==== Sys2Proof/Machine/Slots.lean ====
section
/-! DEFINITION. Which slot an instruction is to the issue stage: the one place that names every slot's checks and effect beside
the meanings. -/

namespace Sys2Proof.Machine

/-- The slot of an instruction in the state whose `iss` names its place; what is no slot is illegal. -/
def slotOf (i : Instr) (s : State) : Slot :=
  match i with
  | .nop => slotNop s
  | .add o => slotAdd o s
  | .sub o => slotSub o s
  | .addr o v => slotAddr o v s
  | .and o => slotAnd o s
  | .or o => slotOr o s
  | .xor o => slotXor o s
  | .shl o w => slotShl o w s
  | .shr o w => slotShr o w s
  | .sra o w => slotSra o w s
  | .mul o => slotMul o s
  | .mulh o v => slotMulh o v s
  | .min o u => slotMin o u s
  | .max o u => slotMax o u s
  | .cmp o v => slotCmp o v s
  | .sel o z => slotSel o z s
  | .clz o w => slotClz o w s
  | .popc o w => slotPopc o w s
  | .movx o v => slotMovx o v s
  | .addi o => slotAddi o s
  | .andi o => slotAndi o s
  | .ori o => slotOri o s
  | .xori o => slotXori o s
  | .shli d a n => slotShli d a n s
  | .shri d a n => slotShri d a n s
  | .srai d a n => slotSrai d a n s
  | .cmpi o => slotCmpi o s
  | .li d imm => slotLi d imm s
  | .lih d imm => slotLih d imm s
  | .div o v => slotDiv o v s
  | .fadd o rm => slotFadd o rm s
  | .fsub o rm => slotFsub o rm s
  | .fmul o rm => slotFmul o rm s
  | .fma o neg rm => slotFma o neg rm s
  | .fdiv o rm => slotFdiv o rm s
  | .fsqrt o rm => slotFsqrt o rm s
  | .frsq o rm => slotFrsq o rm s
  | .fcmp o v => slotFcmp o v s
  | .fmin o => slotFmin o s
  | .fmax o => slotFmax o s
  | .fcvt o v => slotFcvt o v s
  | .fclass o => slotFclass o s
  | .brc cond a ofs => slotBrc cond a ofs s
  | .vadd o v => slotVadd o v s
  | .vsub o v => slotVsub o v s
  | .vmul o v => slotVmul o v s
  | .vfma o v => slotVfma o v s
  | .vmin o t => slotVmin o t s
  | .vmax o t => slotVmax o t s
  | .vand o => slotVand o s
  | .vor o => slotVor o s
  | .vxor o => slotVxor o s
  | .vshl o => slotVshl o s
  | .vshr o t => slotVshr o t s
  | .vcmp o v => slotVcmp o v s
  | .vsel o n => slotVsel o n s
  | .vcvt o v => slotVcvt o v s
  | .vred o v => slotVred o v s
  | .vperm o => slotVperm o s
  | .vbcast o lane => slotVbcast o lane s
  | .vexp2 o => slotVexp2 o s
  | .vlog2 o => slotVlog2 o s
  | .vrcp o => slotVrcp o s
  | .vrsq o => slotVrsq o s
  | .vquant o int => slotVquant o int s
  | .vdeq o fmt => slotVdeq o fmt s
  | .qop o v => slotQop o v s
  | .gset o ofs => slotGset o ofs s
  | .gseed o => slotGseed o s
  | .ggen o t c => slotGgen o t c s
  | .cpy o => slotCpy o s
  | .cpys o => slotCpys o s
  | .cpyg o => slotCpyg o s
  | .cpyr o => slotCpyr o s
  | .cpyw o => slotCpyw o s
  | .ld o size => slotLd o size s
  | .st o size => slotSt o size s
  | .ldv o => slotLdv o s
  | .stv o => slotStv o s
  | .ldg o v => slotLdg o v s
  | .stg o v => slotStg o v s
  | .probe o w => slotProbe o w s
  | .lock o l1 => slotLock o l1 s
  | .unlock o => slotUnlock o s
  | .pref base ofs l2 ha => slotPref base ofs l2 ha s
  | .drain => slotDrain s
  | .fenceo => slotFenceo s
  | .fencer o v => slotFencer o v s
  | .atom o v => slotAtom o v s
  | .ratom o v => slotRatom o v s
  | .rld o size => slotRld o size s
  | .rst o v => slotRst o v s
  | .stver o => slotStver o s
  | .owne o => slotOwne o s
  | .ownt o => slotOwnt o s
  | .barm o => slotBarm o s
  | .cwait o => slotCwait o s
  | .mcall o bank => slotMcall o bank s
  | .mwait o bank => slotMwait o bank s
  | .mver d bank => slotMver d bank s
  | .mpwr o => slotMpwr o s
  | .mprd o => slotMprd o s
  | .br ofs => slotBr ofs s
  | .brl ofs => slotBrl ofs s
  | .jr o => slotJr o s
  | .ret => slotRet s
  | .jrL o => slotJrL o s
  | .loop ls a ofs => slotLoop ls a ofs s
  | .bucket o => slotBucket o s
  | .nextt o => slotNextt o s
  | .suspend o v => slotSuspend o v s
  | .tend => slotTend s
  | .launch o => slotLaunch o s
  | .raise o => slotRaise o s
  | .post o => slotPost o s
  | .qpop o => slotQpop o s
  | .dispatch o => slotDispatch o s
  | .agree d tag => slotAgree d tag s
  | .abr m a ofs => slotAbr m a ofs s
  | .abrp p m a ofs => slotAbrp p m a ofs s
  | .ares o v => slotAres o v s
  | .coll o => slotColl o s
  | .trap code => slotTrap code s
  | .rte o v => slotRte o v s
  | .wfe o v => slotWfe o v s
  | .dbrk code => slotDbrk code s
  | .srd d num => slotSrd d num s
  | .swr d num => slotSwr d num s
  | _ => { legal := false }

end Sys2Proof.Machine
end

