-- ==== Sys2Proof/Machine/Bundle.lean ====
section
/-! DEFINITION. Presenting the next bundle of a context for issue: form, prefixes, read limits, reports that stand at the
boundary, and running its slots (R56 to R68, R182, R275, R312, R327 to R330, R470). The meanings of the slots come in as a
parameter: `Step` passes `exec`. -/

namespace Sys2Proof.Machine

/-! ### The form of a bundle (R60 to R62) -/

/-- Class of a slot by its OP, reserved cells having none (R61, R92). -/
def clsOf (w : W32) : Cls :=
  let n := (fOp w).toNat
  if n = 15 then (if fV w = 1 then .y else if (fV w).toNat ≤ 6 then .x else .none)
  else if 1 ≤ n ∧ n ≤ 23 then .x
  else if 24 ≤ n ∧ n ≤ 36 then .y
  else if 40 ≤ n ∧ n ≤ 56 then .vec
  else if (61 ≤ n ∧ n ≤ 63) ∨ (84 ≤ n ∧ n ≤ 88) then .copy
  else if 64 ≤ n ∧ n ≤ 82 then .mem
  else if 90 ≤ n ∧ n ≤ 94 then .mat
  else if n = 104 then .launch
  else if n = 102 then .suspend
  else if 96 ≤ n ∧ n ≤ 119 then .ctl
  else .none

/-- BUNDLE_FORM by slots and classes (R60). -/
def formBad (ws : List W32) : Bool :=
  let n (c : Cls) : Nat := (ws.filter fun w => decide (clsOf w = c)).length
  let k := n .ctl + n .launch + n .suspend
  decide (ws.length < 4) || decide (1 < n .x) || decide (1 < n .y) || decide (2 < n .vec) || decide (1 < n .mem)
    || decide (1 < n .copy) || decide (1 < n .mat)
    || (decide (1 < k) && !(decide (n .ctl = 0) && decide (n .launch = 1) && decide (n .suspend = 1)))

/-- BUNDLE_FORM by register reads (R62). -/
def readsBad (rs : List (File × Nat)) : Bool :=
  let n (f : File) : Nat := (rs.filter fun (r : File × Nat) => decide (r.1 = f)).length
  decide (6 < n .x) || decide (4 < n .y) || decide (6 < n .v) || decide (3 < n .q)

/-- A slot of a bundle with the prefixes that stand before it. -/
structure Item where
  addr : Nat
  pre : List Instr
  ins : Option Instr
  /-- vector slots before it (R61) -/
  vec : Nat
deriving DecidableEq, Repr, Inhabited

/-- Does a list of prefixes hold two of one kind (R67)? -/
def twice (pre : List Instr) : Bool :=
  let n (p : Instr → Bool) : Nat := (pre.filter p).length
  decide (1 < n fun i => match i with
    | .pfxi _ => true
    | _ => false) || decide (1 < n fun i => match i with
    | .pfxp _ _ => true
    | _ => false)

/-- Group the slots of a bundle with their prefixes: the items, and whether a prefix stands last or twice (R67). -/
def itemsOf : List (Nat × W32) → List Instr → Nat → List Item × Bool
  | [], pre, _ => ([], !pre.isEmpty || twice pre)
  | (a, w) :: r, pre, vec =>
    match decodeSlot w with
    | some (.pfxi p) => itemsOf r (pre ++ [.pfxi p]) vec
    | some (.pfxp m g) => itemsOf r (pre ++ [.pfxp m g]) vec
    | i =>
      let (is, bad) := itemsOf r [] (if clsOf w = .vec then vec + 1 else vec)
      (⟨a, pre, i, vec⟩ :: is, bad || twice pre)

/-- Put the prefixes of an item and its place into `iss`. -/
def State.atItem (s : State) (t : Item) : State :=
  let i := { s.iss with slot := t.addr, vec := t.vec, pfxi := none, pfxp := none }
  { s with iss := t.pre.foldl (fun (i : Issue) p => match p with
      | .pfxi v => { i with pfxi := some v }
      | .pfxp m g => { i with pfxp := some (m, g) }
      | _ => i) i }

/-- The register that a condition or lane mask of a PFXP reads (R62, R65). A lane mask that names no q register, whose slot is illegal, counts too
(log 26). -/
def condRead (w : W32) : List (File × Nat) :=
  match decodeSlot w with
  | some (.pfxp m r) => if m.toNat < 2 then readOf .x r else if m.toNat < 4 then readOf .y r else if m.toNat < 6 then readOf .q r else []
  | _ => []

/-- The slot of an item. -/
def State.slotAt (s : State) (t : Item) : Slot :=
  match t.ins with
  | some i => Machine.slotOf i (s.atItem t)
  | none => { legal := false }

/-! ### Presenting a bundle -/

/-- What a slot of a bundle reads beside its prefixes: a prefix is counted where it stands, whatever follows it (R62). -/
def State.readsAt (s : State) (t : Item) : List (File × Nat) :=
  let sl := s.slotAt { t with pre := t.pre.filter fun (p : Instr) => match p with
    | .pfxp _ _ => false
    | _ => true }
  if sl.legal then sl.reads else []

/-- Does the bundle give the parent's place to its launch: a LAUNCH beside a SUSPEND with KIND JCB (R268)? -/
def donates (is : List Item) : Bool :=
  is.any fun (t : Item) => match t.ins with
    | some (.suspend _ v) => decide (v = 1)
    | _ => false

/-- A bundle of fetched slots stands in the current context: `iss` names its place. -/
def State.atWords (s : State) (ws : List (Nat × W32)) : State :=
  let first := (ws.map fun (p : Nat × W32) => p.1).headD 0
  { s with iss := { Issue.none with
    bundle := first, slot := first, after := first + 4 * ws.length, don := donates (itemsOf ws [] 0).1 } }
/-- The state in which such a bundle reads: its NEXTT results count as landed (R273). -/
def State.viewOf (s : State) (ws : List (Nat × W32)) : State := (s.atWords ws).modCtx s.cur fun x => x.landNextt s.now
/-- The register reads of a bundle, its prefixes among them (R62). -/
def State.bundleReads (s : State) (ws : List (Nat × W32)) : List (File × Nat) :=
  (ws.map fun (p : Nat × W32) => p.2).flatMap condRead ++ (itemsOf ws [] 0).1.flatMap (s.viewOf ws).readsAt

/-- What a bundle is at its presentation: its slots by item, the verdict, and the state in which its slots run. -/
structure Presented where
  items : List (Item × Slot)
  v : Verdict
  s : State
  maxW : Nat

/-- Present fetched slots for the current context, once its NEXTT results of this bundle count as landed. `lead` gives
member 0's decisions to a follower (R275). -/
def State.presentWords (s : State) (ws : List (Nat × W32)) (lead : Option (Option Nat × Option Nat)) : Presented :=
  let c := s.cur
  let words := ws.map fun (p : Nat × W32) => p.2
  let (items, bad) := itemsOf ws [] 0
  let s1 := s.atWords ws
  let view := s.viewOf ws
  -- flips take effect before the other slots are checked (R182, R199)
  let flip := items.find? fun (t : Item) => match t.ins with
    | some (.owne _) => true
    | some (.ownt _) => true
    | _ => false
  let flipped := match flip with
    | some t =>
      let sl := view.slotAt t
      if sl.legal && sl.traps.isEmpty then sl.eff view else view
    | none => view
  let slots := items.map fun (t : Item) => (t, if flip = some t then view.slotAt t else flipped.slotAt t)
  let sls := slots.map fun (p : Item × Slot) => p.2
  let pres := items.flatMap fun (t : Item) => t.pre.map fun p => ({ legal := wellFormed p } : Slot)
  let wrong := slots.any fun (p : Item × Slot) => p.2.prefixBad (s1.atItem p.1).env
  let judged := match lead with
    | none => sls
    | some (k, y) => (sls.map fun (sl : Slot) => { sl with takenK := none, takenY := none }) ++ [{ takenK := k, takenY := y }]
  let v :=
    if formBad words || readsBad (s.bundleReads ws) then .trap cFORM 0
    else verdict (view.ctx c) s.now (judged ++ pres) (bad || wrong)
  ⟨slots, v, s1, words.foldl (fun (m : Nat) w => max m (fW w).toNat) 0⟩

/-- Present the next bundle of the current context: fetched at its program counter, or taken from member 0 in a gang. -/
def State.presentNext (s : State) : Presented :=
  let x := s.ctx s.cur
  match x.leader, x.gang with
  | some _, g :: _ => s.presentWords g.ws (some (g.takenK, g.takenY))
  | some _, [] => ⟨[], .hold .interlock, s, 0⟩
  | none, _ =>
    match s.fetch s.cur x.pc with
    | .ok ws => s.presentWords ws none
    | .noStop => ⟨[], .trap cFORM 0, s, 0⟩
    | .moving => ⟨[], .hold .interlock, s, 0⟩
    | .fail va => ⟨[], .kill (BitVec.ofNat 64 va), s, 0⟩
    | .psn va => ⟨[], .trap cECC (BitVec.ofNat 64 va), s, 0⟩

/-! ### Reports that stand at the boundary (R312, R329, R330) -/

/-- Has a watch report arrived? -/
def Ctx.reportHere (x : Ctx) : Bool :=
  match x.report with
  | some (_, _, _, _, _, here) => here
  | none => false
/-- Must issue wait for a report on its way: 32 bundles have issued since its write performed? -/
def Ctx.reportLate (x : Ctx) : Bool :=
  match x.report with
  | some (_, _, _, _, n, here) => !here && decide (32 ≤ n)
  | none => false
/-- Deliver a watch report as a stop before the context's next bundle. -/
def State.deliverReport (s : State) (c : Nat) : State :=
  let x := s.ctx c
  match x.report with
  | none => s
  | some (_, a, src, more, _, _) =>
    (takeTrap c cWATCHI (BitVec.ofNat 64 a) x.pc s).modCtx c fun x =>
      { x with trapSrc := if more then src ||| 0x2000000000000000 else src, report := none }

/-- Has a copy that a context issued on a deterministic queue, queued or running, not completed by its padded latency: 720 cycles and two for each 64
bytes (R276)? -/
def State.lateCopy (s : State) (c : Nat) : Bool :=
  let k := s.core (coreOf c)
  let late (q : List CopyCmd) (r : Option CopyRun) : Bool := (q.mapIdx fun j (m : CopyCmd) =>
    m.det && decide (m.ctx = c) && decide (m.rcd = (s.ctx c).rcd) && decide (copyPad m (s.copyForm m (if j = 0 then r else none)) < s.now)).any id
  late k.cq k.crun || late k.gq k.grun

/-- Is an item of a bundle a WFE? -/
def Item.isWfe (t : Item) : Bool := match t.ins with
  | some (.wfe _ _) => true
  | _ => false
/-- A bundle of member 0 as follower m sees it; `none` until m has issued what stands before it (R275, R489). -/
def State.peek (s : State) (m : Nat) (ws : List (Nat × W32)) : Option Presented :=
  let x := s.ctx m
  if x.phase = .run ∧ x.gang = [] ∧ x.nextIssue ≤ s.now
  then some ({ (s.landCtx m) with cur := m, iss := Issue.none }.presentWords ws (some (none, none))) else none
/-- The followers of a gang whose member 0 is context c. -/
def State.followers (s : State) (c : Nat) : List Nat := (s.ctxs.l.filter fun (p : Nat × Ctx) => decide (p.2.leader = some c)).map (·.1)
/-- Is every follower released from the WFE of a bundle, or stopped for good (R489)? -/
def State.wfeFree (s : State) (c : Nat) (ws : List (Nat × W32)) : Bool :=
  (s.followers c).all fun m => match s.peek m ws with
    | some p => (match p.v with
      | .hold _ => false
      | _ => true)
    | none => false
/-- The words of a context's next bundle. -/
def State.nextWords (s : State) (c : Nat) : List (Nat × W32) :=
  match s.fetch c (s.ctx c).pc with
  | .ok ws => ws
  | _ => []

/-- What presenting the next bundle of context c comes to, the reports of the boundary included; `none` is a stop for a
report or an agreement trap. -/
def State.outlook (s : State) (c : Nat) : Option Presented :=
  let s1 := { (s.landCtx c) with cur := c, iss := Issue.none }
  let x := s1.ctx c
  if x.agrTrap.isSome || (x.replay && x.reportHere) then none
  else
    let p := s1.presentNext
    match p.v with
    | .go =>
      if x.reportHere then none
      else if x.reportLate || s1.lateCopy c then some { p with v := .hold .interlock }
      -- the gang issues a WFE once every member is released (R489)
      else if x.leader.isNone && (p.items.any fun (q : Item × Slot) => q.1.isWfe) && !s.wfeFree c (s.nextWords c) then some { p with v := .hold .engine }
      else some p
    | .kill a => if x.reportHere then none else some { p with v := .kill a }
    | _ => some p

/-! ### Issue -/

/-- Would context c's next bundle, presented now, not be held? A trap or kill on a predicted arm holds it (R297). -/
def State.goes (s : State) (c : Nat) : Bool :=
  decide ((s.ctx c).phase = .run) &&
    match s.outlook c with
    | none => true
    | some p => match p.v with
      | .hold _ => false
      | .go => true
      | _ => (s.ctx c).preds.isEmpty

/-- A context is ready (R42): it runs, and no bundle of it is held at issue. -/
def State.ready (s : State) (c : Nat) : Bool :=
  decide ((s.ctx c).phase = .run) && (decide ((s.ctx c).held = .none) || s.goes c)

/-- Chain an outcome. -/
def andThen (o : Host.Outcome State Fault Refusal) (f : State → Host.Outcome State Fault Refusal) :
    Host.Outcome State Fault Refusal :=
  match o with
  | .next s => f s
  | .fault x => .fault x
  | .refused r => .refused r

/-- Run instructions one after the other. -/
def runAll (ex : Instr → State → Host.Outcome State Fault Refusal) : List Instr → State → Host.Outcome State Fault Refusal
  | [], s => .next s
  | i :: r, s => andThen (ex i s) (runAll ex r)

/-- Run the items of one phase of R182 in slot order; slot number `j` sets where its sequence numbers begin, so that results
are numbered in slot order. -/
def runPhase (ex : Instr → State → Host.Outcome State Fault Refusal) (ph base : Nat) :
    Nat → List (Item × Slot) → State → Host.Outcome State Fault Refusal
  | _, [], s => .next s
  | j, (t, sl) :: r, s =>
    if sl.phase ≠ ph then runPhase ex ph base (j + 1) r s
    else
      let s1 := { s with iss := { s.iss with slot := t.addr, vec := t.vec, pfxi := none, pfxp := none } }
      let s2 := s1.modCtx s.cur fun x => { x with nextSeq := base + 256 * j }
      andThen (runAll ex (t.pre ++ t.ins.toList) s2) (runPhase ex ph base (j + 1) r)

/-- Give a bundle that member 0 issues to its followers (R275). -/
def State.feed (s : State) (ws : List (Nat × W32)) : State :=
  let c := s.cur
  let x := s.ctx c
  let g : GangItem := ⟨ws, s.now, s.iss.takenK, s.iss.takenY, (x.r.loopCnt, x.r.loopBegin, x.r.loopEnd)⟩
  { s with ctxs := ⟨s.ctxs.l.map fun (p : Nat × Ctx) =>
      if p.2.leader = some c then (p.1, { p.2 with gang := p.2.gang ++ [g] }) else p⟩ }

/-- A follower takes member 0's decisions and loop registers (R275). -/
def State.follow (s : State) : State :=
  let c := s.cur
  match (s.ctx c).leader, (s.ctx c).gang with
  | some _, g :: r =>
    let s1 := s.modCtx c fun x =>
      { x with gang := r, r := { x.r with loopCnt := g.loop.1, loopBegin := g.loop.2.1, loopEnd := g.loop.2.2 } }
    { s1 with iss := { s1.iss with takenK := g.takenK, takenY := g.takenY } }
  | _, _ => s

/-- Run the slots of a bundle whose verdict is to go. -/
def runBundle (ex : Instr → State → Host.Outcome State Fault Refusal) (p : Presented) (ws : List (Nat × W32)) :
    Host.Outcome State Fault Refusal :=
  let s := p.s.enter
  let base := (s.ctx s.cur).nextSeq
  let go (ph : Nat) : State → Host.Outcome State Fault Refusal := runPhase ex ph base 0 p.items
  andThen (andThen (andThen (andThen (go 0 s) (go 1)) (go 2)) (go 3)) fun s =>
    let s1 := s.modCtx s.cur fun x => { x with nextSeq := base + 256 * p.items.length }
    .next (((s1.feed ws).follow).endBundle p.maxW)

/-- Carry out what presenting the next bundle of context c comes to. A held bundle is presented again in the next cycle. -/
def issueBundle (ex : Instr → State → Host.Outcome State Fault Refusal) (c : Nat) (s0 : State) : Host.Outcome State Fault Refusal :=
  let s := s0.fetched c
  match s.outlook c with
  | none =>
    let s1 := s.landCtx c
    (match (s1.ctx c).agrTrap with
     | some (cause, ticket) =>
       .next ((takeTrap c cause ticket (s1.ctx c).pc s1).modCtx c fun x => { x with agrTrap := none })
     | none => .next (s1.deliverReport c))
  | some p =>
    let sls := p.items.map fun (q : Item × Slot) => q.2
    match p.v with
    | .go => runBundle ex p (match (s.ctx c).leader, (s.ctx c).gang with
        | some _, g :: _ => g.ws
        | _, _ => s.nextWords c)
    | v =>
      let s1 := { (p.s.stopFor c v sls) with iss := Issue.none }
      .next (if (s1.ctx c).phase = .run then s1.modCtx c fun x => { x with nextIssue := max x.nextIssue (s.now + 1) } else s1)

/-! ### Gangs (R275, R276) -/

/-- Cycle in which a member of a gang issues its next bundle: member 0 by its spacing, member m two cycles a member after it. -/
def State.dueOf (s : State) (c : Nat) : Option Nat :=
  let x := s.ctx c
  if x.phase ≠ .run then none
  else match x.leader, x.gang with
    | none, _ => some x.nextIssue
    | some _, g :: _ => some (max x.nextIssue (g.cyc + 2 * x.tmem.toNat))
    | some _, [] => none

/-- Does every member of the gang run, end with it, or stand after a DBRK, STEP or TRAP whose bundle the others have still to issue (R366, R413,
R474)? -/
def State.gangRuns (s : State) (ms : List Nat) : Bool :=
  ms.all fun m => decide ((s.ctx m).phase = .run) || decide ((s.ctx m).phase = .leaving) || decide ((s.ctx m).plan = some 3) ||
    (match (s.ctx m).stop with
     | some st => (s.ctx m).leader.isNone && [cDBRK, cSTEP, cTRAP].contains st.cause
     | none => false)

/-- Hold the whole gang for one cycle, its skew kept (R276). -/
def State.gangWait (s : State) (ms : List Nat) : State :=
  ms.foldl (fun (s : State) m => s.modCtx m fun x =>
    { x with nextIssue := max x.nextIssue s.now + 1, gang := x.gang.map fun (g : GangItem) => { g with cyc := g.cyc + 1 } }) s

/-- Does the next bundle of member 0 hold a WFE, which it waits to issue (R489)? -/
def State.waitsWfe (s : State) (l : Nat) : Bool :=
  match s.outlook l with
  | some p => decide (p.v = .hold .engine) && p.items.any fun (q : Item × Slot) => q.1.isWfe
  | none => false
/-- A follower is presented the WFE of member 0's next bundle: it is held, and what it waits for begins to count (R489). -/
def State.showWfe (s : State) (ws : List (Nat × W32)) (m : Nat) : State :=
  match s.peek m ws with
  | none => s
  | some p => match p.v with
    | .trap _ _ => s
    | .kill _ => s
    | _ => s.setCtx m ((p.s.stopFor m (.hold .engine) (p.items.map fun (q : Item × Slot) => q.2)).ctx m)

/-- Issue the bundles of one cycle of a gang: every member whose turn it is, or none of them; followers first, since member 0's bundle may stop them
(R366). A member that stops, stops alone, and the others wait for it. While member 0 waits to issue a WFE, its followers go on up to that bundle
(R489). -/
def issueGang (ex : Instr → State → Host.Outcome State Fault Refusal) (l : Nat) (s : State) : Host.Outcome State Fault Refusal :=
  let ms := s.gang l
  let all := ms.filter fun m => match s.dueOf m with
    | some t => decide (t ≤ s.now)
    | none => false
  let wfe := all.contains l && decide (1 < ms.length) && s.waitsWfe l
  let due := if wfe then all.filter fun m => decide (m ≠ l) else all
  let free := due.all fun m => s.goes m && decide ((s.core (coreOf m)).issuing = some (m % 4))
  if s.gangRuns ms && free && ms.all (fun m => !(s.ctx m).lateParts s.now && !s.lateCopy m) then
    andThen (((due.filter fun m => decide (m ≠ l)) ++ due.filter fun m => decide (m = l)).foldl (fun o m => andThen o (issueBundle ex m)) (.next s)) fun t =>
      if wfe then andThen (issueBundle ex l t) fun u => .next ((ms.filter fun m => decide (m ≠ l)).foldl (fun (u : State) m => u.showWfe (u.nextWords l) m) u)
      else .next t
  else
    -- what the held members start at their presentation still starts (R412, R489)
    andThen (due.foldl (fun o m => if s.goes m then o else andThen o (issueBundle ex m)) (.next s)) fun s => .next (s.gangWait ms)

end Sys2Proof.Machine
end

