-- ==== Sys2Proof/Machine/Resolve.lean ====
section
/-! DEFINITION. The agreement fabric: contributions, resolution at the root, lateness and lost paths; results at the contexts, and the
Release and Drop of predictions (R207, R283 to R286, R292 to R300, R458). -/

namespace Sys2Proof.Machine

/-! ### Release and Drop (R207, R296) -/

/-- An effect of the basket moves to the queue that it would have entered; a POST waits there for what stands before it (R264). An MCALL enters a full
engine queue as a fifth command, and a VERSION_REJECT record waits for its place (log 78). -/
def State.releaseHeld (s : State) (c : Nat) (h : Held) : State :=
  match h with
  | .mem ls rs =>
    s.modCtx c fun x =>
      let x1 := { x with lsq := x.lsq ++ ls.map fun (e : LEntry) => if e.alone = 0 then e else { e with alone := x.nextSeq } }
      x1.addRout (rs.map fun (r : REntry) => { r with arm := 0, alone := r.alone.map fun _ => x1.lsqDone + x1.lsq.length })
  | .copy e q => s.enqueueCopy e q
  | .mcall q rej => s.enterMcall q rej
  | .launch r => s.sendReq r

/-- Release: the entries made under the oldest prediction move, in order; what hangs on younger ones hangs on one less. -/
def State.release (s : State) (c : Nat) : State :=
  let x := s.ctx c
  let free := x.basket.filter fun (h : Nat × Held) => decide (h.1 ≤ 1)
  let less (n : Nat) : Nat := if armDropped ≤ n then n else n - 1
  let s1 := s.modCtx c fun x =>
    { x with preds := x.preds.drop 1,
             basket := (x.basket.filter fun (h : Nat × Held) => !decide (h.1 ≤ 1)).map fun (h : Nat × Held) => (h.1 - 1, h.2),
             rout := x.rout.map fun (r : REntry) => { r with arm := less r.arm },
             killReport := x.killReport.map fun (k : Nat × Nat × Bool) => (k.1, k.2.1 - 1, k.2.2) }
  let s2 := free.foldl (fun (s : State) (h : Nat × Held) => s.releaseHeld c h.2) s1
  match (s2.ctx c).killReport with
  | some (a, 0, true) => s2.kill c cXLAT (BitVec.ofNat 64 a) true
  | _ => s2

/-- Drop: registers and flow go back to the ABRP's bundle, which decides as the actual result says; nothing of the arm
remains (R293, R296, R297). -/
def State.drop (s : State) (c : Nat) (p : Pred) (d : Decision) : State :=
  let x := s.ctx c
  let taken : Option Nat := match d with
    | .branch (some t) => some t
    | _ => p.other
  let x1 : Ctx :=
    { x with r := { p.regs with slots := x.r.slots }, pending := p.pending, preds := [], basket := [],
             inflight := (x.inflight.filter fun (t : Res) => decide (t.seq < p.seq)).map fun t =>
               if p.seq ≤ t.sup then { t with sup := 0 } else t,
             rout := x.rout.map fun (r : REntry) => if r.arm = 0 then r else { r with arm := armDropped },
             killReport := match x.killReport with
               | some (a, 0, h) => some (a, 0, h)
               | _ => none,
             held := .none, wait := none, wfe := none, fence := none, resumed := false, loopOld := none }
  let x2 := x1.next p.bundle p.after (match d with
    | .trap _ => none
    | _ => taken)
  s.setCtx c (match d with
    | .trap cause => { x2 with pending := none, agrTrap := some (cause, p.ticket) }
    | .branch _ => x2)

/-- Resolve the oldest predictions of context c whose results are in its slots, `n` at most. -/
def State.settlePreds (s : State) (c : Nat) : Nat → State
  | 0 => s
  | n + 1 =>
    match (s.ctx c).preds with
    | [] => s
    | p :: _ =>
      match (s.ctx c).agrSlot p.ticket with
      | some ⟨_, _, some r⟩ =>
        if (r.status = 0 ∨ r.status = 3) ∧ r.dec = p.dir then State.settlePreds (s.release c) c n
        else s.drop c p (r.decide p.target p.xm)
      | _ => s

/-- Write a result into the slots of a register state that hold its ticket (R286). -/
def Regs.putResult (r : Regs) (m : AgrMsg) : Regs :=
  { r with slots := r.slots.map fun (t : AgrSlot) =>
      if t.ticket = m.ticket ∧ t.seq = m.seq then { t with res := some m.res } else t }
/-- Write a result into a context's slots and those of its checkpoints. -/
def Ctx.putResult (x : Ctx) (m : AgrMsg) : Ctx :=
  { x with r := x.r.putResult m, preds := x.preds.map fun (p : Pred) => { p with regs := p.regs.putResult m } }

/-- AGREE_RESULT_ARRIVAL: the i-th result on its way reaches its context and resolves predictions, oldest first; a result for
an EVICTED record is kept with it (R286, R296, R297). -/
def execAgreeResultArrival (i : Nat) (s : State) : Host.Outcome State Fault Refusal :=
  .next (match s.msgs[i]? with
    | none => s
    | some m =>
      let s1 := { s with msgs := s.msgs.eraseIdx i }
      if 4096 ≤ m.ctx then
        (match s1.saved.find (m.ctx - 4096) with
         | none => s1
         | some v => { s1 with saved := s1.saved.set (m.ctx - 4096) { v with ctx := v.ctx.putResult m } })
      else (s1.modCtx m.ctx fun x => x.putResult m).settlePreds m.ctx 2)

/-! ### Resolution at the root (R283, R298, R299) -/

/-- Change a group. -/
def State.modGroup (s : State) (key : Nat) (f : Group → Group) : State :=
  match s.hub.groups.find key with
  | none => s
  | some g => s.modHub fun h => { h with groups := h.groups.set key (f g) }

/-- Is a member behind a lost path (R300)? -/
def State.memberLost (s : State) (m : Member) : Bool :=
  s.hub.lost.contains m.pkg || (decide (m.pkg = s.hub.pkg) && s.hub.lost.contains (1024 + m.die)) ||
    (decide (m.pkg = s.hub.pkg) && s.hub.parts.l.any fun (p : Nat × Part) => p.2.reset && s.partHolds p.1 (m.die * 64 + m.core))

/-- LIVE members that are not present in an instance, by number: none of their contributions has arrived, or they were found absent before. -/
def Group.missing (g : Group) (i : Inst) : List Nat :=
  (List.range g.members.length).filter fun m =>
    ((g.members[m]?.map (·.live)).getD false) && (i.gone.contains m || !(i.got.any fun (c : Contribution) => decide (c.member = m)))

/-- Contributions of the present members, in member order (R298). -/
def Inst.byMember (i : Inst) (n : Nat) : List Contribution :=
  (List.range n).filterMap fun m => if i.gone.contains m then none else i.got.find? fun (c : Contribution) => decide (c.member = m)

/-- The reference tag: the one that most present members hold, and of equals the lowest-numbered member's (R298). -/
def refTag (p : List Contribution) : BitVec 16 :=
  let count (t : BitVec 16) : Nat := (p.filter fun (c : Contribution) => decide (c.tag = t)).length
  (p.foldl (fun (b : Option (BitVec 16)) (c : Contribution) => match b with
    | none => some c.tag
    | some t => if count t < count c.tag then some c.tag else some t) none).getD 0

/-- VALUE and DEC of an operation over the present contributions (R283). -/
def combine (op k : Nat) (p : List Contribution) : W32 × Bool :=
  let n := p.length
  let cnt := (p.filter fun (c : Contribution) => decide (c.value ≠ 0)).length
  let num (v : W32) (d : Bool) : W32 × Bool := (v, d)
  let best (less : W32 → W32 → Bool) : W32 :=
    (p.foldl (fun (b : Option W32) (c : Contribution) => match b with
      | none => some c.value
      | some v => if less c.value v then some c.value else some v) none).getD 0
  match op with
  | 0 => num (BitVec.ofNat 32 cnt) (decide (cnt = n))
  | 1 => num (BitVec.ofNat 32 cnt) (decide (1 ≤ cnt))
  | 2 => num (BitVec.ofNat 32 cnt) (decide (n < 2 * cnt))
  | 3 => num (BitVec.ofNat 32 cnt) (decide (k ≤ cnt))
  | 4 => let v := best fun a b => decide (a.toInt < b.toInt); num v (v != 0)
  | 5 => let v := best fun a b => decide (b.toInt < a.toInt); num v (v != 0)
  | _ => let v := p.foldl (fun (a : W32) (c : Contribution) => a + c.value) 0; num v (v != 0)

/-- A mask of member numbers. -/
def maskOf1024 (ms : List Nat) : BitVec 1024 := ms.foldl (fun (m : BitVec 1024) i => m ||| (1#1024 <<< i)) 0

/-- A result word (R289). -/
def resultWord (value : W32) (status : Nat) (dec : Bool) (npres : Nat) (gen : BitVec 32) : W64 :=
  BitVec.ofNat 64 (value.toNat * 2 ^ 32 + status * 2 ^ 28 + (if dec then 2 ^ 27 else 0) + npres % 2 ^ 11 * 2 ^ 16 + gen.toNat % 2 ^ 16)

/-- The ABSENT form of a result (R285, R299). -/
def AgrRes.absent (r : AgrRes) : AgrRes :=
  { r with word := resultWord 0 2 false (r.word.toNat / 2 ^ 16 % 2 ^ 11) (BitVec.ofNat 32 (r.word.toNat % 2 ^ 16)) }
/-- The result of a group whose members are told ABSENT without a resolution. -/
def Group.noResult (g : Group) : AgrRes := ⟨resultWord 0 2 false 0 g.gen, 0, 0, g.mm⟩

/-- Send a result to a contributing context of this package (R286). -/
def State.tell (s : State) (c : Contribution) (r : AgrRes) : State :=
  match c.ctx with
  | none => s
  | some x =>
    let ticket : W64 := ((BitVec.ofNat 32 c.seq ++ c.tag : BitVec 48) ++ BitVec.ofNat 16 c.gid : BitVec 64)
    { s with msgs := s.msgs ++ [⟨x, ticket, c.seq, r⟩] }

/-- The root of a group (R284): the lowest-numbered package that holds a LIVE member, among those whose path from here is not lost. State holds the
root's part of the agreement wherever the root stands (log 43). -/
def State.rootOf (s : State) (g : Group) : Option Nat :=
  ((g.members.filter fun (m : Member) => m.live && !s.hub.lost.contains m.pkg).map (·.pkg)).min?

/-- May the packages that this one reaches elect a root, or keep it: they hold more than half of the LIVE members, or half with the
lowest-numbered package that holds one (R285)? -/
def State.mayElect (s : State) (g : Group) : Bool :=
  let live := g.members.filter (·.live)
  let here := live.filter fun (m : Member) => !s.hub.lost.contains m.pkg
  decide (live.length < 2 * here.length) ||
    (decide (live.length = 2 * here.length) && (match (live.map (·.pkg)).min? with
      | some p => !s.hub.lost.contains p
      | none => false))

/-- Is a group that is installed now cut off from its root: the path to the lowest-numbered package with a LIVE member is lost, or that package is here,
and this side may not elect (R284, R285)? -/
def State.cutFrom (s : State) (g : Group) : Bool :=
  (match ((g.members.filter (·.live)).map (·.pkg)).min? with
   | some p => decide (p = s.hub.pkg) || s.hub.lost.contains p
   | none => false) && !s.mayElect g

/-- No resolution on this side any more: the group's members here get ABSENT for every unresolved and every later instance (R285). -/
def State.cutGroup (s : State) (key : Nat) (g : Group) : State :=
  g.insts.foldl (fun (s : State) (i : Inst) => i.got.foldl (fun (s : State) c => s.tell c g.noResult) s)
    (s.modGroup key fun g => { g with cut := true, insts := [] })

/-- Resolve an instance: every LIVE member that is not present is absent, and one removed gets ABSENT (R298, R299). LIVE and GEN are written into the
descriptor as well (R282). A root here that then reaches too few of the LIVE members stops resolving (R285). -/
def State.resolveInst (s : State) (key : Nat) (g : Group) (i : Inst) : State :=
  let p := i.byMember g.members.length
  let gone := g.missing i
  let ref := refTag p
  let mis := (p.filter fun (c : Contribution) => decide (c.tag ≠ ref)).map (·.member)
  let status : Nat := if !mis.isEmpty then 1 else if gone.isEmpty then 0 else if g.excl then 3 else 2
  let drop := g.excl && !gone.isEmpty
  let gen := if drop then g.gen + 1 else g.gen
  let (v, dec) := combine g.op g.k p
  let ok := decide (status = 0) || decide (status = 3)
  let r : AgrRes := ⟨resultWord (if ok then v else 0) status (ok && dec) p.length gen, maskOf1024 (p.map (·.member)), maskOf1024 mis, g.mm⟩
  let s1 := s.modGroup key fun g =>
    { g with gen := gen, insts := g.insts.filter (fun (j : Inst) => decide (j.seq ≠ i.seq)), past := g.past ++ [(i.seq, r)],
             members := if drop then g.members.mapIdx fun m (q : Member) => if gone.contains m then { q with live := false } else q
               else g.members }
  let s2 := if drop then
      gone.foldl (fun (s : State) m => let l := hsLoc (g.addr + 64 + 4 * m); s.wr l 4 (s.rd l 4 % 2 ^ 31))
        (s1.wr (hsLoc (g.addr + 8)) 4 gen.toNat)
    else s1
  let s3 := i.got.foldl (fun (s : State) (c : Contribution) => s.tell c (if drop && gone.contains c.member then r.absent else r)) s2
  match s3.hub.groups.find key with
  | some g' => if drop && decide (s.rootOf g = some s.hub.pkg) && !s3.mayElect g' then s3.cutGroup key g' else s3
  | none => s3

/-- Has every missing member of an instance been found absent or lost, or is none missing? -/
def State.resolvable (s : State) (g : Group) (i : Inst) : Bool :=
  (g.missing i).all fun m => match g.members[m]? with
    | some q => i.gone.contains m || s.memberLost q
    | none => true
/-- Resolve the instances of a group that wait for no member, n at most: a resolution that takes members out of LIVE leaves others with every remaining
LIVE member present (R298). -/
def State.settleGroup (key : Nat) : Nat → State → State
  | 0, s => s
  | n + 1, s =>
    match s.hub.groups.find key with
    | none => s
    | some g =>
      match g.insts.find? fun (i : Inst) => s.resolvable g i with
      | none => s
      | some i => State.settleGroup key n (s.resolveInst key g i)
/-- Resolve an instance, and what waits for no member after it. -/
def State.resolveFrom (s : State) (key : Nat) (g : Group) (i : Inst) : State := State.settleGroup key g.insts.length (s.resolveInst key g i)

/-- Resolve an instance if every missing member has been found absent or is lost, or none is missing. -/
def State.tryResolve (s : State) (key seq : Nat) : State :=
  match s.hub.groups.find key with
  | none => s
  | some g =>
    match g.insts.find? fun (i : Inst) => decide (i.seq = seq) with
    | none => s
    | some i => if s.resolvable g i then s.resolveFrom key g i else s

/-- Has the deadline of an instance passed: LATE ticks after the first stamp (R298)? -/
def State.overdue (s : State) (g : Group) (i : Inst) : Bool := decide (g.late ≠ 0) && decide (i.first + g.late ≤ s.ftb)
/-- An instance whose deadline has passed resolves without its missing members (R298). -/
def State.expire (s : State) (key seq : Nat) : State :=
  match s.hub.groups.find key with
  | none => s
  | some g =>
    match g.insts.find? fun (i : Inst) => decide (i.seq = seq) with
    | none => s
    | some i => if s.overdue g i then s.resolveFrom key g i else s

/-- Put a contribution into its instance, or answer it where the instance is over, its member removed or its package cut off
(R285, R298, R299). A member behind a lost path is absent (R300). -/
def State.enterInst (s : State) (c : Contribution) : State :=
  let key := groupKey c.vf c.gid
  match s.hub.groups.find key with
  | none => s
  | some g =>
    let m := g.members[c.member]?
    let live := (m.map (·.live)).getD false
    match g.past.find? fun (q : Nat × AgrRes) => decide (q.1 = c.seq) with
    | some (_, r) => s.tell c (if live then r else r.absent)
    | none =>
      if !live || g.cut then s.tell c g.noResult
      else
        let old := (g.insts.find? fun (i : Inst) => decide (i.seq = c.seq)).getD ⟨c.seq, c.stamp, [], []⟩
        let new : Inst := { old with first := min old.first c.stamp, got := old.got ++ [c],
                                     gone := if (m.map s.memberLost).getD false then old.gone ++ [c.member] else old.gone }
        (s.modGroup key fun g =>
          { g with insts := (g.insts.filter fun (i : Inst) => decide (i.seq ≠ c.seq)) ++ [new] }).tryResolve key c.seq
/-- A contribution reaches the root: after its instance's deadline it comes too late (R298). -/
def State.contribute (s : State) (c : Contribution) : State := (s.expire (groupKey c.vf c.gid) c.seq).enterInst c

/-- AGREE_CONTRIBUTION_ARRIVAL: a contribution of another package, or the i-th one on its way here, reaches the root. -/
def execAgreeContributionArrival (i : Nat) (outside : Option Contribution) (s : State) : Host.Outcome State Fault Refusal :=
  .next (match outside with
    | some c => s.contribute { c with ctx := none }
    | none =>
      match s.contribs[i]? with
      | none => s
      | some c => State.contribute { s with contribs := s.contribs.eraseIdx i } c)

/-- AGREE_LATE_EXPIRY: LATE ticks after the first stamp the missing members are absent (R298). -/
def execAgreeLateExpiry (vf gid seq : Nat) (s : State) : Host.Outcome State Fault Refusal :=
  .next (s.expire (groupKey vf gid) seq)

/-! ### Lost paths (R285, R300) -/

/-- A group after the loss of a path; `root` is its root before. Where the path to the root is lost, or the root is here, this side resolves on only if
it may elect (R285); a package that still reaches a root elsewhere goes on with it. Missing members behind a lost path are absent in every unresolved
instance (R300), and where the root itself is lost the members of lost packages, whose contributions the new root does not get again (R285). -/
def State.groupLoss (s : State) (root : Option Nat) (key : Nat) : State :=
  match s.hub.groups.find key with
  | none => s
  | some g =>
    let votes := match root with
      | none => true
      | some p => decide (p = s.hub.pkg) || s.hub.lost.contains p
    if votes && !s.mayElect g then s.cutGroup key g
    else
      let moved := match root with
        | none => false
        | some p => s.hub.lost.contains p
      let lostOf (i : Inst) : List Nat :=
        ((g.missing i).filter fun m => ((g.members[m]?.map s.memberLost).getD false)) ++
          (if moved then (List.range g.members.length).filter fun m => ((g.members[m]?.map fun (q : Member) => s.hub.lost.contains q.pkg).getD false) else [])
      let s1 := s.modGroup key fun g => { g with insts := g.insts.map fun (i : Inst) => { i with gone := (i.gone ++ lostOf i).eraseDups } }
      g.insts.foldl (fun (s : State) (i : Inst) => s.tryResolve key i.seq) s1
/-- Every group after a loss, with the roots that stood before it. -/
def State.groupsLoss (s : State) (before : State) : State :=
  s.hub.groups.keys.foldl (fun (s : State) key => s.groupLoss ((before.hub.groups.find key).bind before.rootOf) key) s

/-- The remote operations of context c towards what is lost complete: those that have not performed are discarded (R300). -/
def State.loseRemote (s : State) (c : Nat) : State :=
  (s.ctx c).rout.foldl (fun (s : State) (r : REntry) =>
    if r.phase = 0 ∧ s.pathLost (coreOf c) r.op.va then s.remoteDone c r.id (deadValue r.op) else s) s

/-- LINK_LOSS: the path to a package is lost, or with 1,024 + d that to compute die d of this package. -/
def execLinkLoss (pkg : Nat) (s : State) : Host.Outcome State Fault Refusal :=
  .next (if pkg = s.hub.pkg then s
    else
      let s1 := s.modHub fun h => { h with lost := if h.lost.contains pkg then h.lost else h.lost ++ [pkg] }
      let s2 := s1.ctxs.keys.foldl State.loseRemote s1
      s2.groupsLoss s)

end Sys2Proof.Machine
end

