-- ==== Sys2Proof/Machine/Stops.lean ====
section
/-! DEFINITION. Stops: STOP_FREEZE, the delivery of trap entries and the responses to them, watch and fault reports, and ECC errors
(R48, R311 to R313, R317 to R320, R329 to R331, R343, R344, R366, R373, R458). -/

namespace Sys2Proof.Machine

/-! ### Freezing (R313, R314, R318) -/

/-- May the context freeze: its F has come and every variable result has returned and landed; NEXTT requests need only have
returned? -/
def Ctx.mayFreeze (x : Ctx) (now : Nat) : Bool :=
  decide (x.phase = .stopping) &&
    (match x.stop with
     | some st => decide (st.f ≤ now)
     | none => false) &&
    x.inflight.all fun (t : Res) => if t.file = .n then t.back now else t.fixed && decide (t.need = 0)

/-- In a gang, a stop of member 0 that the others share freezes it once every follower stands with it (R366, R413, R474). -/
def State.gangStands (s : State) (c cause : Nat) : Bool :=
  !([cDBRK, cSTEP, cTRAP].contains cause) || s.ctxs.l.all fun (p : Nat × Ctx) =>
    decide (p.2.leader ≠ some c) || decide (p.2.plan = some 3) || decide (p.2.phase = .idle) || decide (p.2.phase = .leaving)

/-- STOP_FREEZE: the results visible by F land, the others keep their distance from F, and the context is frozen. A stop other than
PREEMPT sends its trap entry; with member 0's STEP the gang freezes (R313, R318, R366, R371). A context stopped again before its
snapshot replayed keeps the distances that it had. -/
def execStopFreeze (c : Nat) (s : State) : Host.Outcome State Fault Refusal :=
  .next (
    let x := s.ctx c
    match x.stop with
    | none => s
    | some st =>
      if !(x.mayFreeze s.now && s.gangStands c st.cause) then s
      else
        let s1 := s.landCtx c
        let s2 := s1.modCtx c fun y =>
          { y with phase := .frozen, replay := true,
                   inflight := if y.replay then y.inflight else y.inflight.map fun (t : Res) =>
                     if t.fixed then { t with due := t.due - st.f } else t,
                   stop := some { st with sent := decide (st.cause ≠ cPREEMPT) } }
        let s3 := if st.cause = cPREEMPT then s2 else s2.sendTrap c st.cause false
        if s3.hub.dbgCtl.getLsbD 62 then s3.traceRec 2 c st.cause x.pc x.scyc else s3)

/-! ### Trap entries (R318, R343) -/

/-- The eight dwords of a trap entry. -/
def TrapEntry.dwords (t : TrapEntry) (pkg : Nat) : List Nat :=
  let k := coreOf t.ctx
  [t.cause * 2 ^ 56 + (if t.act then 2 ^ 48 else 0) + pkg % 2 ^ 10 * 2 ^ 38 + dieOf k * 2 ^ 36 + exposedOf k * 2 ^ 30 + t.ctx % 4 * 2 ^ 28
     + t.vf * 2 ^ 21,
   t.rcd, t.pc, t.addr.toNat, t.src.toNat, 0, 0, 0]

/-- Is a cause delegated to the function's own handler (R343)? -/
def State.delegated (s : State) (vf cause : Nat) : Bool :=
  decide (vf ≠ 0x7F) && (match s.vfWord vf 1 with
    | some d => decide (d / 2 ^ cause % 2 = 1)
    | none => false)

/-- The lowest-numbered hart that runs: the one to which HS's external interrupt is raised (R343). -/
def State.hsHart (s : State) : Option Nat := (List.range 8).find? fun i => s.hub.hartRun.getLsbD i

/-- Has HS's queue a free slot (R343, log 29)? -/
def State.hsRoom (s : State) : Bool := decide (s.hub.hsProd - s.hub.hsCons < s.hub.hsSlots)
/-- An entry goes to HS's queue, with its interrupt. -/
def State.toHs (s : State) (t : TrapEntry) : State :=
  s.modHub fun h => { h with hsq := h.hsq ++ [t], hsProd := h.hsProd + 1, hsIrq := s.hsHart }
/-- HS's handler writes its consumer index: the entries before it leave the queue, and the interrupt falls when none is left (R343). -/
def State.hsConsume (s : State) (v : W64) : State :=
  let n := (v.toNat + 2 ^ 64 - s.hub.hsCons % 2 ^ 64) % 2 ^ 64
  if s.hub.hsCons + n ≤ s.hub.hsProd then s.modHub fun h =>
    { h with hsCons := h.hsCons + n, hsq := h.hsq.drop n, hsIrq := if h.hsCons + n = h.hsProd then none else s.hsHart }
  else s

/-- Write dwords from a location on. -/
def State.wrDwords (s : State) (l : Nat) : List Nat → State
  | [] => s
  | w :: r => State.wrDwords (s.wr l 8 w) (l + 8) r

/-- Does an entry go to HS, delegated or not (R343)? -/
def TrapEntry.copied (t : TrapEntry) : Bool := decide (t.cause = cECC) || t.act
/-- Has every queue that an entry goes to a free slot (R343)? -/
def State.trapRoom (s : State) (t : TrapEntry) : Bool :=
  match s.delegated t.vf t.cause, s.hub.vfs.find t.vf with
  | true, some v => decide (v.tqProd - v.tqCons < v.d[11].toNat % 2 ^ 16) && (!t.copied || s.hsRoom)
  | _, _ => s.hsRoom

/-- TRAP_ENTRY_DELIVERY: the oldest entry that its queues have room for enters them (R343). -/
def execTrapEntryDelivery (s : State) : Host.Outcome State Fault Refusal :=
  .next (
    match s.hub.traps.findIdx? s.trapRoom with
    | none => s
    | some i =>
      match s.hub.traps[i]? with
      | none => s
      | some t =>
        let s1 := s.modHub fun h => { h with traps := h.traps.eraseIdx i }
        match s.delegated t.vf t.cause, s.hub.vfs.find t.vf with
        | true, some v =>
          let l := hsLoc (v.d[10].toNat + 64 * (v.tqProd % (v.d[11].toNat % 2 ^ 16)))
          let s2 := (s1.wrDwords l (t.dwords s.hub.pkg)).modHub fun h =>
            { h with vfs := h.vfs.set t.vf { v with tqProd := v.tqProd + 1 },
                     vsIrq := if h.vsIrq.contains t.vf then h.vsIrq else h.vsIrq ++ [t.vf] }
          if t.copied then s2.toHs t else s2
        | _, _ => s1.toHs t)

/-! ### Responses (R319, R344) -/

/-- TRESP_RESUME: the snapshot replays and issue goes on. -/
def execTrespResume (rec vf : Nat) (s : State) : Host.Outcome State Fault Refusal := .next (s.respond 0 rec vf).2
/-- TRESP_KILL: the context is killed with the trap's cause. -/
def execTrespKill (rec vf : Nat) (s : State) : Host.Outcome State Fault Refusal := .next (s.respond 1 rec vf).2
/-- TRESP_EVICT: the sequencer evicts the context, and its whole team (R40). -/
def execTrespEvict (rec vf : Nat) (s : State) : Host.Outcome State Fault Refusal := .next (s.respond 2 rec vf).2

/-! ### Reports (R329, R330, R458) -/

/-- WATCH_REPORT_ARRIVAL: the report stands before the context's next bundle (R329). -/
def execWatchReportArrival (c : Nat) (s : State) : Host.Outcome State Fault Refusal :=
  .next (s.modCtx c fun x => { x with report := x.report.map fun (t, a, src, m, n, _) => (t, a, src, m, n, true) })

/-- REMOTE_FAULT_REPORT: a report of a failed translation kills the context, or waits for the Release of the predictions under which
its bundle stood (R297, R458). -/
def execRemoteFaultReport (c : Nat) (s : State) : Host.Outcome State Fault Refusal :=
  .next (match (s.ctx c).killReport with
    | none => s
    -- a bundle that ended the run reports too late (log 89)
    | some (a, 0, _) => if (s.ctx c).phase = .idle then s.modCtx c fun x => { x with killReport := none } else s.kill c cXLAT (BitVec.ofNat 64 a) true
    | some (a, n, _) => s.modCtx c fun x => { x with killReport := some (a, n, true) })

/-! ### ECC errors (R320, R331, R373) -/

/-- Does a die have error counter i (R373)? -/
def hasCounter (die i : Nat) : Bool :=
  if die = 4 then decide (6 ≤ i) && decide (i ≤ 10) else decide (die < 4) && (decide (i ≤ 5) || decide (i = 8))
/-- Key of an error counter. -/
def errKey (die i : Nat) : Nat := die * 16 + i
/-- Add to an error counter, saturating. -/
def State.countErr (s : State) (die i : Nat) : State :=
  if hasCounter die i then s.modHub fun h =>
    let v := h.errcnt.get (errKey die i) 0
    { h with errcnt := h.errcnt.set (errKey die i) (if v = ~~~(0 : W64) then v else v + 1) }
  else s

/-- The counter that an error of a dword of this package counts in, corrected or not: near tier, far tier or CXL by its physical address (R169, R373). -/
def State.countTier (s : State) (loc : Nat) (bad : Bool) : State :=
  let b := if bad then 1 else 0
  let pa := loc % 2 ^ 42
  if 2 ^ 54 ≤ loc then s
  else if loc / 2 ^ 44 ≠ s.hub.home then s
  else if pa < 0x00C00000000 then s.countErr (loc / 2 ^ 42 % 4) (2 + b)
  else if pa < 0x07000000000 then s.countErr (loc / 2 ^ 42 % 4) (4 + b)
  else s.countErr 4 (6 + b)

/-- A corrected error of a core's SRAM or register files counts in ERR_ECC (R320). -/
def State.countEcc (s : State) (k : Nat) : State := s.modCore k fun x => x.countEcc s.now

/-- ECC_CORRECTED_ERROR: repaired in place and counted where the spec names a counter: it names none for the hub's memory or a memory-side MMU
(log 70). -/
def execEccCorrectedError (site : EccSite) (s : State) : Host.Outcome State Fault Refusal :=
  .next (match site with
    | .core k => s.countEcc k
    | .register c _ _ _ => s.countEcc (coreOf c)
    | .latch c _ _ => s.countEcc (coreOf c)
    | .bank k _ _ => s.countEcc k
    | .weights k => s.countEcc k
    | .store k _ => s.countEcc k
    | .counter d i => s.countErr d i
    | .dword l =>
      if 2 ^ 54 ≤ l ∧ l < 2 ^ 60 then
        -- a scratchpad is SRAM of its core
        let k := (l - 2 ^ 54) / 2 ^ 23
        if k / 256 = s.hub.pkg then s.countEcc (k % 256) else s
      else s.countTier l false
    | .shared _ (.sequencer cl) => s.countEcc (256 + cl)
    | .shared _ (.l2 d) => s.countErr d 0
    | .shared _ (.ownerMap k) => s.countEcc k
    | .shared _ (.mmu _) => s)

end Sys2Proof.Machine
end

