-- ==== Sys2Proof/Machine/Save.lean ====
section
/-! DEFINITION. The save area of an eviction: its layout, its write and its restore (R49, R50, R315, R316, R368, R369). -/

namespace Sys2Proof.Machine

/-- Write zero to a range: bytes and poison go. -/
def State.zeroRange (s : State) (l n : Nat) : State :=
  { s with mem := ⟨s.mem.cells.filter fun (p : Host.Cell) => decide (p.1 < l) || decide (l + n ≤ p.1)⟩,
           poison := s.poison.filter fun d => decide (d < l / 8) || decide ((l + n) / 8 ≤ d) }

/-- A field of a save area: offset, bytes, value. -/
abbrev Field := Nat × Nat × Nat

/-- Write fields from a base location. -/
def State.wrFields (s : State) (base : Nat) (fs : List Field) : State :=
  fs.foldl (fun (s : State) (f : Field) => s.wr (base + f.1) f.2.1 f.2.2) s

/-- Dwords of a list, eight bytes each. -/
def fields64 (base : Nat) (vs : List W64) : List Field := vs.mapIdx fun i v => (base + 8 * i, 8, v.toNat)
/-- 256-byte values of a list. -/
def fieldsWide (base : Nat) (vs : List Wide) : List Field := vs.mapIdx fun i v => (base + 256 * i, 256, v.toNat)

/-- Tile slots that a context holds, rising, with their O bits. -/
def State.heldSlots (s : State) (c : Nat) : List (Nat × Bool) :=
  let k := coreOf c
  (s.slots.l.filter fun p => decide (p.1 / 2048 = k) && decide (p.2.1 = c % 4)).map fun p => (p.1 % 2048, p.2.2.1)

/-- Bytes of the ENG region, a form of the model's own (R368; log 20). -/
def engBytes (x : Ctx) (banks : Nat) (weights : Bool) : Nat :=
  4096 + x.basket.length * 512 + x.preds.length * 0x8000 + banks * 0x21000 + (if weights then 0x9000 else 0)

/-- Banks whose last user is context c (R50). -/
def State.ownBanks (s : State) (c : Nat) : List Nat :=
  [0, 1, 2, 3].filter fun b => decide ((s.core (coreOf c)).user.toList.getD b none = some c)

/-- Length of the state of context c in 4 KiB units (R49, R368). -/
def State.saveUnits (s : State) (c : Nat) : Nat :=
  let w := decide ((s.core (coreOf c)).wuser = some c)
  (0x8000 + 4096 * (1 + (s.heldSlots c).length) + engBytes (s.ctx c) (s.ownBanks c).length w + 4095) / 4096

/-- Control dword of a snapshot entry (R316): REM counts cycles from F, or bundles for an n result. -/
def entryDword (x : Ctx) (t : Res) (seq : Nat) : Nat :=
  let rem := if t.file = .n then t.bun - x.bundles else t.due
  2 ^ 63 + t.file.code * 2 ^ 60 + t.idx % 32 * 2 ^ 55 + (if t.lm then 2 ^ 54 else 0) + (if t.psn ≠ 0 then 2 ^ 53 else 0)
    + t.flags.toNat * 2 ^ 48 + seq % 2 ^ 16 * 2 ^ 32 + rem % 2 ^ 16

/-- The snapshot: header and entries (R315, R316). -/
def snapshotFields (x : Ctx) : List Field :=
  let pend := match x.pending with
    | some p => 2 ^ 63 + p % 2 ^ 54 / 4 * 4
    | none => 0
  let d0 := pend + (if x.wsk then 2 ^ 62 else 0) + (if x.report.isSome then 2 ^ 61 else 0)
  [(0x40, 8, d0), (0x48, 8, x.inflight.length), (0x50, 8, x.pc % 2 ^ 54 / 4 * 4), (0x58, 8, 0)] ++
    (x.inflight.map fun (t : Res) =>
      let i := (x.inflight.filter fun (u : Res) => decide (u.seq < t.seq)).length
      let b := 0x60 + 288 * i
      let bits := match t.file with
        | .v => 2048
        | .g => 128
        | _ => 64
      ([(b, 8, entryDword x t i), (b + 8, 8, if t.lm then t.lanes.toNat else 0), (b + 32, 256, t.val.toNat % 2 ^ bits)] : List Field)).flatten

/-- Status registers of scope CTX (R86). -/
def ctxSrs : List Nat :=
  [0x000, 0x001, 0x002, 0x003, 0x004, 0x005, 0x008, 0x009, 0x00A, 0x00B, 0x010, 0x011, 0x012, 0x018, 0x020, 0x021, 0x022, 0x030, 0x031,
   0x040, 0x041, 0x042, 0x043, 0x050, 0x051, 0x052, 0x053, 0x070, 0x071]
/-- Those that a restore takes from the save area. -/
def restoredSrs : List Nat :=
  [0x008, 0x009, 0x00A, 0x00B, 0x010, 0x011, 0x012, 0x020, 0x021, 0x022, 0x031, 0x040, 0x041, 0x042, 0x043, 0x050, 0x051, 0x052, 0x053, 0x070]

/-- The registers and poison bits of a save area (R368). -/
def State.registerFields (s : State) (c : Nat) : List Field :=
  let x := s.ctx c
  let r := x.r
  let sr (n : Nat) : W64 := match n with
    | 0x010 => r.loopCnt
    | 0x011 => r.loopBegin
    | 0x012 => r.loopEnd
    | _ => s.readSr c n
  fields64 0x3800 (r.x.toList.set 0 0) ++ fields64 0x3900 (r.y.toList.set 0 0) ++ fields64 0x3A00 r.q.toList ++ fields64 0x3A40 r.m.toList ++
    r.g.toList.mapIdx (fun i (v : BitVec 128) => (0x3A80 + 16 * i, 16, v.toNat)) ++ fields64 0x3B00 x.n.toList ++
    ctxSrs.map (fun n => (0x3C00 + 8 * n, 8, (sr n).toNat)) ++ fieldsWide 0x4000 r.v.toList ++ fieldsWide 0x6000 r.latch.toList ++
    [(0x7000, 4, r.xp.toNat), (0x7004, 4, r.yp.toNat)] ++ fields64 0x7008 r.vp.toList ++ fields64 0x7108 r.latchp.toList

/-- The save header (R369). -/
def State.headerFields (s : State) (c units tiles : Nat) : List Field :=
  let x := s.ctx c
  [(0, 8, 2 ^ 48 + units % 2 ^ 16 * 2 ^ 32), (8, 8, x.rcd), (16, 8, x.scyc),
   (24, 8, (if x.stepMode then 2 ^ 63 else 0) + (if x.posted then 2 ^ 62 else 0)), (32, 8, 0x8000), (40, 8, 0x8000 + 4096 * (1 + tiles))]

/-- Copy n bytes from one location to another. -/
def State.copyRange (s : State) (src dst n : Nat) : State :=
  (s.mem.cells.filter fun (p : Host.Cell) => decide (src ≤ p.1) && decide (p.1 < src + n)).foldl
    (fun (s : State) (p : Host.Cell) => { s with mem := s.mem.write (dst + (p.1 - src)) p.2 }) s
/-- Copy a 4 KiB tile with its poison marks, the destination being zero. -/
def State.copyTile (s : State) (src dst : Nat) : State :=
  let s1 := s.copyRange src dst 4096
  let marks := (s1.poison.filter fun d => decide (src / 8 ≤ d) && decide (d < src / 8 + 512)).map fun d => d - src / 8 + dst / 8
  { s1 with poison := marks.foldl insertSorted s1.poison }

/-- Write the save area of context c (R368). -/
def State.writeArea (s : State) (c : Nat) (sv : SaveRef) : State :=
  let base := hsLoc (sv.unit * 4096)
  let held := s.heldSlots c
  let k := coreOf c
  let map := held.foldl (fun (n : Nat) (h : Nat × Bool) => n + 2 ^ h.1) 0
  let s1 := (s.zeroRange base (sv.units * 4096)).wrFields base
    (s.headerFields c sv.units held.length ++ snapshotFields (s.ctx c) ++ s.registerFields c ++ [(0x8000, 192, map)])
  (held.mapIdx fun i (h : Nat × Bool) => (i, h.1)).foldl (fun (s : State) (p : Nat × Nat) =>
    s.copyTile (spLoc (s.key (s.owner k)) (k % 64) (p.2 * 4096)) (base + 0x9000 + 4096 * p.1)) s1

/-- What the ENG region keeps (R49, R50, R368). -/
def State.engSaved (s : State) (c : Nat) : Saved :=
  let x := s.ctx c
  let k := s.core (coreOf c)
  let bank (b : Nat) : SavedBank :=
    ⟨b, k.banks.l.filter fun (p : Nat × W32) => decide (p.1 / 32768 = b), k.bankPsn.filter fun r => decide (r / 256 = b), k.ver.toList.getD b 0⟩
  ⟨{ x with pins := [], report := x.report.map fun (t, a, src, m, n, _) => (t, a, src, m, n, true) },
   (s.ownBanks c).map bank,
   if k.wuser = some c then some ⟨k.cells, k.scales, k.latch, k.mxOn, k.wnf, k.wpsn⟩ else none, s.heldSlots c⟩

/-- A context number inside what a basket holds. -/
def Held.toCtx (h : Held) (c : Nat) : Held :=
  match h with
  | .copy e q => .copy e { q with ctx := c }
  | .mcall q r => .mcall { q with ctx := c } r
  | .launch r => .launch { r with ctx := c, core := coreOf c }
  | .mem ls rs => .mem ls rs

/-- Read a field. -/
def State.field (s : State) (base ofs n : Nat) : Nat := s.rd (base + ofs) n

/-- The registers of a context from its save area (R368). -/
def State.loadRegs (s : State) (base : Nat) (x : Ctx) : Ctx :=
  let d (ofs : Nat) : W64 := BitVec.ofNat 64 (s.field base ofs 8)
  let w (ofs : Nat) : Wide := BitVec.ofNat 2048 (s.field base ofs 256)
  let x1 : Ctx := { x with
    r := { x.r with
      x := Vector.ofFn fun (i : Fin 32) => d (0x3800 + 8 * i.val)
      y := Vector.ofFn fun (i : Fin 32) => d (0x3900 + 8 * i.val)
      q := Vector.ofFn fun (i : Fin 8) => d (0x3A00 + 8 * i.val)
      m := Vector.ofFn fun (i : Fin 8) => d (0x3A40 + 8 * i.val)
      g := Vector.ofFn fun (i : Fin 8) => BitVec.ofNat 128 (s.field base (0x3A80 + 16 * i.val) 16)
      v := Vector.ofFn fun (i : Fin 32) => w (0x4000 + 256 * i.val)
      latch := Vector.ofFn fun (i : Fin 16) => w (0x6000 + 256 * i.val)
      xp := BitVec.ofNat 32 (s.field base 0x7000 4)
      yp := BitVec.ofNat 32 (s.field base 0x7004 4)
      vp := Vector.ofFn fun (i : Fin 32) => d (0x7008 + 8 * i.val)
      latchp := Vector.ofFn fun (i : Fin 16) => d (0x7108 + 8 * i.val) }
    n := Vector.ofFn fun (i : Fin 4) => d (0x3B00 + 8 * i.val)
    nrot := BitVec.ofNat 2 (s.field base (0x3C00 + 8 * 0x018) 8) }
  let d0 := s.field base 0x40 8
  let x2 := restoredSrs.foldl (fun (x : Ctx) n => x.writeSr n (d (0x3C00 + 8 * n))) x1
  { x2 with pc := s.field base 0x50 8 % 2 ^ 54 / 4 * 4,
            pending := if d0 / 2 ^ 63 = 1 then some (d0 % 2 ^ 54 / 4 * 4) else none,
            stepMode := decide (s.field base 24 8 / 2 ^ 63 = 1) }

/-- Give tiles, banks and weights back to context c (R49, R50). -/
def State.giveBack (s : State) (c : Nat) (sv : SaveRef) (v : Saved) : State :=
  let k := coreOf c
  let base := hsLoc (sv.unit * 4096)
  let s1 := (v.tiles.mapIdx fun i (h : Nat × Bool) => (i, h)).foldl (fun (s : State) (p : Nat × Nat × Bool) =>
    let dst := spLoc (s.key (s.owner k)) (k % 64) (p.2.1 * 4096)
    ((s.zeroRange dst 4096).copyTile (base + 0x9000 + 4096 * p.1) dst).setSlot k p.2.1 (c % 4, p.2.2, some v.ctx.vf, false)) s
  s1.modCore k fun q =>
    let q1 := v.banks.foldl (fun (q : CoreSt) (b : SavedBank) =>
      { q with banks := b.words.foldl (fun (t : Table W32) (p : Nat × W32) => t.set p.1 p.2)
                 ⟨q.banks.l.filter fun (p : Nat × W32) => decide (p.1 / 32768 ≠ b.bank)⟩,
               bankPsn := b.psn.foldl insertSorted (q.bankPsn.filter fun r => decide (r / 256 ≠ b.bank)),
               ver := q.ver.set (b.bank % 4) b.ver (Nat.mod_lt _ (by decide)),
               user := q.user.set (b.bank % 4) (some c) (Nat.mod_lt _ (by decide)) }) q
    match v.weights with
    | none => q1
    | some w => { q1 with cells := w.cells, scales := w.scales, latch := w.latch, mxOn := w.mxOn, wnf := w.wnf, wpsn := w.wpsn, wuser := some c }

/-! ### The save pool (R49, R340, R355) -/

/-- First unit and length in units of a partition's save pool. -/
def State.pool (s : State) (p : Nat) : Nat × Nat :=
  let w := s.partWord p 7 % 2 ^ 54 / 4096
  (w, s.rd (hsLoc (w * 4096) + 32) 4)

/-- Save areas in use. -/
def State.areas (s : State) : List SaveRef :=
  (s.clusters.l.flatMap fun (q : Nat × ClusterSt) => q.2.ready.filterMap (·.evicted)) ++ s.ctxs.l.filterMap fun (p : Nat × Ctx) => p.2.save

/-- Is a run of n units from u free and above the pool's first 4 KiB? -/
def State.runFree (s : State) (p u n : Nat) : Bool :=
  let (b, len) := s.pool p
  decide (b < u) && decide (u + n ≤ b + len) && s.areas.all fun (a : SaveRef) => decide (u + n ≤ a.unit) || decide (a.unit + a.units ≤ u)

/-- The lowest-addressed free run of n units: it begins where the pool does or where another run ends. -/
def State.freeRun (s : State) (p n : Nat) : Option Nat :=
  (((s.pool p).1 + 1) :: s.areas.map fun (a : SaveRef) => a.unit + a.units).foldl (fun (b : Option Nat) u =>
    if s.runFree p u n then (match b with
      | none => some u
      | some m => some (min m u)) else b) none

end Sys2Proof.Machine
end

