-- ==== Sys2Proof/Machine/Sequencer.lean ====
section
/-! DEFINITION. The sequencer and the issue selector: entering work, admission, pick-up, waits, pre-emption, quanta, eviction and the
switch between contexts (R28 to R33, R38 to R40, R44, R49 to R54, R149, R256 to R270, R275, R277, R330, R489). -/

namespace Sys2Proof.Machine

/-! ### Records (R24 to R30) -/

/-- The eight words of a record, when its address translates. -/
def State.recWords (s : State) (vf addr : Nat) : Option (Vector W64 8) :=
  if (List.range 8).all fun i => (s.recRead vf addr i).isSome
  then some (Vector.ofFn fun (i : Fin 8) => BitVec.ofNat 64 ((s.recRead vf addr i.val).getD 0)) else none

/-- Does a record fail the checks of R28: V = 0, a reserved field or KIND, or a JCB wait that is not aligned? -/
def malformed (w : Vector W64 8) : Bool :=
  let n0 := w[0].toNat
  let n6 := w[6].toNat
  let kind := n6 / 2 ^ 60
  !(w[0].getLsbD 63) || decide (n0 / 2 ^ 54 % 4 ≠ 0) || decide (n0 % 4 ≠ 0) || decide (n6 / 2 ^ 54 % 64 ≠ 0) || decide (n6 % 8 ≠ 0)
    || decide (w[7].toNat / 2 ^ 42 % 64 ≠ 0) || (decide (4 ≤ kind) && decide (kind ≠ 15)) || (decide (kind = 1) && decide (n6 % 64 ≠ 0))

/-- Post a sequencer completion record with STATUS FAULT for a record (R263). -/
def State.postFault (s : State) (cl ctx addr vf : Nat) : State := s.postRec cl (s.mkRec stFAULT 5 ctx 0 1 addr 0 vf)

/-- A malformed record is written FAULT with CAUSE 0 and reported (R28). -/
def State.faultMalformed (s : State) (cl ctx vf addr : Nat) : State := (s.recFault vf addr 0).postFault cl ctx addr vf

/-- A record becomes FAULT outside a context: it is counted and posted as a kill is (R263). -/
def State.faultRecord (s : State) (cl ctx vf addr cause : Nat) (posted : Bool) : State :=
  let jcb := BitVec.ofNat 48 ((s.recRead vf addr 1).getD 0)
  ((s.recFault vf addr cause).countFault vf jcb posted).postFault cl ctx addr vf

/-! ### Where a record may run -/

/-- Is the residency gate of a function open on a die, its tenant not on its way out and its partition not in reset (R265, R352, R356)? -/
def State.gateOpen (s : State) (vf d : Nat) : Bool :=
  if vf = 0x7F then true
  else match s.partOf vf with
    | none => false
    | some p =>
      match s.hub.parts.find p with
      | none => false
      | some q => decide (q.tenant = some vf) && q.tick.isNone && q.gates.getLsbD d && !q.reset

/-- Cores of a cluster: die * 8 + cluster. -/
def clusterCores (cl : Nat) : List Nat := (List.range 8).map fun i => cl / 8 * 64 + cl % 8 * 8 + i
/-- Exposed cores of a cluster that a partition holds. -/
def State.partCores (s : State) (p cl : Nat) : List Nat := (clusterCores cl).filter fun k => (s.core k).exposed && s.partHolds p k
/-- Is a cluster of a partition a deterministic queue (R275, R340)? -/
def State.detCluster (s : State) (p cl : Nat) : Bool := decide (s.partWord p 1 / 2 ^ cl % 2 = 1)
/-- The team quantum of a partition in cycles (R53, R340). -/
def State.quantumOf (s : State) (p : Nat) : Nat := 2 ^ (s.partWord p 0 / 2 ^ 49 % 32)

/-- May a context take a record: it holds none, and what its last record left in the LSQ and ROUT has gone (log 21)? -/
def Ctx.free (x : Ctx) : Bool := decide (x.phase = .idle) && x.lsq.isEmpty && x.rout.isEmpty

/-- Contexts of a cluster that hold members of a team. -/
def State.teamCtxs (s : State) (cl : Nat) (r : RecRef) : List Nat :=
  (s.ctxs.l.filter fun (p : Nat × Ctx) => decide (1 < r.tsize) && decide (p.2.phase ≠ .idle) && decide (p.2.team = r.team) &&
    decide (p.2.vf = r.vf) && decide (clusterOf (coreOf p.1) = cl)).map (·.1)

/-- May the saved banks and weights of a record be restored (R50)? -/
def State.restorable (s : State) (k : Nat) (v : Saved) : Bool :=
  let q := s.core k
  let used (u : Option Nat) : Bool := match u with
    | some c => decide ((s.ctx c).phase ≠ .idle)
    | none => false
  (v.banks.isEmpty && v.weights.isNone) ||
    ((match q.mrun with
      | none => true
      | some r => r.ended.isSome) &&
     v.banks.all (fun (b : SavedBank) => !s.bankBusy k b.bank && !used (q.user.toList.getD b.bank none)) && !(v.weights.isSome && used q.wuser))

/-- Is every slot of a range free (R149)? -/
def State.slotsFree (s : State) (k : Nat) (is : List Nat) : Bool :=
  is.all fun i => decide (i < 128 * (s.core k).spk) && decide ((s.slotOf k i).1 = 4) && !(s.slotOf k i).2.2.2

/-- May context c take record r of its cluster (R40, R49, R50, R149, R265, R340, R361)? -/
def State.fits (s : State) (r : RecRef) (c : Nat) : Bool :=
  let k := coreOf c
  let q := s.core k
  let inReset := match s.hub.parts.find r.part with
    | some p => p.reset
    | none => true
  (s.ctx c).free && !isSeq k && q.exposed && !q.retiring && s.partHolds r.part k && !inReset && s.gateOpen r.vf (dieOf k) &&
    (s.teamCtxs (clusterOf k) r).all (fun m => decide (coreOf m ≠ k)) &&
    match r.evicted with
    | none => s.slotsFree k ((List.range r.foot).map (· + r.fslot))
    | some sv => decide (sv.core = k) && (match s.saved.find sv.unit with
      | none => false
      | some v => s.slotsFree k (v.tiles.map (·.1)) && s.restorable k v)

/-! ### The order of pick-up (R52 to R54) -/

/-- Records of the ready list that belong to a record's team. -/
def State.teamRefs (s : State) (cl : Nat) (r : RecRef) : List RecRef :=
  if r.tsize ≤ 1 then [r] else (s.cluster cl).ready.filter fun (t : RecRef) => decide (t.team = r.team) && decide (t.vf = r.vf)

/-- Is member m of a record's team neither NEW nor WAITING, by the STATE of its record (R28, R40)? -/
def State.memberHeld (s : State) (r : RecRef) (m : Nat) : Bool :=
  match s.recRead r.vf (r.team + 64 * m) 7 with
  | some w => decide (w / 2 ^ 56 ≠ 0) && decide (w / 2 ^ 56 ≠ 3)
  | none => false
/-- Is a pre-emption or an eviction of the context under way? -/
def Ctx.goingOut (x : Ctx) : Bool := decide (x.plan = some 1) || decide (x.plan = some 2)

/-- Does the record's team await pick-up: alone, beside running teammates of which none is on its way out, or with every member that has not ended
READY or EVICTED (R40)? -/
def State.awaits (s : State) (cl : Nat) (r : RecRef) : Bool :=
  decide (r.tsize ≤ 1) ||
    (if (s.teamCtxs cl r).isEmpty then (List.range r.tsize).all fun m => s.memberHeld r m
     else (s.teamCtxs cl r).all fun m => !(s.ctx m).goingOut)

/-- Rank of a record: promoted, PRIO, and the cycle in which its team became READY. -/
def State.rank (s : State) (cl : Nat) (r : RecRef) : Bool × Nat × Nat :=
  if (s.teamCtxs cl r).isEmpty then
    (s.teamRefs cl r).foldl (fun (b : Bool × Nat × Nat) (t : RecRef) => (b.1 || t.promoted, max b.2.1 t.prio, max b.2.2 t.stamp))
      (r.promoted, r.prio, r.stamp)
  else (r.promoted, r.prio, r.stamp)

/-- Does a rank come before another? -/
def ranksBefore (a b : Bool × Nat × Nat) : Bool :=
  if a.1 ≠ b.1 then a.1 else if a.2.1 ≠ b.2.1 then decide (b.2.1 < a.2.1) else decide (a.2.2 < b.2.2)

/-- Sorted insertion that keeps the order of equals. -/
def insertRef (s : State) (cl : Nat) (r : RecRef) : List RecRef → List RecRef
  | [] => [r]
  | t :: ts => if ranksBefore (s.rank cl r) (s.rank cl t) then r :: t :: ts else t :: insertRef s cl r ts

/-- The records of a cluster that await pick-up, in order. -/
def State.queue (s : State) (cl : Nat) : List RecRef :=
  ((s.cluster cl).ready.filter fun (r : RecRef) => s.awaits cl r).foldl (fun (l : List RecRef) r => insertRef s cl r l) []

/-- Is a context kept for a promoted team that stands earlier in the queue and does not fit yet: it takes the first contexts that become free (R54)? -/
def State.reserved (s : State) (cl : Nat) (ahead : List RecRef) (c : Nat) : Bool :=
  ahead.any fun (t : RecRef) => t.promoted && (s.teamRefs cl t).any fun u => s.fits u c

/-- Place a team member by member on distinct cores, those bound to a core first; `pref` is a core to use first (R40, R275). -/
def State.placeTeam (s : State) (cl pref : Nat) (ahead : List RecRef) : List RecRef → List (RecRef × Nat) → Option (List (RecRef × Nat))
  | [], got => some got
  | r :: rs, got =>
    let cores := match r.evicted with
      | some sv => [sv.core]
      | none =>
        if r.det && decide (1 < r.tsize) then ((s.partCores r.part cl)[r.member]?).toList
        else pref :: (clusterCores cl).filter fun k => decide (k ≠ pref)
    let avail := cores.filter fun k => got.all fun (g : RecRef × Nat) => decide (coreOf g.2 ≠ k)
    match (avail.flatMap fun k => [0, 1, 2, 3].map fun i => k * 4 + i).find? fun c => s.fits r c && !s.reserved cl ahead c with
    | none => none
    | some c => State.placeTeam s cl pref ahead rs (got ++ [(r, c)])

/-- The records of the teams whose members the sequencer looks at are accessed (R168). -/
def State.teamsSeen (s : State) (cl : Nat) : State :=
  (s.cluster cl).ready.foldl (fun (s : State) r =>
    if r.tsize ≤ 1 then s else (List.range r.tsize).foldl (fun (s : State) m => s.seenAt r.vf (r.team + 64 * m)) s) s

/-- The contexts that a record's pick-up would take, context c's core first; `ahead` stands before it in the queue. -/
def State.placement (s : State) (cl c : Nat) (ahead : List RecRef) (r : RecRef) : Option (List (RecRef × Nat)) :=
  if 1 < r.tsize ∧ (s.teamCtxs cl r).isEmpty then
    let team := s.teamRefs cl r
    s.placeTeam cl (coreOf c) ahead (team.filter (·.evicted.isSome) ++ team.filter (·.evicted.isNone)) []
  else if s.fits r c && !s.reserved cl ahead c then some [(r, c)] else none

/-- Can the record be placed anywhere? -/
def State.placeable (s : State) (cl : Nat) (ahead : List RecRef) (r : RecRef) : Bool :=
  (clusterCores cl).any fun k => [0, 1, 2, 3].any fun i => (s.placement cl (k * 4 + i) ahead r).isSome
/-- The first record of a queue that can be placed, with the records of other teams before it. -/
def State.nextPick (s : State) (cl : Nat) : List RecRef → List RecRef → Option (RecRef × List RecRef)
  | _, [] => none
  | ahead, r :: rs =>
    let others := ahead.filter fun (t : RecRef) => !(decide (t.team = r.team) && decide (t.vf = r.vf) && decide (1 < r.tsize))
    if s.placeable cl others r then some (r, others) else State.nextPick s cl (ahead ++ [r]) rs

/-! ### Pick-up (R33, R49, R149, R157, R364) -/

/-- Grant the footprint: a slot that another tenant held is written with zero first (R149). -/
def State.grant (s : State) (c vf : Nat) (is : List Nat) : State :=
  let k := coreOf c
  is.foldl (fun (s : State) i =>
    let s1 := if (s.slotOf k i).2.2.1 = some vf then s else s.zeroRange (spLoc (s.key (s.owner k)) (k % 64) (i * 4096)) 4096
    s1.setSlot k i (c % 4, false, some vf, false)) s

/-- Contributions and results that name one context name another (R297). -/
def State.retarget (s : State) (a b : Nat) : State :=
  let f (c : Contribution) : Contribution := if c.ctx = some a then { c with ctx := some b } else c
  { s with contribs := s.contribs.map f, msgs := s.msgs.map fun (m : AgrMsg) => if m.ctx = a then { m with ctx := b } else m,
           hub := { s.hub with groups := ⟨s.hub.groups.l.map fun (p : Nat × Group) =>
             (p.1, { p.2 with insts := p.2.insts.map fun (i : Inst) => { i with got := i.got.map f } })⟩ } }

/-- Word 7 at pick-up (R33). -/
def pickWord (w7 c : Nat) : Nat :=
  let k := coreOf c
  2 * 2 ^ 56 + c % 4 * 2 ^ 40 + dieOf k * 2 ^ 38 + exposedOf k * 2 ^ 32 + (w7 + 1) % 2 ^ 32

/-- What pick-up sets in a context, whether it loads or restores. -/
def Ctx.taken (y old : Ctx) (r : RecRef) (c : Nat) (leader : Option Nat) (w : Vector W64 8) (now : Nat) : Ctx :=
  { y with
    phase := .loading, rcd := r.addr, words := w.set 7 (BitVec.ofNat 64 (pickWord w[7].toNat c)), vf := r.vf, part := r.part
    prv := decide (r.vf = 0x7F), seqr := isSeq (coreOf c), tmem := BitVec.ofNat 3 r.member, jcb := w[1].setWidth 48
    idx := w[1].extractLsb' 48 16, lquo := r.lquo, nextSeq := max y.nextSeq old.nextSeq, lsqDone := old.lsqDone, picked := now
    quantum := now, team := r.team, tsize := r.tsize, foot := r.foot, fslot := r.fslot, nextIssue := now, leader := leader
    promoted := r.promoted, barred := none, ran := (y.pc, y.scyc) }

/-- The first state of a context for a READY record (R33). -/
def Ctx.fresh (w : Vector W64 8) (lquo : Nat) : Ctx :=
  { Ctx.idle with
    r := { Regs.zero with
      x := (((Regs.zero.x.set 1 w[2]).set 2 w[3]).set 3 w[4]).set 4 w[5]
      schk := w[0].getLsbD 62 }
    pc := w[0].toNat % 2 ^ 54
    lockQuota := BitVec.ofNat 64 lquo }

/-- Context c picks up one record (R33). -/
def State.pickOne (s : State) (cl : Nat) (r : RecRef) (c : Nat) (leader : Option Nat) : State :=
  let s0 := s.modCluster cl fun q => { q with ready := q.ready.erase r }
  match s.recWords r.vf r.addr with
  | none => s0.postFault cl c r.addr r.vf
  | some w =>
    if malformed w then s0.faultMalformed cl c r.vf r.addr
    else
      let old := s.ctx c
      let s1 := s0.recWrite r.vf r.addr 7 (pickWord w[7].toNat c)
      match r.evicted with
      | none =>
        (s1.grant c r.vf ((List.range r.foot).map (· + r.fslot))).setCtx c ((Ctx.fresh w r.lquo).taken old r c leader w s.now)
      | some sv =>
        match s.saved.find sv.unit with
        | none => s1
        | some v =>
          let x := s.loadRegs (hsLoc (sv.unit * 4096)) v.ctx
          let y := { x with save := some sv, basket := x.basket.map fun (h : Nat × Held) => (h.1, h.2.toCtx c) }
          let s2 := (s1.giveBack c sv v).setCtx c (y.taken old r c leader w s.now)
          { s2.retarget (4096 + sv.unit) c with saved := s2.saved.del sv.unit }

/-- PICK_UP: the first record or team that can be placed takes its context, or all its contexts together, when c is among them
(R32, R33, R40, R52). -/
def execPickUp (c : Nat) (s : State) : Host.Outcome State Fault Refusal :=
  .next (
    let cl := clusterOf (coreOf c)
    if isSeq (coreOf c) then s
    else
      let t := s.teamsSeen cl
      match t.nextPick cl [] (t.queue cl) with
      | none => t
      | some (r, ahead) =>
        match t.placement cl c ahead r with
        | none => t
        | some ps =>
          if ps.any fun (p : RecRef × Nat) => decide (p.2 = c) then
            let lead := if r.det && decide (1 < r.tsize)
              then (ps.find? fun (p : RecRef × Nat) => decide (p.1.member = 0)).map (·.2) else none
            ps.foldl (fun (t : State) (p : RecRef × Nat) =>
              t.pickOne cl p.1 p.2 (if lead = some p.2 then none else lead)) t
          else t)

/-- PICK_UP_LOAD_COMPLETE: the context is ready to issue; a gang completes together, with its skew (R33, R49, R275, R297). -/
def execPickUpLoadComplete (c : Nat) (s : State) : Host.Outcome State Fault Refusal :=
  .next (
    let cs := s.gang (s.leaderOf c)
    if cs.contains c && cs.all (fun m => decide ((s.ctx m).phase = .loading)) then
      let s1 := (s.resumeAll cs)
      cs.foldl (fun (s : State) m =>
        let s1 := s.modCtx m fun x => { x with replay := x.save.isSome, save := none }
        let s2 := s1.settlePreds m 2
        -- a pre-emption of the team that began while the member loaded stops it too (R40)
        if (s.mates m).any fun n => (s.ctx n).goingOut then s2.preempt m 1 else s2) s1
    else s)

/-! ### Waits (R28, R31, R469) -/

/-- Is a wait condition met? `none` when the wait word fails translation. -/
def State.waitMet (s : State) (vf : Nat) (w6 arg3 : W64) : Option Bool :=
  let a := w6.toNat % 2 ^ 54 / 8 * 8
  match w6.toNat / 2 ^ 60 with
  | 1 => (s.xlatVa vf (a + 24) .rd).map fun x => !s.poisoned x.loc && decide (s.rd x.loc 8 / 2 ^ 63 = 1)
  | 2 => (s.xlatVa vf a .rd).map fun x => !s.poisoned x.loc && reached (s.rd64 x.loc) arg3
  | 3 => some (reached (BitVec.ofNat 64 s.ftb) arg3)
  | _ => some true

/-- The word that a wait condition reads is accessed (R168). -/
def State.waitSeen (s : State) (vf : Nat) (w6 : W64) : State :=
  let a := w6.toNat % 2 ^ 54 / 8 * 8
  match w6.toNat / 2 ^ 60 with
  | 1 => s.seenAt vf (a + 24)
  | 2 => s.seenAt vf a
  | _ => s

/-- WAIT_CONDITION_MET: the i-th waiting record of a cluster becomes READY when its condition holds; a record that is malformed, or whose
wait word fails translation, becomes FAULT. -/
def execWaitConditionMet (cl i : Nat) (s : State) : Host.Outcome State Fault Refusal :=
  .next (match (s.cluster cl).waiting[i]? with
    | none => s
    | some r =>
      let drop (t : State) : State := t.modCluster cl fun q => { q with waiting := q.waiting.eraseIdx i }
      let seen := s.seenAt r.vf r.addr
      let gone := drop seen
      let slot0 := cl / 8 * 64 * 4 + cl % 8 * 8 * 4
      match s.recWords r.vf r.addr with
      | none => gone.faultRecord cl slot0 r.vf r.addr cXLAT false
      | some w =>
        if malformed w then gone.faultMalformed cl slot0 r.vf r.addr
        else match s.waitMet r.vf w[6] w[5] with
          | none => gone.faultRecord cl slot0 r.vf r.addr cXLAT false
          | some false => seen.waitSeen r.vf w[6]
          | some true =>
            ((drop (seen.waitSeen r.vf w[6])).recWrite r.vf r.addr 7 (withState w[7].toNat 1 0)).modCluster cl fun q =>
              { q with ready := q.ready ++ [{ r with stamp := s.now }] })

/-! ### Entering work (R257, R261, R266 to R269, R277) -/

/-- Records of a function that count towards L in a cluster; the firmware of its sequencer runs none (R256, R268). -/
def State.launched (s : State) (cl vf : Nat) : Nat :=
  ((s.cluster cl).dep.map fun (d : DepEntry) => if d.vf = vf then d.count - d.done.length else 0).sum +
    ((s.cluster cl).ready.filter fun (r : RecRef) => decide (r.vf = vf)).length +
    (s.ctxs.l.filter fun (p : Nat × Ctx) => decide (clusterOf (coreOf p.1) = cl) && !isSeq (coreOf p.1) && decide (p.2.phase ≠ .idle) && decide (p.2.vf = vf)).length

/-- Is a descriptor refused (R39, R261)? A field outside the range that R257 gives it is refused as well (log 88), and FSLOT + FOOT is held against the
cores that some partition holds, which alone have a size k (log 59). -/
def State.descBad (s : State) (part cl : Nat) (d : List W64) (f c : Nat) : Bool :=
  let w (i : Nat) : Nat := (d.getD i 0).toNat
  let team := decide (w 0 / 2 ^ 62 % 2 = 1)
  let size := w 0 / 2 ^ 59 % 8 + 1
  let foot := w 0 / 2 ^ 48 % 2 ^ 11
  let fslot := w 0 / 2 ^ 37 % 2 ^ 11
  let count := w 0 % 2 ^ 32
  let badInput (n : Nat) : Bool :=
    let x := w (2 * n + 2)
    let k := x / 2 ^ 60
    decide (3 ≤ k) || decide (x / 2 ^ 54 % 2 = 1) || decide (x % 8 ≠ 0) || (decide (k = 1) && decide (x / 8 % 8 ≠ 0))
      || (decide (k = 2) && decide (16 < x / 2 ^ 55 % 32))
  decide (w 0 / 2 ^ 63 = 0) || (!team && decide (size ≠ 1)) || (decide (w 0 / 2 ^ 36 % 2 = 0) && decide (w 0 / 2 ^ 32 % 16 ≠ 0))
    || decide (count = 0) || decide (65536 < count) || decide (1536 < foot) || decide (count < f + c)
    || (clusterCores cl).any (fun k => (s.core k).exposed && (s.corePart k).isSome && decide (128 * (s.core k).spk < fslot + foot))
    || (team && (decide (count % size ≠ 0) || decide (f % size ≠ 0) || decide ((s.partCores part cl).length < size)))
    || badInput 0 || badInput 1 || badInput 2

/-- Does RFMT name a rounded format (R277)? -/
def roundedFmt (f : Nat) : Bool := decide (f ≤ 7) || decide (f = 13)

/-- Status of a request that reaches the sequencer, with the descriptor it read (R266, R414). -/
def State.launchStatus (s : State) (cl : Nat) (r : LaunchReq) : Nat × List W64 :=
  let f := r.xb.toNat % 2 ^ 32
  let c := r.xb.toNat / 2 ^ 32
  let part := if r.vf = 0x7F then s.corePart r.core else s.partOf r.vf
  let dw (i : Nat) : Option W64 := (s.xlatVa r.vf (r.desc + 8 * i) .rd).bind fun x =>
    if s.anyPoison x.loc 8 then none else some (s.rd64 x.loc)
  let ds := (List.range 8).filterMap dw
  match part with
  | none => (stFAULT, [])
  | some p =>
    if (r.dispatch ∧ 95 < r.vf) ∨ (s.partCores p cl).isEmpty ∨ ds.length < 8 ∨ c = 0 ∨ s.descBad p cl ds f c then (stFAULT, [])
    else
      let d0 := (ds.getD 0 0).toNat
      let lq := s.partWord p 0 / 2 ^ 32 % 2 ^ 17
      if s.detCluster p cl && decide (d0 / 2 ^ 36 % 2 = 1) && roundedFmt (d0 / 2 ^ 32 % 16) then (stDET, [])
      else if 1024 ≤ (s.cluster cl).dep.length then (stQUOTA, [])
      else if !r.dispatch && decide (lq < s.launched cl r.vf - (if r.don then 1 else 0) + c) then (stQUOTA, [])
      else (stOK, ds)

/-- May a request of the list be taken: one held at a Release waits for the LSQ and ROUT of its context (R266, R294)? -/
def State.reqReady (s : State) (r : LaunchReq) : Bool := !r.held || ((s.ctx r.ctx).lsq.isEmpty && (s.ctx r.ctx).rout.isEmpty)

/-- LAUNCH_REQUEST_ARRIVAL: the oldest request that does not wait is entered or refused; a request whose context no longer runs its record
is dropped (R266 to R269). The record of a refusal waits for a place in a full event queue; the request does not (R161, log 49). -/
def execLaunchRequestArrival (cl : Nat) (s : State) : Host.Outcome State Fault Refusal :=
  .next (match (s.cluster cl).reqs.findIdx? s.reqReady with
    | none => s
    | some i =>
      match (s.cluster cl).reqs[i]? with
      | none => s
      | some r =>
        let s1 := s.modCluster cl fun q => { q with reqs := q.reqs.eraseIdx i }
        let compl (st : Nat) : CRec := s.mkRec st 4 r.ctx 0 1 r.desc r.xb.toNat r.vf
        if (s.ctx r.ctx).phase = .idle ∨ (s.ctx r.ctx).rcd ≠ r.rcd then
          (s1.modCluster cl fun q => { q with errLaunch := satAdd q.errLaunch 1 }).postRec cl (compl stGONE)
        else
          let (st, ds) := s.launchStatus cl r
          let s2 := (s1.seenAt r.vf r.desc).deliver r.ctx r.seq (wide64 (BitVec.ofNat 64 st)) 0
          if st = stOK then
            let part := (if r.vf = 0x7F then s.corePart r.core else s.partOf r.vf).getD 0
            s2.modCluster cl fun q =>
              { q with dep := q.dep ++ [⟨ds, r.desc, r.xb.toNat % 2 ^ 32, r.xb.toNat / 2 ^ 32, r.vf, part, r.core, r.ctx, [], [], s.now⟩] }
          else s2.postRec cl (compl st))

/-! ### Admission (R258 to R260, R265, R275) -/

/-- Is input n of instance i of an entry ready (R258)? -/
def State.inputReady (s : State) (d : DepEntry) (i n : Nat) : Bool :=
  let x := (d.desc.getD (2 * n + 2) 0).toNat
  let a := x % 2 ^ 54 / 8 * 8
  match x / 2 ^ 60 with
  | 0 => true
  | 1 => (match s.xlatVa d.vf (a + 24) .rd with
    | some l => !s.poisoned l.loc && decide (s.rd l.loc 8 / 2 ^ 63 = 1)
    | none => false)
  | _ => (match s.xlatVa d.vf (a + 8 * (i / 2 ^ (x / 2 ^ 55 % 32))) .rd with
    | some l => !s.poisoned l.loc && reached (s.rd64 l.loc) (d.desc.getD (2 * n + 3) 0)
    | none => false)

/-- Inputs of an instance that have been found ready. -/
def DepEntry.mask (d : DepEntry) (i : Nat) : BitVec 3 := ((d.found.find? fun (p : Nat × BitVec 3 × Nat) => decide (p.1 = i)).map (·.2.1)).getD 0
/-- The cycle in which the last of them was found. -/
def DepEntry.since (d : DepEntry) (i : Nat) : Nat := ((d.found.find? fun (p : Nat × BitVec 3 × Nat) => decide (p.1 = i)).map (·.2.2)).getD 0
/-- That mask with what is ready now. -/
def State.inputs (s : State) (d : DepEntry) (i : Nat) : BitVec 3 :=
  [0, 1, 2].foldl (fun (m : BitVec 3) n => if s.inputReady d i n then putBit m n true else m) (d.mask i)

/-- The instances of an entry that are not done with. -/
def DepEntry.open (d : DepEntry) : List Nat := ((List.range d.count).map (d.first + ·)).filter fun i => !d.done.contains i
/-- The words of an entry's inputs that the sequencer reads are accessed (R168). -/
def State.inputsSeen (s : State) (d : DepEntry) : State :=
  d.open.foldl (fun (s : State) i => [0, 1, 2].foldl (fun (s : State) n =>
    let x := (d.desc.getD (2 * n + 2) 0).toNat
    let a := x % 2 ^ 54 / 8 * 8
    match x / 2 ^ 60 with
    | 0 => s
    | 1 => s.seenAt d.vf (a + 24)
    | _ => s.seenAt d.vf (a + 8 * (i / 2 ^ (x / 2 ^ 55 % 32)))) s) s
/-- The sequencer looks at the inputs of an entry: what it finds ready stays so, with the cycle (R258, R260). -/
def State.look (s : State) (d : DepEntry) : DepEntry :=
  { d with found := d.open.foldl (fun (l : List (Nat × BitVec 3 × Nat)) i =>
      let m := s.inputs d i
      if m = d.mask i then l else (i, m, s.now) :: l.filter fun (p : Nat × BitVec 3 × Nat) => decide (p.1 ≠ i)) d.found }
/-- The sequencer looks at every entry of its table. -/
def State.scan (s : State) (cl : Nat) : State :=
  ((s.cluster cl).dep.foldl State.inputsSeen s).modCluster cl fun q => { q with dep := q.dep.map s.look }
/-- May instance i of an entry be admitted now, its order among ready instances apart: every input was found ready, the gate is open and the request
was entered in an earlier cycle (R260, R265, R269)? -/
def State.admissible (s : State) (cl : Nat) (d : DepEntry) (i : Nat) : Bool :=
  d.open.contains i && decide (d.mask i = 7) && s.gateOpen d.vf (cl / 8) && decide (d.born < s.now)
/-- Is it the first to be admitted: no admissible instance of the table became ready in an earlier cycle, nor a lower one of its entry in the same
cycle (R260)? -/
def State.admitFirst (s : State) (cl e i : Nat) (d : DepEntry) : Bool :=
  ((s.cluster cl).dep.mapIdx fun e' (d' : DepEntry) => d'.open.all fun j =>
    !(s.admissible cl d' j) || decide (d.since i < d'.since j) || (decide (d.since i = d'.since j) && (decide (e' ≠ e) || decide (i ≤ j)))).all id

/-- Replace entry e of a cluster, or free it when every instance is done with (R259). -/
def State.setDep (s : State) (cl e : Nat) (d : DepEntry) : State :=
  s.modCluster cl fun q => { q with dep := if d.count ≤ d.done.length then q.dep.eraseIdx e else q.dep.set e d }

/-- Admit an instance whose record is at `addr` (R260). -/
def State.takeIn (s : State) (cl : Nat) (d : DepEntry) (i : Nat) : State :=
  let w (n : Nat) : Nat := (d.desc.getD n 0).toNat
  let addr := (w 1 % 2 ^ 48 * 64 + 64 * i) % 2 ^ 64
  let team := decide (w 0 / 2 ^ 62 % 2 = 1)
  let size := if team then w 0 / 2 ^ 59 % 8 + 1 else 1
  match s.recWords d.vf addr with
  | none => s.postFault cl d.ctx addr d.vf
  | some r =>
    if r[7].toNat / 2 ^ 56 ≠ 0 then (s.seenAt d.vf addr).postFault cl d.ctx addr d.vf
    else if malformed r || decide (r[0].getLsbD 61 ≠ s.detCluster d.part cl) then s.faultMalformed cl d.ctx d.vf addr
    else
      let ref : RecRef := ⟨addr, d.vf, d.part, w 0 / 2 ^ 48 % 2 ^ 11, w 0 / 2 ^ 37 % 2 ^ 11, w 1 / 2 ^ 48, addr - 64 * (i % size), size, i % size,
        (r[0].extractLsb' 56 4).toNat, r[0].getLsbD 61, s.now, none, false⟩
      (s.recWrite d.vf addr 7 (withState r[7].toNat 1 0)).modCluster cl fun q => { q with ready := q.ready ++ [ref] }

/-- Every sequencer looks at its table, as it does in every cycle (R258, R260). -/
def State.scanAll (s : State) : State := s.clusters.keys.foldl State.scan s

/-- ADMISSION: the sequencer of a cluster looks at its table, and admits instance i of the e-th entry when it is ready, the gate is open and no other
is before it in the order in which instances became ready (R258, R260, R265). -/
def execAdmission (cl e i : Nat) (s : State) : Host.Outcome State Fault Refusal :=
  .next (
    let t := s.scan cl
    match (t.cluster cl).dep[e]? with
    | none => t
    | some d =>
      if t.admissible cl d i && t.admitFirst cl e i d then (t.setDep cl e { d with done := d.done ++ [i] }).takeIn cl d i
      else t)

/-! ### Pre-emption, quanta and promotion (R52 to R55) -/

/-- A record that awaits pick-up in a cluster and could run there. -/
def State.pressing (s : State) (cl : Nat) (r : RecRef) : Bool := s.awaits cl r && s.gateOpen r.vf (cl / 8)

/-- The running contexts of a function in a cluster whose team is not on its way out: context, highest PRIO of the team, cycle of its pick-up. -/
def State.victims (s : State) (cl vf : Nat) : List (Nat × Nat × Nat) :=
  (s.ctxs.l.filter fun (p : Nat × Ctx) => decide (clusterOf (coreOf p.1) = cl) && !isSeq (coreOf p.1) && decide (p.2.vf = vf) &&
    decide (p.2.phase = .run) && (s.mates p.1).all fun m => !(s.ctx m).goingOut).map fun (p : Nat × Ctx) =>
      (p.1, (s.mates p.1).foldl (fun (n : Nat) m => max n (s.ctx m).prio) 0, p.2.picked)

/-- PRIORITY_PREEMPTION: with no idle context in the cluster and no eviction under way, the team with the lowest PRIO,
of equals the one that has run longest, gives way to a READY record of its tenant with a higher one (R52). -/
def execPriorityPreemption (cl : Nat) (s : State) : Host.Outcome State Fault Refusal :=
  .next (match (s.queue cl).find? fun (r : RecRef) => s.pressing cl r && !((s.victims cl r.vf).filter fun v => decide (v.2.1 < r.prio)).isEmpty with
    | none => s
    | some r =>
      let ctxs := ((clusterCores cl).filter fun k => (s.core k).exposed).flatMap fun k => [0, 1, 2, 3].map fun i => k * 4 + i
      if ctxs.any (fun c => decide ((s.ctx c).phase = .idle)) || ctxs.any fun c => decide ((s.ctx c).plan = some 1) then s
      else
        match (s.victims cl r.vf).foldl (fun (b : Option (Nat × Nat × Nat)) v => match b with
          | none => some v
          | some u => if v.2.1 < u.2.1 ∨ (v.2.1 = u.2.1 ∧ v.2.2 < u.2.2) then some v else some u) none with
        | none => s
        | some v => if (s.ctx v.1).barred.isSome then s else s.preemptTeam v.1 1)

/-- Has a save area freed since the context's eviction found no run (R49)? -/
def State.runFreed (s : State) (x : Ctx) : Bool := match x.barred with
  | some l => l.any fun (a : SaveRef) => !s.areas.contains a
  | none => false

/-- TEAM_QUANTUM_EXPIRY: at the end of its quantum the team of context c gives way if another team of the cluster awaits pick-up, and runs on
otherwise (R53). A victim that found no free run is tried again then, or when a run frees (R49). A member that has stopped for a trap joins once its
response has come (R312). -/
def execTeamQuantumExpiry (c : Nat) (s : State) : Host.Outcome State Fault Refusal :=
  .next (
    let x := s.ctx c
    let cl := clusterOf (coreOf c)
    let ms := s.mates c
    let ended := decide (x.quantum + s.quantumOf x.part ≤ s.now)
    if x.phase = .run ∧ !isSeq (coreOf c) ∧ (ended || s.runFreed x) ∧ !(ms.any fun m => (s.ctx m).goingOut) then
      (if (s.cluster cl).ready.any fun (r : RecRef) => s.awaits cl r && !(decide (r.team = x.team) && decide (r.vf = x.vf) && decide (1 < r.tsize))
       then s.preemptTeam c 1
       else ms.foldl (fun (s : State) m => s.modCtx m fun y =>
         { y with quantum := if ended then s.now else y.quantum, promoted := y.promoted && !ended, barred := none }) s)
    else s)

/-- TEAM_PROMOTION: a team that has awaited pick-up for 16 quanta goes before every PRIO (R54). -/
def execTeamPromotion (cl i : Nat) (s : State) : Host.Outcome State Fault Refusal :=
  .next (match (s.cluster cl).ready[i]? with
    | none => s
    | some r =>
      if s.awaits cl r && decide ((s.rank cl r).2.2 + 16 * s.quantumOf r.part ≤ s.now) then
        s.modCluster cl fun q => { q with ready := q.ready.map fun (t : RecRef) =>
          if t.addr = r.addr ∨ (1 < r.tsize ∧ t.team = r.team ∧ t.vf = r.vf) then { t with promoted := true } else t }
      else s)

/-! ### Eviction (R49, R208, R319, R330) -/

/-- Does an engine hold a command of the record that context c runs? -/
def State.commandOut (s : State) (c : Nat) : Bool :=
  let q := s.core (coreOf c)
  let r := (s.ctx c).rcd
  q.mq.any (fun (m : MatCmd) => decide (m.ctx = c) && decide (m.rcd = r)) || q.cq.any (fun (m : CopyCmd) => decide (m.ctx = c) && decide (m.rcd = r)) ||
    q.gq.any (fun (m : CopyCmd) => decide (m.ctx = c) && decide (m.rcd = r)) || q.kq.any fun (m : CollCmd) => decide (m.ctx = c) && decide (m.rcd = r)

/-- May the context be saved now? -/
def State.mayEvict (s : State) (c : Nat) : Bool :=
  let x := s.ctx c
  decide (x.phase = .frozen) && (decide (x.plan = some 1) || decide (x.plan = some 2)) && x.lsq.isEmpty && x.rout.isEmpty && !s.commandOut c &&
    -- a report of a failed access comes first (R458)
    (match x.killReport with
     | some (_, _, here) => here
     | none => true)

/-- Save one context: the area and word 6 and 7 of the record are written, and the record awaits pick-up as EVICTED. -/
def State.evictOne (s : State) (c : Nat) (sv : SaveRef) : State :=
  let x := s.ctx c
  let saved := s.engSaved c
  let s1 := ((s.writeArea c sv).recWrite x.vf x.rcd 6 (15 * 2 ^ 60 + sv.unit * 4096)).recWrite x.vf x.rcd 7
    (withState (x.words.toList.getD 7 0).toNat 6 0)
  let s2 := { s1.retarget c (4096 + sv.unit) with saved := s1.saved.set sv.unit saved }
  (s2.modCluster (clusterOf (coreOf c)) fun q => { q with ready := q.ready ++ [{ s.recRef c with evicted := some sv }] }).vacate c

/-- Save contexts one after the other; `none` when no run is long enough for one of them. -/
def evictAll : List Nat → State → Option State
  | [], s => some s
  | c :: r, s =>
    let n := s.saveUnits c
    match s.freeRun (s.ctx c).part n with
    | none => none
    | some u => evictAll r (s.evictOne c ⟨coreOf c, u, n⟩)

/-- EVICTION: the whole team of context c is saved once each member is frozen for it and its engine commands, LSQ and ROUT are done with. With no
free run a victim of R52 or R53 is resumed in place; an EVICT response waits (R49). -/
def execEviction (c : Nat) (s : State) : Host.Outcome State Fault Refusal :=
  .next (
    let ms := s.mates c
    if ms.all fun m => s.mayEvict m then
      -- NEXTT results land first (R273)
      match evictAll ms (ms.foldl (fun (t : State) m => t.modCtx m fun x => x.landAllNextt s.now) s) with
      | some t => t
      | none =>
        if ms.any fun m => decide ((s.ctx m).plan = some 2) then s
        else ms.foldl (fun (t : State) m => t.modCtx m fun x => { x with quantum := s.now, barred := some s.areas }) (s.resumeAll ms)
    else s)

/-! ### The selector (R42 to R46, R489) -/

/-- The next ready context of core k after number i, in ascending order, wrapping from 3 to 0 (R44). -/
def State.nextReady (s : State) (k i : Nat) : Option Nat :=
  ([1, 2, 3, 4].map fun j => k * 4 + (i + j) % 4).find? fun c => s.ready c

/-- Has the context that held issue given it up: its run is written back, it is killed, or it is frozen (R44)? -/
def Phase.gone (p : Phase) : Bool :=
  match p with
  | .run => false
  | .stopping => false
  | .leaving => false
  | .idle => true
  | .loading => true
  | .frozen => true

/-- CONTEXT_SWITCH: a switch under way ends in the cycle it names; a context held on an engine wait gives issue to the next ready one; and with
no context holding issue the next ready one takes it, the last holder one cycle sooner (R44). Where none has held issue yet, the search
begins at context 0 (log 72). -/
def execContextSwitch (k : Nat) (s : State) : Host.Outcome State Fault Refusal :=
  .next (
    let q := s.core k
    let gone : Bool := match q.issuing with
      | some i => (s.ctx (k * 4 + i)).phase.gone
      | none => false
    let issuing := if gone then none else q.issuing
    let last := if gone then q.issuing else q.lastIssue
    match q.switching with
    | some (c, t) =>
      if t ≤ s.now then
        s.modCore k fun q =>
          { q with switching := none,
                   issuing := if (s.ctx c).phase = .run then some (c % 4) else none }
      else s
    | none =>
      match issuing with
      | some i =>
        let c := k * 4 + i
        let x := s.ctx c
        if (x.held = .engine ∨ x.held = .abr) ∧ !s.goes c then
          match s.nextReady k i with
          | some c' => s.modCore k fun q => { q with issuing := none, lastIssue := some i, switching := some (c', s.now + 2) }
          | none => s
        else s
      | none =>
        match s.nextReady k (last.getD 3) with
        | some c' =>
          let t := if last = some (c' % 4) then s.now + 1 else s.now + 2
          s.modCore k fun q => { q with issuing := none, lastIssue := last, switching := some (c', t) }
        | none => if gone then s.modCore k fun q => { q with issuing := none, lastIssue := last } else s)

/-- WFE_DEADLINE: the bundle of a WFE that is held is released once its deadline is reached (R489). -/
def execWfeDeadline (c : Nat) (s : State) : Host.Outcome State Fault Refusal :=
  .next (if (s.ctx c).wfe.isSome && s.goes c then s.modCtx c fun x => { x with held := .none } else s)

end Sys2Proof.Machine
end

