-- ==== Sys2Proof/Machine/Partition.lean ====
section
/-! DEFINITION. What installing, resetting and retiring do to the cores of a partition (R146, R236, R331 to R333, R340, R352, R353, R360,
R361), and uncorrectable ECC errors (R320, R331, R373). -/

namespace Sys2Proof.Machine

/-- Change a partition. -/
def State.modPart (s : State) (p : Nat) (f : Part → Part) : State :=
  match s.hub.parts.find p with
  | none => s
  | some q => s.modHub fun h => { h with parts := h.parts.set p (f q) }

/-- Compute cores that a description gives the partition, by its dwords 2 to 5 (R340). -/
def descCores (d : Vector W64 8) : List Nat :=
  (List.range 4).flatMap fun i => ((List.range 64).filter fun n => (d.toList.getD (2 + i) 0).getLsbD n).map fun n => i * 64 + n
/-- Compute cores of a partition. -/
def State.coresOf (s : State) (p : Nat) : List Nat := (List.range 256).filter fun k => s.partHolds p k

/-- The array of a core returns to its first state, and the banks with their versions (R210, R236). -/
def CoreSt.clearArray (k : CoreSt) : CoreSt :=
  { k with cells := Table.empty, scales := Table.empty, latch := none, mxOn := false, wnf := 0, wpsn := none, wuser := none,
           banks := Table.empty, bankPsn := [], ver := Vector.replicate 4 0, user := Vector.replicate 4 none }

/-- The scratchpad of a core becomes zero, and no task has held a slot (R146, R148, R333). -/
def State.clearScratch (s : State) (k : Nat) : State :=
  let s1 := s.zeroRange (spLoc (s.key (s.owner k)) (k % 64) 0) (2 ^ 23)
  { s1 with slots := ⟨s1.slots.l.filter fun p => decide (p.1 / 2048 ≠ k)⟩ }

/-- A partition description takes effect on its cores: scratchpad size and MPWR window (R146, R340). -/
def State.applyDesc (s : State) (d : Vector W64 8) : State :=
  let spk := d[0].toNat / 2 ^ 54 % 16
  let b := d[7].toNat / 64 % 64
  let n := d[7].toNat % 64
  let base := 64 * b
  let limit := if b = 0 then 0 else min (64 * (b + n)) 4096
  (descCores d).foldl (fun (s : State) k =>
    let s1 := if (s.core k).spk = spk then s else s.clearScratch k
    s1.modCore k fun q => { q with spk := spk, mpwBase := BitVec.ofNat 64 base, mpwLimit := BitVec.ofNat 64 limit }) s

/-- Contexts on a partition's cores that hold records. -/
def State.partCtxs (s : State) (p : Nat) : List Nat :=
  (s.ctxs.l.filter fun (q : Nat × Ctx) => decide (q.2.phase ≠ .idle) && !isSeq (coreOf q.1) && s.partHolds p (coreOf q.1)).map (·.1)

/-- The entries of a cluster that belong to function vf in partition p: its graph position there (R51, R352). -/
def ClusterSt.position (q : ClusterSt) (p vf : Nat) : Graph where
  dep := q.dep.filter fun (d : DepEntry) => decide (d.vf = vf) && decide (d.part = p)
  ready := q.ready.filter fun (r : RecRef) => decide (r.vf = vf) && decide (r.part = p)
  waiting := q.waiting.filter fun (r : RecRef) => decide (r.vf = vf) && decide (r.part = p)
/-- A cluster without the entries of function vf in partition p. -/
def ClusterSt.without (q : ClusterSt) (p vf : Nat) : ClusterSt :=
  { q with dep := q.dep.filter fun (d : DepEntry) => !(decide (d.vf = vf) && decide (d.part = p))
           ready := q.ready.filter fun (r : RecRef) => !(decide (r.vf = vf) && decide (r.part = p))
           waiting := q.waiting.filter fun (r : RecRef) => !(decide (r.vf = vf) && decide (r.part = p)) }
/-- The clusters of a die. -/
def clustersOf (d : Nat) : List Nat := (List.range 8).map (d * 8 + ·)
/-- Change the installed function vf. -/
def State.modVf (s : State) (vf : Nat) (f : VfSt → VfSt) : State :=
  match s.hub.vfs.find vf with
  | none => s
  | some v => s.modHub fun h => { h with vfs := h.vfs.set vf (f v) }
/-- Die d saves the graph position of function vf into the function's state (R352). -/
def State.savePosition (s : State) (p vf d : Nat) : State :=
  if (s.hub.vfs.find vf).isNone then s
  else (clustersOf d).foldl (fun (s : State) cl =>
    (s.modVf vf fun v => { v with graph := v.graph.set cl ((s.cluster cl).position p vf) }).modCluster cl fun q => q.without p vf) s
/-- The sequencers of die d take the saved graph position of function vf up again (R352, R356). -/
def State.restorePosition (s : State) (vf d : Nat) : State :=
  match s.hub.vfs.find vf with
  | none => s
  | some v => ((clustersOf d).foldl (fun (s : State) cl => match v.graph.find cl with
      | none => s
      | some g => s.modCluster cl fun q => { q with dep := g.dep ++ q.dep, ready := g.ready ++ q.ready, waiting := g.waiting ++ q.waiting }) s).modVf vf fun v =>
        { v with graph := (clustersOf d).foldl Table.del v.graph }

/-- End a record in a context as FAULT without a trap entry, posting a completion record or not (R333, R353). -/
def State.endFault (s : State) (c cause : Nat) (post : Bool) : State :=
  let x := s.ctx c
  let s1 := (s.recWrite x.vf x.rcd 7 (withState (x.words.toList.getD 7 0).toNat 5 cause)).countFault x.vf x.jcb x.posted
  (if post then s1.postFault (clusterOf (coreOf c)) c x.rcd x.vf else s1).vacate c

/-- End an EVICTED record as FAULT; its run returns to the pool (R49, R333, R353, R361). -/
def State.endEvicted (s : State) (cl : Nat) (r : RecRef) (cause : Nat) (post : Bool) : State :=
  match r.evicted with
  | none => s
  | some sv =>
    let posted := match s.saved.find sv.unit with
      | some v => v.ctx.posted
      | none => false
    let jcb := BitVec.ofNat 48 ((s.recRead r.vf r.addr 1).getD 0)
    let s1 := (s.recFault r.vf r.addr cause).countFault r.vf jcb posted
    let s2 := if post then s1.postFault cl (sv.core * 4) r.addr r.vf else s1
    { s2.modCluster cl fun q => { q with ready := q.ready.erase r } with saved := s2.saved.del sv.unit }

/-- Every EVICTED record that a test picks, by cluster. -/
def State.evictedRefs (s : State) (f : RecRef → Bool) : List (Nat × RecRef) :=
  s.clusters.l.flatMap fun (q : Nat × ClusterSt) => (q.2.ready.filter fun (r : RecRef) => r.evicted.isSome && f r).map fun r => (q.1, r)

/-! ### Retirement (R360 to R362) -/

/-- Is the command that stands at the ring's head done with: STATUS and CMD_CI (R336)? -/
def State.cmdLoc (s : State) : Nat := hubLoc (s.hub.cmdBase.toNat + 64 * (s.hub.cmdCi.toNat % 2 ^ s.hub.cmdSize))
/-- Write STATUS of the command at the ring's head and advance CMD_CI (R336). -/
def State.completeCmd (s : State) (st : Nat) : State :=
  (s.wr (s.cmdLoc + 6) 1 st).modHub fun h => { h with cmdCi := h.cmdCi + 1, waiting := none }

/-- Stage 2 of a retirement: with a spare it takes the exposed number; with none the number is cleared, the records EVICTED on the core end
FAULT, and the die asks to be replaced (R13, R360, R361). -/
def State.retireMap (s : State) (k : Nat) : State :=
  let d := dieOf k
  match (s.die d).spares with
  | sp :: more =>
    (s.modDie d fun x => { x with spares := more }).modCore k fun q => { q with phys := sp, retiring := false }
  | [] =>
    let s1 := (s.evictedRefs fun (r : RecRef) => decide (r.evicted.map (·.core) = some k)).foldl (fun (s : State) (q : Nat × RecRef) =>
      s.endEvicted q.1 q.2 cRESET true) s
    let clear (v : Vector W64 8) : Vector W64 8 := v.mapIdx fun i w => if i = 2 + d then putBit w (k % 64) false else w
    ((s1.modDie d fun x => { x with replace := true }).modCore k fun q => { q with exposed := false, retiring := false }).modHub fun h =>
      { h with parts := ⟨h.parts.l.map fun (p : Nat × Part) => (p.1, { p.2 with desc := clear p.2.desc, next := p.2.next.map clear })⟩ }

/-- Does no context of the core hold a record? -/
def State.coreEmpty (s : State) (k : Nat) : Bool := [0, 1, 2, 3].all fun i => decide ((s.ctx (k * 4 + i)).phase = .idle)

/-! ### Partition reset (R331 to R333) -/

/-- The core that a completion record names, when it is a compute core of this package. -/
def State.recCore (s : State) (r : CRec) : Option Nat :=
  let w := r.w0.toNat
  if w / 2 ^ 38 % 2 ^ 10 = s.hub.pkg % 2 ^ 10 then some (w / 2 ^ 36 % 4 * 64 + w / 2 ^ 30 % 64) else none

/-- Reset the engines and the array of a core. CYCLE counts from here (R86). -/
def State.resetCore (s : State) (k : Nat) : State :=
  (s.clearScratch k).modCore k fun q =>
    { q.clearArray with mq := [], mrun := none, cq := [], crun := none, gq := [], grun := none, kq := [], krun := none, origin := s.now }

/-- Reset partition p. -/
def State.resetPartition (s : State) (p : Nat) : State :=
  let s1 := (s.partCtxs p).foldl (fun (s : State) c => s.endFault c cRESET false) s
  let s2 := (s1.evictedRefs fun (r : RecRef) => decide (r.part = p)).foldl (fun (s : State) (q : Nat × RecRef) => s.endEvicted q.1 q.2 cRESET false) s1
  let cores := s2.coresOf p
  let others (l : List CRec) : List CRec := l.filter fun (r : CRec) => match s2.recCore r with
    | some k => !cores.contains k
    | none => true
  let sa := { s2 with clusters := ⟨s2.clusters.l.map fun (q : Nat × ClusterSt) => (q.1, { q.2 with evq := others q.2.evq, late := others q.2.late })⟩ }
  let sb := sa.clusters.keys.foldl (fun (s : State) cl => refillL cl (s.cluster cl).late.length s) sa
  let sc := (s.partCtxs p).foldl State.dropLaunches sb
  let s3 := { sc with clusters := ⟨sc.clusters.l.map fun (q : Nat × ClusterSt) => (q.1, { q.2 with
    ready := q.2.ready.filter fun (r : RecRef) => decide (r.part ≠ p)
    waiting := q.2.waiting.filter fun (r : RecRef) => decide (r.part ≠ p)
    dep := q.2.dep.filter fun (d : DepEntry) => decide (d.part ≠ p) })⟩ }
  let s4 := (cores.foldl State.resetCore s3).modPart p fun q => { q with reset := true, tick := none, saved := 0 }
  let s5 := (cores.filter fun k => (s4.core k).retiring).foldl (fun (s : State) k => (s.retireMap k).completeCmd stOK) s4
  s5.groupsLoss s

/-! ### Uncorrectable errors -/

/-- An uncorrectable error in a register: x, y, n and the lanes of v carry poison, and a q, g or m register, which carries none, keeps an open value
(R316, R320, R321, log 64). -/
def Ctx.strike (x : Ctx) (fresh file idx l : Nat) : Ctx :=
  match file with
  | 0 => if idx % 32 = 0 then x else x.modR fun r => { r with xp := putBit r.xp (idx % 32) true }
  | 1 => if idx % 32 = 0 then x else x.modR fun r => { r with yp := putBit r.yp (idx % 32) true }
  | 2 => x.modR fun r =>
    { r with vp := r.vp.set (idx % 32) (putBit (r.vp[idx % 32]'(Nat.mod_lt _ (by decide))) (l % 64) true) (Nat.mod_lt _ (by decide)) }
  | 3 => x.modR fun r => { r with q := r.q.set (idx % 8) (Config.eccValue fresh) (Nat.mod_lt _ (by decide)) }
  | 4 => x.modR fun r =>
    { r with g := r.g.set (idx % 8) (if l % 2 = 0 then (r.g[idx % 8]'(Nat.mod_lt _ (by decide)) &&& 0xFFFFFFFFFFFFFFFF0000000000000000) |||
              (Config.eccValue fresh).setWidth 128
            else (r.g[idx % 8]'(Nat.mod_lt _ (by decide)) &&& 0xFFFFFFFFFFFFFFFF) ||| ((Config.eccValue fresh).setWidth 128 <<< 64))
              (Nat.mod_lt _ (by decide)) }
  | 5 => { x with np := putBit x.np (idx % 4) true }
  | 6 => x.modR fun r => { r with m := r.m.set (idx % 8) (Config.eccValue fresh) (Nat.mod_lt _ (by decide)) }
  | _ => x

/-- ECC_UNCORRECTABLE_ERROR: the dword, register, latch, bank row or weights become poison, a microprogram word keeps an open value, and an error in
shared state resets the partition; a die's counters count it (R320, R322, R331, R373). -/
def execEccUncorrectableError (site : EccSite) (s : State) : Host.Outcome State Fault Refusal :=
  .next (match site with
    | .core _ => s
    | .register c file idx l => (s.modCtx c fun x => x.strike s.fresh file idx l).bump
    | .latch c i l => s.modCtx c fun x => x.modR fun r =>
        { r with latchp := r.latchp.set (i % 16) (putBit (r.latchp[i % 16]'(Nat.mod_lt _ (by decide))) (l % 64) true) (Nat.mod_lt _ (by decide)) }
    | .bank k b row => s.modCore k fun x => { x with bankPsn := insertSorted x.bankPsn (b % 4 * 256 + row % 256) }
    | .weights k => s.modCore k fun x => { x with wpsn := some (x.wpsn.getD 0) }
    | .store k w => (s.modCore k fun x => { x with store := x.store.set (w % 4096) (Config.eccValue s.fresh) }).bump
    | .counter d i => s.countErr d i
    | .dword l => (s.addPoison (l / 8 * 8) 8).countTier l true
    | .shared p (.l2 d) => (s.countErr d 1).resetPartition p
    | .shared p _ => s.resetPartition p)

end Sys2Proof.Machine
end

