-- ==== Sys2Proof/Machine/Commands.lean ====
section
/-! DEFINITION. The command ring and its thirteen commands (R282, R303, R336, R337, R340 to R342, R347, R357 to R363). -/

namespace Sys2Proof.Machine

/-! ### The ring (R336, R349, R350) -/

/-- Dword i at an address that HS names. -/
def State.hs (s : State) (a i : Nat) : W64 := s.rd64 (hsLoc (a + 8 * i))

/-- Does the ring run: booted, no hart in reset or rebuilding, and the complex up (R349, R351)? -/
def State.ringRuns (s : State) : Bool := s.hub.booted && decide (s.hub.hartRun = 0xFF) && !s.hub.supDown

/-! ### The mending journal (R350) -/

/-- A decision of HS takes effect on what HS has decided; a command is the hub's own record and is not reapplied (R350). -/
def Decisions.take (d : Decisions) (e : JEntry) : Decisions :=
  match e with
  | .cmd _ => d
  | .place vf (some h) => { d with place := d.place.set vf h }
  | .place vf .none => { d with place := d.place.del vf }
  | .handler vf a => { d with handler := d.handler.set vf a }
  | .consumer q v => { d with consumer := d.consumer.set q v }
/-- Replay entries from what had been decided at the checkpoint. -/
def Decisions.replay (d : Decisions) (es : List JEntry) : Decisions := es.foldl Decisions.take d
/-- The copy of the journal that a rebuild reads: die 0's, or die 2's where the path to die 0 is lost. -/
def State.journalCopy (s : State) : List JEntry := if s.hub.lost.contains 1024 then s.hub.mirror else s.hub.journal
/-- What a rebuild finds: the journal replayed from its last checkpoint (R348, R350). -/
def State.decided (s : State) : Decisions := s.hub.checkpoint.replay s.journalCopy
/-- Can a journal write perform in both copies (R350)? -/
def State.journalUp (s : State) : Bool := !(s.hub.lost.contains 1024 || s.hub.lost.contains 1026)
/-- Commands after which M writes a checkpoint (R350). -/
def checkpointEvery : Nat := 2 ^ 20
/-- A journal write has performed in both copies; every 2^20 commands M writes a checkpoint, from which the journal goes on (R350). -/
def State.journalWrite (s : State) (e : JEntry) : State :=
  s.modHub fun h =>
    let j := h.journal ++ [e]
    match e with
    | .cmd _ =>
      if (h.begun + 1) % checkpointEvery = 0 then { h with begun := h.begun + 1, checkpoint := h.checkpoint.replay j, journal := [], mirror := [] }
      else { h with begun := h.begun + 1, journal := j, mirror := h.mirror ++ [e] }
    | _ => { h with journal := j, mirror := h.mirror ++ [e] }

/-- The command at the ring's head. -/
def State.cmdHead (s : State) : Option (Vector W64 8) :=
  if s.ringRuns && decide (s.hub.cmdPi ≠ s.hub.cmdCi) then some (Vector.ofFn fun (i : Fin 8) => s.rd64 (s.cmdLoc + 8 * i.val)) else none

/-- Operand i of a command. -/
def arg (w : Vector W64 8) (i : Nat) : Nat := (w.toList.getD i 0).toNat
/-- OPC of a command. -/
def cmdOp (w : Vector W64 8) : Nat := w[0].toNat / 2 ^ 56
/-- Virtual function that a command concerns. -/
def cmdVf (w : Vector W64 8) : Nat := w[0].toNat / 2 ^ 32 % 128

/-- Run the command at the head when its OPC is `op`: the journal first, without which no command begins, then its effect, then STATUS and CMD_CI. The effect answers the status, or
`none` for a command that waits. A reserved OPC or reserved field completes with FAULT (R336, R337). -/
def runCmd (op : Nat) (f : Vector W64 8 → State → Option Nat × State) (s : State) : State :=
  match s.cmdHead, s.hub.waiting with
  | some w, none =>
    if !s.journalUp then s else
    let reserved := decide (cmdOp w = 0) || decide (13 < cmdOp w)
    if cmdOp w ≠ op ∧ !reserved then s
    else
      let s1 := s.journalWrite (.cmd w)
      if reserved || decide (w[0].toNat / 2 ^ 39 % 2 ^ 9 ≠ 0) then s1.completeCmd stFAULT
      else match f w s1 with
        | (some st, s2) => s2.completeCmd st
        | (none, s2) => s2.modHub fun h => { h with waiting := some (h.waiting.getD []) }
  | _, _ => s

/-- The command at the head that has begun and waits, when its OPC is `op`. -/
def State.waitingCmd (s : State) (op : Nat) : Option (Vector W64 8) :=
  match s.cmdHead, s.hub.waiting with
  | some w, some _ => if cmdOp w = op then some w else none
  | _, _ => none

/-- Refuse a command. -/
def refuse (s : State) : Option Nat × State := (some stFAULT, s)

/-! ### PART_SET (R340, R363) -/

/-- Do n bytes from an address on lie in the physical memory of a die of this package (R169)? -/
def State.inPackage (s : State) (a n : Nat) : Bool :=
  let pa := a % 2 ^ 42
  decide (a / 2 ^ 44 = s.hub.home) && (decide (pa + n ≤ 0x00C00000000) || (decide (0x01000000000 ≤ pa) && decide (pa + n ≤ 0x07000000000)) ||
    (decide (0x10000000000 ≤ pa) && decide (pa + n ≤ 0x20000000000)))

/-- First 4 KiB unit and length in units of a description's save pool (R340, R355): the first unit belongs to it whatever PLEN says. -/
def State.descPool (s : State) (v : Vector W64 8) : Nat × Nat :=
  (v[7].toNat % 2 ^ 54 / 4096, max 1 (s.rd (hsLoc (v[7].toNat % 2 ^ 54 / 4096 * 4096) + 32) 4))

/-- Do two descriptions claim a core, a channel or a part of a save pool twice (R340)? -/
def State.clash (s : State) (a b : Vector W64 8) : Bool :=
  let (p, n) := s.descPool a
  let (q, m) := s.descPool b
  decide (a[2] &&& b[2] ≠ 0) || decide (a[3] &&& b[3] ≠ 0) || decide (a[4] &&& b[4] ≠ 0) || decide (a[5] &&& b[5] ≠ 0)
    || decide (a[6] &&& b[6] ≠ 0) || (decide (p < q + m) && decide (q < p + n))

/-- Does a partition description break a rule? -/
def State.partBad (s : State) (d : Vector W64 8) : Bool :=
  let w0 := d[0].toNat
  let w1 := d[1].toNat
  let qlog := w0 / 2 ^ 49 % 32
  let lq := w0 / 2 ^ 32 % 2 ^ 17
  let slice := w0 % 2 ^ 32
  let dl := w1 / 2 ^ 32
  let pid := w0 / 2 ^ 58
  decide (12 < w0 / 2 ^ 54 % 16) || decide (qlog < 14) || decide (24 < qlog) || decide (lq < 16) || decide (65536 < lq) || decide (slice < 500)
    || decide (1000000 < slice) || decide (dl < 50) || decide (slice < dl) || decide (d[7].toNat / 2 ^ 54 ≠ 0) || !s.inPackage ((s.descPool d).1 * 4096) ((s.descPool d).2 * 4096)
    || (descCores d).any (fun k => !(s.core k).exposed)
    || s.hub.parts.l.any fun (p : Nat × Part) => decide (p.1 ≠ pid) && (s.clash d p.2.desc || (match p.2.next with
      | some e => s.clash d e
      | none => false))

/-- A partition newly installed. -/
def Part.new (d : Vector W64 8) (now : Nat) : Part :=
  ⟨d, none, none, none, none, false, now, none, 0, 0, false, 0, 0, 0, 0, false⟩

/-- Eight dwords at an address that HS names. -/
def State.eight (s : State) (a : Nat) : Vector W64 8 := Vector.ofFn fun (i : Fin 8) => s.hs a i.val

/-- PART_SET: a new partition takes effect at once, a replacement at the partition's next switch tick. -/
def execPartSet (s : State) : Host.Outcome State Fault Refusal :=
  .next (runCmd 1 (fun w s =>
    let d := s.eight (arg w 1)
    let pid := d[0].toNat / 2 ^ 58
    if s.partBad d then refuse s
    else match s.hub.parts.find pid with
      | some _ => (some stOK, s.modPart pid fun q => { q with next := some d })
      | none => (some stOK, (s.modHub fun h => { h with parts := h.parts.set pid (Part.new d s.ftb) }).applyDesc d)) s)

/-! ### VF_SET (R341, R342) -/

/-- Is a record of a function RUNNING or EVICTED? -/
def State.vfBusy (s : State) (vf : Nat) : Bool :=
  (s.ctxs.l.any fun (p : Nat × Ctx) => decide (p.2.phase ≠ .idle) && decide (p.2.vf = vf)) || !(s.evictedRefs fun (r : RecRef) => decide (r.vf = vf)).isEmpty

/-- Is a function in the middle of a switch or migration? -/
def State.vfMoves (s : State) (vf : Nat) : Bool :=
  (match s.hub.vfs.find vf with
   | some v => v.migrating
   | none => false) ||
  s.hub.parts.l.any fun (p : Nat × Part) => (p.2.tick.isSome || p.2.swapping) &&
    (decide (p.2.tenant = some vf) || decide (p.2.incoming = some vf) || decide (p.2.outgoing = some vf))

/-- VF_SET: the supervisor queue's key is no function's (R335). A function keeps its saved graph position and its endpoint
address; a new one has the address 0 (log 54). -/
def execVfSet (s : State) : Host.Outcome State Fault Refusal :=
  .next (runCmd 2 (fun w s =>
    let a := arg w 1
    let d : Vector W64 16 := Vector.ofFn fun (i : Fin 16) => s.hs a i.val
    let w0 : Nat := d[0].toNat
    let vf : Nat := w0 / 2 ^ 56 % 128
    let thr : Nat := w0 / 2 ^ 40 % 256
    let root (i : Nat) : Bool := decide ((d.toList.getD i 0).toNat % 2 ^ 15 = 0)
    let bad := decide (w0 / 2 ^ 63 = 0) || decide (95 < vf) || decide (w0 / 2 ^ 48 % 4 ≠ 0) || decide (w0 / 2 ^ 32 % 256 ≠ 0) || decide (thr = 0) || decide (100 < thr)
      || decide (d[0].setWidth 32 = Config.supervisorKey s.hub.images)
      || !([2, 3, 4, 5, 6, 7, 8, 9].all root) || decide (d[10].toNat % 64 ≠ 0) || decide (d[11].toNat / 2 ^ 16 ≠ 0) || decide (d[11].toNat < 16)
      || !([12, 13, 14, 15].all fun i => decide ((d.toList.getD i 0).toNat % 4096 = 0))
    if bad then refuse s
    else if s.vfBusy vf || s.vfMoves vf then (some stQUOTA, s)
    else (some stOK, s.modHub fun h => { h with vfs := h.vfs.set vf (match h.vfs.find vf with
      | some v => ⟨d, 0, 0, false, v.graph, v.endpoint⟩
      | none => ⟨d, 0, 0, false, Table.empty, 0⟩) })) s)

/-! ### INVAL (R158, R178) -/

/-- Pins of the range become unpinned and keep counting (R158). -/
def State.unpin (s : State) (vf a n mask : Nat) : State :=
  { s with ctxs := ⟨s.ctxs.l.map fun (p : Nat × Ctx) =>
      if p.2.vf = vf ∧ mask / 2 ^ dieOf (coreOf p.1) % 2 = 1 then (p.1, { p.2 with pins := p.2.pins.map fun (q : Pin) =>
        if a < q.ipa * 64 + 64 ∧ q.ipa * 64 < a + n then { q with live := false } else q }) else p⟩ }

/-- Local entries that stand in a basket: they were translated at their issue (R294). -/
def Ctx.basketEntries (x : Ctx) : Nat := (x.basket.map fun (h : Nat × Held) => match h.2 with
  | .mem ls _ => ls.length
  | _ => 0).sum
/-- Have the entries that a context held when an INVAL began performed, or been dropped: `n` counts the entries performed by then, pending and in the
basket? -/
def Ctx.flushed (x : Ctx) (n : Nat) : Bool := decide (n ≤ x.lsqDone) || (x.lsq.isEmpty && decide (x.basketEntries = 0))

/-- INVAL completes once every access translated before it has performed: the entries that each LSQ and basket of the function then held, saved ones
included, and the flag increments with known homes. -/
def execInval (s : State) : Host.Outcome State Fault Refusal :=
  .next (match s.waitingCmd 3, s.hub.waiting with
    | some w, some marks =>
      let vf := cmdVf w
      if (marks.all fun (m : Nat × Nat) => (s.ctx m.1).flushed m.2) && (s.saved.l.all fun (v : Nat × Saved) => decide (v.2.ctx.vf ≠ vf) || decide (v.2.ctx.basketEntries = 0)) &&
          (List.range 4).all (fun d => (s.die d).flags.all fun (i : Incr) => i.va.isSome || decide (i.vf ≠ vf))
      then s.completeCmd stOK else s
    | _, _ => runCmd 3 (fun w s =>
      let vf := cmdVf w
      let s1 := s.unpin vf (arg w 1) (arg w 2) (arg w 3 % 16)
      (none, s1.modHub fun h => { h with waiting := some ((s.ctxs.l.filter fun (p : Nat × Ctx) => decide (p.2.vf = vf)).map fun p =>
        (p.1, p.2.lsqDone + p.2.lsq.length + p.2.basketEntries)) })) s)

/-! ### Groups (R281, R282) -/

/-- The member entries of a group descriptor. -/
def State.groupMembers (s : State) (a n : Nat) : List W32 := (List.range n).map fun m => BitVec.ofNat 32 (s.rd (hsLoc (a + 64 + 4 * m)) 4)

/-- Does a group descriptor break a rule? Whether a core of another package is exposed is not known here (R281). -/
def State.groupBad (s : State) (a : Nat) : Bool :=
  let d (i : Nat) : Nat := (s.hs a i).toNat
  let n := d 0 / 2 ^ 38 % 2 ^ 10 + 1
  let op := d 0 / 2 ^ 35 % 8
  let vf := d 0 / 2 ^ 26 % 128
  let k := d 0 / 2 ^ 16 % 2 ^ 10
  let ms := s.groupMembers a n
  let ids := ms.map fun (w : W32) => w.toNat % 2 ^ 31
  decide (a % 64 ≠ 0) || !s.inPackage a (64 + 4 * n) || decide (d 0 % 2 ^ 16 ≠ 0) || !([2, 3, 4, 5, 6, 7].all fun i => decide (d i = 0)) || decide (op = 7)
    || (decide (k ≠ 0) && decide (op ≠ 3)) || decide (95 < vf) || ms.any (fun (w : W32) => decide (w.toNat / 64 % 2 ^ 13 ≠ 0))
    || ms.any (fun (w : W32) => decide (w.toNat / 2 ^ 21 % 2 ^ 10 = s.hub.pkg) && !(s.core (w.toNat / 2 ^ 19 % 4 * 64 + w.toNat % 64)).exposed)
    || decide (ids.eraseDups.length ≠ ids.length)

/-- Unresolved instances of a group resolve ABSENT, those too whose contributions are still on their way. -/
def State.absentAll (s : State) (g : Group) : State :=
  let mine (c : Contribution) : Bool := decide (c.vf = g.vf) && decide (c.gid = g.gid)
  let s1 := g.insts.foldl (fun (s : State) (i : Inst) => i.got.foldl (fun (s : State) c => s.tell c g.noResult) s) s
  (s.contribs.filter mine).foldl (fun (s : State) c => s.tell c g.noResult) { s1 with contribs := s1.contribs.filter fun c => !mine c }

/-- GROUP_SET: a reinstalled group keeps GEN, every member is LIVE and starts at 0. A package whose path to the root is lost may be cut off at once. -/
def execGroupSet (s : State) : Host.Outcome State Fault Refusal :=
  .next (runCmd 4 (fun w s =>
    let a := arg w 1
    let d0 := (s.hs a 0).toNat
    let d1 := (s.hs a 1).toNat
    let vf := d0 / 2 ^ 26 % 128
    let key := groupKey vf (d0 / 2 ^ 48)
    let old := s.hub.groups.find key
    if s.groupBad a || (old.isNone && decide (256 ≤ s.hub.groups.l.length)) then refuse s
    else
      let n := d0 / 2 ^ 38 % 2 ^ 10 + 1
      let gen : BitVec 32 := match old with
        | some g => g.gen
        | none => 0
      let ms := (s.groupMembers a n).map fun (e : W32) => (⟨true, e.toNat / 2 ^ 21 % 2 ^ 10, e.toNat / 2 ^ 19 % 4, e.toNat % 64, 0⟩ : Member)
      let g : Group := ⟨vf, d0 / 2 ^ 48, d0 / 2 ^ 35 % 8, decide (d0 / 2 ^ 34 % 2 = 1), decide (d0 / 2 ^ 33 % 2 = 1), d0 / 2 ^ 16 % 2 ^ 10, d1 / 2 ^ 32, gen, a, ms,
        [], [], false⟩
      let s1 := match old with
        | some g => s.absentAll g
        | none => s
      let s2 := (List.range n).foldl (fun (s : State) m => let l := hsLoc (a + 64 + 4 * m); s.wr l 4 (s.rd l 4 % 2 ^ 31 + 2 ^ 31)) (s1.wr (hsLoc (a + 8)) 4 gen.toNat)
      (some stOK, s2.modHub fun h => { h with groups := h.groups.set key { g with cut := s.cutFrom g } })) s)

/-- GROUP_DEL. A group that is not installed answers FAULT, as an operand outside the rules does (R337, log 55). -/
def execGroupDel (s : State) : Host.Outcome State Fault Refusal :=
  .next (runCmd 5 (fun w s =>
    let key := groupKey (cmdVf w) (arg w 1 % 2 ^ 16)
    match s.hub.groups.find key with
    | none => refuse s
    | some g => (some stOK, (s.absentAll g).modHub fun h => { h with groups := h.groups.del key })) s)

/-! ### Schedules and queues (R303, R347) -/

/-- Does the schedule table of participant k break a rule of R303, its buffer in the memory of the die among them? A reserved OPC aborts at its entry and
is none. -/
def State.schedBad (s : State) (k a : Nat) : Bool :=
  let h := (s.hs a 0).toNat
  decide (h / 2 ^ 16 ≠ 0) || decide (h = 0) || !([3, 4, 5, 6, 7].all fun i => decide (s.hs a i = 0)) || s.bufBad k (s.hs a 1).toNat 0 0 ||
    (List.range (h % 2 ^ 16)).any fun e =>
      let d0 := (s.hs (a + 64 + 16 * e) 0).toNat
      let d1 := (s.hs (a + 64 + 16 * e) 1).toNat
      let f := d0 / 2 ^ 24 % 16
      let link := d0 / 2 ^ 16 % 256
      let opc := d0 / 2 ^ 28 % 16
      decide (opc ≤ 2) && (!([0, 1, 2, 3, 4].contains f) || !(decide (link ≤ 4) || (decide (0x10 ≤ link) && decide (link ≤ 0x21))) || decide (d1 / 2 ^ 32 % 128 ≠ 0)
        || decide (d1 % 128 ≠ 0) || s.bufBad k (s.hs a 1).toNat (d1 / 2 ^ 32) (d1 % 2 ^ 32))

/-- SCHED_SET: the table of one participant, core 512 being the hub reducer (log 18). -/
def execSchedSet (s : State) : Host.Outcome State Fault Refusal :=
  .next (runCmd 6 (fun w s =>
    let a := arg w 1
    let k := arg w 3
    let part := if k = 512 then s.partOf (cmdVf w) else s.corePart k
    if s.schedBad k a || (decide (256 ≤ k) && decide (k ≠ 512)) then refuse s
    else match part with
      | none => refuse s
      | some p => (some stOK, s.modHub fun h => { h with scheds := h.scheds.set (schedKey p k (arg w 2 % 256)) a })) s)

/-- QUEUE_SET: V = 0 removes the queue. The counters, which HS cannot write, start at 0, and so does the producer index, in a queue that is replaced too
(log 80). -/
def execQueueSet (s : State) : Host.Outcome State Fault Refusal :=
  .next (runCmd 7 (fun w s =>
    let a := arg w 1
    let d (i : Nat) : W64 := s.hs a i
    let d0 := (d 0).toNat
    let qid := d0 / 2 ^ 44 % 4096
    let vf := d0 / 2 ^ 56 % 128
    if d0 % 2 ^ 44 ≠ 0 ∨ 95 < vf then refuse s
    else if d0 / 2 ^ 63 = 0 then (some stOK, s.modHub fun h => { h with queues := h.queues.del qid })
    else
      let key : BitVec 256 := ((d 7 ++ d 6 : BitVec 128) ++ (d 5 ++ d 4 : BitVec 128) : BitVec 256)
      let q : WorkQueue := ⟨vf, d 1, d 2, 0, 0, key, 0⟩
      (some stOK, s.modHub fun h => { h with queues := h.queues.set qid q, badTags := h.badTags.del qid })) s)

/-! ### SWITCH, PART_RESET, READMIT -/

/-- SWITCH: holds the ring until the switch has completed (R337, R352). -/
def execSwitch (s : State) : Host.Outcome State Fault Refusal :=
  .next (runCmd 8 (fun w s =>
    let p := arg w 1 % 64
    let vf := cmdVf w
    match s.hub.parts.find p, s.partOf vf with
    | some _, some q => if q = p then (none, s.modPart p fun x => { x with incoming := some vf, cmdWaits := true }) else refuse s
    | _, _ => refuse s) s)

/-- PART_RESET (R331 to R333). A partition that is not installed answers FAULT (R337, log 55). -/
def execPartReset (s : State) : Host.Outcome State Fault Refusal :=
  .next (runCmd 9 (fun w s =>
    match s.hub.parts.find (arg w 1 % 64) with
    | none => refuse s
    | some _ => (some stOK, s.resetPartition (arg w 1 % 64))) s)

/-- READMIT: the partition's sequencers take records in again. A partition that is not installed answers FAULT (R337, log 55). -/
def execReadmit (s : State) : Host.Outcome State Fault Refusal :=
  .next (runCmd 10 (fun w s =>
    match s.hub.parts.find (arg w 1 % 64) with
    | none => refuse s
    | some _ => (some stOK, s.modPart (arg w 1 % 64) fun q => { q with reset := false })) s)

/-! ### CORE_RETIRE (R360 to R362) -/

/-- CORE_RETIRE: stage 1 stops pick-up on the core; the command waits for the mapping. ARG1 holds the core in bits 5:0 and the die in bits 7:6
(log 17). -/
def execCoreRetire (s : State) : Host.Outcome State Fault Refusal :=
  .next (runCmd 11 (fun w s =>
    let k := arg w 1
    if 256 ≤ k ∨ !(s.core k).exposed then refuse s
    else (none, s.modCore k fun q => { q with retiring := true })) s)

/-- CORE_RETIRE_MAPPING: stage 2, once no context of the core holds a record. -/
def execCoreRetireMapping (s : State) : Host.Outcome State Fault Refusal :=
  .next (match s.waitingCmd 11 with
    | none => s
    | some w =>
      let k := arg w 1
      if s.coreEmpty k then (s.retireMap k).completeCmd stOK else s)

/-! ### Migration (R357 to R359) -/

/-- Stage-2 leaves under a table: IPA, location of the entry, entry, log2 of the page size. -/
def leavesAt (s : State) (owner : Nat) : List (Nat × Nat) → Nat → Nat → List (Nat × Nat × Nat × Nat)
  | [], _, _ => []
  | (lo, wd) :: more, table, base =>
    (List.range (2 ^ wd)).flatMap fun i =>
      let l := memLoc owner (table + 8 * i)
      let e := s.rd l 8
      if !(entryOk false e) then []
      else if e / 2 % 2 = 1 then [(base + i * 2 ^ lo, l, e, lo)]
      else leavesAt s owner more (e % 2 ^ 54 / 2 ^ 16 * 2 ^ 16) (base + i * 2 ^ lo)

/-- Stage-2 leaves of a function on die d, by rising IPA. -/
def State.leaves (s : State) (vf d : Nat) : List (Nat × Nat × Nat × Nat) :=
  match s.vfWord vf (6 + d) with
  | none => []
  | some root => leavesAt s (s.hub.home * 4 + d) levels root 0
/-- Output address of a leaf. -/
def leafOut (e : Nat) : Nat := e % 2 ^ 42 / 2 ^ 16 * 2 ^ 16

/-- May a function migrate: switched out, no unresolved agreement instance and no queued trap entry (R357)? -/
def State.mayMigrate (s : State) (vf : Nat) : Bool :=
  (s.hub.vfs.find vf).isSome && !s.vfMoves vf && !(s.hub.parts.l.any fun (p : Nat × Part) => decide (p.2.tenant = some vf)) &&
    s.hub.groups.l.all (fun (g : Nat × Group) => decide (g.2.vf ≠ vf) || g.2.insts.isEmpty) && s.contribs.all (fun (c : Contribution) => decide (c.vf ≠ vf)) && s.hub.traps.all (fun (t : TrapEntry) => decide (t.vf ≠ vf)) &&
    s.hub.hsq.all (fun (t : TrapEntry) => decide (t.vf ≠ vf)) && (match s.hub.vfs.find vf with
      | some v => decide (v.tqProd = v.tqCons)
      | none => true)

/-- The numbers of a record that the sequencer holds, and a record of function vf from its numbers (R358, R359). -/
def RecRef.nats (r : RecRef) : List Nat :=
  [r.addr, r.part, r.foot, r.fslot, r.lquo, r.team, r.tsize, r.member, r.prio, r.stamp, if r.det then 1 else 0, if r.promoted then 1 else 0]
/-- A record of function vf and partition `part` from its numbers. -/
def RecRef.ofNats (vf part : Nat) (l : List Nat) : RecRef where
  addr := l.getD 0 0
  vf := vf
  part := part
  foot := l.getD 2 0
  fslot := l.getD 3 0
  lquo := l.getD 4 0
  team := l.getD 5 0
  tsize := l.getD 6 0
  member := l.getD 7 0
  prio := l.getD 8 0
  det := decide (l.getD 10 0 = 1)
  stamp := l.getD 9 0
  evicted := none
  promoted := decide (l.getD 11 0 = 1)
/-- The numbers of a dependency-table entry, lists last. -/
def DepEntry.nats (d : DepEntry) : List Nat :=
  [d.addr, d.first, d.count, d.part, d.core, d.ctx, d.born, d.desc.length, d.done.length] ++ d.desc.map BitVec.toNat ++ d.done ++
    d.found.flatMap fun (f : Nat × BitVec 3 × Nat) => [f.1, f.2.1.toNat, f.2.2]
/-- An entry of function vf and partition `part` from its numbers. -/
def DepEntry.ofNats (vf part : Nat) (l : List Nat) : DepEntry :=
  let n := l.getD 7 0
  let m := l.getD 8 0
  let rest := l.drop (9 + n + m)
  { desc := ((l.drop 9).take n).map (BitVec.ofNat 64), addr := l.getD 0 0, first := l.getD 1 0, count := l.getD 2 0, vf := vf, part := part,
    core := l.getD 4 0, ctx := l.getD 5 0, done := (l.drop (9 + n)).take m,
    found := (List.range (rest.length / 3)).map fun i => (rest.getD (3 * i) 0, BitVec.ofNat 3 (rest.getD (3 * i + 1) 0), rest.getD (3 * i + 2) 0),
    born := l.getD 6 0 }

/-- The numbers of a hart's state. -/
def Hart.nats (h : Hart) : List Nat := h.pc.toNat :: h.x.toList.map BitVec.toNat ++ h.csr.l.length :: h.csr.l.flatMap fun (p : Nat × W64) => [p.1, p.2.toNat]
/-- The numbers of a guest: its hart state and its memory (R358). -/
def Guest.nats (g : Guest) : List Nat := g.hart.nats ++ g.mem.l.flatMap fun (p : Nat × Byte) => [p.1, p.2.toNat]
/-- Pairs of a list. -/
def pairsOf (l : List Nat) : List (Nat × Nat) := (List.range (l.length / 2)).map fun i => (l.getD (2 * i) 0, l.getD (2 * i + 1) 0)
/-- A guest from its numbers: at level VS, and on no hart. -/
def Guest.ofNats (l : List Nat) : Guest :=
  let n := l.getD 33 0
  { hart := { level := .vs, guest := none, pc := BitVec.ofNat 64 (l.getD 0 0), x := Vector.ofFn fun (i : Fin 32) => BitVec.ofNat 64 (l.getD (i.val + 1) 0),
              csr := (pairsOf ((l.drop 34).take (2 * n))).foldl (fun (t : Table W64) p => t.set p.1 (BitVec.ofNat 64 p.2)) Table.empty }
    mem := (pairsOf (l.drop (34 + 2 * n))).foldl (fun (t : Table Byte) p => t.set p.1 (BitVec.ofNat 8 p.2)) Table.empty }
/-- The state of a function's guest: that of the hart which runs it, or the one it was left with. -/
def State.guestOf (s : State) (vf : Nat) : Guest :=
  let g := s.hub.guests.get vf Guest.zero
  match s.hub.harts.toList.find? fun (h : Hart) => decide (h.guest = some vf) with
  | some h => { g with hart := { h with guest := none } }
  | none => g

/-- Location of the WSMAP of a function on die d (R341, R354). -/
def State.wsLoc (s : State) (vf d : Nat) : Nat := hsLoc ((s.vfWord vf (12 + d)).getD 0)
/-- Bytes of a WSMAP. -/
def wsBytes : Nat := 2 ^ 18

/-- What the image of a function holds (R358): its VS guest, its descriptor and endpoint address, every page with its entry, its home and its contents,
so the stage-1 tables and the JCBs too, its WSMAP, its graph positions and its work queues. -/
def State.imageOf (s : State) (vf : Nat) : List (List Nat) :=
  match s.hub.vfs.find vf with
  | none => []
  | some v =>
    let part := (s.partOf vf).getD 0
    let home (d pa : Nat) : Nat :=
      let t := s.rd (hsLoc (s.partWord part 7 % 2 ^ 54 / 4096 * 4096 + 8 * d)) 8 % 2 ^ 54 / 4096 * 4096
      if t = 0 ∨ 0x00C00000000 ≤ pa then 0 else s.rd (hsLoc (t + 8 * (pa / 65536))) 8
    let pages := (List.range 4).flatMap fun d => (s.leaves vf d).map fun p =>
      let a := memLoc (s.hub.home * 4 + d) (leafOut p.2.2.1)
      [d, p.1, p.2.2.1, p.2.2.2, home d (leafOut p.2.2.1)] ++ (s.mem.cells.filter fun (c : Host.Cell) => decide (a ≤ c.1) && decide (c.1 < a + 2 ^ p.2.2.2)).flatMap
        fun (c : Host.Cell) => [c.1 - a, c.2.toNat]
    let graph := v.graph.l.flatMap fun (g : Nat × Graph) =>
      (g.2.dep.map fun d => g.1 :: 0 :: d.nats) ++ (g.2.ready.map fun r => g.1 :: 1 :: r.nats) ++ g.2.waiting.map fun r => g.1 :: 2 :: r.nats
    let queues := (s.hub.queues.l.filter fun (q : Nat × WorkQueue) => decide (q.2.vf = vf)).map fun (q : Nat × WorkQueue) =>
      [q.1, q.2.ring.toNat, q.2.lastSeq.toNat, q.2.badTag.toNat, q.2.replay.toNat, q.2.key.toNat, q.2.pi.toNat]
    let maps := (List.range 4).map fun d => 4 :: d :: (s.mem.cells.filter fun (c : Host.Cell) => decide (s.wsLoc vf d ≤ c.1) && decide (c.1 < s.wsLoc vf d + wsBytes)).flatMap
      fun (c : Host.Cell) => [c.1 - s.wsLoc vf d, c.2.toNat]
    [v.d.toList.map BitVec.toNat, [v.endpoint.toNat], (s.guestOf vf).nats] ++ maps ++ pages ++ graph ++ queues

/-- The guest of a function leaves this package: its state, and what HS has decided for it, as the journal will say as well. -/
def State.forgetGuest (s : State) (vf : Nat) : State :=
  (s.journalWrite (.place vf .none)).modHub fun h =>
    { h with guests := h.guests.del vf, hs := h.hs.take (.place vf .none),
             harts := h.harts.map fun (x : Hart) => if x.guest = some vf then Hart.zero else x }

/-- MIGRATE_OUT: the image leaves for the peer that ARG1 names, signed and encrypted; once the target has answered OK every page of the function becomes
zero, and its descriptor, its guest and HS's decisions for it are gone, and after a failed verification the source keeps the function. The signature, the cipher and the target's
answer are free values. -/
def execMigrateOut (s : State) : Host.Outcome State Fault Refusal :=
  .next (match s.waitingCmd 12 with
    | some w =>
      let vf := cmdVf w
      if Config.targetAnswers s.fresh then
        let pages := (List.range 4).flatMap fun d => (s.leaves vf d).map fun p => (memLoc (s.hub.home * 4 + d) (leafOut p.2.2.1), 2 ^ p.2.2.2)
        let s1 := pages.foldl (fun (s : State) (p : Nat × Nat) => s.zeroRange p.1 p.2) s
        (((s1.forgetGuest vf).modHub fun h => { h with vfs := h.vfs.del vf }).completeCmd stOK).bump
      else ((s.modHub fun h => { h with vfs := match h.vfs.find vf with
        | some v => h.vfs.set vf { v with migrating := false }
        | none => h.vfs }).completeCmd stFAULT).bump
    | none => runCmd 12 (fun w s =>
      let vf := cmdVf w
      if !s.mayMigrate vf then (some stQUOTA, s)
      else (none, (s.modHub fun h => { h with sent := h.sent ++ [(32 + arg w 1, Config.imageOut (s.imageOf vf) s.fresh, [])], vfs := match h.vfs.find vf with
        | some v => h.vfs.set vf { v with migrating := true }
        | none => h.vfs }).bump)) s)

/-- What the receive buffer at an address holds: the bytes from there to the end of the die's memory, by offset (log 11). -/
def State.received (s : State) (a : Nat) : List (Nat × Byte) :=
  (s.mem.cells.filter fun (c : Host.Cell) => decide (hsLoc a ≤ c.1) && decide (c.1 < hsLoc a / 2 ^ 42 * 2 ^ 42 + 2 ^ 42)).map fun (c : Host.Cell) => (c.1 - hsLoc a, c.2)

/-- The graph positions of an image, by cluster. -/
def imagePositions (img : List (Nat × Byte)) (vf part : Nat) : Table Graph :=
  (List.range 32).foldl (fun (t : Table Graph) cl => t.set cl
    ⟨(Config.imageGraph img cl 0).map (DepEntry.ofNats vf part), (Config.imageGraph img cl 1).map (RecRef.ofNats vf part),
     (Config.imageGraph img cl 2).map (RecRef.ofNats vf part)⟩) Table.empty

/-- Does the signature of a migration image verify: ML-DSA-87 over the SHA3-512 digest of what the source signed, under its identity key (R7, R358,
R359)? -/
def imageVerifies (img : List (Nat × Byte)) : Bool := mldsaVerify (Config.identityKey img) (sha3_512 (Config.imageClear img)) (Config.imageSignature img)

/-- MIGRATE_IN: an image that verifies is rebuilt: guest, descriptor, memory, graph positions, work queues, endpoint address and package number are what
the image in the receive buffer holds, read by free functions of it. Memory keeps its place under the new number (State.key). The function keeps the command's number, and only memory of this package that
the function's partition may map is written. A function that is in use or moves is refused as VF_SET refuses it (R342, log 79). -/
def execMigrateIn (s : State) : Host.Outcome State Fault Refusal :=
  .next (runCmd 13 (fun w s =>
    let img := s.received (arg w 1)
    let vf := cmdVf w
    let word (i : Nat) : W64 := Config.imageWord img i
    if !(imageVerifies img) || decide (95 < vf) || decide ((word 0).setWidth 32 = Config.supervisorKey s.hub.images) then (some stFAULT, s)
    else if s.vfBusy vf || s.vfMoves vf then (some stQUOTA, s)
    else
      let d : Vector W64 16 := Vector.ofFn fun (i : Fin 16) =>
        if i.val = 0 then BitVec.ofNat 64 (2 ^ 63 + vf * 2 ^ 56 + (word 0).toNat % 2 ^ 56) else word i.val
      let part := d[0].toNat / 2 ^ 50 % 64
      let bytes := (Config.imageBytes img).filter fun (p : Nat × Byte) => decide (p.1 / 2 ^ 44 = s.hub.home) && s.holdsChannel part (p.1 / 2 ^ 42 % 4) (p.1 % 2 ^ 42)
      let s1 := s.storeBytes bytes
      let queue (t : Table WorkQueue) (j : Nat) : Table WorkQueue :=
        let b := 19 + 8 * j
        t.set ((word b).toNat % 4096) ⟨vf, word (b + 1), word (b + 2), (word (b + 3)).extractLsb' 32 32, (word (b + 3)).setWidth 32,
          ((word (b + 7) ++ word (b + 6) : BitVec 128) ++ (word (b + 5) ++ word (b + 4) : BitVec 128) : BitVec 256), (word b).extractLsb' 32 32⟩
      (some stOK, (s1.forgetGuest vf).modHub fun h =>
        { h with vfs := h.vfs.set vf ⟨d, 0, 0, false, imagePositions img vf part, word 18⟩, pkg := (word 16).toNat % 2 ^ 10,
                 guests := h.guests.set vf (Guest.ofNats (Config.imageGuest img)),
                 queues := (List.range ((word 17).toNat % 4097)).foldl queue h.queues })) s)

end Sys2Proof.Machine
end

