-- ==== Sys2Proof/Machine/Tenancy.lean ====
section
/-! DEFINITION. Tenant switches, the tier engine and residency (R51, R146, R158, R175, R176, R236, R349, R352 to R356). -/

namespace Sys2Proof.Machine

/-- FTB ticks of a number of microseconds (R4, R340). -/
def ticksOf (us : Nat) : Nat := us * Config.cyclesPerMicrosecond / Config.cyclesPerTick
/-- Dies on which a partition holds cores or channels. -/
def State.diesOf (s : State) (p : Nat) : List Nat :=
  (List.range 4).filter fun d => decide (s.partWord p (2 + d) ≠ 0) || decide (s.partWord p 6 / 2 ^ (8 * d) % 256 ≠ 0) || decide (s.partWord p 6 / 2 ^ (32 + 8 * d) % 256 ≠ 0)

/-! ### Ticks and boundaries (R352, R353) -/

/-- A routine table word whose ENTRY lies in core k's MPWR window, with VALID cleared (R218). -/
def State.revoked (s : State) (k : Nat) (w : W64) : W64 :=
  if w.getLsbD 63 && s.inWindow k (w.toNat % 4096) then w &&& 0x7FFFFFFFFFFFFFFF else w
/-- VALID of every routine table word whose ENTRY lies in core k's MPWR window becomes 0, in the word that an MPWR still on its way will write too
(R218, log 54). -/
def State.revokeTable (s : State) (k : Nat) : State :=
  (List.range 64).foldl (fun (s : State) i =>
    let w := s.storeWord k i
    if s.revoked k w = w then s else s.modCore k fun q => { q with store := q.store.set i (s.revoked k w) })
    (s.modCore k fun q => { q with mpw := q.mpw.map fun (m : Nat × Nat × W64) => if m.2.1 < 64 then (m.1, m.2.1, s.revoked k m.2.2) else m })

/-- The switch proceeds: banks and arrays return to their first state, no routine in the window can be called, a replacement description takes effect,
and the tier engines start with every gate closed (R218, R236, R340, R352). -/
def State.proceed (s : State) (p : Nat) : State :=
  match s.hub.parts.find p with
  | none => s
  | some q =>
    let s1 := (s.coresOf p).foldl (fun (s : State) k => (s.revokeTable k).modCore k CoreSt.clearArray) s
    let s2 := s1.modPart p fun q =>
      { q with tick := none, saved := 0, cmiss := 0, gates := 0, swapping := true, noted := 0, upDone := 0, outgoing := q.tenant,
               tenant := if q.incoming.isSome then q.incoming else q.tenant, incoming := none }
    match q.next with
    | none => s2
    | some d => (s2.modPart p fun q => { q with desc := d, next := none }).applyDesc d

/-- Is a die at its operator boundary: no record of the partition RUNNING or EVICTED there (R51), and no entry in a queue of its contexts (R208)? -/
def State.atBoundary (s : State) (p d : Nat) : Bool :=
  (s.partCtxs p).all (fun c => decide (dieOf (coreOf c) ≠ d)) &&
    (s.ctxs.l.all fun (q : Nat × Ctx) => isSeq (coreOf q.1) || decide (dieOf (coreOf q.1) ≠ d) || !s.partHolds p (coreOf q.1) || (q.2.lsq.isEmpty && q.2.rout.isEmpty)) &&
    (s.evictedRefs fun (r : RecRef) => decide (r.part = p)).all fun (q : Nat × RecRef) => decide (q.1 / 8 ≠ d)

/-- OPERATOR_BOUNDARY_SAVE: die d saves the tenant's graph position into the function's state; the last save in time lets the switch proceed (R352). A
hart in reset pauses the switch (R349). -/
def execOperatorBoundarySave (p d : Nat) (s : State) : Host.Outcome State Fault Refusal :=
  .next (match s.hub.parts.find p with
    | none => s
    | some q =>
      match q.tick with
      | none => s
      | some t =>
        if q.saved.getLsbD d || decide (4 ≤ d) || !s.ringRuns || !s.atBoundary p d then s
        else
          let saved := putBit q.saved d true
          let s1 := (match q.tenant with
            | some vf => s.savePosition p vf d
            | none => s).modPart p fun q => { q with saved := saved }
          if (s.diesOf p).all (fun e => saved.getLsbD e) && decide (s.ftb ≤ t + ticksOf (q.desc[1].toNat / 2 ^ 32)) then s1.proceed p else s1)

/-- The dies that have saved resume the tenant from their saved positions, and the next tick falls SLICE µs after this one (R352). -/
def State.abandon (s : State) (p t : Nat) (q : Part) : State :=
  (match q.tenant with
   | some vf => ((List.range 4).filter fun d => q.saved.getLsbD d).foldl (fun (s : State) d => s.restorePosition vf d) s
   | none => s).modPart p fun q => { q with tick := none, saved := 0, sliceStart := t }

/-- What ROUT of a context still holds performs at its home, and the queue is empty: its context has ended, so no result is awaited (R208, R353). -/
def State.flushRout (s : State) (c : Nat) : State :=
  let s1 := (s.ctx c).rout.foldl (fun (s : State) (r : REntry) => s.sendEntry c { r with alone := none }) s
  s1.modCtx c fun x => { x with rout := [], killReport := none }

/-- The overrunning operator ends: each record of the tenant that is RUNNING or EVICTED in the partition becomes FAULT, what its queues hold performs,
and every die that has not saved takes the position after the operator (R208, R353). -/
def State.endOperator (s : State) (p : Nat) (q : Part) : State :=
  let mine (vf : Nat) : Bool := decide (q.tenant = some vf)
  let s1 := ((s.partCtxs p).filter fun c => mine (s.ctx c).vf).foldl (fun (s : State) c => s.endFault c cPREEMPT true) s
  let s2 := (s1.evictedRefs fun (r : RecRef) => decide (r.part = p) && mine r.vf).foldl (fun (s : State) (r : Nat × RecRef) => s.endEvicted r.1 r.2 cPREEMPT true) s1
  let s3 := (s2.coresOf p).foldl (fun (s : State) k => [0, 1, 2, 3].foldl (fun (s : State) i => s.flushRout (k * 4 + i)) (s.serialise k)) s2
  match q.tenant with
  | some vf => ((List.range 4).filter fun d => !q.saved.getLsbD d).foldl (fun (s : State) d => s.savePosition p vf d) s3
  | none => s3

/-- SAVE_DEADLINE_EXPIRY: the switch is abandoned, or at the third miss in a row the overrunning operator is ended and the switch proceeds (R353). While
a hart is in reset the partition keeps its tenant and no overrun counts (R349). -/
def execSaveDeadlineExpiry (p : Nat) (s : State) : Host.Outcome State Fault Refusal :=
  .next (match s.hub.parts.find p with
    | none => s
    | some q =>
      match q.tick with
      | none => s
      | some t =>
        if s.ftb < t + ticksOf (q.desc[1].toNat / 2 ^ 32) then s
        else if !s.ringRuns then s.abandon p t q
        else if q.cmiss < 2 then (s.abandon p t q).modPart p fun q => { q with overrun := q.overrun + 1, cmiss := q.cmiss + 1 }
        else (s.endOperator p q).proceed p)

/-! ### The tier engine (R354, R355) -/

/-- Is a physical address in the near tier? -/
def isNear (pa : Nat) : Bool := decide (pa < 0x00C00000000)
/-- Location of a die's home table entry for frame i; none when the partition has no table there (R355). -/
def State.homeLoc (s : State) (p d i : Nat) : Option Nat :=
  let ht := s.rd (hsLoc ((s.pool p).1 * 4096 + 8 * d)) 8 % 2 ^ 54 / 4096 * 4096
  if ht = 0 then none else some (hsLoc (ht + 8 * i))
/-- Frames of a page. -/
def framesOf (pa log : Nat) : List Nat := (List.range (2 ^ (log - 16))).map fun i => pa / 65536 + i
/-- The home of a near-tier page whose frames all have one, with consecutive homes (R355). -/
def State.homePage (s : State) (p d pa log : Nat) : Option Nat :=
  let es := (framesOf pa log).map fun i => match s.homeLoc p d i with
    | some l => s.rd l 8
    | none => 0
  let h := es.headD 0 % 2 ^ 42 / 65536 * 65536
  if (es.all fun e => decide (e % 2 = 1)) && (es.mapIdx fun i e => decide (e % 2 ^ 42 / 65536 * 65536 = h + 65536 * i)).all (fun (b : Bool) => b) then some h else none
/-- Set or clear FREE of frames (R355). -/
def State.setFree (s : State) (p d : Nat) (is : List Nat) (free : Bool) : State :=
  is.foldl (fun (s : State) i => match s.homeLoc p d i with
    | some l => s.wr l 8 (let e := s.rd l 8
      e / 4 * 4 + e % 2 + if free then 2 else 0)
    | none => s) s
/-- The lowest free run of frames for a page, aligned to it, in channels that the partition holds; for a page of several frames, frames whose homes are
consecutive (R355). -/
def State.freeFrame (s : State) (p d log : Nat) : Option Nat :=
  let n := 2 ^ (log - 16)
  match s.homeLoc p d 0 with
  | none => none
  | some b =>
    let fs := s.mem.cells.filterMap fun (c : Host.Cell) =>
      if b ≤ c.1 ∧ c.1 < b + 8 * 786432 ∧ (c.1 - b) % 8 = 0 ∧ c.2.toNat / 2 % 2 = 1 then some ((c.1 - b) / 8) else none
    fs.find? fun i => decide (i % n = 0) && (decide (n = 1) || (s.homePage p d (i * 65536) log).isSome) &&
      (List.range n).all fun j => s.holdsChannel p d ((i + j) * 65536) && fs.contains (i + j)

/-- Is region b in WSMAP? -/
def State.wsBit (s : State) (vf d b : Nat) : Bool := decide ((s.mem.read (s.wsLoc vf d + b / 8)).toNat / 2 ^ (b % 8) % 2 = 1)
/-- The region of a page, the first that it covers. -/
def regionOf (ipa : Nat) : Nat := ipa / 2 ^ 21
/-- Does a page cover a region? -/
def coversRegion (p : Nat × Nat × Nat × Nat) (b : Nat) : Bool := decide (p.1 < (b + 1) * 2 ^ 21) && decide (b * 2 ^ 21 < p.1 + 2 ^ p.2.2.2)
/-- Regions that some page of a list covers, rising. -/
def regionsOf (ps : List (Nat × Nat × Nat × Nat)) : List Nat :=
  (ps.flatMap fun p => (List.range (max 1 (2 ^ (p.2.2.2 - 21)))).map fun i => regionOf p.1 + i).foldl insertSorted []

/-- Note the outgoing working set: WSMAP takes the regions with a leaf whose AC is 1, and those AC bits become 0 (R354). -/
def State.noteSet (s : State) (vf d : Nat) : State :=
  let used := (s.leaves vf d).filter fun p => decide (p.2.2.1 / 32 % 2 = 1)
  let base := s.wsLoc vf d
  let s1 := s.zeroRange base wsBytes
  let s2 := (regionsOf used).foldl (fun (s : State) b => { s with mem := s.mem.write (base + b / 8) (putBit (s.mem.read (base + b / 8)) (b % 8) true) }) s1
  used.foldl (fun (s : State) p => { s with mem := s.mem.write p.2.1 (s.mem.read p.2.1 &&& 0xDF) }) s2

/-- SWITCH_TICK: SLICE µs after the slice began, with a switch or a replacement asked for, the outgoing tenant's admission and pick-up stop. With
nothing asked for the slice ends all the same, its working set is noted (R354), and a new slice of the same tenant begins. A hart in reset holds the
tick (R349). -/
def execSwitchTick (p : Nat) (s : State) : Host.Outcome State Fault Refusal :=
  .next (match s.hub.parts.find p with
    | none => s
    | some q =>
      if q.tick.isSome || q.swapping || !s.ringRuns || decide (s.ftb < q.sliceStart + ticksOf (q.desc[0].toNat % 2 ^ 32)) then s
      else if q.incoming.isSome || q.next.isSome then s.modPart p fun q => { q with tick := some s.ftb, saved := 0 }
      else ((match q.tenant with
        | some vf => (s.diesOf p).foldl (fun (s : State) d => s.noteSet vf d) s
        | none => s).modPart p fun q => { q with sliceStart := s.ftb }))

/-- Start a page move: the entry carries MV = 1 (R175, R354). -/
def State.startMove (s : State) (d : Nat) (m : Move) : State :=
  (s.modDie d fun x => { x with moves := x.moves ++ [m] }).wr (m.pte + 1) 1 ((s.mem.read (m.pte + 1)).toNat / 4 * 4 + (s.mem.read (m.pte + 1)).toNat % 2 + 2)

/-- The outgoing function's next page to go down: near, not moving, with a home. -/
def State.nextDown (s : State) (p vf d : Nat) : Option Move :=
  (s.leaves vf d).findSome? fun q =>
    let e := q.2.2.1
    if e / 512 % 2 = 1 ∨ !isNear (leafOut e) then none
    else (s.homePage p d (leafOut e) q.2.2.2).map fun h => ⟨q.2.1, leafOut e, h, 2 ^ q.2.2.2, false, p⟩

/-- The incoming function's pages of its WSMAP that are not near yet, by region. -/
def State.upPages (s : State) (vf d : Nat) : List (Nat × Nat × Nat × Nat) :=
  (s.leaves vf d).filter fun q => !isNear (leafOut q.2.2.1) && (regionsOf [q]).any fun b => s.wsBit vf d b

/-- TIER_SWAP: on die d the outgoing working set is noted first; then each step starts one page down and one page up, the first by region for which a
run of frames is free. Up-swap ends when the set is resident, or when no page finds frames and none will become free (log 81). -/
def execTierSwap (p d : Nat) (s : State) : Host.Outcome State Fault Refusal :=
  .next (match s.hub.parts.find p with
    | none => s
    | some q =>
      if !q.swapping || decide (4 ≤ d) || q.upDone.getLsbD d then s
      else if !(q.noted.getLsbD d) then
        let s1 := s.modPart p fun q => { q with noted := putBit q.noted d true }
        (match q.outgoing with
         | some vf => s1.noteSet vf d
         | none => s1)
      else
        let same := decide (q.outgoing = q.tenant)
        let down := match q.outgoing with
          | some vf => if same then none else s.nextDown p vf d
          | none => none
        let s1 := match down with
          | some m => s.startMove d m
          | none => s
        let ups := match q.tenant with
          | some vf => if same then [] else s1.upPages vf d
          | none => []
        let idle := (s1.die d).moves.all fun (m : Move) => decide (m.part ≠ p)
        match (ups.filter fun u => decide (u.2.2.1 / 512 % 2 = 0)).findSome? fun u => (s1.freeFrame p d u.2.2.2).map fun f => (u, f) with
        | some (u, f) => (s1.setFree p d ((List.range (2 ^ (u.2.2.2 - 16))).map (· + f)) false).startMove d
            ⟨u.2.1, leafOut u.2.2.1, f * 65536, 2 ^ u.2.2.2, true, p⟩
        | none => if idle then s1.modPart p fun q => { q with upDone := putBit q.upDone d true } else s1)

/-- A location after the page at `src` has moved to `dst`. -/
def movedLoc (src dst n l : Nat) : Nat := if src ≤ l ∧ l < src + n then l - src + dst else l
/-- A pending local write after a page move: it lands in the copy that remains (R176). -/
def LEntry.moved (e : LEntry) (f : Nat → Nat) : LEntry :=
  { e with ptes := e.ptes.map f, op := match e.op with
      | .store bs => .store (bs.map fun (b : Nat × Byte) => (f b.1, b.2))
      | .rmw l r => .rmw (f l) r }
/-- What a context keeps of physical locations follows the page, in a context that runs and in one that is saved: pending writes with the entries whose D
they set, waits and pins (R158, R168, R176). -/
def Ctx.moved (x : Ctx) (f : Nat → Nat) : Ctx :=
  { x with
    lsq := x.lsq.map fun (e : LEntry) => e.moved f
    basket := x.basket.map fun (h : Nat × Held) => (h.1, match h.2 with
      | .mem ls rs => .mem (ls.map fun (e : LEntry) => e.moved f) rs
      | o => o)
    wait := x.wait.map fun (w : Wait) => { w with loc := f w.loc }
    wfe := x.wfe.map fun (w : Wait) => { w with loc := f w.loc }
    pins := x.pins.map fun (q : Pin) => if q.live then { q with line := f (q.line * 64) / 64 } else q }

/-- PAGE_MOVE_COMPLETE: the oldest move of die d ends: the page is copied (down only if D = 1), its entry names the new place with MV and, going down, D
clear, and the frame returns to the free list (R176, R354). -/
def execPageMoveComplete (d : Nat) (s : State) : Host.Outcome State Fault Refusal :=
  .next (match (s.die d).moves with
    | [] => s
    | m :: rest =>
      let o := s.hub.home * 4 + d
      let e := s.rd m.pte 8
      let src := memLoc o m.src
      let dst := memLoc o m.dst
      let s0 := s.modDie d fun x => { x with moves := rest }
      let s1 := if m.up || decide (e / 64 % 2 = 1) then
          let t := (s0.zeroRange dst m.size).copyRange src dst m.size
          let marks := (t.poison.filter fun w => decide (src / 8 ≤ w) && decide (w < (src + m.size) / 8)).map fun w => w - src / 8 + dst / 8
          { t with poison := marks.foldl insertSorted t.poison }
        else s0
      let e1 := e / 2 ^ 54 * 2 ^ 54 + m.dst + e % 2 ^ 16 - e / 512 % 2 * 512
      let e2 := if m.up then e1 else e1 - e / 64 % 2 * 64
      let s2 := s1.wr m.pte 8 e2
      let f := movedLoc src dst m.size
      let s3 := { s2 with ctxs := ⟨s2.ctxs.l.map fun (p : Nat × Ctx) => (p.1, p.2.moved f)⟩
                          saved := ⟨s2.saved.l.map fun (p : Nat × Saved) => (p.1, { p.2 with ctx := p.2.ctx.moved f })⟩ }
      let s4 := s3.modDie d fun x => { x with flags := x.flags.map fun (i : Incr) => if i.va.isNone then { i with loc := f i.loc } else i }
      if m.up then s4 else s4.setFree m.part d ((List.range (m.size / 65536)).map (· + m.src / 65536)) true)

/-! ### Residency (R356) -/

/-- Is the residency of a function on a die at least THR percent? -/
def State.resident (s : State) (vf d : Nat) : Bool :=
  let ps := s.leaves vf d
  let rs := (regionsOf ps).filter fun b => s.wsBit vf d b
  let near := rs.filter fun b => ps.all fun q => !coversRegion q b || isNear (leafOut q.2.2.1)
  let thr := (s.vfWord vf 0).getD 0 / 2 ^ 40 % 256
  rs.isEmpty || decide (rs.length * thr ≤ near.length * 100)

/-- RESIDENCY_GATE_OPEN: the die's sequencers take the incoming function's graph position up; the incoming slice begins when the last gate opens, and the SWITCH command completes; the switch is over once every die's
up-swap has ended as well (R352, R356). While a hart is in reset no new tenant enters (R349). -/
def execResidencyGateOpen (p d : Nat) (s : State) : Host.Outcome State Fault Refusal :=
  .next (match s.hub.parts.find p with
    | none => s
    | some q =>
      let done := (s.diesOf p).all (fun e => q.gates.getLsbD e && q.upDone.getLsbD e)
      if !q.swapping || !s.ringRuns then s
      else if done then s.modPart p fun q => { q with swapping := false, outgoing := none }
      else if decide (4 ≤ d) || q.gates.getLsbD d || !(q.noted.getLsbD d) then s
      else
        let opens := q.upDone.getLsbD d || (match q.tenant with
          | some vf => s.resident vf d
          | none => true)
        if !opens then s
        else
          let gates := putBit q.gates d true
          let s1 := (match q.tenant with
            | some vf => s.restorePosition vf d
            | none => s).modPart p fun q => { q with gates := gates }
          let last := (s.diesOf p).all fun e => gates.getLsbD e
          if last && q.cmdWaits then (s1.modPart p fun q => { q with sliceStart := s.ftb, cmdWaits := false }).completeCmd stOK
          else if last then s1.modPart p fun q => { q with sliceStart := s.ftb }
          else s1)

end Sys2Proof.Machine
end

