-- ==== Sys2Proof/Machine/Hub.lean ====
section
/-! DEFINITION. The hub: boot, harts, queue notifies, the supervisor and debug registers, trace samples and links (R2, R13, R204, R335, R338,
R339, R344 to R351, R370 to R373). -/

namespace Sys2Proof.Machine

/-! ### Boot (R2, R13, R339) -/

/-- Failures after which the hub stays in BOOT_FAIL. -/
def bootTries : Nat := 8

/-- Field of n bytes at an offset of an image's header, little-endian. R339 gives the header a length and a version and places neither: the model puts
the version at byte 0, the length at 8, and at 16 and 24 the address of the sequencer firmware and its entry (log 83). -/
def headerField (i : Image) (o n : Nat) : Nat := (((i.header.drop o).take n).map BitVec.toNat).foldr (fun x acc => x + 256 * acc) 0
/-- Bytes of an image: header, body and signature. -/
def imageLength (i : Image) : Nat := i.header.length + i.body.length + i.signature.length
/-- The sequencer firmware, as bytes by location: the body at the address that the header gives. -/
def imageFirmware (i : Image) : List (Nat × Byte) := i.body.mapIdx fun j b => (headerField i 16 8 + j, b)
/-- Where the sequencer firmware begins (log 73). -/
def imageEntry (i : Image) : Nat := headerField i 24 8
/-- The bytes of a fused hash. -/
def hashBytes (h : BitVec 512) : List Byte := (List.range 64).map fun j => h.extractLsb' (8 * j) 8

/-- Does an image verify: the signature over the digest of header and body under the public key whose SHA3-512 hash is fused, the length that a header
of 64 bytes gives, and its version against the fused rollback counter (R7, R339)? -/
def imageOk (fuse : W32) (key : BitVec 512) (i : Image) : Bool :=
  decide (sha3_512 i.publicKey = hashBytes key) && mldsaVerify i.publicKey (sha3_512 (i.header ++ i.body)) i.signature &&
    decide (i.header.length = 64) && decide (headerField i 8 8 = imageLength i) && decide (fuse.toNat ≤ headerField i 0 4)

/-- The images that the ROM tries, in order: the flash's, then those that come from reachable peers by ascending package number, then those of the
management port (R339). A fetched image carries its package, or `none` for the management port. -/
def State.bootOrder (s : State) (got : List (Option Nat × Image)) : List Image :=
  s.hub.flash.toList ++ ((got.filter fun (p : Option Nat × Image) => match p.1 with
    | some q => !s.hub.lost.contains q
    | none => true).insertionSort fun a b => a.1.getD 1024 ≤ b.1.getD 1024).map (·.2)

/-- What verifying images one after the other comes to: the first that verifies, `some none` after eight failures, else undecided. -/
def bootResult (fuse : W32) (key : BitVec 512) : Nat → List Image → Option (Option Image)
  | 0, _ => some none
  | _, [] => none
  | n + 1, i :: r => if imageOk fuse key i then some (some i) else bootResult fuse key n r

/-- Assign physical cores to the exposed numbers of a die: a failing core's number goes to the lowest free spare that passes; the numbers left over
are not exposed (R2, R339). -/
def repair (failed : List Nat) : List Nat → List Nat → List (Nat × Option Nat)
  | [], _ => []
  | n :: r, spares =>
    if failed.contains n then
      (match spares with
       | sp :: more => (n, some sp) :: repair failed r more
       | [] => (n, none) :: repair failed r [])
    else (n, some n) :: repair failed r spares

/-- The march test and repair of die d; `failed` lists physical cores by die * 68 + index. -/
def State.bootDie (s : State) (failed : List Nat) (d : Nat) : State :=
  let bad := (failed.filter fun f => decide (f / 68 = d)).map (· % 68)
  let spares := [64, 65, 66, 67].filter fun sp => !bad.contains sp
  let map := repair bad (List.range 64) spares
  let used := map.filterMap fun (p : Nat × Option Nat) => if p.2 = some p.1 then none else p.2
  let s1 := map.foldl (fun (s : State) (p : Nat × Option Nat) =>
    match p.2 with
    | some ph => if ph = p.1 then s else s.modCore (d * 64 + p.1) fun k => { k with phys := ph }
    | none => s.modCore (d * 64 + p.1) fun k => { k with exposed := false }) s
  s1.modDie d fun x => { x with spares := spares.filter fun sp => !used.contains sp, replace := x.replace || map.any fun (p : Nat × Option Nat) => p.2.isNone }

/-- M firmware runs on every hart and has started HS, and the ring may run; the image that verified stands in the flash (R334, R339 steps 3 and 4). -/
def State.startHarts (s : State) (i : Image) : State :=
  s.modHub fun h =>
    { h with booted := true, bootFail := false, supDown := false, hartRun := 0xFF, hartSeen := Vector.replicate 8 s.ftb, flash := some i,
             harts := Vector.replicate 8 { Hart.zero with level := .hs } }

/-- A context that runs the sequencer firmware from its entry (R256, log 73). -/
def firmwareCtx (i : Image) (now : Nat) : Ctx :=
  { Ctx.idle with phase := .run, pc := imageEntry i % 2 ^ 54 / 4 * 4, vf := 0x7F, prv := true, seqr := true, picked := now, nextIssue := now, quantum := now }
/-- M loads the sequencer firmware and starts it in every context of the 32 sequencers (R256, R339 step 4, log 73). -/
def State.startSequencers (s : State) (i : Image) : State :=
  (List.range 128).foldl (fun (s : State) c => s.setCtx (1024 + c) (firmwareCtx i s.now)) (s.storeBytes (imageFirmware i))
/-- Every core's store holds the library, and CYCLE counts from here (R86, R218). -/
def State.startCores (s : State) : State :=
  (List.range 256).foldl (fun (s : State) k => s.modCore k fun q => { q with library := true, origin := s.now }) s

/-- The machine before its ROM looks for an image: its first state after the march test and repair, where the `failed` cores fail (R339). The
replace-requested state persists (R13), and so do the fuses and the flash. -/
def State.powerUp (s : State) (failed : List Nat) : State :=
  [0, 1, 2, 3].foldl (fun (s : State) d => s.bootDie failed d) { State.reset with
    now := s.now, agenda := s.agenda, fresh := s.fresh, walks := s.walks
    dies := ⟨s.dies.l.filterMap fun (p : Nat × DieSt) => if p.2.replace then some (p.1, { DieSt.zero with replace := true }) else none⟩
    hub := { HubSt.zero with
      pkg := s.hub.pkg, home := s.hub.home, membership := s.hub.membership, farVfs := s.hub.farVfs, fuse := s.hub.fuse, fuseKey := s.hub.fuseKey
      flash := s.hub.flash, images := s.hub.images, epoch := s.now } }

/-- POWER_ON: the machine boots from its first state; the march test finds `failed` cores, and `images` are what the ROM fetches (R339). M draws the
supervisor queue's key (R335). -/
def execPowerOn (failed : List Nat) (images : List (Option Nat × Image)) (s : State) : Host.Outcome State Fault Refusal :=
  .next (match bootResult s.hub.fuse s.hub.fuseKey bootTries ((s.powerUp failed).bootOrder images) with
    | some (some i) => ((((s.powerUp failed).startHarts i).modHub fun h => { h with images := h.images + 1 }).startCores).startSequencers i
    | some none => (s.powerUp failed).modHub fun h => { h with bootFail := true }
    | none => s.powerUp failed)

/-- What the hub sends over every trained link in its capability table and reports through the management port: the three capabilities, the
replace-requested flag, BOOT_FAIL and SUP_DOWN (R13, R204, R339, R351, R363). -/
structure Advert where
  caps : BitVec 3
  replace : Bool
  bootFail : Bool
  supDown : Bool
deriving DecidableEq, Repr, Inhabited

/-- Has a die asked to be replaced (R13)? -/
def State.replaceRequested (s : State) : Bool := (List.range 4).any fun d => (s.die d).replace
/-- What the hub advertises now. -/
def State.advert (s : State) : Advert := ⟨7, s.replaceRequested, s.hub.bootFail, s.hub.supDown⟩

/-! ### Harts (R348, R349, R351) -/

/-- Is a hart running? -/
def State.hartUp (s : State) (h : Nat) : Bool := s.hub.booted && s.hub.hartRun.getLsbD h
/-- FTB count of a hart's last heartbeat. -/
def State.seen (s : State) (h : Nat) : Nat := s.hub.hartSeen.toList.getD h 0
/-- Change entry h of a vector of eight. -/
def setEight {β : Type} (v : Vector β 8) (h : Nat) (f : β → β) : Vector β 8 := v.mapIdx fun i x => if i = h then f x else x

/-- HEARTBEAT: every 100 µs a running hart adds 1 to its word (R348). -/
def execHeartbeat (h : Nat) (s : State) : Host.Outcome State Fault Refusal :=
  .next (if s.hartUp h && decide (s.seen h + ticksOf 100 ≤ s.ftb) then
    s.modHub fun b => { b with hbeat := setEight b.hbeat h (· + 1), hartSeen := setEight b.hartSeen h fun _ => s.ftb }
  else s)

/-- Is the guest of a function placed on hart h, as the journal says (R349, R350)? -/
def State.placedOn (s : State) (h vf : Nat) : Bool := decide (s.decided.place.find vf = some h)
/-- A table without the entries that a test picks. -/
def Table.without {β : Type} (t : Table β) (f : Nat → Bool) : Table β := ⟨t.l.filter fun (p : Nat × β) => !f p.1⟩
/-- The entries of another table that a test picks, laid over a table. -/
def Table.restore {β : Type} (t old : Table β) (f : Nat → Bool) : Table β :=
  (old.l.filter fun (p : Nat × β) => f p.1).foldl (fun (t : Table β) (p : Nat × β) => t.set p.1 p.2) t
/-- Does a work queue belong to a function that a test picks? -/
def State.queueOf (s : State) (f : Nat → Bool) (qid : Nat) : Bool := match s.hub.queues.find qid with
  | some q => f q.vf
  | none => false
/-- What HS has decided, without what concerns the guests that a test picks. -/
def State.forgetDecisions (s : State) (f : Nat → Bool) : Decisions :=
  ⟨s.hub.hs.place.without f, s.hub.hs.handler.without f, s.hub.hs.consumer.without (s.queueOf f)⟩
/-- What HS has decided, with what the journal holds for the guests that a test picks (R348, R350). -/
def State.recallDecisions (s : State) (f : Nat → Bool) : Decisions :=
  ⟨s.hub.hs.place.restore s.decided.place f, s.hub.hs.handler.restore s.decided.handler f, s.hub.hs.consumer.restore s.decided.consumer (s.queueOf f)⟩

/-- HEARTBEAT_TIMEOUT: another live hart sees no heartbeat of hart h for 300 µs and resets it: its registers, and what it knew of the guests placed on it,
are lost (R348). -/
def execHeartbeatTimeout (h : Nat) (s : State) : Host.Outcome State Fault Refusal :=
  .next (if s.hartUp h && decide (s.seen h + ticksOf 300 ≤ s.ftb) && (List.range 8).any fun w => decide (w ≠ h) && s.hartUp w then
    s.modHub fun b => { b with hartRun := putBit b.hartRun h false, harts := setEight b.harts h fun _ => Hart.zero, hs := s.forgetDecisions (s.placedOn h) }
  else s)

/-- The responses that waited for the guests which a test picks are taken, in order (R349). -/
def State.takeHeld (s : State) (f : Nat → Bool) : State :=
  (s.hub.heldResp.filter fun (r : Nat × W64) => f r.1).foldl (fun (s : State) (r : Nat × W64) => (s.respond (r.2.toNat / 2 ^ 62) (r.2.toNat % 2 ^ 54) r.1).2)
    (s.modHub fun b => { b with heldResp := b.heldResp.filter fun (r : Nat × W64) => !f r.1 })

/-- HART_REBUILD_COMPLETE: the journal has been replayed from its last checkpoint: the hart is back at level HS and knows what HS had decided for the
guests placed on it, whose responses go on; device state is not reapplied (R348 to R350). -/
def execHartRebuildComplete (h : Nat) (s : State) : Host.Outcome State Fault Refusal :=
  .next (if s.hub.booted && !s.hub.supDown && decide (h < 8) && !(s.hub.hartRun.getLsbD h) then
    (s.modHub fun b => { b with hartRun := putBit b.hartRun h true, hartSeen := setEight b.hartSeen h fun _ => s.ftb,
                                harts := setEight b.harts h fun _ => { Hart.zero with level := .hs }, hs := s.recallDecisions (s.placedOn h) }).takeHeld (s.placedOn h)
  else s)

/-- SUP_DOWN: no hart has shown a heartbeat for 1 ms (R351). -/
def execSupDown (s : State) : Host.Outcome State Fault Refusal :=
  .next (if s.hub.booted && (List.range 8).all fun h => decide (s.seen h + ticksOf 1000 ≤ s.ftb) then s.modHub fun b => { b with supDown := true } else s)

/-- SUPERVISOR_RESTART: R339 steps 3 and 4 for the hub alone, and M replays the journal: what HS knows is what the journal says. Compute state survives,
the sequencers and the supervisor queue's key with it (R350, R351). -/
def execSupervisorRestart (images : List (Option Nat × Image)) (s : State) : Host.Outcome State Fault Refusal :=
  .next (if !s.hub.supDown then s
    else match bootResult s.hub.fuse s.hub.fuseKey bootTries (s.bootOrder images) with
      | some (some i) => ((s.startHarts i).modHub fun b => { b with hs := s.decided }).takeHeld fun _ => true
      | some none => s.modHub fun b => { b with bootFail := true, booted := false }
      | none => s)

/-! ### Queue notifies and records (R345, R346) -/

/-- QUEUE_NOTIFY: a notify of 24 bytes is verified and accepted, or counted and dropped; a queue that is not valid counts it too. -/
def execQueueNotify (n : BitVec 192) (s : State) : Host.Outcome State Fault Refusal :=
  .next (
    let qid := (n.extractLsb' 0 32).toNat
    let seq := n.extractLsb' 64 64
    match s.hub.queues.find qid with
    | none => s.modHub fun h => { h with badTags := h.badTags.set qid (satAdd (h.badTags.get qid 0) 1) }
    | some q =>
      let put (q : WorkQueue) : State := s.modHub fun h => { h with queues := h.queues.set qid q }
      if n.extractLsb' 128 64 ≠ notifyTag q.key (n.extractLsb' 0 128) then put { q with badTag := satAdd q.badTag 1 }
      else if seq.toNat ≤ q.lastSeq.toNat then put { q with replay := satAdd q.replay 1 }
      else (put { q with lastSeq := seq, pi := n.extractLsb' 32 32 }).modHub fun h =>
        { h with vsIrq := if h.vsIrq.contains q.vf then h.vsIrq else h.vsIrq ++ [q.vf] })

/-- WORK_QUEUE_RECORD_WRITE: a peer writes bytes of records into the ring of a queue, in its function's memory (R345). -/
def execWorkQueueRecordWrite (qid ofs : Nat) (data : List Byte) (s : State) : Host.Outcome State Fault Refusal :=
  .next (match s.hub.queues.find qid with
    | none => s
    | some q =>
      let locAt (i : Nat) : Option Xlat := s.xlatVa q.vf (q.ring.toNat + ofs + i) .wr
      let bs := (data.mapIdx fun i b => (locAt i).map fun x => (x, b)).filterMap id
      (bs.foldl (fun (s : State) (p : Xlat × Byte) => s.touch p.1.ptes true) s).storeBytes (bs.map fun (p : Xlat × Byte) => (p.1.loc, p.2)))

/-! ### Registers (R338, R370) -/

/-- Clamp a number. -/
def clamp (lo hi n : Nat) : Nat := max lo (min hi n)

/-- Write a register of the debug block at an offset in it (R370 to R373). -/
def State.debugWrite (s : State) (o : Nat) (v : W64) : State :=
  s.modHub fun h =>
    if o = 0x000 then
      let sper := clamp 8 24 (v.toNat / 2 ^ 50 % 64)
      { h with dbgCtl := BitVec.ofNat 64 (v.toNat / 2 ^ 60 * 2 ^ 60 + sper * 2 ^ 50),
               -- the first samples come 2^SPER cycles after TREN has risen (log 91)
               lastSample := if v.getLsbD 63 && !h.dbgCtl.getLsbD 63 then s.now else h.lastSample }
    else if o = 0x008 then { h with trBase := v &&& 0x003FFFFFFFFFF000 }
    else if o = 0x010 then { h with trSize := clamp 7 24 v.toNat }
    else if o = 0x020 then { h with trCi := v }
    else if 0x040 ≤ o ∧ o < 0x060 ∧ o % 8 = 0 then { h with smask := h.smask.mapIdx fun i x => if i = (o - 0x040) / 8 then v else x }
    else if o = 0x060 then { h with mfAddr := v &&& 0x803FFFFFFFFFFFFC }
    else if 0x100 ≤ o ∧ o < 0x380 ∧ o % 8 = 0 then
      let d := (o - 0x100) / 0x80
      let i := (o - 0x100) % 0x80 / 8
      if hasCounter d i then { h with errcnt := h.errcnt.set (errKey d i) v } else h
    else if 0x1000 ≤ o ∧ o < 0x5000 ∧ o % 8 = 0 ∧ o % 0x40 < 0x28 then
      -- IDLE counts on from here
      if o % 0x40 = 0x20 then { h with mclass := (h.mclass.set o v).set (o + 0x10) (BitVec.ofNat 64 (s.idleCycles ((o - 0x1000) / 0x1000 * 64 + o % 0x1000 / 0x40))) }
      else { h with mclass := h.mclass.set o v }
    else h

/-- A register of the debug block as it reads (R370 to R373). -/
def State.debugRead (s : State) (o : Nat) : W64 :=
  let h := s.hub
  if o = 0x000 then h.dbgCtl
  else if o = 0x008 then h.trBase
  else if o = 0x010 then BitVec.ofNat 64 h.trSize
  else if o = 0x018 then h.trPi
  else if o = 0x020 then h.trCi
  else if o = 0x028 then h.trDrop
  else if 0x040 ≤ o ∧ o < 0x060 ∧ o % 8 = 0 then h.smask.toList.getD ((o - 0x040) / 8) 0
  else if o = 0x060 then h.mfAddr
  else if 0x100 ≤ o ∧ o < 0x380 ∧ o % 8 = 0 then
    let d := (o - 0x100) / 0x80
    let i := (o - 0x100) % 0x80 / 8
    if hasCounter d i then h.errcnt.get (errKey d i) 0 else 0
  else if 0x1000 ≤ o ∧ o < 0x5000 ∧ o % 8 = 0 ∧ o % 0x40 < 0x28 then s.mclassRead ((o - 0x1000) / 0x1000 * 64 + o % 0x1000 / 0x40) (o % 0x40 / 8)
  else 0

/-- Base of the debug block and of the consumer indices of trap queues in the register space of this model (log 19). -/
def debugBase : Nat := 0x200000
/-- Consumer index of function f's trap queue; f = 0x7F is HS's. -/
def tqBase : Nat := 0x300000

/-- Where HS writes the membership table: bit 63 of the value adds the owner id in bits 11:0, 0 removes it (R173, log 82). -/
def memberBase : Nat := 0x400000
/-- Where the functions that other packages install become known: dword i of function f in package p at 256 * (128 * p + f) + 8 * i, dword 16 being its
partition's channels (log 82). -/
def farBase : Nat := 0x500000
/-- Where HS makes its decisions known: at 8 * f the hart on which function f's guest is placed (bit 63 set) or none, at 0x10000 + 8 * f its handler, at
0x20000 + 8 * q the consumer index of work queue q, and at 0x30000 the slots of HS's trap queue (R350, log 84). -/
def hsBase : Nat := 0x4000000
/-- Where the state of hart h lies, at 0x20000 * h: x registers, then the pc at 0x100, the level at 0x108 (0 M, 1 HS, 2 VS, 3 U) and the guest at 0x110,
and control and status register n at 0x8000 + 8 * n (R334, log 84). -/
def hartBase : Nat := 0x5000000
/-- Where the memory of VS guests lies: byte a of function f's guest at 2^40 * f + a (R334, log 84). -/
def guestBase : Nat := 0x10000000000

/-- SUP_STATE (R338). -/
def State.supState (s : State) : W64 :=
  BitVec.ofNat 64 ((if s.hub.bootFail then 1 else 0) + (if s.hub.supDown then 2 else 0) + if s.replaceRequested then 4 else 0)
/-- PART_STAT of partition p (R338). -/
def State.partStat (s : State) (p : Nat) : W64 :=
  match s.hub.parts.find p with
  | none => 0
  | some q => BitVec.ofNat 64 (q.overrun.toNat * 2 ^ 32 + q.cmiss % 4)
/-- A register at an offset from HUBREG as it reads: TRESP reads 0 (R338, R370). -/
def State.readReg (s : State) (ofs : Nat) : W64 :=
  let h := s.hub
  if debugBase ≤ ofs ∧ ofs < tqBase then s.debugRead (ofs - debugBase)
  else if ofs = 0x0000 then h.cmdBase
  else if ofs = 0x0008 then BitVec.ofNat 64 h.cmdSize
  else if ofs = 0x0010 then h.cmdPi
  else if ofs = 0x0018 then h.cmdCi
  else if ofs = 0x0020 then h.trespIgn
  else if ofs = 0x0028 then s.supState
  else if 0x0040 ≤ ofs ∧ ofs < 0x0080 ∧ ofs % 8 = 0 then h.hbeat.toList.getD ((ofs - 0x40) / 8) 0
  else if 0x0100 ≤ ofs ∧ ofs < 0x0300 ∧ ofs % 8 = 0 then s.partStat ((ofs - 0x0100) / 8)
  else 0
/-- A queue descriptor read back: the counters as they stand, and KEY as 0 (R347, log 80). -/
def State.readQueue (s : State) (qid : Nat) : List W64 :=
  match s.hub.queues.find qid with
  | none => [BitVec.ofNat 64 (qid * 2 ^ 44), 0, 0, (s.hub.badTags.get qid 0 ++ (0 : W32) : BitVec 64), 0, 0, 0, 0]
  | some q => [BitVec.ofNat 64 (2 ^ 63 + q.vf * 2 ^ 56 + qid * 2 ^ 44), q.ring, q.lastSeq, (q.badTag ++ q.replay : BitVec 64), 0, 0, 0, 0]

/-- A write of the membership table, which package number 0x3FF never enters (R173). -/
def State.writeMember (s : State) (v : W64) : State :=
  let m := v.toNat % 2 ^ 12
  let put (l : List Nat) : List Nat := if v.getLsbD 63 then if m / 4 = 0x3FF then l else (if l.contains m then l else l ++ [m]) else l.filter fun x => decide (x ≠ m)
  s.modHub fun h => { h with membership := put h.membership }
/-- A dword of a function of another package. -/
def State.writeFar (s : State) (o : Nat) (v : W64) : State :=
  let f := (s.hub.farVfs.find (o / 256)).getD ⟨Vector.replicate 16 0, 0⟩
  let i := o % 256 / 8
  let f1 : FarVf := if i < 16 then ⟨f.d.mapIdx fun j x => if j = i then v else x, f.channels⟩ else if i = 16 then ⟨f.d, v⟩ else f
  s.modHub fun h => { h with farVfs := h.farVfs.set (o / 256) f1 }

/-- HS decides: the journal first, in both copies, then what the live harts know (R350). -/
def State.hsDecides (s : State) (e : JEntry) : State :=
  if s.journalUp then (s.journalWrite e).modHub fun h => { h with hs := h.hs.take e } else s
/-- A decision of HS at an offset from `hsBase`. -/
def State.writeHs (s : State) (o : Nat) (v : W64) : State :=
  if o < 8 * 96 then s.hsDecides (.place (o / 8) (if v.getLsbD 63 then some (v.toNat % 8) else none))
  else if 0x10000 ≤ o ∧ o < 0x10000 + 8 * 128 then s.hsDecides (.handler ((o - 0x10000) / 8) v)
  else if 0x20000 ≤ o ∧ o < 0x20000 + 8 * 4096 then s.hsDecides (.consumer ((o - 0x20000) / 8) v)
  else if o = 0x30000 then s.modHub fun h => { h with hsSlots := clamp 16 65535 v.toNat }
  else s
/-- Hart h leaves the guest that it runs, whose state is kept, and takes up another's (R334). -/
def State.runGuest (s : State) (h : Nat) (vf : Option Nat) : State :=
  let x := s.hub.harts.toList.getD h Hart.zero
  let kept := match x.guest with
    | some f => s.hub.guests.set f ⟨{ x with guest := none }, (s.hub.guests.get f Guest.zero).mem⟩
    | none => s.hub.guests
  let next : Hart := match vf with
    | some f => { (kept.get f Guest.zero).hart with guest := some f }
    | none => { x with guest := none, level := .hs }
  s.modHub fun b => { b with guests := kept, harts := setEight b.harts h fun _ => next }
/-- The level of a number. -/
def levelOf (n : Nat) : Level := match n % 4 with
  | 0 => .m
  | 1 => .hs
  | 2 => .vs
  | _ => .u
/-- A write of a hart's state: x0 reads as zero (R334). -/
def State.writeHart (s : State) (h o : Nat) (v : W64) : State :=
  let put (f : Hart → Hart) : State := s.modHub fun b => { b with harts := setEight b.harts h f }
  if o < 0x100 then put fun x => { x with x := x.x.mapIdx fun i w => if i = o / 8 ∧ i ≠ 0 then v else w }
  else if o = 0x100 then put fun x => { x with pc := v }
  else if o = 0x108 then put fun x => { x with level := levelOf v.toNat }
  else if o = 0x110 then s.runGuest h (if v.getLsbD 63 then some (v.toNat % 96) else none)
  else if 0x8000 ≤ o ∧ o < 0x10000 then put fun x => { x with csr := x.csr.set ((o - 0x8000) / 8) v }
  else s
/-- A write of eight bytes of a guest's memory. -/
def State.writeGuest (s : State) (f a : Nat) (v : W64) : State :=
  let g := s.hub.guests.get f Guest.zero
  let m := (List.range 8).foldl (fun (t : Table Byte) i => t.set (a + i) (v.extractLsb' (8 * i) 8)) g.mem
  s.modHub fun b => { b with guests := b.guests.set f { g with mem := m } }
/-- CMD_PI advances: STATUS of each slot that it takes in is 0xFF while its command is pending (R336). -/
def State.writePi (s : State) (v : W64) : State :=
  let n := min (v - s.hub.cmdPi).toNat (2 ^ s.hub.cmdSize)
  ((List.range n).foldl (fun (s : State) i =>
    s.wr (hubLoc (s.hub.cmdBase.toNat + 64 * ((s.hub.cmdPi.toNat + i) % 2 ^ s.hub.cmdSize)) + 6) 1 0xFF) s).modHub fun h => { h with cmdPi := v }
/-- TRESP: a response of a guest whose hart is in reset waits for the rebuild (R344, R349). -/
def State.writeResp (s : State) (f : Nat) (v : W64) : State :=
  if (List.range 8).any fun h => s.hub.booted && !s.hub.hartRun.getLsbD h && s.placedOn h f then s.modHub fun b => { b with heldResp := b.heldResp ++ [(f, v)] }
  else (s.respond (v.toNat / 2 ^ 62) (v.toNat % 2 ^ 54) f).2

/-- REGISTER_WRITE: a 64-bit write at an offset from HUBREG (R338, R344, R370), or one of the complex's own state at an offset of the model's own. -/
def execRegisterWrite (ofs : Nat) (v : W64) (s : State) : Host.Outcome State Fault Refusal :=
  .next (
    let h := s.hub
    if guestBase ≤ ofs then (if (ofs - guestBase) / 2 ^ 40 < 96 then s.writeGuest ((ofs - guestBase) / 2 ^ 40) ((ofs - guestBase) % 2 ^ 40) v else s)
    else if hartBase ≤ ofs then (if (ofs - hartBase) / 0x20000 < 8 then s.writeHart ((ofs - hartBase) / 0x20000) ((ofs - hartBase) % 0x20000) v else s)
    else if hsBase ≤ ofs then s.writeHs (ofs - hsBase) v
    else if farBase ≤ ofs then s.writeFar (ofs - farBase) v
    else if memberBase ≤ ofs then s.writeMember v
    else if debugBase ≤ ofs ∧ ofs < tqBase then s.debugWrite (ofs - debugBase) v
    else if tqBase ≤ ofs then
      let f := (ofs - tqBase) / 8
      if f = 0x7F then s.hsConsume v
      else match h.vfs.find f with
        | none => s
        | some x =>
          let x1 := { x with tqCons := x.tqCons + (v.toNat + 2 ^ 64 - x.tqCons % 2 ^ 64) % 2 ^ 64 }
          if x1.tqCons ≤ x1.tqProd then s.modHub fun h =>
            { h with vfs := h.vfs.set f x1, vsIrq := if x1.tqCons = x1.tqProd then h.vsIrq.filter fun g => decide (g ≠ f) else h.vsIrq }
          else s
    else if 0x100000 ≤ ofs then
      let f := (ofs - 0x100000) / 0x1000
      if ofs % 0x1000 = 0 ∧ (f < 96 ∨ f = 0x7F) then s.writeResp f v else s
    else if ofs = 0x0000 then if h.cmdPi = h.cmdCi then s.modHub fun h => { h with cmdBase := v &&& 0x003FFFFFFFFFFFC0 } else s
    else if ofs = 0x0008 then if h.cmdPi = h.cmdCi then s.modHub fun h => { h with cmdSize := clamp 4 12 v.toNat } else s
    else if ofs = 0x0010 then s.writePi v
    else if 0x0040 ≤ ofs ∧ ofs < 0x0080 ∧ ofs % 8 = 0 then
      s.modHub fun h => { h with hbeat := setEight h.hbeat ((ofs - 0x40) / 8) fun _ => v, hartSeen := setEight h.hartSeen ((ofs - 0x40) / 8) fun _ => s.ftb }
    else s)

/-! ### Trace samples (R371, R372) -/

/-- CODE, PC and SCYC of an issue sample of core k, with its context: those of the bundle that issued last while none is held, and through its stall cycles,
else those of the bundle that is held (R371). -/
def State.issueSample (s : State) (k : Nat) : Nat × Nat × Nat × Nat :=
  match (s.core k).issuing with
  | some i =>
    let x := s.ctx (k * 4 + i)
    let code := match x.phase, x.held with
      | .run, .none => 0
      | .run, .interlock => 2
      | .run, _ => 1
      | .stopping, _ => 3
      | .frozen, _ => 3
      | _, _ => 4
    (i, code, if code = 4 then 0 else if code = 0 then x.ran.1 else x.pc, if code = 4 then 0 else if code = 0 then x.ran.2 else x.scyc)
  | none => (0, 4, 0, 0)

/-- CODE of a matrix sample: the class of the engine's cycle (R237). -/
def State.matrixSample (s : State) (k : Nat) : Nat :=
  match (s.core k).mrun with
  | none => 4
  | some r => s.runClass k r

/-- The samples of one core. -/
def State.sampleCore (s : State) (k : Nat) : State :=
  let (i, code, pc, scyc) := s.issueSample k
  let s1 := if s.hub.dbgCtl.getLsbD 61 then s.traceAs 0 (k * 4 + i) (if code = 4 then 0 else (s.ctx (k * 4 + i)).vf) code pc scyc else s
  if s.hub.dbgCtl.getLsbD 60 then
    (match (s.core k).mq, (s.core k).mrun with
     | q :: _, some _ => s1.traceAs 1 q.ctx q.vf (s.matrixSample k) q.pc q.scyc
     | _, _ => s1.traceAs 1 (k * 4) 0 4 0 0)
  else s1

/-- TRACE_SAMPLE: once in every 2^SPER cycles each selected core writes its samples. -/
def execTraceSample (s : State) : Host.Outcome State Fault Refusal :=
  .next (
    let p := 2 ^ (s.hub.dbgCtl.toNat / 2 ^ 50 % 64)
    if s.hub.dbgCtl.getLsbD 63 && decide (s.hub.lastSample + p ≤ s.now) then
      let cores := (List.range 256).filter fun k => (s.hub.smask.toList.getD (k / 64) 0).getLsbD (k % 64)
      (cores.foldl State.sampleCore s).modHub fun h => { h with lastSample := s.now }
    else s)

/-! ### Links (R204, R300) -/

/-- LINK_BRING_UP: a peer package's gateway has exchanged its capability table, bit 0 MINMAX32, bit 1 ADDBF16, bit 2 ADDFP16. -/
def execLinkBringUp (pkg : Nat) (caps : BitVec 3) (s : State) : Host.Outcome State Fault Refusal :=
  .next (s.modHub fun h => { h with peers := h.peers.set pkg caps, lost := h.lost.filter fun q => decide (q ≠ pkg) })

end Sys2Proof.Machine
end

