-- ==== Sys2Proof/Machine/Results.lean ====
section
/-! DEFINITION. Results that land or return: FIXED_RESULT_LAND, VARIABLE_RESULT_LAND and NEXTT_REPLY (R46, R71, R74, R75, R273). -/

namespace Sys2Proof.Machine

/-- FIXED_RESULT_LAND: every fixed result of context c whose latency has elapsed lands, in order (R71, R75). -/
def execFixedResultLand (c : Nat) (s : State) : Host.Outcome State Fault Refusal := .next (s.landCtx c)

/-- Has a variable result returned, after its least latency (R74, log 7)? -/
def Res.returned (t : Res) (now : Nat) : Bool :=
  !t.fixed && decide (t.file ≠ .n) && decide (t.need = 0) && decide (t.due ≤ now)

/-- The result with sequence number `seq` has returned: it lands in this cycle as a fixed result that is due now does, in its turn (R74, R75). -/
def Ctx.returns (x : Ctx) (now seq : Nat) : Ctx :=
  { x with inflight := x.inflight.map fun (t : Res) => if t.seq = seq then { t with fixed := true, due := now } else t }

/-- Would the next bundle of a context that stops still be held for a result, which it reads (R74, R313)? -/
def State.holdsFor (s : State) (c : Nat) (t : Res) : Bool :=
  decide ((s.ctx c).phase = .stopping) && match s.outlook c with
    | some p => (match p.v with
      | .hold _ => p.items.any fun (q : Item × Slot) => q.2.reads.contains (t.file, t.idx)
      | _ => false)
    | none => false
/-- F comes no sooner than a result for which the next bundle would have been held (R313). -/
def State.moveF (s : State) (c : Nat) (t : Res) : State :=
  if s.holdsFor c t then s.modCtx c fun x => { x with stop := x.stop.map fun st => { st with f := max st.f s.now } } else s

/-- VARIABLE_RESULT_LAND: the result of context c with sequence number `seq` lands once it has returned (R74), in its turn among the results that
are due (R75). A context that stops or is frozen takes it beside its snapshot (R313). -/
def execVariableResultLand (c seq : Nat) (s : State) : Host.Outcome State Fault Refusal :=
  .next (match (s.ctx c).inflight.find? fun (t : Res) => decide (t.seq = seq) && t.returned s.now with
    | none => s
    | some t =>
      let s1 := s.moveF c t
      if (s1.ctx c).horizon s.now = some s.now then (s1.modCtx c fun x => x.returns s.now seq).landCtx c
      else (s1.landCtx c).modCtx c fun x => x.land s.now t)

/-- NEXTT_REPLY: the reply to the i-th NEXTT request of context c in flight returns, once its counter has been updated (R273). -/
def execNexttReply (c i : Nat) (s : State) : Host.Outcome State Fault Refusal :=
  .next (match ((s.ctx c).inflight.filter fun (t : Res) => decide (t.file = .n))[i]? with
    | none => s
    | some t => if t.need = 1 then s.deliver c t.seq 0 0 else s)

end Sys2Proof.Machine
end

