-- ==== Sys2Proof/Machine/Agenda.lean ====
section
/-! DEFINITION. What comes next (log 6): whose bundle issues in the present cycle, which internal events may take place, in the order in
which a step tries them, and where a program is placed for a fetch (R22, R43, R44, R179, R180). -/

namespace Sys2Proof.Machine

/-! ### Kinds of instruction -/

/-- A step of a microprogram (R219). -/
def isMicro (i : Instr) : Bool :=
  match i with
  | .mend => true
  | .wload _ _ _ _ _ => true
  | .wgen _ _ _ => true
  | .astream _ _ _ _ _ _ => true
  | .agen _ _ _ _ _ _ _ => true
  | .asel _ => true
  | .aclr _ _ => true
  | .adrain _ _ _ _ _ _ _ _ => true
  | .ragg _ _ => true
  | .zskip _ => true
  | .loopm _ _ _ _ => true
  | .mbr _ _ _ => true
  | .padd _ _ _ _ => true
  | _ => false

/-- An event: a step that is no slot and no step of a microprogram (R23, the file of steps). -/
def isEvent (i : Instr) : Bool :=
  match i with
  | .performLocal _ => true
  | .sendRemote _ _ => true
  | .flag _ => true
  | .completeRemote _ _ => true
  | .engineStart _ _ => true
  | .engineAccess _ _ => true
  | .engineComplete _ _ => true
  | .retryAfterExpiry _ _ => true
  | .fixedResultLand _ => true
  | .variableResultLand _ _ => true
  | .nexttReply _ _ => true
  | .contextSwitch _ => true
  | .admission _ _ _ => true
  | .pickUp _ => true
  | .pickUpLoadComplete _ => true
  | .waitConditionMet _ _ => true
  | .priorityPreemption _ => true
  | .teamQuantumExpiry _ => true
  | .teamPromotion _ _ => true
  | .eviction _ => true
  | .launchRequestArrival _ => true
  | .stopFreeze _ => true
  | .trapEntryDelivery => true
  | .trespResume _ _ => true
  | .trespKill _ _ => true
  | .trespEvict _ _ => true
  | .watchReportArrival _ => true
  | .remoteFaultReport _ => true
  | .eccCorrectedError _ => true
  | .eccUncorrectableError _ => true
  | .agreeContributionArrival _ _ => true
  | .agreeLateExpiry _ _ _ => true
  | .agreeResultArrival _ => true
  | .linkLoss _ => true
  | .collSend _ => true
  | .collRadd _ _ => true
  | .collRstore _ _ => true
  | .collFlag _ => true
  | .partSet => true
  | .vfSet => true
  | .inval => true
  | .groupSet => true
  | .groupDel => true
  | .schedSet => true
  | .queueSet => true
  | .switch => true
  | .partReset => true
  | .readmit => true
  | .coreRetire => true
  | .coreRetireMapping => true
  | .migrateOut => true
  | .migrateIn => true
  | .switchTick _ => true
  | .operatorBoundarySave _ _ => true
  | .saveDeadlineExpiry _ => true
  | .tierSwap _ _ => true
  | .pageMoveComplete _ => true
  | .residencyGateOpen _ _ => true
  | .queueNotify _ => true
  | .heartbeat _ => true
  | .heartbeatTimeout _ => true
  | .hartRebuildComplete _ => true
  | .supDown => true
  | .supervisorRestart _ => true
  | .powerOn _ _ => true
  | .traceSample => true
  | .registerWrite _ _ => true
  | .wfeDeadline _ => true
  | .linkBringUp _ _ => true
  | .workQueueRecordWrite _ _ _ => true
  | _ => false

/-- A slot of a bundle (R92). -/
def isSlot (i : Instr) : Bool := !isMicro i && !isEvent i

/-! ### The clock -/

/-- Must context c issue now: it runs, holds issue, and its cycle has come (R42, R70)? -/
def State.issuesNow (s : State) (c : Nat) : Bool :=
  let x := s.ctx c
  decide (x.phase = .run) && decide (x.nextIssue ≤ s.now) && decide ((s.core (coreOf c)).issuing = some (c % 4))

/-- Is a member of the gang of member 0 `l` due (R275, R276)? -/
def State.gangDue (s : State) (l : Nat) : Bool :=
  (s.gang l).any fun m => match s.dueOf m with
    | some t => decide (t ≤ s.now)
    | none => false

/-- The context, or member 0 of the gang, whose bundle is presented next in this cycle. Of several due in one cycle the lowest-numbered comes first: R180
allows any order, and no agenda entry asks for another (log 6). -/
def State.turn (s : State) : Option Nat :=
  s.ctxs.keys.find? fun c =>
    (s.ctx c).leader.isNone && (if (s.gang c).length ≤ 1 then s.issuesNow c else s.gangDue c)

/-- Present the bundle whose turn it is. -/
def takeTurn (ex : Instr → State → Host.Outcome State Fault Refusal) (c : Nat) (s : State) : Host.Outcome State Fault Refusal :=
  if (s.gang c).length ≤ 1 then issueBundle ex c s else issueGang ex c s

/-- A watch report reaches its context no later than 64 cycles after the write performed (R329). -/
def Ctx.ageReport (x : Ctx) (now : Nat) : Ctx :=
  { x with report := x.report.map fun (t, a, src, m, n, here) => (t, a, src, m, n, here || decide (t + 64 ≤ now)) }
/-- The clock advances: reports that are due arrive, and the walk queues hold what the cycle gives them (R175, R329). -/
def State.advance (s : State) : State :=
  { s with now := s.now + 1, walks := Vector.ofFn fun (i : Fin 4) => Config.walkMisses (s.now + 1) i.val,
           ctxs := ⟨s.ctxs.l.map fun (p : Nat × Ctx) => (p.1, p.2.ageReport (s.now + 1))⟩ }
/-- One cycle passes; every matrix engine counts it in its class (R372), and every sequencer has looked at its table in it (R260). -/
def State.tick (s : State) : State := s.chargeAll.scanAll.advance

/-- The clock goes on: the bundle whose turn it is is presented or, with none, one cycle passes. -/
def clockStep (ex : Instr → State → Host.Outcome State Fault Refusal) (s : State) : Host.Outcome State Fault Refusal :=
  match s.turn with
  | some c => takeTurn ex c s
  | none => .next s.tick

/-! ### Internal events -/

/-- Events of one context. -/
def ctxEvents (p : Nat × Ctx) : List Instr :=
  let c := p.1
  let x := p.2
  .fixedResultLand c ::
    (List.range (x.inflight.filter fun (t : Res) => decide (t.file = .n)).length).map (fun i => .nexttReply c i) ++
    (x.inflight.filter fun (t : Res) => !t.fixed && decide (t.file ≠ .n)).map (fun (t : Res) => .variableResultLand c t.seq) ++
    .performLocal c ::
    (List.range x.rout.length).flatMap (fun i => [.sendRemote c i, .completeRemote c i]) ++
    [.watchReportArrival c, .remoteFaultReport c, .stopFreeze c, .eviction c, .pickUpLoadComplete c, .wfeDeadline c, .teamQuantumExpiry c]

/-- Events of one core. -/
def coreEvents (k : Nat) : List Instr :=
  [Engine.copy, .gather, .matrix, .coll].flatMap (fun e =>
    [.engineStart k e, .engineAccess k e, .retryAfterExpiry k e, .engineComplete k e]) ++ [.contextSwitch k]

/-- Events of one cluster's sequencer. -/
def clusterEvents (p : Nat × ClusterSt) : List Instr :=
  let cl := p.1
  let q := p.2
  .launchRequestArrival cl ::
    (List.range q.waiting.length).map (fun i => .waitConditionMet cl i) ++
    (List.range q.dep.length).flatMap (fun e => match q.dep[e]? with
      | some d => (List.range d.count).map fun i => .admission cl e (d.first + i)
      | none => []) ++
    (List.range q.ready.length).map (fun i => .teamPromotion cl i) ++
    .priorityPreemption cl ::
    (if q.ready.isEmpty then [] else (clusterCores cl).flatMap fun k => [0, 1, 2, 3].map fun i => .pickUp (k * 4 + i))

/-- Events of the agreement fabric. -/
def State.fabricEvents (s : State) : List Instr :=
  (List.range s.contribs.length).map (fun i => .agreeContributionArrival i none) ++
    (s.hub.groups.l.flatMap fun (p : Nat × Group) => p.2.insts.map fun (i : Inst) => .agreeLateExpiry p.2.vf p.2.gid i.seq) ++
    (List.range s.msgs.length).map (fun i => .agreeResultArrival i)

/-- Events of one partition. -/
def partEvents (p : Nat) : List Instr :=
  .switchTick p :: [0, 1, 2, 3].flatMap (fun d => [.operatorBoundarySave p d]) ++
    .saveDeadlineExpiry p :: [0, 1, 2, 3].flatMap fun d => [.tierSwap p d, .residencyGateOpen p d]

/-- Events of the hub: trap entries, the command ring, partitions, harts and the trace. -/
def State.hubEvents (s : State) : List Instr :=
  .trapEntryDelivery ::
    [.partSet, .vfSet, .inval, .groupSet, .groupDel, .schedSet, .queueSet, .switch, .partReset, .readmit, .coreRetire, .coreRetireMapping,
     .migrateOut, .migrateIn] ++
    s.hub.parts.keys.flatMap partEvents ++
    [0, 1, 2, 3, 4, 5, 6, 7].flatMap (fun h => [.heartbeat h, .heartbeatTimeout h, .hartRebuildComplete h]) ++ [.supDown, .traceSample]

/-- The internal events that a step may take, in the order in which it tries them. -/
def State.internal (s : State) : List Instr :=
  s.ctxs.l.flatMap ctxEvents ++
    ([0, 1, 2, 3] ++ s.dies.keys.filter fun u => decide (4 ≤ u)).flatMap (fun u => (List.range (s.die u).flags.length).map fun i => .flag ⟨u, i⟩) ++
    [0, 1, 2, 3].map (fun d => .pageMoveComplete d) ++
    (s.cores.keys ++ (s.ctxs.keys.map coreOf)).eraseDups.flatMap coreEvents ++
    s.clusters.l.flatMap clusterEvents ++ s.fabricEvents ++ s.hubEvents

/-- Take the first event of a list that changes the state; with none, one cycle passes. -/
def firstChange (ex : Instr → State → Host.Outcome State Fault Refusal) (s : State) : List Instr → Host.Outcome State Fault Refusal
  | [] => .next s.tick
  | i :: r =>
    match ex i s with
    | .next t => if t = s then firstChange ex s r else .next t
    | o => o

/-- With nothing on the agenda: the bundle whose turn it is, else a write-back that is due (R34), else an internal event, else the next cycle. -/
def freeStep (ex : Instr → State → Host.Outcome State Fault Refusal) (s : State) : Host.Outcome State Fault Refusal :=
  match s.turn with
  | some c => takeTurn ex c s
  | none =>
    match s.ctxs.keys.find? fun c => s.leaveReady c with
    | some c => .next (s.writeBack c)
    | none => firstChange ex s s.internal

/-! ### Placing a program (log 12) -/

/-- The bundle in which a word stands: three NOP slots fill it, before a word with the stop bit, else after it; a prefix stands before a slot
that it may precede. -/
def bundleOf (w : W32) : List W32 :=
  let nop : W32 := 0
  let stop : W32 := 0x80000000
  let addi := encode false 0 (.addi ⟨0, 0, 0⟩)
  let vadd := encode false 0 (.vadd ⟨0, 0, 0, false, false⟩ 0)
  if fS w then [nop, nop, nop, w]
  else match decodeSlot w with
    | some (.pfxi _) => [w, addi, nop, stop]
    | some (.pfxp m _) => [w, if m.toNat < 4 then addi else vadd, nop, stop]
    | _ => [w, nop, nop, stop]

/-- The offset, in the die of core 0, of the code that is placed. -/
def codeOfs : Nat := 0x10000
/-- The first-level table of stage 1 (an IPA) and of stage 2. -/
def rootOfs : Nat := 0x20000
/-- An entry that maps the first GiB onto itself, every access granted (R168). -/
def openLeaf : Nat := 0x17B

/-- A partition over the whole package (R340). -/
def wholePart : Part where
  desc := #v[0, 0, ~~~0, ~~~0, ~~~0, ~~~0, ~~~0, 0]
  next := none
  tenant := some 1
  incoming := none
  outgoing := none
  cmdWaits := false
  sliceStart := 0
  tick := none
  saved := 0
  gates := 15
  swapping := false
  noted := 0
  upDone := 15
  overrun := 0
  cmiss := 0
  reset := false

/-- Function 1 of partition 0, with its tables at `rootOfs` on every die (R341). -/
def oneVf : VfSt where
  d := #v[0x8100000000000000, 0, 0x20000, 0x20000, 0x20000, 0x20000, 0x20000, 0x20000, 0x20000, 0x20000, 0, 0, 0, 0, 0, 0]
  tqProd := 0
  tqCons := 0
  migrating := false
  graph := Table.empty
  endpoint := 0

/-- Write words to consecutive locations. -/
def State.placeWords (s : State) (l : Nat) : List W32 → State
  | [] => s
  | w :: r => State.placeWords { s with mem := s.mem.writeNat l 4 w.toNat } (l + 4) r

/-- Map the first GiB of core 0's die for function 1. -/
def State.openMemory (s : State) : State :=
  let o := s.owner 0
  { s with
    mem := s.mem.writeNat (memLoc (s.key o) rootOfs) 8 openLeaf
    poison := []
    hub := { s.hub with
      parts := s.hub.parts.set 0 wholePart, vfs := s.hub.vfs.set 1 oneVf
      membership := if s.hub.membership.contains o then s.hub.membership else s.hub.membership ++ [o] } }

/-- Context 0 issues now, at an address, and nothing stands before its next bundle. -/
def State.startAt (s : State) (pc : Nat) : State :=
  { s with
    agenda := [], iss := Issue.none
    ctxs := s.ctxs.set 0 { s.ctx 0 with
      phase := .run, vf := 1, part := 0, pc := pc, pending := none, nextIssue := s.now, stop := none, agrTrap := none, report := none
      killReport := none, held := .none, wait := none, wfe := none, fence := none, preds := [], inflight := [], leader := none, gang := [], loopOld := none
      leave := none, replay := false, stepMode := false }
    cores := s.cores.set 0 { s.core 0 with issuing := some 0, switching := none } }

/-- A bundle with one slot word, and context 0 about to issue it. -/
def State.placeSlot (s : State) (w : W32) : State :=
  let o := s.owner 0
  (s.openMemory.placeWords (memLoc (s.key o) codeOfs) (bundleOf w)).startAt (o * 2 ^ 42 + codeOfs)

/-- A routine with one step word, core 0's engine about to run it, and the agenda to say so. -/
def State.placeStep (s : State) (w : W64) : State :=
  let cmd : MatCmd := ⟨0, 0, 0, Vector.replicate 8 0, Vector.replicate 8 0, 1, 0, 0, 0, 0, 0, false, 0⟩
  let run : MatRun := ⟨64, 0, 1, false, 0, 0, 0, false, false, 0, [], 0, 0, 0, 0, 0, false, false, 0, 0, none, 0, s.now, 0, 0, 0, 0⟩
  { s.openMemory with
    agenda := [.ev (.engineAccess 0 .matrix)]
    cores := s.cores.set 0 { s.core 0 with mq := [cmd], mrun := some run, mpw := [], store := (s.core 0).store.set 64 w } }

end Sys2Proof.Machine
end

