-- ==== Sys2Proof/Machine/Dispatch.lean ====
section
/-! DEFINITION. One arm per instruction: a direct call of its meaning. -/

namespace Sys2Proof.Machine

/-- The meaning of an instruction (R22, R95). -/
def exec (i : Instr) (s : State) : Host.Outcome State Fault Refusal :=
  match i with
  | .nop => Sys2Proof.Machine.execNop s
  | .add o => Sys2Proof.Machine.execAdd o s
  | .sub o => Sys2Proof.Machine.execSub o s
  | .addr o v => Sys2Proof.Machine.execAddr o v s
  | .and o => Sys2Proof.Machine.execAnd o s
  | .or o => Sys2Proof.Machine.execOr o s
  | .xor o => Sys2Proof.Machine.execXor o s
  | .shl o w => Sys2Proof.Machine.execShl o w s
  | .shr o w => Sys2Proof.Machine.execShr o w s
  | .sra o w => Sys2Proof.Machine.execSra o w s
  | .mul o => Sys2Proof.Machine.execMul o s
  | .mulh o v => Sys2Proof.Machine.execMulh o v s
  | .min o u => Sys2Proof.Machine.execMin o u s
  | .max o u => Sys2Proof.Machine.execMax o u s
  | .cmp o v => Sys2Proof.Machine.execCmp o v s
  | .sel o z => Sys2Proof.Machine.execSel o z s
  | .clz o w => Sys2Proof.Machine.execClz o w s
  | .popc o w => Sys2Proof.Machine.execPopc o w s
  | .movx o v => Sys2Proof.Machine.execMovx o v s
  | .addi o => Sys2Proof.Machine.execAddi o s
  | .andi o => Sys2Proof.Machine.execAndi o s
  | .ori o => Sys2Proof.Machine.execOri o s
  | .xori o => Sys2Proof.Machine.execXori o s
  | .shli d a n => Sys2Proof.Machine.execShli d a n s
  | .shri d a n => Sys2Proof.Machine.execShri d a n s
  | .srai d a n => Sys2Proof.Machine.execSrai d a n s
  | .cmpi o => Sys2Proof.Machine.execCmpi o s
  | .li d imm => Sys2Proof.Machine.execLi d imm s
  | .lih d imm => Sys2Proof.Machine.execLih d imm s
  | .div o v => Sys2Proof.Machine.execDiv o v s
  | .fadd o rm => Sys2Proof.Machine.execFadd o rm s
  | .fsub o rm => Sys2Proof.Machine.execFsub o rm s
  | .fmul o rm => Sys2Proof.Machine.execFmul o rm s
  | .fma o neg rm => Sys2Proof.Machine.execFma o neg rm s
  | .fdiv o rm => Sys2Proof.Machine.execFdiv o rm s
  | .fsqrt o rm => Sys2Proof.Machine.execFsqrt o rm s
  | .frsq o rm => Sys2Proof.Machine.execFrsq o rm s
  | .fcmp o v => Sys2Proof.Machine.execFcmp o v s
  | .fmin o => Sys2Proof.Machine.execFmin o s
  | .fmax o => Sys2Proof.Machine.execFmax o s
  | .fcvt o v => Sys2Proof.Machine.execFcvt o v s
  | .fclass o => Sys2Proof.Machine.execFclass o s
  | .brc cond a ofs => Sys2Proof.Machine.execBrc cond a ofs s
  | .vadd o v => Sys2Proof.Machine.execVadd o v s
  | .vsub o v => Sys2Proof.Machine.execVsub o v s
  | .vmul o v => Sys2Proof.Machine.execVmul o v s
  | .vfma o v => Sys2Proof.Machine.execVfma o v s
  | .vmin o t => Sys2Proof.Machine.execVmin o t s
  | .vmax o t => Sys2Proof.Machine.execVmax o t s
  | .vand o => Sys2Proof.Machine.execVand o s
  | .vor o => Sys2Proof.Machine.execVor o s
  | .vxor o => Sys2Proof.Machine.execVxor o s
  | .vshl o => Sys2Proof.Machine.execVshl o s
  | .vshr o t => Sys2Proof.Machine.execVshr o t s
  | .vcmp o v => Sys2Proof.Machine.execVcmp o v s
  | .vsel o n => Sys2Proof.Machine.execVsel o n s
  | .vcvt o v => Sys2Proof.Machine.execVcvt o v s
  | .vred o v => Sys2Proof.Machine.execVred o v s
  | .vperm o => Sys2Proof.Machine.execVperm o s
  | .vbcast o lane => Sys2Proof.Machine.execVbcast o lane s
  | .vexp2 o => Sys2Proof.Machine.execVexp2 o s
  | .vlog2 o => Sys2Proof.Machine.execVlog2 o s
  | .vrcp o => Sys2Proof.Machine.execVrcp o s
  | .vrsq o => Sys2Proof.Machine.execVrsq o s
  | .vquant o int => Sys2Proof.Machine.execVquant o int s
  | .vdeq o fmt => Sys2Proof.Machine.execVdeq o fmt s
  | .qop o v => Sys2Proof.Machine.execQop o v s
  | .gset o ofs => Sys2Proof.Machine.execGset o ofs s
  | .gseed o => Sys2Proof.Machine.execGseed o s
  | .ggen o t c => Sys2Proof.Machine.execGgen o t c s
  | .cpy o => Sys2Proof.Machine.execCpy o s
  | .cpys o => Sys2Proof.Machine.execCpys o s
  | .cpyg o => Sys2Proof.Machine.execCpyg o s
  | .cpyr o => Sys2Proof.Machine.execCpyr o s
  | .cpyw o => Sys2Proof.Machine.execCpyw o s
  | .ld o size => Sys2Proof.Machine.execLd o size s
  | .st o size => Sys2Proof.Machine.execSt o size s
  | .ldv o => Sys2Proof.Machine.execLdv o s
  | .stv o => Sys2Proof.Machine.execStv o s
  | .ldg o v => Sys2Proof.Machine.execLdg o v s
  | .stg o v => Sys2Proof.Machine.execStg o v s
  | .probe o w => Sys2Proof.Machine.execProbe o w s
  | .lock o l1 => Sys2Proof.Machine.execLock o l1 s
  | .unlock o => Sys2Proof.Machine.execUnlock o s
  | .pref base ofs l2 ha => Sys2Proof.Machine.execPref base ofs l2 ha s
  | .drain => Sys2Proof.Machine.execDrain s
  | .fenceo => Sys2Proof.Machine.execFenceo s
  | .fencer o v => Sys2Proof.Machine.execFencer o v s
  | .atom o v => Sys2Proof.Machine.execAtom o v s
  | .ratom o v => Sys2Proof.Machine.execRatom o v s
  | .rld o size => Sys2Proof.Machine.execRld o size s
  | .rst o v => Sys2Proof.Machine.execRst o v s
  | .stver o => Sys2Proof.Machine.execStver o s
  | .owne o => Sys2Proof.Machine.execOwne o s
  | .ownt o => Sys2Proof.Machine.execOwnt o s
  | .barm o => Sys2Proof.Machine.execBarm o s
  | .cwait o => Sys2Proof.Machine.execCwait o s
  | .mcall o bank => Sys2Proof.Machine.execMcall o bank s
  | .mwait o bank => Sys2Proof.Machine.execMwait o bank s
  | .mver d bank => Sys2Proof.Machine.execMver d bank s
  | .mpwr o => Sys2Proof.Machine.execMpwr o s
  | .mprd o => Sys2Proof.Machine.execMprd o s
  | .br ofs => Sys2Proof.Machine.execBr ofs s
  | .brl ofs => Sys2Proof.Machine.execBrl ofs s
  | .jr o => Sys2Proof.Machine.execJr o s
  | .ret => Sys2Proof.Machine.execRet s
  | .jrL o => Sys2Proof.Machine.execJrL o s
  | .loop ls a ofs => Sys2Proof.Machine.execLoop ls a ofs s
  | .bucket o => Sys2Proof.Machine.execBucket o s
  | .nextt o => Sys2Proof.Machine.execNextt o s
  | .suspend o v => Sys2Proof.Machine.execSuspend o v s
  | .tend => Sys2Proof.Machine.execTend s
  | .launch o => Sys2Proof.Machine.execLaunch o s
  | .raise o => Sys2Proof.Machine.execRaise o s
  | .post o => Sys2Proof.Machine.execPost o s
  | .qpop o => Sys2Proof.Machine.execQpop o s
  | .dispatch o => Sys2Proof.Machine.execDispatch o s
  | .agree d tag => Sys2Proof.Machine.execAgree d tag s
  | .abr m a ofs => Sys2Proof.Machine.execAbr m a ofs s
  | .abrp p m a ofs => Sys2Proof.Machine.execAbrp p m a ofs s
  | .ares o v => Sys2Proof.Machine.execAres o v s
  | .coll o => Sys2Proof.Machine.execColl o s
  | .trap code => Sys2Proof.Machine.execTrap code s
  | .rte o v => Sys2Proof.Machine.execRte o v s
  | .wfe o v => Sys2Proof.Machine.execWfe o v s
  | .dbrk code => Sys2Proof.Machine.execDbrk code s
  | .srd d num => Sys2Proof.Machine.execSrd d num s
  | .swr d num => Sys2Proof.Machine.execSwr d num s
  | .pfxi payload => Sys2Proof.Machine.execPfxi payload s
  | .pfxp mode reg => Sys2Proof.Machine.execPfxp mode reg s
  | .mend => Sys2Proof.Machine.execMend s
  | .wload fmt mx ma rw ms => Sys2Proof.Machine.execWload fmt mx ma rw ms s
  | .wgen gn t ma => Sys2Proof.Machine.execWgen gn t ma s
  | .astream fmt pm1 ma brow0 nm1 rg => Sys2Proof.Machine.execAstream fmt pm1 ma brow0 nm1 rg s
  | .agen gn t pm1 ma brow0 nm1 rg => Sys2Proof.Machine.execAgen gn t pm1 ma brow0 nm1 rg s
  | .asel bank => Sys2Proof.Machine.execAsel bank s
  | .aclr brow0 nm1 => Sys2Proof.Machine.execAclr brow0 nm1 s
  | .adrain fmt rm sf ma brow0 nm1 clr ms => Sys2Proof.Machine.execAdrain fmt rm sf ma brow0 nm1 clr ms s
  | .ragg ma mc => Sys2Proof.Machine.execRagg ma mc s
  | .zskip en => Sys2Proof.Machine.execZskip en s
  | .loopm src ms cm1 endw => Sys2Proof.Machine.execLoopm src ms cm1 endw s
  | .mbr cond ms tgt => Sys2Proof.Machine.execMbr cond ms tgt s
  | .padd md ms src imm => Sys2Proof.Machine.execPadd md ms src imm s
  | .performLocal c => Sys2Proof.Machine.execPerformLocal c s
  | .sendRemote c j => Sys2Proof.Machine.execSendRemote c j s
  | .flag p => Sys2Proof.Machine.execFlag p s
  | .completeRemote c j => Sys2Proof.Machine.execCompleteRemote c j s
  | .engineStart k e => Sys2Proof.Machine.execEngineStart k e s
  | .engineAccess k e => Sys2Proof.Machine.execEngineAccess k e s
  | .engineComplete k e => Sys2Proof.Machine.execEngineComplete k e s
  | .retryAfterExpiry k e => Sys2Proof.Machine.execRetryAfterExpiry k e s
  | .fixedResultLand c => Sys2Proof.Machine.execFixedResultLand c s
  | .variableResultLand c seq => Sys2Proof.Machine.execVariableResultLand c seq s
  | .nexttReply c j => Sys2Proof.Machine.execNexttReply c j s
  | .contextSwitch k => Sys2Proof.Machine.execContextSwitch k s
  | .admission cl e j => Sys2Proof.Machine.execAdmission cl e j s
  | .pickUp c => Sys2Proof.Machine.execPickUp c s
  | .pickUpLoadComplete c => Sys2Proof.Machine.execPickUpLoadComplete c s
  | .waitConditionMet cl j => Sys2Proof.Machine.execWaitConditionMet cl j s
  | .priorityPreemption cl => Sys2Proof.Machine.execPriorityPreemption cl s
  | .teamQuantumExpiry c => Sys2Proof.Machine.execTeamQuantumExpiry c s
  | .teamPromotion cl j => Sys2Proof.Machine.execTeamPromotion cl j s
  | .eviction c => Sys2Proof.Machine.execEviction c s
  | .launchRequestArrival cl => Sys2Proof.Machine.execLaunchRequestArrival cl s
  | .stopFreeze c => Sys2Proof.Machine.execStopFreeze c s
  | .trapEntryDelivery => Sys2Proof.Machine.execTrapEntryDelivery s
  | .trespResume rcd vf => Sys2Proof.Machine.execTrespResume rcd vf s
  | .trespKill rcd vf => Sys2Proof.Machine.execTrespKill rcd vf s
  | .trespEvict rcd vf => Sys2Proof.Machine.execTrespEvict rcd vf s
  | .watchReportArrival c => Sys2Proof.Machine.execWatchReportArrival c s
  | .remoteFaultReport c => Sys2Proof.Machine.execRemoteFaultReport c s
  | .eccCorrectedError site => Sys2Proof.Machine.execEccCorrectedError site s
  | .eccUncorrectableError site => Sys2Proof.Machine.execEccUncorrectableError site s
  | .agreeContributionArrival j outside => Sys2Proof.Machine.execAgreeContributionArrival j outside s
  | .agreeLateExpiry vf gid seq => Sys2Proof.Machine.execAgreeLateExpiry vf gid seq s
  | .agreeResultArrival j => Sys2Proof.Machine.execAgreeResultArrival j s
  | .linkLoss pkg => Sys2Proof.Machine.execLinkLoss pkg s
  | .collSend k => Sys2Proof.Machine.execCollSend k s
  | .collRadd k data => Sys2Proof.Machine.execCollRadd k data s
  | .collRstore k data => Sys2Proof.Machine.execCollRstore k data s
  | .collFlag k => Sys2Proof.Machine.execCollFlag k s
  | .partSet => Sys2Proof.Machine.execPartSet s
  | .vfSet => Sys2Proof.Machine.execVfSet s
  | .inval => Sys2Proof.Machine.execInval s
  | .groupSet => Sys2Proof.Machine.execGroupSet s
  | .groupDel => Sys2Proof.Machine.execGroupDel s
  | .schedSet => Sys2Proof.Machine.execSchedSet s
  | .queueSet => Sys2Proof.Machine.execQueueSet s
  | .switch => Sys2Proof.Machine.execSwitch s
  | .partReset => Sys2Proof.Machine.execPartReset s
  | .readmit => Sys2Proof.Machine.execReadmit s
  | .coreRetire => Sys2Proof.Machine.execCoreRetire s
  | .coreRetireMapping => Sys2Proof.Machine.execCoreRetireMapping s
  | .migrateOut => Sys2Proof.Machine.execMigrateOut s
  | .migrateIn => Sys2Proof.Machine.execMigrateIn s
  | .switchTick p => Sys2Proof.Machine.execSwitchTick p s
  | .operatorBoundarySave p d => Sys2Proof.Machine.execOperatorBoundarySave p d s
  | .saveDeadlineExpiry p => Sys2Proof.Machine.execSaveDeadlineExpiry p s
  | .tierSwap p d => Sys2Proof.Machine.execTierSwap p d s
  | .pageMoveComplete d => Sys2Proof.Machine.execPageMoveComplete d s
  | .residencyGateOpen p d => Sys2Proof.Machine.execResidencyGateOpen p d s
  | .queueNotify n => Sys2Proof.Machine.execQueueNotify n s
  | .heartbeat h => Sys2Proof.Machine.execHeartbeat h s
  | .heartbeatTimeout h => Sys2Proof.Machine.execHeartbeatTimeout h s
  | .hartRebuildComplete h => Sys2Proof.Machine.execHartRebuildComplete h s
  | .supDown => Sys2Proof.Machine.execSupDown s
  | .supervisorRestart images => Sys2Proof.Machine.execSupervisorRestart images s
  | .powerOn failed images => Sys2Proof.Machine.execPowerOn failed images s
  | .traceSample => Sys2Proof.Machine.execTraceSample s
  | .registerWrite ofs v => Sys2Proof.Machine.execRegisterWrite ofs v s
  | .wfeDeadline c => Sys2Proof.Machine.execWfeDeadline c s
  | .linkBringUp pkg caps => Sys2Proof.Machine.execLinkBringUp pkg caps s
  | .workQueueRecordWrite qid ofs data => Sys2Proof.Machine.execWorkQueueRecordWrite qid ofs data s

end Sys2Proof.Machine
end

