-- ==== Sys2Proof/Machine/Step.lean ====
section
/-! DEFINITION. One step of the machine, and the placing of one instruction where the next step fetches. -/

namespace Sys2Proof.Machine

/-- One step (R22, log 6): what the agenda asks for or, with nothing on it, the model's own order. -/
def step (s : State) : Host.Outcome State Fault Refusal :=
  match s.agenda with
  | .ev i :: r => if isEvent i then exec i { s with agenda := r } else .fault .agendaNamesASlot
  | .clock :: r => clockStep exec { s with agenda := r }
  | [] => freeStep exec s

/-- The state in which the next step runs the instruction of a word: a slot stands in the bundle that context 0 fetches, a step of a
microprogram in the routine that core 0's matrix engine runs (log 12). -/
def State.withFetchWord (s : State) (nbits w : Nat) : State :=
  if nbits > 32 then s.placeStep (BitVec.ofNat 64 w) else s.placeSlot (BitVec.ofNat 32 w)

end Sys2Proof.Machine
end

