-- ==== Sys2Proof/Safety.lean ====
section
/-! DEFINITION. What a safe run is: every step has a next state, memory keeps its canonical form, and the agenda names only events. -/

namespace Sys2Proof.Machine

/-- An agenda that a step can carry out: each of its items is an event or the clock (log 6). -/
def cleanAgenda (l : List Act) : Bool :=
  l.all fun a => match a with
    | .ev i => isEvent i
    | .clock => true

/-- A step from the state has a next state. -/
def State.Goes (s : State) : Prop := ∃ t, step s = .next t

/-- The invariant of a safe run: the cells of memory are listed by rising location, none equal to what an unlisted byte reads as, and the
agenda holds no slot and no step of a microprogram. -/
structure State.Inv (s : State) : Prop where
  mem : s.mem.wf = true
  agenda : cleanAgenda s.agenda = true

/-- An instruction has an outcome of its own in a state: a next state, neither a fault nor a refusal. -/
def Completes (i : Instr) (s : State) : Prop := ∃ t, exec i s = .next t

/-! ### The words of the statements: one slot of a bundle that issues -/

/-- A bundle is being issued in the current context: its checks are made (R68), and no false condition stands before the next slot (R65). -/
structure State.Issuing (s : State) : Prop where
  checked : s.iss.checked = true
  cond : s.env.cond = true

/-- Operand A of a scalar X slot, from register r or from the engine's hold latch (R69). -/
def State.xA (s : State) (r : BitVec 5) (h : Bool) : Opnd := s.env.opnd .x r h 0
/-- Operand B of a scalar X slot. -/
def State.xB (s : State) (r : BitVec 5) (h : Bool) : Opnd := s.env.opnd .x r h 1
/-- Operand A of a scalar Y slot. -/
def State.yA (s : State) (r : BitVec 5) (h : Bool) : Opnd := s.env.opnd .y r h 2
/-- Operand B of a scalar Y slot. -/
def State.yB (s : State) (r : BitVec 5) (h : Bool) : Opnd := s.env.opnd .y r h 3
/-- Operand A of a vector slot, from a file: the first vector slot of the bundle has latches 4 and 5, the second 6 and 7. -/
def State.vA (s : State) (f : File) (r : BitVec 5) (h : Bool) : Opnd := s.env.opnd f r h s.env.vlt
/-- Operand B of a vector slot. -/
def State.vB (s : State) (f : File) (r : BitVec 5) (h : Bool) : Opnd := s.env.opnd f r h (s.env.vlt + 1)
/-- Operand A of a memory slot. -/
def State.mA (s : State) (r : BitVec 5) (h : Bool) : Opnd := s.env.opnd .x r h 8
/-- Operand B of a memory slot. -/
def State.mB (s : State) (f : File) (r : BitVec 5) (h : Bool) : Opnd := s.env.opnd f r h 9
/-- Operand A of a copy or generator slot. -/
def State.cA (s : State) (f : File) (r : BitVec 5) (h : Bool) : Opnd := s.env.opnd f r h 10
/-- Operand B of a copy or generator slot. -/
def State.cB (s : State) (r : BitVec 5) (h : Bool) : Opnd := s.env.opnd .x r h 11
/-- Operand A of a matrix slot. -/
def State.tA (s : State) (r : BitVec 5) (h : Bool) : Opnd := s.env.opnd .x r h 12
/-- Operand B of a matrix slot. -/
def State.tB (s : State) (r : BitVec 5) (h : Bool) : Opnd := s.env.opnd .x r h 13
/-- Operand A of a control slot. -/
def State.kA (s : State) (r : BitVec 5) (h : Bool) : Opnd := s.env.opnd .x r h 14
/-- Operand B of a control slot. -/
def State.kB (s : State) (r : BitVec 5) (h : Bool) : Opnd := s.env.opnd .x r h 15

/-- The hold latches take the operands that came from registers (R69). -/
def State.filled (s : State) (ops : List Opnd) : State := s.modCtx s.cur fun x => x.fill (ops.flatMap fun o => o.fill)
/-- A result goes on its way (R71, R74). -/
def State.sends (s : State) (t : Res) : State := s.modCtx s.cur fun x => x.push t
/-- The latches take the operands, and a result goes on its way: nothing else changes. -/
def State.gives (s : State) (ops : List Opnd) (t : Res) : State := (s.filled ops).sends t
/-- The same, after `n` draws of the context's stream where the mode is SR (R138). -/
def State.rounds (s : State) (ops : List Opnd) (rm : Rm) (n : Nat) (t : Res) : State :=
  ((s.filled ops).modCtx s.cur fun x => x.consume rm n).sends t

/-- An x result: visible `lat` cycles after the issue (R71). -/
def State.xRes (s : State) (d : BitVec 5) (v : W64) (lat : Nat) : Res := mkRes .x d.toNat (wide64 v) (s.now + lat)
/-- A y result, with its flags. -/
def State.yRes (s : State) (d : BitVec 5) (v : W64) (lat : Nat) (fl : BitVec 5) : Res :=
  { mkRes .y d.toNat (wide64 v) (s.now + lat) with flags := fl }
/-- An FP32 result in a y register: bits 63:32 are zero (R135). -/
def State.fRes (s : State) (d : BitVec 5) (r : W32 × BitVec 5) (lat : Nat) : Res := s.yRes d (r.1.setWidth 64) lat r.2
/-- A result of 64 lanes under the lane mask: value and flags by lane, and the flags of the enabled lanes together (R65, R475). -/
def State.vRes (s : State) (d : BitVec 5) (f : Nat → W32 × BitVec 5) (lat : Nat) : Res :=
  { mkRes .v d.toNat (ofLanes fun l => if s.env.on l then (f l).1 else 0) (s.now + lat) with
    flags := orFlags s.env.lanes fun l => (f l).2, lm := s.env.lm, lanes := s.env.lanes }
/-- A mask result in a q register under the lane mask. -/
def State.qRes (s : State) (d : BitVec 5) (m : W64) (fl : BitVec 5) : Res :=
  { mkRes .q d.toNat (wide64 m) (s.now + 2) with flags := fl, lm := s.env.lm, lanes := s.env.lanes }
/-- A result of variable latency (R74): `need` parts are to return, and it does not land before `lat` cycles. On a deterministic queue it
is fixed at `pad` cycles (R276). -/
def State.later (s : State) (d : BitVec 5) (lat pad need : Nat) (v : W64) : Res :=
  { mkRes .x d.toNat (wide64 v) (s.now + if (s.ctx s.cur).det then pad else lat) with fixed := (s.ctx s.cur).det, need := need }

/-- The slots that read registers and send one result of fixed latency, and do nothing else. -/
def sendsOne (i : Instr) : Bool :=
  match i with
  | .add _ | .sub _ | .addr _ _ | .and _ | .or _ | .xor _ | .shl _ _ | .shr _ _ | .sra _ _ | .mul _ | .mulh _ _ | .min _ _ | .max _ _ | .cmp _ _
  | .sel _ _ | .clz _ _ | .popc _ _ | .addi _ | .andi _ | .ori _ | .xori _ | .shli _ _ _ | .shri _ _ _ | .srai _ _ _ | .cmpi _ | .li _ _ | .lih _ _ => true
  | .movx _ v => v != 2
  | .div _ _ | .fadd _ _ | .fsub _ _ | .fmul _ _ | .fma _ _ _ | .fdiv _ _ | .fsqrt _ _ | .frsq _ _ | .fcmp _ _ | .fmin _ | .fmax _ | .fcvt _ _ | .fclass _ => true
  | .vadd _ _ | .vsub _ _ | .vmul _ _ | .vfma _ _ | .vmin _ _ | .vmax _ _ | .vand _ | .vor _ | .vxor _ | .vshl _ | .vshr _ _ | .vcmp _ _ | .vsel _ _
  | .vcvt _ _ | .vred _ _ | .vperm _ | .vbcast _ _ | .vexp2 _ | .vlog2 _ | .vrcp _ | .vrsq _ | .vquant _ _ | .vdeq _ _ | .qop _ _ => true
  | .gset _ _ | .gseed _ | .ggen _ _ _ | .mver _ _ | .mprd _ | .srd _ _ => true
  | _ => false

/-! ### The words of the statements: the command ring -/

/-- The command at the ring's head can run: the ring runs, nothing waits, the journal can be written, and OPC is `op` with the reserved bits zero (R336,
R350). -/
structure State.Commands (s : State) (op : Nat) (w : Vector W64 8) : Prop where
  head : s.cmdHead = some w
  free : s.hub.waiting = none
  op : cmdOp w = op
  zero : w[0].toNat / 2 ^ 39 % 2 ^ 9 = 0
  up : s.journalUp = true

/-- The command is in the journal: it has begun (R336, R350). -/
def State.begun (s : State) (w : Vector W64 8) : State := s.journalWrite (.cmd w)

/-- The commands and their OPCs (R337). -/
def commandOps : List (Instr × Nat) :=
  [(.partSet, 1), (.vfSet, 2), (.inval, 3), (.groupSet, 4), (.groupDel, 5), (.schedSet, 6), (.queueSet, 7), (.switch, 8), (.partReset, 9), (.readmit, 10),
   (.coreRetire, 11), (.migrateOut, 12), (.migrateIn, 13)]

/-- A run of n steps that meets no fault and no refusal. -/
def SafeRun : Nat → State → Prop
  | 0, _ => True
  | n + 1, s => ∃ t, step s = .next t ∧ SafeRun n t

end Sys2Proof.Machine
end

