-- ==== Sys2Proof/Certificates/Slice0/Obligations.lean ====
section
/-! DEFINITION. The statements about the machine, for the provers. -/

open Sys2Proof Sys2Proof.Machine

/-! ### Encodings (R56 to R59, R92, R219, R220) -/

/-- For every instruction whose fields are in range, decoding its word gives the instruction back, with the stop bit and the stall count of
a slot as they were (R56 to R58, R219). -/
def Obligations.EncodeDecodeAgree : Prop :=
  ∀ i : Instr, wellFormed i = true →
    (isSlot i = true → ∀ (s : Bool) (w : BitVec 3), decodeSlot (encode s w i) = some i ∧ fS (encode s w i) = s ∧ fW (encode s w i) = w) ∧
    (isMicro i = true → decodeMicro (encodeMicro i) = some i)

/-- The words that the entries of the spec write out are the instructions they stand for, and words with a reserved opcode, a reserved
variant or a used field that must be zero are none (R59, R92, R93, R219). -/
def Obligations.WordsDecode : Prop :=
  decodeSlot 0x00000000 = some .nop ∧ decodeSlot 0x80000000 = some .nop ∧ decodeSlot 0x00000001 = none ∧
  decodeSlot 0x00230880 = some (.add ⟨3, 1, 2, false, false⟩) ∧ decodeSlot 0x00273010 = some (.add ⟨7, 6, 0, false, true⟩) ∧
  decodeSlot 0x00230881 = none ∧ decodeSlot 0x0304_2983 = some (.div ⟨4, 5, 6, false, false⟩ 3) ∧
  decodeSlot 0x0563_3100 = some (.vfma ⟨3, 6, 4, false, false⟩ 0) ∧ decodeSlot 0x0A80_1800 = some (.cpy ⟨3, false⟩) ∧
  decodeSlot 0x0804_2824 = some (.ld ⟨4, 5, 4, false⟩ 2) ∧ decodeSlot 0x09E4_2980 = some (.stver ⟨4, 5, 6, false, false⟩) ∧
  decodeSlot 0x0B40_2140 = some (.mcall ⟨4, 5, false, false⟩ 0) ∧ decodeSlot 0x0EE1_0020 = some (.swr 1 0x020) ∧
  decodeSlot 0x0DC0_2810 = some (.abr 0 5 16) ∧ decodeSlot 0x0E40_0005 = some (.trap 5) ∧ decodeSlot 0x0FC0_0002 = some (.pfxi 2) ∧
  decodeSlot 0x0F000000 = none ∧
  decodeMicro 0x3000_0001_8000_0000 = some (.aclr 0 3) ∧ decodeMicro 0x3909_000F_8000_0000 = some (.adrain 2 0 true 2 0 31 false 0) ∧
  decodeMicro 0x6200_0000_0000_4000 = some (.padd 2 0 false 16384) ∧ decodeMicro 0xF800_0000_0000_0000 = none

/-! ### Steps and invariants -/

/-- Whatever the state, a step has a next state when its agenda asks for events and the clock alone: no bundle, no event and no step of a
routine ends in a fault or a refusal (R22, R180).
What log 6 fixes is the model's choice or reading, not the spec's. -/
def Obligations.StepNeverStops : Prop :=
  ∀ s : State, cleanAgenda s.agenda = true → s.Goes

/-- Every step keeps the invariant: memory stays in its canonical form, and the agenda names no slot.
What logs 2 and 6 fix is the model's choice or reading, not the spec's. -/
def Obligations.InvariantStep : Prop :=
  ∀ s t : State, s.Inv → step s = .next t → t.Inv

/-- The state after reset meets the invariant.
What logs 2 and 6 fix is the model's choice or reading, not the spec's. -/
def Obligations.InvariantReset : Prop :=
  State.reset.Inv

/-- After reset no context holds a record, every array is in its first state and the hub's registers stand at the reset values of their
maps (R210, R236, R338, R370). -/
def Obligations.ResetState : Prop :=
  (∀ c : Nat, (State.reset.ctx c).phase = .idle) ∧
  (∀ k : Nat, (State.reset.core k).latch = none ∧ (State.reset.core k).wnf = 0 ∧ (State.reset.core k).cells = Table.empty ∧
    (State.reset.core k).banks = Table.empty ∧ (∀ b : Nat, State.reset.version k b = 0) ∧ (State.reset.core k).mq = []) ∧
  State.reset.hub.cmdBase = 0 ∧ State.reset.hub.cmdSize = 4 ∧ State.reset.hub.cmdPi = 0 ∧ State.reset.hub.cmdCi = 0 ∧
  State.reset.hub.trespIgn = 0 ∧ State.reset.hub.trSize = 7 ∧ State.reset.hub.trPi = 0 ∧ State.reset.hub.trCi = 0 ∧
  State.reset.hub.trDrop = 0 ∧ State.reset.hub.dbgCtl.toNat / 2 ^ 50 % 64 = 16 ∧ State.reset.hub.dbgCtl.toNat / 2 ^ 60 = 0

/-- A step runs what the agenda asks for: an event is one step of `exec`; the clock, with no bundle whose turn it is, is one cycle, in which no context
changes but for a watch report that is due, and no register, queue or partition (log 6). -/
def Obligations.StepFollowsAgenda : Prop :=
  (∀ (s : State) (i : Instr) (r : List Act), s.agenda = .ev i :: r → isEvent i = true → step s = exec i { s with agenda := r }) ∧
  (∀ (s : State) (r : List Act), s.agenda = .clock :: r → s.turn = none → let t := ({ s with agenda := r }).tick
    step s = .next t ∧ t.now = s.now + 1 ∧ t.agenda = r ∧ t.dies = s.dies ∧ t.slots = s.slots ∧ t.hub = s.hub ∧
      (∀ c : Nat, (s.ctx c).report = none → t.ctx c = s.ctx c) ∧
      (∀ c : Nat, (t.ctx c).r = (s.ctx c).r ∧ (t.ctx c).pc = (s.ctx c).pc ∧ (t.ctx c).phase = (s.ctx c).phase ∧ (t.ctx c).inflight = (s.ctx c).inflight) ∧
      (∀ k : Nat, (t.core k).mq = (s.core k).mq ∧ (t.core k).cells = (s.core k).cells ∧ (t.core k).banks = (s.core k).banks))

/-- A step runs the decoded bundle: when the turn is a context's and its presentation is to go, the step runs the slots that the words at
its program counter decode to, once AC is set in the leaf entries that the fetch reaches. Each slot is `exec` of the decoded instruction, after its prefixes, with `iss` naming its place; the slots go
in the phases of R182 and in slot order within one; then the bundle ends (R56, R60, R76, R182). That an empty agenda runs the bundle whose turn it
is, and the field `iss`, are the model's choice (log 6), not the spec's. -/
def Obligations.StepRunsDecodedBundle : Prop :=
  (∀ (s : State) (c : Nat) (p : Presented) (ws : List (Nat × W32)), s.agenda = [] → s.turn = some c → (s.gang c).length ≤ 1 →
    (s.fetched c).outlook c = some p → p.v = .go → (s.ctx c).leader = none → (s.fetched c).fetch c (s.ctx c).pc = .ok ws → step s = runBundle exec p ws) ∧
  (∀ (s : State) (c : Nat), ∃ m, s.fetched c = { s with mem := m } ∧ ((s.ctx c).leader.isSome = true → m = s.mem)) ∧
  (∀ (s : State) (ws : List (Nat × W32)), (s.ctx s.cur).leader = none → s.fetch s.cur (s.ctx s.cur).pc = .ok ws →
    s.presentNext = s.presentWords ws none) ∧
  (∀ (s : State) (ws : List (Nat × W32)) (lead : Option (Option Nat × Option Nat)),
    ((s.presentWords ws lead).items.map fun q => q.1) = (itemsOf ws [] 0).1) ∧
  (∀ (a : Nat) (w : W32) (r : List (Nat × W32)) (v : Nat) (i : Instr), decodeSlot w = some i → (∀ p, i ≠ .pfxi p) → (∀ m g, i ≠ .pfxp m g) →
    (itemsOf ((a, w) :: r) [] v).1 = ⟨a, [], some i, v⟩ :: (itemsOf r [] (if clsOf w = .vec then v + 1 else v)).1) ∧
  (∀ (ph base j : Nat) (t : Item) (sl : Slot) (i : Instr) (r : List (Item × Slot)) (s : State), sl.phase = ph → t.pre = [] → t.ins = some i →
    runPhase exec ph base j ((t, sl) :: r) s =
      andThen (exec i (State.modCtx { s with iss := { s.iss with slot := t.addr, vec := t.vec, pfxi := none, pfxp := none } } s.cur
        fun x => { x with nextSeq := base + 256 * j })) (runPhase exec ph base (j + 1) r)) ∧
  (∀ (ph base j : Nat) (t : Item) (sl : Slot) (r : List (Item × Slot)) (s : State), sl.phase ≠ ph →
    runPhase exec ph base j ((t, sl) :: r) s = runPhase exec ph base (j + 1) r s)

/-! ### Slots in general -/

/-- A slot under a false scalar condition does nothing. A prefix joins the slot after it, and two of one kind are noted; a reserved mode or mask register
of PFXP is an ILLEGAL_INSTR, as is a word that decodes to no instruction; a bundle that presents a trap takes it (R60, R64, R65, R67, R68).
That an empty agenda runs the bundle whose turn it is, and the prefixes noted in `iss`, are the model's choice (log 6), not the spec's. -/
def Obligations.PrefixesAndConditions : Prop :=
  (∀ (i : Instr) (s : State), isSlot i = true → (∀ p, i ≠ .pfxi p) → (∀ m r, i ≠ .pfxp m r) → s.iss.checked = true → s.env.cond = false →
    exec i s = .next s) ∧
  (∀ (p : BitVec 21) (s : State),
    exec (.pfxi p) s = .next { s with iss := { s.iss with pfxi := some p, pfxiBad := s.iss.pfxiBad || s.iss.pfxi.isSome } }) ∧
  (∀ (m : BitVec 3) (r : BitVec 5) (s : State), (m.toNat < 4 ∨ (m.toNat < 6 ∧ r.toNat < 8)) →
    exec (.pfxp m r) s = .next { s with iss := { s.iss with pfxp := some (m, r), pfxiBad := s.iss.pfxiBad || s.iss.pfxp.isSome } }) ∧
  (∀ (m : BitVec 3) (r : BitVec 5) (s : State), ¬(m.toNat < 4 ∨ (m.toNat < 6 ∧ r.toNat < 8)) → (s.ctx s.cur).preds = [] →
    exec (.pfxp m r) s = .next (takeTrap s.cur cILLEGAL 0 (s.ctx s.cur).pc s)) ∧
  (∀ (s : State) (ws : List (Nat × W32)) (lead : Option (Option Nat × Option Nat)) (a : Nat) (w : W32), (a, w) ∈ ws → decodeSlot w = none →
    formBad (ws.map fun q => q.2) = false → readsBad (s.bundleReads ws) = false → ∃ v, (s.presentWords ws lead).v = .trap cILLEGAL v ∧
      ((∀ q ∈ (s.presentWords ws lead).items, q.2.illVal = none) → v = 0)) ∧
  -- a prefix that ends its bundle, or two of one kind before one slot: ILLEGAL_PREFIX, after ILLEGAL_INSTR alone (R67, R68)
  (∀ (ws : List (Nat × W32)) (a : Nat) (w : W32) (pre : List Instr) (n : Nat),
    ((∃ p, decodeSlot w = some (.pfxi p)) ∨ (∃ m r, decodeSlot w = some (.pfxp m r))) → (itemsOf (ws ++ [(a, w)]) pre n).2 = true) ∧
  (∀ (ws r : List (Nat × W32)) (a b : Nat) (w u : W32) (pre : List Instr) (n : Nat),
    (((∃ p, decodeSlot w = some (.pfxi p)) ∧ ∃ p, decodeSlot u = some (.pfxi p)) ∨
      ((∃ m g, decodeSlot w = some (.pfxp m g)) ∧ ∃ m g, decodeSlot u = some (.pfxp m g))) → (itemsOf (ws ++ (a, w) :: (b, u) :: r) pre n).2 = true) ∧
  (∀ (s : State) (ws : List (Nat × W32)) (lead : Option (Option Nat × Option Nat)), formBad (ws.map fun q => q.2) = false →
    readsBad (s.bundleReads ws) = false → (∀ q ∈ (s.presentWords ws lead).items, q.2.legal = true ∧ q.2.illVal = none ∧ ∀ p ∈ q.1.pre, wellFormed p = true) →
    (itemsOf ws [] 0).2 = true → (s.presentWords ws lead).v = .trap cPREFIX 0) ∧
  (∀ (s : State) (c : Nat) (p : Presented) (cause : Nat) (v : W64), s.agenda = [] → s.turn = some c → (s.gang c).length ≤ 1 →
    (s.fetched c).outlook c = some p →
    p.v = .trap cause v → cause ≠ cMULTI → (p.s.ctx c).preds = [] → let t := { (takeTrap c cause v (p.s.ctx c).pc p.s) with iss := Issue.none }
    step s = .next (if (t.ctx c).phase = .run then t.modCtx c fun x => { x with nextIssue := max x.nextIssue (s.now + 1) } else t))

/-- One slot alone at the program counter, in a context with no result in flight and no prediction: when nothing of the slot speaks against
it, it takes its effect and the bundle ends. That `exec` of a slot outside a bundle is a bundle of that slot alone is the model's (log 6): the spec's
bundles have four slots or more (R60). -/
def Obligations.LoneSlotIssues : Prop :=
  ∀ (i : Instr) (s : State), isSlot i = true → (∀ p, i ≠ .pfxi p) → (∀ m r, i ≠ .pfxp m r) →
    s.iss.checked = false → s.iss.pfxi = none → s.iss.pfxp = none → s.iss.pfxiBad = false → (s.ctx s.cur).inflight = [] → (s.ctx s.cur).preds = [] →
    ∀ sl : Slot, sl = slotOf i s.alone → sl.legal = true → sl.illVal = none → sl.priv = false → sl.privVal = false → sl.hold = .none → sl.traps = [] →
      sl.ecc = none → sl.kill = none → exec i s = .next ((sl.eff s.alone.enter).endBundle 0)

/-- One slot alone that meets a cause of R68 traps at its bundle: ILLEGAL_INSTR first, by its word or by an operand's value, then ILLEGAL_PREFIX, for a
prefix of the wrong kind or a doubled one, then PRIV, each before any hold and whatever else stands; with no hold, the lowest other cause, before a
kill. Its effect does not take place, and TRAP_PC is the bundle's address (R67, R68, R311). The bundle of one slot is the model's (log 6). -/
def Obligations.LoneSlotTraps : Prop :=
  ∀ (i : Instr) (s : State), isSlot i = true → (∀ p, i ≠ .pfxi p) → (∀ m r, i ≠ .pfxp m r) →
    s.iss.checked = false → (s.ctx s.cur).inflight = [] → (s.ctx s.cur).preds = [] →
    ∀ sl : Slot, sl = slotOf i s.alone →
      (sl.legal = false → exec i s = .next (takeTrap s.cur cILLEGAL 0 (s.ctx s.cur).pc s.alone)) ∧
      (∀ a, sl.legal = true → sl.illVal = some a → exec i s = .next (takeTrap s.cur cILLEGAL a (s.ctx s.cur).pc s.alone)) ∧
      (sl.legal = true → sl.illVal = none → (sl.prefixBad s.alone.env = true ∨ s.iss.pfxiBad = true) →
        exec i s = .next (takeTrap s.cur cPREFIX 0 (s.ctx s.cur).pc s.alone)) ∧
      (sl.legal = true → sl.illVal = none → sl.prefixBad s.alone.env = false → s.iss.pfxiBad = false → (sl.priv = true ∨ sl.privVal = true) →
        exec i s = .next (takeTrap s.cur cPRIV 0 (s.ctx s.cur).pc s.alone)) ∧
      (∀ u : Nat × W64, sl.legal = true → sl.illVal = none → sl.prefixBad s.alone.env = false → s.iss.pfxiBad = false → sl.priv = false → sl.privVal = false →
        sl.hold = .none → u ∈ sl.traps → sl.ecc = none → (∀ t ∈ sl.traps, t ≠ u → u.1 < t.1) → u.1 ≠ cMULTI →
        exec i s = .next (takeTrap s.cur u.1 u.2 (s.ctx s.cur).pc s.alone))

/-- A slot alone whose hold stands is held: no result, no memory effect; the context keeps its program counter (R43, R74). The bundle of one slot is the
model's (log 6). -/
def Obligations.LoneSlotHeld : Prop :=
  ∀ (i : Instr) (s : State), isSlot i = true → (∀ p, i ≠ .pfxi p) → (∀ m r, i ≠ .pfxp m r) →
    s.iss.checked = false → s.iss.pfxi = none → s.iss.pfxp = none → s.iss.pfxiBad = false → (s.ctx s.cur).inflight = [] → (s.ctx s.cur).preds = [] →
    ∀ sl : Slot, sl = slotOf i s.alone → sl.legal = true → sl.illVal = none → sl.priv = false → sl.privVal = false → sl.hold ≠ .none →
      ∃ t, exec i s = .next t ∧ (t.ctx s.cur).held = sl.hold ∧ (t.ctx s.cur).pc = (s.ctx s.cur).pc ∧ (t.ctx s.cur).r = (s.ctx s.cur).r ∧
        (t.ctx s.cur).inflight = [] ∧ t.mem = s.mem ∧ (t.ctx s.cur).lsq = (s.ctx s.cur).lsq ∧ (t.ctx s.cur).phase = (s.ctx s.cur).phase

/-- While a prediction is outstanding AGREE, COLL, NEXTT, QPOP, RAISE, DISPATCH, FENCER, SUSPEND, TEND and DRAIN are held as ABR waits, and
loads, RLD, CWAIT, MWAIT, CPYW and WFE are not (R295). -/
def Obligations.PredictionHolds : Prop :=
  ∀ s : State, (s.ctx s.cur).preds ≠ [] → s.env.cond = true →
    (∀ i : Instr, ((∃ d t, i = .agree d t) ∨ (∃ o, i = .coll o) ∨ (∃ o, i = .nextt o) ∨ (∃ o, i = .qpop o) ∨ (∃ o, i = .raise o) ∨
        (∃ o, i = .dispatch o) ∨ (∃ o v, i = .fencer o v) ∨ (∃ o v, i = .suspend o v) ∨ i = .tend ∨ i = .drain) →
      (slotOf i s).hold = .abr) ∧
    (∀ i : Instr, ((∃ o z, i = .ld o z) ∨ (∃ o, i = .ldv o) ∨ (∃ o v, i = .ldg o v) ∨ (∃ o z, i = .rld o z) ∨ (∃ o, i = .cwait o) ∨
        (∃ o b, i = .mwait o b) ∨ (∃ o, i = .cpyw o) ∨ (∃ o v, i = .wfe o v)) →
      (slotOf i s).hold ≠ .abr)

/-- The privilege checks: RTE needs PRV, QPOP and DISPATCH need SEQ, MPWR needs its window or a routine-table word that stays within it; a
bundle with a slot that fails one traps PRIV before any slot executes (R94). -/
def Obligations.PrivilegeChecks : Prop :=
  (∀ (s : State) (o : R2) (v : BitVec 4), (slotOf (.rte o v) s).priv = !(s.ctx s.cur).prv) ∧
  (∀ (s : State) (o : R2), (slotOf (.qpop o) s).priv = !(s.ctx s.cur).seqr) ∧
  (∀ (s : State) (o : R3), (slotOf (.dispatch o) s).priv = !(s.ctx s.cur).seqr) ∧
  (∀ (s : State) (o : AB), (slotOf (.mpwr o) s).privVal = !(s.mpwrOk (coreOf s.cur) (s.tA o.a o.ha).d (s.tB o.b o.hb).d)) ∧
  (∀ (s : State) (k : Nat) (i w : W64), s.mpwrOk k i w = true ↔
    (s.inWindow k i.toNat = true ∨ (i.toNat < 64 ∧
      ((s.storeWord k i.toNat).getLsbD 63 = true → s.inWindow k ((s.storeWord k i.toNat).toNat % 4096) = true) ∧
      (w.getLsbD 63 = true → s.inWindow k (w.toNat % 4096) = true)))) ∧
  (∀ (s : State) (k i : Nat), s.inWindow k i = true ↔ max (s.core k).mpwBase.toNat 64 ≤ i ∧ i < min (s.core k).mpwLimit.toNat 4096) ∧
  (∀ (x : Ctx) (now : Nat) (sls : List Slot), (∀ sl ∈ sls, sl.legal = true ∧ sl.illVal = none) →
    (∃ sl ∈ sls, sl.priv = true ∨ (sl.privVal = true ∧ x.ilock sl.reads = false)) → verdict x now sls false = .trap cPRIV 0)

/-- Core accesses are naturally aligned: with an address that is not, LD, ST, RLD and RST to their size, LDV and STV to 256 bytes, LDG and STG in each
enabled lane to their element's size, ATOM and RATOM to 4 bytes, STVER to 16, BARM, CWAIT, NEXTT and the flag of RST to 8 name MISALIGNED with the address
as a cause that stops their bundle, and with one that is, no such cause (R164, R193, R205, R412, R427, R428, R442, R459, R465, R466). -/
def Obligations.MisalignmentTraps : Prop :=
  ∀ s : State, s.env.cond = true →
    (∀ (o : MO) (z : BitVec 2) (ea : W64), ea = (s.mA o.base o.ha).d + s.env.ofs8 o.ofs * BitVec.ofNat 64 (2 ^ z.toNat) →
      ((cALIGN, ea) ∈ (slotOf (.ld o z) s).traps ↔ ea.toNat % 2 ^ z.toNat ≠ 0) ∧ ((cALIGN, ea) ∈ (slotOf (.st o z) s).traps ↔ ea.toNat % 2 ^ z.toNat ≠ 0) ∧
      ((cALIGN, ea) ∈ (slotOf (.rld o z) s).traps ↔ ea.toNat % 2 ^ z.toNat ≠ 0)) ∧
    (∀ (o : MO) (ea : W64), s.env.lanes ≠ 0 → ea = (s.mA o.base o.ha).d + s.env.ofs8 o.ofs * 256 →
      ((cALIGN, ea) ∈ (slotOf (.ldv o) s).traps ↔ ea.toNat % 256 ≠ 0) ∧ ((cALIGN, ea) ∈ (slotOf (.stv o) s).traps ↔ ea.toNat % 256 ≠ 0)) ∧
    (∀ (o : R3) (v : BitVec 4) (a : W64), a = (s.mA o.a o.ha).d →
      ((cALIGN, a) ∈ (slotOf (.atom o v) s).traps ↔ a.toNat % 4 ≠ 0) ∧ ((cALIGN, a) ∈ (slotOf (.ratom o v) s).traps ↔ a.toNat % 4 ≠ 0)) ∧
    (∀ (o : R3) (v : BitVec 4) (n u : Nat) (q : W64), (v.toNat, n, u) ∈ [(0, 4, 1), (1, 4, 4), (2, 2, 1), (3, 1, 1)] →
      let lane : Prop := ∃ l, l < 64 ∧ s.env.on l = true ∧
        q = (s.mA o.a o.ha).d + BitVec.ofNat 64 u * ((s.mB .v o.b o.hb).lane l).setWidth 64 ∧ q.toNat % n ≠ 0
      ((cALIGN, q) ∈ (slotOf (.ldg o v) s).traps ↔ lane) ∧ ((cALIGN, q) ∈ (slotOf (.stg o v) s).traps ↔ lane)) ∧
    (∀ (o : R3) (v : BitVec 4) (n : Nat) (q : W64), (v.toNat, n) ∈ [(8, 8), (9, 4)] →
      let one : Prop := s.env.on 0 = true ∧ q = (s.mA o.a o.ha).d + (s.mB .x o.b o.hb).d ∧ q.toNat % n ≠ 0
      ((cALIGN, q) ∈ (slotOf (.ldg o v) s).traps ↔ one) ∧ ((cALIGN, q) ∈ (slotOf (.stg o v) s).traps ↔ one)) ∧
    (∀ (o : R3) (a : W64), a = (s.mA o.a o.ha).d → ((cALIGN, a) ∈ (slotOf (.stver o) s).traps ↔ a.toNat % 16 ≠ 0)) ∧
    (∀ (o : AB), let a := (s.mA o.a o.ha).d
      ((cALIGN, a) ∈ (slotOf (.barm o) s).traps ↔ a.toNat % 8 ≠ 0) ∧ ((cALIGN, a) ∈ (slotOf (.cwait o) s).traps ↔ a.toNat % 8 ≠ 0)) ∧
    (∀ (o : AB), let a := (s.kA o.a o.ha).d
      ((cALIGN, a) ∈ (slotOf (.nextt o) s).traps ↔ a.toNat % 8 ≠ 0)) ∧
    (∀ (o : R3) (v : BitVec 4) (q : W64), let n := if v = 4 then 256 else 2 ^ v.toNat
      ((cALIGN, q) ∈ (slotOf (.rst o v) s).traps ↔ ((q = (s.mA o.a o.ha).d ∧ q.toNat % n ≠ 0) ∨ (q = (s.mB .x o.b o.hb).d ∧ q.toNat % 8 ≠ 0))))


/-! ### Scalar X (R382 to R402, R433 to R468, R492) -/

/-- ADD, SUB, AND, OR and XOR on registers: the low 64 bits of the sum, the difference or the logical operation, one cycle later, no flag; the
spec's example words; any variant but 0 is no instruction and traps ILLEGAL_INSTR; a scalar PFXP alone may stand before them (R382, R388, R444, R468, R492). -/
def Obligations.AddSubAndOrXor : Prop :=
  (∀ (s : State) (o : R3), s.Issuing →
    let a := s.xA o.a o.ha
    let b := s.xB o.b o.hb
    exec (.add o) s = .next (s.gives [a, b] (s.xRes o.d (a.d + b.d) 1)) ∧
    exec (.sub o) s = .next (s.gives [a, b] (s.xRes o.d (a.d - b.d) 1)) ∧
    exec (.and o) s = .next (s.gives [a, b] (s.xRes o.d (a.d &&& b.d) 1)) ∧
    exec (.or o) s = .next (s.gives [a, b] (s.xRes o.d (a.d ||| b.d) 1)) ∧
    exec (.xor o) s = .next (s.gives [a, b] (s.xRes o.d (a.d ^^^ b.d) 1))) ∧
  decodeSlot 0x00230880 = some (.add ⟨3, 1, 2, false, false⟩) ∧ decodeSlot 0x00494A00 = some (.sub ⟨9, 9, 8, false, false⟩) ∧
  decodeSlot 0x00DACA00 = some (.xor ⟨26, 25, 8, false, false⟩) ∧
  (∀ w : W32, (fOp w).toNat ∈ [1, 2, 4, 5, 6] → fV w ≠ 0 → decodeSlot w = none) ∧
  (∀ (s : State) (ws : List (Nat × W32)) (lead : Option (Option Nat × Option Nat)) (a : Nat) (w : W32), (a, w) ∈ ws → (fOp w).toNat ∈ [1, 2, 4, 5, 6] →
    fV w ≠ 0 → formBad (ws.map fun q => q.2) = false → readsBad (s.bundleReads ws) = false → ∃ v, (s.presentWords ws lead).v = .trap cILLEGAL v ∧
      ((∀ q ∈ (s.presentWords ws lead).items, q.2.illVal = none) → v = 0)) ∧
  (∀ (s : State) (o : R3), ∀ sl ∈ [slotOf (.add o) s, slotOf (.sub o) s, slotOf (.and o) s, slotOf (.or o) s, slotOf (.xor o) s],
    sl.okP = true ∧ sl.okI = false ∧ sl.okL = false ∧ sl.legal = true ∧ sl.illVal = none)

/-- ADDR keeps the owner field and adds a scaled index to the offset; the shifts by a register, in 64 and 32 bits; MIN, MAX and the six conditions of
CMP; SEL reads D as its condition; CLZ counts the zero bits above the highest 1 bit and POPC the 1 bits, in 64 or 32 bits; MUL gives the low half of the
product, MULH the high half of the product of the operands read as the variant says, after three cycles; no flag (R384, R400, R401, R433, R439, R448,
R461, R462). -/
def Obligations.IntegerForms : Prop :=
  (∀ (s : State) (o : R3), s.Issuing →
    let a := s.xA o.a o.ha
    let b := s.xB o.b o.hb
    let ans (v : W64) : Host.Outcome State Fault Refusal := .next (s.gives [a, b] (s.xRes o.d v 1))
    let low : W32 := a.d.setWidth 32
    let bit (p : Prop) [Decidable p] : W64 := if p then 1 else 0
    (∀ n : BitVec 4, n.toNat < 8 →
      exec (.addr o n) s = ans (a.d.extractLsb' 42 22 ++ (a.d.setWidth 42 + b.d.setWidth 42 * BitVec.ofNat 42 (2 ^ n.toNat) : BitVec 42))) ∧
    exec (.shl o false) s = ans (a.d <<< (b.d.toNat % 64)) ∧ exec (.shr o false) s = ans (a.d >>> (b.d.toNat % 64)) ∧
    exec (.sra o false) s = ans (a.d.sshiftRight (b.d.toNat % 64)) ∧ exec (.shl o true) s = ans ((low <<< (b.d.toNat % 32)).signExtend 64) ∧
    exec (.shr o true) s = ans ((low >>> (b.d.toNat % 32)).signExtend 64) ∧ exec (.sra o true) s = ans ((low.sshiftRight (b.d.toNat % 32)).signExtend 64) ∧
    exec (.min o false) s = ans (if a.d.toInt ≤ b.d.toInt then a.d else b.d) ∧ exec (.min o true) s = ans (if a.d.toNat ≤ b.d.toNat then a.d else b.d) ∧
    exec (.max o false) s = ans (if b.d.toInt ≤ a.d.toInt then a.d else b.d) ∧ exec (.max o true) s = ans (if b.d.toNat ≤ a.d.toNat then a.d else b.d) ∧
    exec (.cmp o 0) s = ans (bit (a.d = b.d)) ∧ exec (.cmp o 1) s = ans (bit (a.d ≠ b.d)) ∧ exec (.cmp o 2) s = ans (bit (a.d.toInt < b.d.toInt)) ∧
    exec (.cmp o 3) s = ans (bit (b.d.toInt ≤ a.d.toInt)) ∧ exec (.cmp o 4) s = ans (bit (a.d.toNat < b.d.toNat)) ∧
    exec (.cmp o 5) s = ans (bit (b.d.toNat ≤ a.d.toNat))) ∧
  (∀ (s : State) (o : R3), s.Issuing →
    let a := s.xA o.a o.ha
    let b := s.xB o.b o.hb
    let d := s.env.reg .x o.d
    let ans (v : W64) : Host.Outcome State Fault Refusal := .next (s.gives [a, b, d] (s.xRes o.d v 1))
    exec (.sel o false) s = ans (if d.d ≠ 0 then a.d else b.d) ∧ exec (.sel o true) s = ans (if d.d = 0 then a.d else b.d)) ∧
  (∀ (s : State) (o : R2), s.Issuing →
    let a := s.xA o.a o.ha
    let ans (n : Nat) : Host.Outcome State Fault Refusal := .next (s.gives [a] (s.xRes o.d (BitVec.ofNat 64 n) 1))
    (a.d = 0 → exec (.clz o false) s = ans 64) ∧ (∀ n, n < 64 → a.d.toNat / 2 ^ (63 - n) = 1 → exec (.clz o false) s = ans n) ∧
    (a.d.setWidth 32 = (0 : W32) → exec (.clz o true) s = ans 32) ∧
    (∀ n, n < 32 → a.d.toNat % 2 ^ 32 / 2 ^ (31 - n) = 1 → exec (.clz o true) s = ans n) ∧
    exec (.popc o false) s = ans ((List.range 64).countP fun i => a.d.getLsbD i) ∧
    exec (.popc o true) s = ans ((List.range 32).countP fun i => a.d.getLsbD i)) ∧
  (∀ (s : State) (o : R3), s.Issuing →
    let a := s.xA o.a o.ha
    let b := s.xB o.b o.hb
    let ans (p : Int) : Host.Outcome State Fault Refusal := .next (s.gives [a, b] (s.xRes o.d (BitVec.ofInt 64 p) 3))
    exec (.mul o) s = ans (a.d.toInt * b.d.toInt) ∧ exec (.mul o) s = ans (a.d.toNat * b.d.toNat) ∧
    exec (.mulh o 0) s = ans ((a.d.toInt * b.d.toInt).fdiv (2 ^ 64)) ∧
    exec (.mulh o 1) s = ans ((a.d.toNat * b.d.toNat : Int).fdiv (2 ^ 64)) ∧
    exec (.mulh o 2) s = ans ((a.d.toInt * b.d.toNat).fdiv (2 ^ 64)))

/-- ADDI, ANDI, ORI, XORI and CMPI take a sign-extended immediate of 11 bits, or after a PFXI one of 32 bits; the shifts by an immediate; LI
and LIH (R64, R383, R388, R402, R429, R444, R463, R492). -/
def Obligations.ImmediateForms : Prop :=
  (∀ (s : State) (o : RI), s.Issuing →
    let a := s.xA o.a false
    let ans (v : W64) : Host.Outcome State Fault Refusal := .next (s.gives [a] (s.xRes o.d v 1))
    ∀ i : W64, ((s.iss.pfxi = none ∧ i = o.imm.signExtend 64) ∨ (∃ p, s.iss.pfxi = some p ∧ i = (p ++ o.imm : BitVec 32).signExtend 64)) →
      exec (.addi o) s = ans (a.d + i) ∧ exec (.andi o) s = ans (a.d &&& i) ∧ exec (.ori o) s = ans (a.d ||| i) ∧
      exec (.xori o) s = ans (a.d ^^^ i) ∧ exec (.cmpi o) s = ans (if a.d.toInt < i.toInt then 1 else 0)) ∧
  (∀ (s : State) (d r : BitVec 5) (n : BitVec 6), s.Issuing →
    let a := s.xA r false
    let ans (v : W64) : Host.Outcome State Fault Refusal := .next (s.gives [a] (s.xRes d v 1))
    exec (.shli d r n) s = ans (a.d <<< n.toNat) ∧ exec (.shri d r n) s = ans (a.d >>> n.toNat) ∧ exec (.srai d r n) s = ans (a.d.sshiftRight n.toNat)) ∧
  (∀ (s : State) (d : BitVec 5) (imm : BitVec 16), s.Issuing →
    ∀ v : W64, ((s.iss.pfxi = none ∧ v = imm.signExtend 64) ∨ (∃ p, s.iss.pfxi = some p ∧ v = (p ++ imm : BitVec 37).signExtend 64)) →
      exec (.li d imm) s = .next (s.gives [] (s.xRes d v 1)) ∧
      exec (.lih d imm) s = .next (s.gives [s.env.reg .x d] (s.xRes d (v.setWidth 32 ++ (s.env.reg .x d).d.setWidth 32 : W64) 1)))

/-- MOVX copies 64 bits between files after two cycles, poison going along to x and y: y to x, x to y, x to m, m to x, q to x and x to q. From
an n register whose requests have all landed it copies that register to x (R84, R437). -/
def Obligations.MoveBetweenFiles : Prop :=
  ∀ (s : State) (o : R2), s.Issuing →
    let ans (f : File) (a : Opnd) (p : W64) : Host.Outcome State Fault Refusal :=
      .next (s.gives [a] { mkRes f o.d.toNat (wide64 a.d) (s.now + 2) with psn := p })
    let x (f : File) : Opnd := s.env.opnd f o.a o.ha 0
    let y : Opnd := s.env.opnd .x o.a o.ha 2
    exec (.movx o 0) s = ans .x (x .y) ((x .y).psn &&& 1) ∧ exec (.movx o 1) s = ans .y y (y.psn &&& 1) ∧ exec (.movx o 3) s = ans .m (x .x) 0 ∧
    exec (.movx o 4) s = ans .x (x .m) ((x .m).psn &&& 1) ∧ exec (.movx o 5) s = ans .x (x .q) ((x .q).psn &&& 1) ∧ exec (.movx o 6) s = ans .q (x .x) 0 ∧
    ((s.ctx s.cur).nextts o.a.toNat = [] → exec (.movx o 2) s = ans .x (x .n) ((x .n).psn &&& 1))

/-! ### Scalar Y (R396, R415 to R423) -/

/-- DIV gives quotient or remainder, signed or unsigned, of 64 or of 32 bits, rounding toward zero, after 20 cycles; the remainder has the
sign of the dividend; a zero divisor gives all ones as quotient and the dividend as remainder; no flag; a variant from 8 on is an
ILLEGAL_INSTR, and a scalar PFXP alone may stand before it (R415). -/
def Obligations.DivideRounds : Prop :=
  (∀ (s : State) (o : R3), s.Issuing →
    let a := s.yA o.a o.ha
    let b := s.yB o.b o.hb
    let ans (v : W64) : Host.Outcome State Fault Refusal := .next (s.gives [a, b] (s.yRes o.d v 20 0))
    let p : W32 := a.d.setWidth 32
    let q : W32 := b.d.setWidth 32
    (b.d ≠ 0 → exec (.div o 0) s = ans (BitVec.ofInt 64 (a.d.toInt.tdiv b.d.toInt)) ∧ exec (.div o 1) s = ans (a.d / b.d) ∧
      exec (.div o 2) s = ans (BitVec.ofInt 64 (a.d.toInt - b.d.toInt * a.d.toInt.tdiv b.d.toInt)) ∧ exec (.div o 3) s = ans (a.d % b.d)) ∧
    (b.d = 0 → exec (.div o 0) s = ans (BitVec.allOnes 64) ∧ exec (.div o 1) s = ans (BitVec.allOnes 64) ∧ exec (.div o 2) s = ans a.d ∧ exec (.div o 3) s = ans a.d) ∧
    (q ≠ 0 → exec (.div o 4) s = ans ((BitVec.ofInt 32 (p.toInt.tdiv q.toInt)).signExtend 64) ∧ exec (.div o 5) s = ans ((p / q).setWidth 64) ∧
      exec (.div o 6) s = ans ((BitVec.ofInt 32 (p.toInt.tmod q.toInt)).signExtend 64) ∧ exec (.div o 7) s = ans ((p % q).setWidth 64)) ∧
    (q = 0 → exec (.div o 4) s = ans (BitVec.allOnes 64) ∧ exec (.div o 5) s = ans 0xFFFFFFFF ∧ exec (.div o 6) s = ans (p.signExtend 64) ∧
      exec (.div o 7) s = ans (p.setWidth 64))) ∧
  decodeSlot 0x03042983 = some (.div ⟨4, 5, 6, false, false⟩ 3) ∧
  (∀ (s : State) (o : R3) (v : BitVec 4), (slotOf (.div o v) s).okP = true ∧ (slotOf (.div o v) s).okI = false ∧ (slotOf (.div o v) s).okL = false ∧
    (slotOf (.div o v) s).traps = [] ∧ (slotOf (.div o v) s).legal = decide (v.toNat < 8))

/-- The FP32 arithmetic of scalar Y: sum, difference, product, multiply-add, quotient, square root, inverse root, comparison, minimum, maximum
and class, each after its latency, the result in bits 31:0 and zero above, the flags with the result; a rounding form under SR takes one draw; and
FCVT between integers and FP32 under FPCTL.RM, after three cycles (R135, R138, R417 to R420, R422, R423). -/
def Obligations.ScalarFloat : Prop :=
  (∀ (s : State) (o : R3) (r : BitVec 3), s.Issuing →
    let a := s.yA o.a o.ha
    let b := s.yB o.b o.hb
    let m := rmSel (s.ctx s.cur) r
    let u := s.draw1 s.cur m
    let c := s.env.reg .y o.d
    exec (.fadd o r) s = .next (s.rounds [a, b] m 1 (s.fRes o.d (fAdd a.w b.w m u) 4)) ∧
    exec (.fsub o r) s = .next (s.rounds [a, b] m 1 (s.fRes o.d (fSub a.w b.w m u) 4)) ∧
    exec (.fmul o r) s = .next (s.rounds [a, b] m 1 (s.fRes o.d (fMul a.w b.w m u) 4)) ∧
    exec (.fdiv o r) s = .next (s.rounds [a, b] m 1 (s.fRes o.d (fDiv a.w b.w m u) 14)) ∧
    (∀ neg, exec (.fma o neg r) s = .next (s.rounds [a, b, c] m 1 (s.fRes o.d (fFma neg a.w b.w c.w m u) 4))) ∧
    (∀ v, exec (.fcmp o v) s = .next (s.gives [a, b] (s.yRes o.d (if (fCmp v.toNat a.w b.w).1 then 1 else 0) 2 (fCmp v.toNat a.w b.w).2))) ∧
    exec (.fmin o) s = .next (s.gives [a, b] (s.fRes o.d (fMinMax false a.w b.w) 2)) ∧
    exec (.fmax o) s = .next (s.gives [a, b] (s.fRes o.d (fMinMax true a.w b.w) 2))) ∧
  (∀ (s : State) (o : R2) (r : BitVec 3), s.Issuing →
    let a := s.yA o.a o.ha
    let m := rmSel (s.ctx s.cur) r
    let u := s.draw1 s.cur m
    exec (.fsqrt o r) s = .next (s.rounds [a] m 1 (s.fRes o.d (fSqrt a.w m u) 14)) ∧
    exec (.frsq o r) s = .next (s.rounds [a] m 1 (s.fRes o.d (fRsq a.w m u) 8)) ∧
    exec (.fclass o) s = .next (s.gives [a] (s.yRes o.d (BitVec.ofNat 64 (fClass a.w)) 2 0))) ∧
  (∀ (s : State) (o : R2), s.Issuing →
    let a := s.yA o.a o.ha
    let m := rmOfBits (s.ctx s.cur).r.rm
    let u := s.draw1 s.cur m
    let toF (z : Int) : Host.Outcome State Fault Refusal := .next (s.rounds [a] m 1 (s.fRes o.d (toF32 (numOfInt z) m u) 3))
    let toI (lo hi : Int) : Host.Outcome State Fault Refusal :=
      .next (s.rounds [a] m 1 (s.yRes o.d (BitVec.ofInt 64 (toInt a.w lo hi m u).1) 3 (toInt a.w lo hi m u).2))
    exec (.fcvt o 0) s = toF a.w.toInt ∧ exec (.fcvt o 1) s = toF a.w.toNat ∧ exec (.fcvt o 2) s = toF a.d.toInt ∧ exec (.fcvt o 3) s = toF a.d.toNat ∧
    exec (.fcvt o 4) s = toI (-(2 ^ 31)) (2 ^ 31 - 1) ∧ exec (.fcvt o 5) s = toI 0 (2 ^ 32 - 1) ∧
    exec (.fcvt o 6) s = toI (-(2 ^ 63)) (2 ^ 63 - 1) ∧ exec (.fcvt o 7) s = toI 0 (2 ^ 64 - 1))

/-- FP32 arithmetic on a NaN gives the canonical NaN, with NV for a signalling one and no flag for a quiet one; x - x is +0, and -0 under
RDN; a zero divides a finite number that is not zero to an infinity with DZ; zero by zero is the canonical NaN with NV. On finite numbers a sum, a
difference, a product and a multiply-add is the exact value rounded once; a value that a floating-point format holds is its own rounding, with no flag;
and the powers of two have exact roots, reciprocals, logarithms and exponentials (R132, R134, R136, R417, R482). -/
def Obligations.FloatSpecialCases : Prop :=
  (∀ (a b : W32) (m : Rm) (u : W32) (q : Bool), f32 a = .nan q → (∀ r, f32 b ≠ .nan r) →
    ∀ ans : W32 × BitVec 5, ans = (nan32, if q then 0x10 else 0) →
      fAdd a b m u = ans ∧ fAdd b a m u = ans ∧ fSub a b m u = ans ∧ fMul a b m u = ans ∧ fMul b a m u = ans ∧ fDiv a b m u = ans ∧
      fDiv b a m u = ans ∧ fMinMax false a b = ans ∧ fMinMax true b a = ans ∧ fSqrt a m u = ans ∧ fRsq a m u = ans) ∧
  (∀ (a : W32) (s : Bool) (n : Nat) (e : Int) (m : Rm) (u : W32), f32 a = .fin s n e →
    fSub a a m u = ((if m = .rdn then 0x80000000 else 0), 0)) ∧
  (∀ (a b : W32) (s t : Bool) (n : Nat) (e e' : Int) (m : Rm) (u : W32), f32 a = .fin s n e → f32 b = .fin t 0 e' →
    fDiv a b m u = (if n = 0 then (nan32, 0x10) else if s = t then (0x7F800000, 8) else (0xFF800000, 8))) ∧
  -- the exact value at the lower of two exponents, rounded once
  (∀ (a b : W32) (s t : Bool) (n k : Nat) (e q : Int) (m : Rm) (u : W32), f32 a = .fin s n e → f32 b = .fin t k q →
    let at0 (sg : Bool) (z : Nat) (x : Int) : Int := (if sg then -1 else 1) * ((z * 2 ^ (x - min e q).toNat : Nat) : Int)
    let once (z : Int) : W32 × BitVec 5 := toF32 (.fin (decide (z < 0)) z.natAbs (min e q)) m u
    (at0 s n e + at0 t k q ≠ 0 → fAdd a b m u = once (at0 s n e + at0 t k q)) ∧ (at0 s n e - at0 t k q ≠ 0 → fSub a b m u = once (at0 s n e - at0 t k q)) ∧
    fMul a b m u = toF32 (.fin (s != t) (n * k) (e + q)) m u) ∧
  (∀ (a b c : W32) (s t w : Bool) (n k j : Nat) (e q x : Int) (m : Rm) (u : W32) (neg : Bool), f32 a = .fin s n e → f32 b = .fin t k q → f32 c = .fin w j x →
    let lo := min x (e + q)
    let z : Int := (if w then -1 else 1) * ((j * 2 ^ (x - lo).toNat : Nat) : Int) + (if s == (t == neg) then -1 else 1) * ((n * k * 2 ^ (e + q - lo).toNat : Nat) : Int)
    z ≠ 0 → fFma neg a b c m u = toF32 (.fin (decide (z < 0)) z.natAbs lo) m u) ∧
  (∀ (f c : Nat) (s : Bool) (n : Nat) (e : Int) (m : Rm) (sat : Bool) (u : W32), f ≤ 7 → c < 2 ^ fmtWidth f → decodeFmt f c = .fin s n e →
    encodeFmt f (.fin s n e) m sat u = (c, 0)) ∧
  (∀ (x : Machine.Num) (m : Rm) (u : W32), toF32 x m u = (BitVec.ofNat 32 (encodeFmt 0 x m false u).1, (encodeFmt 0 x m false u).2)) ∧
  (∀ k : Int, -126 ≤ k → k ≤ 126 → let two (i : Int) : W32 := BitVec.ofNat 32 ((i + 127).toNat * 2 ^ 23)
    fRcp (two k) = (two (-k), 0) ∧ fLog2 (two k) = toF32 (numOfInt k) .rne 0 ∧ fExp2 (toF32 (numOfInt k) .rne 0).1 = (two k, 0) ∧
    (-63 ≤ k → k ≤ 63 → fSqrt (two (2 * k)) .rne 0 = (two k, 0) ∧ fRsq (two (2 * k)) .rne 0 = (two (-k), 0)))

/-! ### The vector class (R141, R452, R475 to R488) -/

/-- The lane operations of the vector class: FP32 sum, difference, product and multiply-add with 64 draws under SR, integer sum, difference and product,
saturated or high half; minimum, maximum, logic and shifts, each lane from the same lane of its operands; comparison into a mask, selection by a mask,
permutation, broadcast, and the mask operations (R452, R475 to R479, R483, R484, R487, R488). -/
def Obligations.VectorLanes : Prop :=
  (∀ (s : State) (o : R3), s.Issuing →
    let a := s.vA .v o.a o.ha
    let b := s.vB .v o.b o.hb
    let c := s.env.reg .v o.d
    let int (f : W32 → W32 → W32) (lat : Nat) : Host.Outcome State Fault Refusal :=
      .next (s.gives [a, b] (s.vRes o.d (fun l => (f (a.lane l) (b.lane l), 0)) lat))
    let n (w : W32) : Nat := w.toNat % 256
    (∀ v : BitVec 4, v.toNat < 8 → let m := rmSel (s.ctx s.cur) (v.setWidth 3)
      exec (.vadd o v) s = .next (s.rounds [a, b] m 64 (s.vRes o.d (fun l => fAdd (a.lane l) (b.lane l) m (s.drawL s.cur m l)) 4)) ∧
      exec (.vsub o v) s = .next (s.rounds [a, b] m 64 (s.vRes o.d (fun l => fSub (a.lane l) (b.lane l) m (s.drawL s.cur m l)) 4)) ∧
      exec (.vmul o v) s = .next (s.rounds [a, b] m 64 (s.vRes o.d (fun l => fMul (a.lane l) (b.lane l) m (s.drawL s.cur m l)) 4))) ∧
    (∀ v : BitVec 4, let m := rmSel (s.ctx s.cur) (v.setWidth 3)
      exec (.vfma o v) s = .next (s.rounds [a, b, c] m 64
        (s.vRes o.d (fun l => fFma (v.getLsbD 3) (a.lane l) (b.lane l) (c.lane l) m (s.drawL s.cur m l)) 4))) ∧
    exec (.vadd o 8) s = int (· + ·) 4 ∧ exec (.vsub o 8) s = int (· - ·) 4 ∧ exec (.vmul o 8) s = int (· * ·) 4 ∧
    exec (.vadd o 9) s = int (fun p q => BitVec.ofInt 32 (max (-(2 ^ 31)) (min (2 ^ 31 - 1) (p.toInt + q.toInt)))) 4 ∧
    exec (.vsub o 9) s = int (fun p q => BitVec.ofInt 32 (max (-(2 ^ 31)) (min (2 ^ 31 - 1) (p.toInt - q.toInt)))) 4 ∧
    exec (.vmul o 9) s = int (fun p q => BitVec.ofInt 32 ((p.toInt * q.toInt).fdiv (2 ^ 32))) 4 ∧
    exec (.vmul o 10) s = int (fun p q => BitVec.ofNat 32 (p.toNat * q.toNat / 2 ^ 32)) 4 ∧
    exec (.vmin o 0) s = .next (s.gives [a, b] (s.vRes o.d (fun l => fMinMax false (a.lane l) (b.lane l)) 2)) ∧
    exec (.vmax o 0) s = .next (s.gives [a, b] (s.vRes o.d (fun l => fMinMax true (a.lane l) (b.lane l)) 2)) ∧
    exec (.vmin o 1) s = int (fun p q => if p.toInt ≤ q.toInt then p else q) 2 ∧ exec (.vmax o 1) s = int (fun p q => if q.toInt ≤ p.toInt then p else q) 2 ∧
    exec (.vmin o 2) s = int (fun p q => if p.toNat ≤ q.toNat then p else q) 2 ∧ exec (.vmax o 2) s = int (fun p q => if q.toNat ≤ p.toNat then p else q) 2 ∧
    exec (.vand o) s = int (· &&& ·) 2 ∧ exec (.vor o) s = int (· ||| ·) 2 ∧ exec (.vxor o) s = int (· ^^^ ·) 2 ∧
    exec (.vshl o) s = int (fun p q => p <<< n q) 2 ∧ exec (.vshr o 1) s = int (fun p q => p >>> n q) 2 ∧ exec (.vshr o 2) s = int (fun p q => p.sshiftRight (n q)) 2) ∧
  (∀ (s : State) (o : R3), s.Issuing →
    let a := s.vA .v o.a o.ha
    let b := s.vB .v o.b o.hb
    let p := s.vA .q o.a o.ha
    let q := s.vB .q o.b o.hb
    let i := s.vB .x o.b o.hb
    let x := s.vA .x o.a o.ha
    let no : Opnd := Opnd.none
    let lanes := s.env.lanes
    (∀ v : BitVec 4, exec (.vcmp o v) s = .next (s.gives [a, b]
      (s.qRes o.d (maskBits fun l => (vCmpLane v.toNat (a.lane l) (b.lane l)).1) (orFlags lanes fun l => (vCmpLane v.toNat (a.lane l) (b.lane l)).2)))) ∧
    (∀ n : BitVec 3, let m := s.env.reg .q (n.setWidth 5)
      exec (.vsel o n) s = .next (s.gives [a, b, m] (s.vRes o.d (fun l => (if m.d.getLsbD l then a.lane l else b.lane l, 0)) 2))) ∧
    exec (.vperm o) s = .next (s.gives [a, b] (s.vRes o.d (fun l => (a.lane ((b.lane l).toNat % 64), 0)) 4)) ∧
    exec (.vbcast o false) s = .next (s.gives [x] (s.vRes o.d (fun _ => (x.w, 0)) 2)) ∧
    exec (.vbcast o true) s = .next (s.gives [a, i] (s.vRes o.d (fun _ => (a.lane (i.d.toNat % 64), 0)) 2)) ∧
    exec (.qop o 0) s = .next (s.gives [p, q] (s.qRes o.d (p.d &&& q.d) 0)) ∧ exec (.qop o 1) s = .next (s.gives [p, q] (s.qRes o.d (p.d ||| q.d) 0)) ∧
    exec (.qop o 2) s = .next (s.gives [p, q] (s.qRes o.d (p.d ^^^ q.d) 0)) ∧ exec (.qop o 3) s = .next (s.gives [p, q] (s.qRes o.d (p.d &&& ~~~q.d) 0)) ∧
    exec (.qop o 4) s = .next (s.gives [no, q] (s.qRes o.d (~~~q.d) 0)) ∧
    -- the lowest enabled lane of a mask: .first keeps it alone, .below keeps the lanes below it, all of them when there is none
    ((∀ l, l < 64 → (p.d &&& lanes).getLsbD l = false) → exec (.qop o 5) s = .next (s.gives [p, no] (s.qRes o.d 0 0)) ∧
      exec (.qop o 6) s = .next (s.gives [p, no] (s.qRes o.d (~~~(0 : W64)) 0))) ∧
    (∀ k, k < 64 → (p.d &&& lanes).getLsbD k = true → (∀ l, l < k → (p.d &&& lanes).getLsbD l = false) →
      exec (.qop o 5) s = .next (s.gives [p, no] (s.qRes o.d (1#64 <<< k) 0)) ∧ exec (.qop o 6) s = .next (s.gives [p, no] (s.qRes o.d ((1#64 <<< k) - 1) 0))))

/-- Conversion, reduction, the four elementary functions, quantisation and dequantisation; VCVT lane by lane on exact values; VQUANT's planes and exponents;
the reduction tree combines the lower half of the values with
the upper half, six times: with addition of integers mod 2^32 in place of the rounding step it gives the sum of all 64 (R141, R480 to R482, R485,
R486). -/
def Obligations.VectorFunctions : Prop :=
  (∀ (s : State) (o : R2), s.Issuing →
    let a := s.vA .v o.a o.ha
    let one (f : W32 → W32 × BitVec 5) : Host.Outcome State Fault Refusal := .next (s.gives [a] (s.vRes o.d (fun l => f (a.lane l)) 8))
    (∀ v : BitVec 4, let m := rmOfBits (s.ctx s.cur).r.rm
      exec (.vcvt o v) s = .next (if v = 4 ∨ v = 6 then s.gives [a] (s.vRes o.d (fun l => vCvtLane v.toNat m (a.lane l) 0) 4)
        else s.rounds [a] m 64 (s.vRes o.d (fun l => vCvtLane v.toNat m (a.lane l) (s.drawL s.cur m l)) 4))) ∧
    (∀ v : BitVec 4, let m := rmSel (s.ctx s.cur) (if v.toNat ≤ 5 then v.setWidth 3 else 1)
      let r := reduce (vRedOp v.toNat m) (s.drawL s.cur m) ((List.range 64).map fun l => if s.env.on l then a.lane l else 0x80000000)
      exec (.vred o v) s = .next (s.rounds [a] m 64 { mkRes .v o.d.toNat (ofLanes fun _ => r.1) (s.now + 8) with flags := r.2 })) ∧
    exec (.vexp2 o) s = one fExp2 ∧ exec (.vlog2 o) s = one fLog2 ∧ exec (.vrcp o) s = one fRcp ∧ exec (.vrsq o) s = one fun w => fRsq w .rne 0) ∧
  (∀ (s : State) (o : R3), s.Issuing →
    let a := s.vA .v o.a o.ha
    let b := s.vB .x o.b o.hb
    (∀ int, exec (.vquant o int) s = .next (s.gives [a, b]
      { mkRes .v o.d.toNat (vQuant int a.val b.d).1 (s.now + 12) with flags := (vQuant int a.val b.d).2 })) ∧
    (∀ fmt : BitVec 4, (b.d.getLsbD 16 = false ∨ mxFormat fmt = true) →
      exec (.vdeq o fmt) s = .next (s.gives [a, b] (s.vRes o.d (vDeqLane fmt.toNat a.val.toNat b.d) 6))) ∧
    (∀ fmt : BitVec 4, b.d.getLsbD 16 = true → mxFormat fmt = false →
      exec (.vdeq o fmt) s = .next (s.gives [a, b] { s.vRes o.d (fun _ => (0, 0)) 6 with val := 0, flags := flNV }))) ∧
  -- VCVT lane by lane: integers to FP32, FP32 to integers by value, and the exact values of the 16-bit formats
  (∀ (m : Rm) (a u : W32), vCvtLane 0 m a u = toF32 (numOfInt a.toInt) m u ∧ vCvtLane 1 m a u = toF32 (numOfInt a.toNat) m u ∧
    (∀ s n e, f32 a = .fin s n e → 0 ≤ e → let z : Int := (if s then -1 else 1) * ((n * 2 ^ e.toNat : Nat) : Int)
      (-(2 ^ 31) ≤ z → z < 2 ^ 31 → vCvtLane 2 m a u = (BitVec.ofInt 32 z, 0)) ∧ (0 ≤ z → z < 2 ^ 32 → vCvtLane 3 m a u = (BitVec.ofInt 32 z, 0)) ∧
      (2 ^ 31 ≤ z → vCvtLane 2 m a u = (0x7FFFFFFF, flNV)) ∧ (z < -(2 ^ 31) → vCvtLane 2 m a u = (0x80000000, flNV)) ∧
      (2 ^ 32 ≤ z → vCvtLane 3 m a u = (0xFFFFFFFF, flNV)) ∧ (z < 0 → vCvtLane 3 m a u = (0, flNV))) ∧
    (∀ q, f32 a = .nan q → vCvtLane 2 m a u = (0, flNV) ∧ vCvtLane 3 m a u = (0, flNV)) ∧
    (∀ f ∈ [(2, 4, 5, 8), (1, 6, 7, 9)], ∀ s n e, decodeFmt f.1 (a.toNat % 2 ^ 16) = .fin s n e →
      vCvtLane f.2.1 m a u = (rne32 (.fin s n e), 0) ∧
      (∀ b : W32, f32 b = .fin s n e → vCvtLane f.2.2.1 m b u = (BitVec.ofNat 32 (a.toNat % 2 ^ 16), 0) ∧
        vCvtLane f.2.2.2 m b u = (BitVec.ofNat 32 (a.toNat % 2 ^ 16), 0)))) ∧
  -- VQUANT: what it refuses, integers clamped to p bits, and FP32 values by the exponent of the largest
  (∀ (int : Bool) (a : Wide) (b : W64), let p := b.toNat % 32 + 1
    let h := b.toNat / 256 % 2
    let fmt := b.toNat / 4096 % 16
    let ok : Prop := if int = true then fmt ∈ [8, 9, 10, 11, 12, 14, 15] else fmt ∈ [0, 1, 2, 3, 4, 5, 6, 7, 13]
    let r := (vQuant int a b).1
    ((24 < p ∨ ¬ok) → vQuant int a b = (0, flNV)) ∧
    (p ≤ 24 → ok → (vQuant int a b).2 = 0 ∧ (∀ l, 50 ≤ l → l < 64 → lane r l = 0) ∧ (∀ l, 2 * p ≤ l → l < 48 → lane r l = 0) ∧
      (int = true → lane r 48 = BitVec.ofNat 32 ((BitVec.ofInt 16 ((p : Int) - 2)).toNat * 65537) ∧ lane r 49 = BitVec.ofNat 32 (fmt * 4096 + (p - 1) * 16) ∧
        ∀ g i k, g < 2 → i < 32 → k < p → (lane r (2 * k + g)).getLsbD i =
          (BitVec.ofInt 32 (max (-(2 ^ (p - 1) : Nat)) (min ((2 ^ (p - 1) : Nat) - 1) (lane a (32 * g + i)).toInt))).getLsbD k) ∧
      (int = false → ∀ g, g < 2 →
        ((∃ i, i < 32 ∧ ∀ s n e, f32 (lane a (32 * g + i)) ≠ .fin s n e) →
          (lane r 49).getLsbD (2 * h + g) = true ∧ ∀ k, k < p → lane r (2 * k + g) = 0) ∧
        (∀ (s : Nat → Bool) (n : Nat → Nat) (e : Nat → Int) (x : Int), (∀ i, i < 32 → f32 (lane a (32 * g + i)) = .fin (s i) (n i) (e i)) →
          (∀ i, i < 32 → n i = 0 ∨ (Nat.log2 (n i) : Int) + e i ≤ x) → (∃ i, i < 32 ∧ n i ≠ 0 ∧ (Nat.log2 (n i) : Int) + e i = x) →
          (lane r 49).getLsbD (2 * h + g) = false ∧ (lane r 48).extractLsb' (16 * g) 16 = BitVec.ofInt 16 x ∧
          ∀ i z k, i < 32 → k < p → z * 2 ^ (x - p + 2 - e i).toNat = n i * 2 ^ (e i + p - 2 - x).toNat → z < 2 ^ (p - 1) →
            (lane r (2 * k + g)).getLsbD i = (BitVec.ofInt 32 (if s i then -(z : Int) else z)).getLsbD k)))) ∧
  (∀ (f : Nat → W32) (u : Nat → W32),
    (reduce (fun a b _ => (a + b, 0)) u ((List.range 64).map f)).1 = (List.range 64).foldl (fun acc l => acc + f l) 0)

/-! ### The generator, copies and the matrix engine's slots (R231 to R236, R241 to R251, R404 to R411, R424, R435 to R441) -/

/-- GSET writes a whole g register, or its row and column offsets alone; GSEED its seed alone; GGEN gives 64 elements of a generated row or
column, as codes or as FP32 values, and +0 with NV for a descriptor that is not valid (R249 to R251, R424). -/
def Obligations.GeneratorSlots : Prop :=
  (∀ (s : State) (o : R3), s.Issuing →
    let a := s.cA .x o.a o.ha
    let b := s.cB o.b o.hb
    let g (v : BitVec 128) (bytes : W64) : Res := { mkRes .g o.d.toNat (v.setWidth 2048) (s.now + 1) with lm := true, lanes := bytes }
    exec (.gset o false) s = .next (s.gives [a, b] (g (b.d ++ a.d) 0xFFFF)) ∧
    exec (.gset o true) s = .next (s.gives [a, b] (g ((a.d.setWidth 24 ++ b.d.setWidth 24 : BitVec 48).setWidth 128) 0x3F))) ∧
  (∀ (s : State) (o : RI), s.Issuing → s.iss.pfxi = none →
    let a := s.cA .x o.a false
    exec (.gseed o) s = .next (s.gives [a]
      { mkRes .g o.d.toNat (((a.w + o.imm.signExtend 32).setWidth 128 <<< 64 : BitVec 128).setWidth 2048) (s.now + 1) with lm := true, lanes := 0xF00 })) ∧
  (∀ (s : State) (o : R3) (t c : Bool), s.Issuing →
    let a := s.cA .g o.a o.ha
    let b := s.cB o.b o.hb
    let d : BitVec 128 := a.val.setWidth 128
    let n : W32 := BitVec.ofNat 32 (gRow d) + b.d.setWidth 32
    let m (l : Nat) : W32 := BitVec.ofNat 32 (gCol d) + b.d.extractLsb' 32 32 + BitVec.ofNat 32 l
    let code (l : Nat) : Nat := if t then genCode (s.ctxGen s.cur) d (m l) n else genCode (s.ctxGen s.cur) d n (m l)
    let ans (f : Nat → W32) : State :=
      s.gives [a, b] { mkRes .v o.d.toNat (ofLanes fun l => if s.env.on l then f l else 0) (s.now + 8) with lm := s.env.lm, lanes := s.env.lanes }
    (gValid d = true → c = true → exec (.ggen o t c) s = .next (ans fun l => BitVec.ofNat 32 (code l))) ∧
    (gValid d = true → c = false → exec (.ggen o t c) s = .next (ans fun l =>
      if (decodeFmt (gFmt d) (code l)).isNan then nan32 else rne32 (decodeFmt (gFmt d) (code l)))) ∧
    (gValid d = false → exec (.ggen o t c) s = .next (s.gives [a, b]
      { mkRes .v o.d.toNat 0 (s.now + 8) with flags := flNV, lm := s.env.lm, lanes := s.env.lanes })))


/-- The four copy commands enter their engine's queue with the context's LSQ mark, or, under a prediction, the basket; CPYW waits for the
copies of one descriptor and changes nothing (R404 to R411). -/
def Obligations.CopySlotsEnterQueues : Prop :=
  ∀ (s : State) (o : A1), s.Issuing →
    let a := s.cA .x o.a o.ha
    let cmd (kind : Nat) : CopyCmd := ⟨kind, a.d.toNat, s.env.x.vf, s.cur, s.env.x.pc, 0, s.env.x.rcd, s.env.x.det, s.now⟩
    let m : Nat := (s.ctx s.cur).lsqDone + (s.ctx s.cur).lsq.length
    exec (.cpyw o) s = .next (s.filled [a]) ∧ (s.copyOut s.cur a.d.toNat = true → (slotOf (.cpyw o) s).hold = .engine) ∧
    ((s.ctx s.cur).preds = [] →
      exec (.cpy o) s = .next ((s.filled [a]).modCore (coreOf s.cur) fun k => { k with cq := k.cq ++ [{ cmd 0 with mark := m }] }) ∧
      exec (.cpys o) s = .next ((s.filled [a]).modCore (coreOf s.cur) fun k => { k with cq := k.cq ++ [{ cmd 1 with mark := m }] }) ∧
      exec (.cpyg o) s = .next ((s.filled [a]).modCore (coreOf s.cur) fun k => { k with gq := k.gq ++ [{ cmd 2 with mark := m }] }) ∧
      exec (.cpyr o) s = .next ((s.filled [a]).modCore (coreOf s.cur) fun k => { k with cq := k.cq ++ [{ cmd 3 with mark := m }] })) ∧
    ((s.ctx s.cur).preds ≠ [] →
      let held (e : Engine) (n : Nat) : Host.Outcome State Fault Refusal :=
        .next ((s.filled [a]).modCtx s.cur fun x => { x with basket := x.basket ++ [(x.preds.length, .copy e (cmd n))] })
      exec (.cpy o) s = held .copy 0 ∧ exec (.cpys o) s = held .copy 1 ∧ exec (.cpyg o) s = held .gather 2 ∧ exec (.cpyr o) s = held .copy 3)

/-- MCALL queues a routine with the registers of its step when its expected version is the bank's, is held while the version is ahead, and
posts VERSION_REJECT when it is behind; MWAIT holds until the bank's version has reached the register; MVER reads busy and version;
MPWR writes the routine store four cycles later, and MPRD reads it (R231 to R236, R435, R438, R440, R441).
What logs 35, 36 and 62 fix is the model's choice or reading, not the spec's. -/
def Obligations.MatrixSlots : Prop :=
  ∀ s : State, s.Issuing →
    let k := coreOf s.cur
    let x := s.env.x
    (∀ (o : AB) (bank : BitVec 2), (s.ctx s.cur).preds = [] →
      let a := s.tA o.a o.ha
      let b := s.tB o.b o.hb
      let t := s.filled [a, b]
      let ahead := (a.d.extractLsb' 16 16 - s.version k bank.toNat).toNat
      (ahead = 0 → exec (.mcall o bank) s = .next (t.modCore k fun q =>
        { q with
          mq := q.mq ++ [⟨a.d.toNat % 64, bank.toNat, b.d, x.r.m, x.r.g, x.vf, s.cur, x.pc, (t.ctx s.cur).lsqDone + (t.ctx s.cur).lsq.length, x.rcd,
            taskScope x.jcb x.idx, x.det, x.scyc⟩]
          user := q.user.set (bank.toNat % 4) (some s.cur) (Nat.mod_lt _ (by decide)) })) ∧
      (1 ≤ ahead → ahead < 2 ^ 15 → (slotOf (.mcall o bank) s).hold = .engine) ∧
      (2 ^ 15 ≤ ahead → exec (.mcall o bank) s =
        .next (t.postRec (clusterOf k) (t.mkRec stVERSION 1 s.cur 0 0 0 b.d.toNat x.vf)))) ∧
    (∀ (o : A1) (bank : BitVec 2), exec (.mwait o bank) s = .next (s.filled [s.tA o.a o.ha]) ∧
      ((slotOf (.mwait o bank) s).hold = .none ↔ (s.version k bank.toNat - (s.tA o.a o.ha).d.setWidth 16).toNat < 2 ^ 15)) ∧
    (∀ (d : BitVec 5) (bank : BitVec 2), exec (.mver d bank) s =
      .next (s.gives [] (s.xRes d (BitVec.ofNat 64 ((if s.bankBusy k bank.toNat then 2 ^ 16 else 0) + (s.version k bank.toNat).toNat)) 2))) ∧
    (∀ o : AB, exec (.mpwr o) s = .next (((s.filled [s.tA o.a o.ha, s.tB o.b o.hb]).settleStore k).modCore k fun q =>
      { q with mpw := q.mpw ++ [(s.now + 4, (s.tA o.a o.ha).d.toNat % 4096, (s.tB o.b o.hb).d)] })) ∧
    (∀ o : R2, exec (.mprd o) s = .next (s.gives [s.tA o.a o.ha] (s.xRes o.d (s.storeWord k ((s.tA o.a o.ha).d.toNat % 4096)) 4)))

/-! ### Memory slots (R150 to R158, R174, R179 to R208, R392 to R394, R412, R416, R421, R427, R428, R445, R450, R451, R456 to R459, R465 to
R467) -/

/-- A load reads the local part of its bytes at its issue and sends the rest to their owners: LD and RLD one element of 1, 2, 4 or 8 bytes,
LDV one per enabled lane, or per line when it is remote, and LDG one per enabled lane at base plus index (R182, R185, R427, R428, R457). -/
def Obligations.LoadsIssue : Prop :=
  ∀ s : State, s.Issuing →
    (∀ (o : MO) (z : BitVec 2),
      let a := s.mA o.base o.ha
      let ea := a.d + s.env.ofs8 o.ofs * BitVec.ofNat 64 (2 ^ z.toNat)
      exec (.ld o z) s = .next (s.env.load .x o.d [⟨ea.toNat, 2 ^ z.toNat, 0⟩] 6 (s.inOwn ea.toNat) false (s.filled [a])) ∧
      exec (.rld o z) s = .next (s.env.load .x o.d [⟨ea.toNat, 2 ^ z.toNat, 0⟩] 12 false true (s.filled [a]))) ∧
    (∀ o : MO,
      let a := s.mA o.base o.ha
      let ea := a.d + s.env.ofs8 o.ofs * 256
      let lanes := ((List.range 64).filter fun l => s.env.on l).map fun l => (⟨ea.toNat + 4 * l, 4, 4 * l⟩ : Elem)
      let lines := ((List.range 4).filter fun i => (List.range 16).any fun l => s.env.on (16 * i + l)).map fun i => (⟨ea.toNat + 64 * i, 64, 64 * i⟩ : Elem)
      exec (.ldv o) s = .next (s.env.load .v o.d (if s.isLocal (coreOf s.cur) ea.toNat then lanes else lines) 6 (s.inOwn ea.toNat) false (s.filled [a]))) ∧
    (∀ (o : R3) (v : BitVec 4),
      let a := s.mA o.a o.ha
      let n : Nat := [4, 4, 2, 1].getD v.toNat 4
      let u : Nat := if v = 1 then 4 else 1
      let w := s.mB .v o.b o.hb
      let x := s.mB .x o.b o.hb
      (v.toNat < 4 → exec (.ldg o v) s = .next (s.env.load .v o.d
        (((List.range 64).filter fun l => s.env.on l).map fun l => ⟨(a.d + BitVec.ofNat 64 u * (w.lane l).setWidth 64).toNat, n, 4 * l⟩)
        10 false false (s.filled [a, w]))) ∧
      ((v = 8 ∨ v = 9) → s.env.on 0 = true →
        exec (.ldg o v) s = .next (s.env.load .y o.d [⟨(a.d + x.d).toNat, if v = 8 then 8 else 4, 0⟩] 10 false false (s.filled [a, x]))) ∧
      ((v = 8 ∨ v = 9) → s.env.on 0 = false → exec (.ldg o v) s = .next (s.filled [a, x])))

/-- What a load gives: from the own die's memory or the own scratchpad the bytes as the context's own writes leave them, least significant
first, after at least 6 cycles, exactly 6 from the scratchpad, and with poison where the dword read is poisoned; from anywhere else a part
that is still to return, in an entry of ROUT(c) (R14, R74, R182 to R185, R276, R321, R427).
What log 24 fixes is the model's choice or reading, not the spec's. -/
def Obligations.LoadReads : Prop :=
  (∀ (s t : State) (d : BitVec 5) (va n l : Nat) (ps : List Nat), s.route s.cur va .rd = .loc l ps →
    let own := s.inOwn va
    let det := (s.ctx s.cur).det
    s.env.load .x d [⟨va, n, 0⟩] 6 own false t = (t.touch ps false).modCtx s.cur fun x => x.push
      { mkRes .x d.toNat (BitVec.ofNat 2048 ((s.localRead s.cur va l n).getD 0)) (s.now + if own then 6 else if det then 720 else 6) with
        fixed := own || det, psn := s.env.elemPsn ⟨va, n, 0⟩ l, lanes := s.env.lanes }) ∧
  (∀ (s t : State) (d : BitVec 5) (va n : Nat), s.isLocal (coreOf s.cur) va = false → ∃ ov,
    s.env.load .x d [⟨va, n, 0⟩] 6 false false t = t.modCtx s.cur fun x =>
      ({ x with inflight := x.inflight ++ [{ mkRes .x d.toNat 0 (s.now + if (s.ctx s.cur).det then 1600 else 6) with
                  fixed := (s.ctx s.cur).det, need := 1, lanes := s.env.lanes, seq := x.nextSeq, iss := x.bundles }],
                nextSeq := x.nextSeq + 2,
                rout := x.rout ++ [⟨x.nextSeq + 1, .load va n 0 ov, (t.ctx s.cur).nextSeq, 0, none, (s.ctx s.cur).preds.length, 0, 0⟩] } : Ctx)) ∧
  (∀ (s : State) (c va l n : Nat), (s.ctx c).lsq = [] → (s.ctx c).basket = [] → s.localRead c va l n = some (s.mem.readNat l n)) ∧
  (∀ (s : State) (c va l : Nat) (r : List LEntry) (q : Nat) (ps : List Nat) (al : Nat) (bs : List (Nat × Byte)) (b : Byte),
    (s.ctx c).basket = [] → (s.ctx c).lsq = r ++ [⟨.store (bs ++ [(l, b)]), q, ps, al⟩] → s.localByte c va l = some b) ∧
  (∀ (m : Memory) (l n : Nat), m.readNat l (n + 1) = (m.read l).toNat + 256 * m.readNat (l + 1) n) ∧
  (∀ (s : State) (c va l : Nat), (∀ i, i < 8 → s.poisoned (l + i) = false) → s.localPoison c va l 8 = false)

/-- Stores enter the queues and write nothing yet: ST, STG and RST with the bytes of their elements at the home locations, or at their addresses when
they are remote, STV with all its enabled lanes in one entry, or with one remote store a line. The queues that a memory effect enters: LSQ(c) and
ROUT(c) at their ends, each remote operation under a number of its own, or one basket entry of the newest prediction; a slot with none changes nothing
(R182, R193, R207, R294, R459, R465, R466). -/
def Obligations.StoresIssue : Prop :=
  (∀ s : State, s.Issuing →
    let locals (v : Wide) (els : List Elem) : List LEntry := els.filterMap fun l => match s.route s.cur l.va .wr with
      | .loc a p => some ⟨.store ((List.range l.len).map fun i => (a + i, v.extractLsb' (8 * (l.off + i)) 8)), 0, p, 0⟩
      | _ => none
    let remotes (v : Wide) (els : List Elem) : List REntry := (els.filter fun l => !s.isLocal (coreOf s.cur) l.va).map fun l =>
      ⟨0, .store ((List.range l.len).map fun i => (l.va + i, v.extractLsb' (8 * (l.off + i)) 8)), 0, 0, none, (s.ctx s.cur).preds.length, 0, 0⟩
    (∀ (o : MO) (z : BitVec 2),
      let a := s.mA o.base o.ha
      let d := s.env.reg .x o.d
      let els : List Elem := [⟨(a.d + s.env.ofs8 o.ofs * BitVec.ofNat 64 (2 ^ z.toNat)).toNat, 2 ^ z.toNat, 0⟩]
      exec (.st o z) s = .next ((s.filled [a, d]).enterMem s.cur (locals d.val els) (remotes d.val els))) ∧
    (∀ (o : R3) (v : BitVec 4),
      let a := s.mA o.a o.ha
      let y := (gatherForm v.toNat).2.2
      let b := s.mB (if y then .x else .v) o.b o.hb
      let d := s.env.reg (if y then .y else .v) o.d
      exec (.stg o v) s = .next ((s.filled [a, b, d]).enterMem s.cur (locals d.val (s.env.gElems v.toNat a.d b)) (remotes d.val (s.env.gElems v.toNat a.d b)))) ∧
    (∀ (o : MO) (l : Nat) (ps : List Nat),
      let a := s.mA o.base o.ha
      let d := s.env.reg .v o.d
      let ea := (a.d + s.env.ofs8 o.ofs * 256).toNat
      let on := (List.range 64).filter fun i => s.env.on i
      (∀ i, i < 64 → s.route s.cur (ea + 4 * i) .wr = .loc (l + 4 * i) ps) → (on = [] → exec (.stv o) s = .next ((s.filled [a, d]).enterMem s.cur [] [])) ∧
        (on ≠ [] → exec (.stv o) s = .next ((s.filled [a, d]).enterMem s.cur
          [⟨.store (on.flatMap fun i => (List.range 4).map fun j => (l + 4 * i + j, d.val.extractLsb' (8 * (4 * i + j)) 8)), 0, on.flatMap fun _ => ps, 0⟩] []))) ∧
    (∀ o : MO,
      let a := s.mA o.base o.ha
      let d := s.env.reg .v o.d
      let ea := (a.d + s.env.ofs8 o.ofs * 256).toNat
      let line (j : Nat) : List (Nat × Byte) := (((List.range 64).filter fun i => s.env.on i).filter fun i => decide (4 * i / 64 = j)).flatMap fun i =>
        (List.range 4).map fun b => (ea + 4 * i + b, d.val.extractLsb' (8 * (4 * i + b)) 8)
      s.isLocal (coreOf s.cur) ea = false → (∃ i, i < 64 ∧ s.env.on i = true) →
        exec (.stv o) s = .next ((s.filled [a]).enterMem s.cur [] (((List.range 4).map line).filterMap fun bs =>
          if bs.isEmpty then none else some ⟨0, .store bs, 0, 0, none, (s.ctx s.cur).preds.length, 0, 0⟩))) ∧
    (∀ (o : R3) (v : BitVec 4),
      let a := s.mA o.a o.ha
      let b := s.mB .x o.b o.hb
      let d := s.env.reg (if v = 4 then .v else .x) o.d
      let fl : W64 := (a.d &&& 0x003FFC0000000000) ||| (b.d &&& 0xFFC003FFFFFFFFFF)
      exec (.rst o v) s = .next ((s.filled [a, b, d]).enterMem s.cur []
        [⟨0, .rst ((List.range (if v = 4 then 256 else 2 ^ v.toNat)).map fun i => (a.d.toNat + i, d.val.extractLsb' (8 * i) 8)) fl.toNat, 0, 0, none,
          (s.ctx s.cur).preds.length, 0, 0⟩]))) ∧
  (∀ (s : State) (c : Nat) (ls : List LEntry), ls ≠ [] → (s.ctx c).preds = [] →
    s.enterMem c ls [] = s.modCtx c fun x => { x with lsq := x.lsq ++ ls }) ∧
  (∀ (s : State) (c : Nat) (r : REntry), (s.ctx c).preds = [] →
    s.enterMem c [] [r] = s.modCtx c fun x => { x with rout := x.rout ++ [{ r with id := x.nextSeq }], nextSeq := x.nextSeq + 1 }) ∧
  (∀ (s : State) (c : Nat) (ls : List LEntry) (rs : List REntry), (ls ≠ [] ∨ rs ≠ []) → (s.ctx c).preds ≠ [] →
    s.enterMem c ls rs = s.modCtx c fun x => { x with basket := x.basket ++ [(x.preds.length, .mem ls rs)] }) ∧
  (∀ (s : State) (c : Nat), s.enterMem c [] [] = s.modCtx c fun x => x)

/-- Read-modify-writes: ATOM, RATOM, STVER and BARM put their result in flight (BARM has none) and enter LSQ(c) when they are local, ROUT(c)
when they are remote, RATOM in every case (R181, R183, R185, R205, R392 to R394, R456, R467).
The padding of 720 cycles that a local one has on a deterministic queue is the model's reading (log 32). -/
def Obligations.AtomicsIssue : Prop :=
  ∀ (s : State) (o : R3), s.Issuing →
    let a := s.mA o.a o.ha
    let b := s.mB .x o.b o.hb
    let d := s.env.reg .x o.d
    let seq := (s.ctx s.cur).nextSeq
    let r (op : Rmw) : REntry := ⟨0, .rmw a.d.toNat op, seq, 0, none, (s.ctx s.cur).preds.length, 0, 0⟩
    let far := s.isLocal (coreOf s.cur) a.d.toNat = false
    (∀ v : BitVec 4,
      (∀ l ps, s.route s.cur a.d.toNat .rw = .loc l ps →
        exec (.atom o v) s = .next ((s.gives [a, b] (s.later o.d 12 720 1 0)).enterMem s.cur [⟨.rmw l (.atom v.toNat b.d), seq, ps, 0⟩] [])) ∧
      (far → exec (.atom o v) s = .next ((s.gives [a, b] (s.later o.d 12 1600 1 0)).enterMem s.cur [] [r (.atom v.toNat b.d)])) ∧
      exec (.ratom o v) s = .next ((s.gives [a, b] (s.later o.d 12 1600 1 0)).enterMem s.cur [] [r (.atom v.toNat b.d)])) ∧
    (∀ l ps, s.route s.cur a.d.toNat .rw = .loc l ps →
      exec (.stver o) s = .next ((s.gives [a, b, d] (s.later o.d 12 1600 1 0)).enterMem s.cur [⟨.rmw l (.stver d.d b.d), seq, ps, 0⟩] [])) ∧
    (far → exec (.stver o) s = .next ((s.gives [a, b, d] (s.later o.d 12 1600 1 0)).enterMem s.cur [] [r (.stver d.d b.d)])) ∧
    (∀ l ps, s.route s.cur a.d.toNat .rw = .loc l ps →
      exec (.barm ⟨o.a, o.b, o.ha, o.hb⟩) s = .next ((s.filled [a, b]).enterMem s.cur [⟨.rmw l (.barm b.d), 0, ps, 0⟩] [])) ∧
    (far → exec (.barm ⟨o.a, o.b, o.ha, o.hb⟩) s = .next ((s.filled [a, b]).enterMem s.cur [] [{ r (.barm b.d) with seq := 0 }]))


/-- OWNE and OWNT set and clear O of the named tile slots of the own core and nothing else of the owner map; a range that is no range of own slots is a
cause of OWNER_VIOLATION or MISALIGNED; OWNE waits for the context's queued writes to those slots. LOCK takes pins of the lines of a range with its
quota and returns a status and their number; UNLOCK releases them; PREF changes nothing; PROBE makes no access and answers OK, or FAULT for a range
longer than 4 GiB, and its failures are causes, but for a range off the package on a deterministic queue, which kills (R152, R156 to R158, R174, R199, R430, R445, R450, R451).
What logs 15, 68 and 69 fix is the model's choice or reading, not the spec's. -/
def Obligations.OwnersPinsProbes : Prop :=
  (∀ (s : State) (o : AB), s.Issuing →
    let k := coreOf s.cur
    let a := s.mA o.a o.ha
    let b := s.mB .x o.b o.hb
    let first := a.d.toNat % 2 ^ 23 / 4096
    (b.d.toNat ≤ 1536 → ∀ eng : Bool, ∃ t, exec (if eng then .owne o else .ownt o) s = .next t ∧ t.mem = s.mem ∧ t.ctx s.cur = (s.filled [a, b]).ctx s.cur ∧
      (∀ i, i < b.d.toNat → t.slotOf k (first + i) = ((s.slotOf k (first + i)).1, eng, (s.slotOf k (first + i)).2.2)) ∧
      (∀ i, (i < first ∨ first + b.d.toNat ≤ i) → t.slotOf k i = s.slotOf k i)) ∧
    (∀ i : Instr, (i = .owne o ∨ i = .ownt o) →
      (a.d.toNat / 2 ^ 23 ≠ 0x7FF8_0000 → (slotOf i s).traps = [(cOWNER, a.d)]) ∧
      (a.d.toNat / 2 ^ 23 = 0x7FF8_0000 → a.d.toNat % 4096 ≠ 0 → (slotOf i s).traps = [(cALIGN, a.d)]) ∧
      (a.d.toNat / 2 ^ 23 = 0x7FF8_0000 → a.d.toNat % 4096 = 0 → s.spSize k < (first + b.d.toNat) * 4096 → (slotOf i s).traps = [(cOWNER, a.d)])) ∧
    (s.env.flipTrap a.d b.d = [] → (s.ctx s.cur).preds = [] →
      (slotOf (.ownt o) s).hold = .none ∧ ((slotOf (.owne o) s).hold = .interlock ↔ s.env.lsqTouches first b.d.toNat = true))) ∧
  (∀ s : State, s.Issuing →
    let probed (d : BitVec 5) (ops : List Opnd) (v : W64) : Host.Outcome State Fault Refusal := .next (s.gives ops { s.later d 12 1600 0 v with fixed := (s.ctx s.cur).det })
    (∀ (o : R3) (l1 : Bool),
      let a := s.mA o.a o.ha
      let b := s.mB .x o.b o.hb
      (∀ st, s.env.lockOut a.d b.d l1 = (none, st, []) → st ≠ stOK → ∃ t, exec (.lock o l1) s = .next t ∧ (t.ctx s.cur).pins = (s.ctx s.cur).pins ∧
        (t.ctx s.cur).inflight = (s.ctx s.cur).inflight ++ [{ s.later o.d 12 1600 0 (BitVec.ofNat 64 st) with seq := (s.ctx s.cur).nextSeq, iss := (s.ctx s.cur).bundles }]) ∧
      (∀ new, s.env.lockOut a.d b.d false = (none, stOK, new) → l1 = false → ∃ t, exec (.lock o l1) s = .next t ∧ (t.ctx s.cur).pins = (s.ctx s.cur).pins ++ new ∧
        (t.ctx s.cur).inflight = (s.ctx s.cur).inflight ++
          [{ s.later o.d 12 1600 0 (BitVec.ofNat 64 (new.length * 2 ^ 32)) with seq := (s.ctx s.cur).nextSeq, iss := (s.ctx s.cur).bundles }]) ∧
      (2 ^ 32 < b.d.toNat → s.env.lockOut a.d b.d l1 = (none, stFAULT, []))) ∧
    (∀ o : AB,
      let a := s.mA o.a o.ha
      let b := s.mB .x o.b o.hb
      ∃ t, exec (.unlock o) s = .next t ∧ t.mem = s.mem ∧ (∀ p ∈ (t.ctx s.cur).pins, p ∈ (s.ctx s.cur).pins) ∧
        (b.d ≠ 0 → b.d.toNat ≤ 2 ^ 32 → ∀ p ∈ (t.ctx s.cur).pins, ¬(a.d.toNat / 64 ≤ p.va ∧ p.va ≤ (a.d.toNat + b.d.toNat - 1) / 64)) ∧
        (b.d = 0 → (t.ctx s.cur).pins = (s.ctx s.cur).pins)) ∧
    (∀ (base : BitVec 5) (ofs : BitVec 8) (l2 ha : Bool), exec (.pref base ofs l2 ha) s = .next (s.filled [s.mA base ha])) ∧
    (∀ (o : R3) (w : Bool),
      let a := s.mA o.a o.ha
      let b := s.mB .x o.b o.hb
      (b.d.toNat ≤ 2 ^ 32 → exec (.probe o w) s = probed o.d [a, b] 0) ∧
      (2 ^ 32 < b.d.toNat → exec (.probe o w) s = probed o.d [a, b] (BitVec.ofNat 64 stFAULT)) ∧
      (b.d = 0 → (slotOf (.probe o w) s).traps = []) ∧
      let off := s.offPackage a.d.toNat = true ∨ s.offPackage (a.d.toNat + b.d.toNat - 1) = true
      (0 < b.d.toNat → b.d.toNat ≤ 2 ^ 32 → (s.ctx s.cur).det = true → off → (slotOf (.probe o w) s).traps = [] ∧ (slotOf (.probe o w) s).kill = some a.d) ∧
      (∀ f ofs, 0 < b.d.toNat → b.d.toNat ≤ 2 ^ 32 → ((s.ctx s.cur).det = false ∨ ¬off) → s.place a.d.toNat = .mem f ofs →
        s.translate (s.ctx s.cur).vf f ofs (if w then .rw else .rd) = none → (slotOf (.probe o w) s).traps = [(cPROBE, a.d)])))

/-- DRAIN and FENCEO change nothing, and DRAIN is held while ROUT(c) holds an entry; FENCER waits for LSQ(c) and ROUT(c) and then performs
what the LSQs of the named cores hold; CWAIT ends without a change but the A bits of its translation, and is held until the word in memory is
at or past its target (R195 to R198, R412, R416, R421).
What log 67 fixes is the model's choice or reading, not the spec's. -/
def Obligations.OrderingSlots : Prop :=
  ∀ s : State, s.Issuing → (s.ctx s.cur).preds = [] →
    exec .drain s = .next (s.filled []) ∧ exec .fenceo s = .next (s.filled []) ∧
    ((slotOf .drain s).hold = .interlock ↔ (s.ctx s.cur).rout ≠ []) ∧ (slotOf .fenceo s).hold = .none ∧
    (∀ (o : AB) (v : BitVec 4),
      let a := s.mA o.a o.ha
      let b := if v.toNat ≤ 2 then s.mB .x o.b o.hb else Opnd.none
      let owner := a.d.toNat / 2 ^ 42 % 2 ^ 12
      (owner / 4 = s.hub.pkg → exec (.fencer o v) s = .next ((s.env.fenced v.toNat a.d b.d).foldl State.serialise (s.filled [a, b]))) ∧
      (owner / 4 ≠ s.hub.pkg → exec (.fencer o v) s = .next (s.filled [a, b])) ∧
      let inJob := if v = 4 then s.hub.membership.any fun m => decide (m / 4 = owner / 4) else s.hub.membership.contains owner
      (inJob = true → (s.ctx s.cur).det = false → ((slotOf (.fencer o v) s).hold = .none ↔ (s.ctx s.cur).lsq = [] ∧ (s.ctx s.cur).rout = [])) ∧
      (inJob = true → (s.ctx s.cur).det = true → owner / 4 = s.hub.pkg → ((slotOf (.fencer o v) s).hold = .none ↔
        (s.ctx s.cur).lsq = [] ∧ (s.ctx s.cur).rout = [] ∧ ∃ t, (s.ctx s.cur).fence = some t ∧ t + 1600 ≤ s.now)) ∧
      (inJob = false ∨ ((s.ctx s.cur).det = true ∧ owner / 4 ≠ s.hub.pkg) → (slotOf (.fencer o v) s).hold = .none ∧ (slotOf (.fencer o v) s).kill = some a.d)) ∧
    (∀ (o : AB) (y : Xlat),
      let a := s.mA o.a o.ha
      let b := s.mB .x o.b o.hb
      s.xlatVa (s.ctx s.cur).vf a.d.toNat .rd = some y → exec (.cwait o) s = .next ((s.filled [a, b]).touch y.ptes false) ∧
        (a.d.toNat % 8 = 0 → s.inScratch a.d.toNat = false → (s.ctx s.cur).det = false → y.mv = false → (s.ctx s.cur).wait = none →
          ((slotOf (.cwait o) s).hold = .none ↔ s.poisoned y.loc = false ∧ (s.rd64 y.loc - b.d).toNat < 2 ^ 63)))

/-! ### Branches, loops and status registers (R76 to R91, R274, R395 to R399, R413, R425, R431, R464, R472, R474) -/

/-- The branches: BR and BRL to the slot's address plus four times their immediate, JR, JR.L and RET to the address of a register with its two low
bits zero; BRL and JR.L also write the link, the address of the slot after the stop slot of their delay bundle (log 40 where no stop slot is found); BRC
decides at issue by its condition on y register A, an integer test against
zero or an FP32 one (R76, R78, R395, R396, R398, R425). -/
def Obligations.BranchSlots : Prop :=
  (∀ s : State, s.Issuing →
    let to1 (t : Nat) (u : State) : State := { u with iss := { u.iss with takenK := some t } }
    (∀ ofs : BitVec 21, let t := (BitVec.ofNat 64 s.iss.slot + 4 * ofs.signExtend 64 : W64).toNat
      exec (.br ofs) s = .next (to1 t (s.filled [])) ∧
      exec (.brl ofs) s = .next ((to1 t (s.filled [])).sends { mkRes .x 31 (BitVec.ofNat 2048 s.env.link) (s.now + 2) with lm := false })) ∧
    (∀ o : A1, exec (.jr o) s = .next (to1 ((s.kA o.a o.ha).d.toNat % 2 ^ 54 / 4 * 4) (s.filled [s.kA o.a o.ha]))) ∧
    exec .ret s = .next (to1 ((s.env.reg .x 31).d.toNat % 2 ^ 54 / 4 * 4) (s.filled [s.env.reg .x 31])) ∧
    (∀ o : R2, exec (.jrL o) s = .next ((to1 ((s.kA o.a o.ha).d.toNat % 2 ^ 54 / 4 * 4) (s.filled [s.kA o.a o.ha])).sends
      (mkRes .x o.d.toNat (BitVec.ofNat 2048 s.env.link) (s.now + 2))))) ∧
  (∀ (s : State) (a : BitVec 5) (ofs : BitVec 11), s.Issuing →
    let v := (s.yA a false).d
    let on (c : BitVec 5) (p : Prop) : Prop :=
      (p → exec (.brc c a ofs) s = .next { s.filled [s.yA a false] with iss := { s.iss with takenY := some (s.env.target11 ofs) } }) ∧
      (¬p → exec (.brc c a ofs) s = .next { s.filled [s.yA a false] with iss := { s.iss with takenY := none } })
    on 0 (v = 0) ∧ on 1 (v ≠ 0) ∧ on 2 (v.toInt < 0) ∧ on 3 (0 ≤ v.toInt) ∧ on 4 (0 < v.toInt) ∧ on 5 (v.toInt ≤ 0) ∧
    on 6 (fpSign (v.setWidth 32) = some .lt) ∧ on 7 (fpSign (v.setWidth 32) = some .gt ∨ fpSign (v.setWidth 32) = some .eq) ∧
    on 8 (fpSign (v.setWidth 32) = some .gt) ∧ on 9 (fpSign (v.setWidth 32) = some .lt ∨ fpSign (v.setWidth 32) = some .eq) ∧
    on 10 (fpSign (v.setWidth 32) = none)) ∧
  -- the link: the slot after the stop slot of the delay bundle, which is the pending target where the branch itself stands in a delay slot
  (∀ (s : State) (ws : List (Nat × W32)), let b := (s.ctx s.cur).pending.getD s.iss.after
    (s.fetch s.cur b = .ok ws → s.env.link = b + 4 * ws.length) ∧ ((∀ ws, s.fetch s.cur b ≠ .ok ws) → s.env.link = b + 32))

/-- After each bundle: the next address is the pending target, else the start of the loop while the loop's last bundle falls due with more than
one pass left and no branch taken, else the address after the bundle; the loop ends when it falls due otherwise; the taken branch becomes
pending, the control slot's before BRC's; and the bundle after it issues no earlier than one cycle and the largest stall count later (R70, R76
to R78). -/
def Obligations.NextBundleAddress : Prop :=
  (∀ (x : Ctx) (b a : Nat) (taken : Option Nat),
    let y := x.next b a taken
    let due := x.r.loopCnt ≠ 0 ∧ b = x.r.loopEnd.toNat
    let again := x.pending = none ∧ taken = none ∧ 1 < x.r.loopCnt.toNat
    y.pending = taken ∧
    (due → again → y.pc = x.r.loopBegin.toNat ∧ y.r = { x.r with loopCnt := x.r.loopCnt - 1 }) ∧
    (due → ¬again → y.pc = x.pending.getD a ∧ y.r = { x.r with loopCnt := 0 }) ∧
    (¬due → y.pc = x.pending.getD a ∧ y.r = x.r)) ∧
  (∀ i : Issue, (∀ t, i.takenK = some t → takenOf i = some t) ∧ (i.takenK = none → takenOf i = i.takenY)) ∧
  (∀ (s : State) (w : Nat), s.iss.leave = none → s.iss.stopAfter = none → (s.ctx s.cur).stepMode = false →
    let x := (s.endBundle w).ctx s.cur
    let y := (s.ctx s.cur).next s.iss.bundle s.iss.after (takenOf s.iss)
    x.pc = y.pc ∧ x.pending = y.pending ∧ x.r = y.r ∧ x.nextIssue = s.now + 1 + w ∧ x.phase = (s.ctx s.cur).phase)

/-- LOOP sets the three loop registers, or branches behind the loop for a count of 0; BUCKET branches to the first entry of its table, in the own
die's memory or in own slots of the scratchpad, whose bound is not below the count, with a mask of the last lanes, or goes on with a zero mask; TRAP and
DBRK end their bundle with their cause, and a follower of a gang stops as under PREEMPT (R274, R399, R413, R431, R474).
What log 39 fixes is the model's choice or reading, not the spec's. -/
def Obligations.LoopBucketTrap : Prop :=
  (∀ (s : State) (ls : BitVec 3) (r : BitVec 5) (ofs : BitVec 11), s.Issuing →
    let a := s.kA r false
    let n := a.d.toNat % 2 ^ 32
    let last := s.env.target11 ofs
    let x := (s.filled [a]).ctx s.cur
    ∃ t, exec (.loop ls r ofs) s = .next t ∧ t.mem = s.mem ∧ (t.ctx s.cur).inflight = x.inflight ∧
      (0 < n → t.iss.takenK = none ∧ (t.ctx s.cur).r = { x.r with
        loopCnt := BitVec.ofNat 64 n, loopBegin := BitVec.ofNat 64 s.env.link &&& 0x003FFFFFFFFFFFFC, loopEnd := BitVec.ofNat 64 last &&& 0x003FFFFFFFFFFFFC }) ∧
      (n = 0 → t.iss.takenK = some ((last + 4 * (ls.toNat + 4)) % 2 ^ 64) ∧ (t.ctx s.cur).r = { x.r with loopCnt := 0 })) ∧
  (∀ (s : State) (o : R3) (l n cnt : Nat) (m tgt : Nat → Nat) (ps : List Nat), s.Issuing →
    let a := s.kA o.a o.ha
    let b := s.kB o.b o.hb
    let ans (tk : Option Nat) (q : W64) (u : State) : Host.Outcome State Fault Refusal :=
      .next (({ u with iss := { u.iss with takenK := tk } } : State).sends (mkRes .q o.d.toNat (wide64 q) (s.now + 2)))
    let u := (s.filled [a, b]).touch ((List.range (cnt + 1)).flatMap fun _ => ps) false
    -- with nothing of the context's own on its way to the table
    (s.ctx s.cur).lsq = [] → (s.ctx s.cur).basket = [] → 1 ≤ cnt → cnt ≤ 64 → b.d.toNat + 16 * (cnt + 1) < 2 ^ 64 →
    (∀ i, i ≤ cnt → s.ownerBad s.cur (b.d.toNat + 16 * i) = false ∧ s.route s.cur (b.d.toNat + 16 * i) .rd = .loc (l + 16 * i) ps) →
    s.mem.readNat l 16 = cnt → (∀ i, i < cnt → s.mem.readNat (l + 16 * (i + 1)) 16 = tgt i * 2 ^ 64 + m i ∧ m i < 2 ^ 32 ∧ tgt i % 4 = 0 ∧ tgt i < 2 ^ 54) →
    n = a.d.toNat % 2 ^ 32 →
      (∀ j, j < cnt → n ≤ m j → (∀ i, i < j → m i < n) →
        exec (.bucket o) s = ans (some (tgt j)) (if n = 0 then 0 else BitVec.ofNat 64 (2 ^ ((n - 1) % 64 + 1) - 1)) u) ∧
      ((∀ i, i < cnt → m i < n) → exec (.bucket o) s = ans none 0 u)) ∧
  (∀ (s : State) (code : BitVec 16), s.Issuing → s.iss.stopAfter = none →
    exec (.trap code) s = .next { s.filled [] with iss := { s.iss with stopAfter := some cTRAP } } ∧
    exec (.dbrk code) s = .next { s.filled [] with iss := { s.iss with stopAfter := some cDBRK } }) ∧
  (∀ (s : State) (w c : Nat), s.iss.leave = none → s.iss.stopAfter = some c → (s.ctx s.cur).stepMode = false →
    ∃ u, s.endBundle w = (if (s.ctx s.cur).leader = none then takeTrap s.cur c 0 s.iss.bundle u else u.preempt s.cur 3) ∧ u.mem = s.mem ∧
      (u.ctx s.cur).phase = (s.ctx s.cur).phase)

/-- SRD reads a status register after two cycles; SWR sends the value to it, where it lands in the next cycle, and a register that software
may not write keeps its value; a number that no register has is an ILLEGAL_INSTR, and a write to a privileged register needs PRV; what a counter counts
in the cycle of an SWR and until its value lands is added to it (R85 to R91, R464, R472). -/
def Obligations.StatusRegisters : Prop :=
  (∀ (s : State) (d : BitVec 5) (num : BitVec 12), s.Issuing →
    exec (.srd d num) s = .next (s.gives [] (s.xRes d (s.readSr s.cur num.toNat) 2)) ∧
    (writableSr num.toNat = true → exec (.swr d num) s =
      .next (((s.filled [s.env.reg .x d]).clearCounter s.cur num.toNat).sends (mkRes .sr num.toNat (wide64 (s.env.reg .x d).d) (s.now + 1)))) ∧
    (writableSr num.toNat = false → exec (.swr d num) s = .next (s.filled [s.env.reg .x d]))) ∧
  (∀ (s : State) (c : Nat),
    s.readSr c 0x000 = BitVec.ofNat 64 (c % 4) ∧ s.readSr c 0x004 = (s.ctx c).idx.setWidth 64 ∧ s.readSr c 0x009 = (s.ctx c).r.rm.setWidth 64 ∧
    s.readSr c 0x00A = (s.ctx c).r.fpflags.setWidth 64 ∧ s.readSr c 0x00B = (s.ctx c).r.srstream ∧ s.readSr c 0x050 = (s.ctx c).trapCause ∧
    s.readSr c 0x051 = (s.ctx c).trapPc ∧ s.readSr c 0x052 = (s.ctx c).trapAddr ∧ s.readSr c 0x060 = BitVec.ofNat 64 (s.now - (s.core (coreOf c)).origin) ∧
    s.readSr c 0x061 = BitVec.ofNat 64 s.ftb) ∧
  (∀ (x : Ctx) (v : W64),
    (x.writeSr 0x008 v).r.schk = v.getLsbD 0 ∧ (x.writeSr 0x009 v).r.rm = (if v.toNat % 8 ≤ 4 then v.setWidth 3 else x.r.rm) ∧ (x.writeSr 0x00A v).r.fpflags = v.setWidth 5 ∧
    (x.writeSr 0x00B v).r.srstream = v ∧ (x.writeSr 0x050 v).trapCause = v &&& 0xFF ∧ (x.writeSr 0x001 v) = x) ∧
  (∀ (s : State) (d : BitVec 5) (num : BitVec 12), s.env.cond = true →
    (num.toNat ∉ [0x000, 0x001, 0x002, 0x003, 0x004, 0x005, 0x008, 0x009, 0x00A, 0x00B, 0x010, 0x011, 0x012, 0x018, 0x020, 0x021, 0x022, 0x030, 0x031, 0x040,
        0x041, 0x042, 0x043, 0x048, 0x049, 0x050, 0x051, 0x052, 0x053, 0x060, 0x061, 0x070, 0x071, 0x078, 0x079] →
      (slotOf (.srd d num) s).legal = false ∧ (slotOf (.swr d num) s).legal = false) ∧
    ((slotOf (.swr d num) s).priv = true ↔ num.toNat ∈ [0x050, 0x051, 0x052, 0x053, 0x070, 0x078, 0x079] ∧ (s.ctx s.cur).prv = false) ∧
    (slotOf (.srd d num) s).priv = false) ∧
  (∀ (s : State) (c : Nat) (v : W64), (s.clearCounter c 0x043).ctx c = { s.ctx c with errRaise := ((s.ctx c).tallyAt s.now).raise } ∧
    ((s.ctx c).tally.cyc ≠ s.now → ((s.ctx c).tallyAt s.now).raise = 0) ∧
    (((s.ctx c).countRaise s.now).tallyAt s.now).raise = satAdd ((s.ctx c).tallyAt s.now).raise 1 ∧
    ((s.ctx c).countRaise s.now).errRaise = satAdd (s.ctx c).errRaise 1 ∧ (s.clearCounter c 0x00B) = s ∧
    ∀ x : Ctx, (x.landSr 0x043 v).errRaise = satAdd (v.setWidth 32) x.errRaise.toNat ∧ (x.landSr 0x040 v).errMultibr = satAdd (v.setWidth 32) x.errMultibr.toNat ∧
      (x.landSr 0x041 v).errRagged = satAdd (v.setWidth 32) x.errRagged.toNat ∧ (x.landSr 0x042 v).errUnsup = satAdd (v.setWidth 32) x.errUnsup.toNat ∧
      x.landSr 0x00B v = x.writeSr 0x00B v)


/-! ### Tasks (R34, R35, R264 to R273, R302, R344, R403, R414, R426, R442, R449, R453, R460, R469, R470, R473, R489) -/

/-- NEXTT takes the next n register in turn and puts a request in flight of which two parts are to return, the count and the value; it is held
while four are in flight (R83, R272, R273, R442).
What logs 32 and 39 fix is the model's choice or reading, not the spec's. -/
def Obligations.NexttTakesTurns : Prop :=
  ∀ (s : State) (o : AB), s.Issuing →
    let a := s.kA o.a o.ha
    let b := s.kB o.b o.hb
    let x := s.ctx s.cur
    let op : Rmw := .nextt (b.d.toNat % 2 ^ 32) (b.d.toNat / 2 ^ 32)
    let u := (s.filled [a, b]).modCtx s.cur fun y => ({ y with nrot := y.nrot + 1 } : Ctx).push
      { mkRes .n x.nrot.toNat 0 (s.now + if x.det then 1600 else 0) with fixed := false, need := 2, bun := x.bundles + 6 }
    (∀ l ps, s.route s.cur a.d.toNat .rw = .loc l ps → exec (.nextt o) s = .next (u.enterMem s.cur [⟨.rmw l op, x.nextSeq, ps, 0⟩] [])) ∧
    (s.isLocal (coreOf s.cur) a.d.toNat = false → exec (.nextt o) s =
      .next (u.enterMem s.cur [] [⟨0, .rmw a.d.toNat op, x.nextSeq, 0, none, x.preds.length, 0, 0⟩])) ∧
    (x.preds = [] → 4 ≤ x.nexttOut s.now → (slotOf (.nextt o) s).hold = .interlock)

/-- LAUNCH and DISPATCH wait for the context's memory operations, send a request to the sequencer of the core's cluster and put its status in
flight, at least 8 cycles away; under a prediction a LAUNCH is held back in the basket (R264, R266 to R268, R294, R414, R426).
What log 32 fixes is the model's choice or reading, not the spec's. -/
def Obligations.LaunchRequests : Prop :=
  ∀ (s : State) (o : R3), s.Issuing →
    let x := s.ctx s.cur
    let k := coreOf s.cur
    let a := s.kA o.a o.ha
    let b := s.kB o.b o.hb
    let d := s.env.reg .x o.d
    let req (dispatch : Bool) (vf : Nat) : LaunchReq := ⟨dispatch, a.d.toNat, b.d, vf, k, s.cur, x.rcd, x.nextSeq, !dispatch && s.iss.don, false⟩
    (x.preds = [] →
      exec (.launch o) s = .next ((s.gives [a, b, Opnd.none] (s.later o.d 8 1600 1 0)).modCluster (clusterOf k) fun q => { q with reqs := q.reqs ++ [req false x.vf] }) ∧
      exec (.dispatch o) s = .next ((s.gives [a, b, d] (s.later o.d 8 1600 1 0)).modCluster (clusterOf k) fun q =>
        { q with reqs := q.reqs ++ [req true (d.d.toNat % 128)] }) ∧
      ((x.lsq ≠ [] ∨ x.rout ≠ []) → (slotOf (.launch o) s).hold = .interlock ∧ (slotOf (.dispatch o) s).hold = .interlock)) ∧
    (x.preds ≠ [] → exec (.launch o) s = .next ((s.gives [a, b, Opnd.none] (s.later o.d 8 1600 1 0)).modCtx s.cur fun y =>
      { y with basket := y.basket ++ [(y.preds.length, .launch { req false x.vf with held := true })] })) ∧
    (a.d.toNat % 64 ≠ 0 → (slotOf (.launch o) s).traps = [(cALIGN, a.d)])

/-- POST and RAISE on a job control block, the record's own for an address of 0: one read-modify-write of the block, with a status; with no
block at all the status is FAULT and nothing else happens; both wait for LSQ(c) and ROUT(c); under a prediction a POST enters the basket (R264, R294,
R449).
What log 32 fixes is the model's choice or reading, not the spec's. -/
def Obligations.PostAndRaise : Prop :=
  ∀ s : State, s.Issuing →
    let x := s.ctx s.cur
    let k := coreOf s.cur
    let va (a : Opnd) : W64 := if a.d = 0 then BitVec.ofNat 64 (x.jcb.toNat * 64) else a.d
    let own (a : Opnd) : Bool := decide ((va a).toNat = x.jcb.toNat * 64)
    let far (a : Opnd) (op : Rmw) : List REntry := [⟨0, .rmw (va a).toNat op, x.nextSeq, 0, none, 0, 0, 0⟩]
    (x.preds = [] → (x.lsq ≠ [] ∨ x.rout ≠ []) → (∀ o : R2, (slotOf (.post o) s).hold = .interlock) ∧ ∀ o : R3, (slotOf (.raise o) s).hold = .interlock) ∧
    (x.preds ≠ [] → ∀ o : R2,
      let a := s.kA o.a o.ha
      let t := s.gives [a, Opnd.none] (s.later o.d 8 1600 1 0)
      let held (ls : List LEntry) (rs : List REntry) : State := t.modCtx s.cur fun y => { y with basket := y.basket ++ [(y.preds.length, .mem ls rs)] }
      ¬(a.d = 0 ∧ x.jcb = 0) →
        (∀ l ps, s.route s.cur (va a).toNat .rw = .loc l ps → exec (.post o) s = .next (held [⟨.rmw l (.post (own a)), x.nextSeq, ps, 1⟩] [])) ∧
        (s.isLocal k (va a).toNat = false → exec (.post o) s =
          .next (held [] [⟨0, .rmw (va a).toNat (.post (own a)), x.nextSeq, 0, some 0, x.preds.length, 0, 0⟩]))) ∧
    (x.preds = [] →
      (∀ o : R2,
        let a := s.kA o.a o.ha
        (¬(a.d = 0 ∧ x.jcb = 0) →
          (∀ l ps, s.route s.cur (va a).toNat .rw = .loc l ps → exec (.post o) s =
            .next ((s.gives [a, Opnd.none] (s.later o.d 8 1600 1 0)).enterMem s.cur [⟨.rmw l (.post (own a)), x.nextSeq, ps, 0⟩] [])) ∧
          (s.isLocal k (va a).toNat = false → exec (.post o) s =
            .next ((s.gives [a, Opnd.none] (s.later o.d 8 1600 1 0)).enterMem s.cur [] (far a (.post (own a)))))) ∧
        (a.d = 0 → x.jcb = 0 → exec (.post o) s = .next (s.gives [a, Opnd.none] (s.later o.d 8 1600 0 (BitVec.ofNat 64 stFAULT))))) ∧
      (∀ o : R3,
        let a := s.kA o.a o.ha
        let b := s.kB o.b o.hb
        let op : Rmw := .raise (own a) (b.d.toNat % 2 ^ 32)
        (¬(a.d = 0 ∧ x.jcb = 0) →
          (∀ l ps, s.route s.cur (va a).toNat .rw = .loc l ps → exec (.raise o) s =
            .next ((s.gives [a, b] (s.later o.d 8 1600 1 0)).enterMem s.cur [⟨.rmw l op, x.nextSeq, ps, 0⟩] [])) ∧
          (s.isLocal k (va a).toNat = false → exec (.raise o) s = .next ((s.gives [a, b] (s.later o.d 8 1600 1 0)).enterMem s.cur [] (far a op)))) ∧
        (a.d = 0 → x.jcb = 0 → exec (.raise o) s = .next (s.gives [a, b] (s.later o.d 8 1600 0 (BitVec.ofNat 64 stFAULT))))))

/-- QPOP takes the oldest record of the cluster's event queue, stores its four dwords at the address and answers how many are left, or 100H
from an empty queue; COLL queues an installed schedule whose start lies far enough ahead, or answers FAULT with a record (R271, R302, R403,
R453).
What logs 27 and 32 fix is the model's choice or reading, not the spec's. -/
def Obligations.QueuePopAndCollective : Prop :=
  (∀ (s : State) (o : R2), s.Issuing →
    let cl := clusterOf (coreOf s.cur)
    let a := s.kA o.a o.ha
    ((s.cluster cl).evq = [] → exec (.qpop o) s = .next (s.gives [a] (s.later o.d 8 1600 0 0x100))) ∧
    (∀ (r : CRec) (q : List CRec) (l : Nat) (ps : List Nat), (s.cluster cl).evq = r :: q → a.d.toNat + 32 ≤ 2 ^ 64 →
      (∀ i, i < 4 → s.route s.cur (a.d.toNat + 8 * i) .wr = .loc (l + 8 * i) ps) →
      -- a record that waited for a place takes it
      ((s.cluster cl).late = [] → s.dropRec cl = s.modCluster cl fun c => { c with evq := q }) ∧
      (∀ u, (s.cluster cl).late = [u] → q.length < 256 → u.w3.getLsbD 63 = false →
        ((s.dropRec cl).cluster cl).evq = q ++ [u] ∧ ((s.dropRec cl).cluster cl).late = []) ∧
      let dw (i : Nat) (w : W64) : LEntry := ⟨.store ((List.range 8).map fun j => (l + 8 * i + j, w.extractLsb' (8 * j) 8)), 0, ps, 0⟩
      exec (.qpop o) s = .next (((s.gives [a] (s.later o.d 8 1600 0 (BitVec.ofNat 64 (q.length * 2 ^ 16)))).dropRec cl).enterMem
        s.cur [dw 0 r.w0, dw 1 r.w1, dw 2 r.w2, dw 3 r.w3] []))) ∧
  (∀ (s : State) (o : R3), s.Issuing →
    let k := coreOf s.cur
    let x := s.env.x
    let a := s.kA o.a o.ha
    let b := s.kB o.b o.hb
    let idx := a.d.toNat % 256
    let ok := (s.hub.scheds.find (schedKey x.part k idx)).isSome = true ∧ s.ftb + 256 ≤ b.d.toNat
    (ok → exec (.coll o) s = .next ((s.gives [a, b] (s.later o.d 8 1600 0 0)).modCore k fun q =>
      { q with kq := q.kq ++ [⟨idx, b.d.toNat, x.vf, s.cur, x.pc, (s.ctx s.cur).lsqDone + (s.ctx s.cur).lsq.length, x.rcd⟩] })) ∧
    (¬ok → ∃ u, u = s.gives [a, b] (s.later o.d 8 1600 0 (BitVec.ofNat 64 stFAULT)) ∧
      exec (.coll o) s = .next (u.postRec (clusterOf k) (u.mkRec stFAULT 3 s.cur 0 0 0 0 x.vf))))

/-- SUSPEND and TEND end the run of their context at the end of their bundle, SUSPEND with the condition to wait for; both wait for results,
memory operations and predictions. The record is written back once the results of the bundle's other slots have landed: the program counter, x1 to x4,
the condition and STATE, or for TEND the words of the pick-up with STATE DONE and one completion counted; the context is free then. RTE gives the response to a frozen context and its status; WFE ends when an event, its deadline or a stop
has come, and answers which; NOP changes nothing (R34, R35, R93, R263, R344, R443, R460, R469, R473, R489).
What logs 32, 41 and 86 fix is the model's choice or reading, not the spec's. -/
def Obligations.EndsAndWaits : Prop :=
  (∀ s : State, s.Issuing → (∀ t ∈ (s.ctx s.cur).inflight, t.file ≠ .n) →
    (∀ (o : A1) (v : BitVec 4), v.toNat ≤ 3 →
      let a := if v = 1 ∨ v = 2 then s.kA o.a o.ha else Opnd.none
      let addr : Nat := if v = 1 ∧ a.d = 0 then (s.ctx s.cur).jcb.toNat * 64 else a.d.toNat % 2 ^ 54
      let w6 : W64 := BitVec.ofNat 64 (v.toNat * 2 ^ 60 + if v = 1 ∨ v = 2 then addr / 8 * 8 else 0)
      ∃ t, exec (.suspend o v) s = .next t ∧ t.iss = { s.iss with leave := some (false, w6) } ∧ t.mem = s.mem ∧ t.ctx s.cur = (s.filled [a]).ctx s.cur) ∧
    (∃ t, exec .tend s = .next t ∧ t.iss = { s.iss with leave := some (true, 0) } ∧ t.mem = s.mem ∧ t.ctx s.cur = (s.filled []).ctx s.cur)) ∧
  (∀ s : State, s.env.cond = true → (s.ctx s.cur).preds = [] → ((s.ctx s.cur).lsq ≠ [] ∨ (s.ctx s.cur).rout ≠ []) →
    (slotOf .tend s).hold = .interlock ∧ ∀ o v, (slotOf (.suspend o v) s).hold = .interlock) ∧
  -- the end of the bundle: the run goes on to its write-back, at once or when the results in flight have landed (R34, R35)
  (∀ (s : State) (n : Nat) (tend : Bool) (w6 : W64), s.iss.leave = some (tend, w6) → (s.ctx s.cur).leader = none → (∀ m ∈ s.gang s.cur, m = s.cur) →
    let c := s.cur
    let x := s.ctx c
    ((s.iss.takenK = none ∧ s.iss.takenY = none ∧ x.pending = none ∧ (tend = false ∨ x.r.loopCnt = 0)) →
      (x.inflight = [] → ∃ u : State, s.endBundle n = u.writeBack c ∧ (u.ctx c).leave = some (tend, w6, s.iss.after) ∧ (u.ctx c).r.x = x.r.x ∧ (u.ctx c).words = x.words ∧
        (u.ctx c).rcd = x.rcd ∧ (u.ctx c).vf = x.vf ∧ (u.ctx c).posted = x.posted ∧ u.mem = s.mem ∧ u.hub = s.hub) ∧
      (x.inflight ≠ [] → let t := s.endBundle n
        (t.ctx c).phase = .leaving ∧ (t.ctx c).leave = some (tend, w6, s.iss.after) ∧ (t.ctx c).inflight = x.inflight ∧ t.mem = s.mem ∧ t.leaveReady c = false)) ∧
    (∀ b, x.pending = some b → (tend = false ∨ x.r.loopCnt = 0) → x.inflight ≠ [] → ((s.endBundle n).ctx c).leave = some (tend, w6, b))) ∧
  (∀ (s : State) (c : Nat) (w6 : W64) (pc : Nat), let x := s.ctx c
    let st (n : Nat) : W64 := BitVec.ofNat 64 (n * 2 ^ 56 + x.words[7].toNat % 2 ^ 48)
    let ends : State := s.recWrites x.vf x.rcd 0 [x.words[0], x.words[1], x.words[2], x.words[3], x.words[4], x.words[5], 0, st 4]
    let goes (n : Nat) : State := s.recWrites x.vf x.rcd 0
      [(x.words[0] &&& 0xFFC0000000000000) ||| BitVec.ofNat 64 (pc % 2 ^ 54 / 4 * 4), x.words[1], x.getX 1, x.getX 2, x.getX 3, x.getX 4, w6, st n]
    let cl := clusterOf (coreOf c)
    (x.leave = some (true, 0, pc) → x.posted = false → s.writeBack c = (ends.countDone x.vf x.jcb).vacate c) ∧
    (∀ tend, x.leave = some (tend, w6, pc) → x.posted = true → s.writeBack c = ends.vacate c) ∧
    (x.leave = some (false, w6, pc) → x.posted = false → w6.toNat / 2 ^ 60 = 0 →
      s.writeBack c = ((goes 1).modCluster cl fun q => { q with ready := q.ready ++ [(goes 1).recRef c] }).vacate c) ∧
    (x.leave = some (false, w6, pc) → x.posted = false → w6.toNat / 2 ^ 60 ≠ 0 →
      s.writeBack c = ((goes 3).modCluster cl fun q => { q with waiting := q.waiting ++ [(goes 3).recRef c] }).vacate c) ∧
    (((goes 1).recRef c).addr = x.rcd ∧ ((goes 1).recRef c).vf = x.vf ∧ ((goes 1).recRef c).stamp = s.now)) ∧
  (∀ (s : State) (vf a i : Nat) (w : W64) (r : List W64), s.recWrites vf a i [] = s ∧ s.recWrites vf a i (w :: r) = (s.recWrite vf a i w.toNat).recWrites vf a (i + 1) r) ∧
  (∀ (s : State) (vf a i v : Nat) (y : Xlat), s.xlatVa vf (a + 8 * i) .wr = some y → y.ptes = [] → s.poison = [] → s.mem.wf = true →
    (s.recWrite vf a i v).rd y.loc 8 = v % 2 ^ 64 ∧ (∀ l, (l < y.loc ∨ y.loc + 8 ≤ l) → (s.recWrite vf a i v).mem.read l = s.mem.read l)) ∧
  (∀ (s : State) (vf : Nat) (j : BitVec 48) (y : Xlat), (j = 0 → s.countDone vf j = s) ∧
    (j ≠ 0 → s.xlatVa vf (j.toNat * 64) .rw = some y → s.anyPoison y.loc 64 = false → s.countDone vf j = (s.touch y.ptes true).jcbCount y.loc vf false)) ∧
  (∀ (s : State) (c : Nat), let t := s.vacate c
    (t.ctx c).phase = .idle ∧ (t.ctx c).pins = [] ∧ (t.ctx c).inflight = [] ∧ (t.ctx c).basket = [] ∧ t.mem = s.mem ∧
    (∀ i, i < 2048 → (s.slotOf (coreOf c) i).1 = c % 4 → (t.slotOf (coreOf c) i).1 = 4 ∧ ((s.slotOf (coreOf c) i).2.1 = false → (t.slotOf (coreOf c) i).2.1 = false)) ∧
    (∀ k i, i < 2048 → (k ≠ coreOf c ∨ (s.slotOf k i).1 ≠ c % 4) → t.slotOf k i = s.slotOf k i)) ∧
  (∀ (s : State) (o : R2) (v : BitVec 4), s.Issuing →
    let a := s.kA o.a o.ha
    let r := (s.filled [a]).respond v.toNat (a.d.toNat % 2 ^ 54) s.env.x.vf
    exec (.rte o v) s = .next (r.2.modCtx s.cur fun x => x.push (s.later o.d 8 8 0 (BitVec.ofNat 64 (if r.1 then stOK else stFAULT))))) ∧
  (∀ (s : State) (o : R3), s.Issuing →
    let a := s.kA o.a o.ha
    let b := s.kB o.b o.hb
    let reason (event : Bool) : W64 := if (s.ctx s.cur).resumed then 2 else if event then 0 else 1
    let events := !(s.cluster (clusterOf (coreOf s.cur))).evq.isEmpty
    exec (.wfe o 0) s = .next (s.gives [Opnd.none, b] (s.xRes o.d (reason events) 2)) ∧
    exec (.wfe o 1) s = .next (s.gives [a, Opnd.none] (s.xRes o.d (reason false) 2)) ∧
    (∀ y : Xlat, s.xlatVa (s.ctx s.cur).vf (a.d.toNat / 64 * 64) .rd = some y →
      exec (.wfe o 2) s = .next (((s.filled [a, b]).touch y.ptes false).sends
        (s.xRes o.d (reason (match (s.ctx s.cur).wfe with
          | some w => w.hit
          | none => false)) 2))) ∧
    ((slotOf (.wfe o 0) s).hold = .none ↔ (s.ctx s.cur).resumed = true ∨ events = true ∨ s.deadline b.d = true) ∧
    ((slotOf (.wfe o 1) s).hold = .none ↔ (s.ctx s.cur).resumed = true ∨ s.deadline a.d = true)) ∧
  (∀ s : State, s.Issuing → exec .nop s = .next s)

/-! ### Agreement (R286 to R297, R379, R380, R387, R389) -/

/-- AGREE gives the member's next ticket of its group, sends its contribution and opens a result slot; an absent member traps; ARES reads a
result; ABR and ABRP branch on a resolved one as it decides, an ABR waits for an open one, and an ABRP predicts it (R288 to R293, R379,
R380, R387, R389).
What logs 42 and 87 fix is the model's choice or reading, not the spec's. -/
def Obligations.AgreementSlots : Prop :=
  (∀ (s : State) (d : BitVec 5) (tag : BitVec 16) (g : Group) (m : Nat), s.Issuing →
    let x := s.ctx s.cur
    let k := coreOf s.cur
    let gid := x.r.agrGroup
    let a := s.env.reg .x d
    s.hub.groups.find (groupKey x.vf gid.toNat) = some g → s.memberOf g k = some m →
      let seq := s.nextSeqOf x.vf gid.toNat k
      let ticket : W64 := ((BitVec.ofNat 32 seq ++ tag : BitVec 48) ++ gid : BitVec 64)
      ∃ t, exec (.agree d tag) s = .next t ∧ t.mem = s.mem ∧
        t.contribs = s.contribs ++ [⟨x.vf, gid.toNat, seq, m, tag, a.d.setWidth 32, s.ftb, some s.cur⟩] ∧
        t.hub.groups.find (groupKey x.vf gid.toNat) = some { g with members := modifyAt g.members m fun q => { q with next := (q.next + 1) % 2 ^ 64 } } ∧
        (t.ctx s.cur).ltag = tag ∧ (t.ctx s.cur).r = { x.r with slots := (⟨ticket, seq, none⟩ :: x.r.slots).take 4 } ∧
        (t.ctx s.cur).inflight = x.inflight ++ [{ s.xRes d ticket 2 with seq := x.nextSeq, iss := x.bundles }]) ∧
  (∀ (s : State) (d : BitVec 5) (tag : BitVec 16), s.env.cond = true →
    let x := s.ctx s.cur
    (s.hub.groups.find (groupKey x.vf x.r.agrGroup.toNat) = none →
      (slotOf (.agree d tag) s).traps = [(cABSENT, BitVec.ofNat 64 (tag.toNat * 2 ^ 16 + x.r.agrGroup.toNat))])) ∧
  (∀ (s : State) (m : BitVec 5) (r : BitVec 5) (ofs : BitVec 11), s.env.cond = true →
    let a := s.kA r false
    let x := s.ctx s.cur
    let mo := if m = 0 then Opnd.none else s.env.reg .x m
    let tgt := s.env.target11 ofs
    let xm : Option Nat := if m = 0 then none else some (mo.d.toNat % 2 ^ 54 / 4 * 4)
    let ans (tk : Option Nat) (pr : Option Pred) : Host.Outcome State Fault Refusal :=
      .next { s.filled [a, mo] with iss := { s.iss with takenK := tk, pred := pr } }
    (x.agrSlot a.d = none → (slotOf (.abr m r ofs) s).illVal = some a.d ∧ (slotOf (.abr m r ofs) s).traps = []) ∧
    (∀ q, x.agrSlot a.d = some q → q.res = none → (slotOf (.abr m r ofs) s).hold = .abr) ∧
    (∀ q res b, s.Issuing → x.agrSlot a.d = some q → q.res = some res → res.decide tgt xm = .branch b → exec (.abr m r ofs) s = ans b s.iss.pred) ∧
    (∀ q res c, x.agrSlot a.d = some q → q.res = some res → res.decide tgt xm = .trap c → (slotOf (.abr m r ofs) s).traps = [(c, a.d)]) ∧
    (∀ (n : BitVec 4) (p : Bool), m = n.setWidth 5 →
      (∀ q, s.Issuing → x.agrSlot a.d = some q → q.res = none → x.preds.length < 2 → exec (.abrp p n r ofs) s =
        ans (if p then some tgt else none) (some ⟨x.r, 0, p, a.d, tgt, xm, 0, 0, none, none⟩)) ∧
      (∀ q, x.agrSlot a.d = some q → q.res = none → 2 ≤ x.preds.length → (slotOf (.abrp p n r ofs) s).hold = .abr) ∧
      (x.agrSlot a.d = none → (slotOf (.abrp p n r ofs) s).illVal = some a.d) ∧
      (∀ q res b, s.Issuing → x.agrSlot a.d = some q → q.res = some res → res.decide tgt xm = .branch b → exec (.abrp p n r ofs) s = ans b s.iss.pred))) ∧
  (∀ (r : AgrRes) (tgt : Nat) (xm : Option Nat),
    (r.status = 0 ∨ r.status = 3 → r.decide tgt xm = .branch (if r.dec then some tgt else none)) ∧
    (∀ t, r.status = 1 → r.mm = true → xm = some t → r.decide tgt xm = .branch (some t)) ∧
    (r.status = 1 → (r.mm = false ∨ xm = none) → r.decide tgt xm = .trap cMISMATCH) ∧
    (r.status = 2 ∨ 4 ≤ r.status → r.decide tgt xm = .trap cABSENT)) ∧
  (∀ (s : State) (o : R3) (v : BitVec 4), s.Issuing → v.toNat ≤ 2 →
    let a := s.kA o.a o.ha
    let b := if v = 0 then Opnd.none else s.kB o.b o.hb
    let ans (w : W64) : Host.Outcome State Fault Refusal := .next (s.gives [a, b] (s.xRes o.d w 2))
    ((s.ctx s.cur).agrSlot a.d = none → exec (.ares o v) s = ans (if v = 0 then 0xF0000000 else 0)) ∧
    (∀ q res, (s.ctx s.cur).agrSlot a.d = some q → q.res = some res → exec (.ares o v) s =
      ans (if v = 0 then res.word else if v = 1 then maskWindow res.pres (b.d.toNat % 16) else maskWindow res.mism (b.d.toNat % 16))))


/-! ### Frames and landing (R62 to R65, R69 to R75, R183 to R187, R273) -/

/-- The frame of the slots that read registers and send one result: memory, poison, the owner map, the hub, every core, cluster and die, every
other context and the agenda keep their values; in the issuing context nothing changes but the hold latches, the stream count and the results
in flight, which take one more. What the result then changes is said of its landing (R69, R71, R74). -/
def Obligations.RegisterSlotFrame : Prop :=
  ∀ (i : Instr) (s t : State), sendsOne i = true → s.Issuing → exec i s = .next t →
    t.mem = s.mem ∧ t.poison = s.poison ∧ t.slots = s.slots ∧ t.hub = s.hub ∧ t.cores = s.cores ∧ t.clusters = s.clusters ∧ t.dies = s.dies ∧
    t.contribs = s.contribs ∧ t.msgs = s.msgs ∧ t.saved = s.saved ∧ t.now = s.now ∧ t.agenda = s.agenda ∧ t.iss = s.iss ∧ t.cur = s.cur ∧
    (∀ c, c ≠ s.cur → t.ctx c = s.ctx c) ∧
    let x := s.ctx s.cur
    let y := t.ctx s.cur
    y = { x with
          r := { x.r with srstream := y.r.srstream, latch := y.r.latch, latchp := y.r.latchp }
          inflight := y.inflight, nextSeq := x.nextSeq + 1 } ∧
      ∃ r : Res, y.inflight = x.inflight ++ [r] ∧ r.iss = x.bundles ∧ r.fixed = true ∧ r.need = 0 ∧ s.now < r.due

/-- Results land. In a context that runs a fixed result is visible in the cycle of its latency and none that is due stays in flight; a variable one lands once all its
parts have returned, not before its least latency; a NEXTT reply takes one part away. A landing x or y result writes its register alone, one
to x0 or y0 none; a v, q or g result its enabled lanes alone; flags are added to FPFLAGS; a superseded result writes no register (R65, R71 to
R75, R83, R89, R273, R317, R321).
What logs 7, 16, 23, 42 and 85 fix is the model's choice or reading, not the spec's. -/
def Obligations.ResultsLand : Prop :=
  (∀ (s : State) (c : Nat), ∃ t, exec (.fixedResultLand c) s = .next t ∧ t.mem = s.mem ∧ (∀ d, d ≠ c → t.ctx d = s.ctx d) ∧
    ((s.ctx c).phase = .run → (s.ctx c).replay = false → ((s.ctx c).inflight.map (·.seq)).Nodup → ∀ r ∈ (t.ctx c).inflight, ¬(r.fixed = true ∧ r.need = 0 ∧ r.due ≤ s.now)) ∧
    (∀ r, (s.ctx c).phase = .run → (s.ctx c).replay = false → (s.ctx c).inflight = [r] → r.fixed = true → r.need = 0 → r.due ≤ s.now → t.ctx c = (s.ctx c).land r.due r)) ∧
  (∀ (s : State) (c : Nat) (r : Res), (s.ctx c).inflight = [r] → r.fixed = false → r.file ≠ .n → r.file ≠ .sr → r.need = 0 →
    ((s.ctx c).phase = .run → r.due ≤ s.now → exec (.variableResultLand c r.seq) s = .next (s.modCtx c fun x => x.land s.now r)) ∧
    -- F of a context that stops comes no sooner than a result for which its next bundle would have been held (R313)
    (∀ st, (s.ctx c).stop = some st → r.due ≤ s.now → s.holdsFor c r = true → ∃ t, exec (.variableResultLand c r.seq) s = .next t ∧ t.mem = s.mem ∧
      (t.ctx c).stop = some { st with f := max st.f s.now } ∧ (t.ctx c).inflight = []) ∧
    (s.now < r.due → exec (.variableResultLand c r.seq) s = .next s)) ∧
  (∀ (s : State) (c : Nat) (r : Res), (s.ctx c).inflight = [r] → r.file = .n → r.need = 1 → ∃ t, exec (.nexttReply c 0) s = .next t ∧
    (t.ctx c).inflight = [{ r with need := 0 }] ∧ (t.ctx c).n = (s.ctx c).n ∧ t.mem = s.mem) ∧
  (∀ (x : Ctx) (n : Nat) (r : Res), r.sup = 0 → (r.tie = 0 ∨ r.tie ≠ n) → x.preds = [] →
    let y := x.land n r
    (∀ (i : BitVec 5), r.file = .x → r.idx = i.toNat → i ≠ 0 → y.getX i = r.val.setWidth 64 ∧ (∀ j : BitVec 5, j ≠ i → y.getX j = x.getX j) ∧
      y.r.y = x.r.y ∧ y.r.v = x.r.v ∧ y.r.q = x.r.q ∧ y.r.g = x.r.g ∧ y.r.m = x.r.m ∧ y.r.fpflags = x.r.fpflags ||| r.flags) ∧
    (∀ (i : BitVec 5), r.file = .y → r.idx = i.toNat → i ≠ 0 → y.getY i = r.val.setWidth 64 ∧ (∀ j : BitVec 5, j ≠ i → y.getY j = x.getY j) ∧
      y.r.x = x.r.x ∧ y.r.v = x.r.v ∧ y.r.q = x.r.q ∧ y.r.g = x.r.g ∧ y.r.m = x.r.m ∧ y.r.fpflags = x.r.fpflags ||| r.flags) ∧
    ((r.file = .x ∨ r.file = .y) → r.idx = 0 → y.r = { x.r with fpflags := x.r.fpflags ||| r.flags }) ∧
    (∀ (i : BitVec 5) (l : Nat), r.file = .v → r.idx = i.toNat → l < 64 →
      lane (y.getV i) l = (if r.lm = true ∧ r.lanes.getLsbD l = false then lane (x.getV i) l else lane r.val l) ∧
      (∀ j : BitVec 5, j ≠ i → y.getV j = x.getV j) ∧ y.r.x = x.r.x ∧ y.r.y = x.r.y ∧ y.r.q = x.r.q) ∧
    (∀ (i : BitVec 3) (l : Nat), r.file = .q → r.idx = i.toNat → l < 64 →
      (y.getQ (i.setWidth 5)).getLsbD l = (if r.lm = true ∧ r.lanes.getLsbD l = false then (x.getQ (i.setWidth 5)).getLsbD l else r.val.getLsbD l) ∧
      y.r.x = x.r.x ∧ y.r.y = x.r.y ∧ y.r.v = x.r.v) ∧
    y.pc = x.pc ∧ y.lsq = x.lsq ∧ y.rout = x.rout) ∧
  -- a superseded result, and one whose lanes later slots of its bundle write in the same cycle; of a part of its lanes the rest lands
  (∀ (x : Ctx) (n : Nat) (r : Res), let all : W64 := if r.lm then r.lanes else BitVec.allOnes 64
    ((r.sup ≠ 0 ∨ (r.tie ≠ 0 ∧ r.tie = n ∧ all &&& ~~~r.tied = 0)) → x.preds = [] → (x.land n r).r = { x.r with fpflags := x.r.fpflags ||| r.flags }) ∧
    (∀ (i : BitVec 5) (l : Nat), r.sup = 0 → r.tie ≠ 0 → r.tie = n → all &&& ~~~r.tied ≠ 0 → x.preds = [] → r.file = .v → r.idx = i.toNat → l < 64 →
      lane ((x.land n r).getV i) l = (if (all &&& ~~~r.tied).getLsbD l then lane r.val l else lane (x.getV i) l))) ∧
  (∀ (x : Ctx) (n : Nat) (r u : Res), x.inflight = [u] → u.seq < r.seq → u.file = r.file → u.idx = r.idx →
    (u.iss < r.iss → (x.land n r).inflight = [{ u with sup := if u.sup = 0 then r.seq else min u.sup r.seq }]) ∧
    (u.iss = r.iss → (x.land n r).inflight =
      [{ u with tie := n, tied := (if u.tie = n then u.tied else 0) ||| (if r.lm then r.lanes else BitVec.allOnes 64) }])) ∧
  (∀ x : Ctx, x.getX 0 = 0 ∧ x.getY 0 = 0)

/-! ### Performing memory operations (R14, R165, R168, R183 to R187, R201 to R205, R272, R320) -/

/-- PERFORM_LOCAL performs the oldest entry of a context's LSQ in one step. A store writes its bytes, and no other: every location outside reads
as before, and a poisoned dword that it does not cover whole stays as it is. ATOM, STVER, BARM, NEXTT, POST and RAISE write
and return as their entries say (R14, R183, R194, R202, R203, R205, R263, R264, R272, R320). -/
def Obligations.LocalWritesPerform : Prop :=
  (∀ (s : State) (c : Nat) (e : LEntry) (q : List LEntry) (bs : List (Nat × Byte)), (s.ctx c).lsq = e :: q → (s.ctx c).rout = [] → e.ptes = [] → e.op = .store bs →
    s.mem.wf = true → ∃ t, exec (.performLocal c) s = .next t ∧ (t.ctx c).lsq = q ∧ (t.ctx c).inflight = (s.ctx c).inflight ∧
      (∀ l, (∀ p ∈ bs, p.1 ≠ l) → t.mem.read l = s.mem.read l) ∧
      (∀ l b, s.poisoned l = false → (l, b) ∈ bs → (∀ p ∈ bs, p.1 = l → p.2 = b) → t.mem.read l = b) ∧
      (∀ l, s.poisoned l = true → (bs.filter fun p => decide (p.1 / 8 = l / 8)).length < 8 → t.mem.read l = s.mem.read l ∧ t.poisoned l = true)) ∧
  (∀ (s : State) (c : Nat) (e : LEntry) (q : List LEntry) (l : Nat) (op : Rmw), (s.ctx c).lsq = e :: q → (s.ctx c).rout = [] → e.ptes = [] → e.op = .rmw l op →
    let s1 := s.modCtx c fun x => { x with lsq := q, lsqDone := x.lsqDone + 1 }
    let r := s1.doRmw c l op
    exec (.performLocal c) s = .next (r.1.deliver c e.seq (wide64 r.2.1) (if r.2.2 then 1 else 0))) ∧
  (∀ (s : State) (c : Nat), (s.ctx c).lsq = [] → exec (.performLocal c) s = .next s) ∧
  (∀ (s : State) (l v : Nat), s.mem.wf = true → s.poison = [] → (s.wr l 8 v).rd l 8 = v % 2 ^ 64) ∧
  (∀ (s : State) (c l : Nat) (v : Nat) (b : W64), s.poisoned l = false →
    let old : W32 := BitVec.ofNat 32 (s.rd l 4)
    s.doRmw c l (.atom v b) = (s.wr l 4 (atomOp v old b).toNat, old.setWidth 64, false)) ∧
  (∀ (s : State) (c l : Nat) (v : Nat) (b : W64), s.poisoned l = true → s.doRmw c l (.atom v b) = (s, BitVec.ofNat 64 (stPOISONED * 2 ^ 32), false)) ∧
  (∀ (s : State) (c l : Nat) (e d : W64), s.anyPoison l 16 = false →
    (s.rd64 l = e → (s.doRmw c l (.stver e d)).1 = (s.wr (l + 8) 8 d.toNat).wr l 8 (e + 1).toNat ∧ (s.doRmw c l (.stver e d)).2.1.toNat % 2 ^ 16 = stOK) ∧
    (s.rd64 l ≠ e → (s.doRmw c l (.stver e d)).1 = s ∧ (s.doRmw c l (.stver e d)).2.1 = BitVec.ofNat 64 (s.rd l 8 % 2 ^ 48 * 2 ^ 16 + stVERSION))) ∧
  (∀ (s : State) (c l : Nat) (n : W64), s.poisoned l = false → s.doRmw c l (.barm n) = (s.wr l 8 (s.rd64 l - n).toNat, 0, false)) ∧
  (∀ (s : State) (c l n w : Nat), s.poisoned l = false → ∃ v, s.doRmw c l (.nextt n w) = (s.wr l 8 ((s.rd l 8 + 1) % 2 ^ 64), v, false) ∧
    (n ≤ s.rd l 8 → v = BitVec.allOnes 64) ∧ (s.rd l 8 < n → w = 0 → v = BitVec.ofNat 64 (s.rd l 8)) ∧
    (s.rd l 8 < n → w ≠ 0 → v = BitVec.ofNat 64 (s.rd l 8 / w * 2 ^ 32 + s.rd l 8 % w))) ∧
  (∀ a b : W32, atomOp 0 a (b.setWidth 64) = b ∧ atomOp 2 a (b.setWidth 64) = a + b ∧ atomOp 3 a (b.setWidth 64) = a &&& b ∧
    atomOp 4 a (b.setWidth 64) = a ||| b ∧ atomOp 5 a (b.setWidth 64) = a ^^^ b ∧ atomOp 6 a (b.setWidth 64) = (if a.toInt ≤ b.toInt then a else b) ∧
    atomOp 7 a (b.setWidth 64) = (if b.toInt ≤ a.toInt then a else b) ∧ atomOp 8 a (b.setWidth 64) = (if a.toNat ≤ b.toNat then a else b) ∧
    atomOp 9 a (b.setWidth 64) = (if b.toNat ≤ a.toNat then a else b) ∧ (∀ n : W32, atomOp 1 a (n ++ b : BitVec 64) = (if a = b then n else a)) ∧
    -- the floating-point operations, RNE with no saturation and no flag
    atomOp 10 a (b.setWidth 64) = (fAdd a b .rne 0).1 ∧
    (((f32 a).isNan = true ∨ (f32 b).isNan = true) → atomOp 11 a (b.setWidth 64) = nan32 ∧ atomOp 12 a (b.setWidth 64) = nan32) ∧
    ((f32 a).isNan = false → (f32 b).isNan = false →
      ((f32 a).cmp (f32 b) = .lt → atomOp 11 a (b.setWidth 64) = a ∧ atomOp 12 a (b.setWidth 64) = b) ∧
      ((f32 a).cmp (f32 b) = .gt → atomOp 11 a (b.setWidth 64) = b ∧ atomOp 12 a (b.setWidth 64) = a)) ∧
    atomOp 11 0x80000000 0 = 0x80000000 ∧ atomOp 11 0 0x80000000 = 0x80000000 ∧ atomOp 12 0x80000000 0 = 0 ∧ atomOp 12 0 0x80000000 = 0 ∧
    (∀ p ∈ [(13, 2), (14, 1)], ∀ i, i < 2 →
      (atomOp p.1 a (b.setWidth 64)).toNat / 2 ^ (16 * i) % 2 ^ 16 =
        (encodeFmt p.2 ((decodeFmt p.2 (a.toNat / 2 ^ (16 * i) % 2 ^ 16)).add (decodeFmt p.2 (b.toNat / 2 ^ (16 * i) % 2 ^ 16)) .rne) .rne false 0).1)) ∧
  -- POST and RAISE on a job control block (R263, R264)
  (∀ (s : State) (c l k : Nat) (own : Bool), s.anyPoison l 64 = false →
    let d0 := s.rd l 8
    let d1 := s.rd (l + 8) 8
    let d2 := s.rd (l + 16) 8
    let d3 := s.rd (l + 24) 8
    let done := (d0 + 1) % 2 ^ 32
    let drop := s.wr (l + 8) 8 (d1 / 2 ^ 32 * 2 ^ 32 + (d1 + 1) % 2 ^ 32)
    let one := s.wr l 8 (d0 / 2 ^ 32 * 2 ^ 32 + done)
    let ends := one.wr (l + 24) 8 (2 ^ 63 + d3)
    let posts (u : State) : State := if own then u.modCtx c fun x => { x with posted := true } else u
    let again := own = true ∧ (s.ctx c).posted = true
    let full := d3 / 2 ^ 63 = 0 ∧ d0 / 2 ^ 32 ≤ done
    (again → s.doRmw c l (.post own) = (drop, BitVec.ofNat 64 stFAULT, false)) ∧
    (¬again → ¬full → s.doRmw c l (.post own) = (posts one, 0, false)) ∧
    (¬again → full → d2 / 2 ^ 63 ≠ 1 → s.doRmw c l (.post own) = (posts ends, 0, false)) ∧
    (¬again → full → d2 / 2 ^ 63 = 1 → s.doRmw c l (.post own) = (posts (ends.pushIncr (d2 % 2 ^ 54 / 8 * 8) (s.ctx c).vf none none), 0, false)) ∧
    ((d3 / 2 ^ 63 = 1 ∨ again) → s.doRmw c l (.raise own k) = (drop.modCtx c fun x => x.countRaise s.now, BitVec.ofNat 64 stFAULT, false)) ∧
    (d3 / 2 ^ 63 ≠ 1 → ¬again → s.doRmw c l (.raise own k) = (s.wr l 8 ((d0 / 2 ^ 32 + k) % 2 ^ 32 * 2 ^ 32 + d0 % 2 ^ 32), 0, false))) ∧
  (∀ (s : State) (c l k : Nat) (own : Bool) (e d : W64), (s.anyPoison l 64 = true → s.doRmw c l (.post own) = (s, BitVec.ofNat 64 stPOISONED, false) ∧
      s.doRmw c l (.raise own k) = (s, BitVec.ofNat 64 stPOISONED, false)) ∧
    (s.anyPoison l 16 = true → s.doRmw c l (.stver e d) = (s, BitVec.ofNat 64 stPOISONED, false)) ∧
    (s.poisoned l = true → s.doRmw c l (.barm e) = (s, 0, false) ∧ s.doRmw c l (.nextt k k) = (s, 0, true)))

/-- SEND_REMOTE performs an entry of ROUT(c), whichever it is, at the home of its address, once nothing older holds it: a load reads, a store and an
RST write their bytes and no other, an RST hands its flag's increment to the flag unit, and a read-modify-write returns its value; it reports a failed
translation, and completes an operation on a lost path without performing it. FLAG takes any pending increment of its unit and adds 1 to its word, or
tells who waits that it could not. COMPLETE_REMOTE takes an entry that has performed away and gives its value to its result (R185 to R187, R193, R300,
R332, R409, R458, R459).
What logs 28 and 58 fix is the model's choice or reading, not the spec's. -/
def Obligations.RemoteOperations : Prop :=
  (∀ (s : State) (c i : Nat) (r : REntry) (y : Xlat), (s.ctx c).rout[i]? = some r → r.phase = 0 → (s.ctx c).mustWait r = false → s.place r.op.va ≠ .outside →
    s.deadPath (coreOf c) r.op.va (some y.loc) = false → s.lacksCap r.op r.op.va = false → s.xlatVa (s.ctx c).vf r.op.va r.op.acc = some y → y.mv = false →
    (∀ bs f, r.op = .rst bs f → ∃ z, s.xlatVa (s.ctx c).vf f .rw = some z ∧ z.mv = false) →
      exec (.sendRemote c i) s = .next (s.remotePerform c r y.loc y.ptes)) ∧
  (∀ (s : State) (c : Nat) (r : REntry) (l : Nat) (ps : List Nat),
    let t := s.touch ps (decide (r.op.acc ≠ .rd))
    let put (bs : List (Nat × Byte)) : State := t.storeBytes (bs.map fun (p : Nat × Byte) => (l + (p.1 - r.op.va), p.2))
    (∀ va n off ov, r.op = .load va n off ov →
      s.remotePerform c r l ps = t.modRout c r.id fun q => { q with phase := 2, val := (t.remoteLoad l n off ov).1, psn := (t.remoteLoad l n off ov).2 }) ∧
    (∀ bs, r.op = .store bs → s.remotePerform c r l ps = (put bs).modRout c r.id fun q => { q with phase := 2, val := 0, psn := 0 }) ∧
    (∀ bs f z, r.op = .rst bs f → t.xlatVa (s.ctx c).vf f .rw = some z →
      s.remotePerform c r l ps = (((put bs).touch z.ptes true).modDie (s.flagUnit (s.key (ownerOfLoc z.loc))) fun d =>
        { d with flags := d.flags ++ [⟨z.loc, none, (s.ctx c).vf, some (c, r.id), none⟩] }).modRout c r.id fun q => { q with phase := 1 }) ∧
    (∀ va n, r.op = .rmw va (.barm n) → t.poisoned l = false →
      s.remotePerform c r l ps = (t.wr l 8 (t.rd64 l - n).toNat).modRout c r.id fun q => { q with phase := 2, val := 0, psn := 0 }) ∧
    -- ATOM and RATOM return the old word and write the new one; STVER, NEXTT, POST and RAISE write and return as at a local home
    (∀ va v b, r.op = .rmw va (.atom v b) → t.poisoned l = false → let old : W32 := BitVec.ofNat 32 (t.rd l 4)
      ∃ u : State, s.remotePerform c r l ps = u.modRout c r.id (fun q => { q with phase := 2, val := wide64 (old.setWidth 64), psn := 0 }) ∧
        u.mem = (t.wr l 4 (atomOp v old b).toNat).mem ∧ u.hub = s.hub ∧ u.slots = s.slots ∧ ∀ d, (u.ctx d).r = (s.ctx d).r) ∧
    (∀ va v b, r.op = .rmw va (.atom v b) → t.poisoned l = true →
      s.remotePerform c r l ps = t.modRout c r.id fun q => { q with phase := 2, val := wide64 (BitVec.ofNat 64 (stPOISONED * 2 ^ 32)), psn := 0 }) ∧
    (∀ va op, r.op = .rmw va op → ((∃ e d, op = .stver e d) ∨ (∃ n w, op = .nextt n w) ∨ (∃ o, op = .post o) ∨ ∃ o k, op = .raise o k) →
      s.remotePerform c r l ps = (t.doRmw c l op).1.modRout c r.id fun q =>
        { q with phase := 2, val := wide64 (t.doRmw c l op).2.1, psn := if (t.doRmw c l op).2.2 then 1 else 0 }) ∧
    (∀ va e d, r.op = .rmw va (.stver e d) → t.anyPoison l 16 = false → (t.rd64 l = e → (t.doRmw c l (.stver e d)).1 = (t.wr (l + 8) 8 d.toNat).wr l 8 (e + 1).toNat) ∧
      (t.rd64 l ≠ e → (t.doRmw c l (.stver e d)).1 = t)) ∧
    (∀ va n w, r.op = .rmw va (.nextt n w) → t.poisoned l = false → (t.doRmw c l (.nextt n w)).1 = t.wr l 8 ((t.rd l 8 + 1) % 2 ^ 64))) ∧
  (∀ (s : State) (c i : Nat) (r : REntry), (s.ctx c).rout[i]? = some r → r.phase = 0 → (s.ctx c).mustWait r = false → r.arm < armDropped → s.place r.op.va ≠ .outside →
    s.deadPath (coreOf c) r.op.va none = false → s.lacksCap r.op r.op.va = false → s.xlatVa (s.ctx c).vf r.op.va r.op.acc = none →
      ∃ t, exec (.sendRemote c i) s = .next t ∧ t.mem = s.mem ∧ ((s.ctx c).killReport = none → (t.ctx c).killReport = some (r.op.va, r.arm, false)) ∧
        -- the report that hangs on fewer predictions counts
        ∀ a n h, (s.ctx c).killReport = some (a, n, h) → (t.ctx c).killReport = if r.arm < n then some (r.op.va, r.arm, false) else some (a, n, h)) ∧
  (∀ (s : State) (c i : Nat) (r : REntry), (s.ctx c).rout[i]? = some r → r.phase = 0 → (s.ctx c).mustWait r = false → s.place r.op.va ≠ .outside →
    s.pathLost (coreOf c) r.op.va = true →
      exec (.sendRemote c i) s = .next (s.modRout c r.id fun q => { q with phase := 2, val := (deadValue r.op).1, psn := (deadValue r.op).2 })) ∧
  (∀ (s : State) (u i : Nat) (n : Incr), (s.die u).flags[i]? = some n →
    let t := s.modDie u fun d => { d with flags := d.flags.eraseIdx i }
    (n.va = none → s.flagLost n (s.ownerVa n.loc) = false → s.flagResets n n.loc = false → s.poisoned n.loc = false →
      exec (.flag ⟨u, i⟩) s = .next ((t.wr n.loc 8 (s.rd64 n.loc + 1).toNat).flagDone n false)) ∧
    (∀ va y, n.va = some va → s.flagLost n va = false → s.xlatVa n.vf va .rw = some y → s.flagResets n y.loc = false → y.mv = false → s.poisoned y.loc = false →
      let z := t.touch y.ptes true
      exec (.flag ⟨u, i⟩) s = .next ((z.wr y.loc 8 (z.rd64 y.loc + 1).toNat).flagDone n false)) ∧
    (∀ va, n.va = some va → (s.flagLost n va = true ∨ s.xlatVa n.vf va .rw = none) → exec (.flag ⟨u, i⟩) s = .next (t.flagDone n true)) ∧
    -- the path that counts is that of the core whose operation is announced, and with none the one to the flag's owner (R300, R409)
    (∀ a, (∀ k, n.core = some k → s.flagLost n a = s.pathLost k a) ∧ (n.core = none → s.flagLost n a = s.ownerLost a))) ∧
  (∀ (s : State) (n : Incr) (b : Bool),
    (∀ c id, n.ctx = some (c, id) → n.copy = none → s.flagDone n b = s.modRout c id fun r => { r with phase := 2 }) ∧
    (n.ctx = none → n.copy = none → s.flagDone n b = s) ∧
    (∀ k, n.ctx = none → n.copy = some k → k < 1024 → ((s.flagDone n false).core k).crun = (s.core k).crun.map (fun r => { r with phase := 2 }) ∧
      ((s.flagDone n true).core k).crun = (s.core k).crun.map fun r => { r with phase := 2, status := stFAULT, errs := r.errs + 1, addr := n.va.getD 0 })) ∧
  (∀ (s : State) (c i : Nat) (r : REntry), (s.ctx c).rout[i]? = some r →
    (r.phase = 2 → ∃ t, exec (.completeRemote c i) s = .next t ∧ (t.ctx c).rout = (s.ctx c).rout.filter (fun q => decide (q.id ≠ r.id)) ∧ t.mem = s.mem ∧
      (∀ d, d ≠ c → t.ctx d = s.ctx d) ∧
      (t.ctx c).inflight = (s.ctx c).inflight.map fun u => if u.seq = r.seq then { u with val := u.val ||| r.val, psn := u.psn ||| r.psn, need := u.need - 1 } else u) ∧
    (r.phase ≠ 2 → exec (.completeRemote c i) s = .next s))

/-! ### Stops, traps and errors (R311 to R313, R317 to R320, R329, R343, R344, R373, R458) -/

/-- Taking a trap saves cause, address and program counter and stops the context at its bundle boundary; it freezes once its results have
returned, and its entry goes to the function's own queue where the cause is delegated, else to HS's; a frozen context is resumed, killed or
evicted by the response to its function's record; reports and ECC errors arrive (R311 to R313, R318 to R320, R329, R343, R344, R373, R458).
What logs 29, 41 and 86 fix is the model's choice or reading, not the spec's. -/
def Obligations.StopsAndResponses : Prop :=
  (∀ (s : State) (c cause : Nat) (a : W64) (pc : Nat), cause ≠ cPREEMPT →
    let x := s.ctx c
    let y := (takeTrap c cause a pc s).ctx c
    y.trapCause = BitVec.ofNat 64 cause ∧ y.trapPc = BitVec.ofNat 64 pc ∧ y.trapAddr = a ∧ y.phase = .stopping ∧ y.pc = x.pc ∧ y.r = x.r ∧
      y.stop = some ⟨cause, 0, max s.now x.nextIssue, false⟩ ∧ (takeTrap c cause a pc s).mem = s.mem ∧ y.inflight = x.inflight ∧ y.lsq = x.lsq ∧
      (takeTrap c cPREEMPT a pc s).ctx c =
        { y with trapCause := x.trapCause, trapPc := x.trapPc, trapAddr := x.trapAddr, stop := some ⟨cPREEMPT, 0, max s.now x.nextIssue, false⟩, wsk := false }) ∧
  (∀ (s : State) (c : Nat) (st : Stop), (s.ctx c).stop = some st → (s.ctx c).phase = .stopping → (s.ctx c).inflight = [] → s.hub.dbgCtl.getLsbD 62 = false →
    (s.now < st.f → exec (.stopFreeze c) s = .next s) ∧
    (st.f ≤ s.now → s.gangStands c st.cause = true → ∃ t, exec (.stopFreeze c) s = .next t ∧ (t.ctx c).phase = .frozen ∧ (t.ctx c).r = (s.ctx c).r ∧ t.mem = s.mem ∧
      (st.cause ≠ cPREEMPT → t.hub.traps = s.hub.traps ++ [⟨st.cause, false, c, (s.ctx c).vf, (s.ctx c).rcd, (s.ctx c).trapPc.toNat, (s.ctx c).trapAddr,
        if st.cause = 0x11 then (s.ctx c).trapSrc else 0⟩]) ∧
      (st.cause = cPREEMPT → t.hub.traps = s.hub.traps))) ∧
  (∀ (s : State) (e : TrapEntry) (q : List TrapEntry), s.hub.traps = e :: q → s.delegated e.vf e.cause = false →
    (s.hub.hsProd - s.hub.hsCons < s.hub.hsSlots →
      exec .trapEntryDelivery s = .next (s.modHub fun h => { h with traps := q, hsq := h.hsq ++ [e], hsProd := h.hsProd + 1, hsIrq := s.hsHart })) ∧
    (s.hub.hsSlots ≤ s.hub.hsProd - s.hub.hsCons → q = [] → exec .trapEntryDelivery s = .next s)) ∧
  (∀ (s : State) (e : TrapEntry) (q : List TrapEntry) (v : VfSt), s.hub.traps = e :: q → s.delegated e.vf e.cause = true → s.hub.vfs.find e.vf = some v →
    v.tqProd - v.tqCons < v.d[11].toNat % 2 ^ 16 → e.cause ≠ cECC → e.act = false →
    ∃ t, exec .trapEntryDelivery s = .next t ∧ t.hub.traps = q ∧ t.hub.hsq = s.hub.hsq ∧ e.vf ∈ t.hub.vsIrq ∧
      t.hub.vfs.find e.vf = some { v with tqProd := v.tqProd + 1 }) ∧
  -- an uncorrectable error, or a kill's entry, goes to HS too
  (∀ (s : State) (e : TrapEntry) (v : VfSt), s.hub.traps = [e] → s.delegated e.vf e.cause = true → s.hub.vfs.find e.vf = some v → (e.cause = cECC ∨ e.act = true) →
    (v.tqProd - v.tqCons < v.d[11].toNat % 2 ^ 16 → s.hub.hsProd - s.hub.hsCons < s.hub.hsSlots → ∃ t, exec .trapEntryDelivery s = .next t ∧ t.hub.traps = [] ∧
      t.hub.hsq = s.hub.hsq ++ [e] ∧ t.hub.hsProd = s.hub.hsProd + 1 ∧ t.hub.vfs.find e.vf = some { v with tqProd := v.tqProd + 1 }) ∧
    ((v.d[11].toNat % 2 ^ 16 ≤ v.tqProd - v.tqCons ∨ s.hub.hsSlots ≤ s.hub.hsProd - s.hub.hsCons) → exec .trapEntryDelivery s = .next s)) ∧
  (∀ (s : State) (rec vf : Nat), s.frozenAt rec vf = none → ∀ i : Instr, (i = .trespResume rec vf ∨ i = .trespKill rec vf ∨ i = .trespEvict rec vf) →
    exec i s = .next s.ignoreResponse ∧ s.ignoreResponse.mem = s.mem ∧ s.ignoreResponse.ctxs = s.ctxs) ∧
  (∀ (s : State) (rec c vf : Nat) (st : Stop), rec % 64 = 0 → s.frozenAt rec vf = some c → (s.ctx c).phase = .frozen → (s.ctx c).stop = some st →
    s.mates c = [c] → s.stepFollowers c = [] →
    (∃ t, exec (.trespResume rec vf) s = .next t ∧ (t.ctx c).phase = .run ∧ (t.ctx c).stop = none ∧ (t.ctx c).replay = true ∧ (t.ctx c).nextIssue = s.now ∧
      (t.ctx c).r = (s.ctx c).r ∧ (t.ctx c).pc = (s.ctx c).pc ∧ t.mem = s.mem) ∧
    exec (.trespKill rec vf) s = .next (s.kill c st.cause (s.ctx c).trapAddr true) ∧
    ∃ t, exec (.trespEvict rec vf) s = .next t ∧ (t.ctx c).stop = some { st with sent := false, cause := cPREEMPT, plan := 2 } ∧ t.mem = s.mem) ∧
  (∀ (s : State) (c : Nat), (s.resume c).ctx c = { s.ctx c with phase := .run, stop := none, replay := true, held := .none, nextIssue := s.now }) ∧
  (∀ (s : State) (c t a n : Nat) (src : W64) (m h : Bool), (s.ctx c).report = some (t, a, src, m, n, h) →
    exec (.watchReportArrival c) s = .next (s.modCtx c fun x => { x with report := some (t, a, src, m, n, true) }) ∧
    (t + 64 ≤ s.now + 1 → (s.tick.ctx c).report = some (t, a, src, m, n, true))) ∧
  (∀ (s : State) (c a n : Nat) (h : Bool), (s.ctx c).killReport = some (a, n, h) →
    (n = 0 → (s.ctx c).phase ≠ .idle → exec (.remoteFaultReport c) s = .next (s.kill c cXLAT (BitVec.ofNat 64 a) true)) ∧
    (n = 0 → (s.ctx c).phase = .idle → exec (.remoteFaultReport c) s = .next (s.modCtx c fun x => { x with killReport := none })) ∧
    (n ≠ 0 → exec (.remoteFaultReport c) s = .next (s.modCtx c fun x => { x with killReport := some (a, n, true) }))) ∧
  (∀ (s : State) (k : Nat), exec (.eccCorrectedError (.core k)) s = .next (s.modCore k fun x => x.countEcc s.now) ∧
    ∀ (x : CoreSt) (n : Nat), (x.countEcc n).errEcc = satAdd x.errEcc 1 ∧ (x.countEcc n).cells = x.cells ∧ (x.countEcc n).banks = x.banks) ∧
  (∀ (s : State) (c : Nat) (a : W64), ((s.kill c cXLAT a true).ctx c).phase = .idle ∧ ((s.kill c cXLAT a true).ctx c).inflight = [] ∧
    ((s.kill c cXLAT a true).ctx c).trapCause = BitVec.ofNat 64 cXLAT ∧ ((s.kill c cXLAT a true).ctx c).trapAddr = a) ∧
  -- a kill writes back word 7 alone, STATE FAULT with the cause, posts FAULT and releases what the context held (R37, R263)
  (∀ (s : State) (c cause : Nat) (a : W64) (y : Xlat), let x := s.ctx c
    let t := s.kill c cause a true
    s.xlatVa x.vf (x.rcd + 56) .wr = some y → y.ptes = [] → s.poison = [] → s.mem.wf = true → x.jcb = 0 → s.hub.dbgCtl.getLsbD 62 = false →
      (∀ d ∈ (s.cluster (clusterOf (coreOf c))).dep, d.ctx ≠ c) → s.evRoom (clusterOf (coreOf c)) = true →
      t.rd y.loc 8 = (5 * 2 ^ 56 + cause * 2 ^ 48 + x.words[7].toNat % 2 ^ 48) % 2 ^ 64 ∧ (∀ l, (l < y.loc ∨ y.loc + 8 ≤ l) → t.mem.read l = s.mem.read l) ∧
      (t.cluster (clusterOf (coreOf c))).evq = (s.cluster (clusterOf (coreOf c))).evq ++ [s.mkRec stFAULT 5 c 0 1 x.rcd 0 x.vf] ∧
      (t.ctx c).pins = [] ∧ (∀ i, i < 2048 → (s.slotOf (coreOf c) i).1 = c % 4 → (t.slotOf (coreOf c) i).1 = 4) ∧
      ∃ e, t.hub.traps = s.hub.traps ++ [e] ∧ e.cause = cause ∧ e.act = true ∧ e.ctx = c ∧ e.rcd = x.rcd ∧ e.addr = a) ∧
  (∀ (s : State) (vf : Nat) (j : BitVec 48) (b : Bool) (y : Xlat), j ≠ 0 → s.xlatVa vf (j.toNat * 64) .rw = some y → s.anyPoison y.loc 64 = false →
    let t := s.touch y.ptes true
    s.countFault vf j b = (if b then t.jcbFaultOnly y.loc else t.jcbCount y.loc vf true))


/-! ### The sequencer (R28 to R33, R38 to R40, R44, R49 to R54, R256 to R270, R489) -/

/-- Work enters and starts. A request is entered with status OK, refused with its status and a record, or dropped as GONE and counted when its
context no longer runs its record; an instance whose three inputs are ready becomes READY behind an open gate; a READY record is picked up
into a context, whose registers take the record's words, and issues once its load is complete; a waiting record becomes READY when its
condition holds (R28, R31 to R33, R258, R260, R266, R268, R269).
What logs 45, 49, 59, 60 and 88 fix is the model's choice or reading, not the spec's. -/
def Obligations.SequencerTakesWork : Prop :=
  (∀ (s : State) (cl : Nat) (r : LaunchReq) (q : List LaunchReq), (s.cluster cl).reqs = r :: q → s.reqReady r = true →
    let s1 := s.modCluster cl fun c => { c with reqs := q }
    (((s.ctx r.ctx).phase = .idle ∨ (s.ctx r.ctx).rcd ≠ r.rcd) → exec (.launchRequestArrival cl) s = .next ((s1.modCluster cl fun c => { c with errLaunch := satAdd c.errLaunch 1 }).postRec cl
      (s.mkRec stGONE 4 r.ctx 0 1 r.desc r.xb.toNat r.vf))) ∧
    (∀ st ds, (s.ctx r.ctx).phase ≠ .idle → (s.ctx r.ctx).rcd = r.rcd → s.launchStatus cl r = (st, ds) →
      let s2 := (s1.seenAt r.vf r.desc).deliver r.ctx r.seq (wide64 (BitVec.ofNat 64 st)) 0
      (st ≠ stOK → exec (.launchRequestArrival cl) s = .next (s2.postRec cl (s.mkRec st 4 r.ctx 0 1 r.desc r.xb.toNat r.vf))) ∧
      (st = stOK → ∃ t p, exec (.launchRequestArrival cl) s = .next t ∧ t.mem = (s1.seenAt r.vf r.desc).mem ∧ t.ctx r.ctx = s2.ctx r.ctx ∧ (t.cluster cl).reqs = q ∧
        (t.cluster cl).dep = (s.cluster cl).dep ++ [⟨ds, r.desc, r.xb.toNat % 2 ^ 32, r.xb.toNat / 2 ^ 32, r.vf, p, r.core, r.ctx, [], [], s.now⟩]))) ∧
  (∀ (s : State) (cl : Nat) (r : LaunchReq), r.xb.toNat / 2 ^ 32 = 0 → (s.launchStatus cl r).1 = stFAULT) ∧
  (∀ (s : State) (cl : Nat) (d : DepEntry), let t := s.scan cl
    (t.cluster cl).dep = [d] → 1 ≤ d.count → d.done = [] → d.mask d.first = 7 → t.gateOpen d.vf (cl / 8) = true → d.born < t.now →
    (∀ j ∈ d.open, d.since d.first ≤ d.since j) →
    exec (.admission cl 0 d.first) s = .next ((t.setDep cl 0 { d with done := [d.first] }).takeIn cl d d.first)) ∧
  (∀ (s : State) (cl e i : Nat) (d : DepEntry), let t := s.scan cl
    (t.cluster cl).dep[e]? = some d → (d.mask i ≠ 7 ∨ t.gateOpen d.vf (cl / 8) = false ∨ t.now ≤ d.born ∨ d.done.contains i = true ∨
      (∃ j, t.admissible cl d j = true ∧ d.since j < d.since i)) → exec (.admission cl e i) s = .next t) ∧
  (∀ (s : State) (d : DepEntry) (i : Nat), d.open.contains i = true → (s.look d).mask i = s.inputs d i ∧
    (s.look d).since i = if s.inputs d i = d.mask i then d.since i else s.now) ∧
  (∀ (s : State) (cl : Nat) (d : DepEntry) (i : Nat) (r : Vector W64 8), s.recWords d.vf (((d.desc.getD 1 0).toNat % 2 ^ 48 * 64 + 64 * i) % 2 ^ 64) = some r →
    r[7].toNat / 2 ^ 56 = 0 → malformed r = false → r[0].getLsbD 61 = s.detCluster d.part cl → ∃ ref : RecRef,
      ((s.takeIn cl d i).cluster cl).ready = (s.cluster cl).ready ++ [ref] ∧ ref.vf = d.vf ∧ ref.stamp = s.now ∧ ref.prio = (r[0].extractLsb' 56 4).toNat ∧
      ref.addr = ((d.desc.getD 1 0).toNat % 2 ^ 48 * 64 + 64 * i) % 2 ^ 64) ∧
  (∀ (s : State) (c : Nat) (r : RecRef), let cl := clusterOf (coreOf c)
    let t := s.teamsSeen cl
    isSeq (coreOf c) = false → r.tsize = 1 → t.queue cl = [r] → t.placeable cl [] r = true → t.placement cl c [] r = some [(r, c)] →
      exec (.pickUp c) s = .next (t.pickOne cl r c none)) ∧
  -- the sequencer looks at its table in every cycle, not only when it admits (R258, R260)
  (∀ (s : State) (cl : Nat), ((s.scan cl).cluster cl).dep = (s.cluster cl).dep.map s.look ∧ (s.clusters.keys = [cl] → s.scanAll = s.scan cl) ∧
    s.tick = s.chargeAll.scanAll.advance) ∧
  (∀ (s : State) (cl c : Nat) (r : RecRef) (w : Vector W64 8), s.recWords r.vf r.addr = some w → malformed w = false → r.evicted = none →
    let x := (s.pickOne cl r c none).ctx c
    x.phase = .loading ∧ x.pc = w[0].toNat % 2 ^ 54 ∧ x.getX 1 = w[2] ∧ x.getX 2 = w[3] ∧ x.getX 3 = w[4] ∧ x.getX 4 = w[5] ∧ x.getX 5 = 0 ∧
      x.r.schk = w[0].getLsbD 62 ∧ x.vf = r.vf ∧ x.rcd = r.addr ∧ x.inflight = [] ∧ x.idx = w[1].extractLsb' 48 16) ∧
  (∀ (s : State) (c : Nat), s.gang (s.leaderOf c) = [c] → (s.ctx c).phase = .loading → (s.ctx c).preds = [] → (s.ctx c).save = none →
    (∀ m ∈ c :: s.mates c, (s.ctx m).goingOut = false) →
    ∃ t, exec (.pickUpLoadComplete c) s = .next t ∧ (t.ctx c).phase = .run ∧ (t.ctx c).pc = (s.ctx c).pc ∧ (t.ctx c).r = (s.ctx c).r ∧ t.mem = s.mem) ∧
  (∀ (s : State) (cl i : Nat) (r : RecRef) (w : Vector W64 8), (s.cluster cl).waiting[i]? = some r → s.recWords r.vf r.addr = some w → malformed w = false →
    let seen := s.seenAt r.vf r.addr
    let looked := seen.waitSeen r.vf w[6]
    let gone (u : State) : State := u.modCluster cl fun q => { q with waiting := q.waiting.eraseIdx i }
    (s.waitMet r.vf w[6] w[5] = some true → exec (.waitConditionMet cl i) s = .next (((gone looked).recWrite r.vf r.addr 7 (withState w[7].toNat 1 0)).modCluster cl fun q =>
      { q with ready := q.ready ++ [{ r with stamp := s.now }] })) ∧
    (s.waitMet r.vf w[6] w[5] = some false → exec (.waitConditionMet cl i) s = .next looked) ∧
    (s.waitMet r.vf w[6] w[5] = none → exec (.waitConditionMet cl i) s = .next ((gone seen).faultRecord cl (cl / 8 * 64 * 4 + cl % 8 * 8 * 4) r.vf r.addr cXLAT false))) ∧
  (∀ (s : State) (vf : Nat) (w6 a : W64), w6.toNat / 2 ^ 60 = 3 → s.waitMet vf w6 a = some (decide ((BitVec.ofNat 64 s.ftb - a).toNat < 2 ^ 63)))

/-- Who runs. With no idle context the lowest-ranked team gives way to a record of higher PRIO; at the end of its quantum a team gives way to
another that awaits pick-up, or begins a new quantum; after 16 quanta a waiting team goes first; a frozen victim is saved, and its record
waits as EVICTED; a context held on an engine, or written back, gives issue to the next ready one in order two cycles later, and the last
holder gets it back after one; a WFE at its deadline is released (R44, R49, R52 to R54, R489).
What logs 46, 47 and 72 fix is the model's choice or reading, not the spec's. -/
def Obligations.SequencerSchedules : Prop :=
  (∀ (s : State) (cl : Nat) (r : RecRef) (v : Nat × Nat × Nat), s.queue cl = [r] → s.pressing cl r = true → s.victims cl r.vf = [v] → v.2.1 < r.prio →
    let ctxs := ((clusterCores cl).filter fun k => (s.core k).exposed).flatMap fun k => [0, 1, 2, 3].map fun i => k * 4 + i
    ((∀ c ∈ ctxs, (s.ctx c).phase ≠ .idle ∧ (s.ctx c).plan ≠ some 1) → (s.ctx v.1).barred = none → exec (.priorityPreemption cl) s = .next (s.preemptTeam v.1 1)) ∧
    ((∃ c ∈ ctxs, (s.ctx c).phase = .idle) → exec (.priorityPreemption cl) s = .next s)) ∧
  (∀ (s : State) (c : Nat), (s.ctx c).phase = .run → isSeq (coreOf c) = false → s.mates c = [c] → (s.ctx c).barred = none → (s.ctx c).goingOut = false →
    let x := s.ctx c
    (s.now < x.quantum + s.quantumOf x.part → exec (.teamQuantumExpiry c) s = .next s) ∧
    (x.quantum + s.quantumOf x.part ≤ s.now → (s.cluster (clusterOf (coreOf c))).ready = [] → exec (.teamQuantumExpiry c) s =
      .next (s.modCtx c fun y => { y with quantum := s.now, promoted := false, barred := none })) ∧
    (∀ r, x.quantum + s.quantumOf x.part ≤ s.now → (s.cluster (clusterOf (coreOf c))).ready = [r] → s.awaits (clusterOf (coreOf c)) r = true →
      ¬(r.team = x.team ∧ r.vf = x.vf ∧ 1 < r.tsize) → exec (.teamQuantumExpiry c) s = .next (s.preempt c 1))) ∧
  (∀ (s : State) (c p : Nat), (s.ctx c).phase = .run → ((s.preempt c p).ctx c).phase = .stopping ∧ ((s.preempt c p).ctx c).plan = some p ∧
    ((s.preempt c p).ctx c).trapCause = (s.ctx c).trapCause) ∧
  (∀ (s : State) (cl i : Nat) (r : RecRef), (s.cluster cl).ready = [r] → s.awaits cl r = true → r.tsize = 1 →
    ((s.rank cl r).2.2 + 16 * s.quantumOf r.part ≤ s.now → exec (.teamPromotion cl 0) s = .next (s.modCluster cl fun q => { q with ready := [{ r with promoted := true }] })) ∧
    (s.now < (s.rank cl r).2.2 + 16 * s.quantumOf r.part → exec (.teamPromotion cl i) s = .next s)) ∧
  (∀ (s : State) (c u : Nat), let s' := s.modCtx c fun x => x.landAllNextt s.now
    s.mates c = [c] → s.mayEvict c = true → s'.freeRun (s'.ctx c).part (s'.saveUnits c) = some u → ∃ t sv, exec (.eviction c) s = .next t ∧
    sv = (⟨coreOf c, u, s'.saveUnits c⟩ : SaveRef) ∧ (t.ctx c).phase = .idle ∧
    (t.cluster (clusterOf (coreOf c))).ready = (s.cluster (clusterOf (coreOf c))).ready ++ [{ s'.recRef c with evicted := some sv }] ∧
    (t.saved.find u).isSome = true) ∧
  (∀ (s : State) (k i c : Nat), (s.core k).switching = none → (s.core k).issuing = some i → (s.ctx (k * 4 + i)).phase = .run →
    ((s.ctx (k * 4 + i)).held = .engine ∨ (s.ctx (k * 4 + i)).held = .abr) →
    s.goes (k * 4 + i) = false → s.nextReady k i = some c →
    exec (.contextSwitch k) s = .next (s.modCore k fun q => { q with issuing := none, lastIssue := some i, switching := some (c, s.now + 2) })) ∧
  (∀ (s : State) (k c : Nat), (s.core k).switching = none → (s.core k).issuing = none → s.nextReady k ((s.core k).lastIssue.getD 3) = some c →
    exec (.contextSwitch k) s = .next (s.modCore k fun q => { q with
      issuing := none, switching := some (c, if (s.core k).lastIssue = some (c % 4) then s.now + 1 else s.now + 2) })) ∧
  (∀ (s : State) (k i c : Nat), (s.core k).switching = none → (s.core k).issuing = some i → (s.ctx (k * 4 + i)).phase ∈ [.idle, .loading, .frozen] →
    s.nextReady k i = some c → exec (.contextSwitch k) s = .next (s.modCore k fun q => { q with
      issuing := none, lastIssue := some i, switching := some (c, if i = c % 4 then s.now + 1 else s.now + 2) })) ∧
  (∀ (s : State) (k i : Nat), (s.core k).switching = none → (s.core k).issuing = some i → (s.ctx (k * 4 + i)).phase ∈ [.stopping, .leaving] →
    (s.ctx (k * 4 + i)).held = .none → exec (.contextSwitch k) s = .next s) ∧
  (∀ (s : State) (k c t : Nat), (s.core k).switching = some (c, t) → t ≤ s.now → (s.ctx c).phase = .run →
    exec (.contextSwitch k) s = .next (s.modCore k fun q => { q with switching := none, issuing := some (c % 4) })) ∧
  (∀ (s : State) (c : Nat), (s.ctx c).wfe ≠ none →
    (s.goes c = true → exec (.wfeDeadline c) s = .next (s.modCtx c fun x => { x with held := .none })) ∧ (s.goes c = false → exec (.wfeDeadline c) s = .next s))


/-! ### Agreement (R283 to R286, R289, R293, R296 to R300) -/

/-- An instance resolves at once when every LIVE member is present or lost, and LATE ticks after its first stamp, and a contribution that comes
later is absent; each contributing context is sent the
result: MISMATCH, then ABSENT or SHRUNK, then OK, with VALUE and DEC of the combine, which no order of arrival changes. EXCLUDE clears LIVE of the
absent members and counts one generation (R283, R289, R298, R299).
What log 43 fixes is the model's choice or reading, not the spec's. -/
def Obligations.AgreementResolves : Prop :=
  (∀ (s : State) (key : Nat) (g : Group) (i : Inst), s.hub.groups.find key = some g →
    let p := i.byMember g.members.length
    let gone := g.missing i
    let mis := (p.filter fun (c : Contribution) => decide (c.tag ≠ refTag p)).map fun c => c.member
    let t := s.resolveInst key g i
    ∃ (r : AgrRes) (h : Group) (later : List AgrMsg), t.hub.groups.find key = some h ∧
      t.msgs = s.msgs ++ i.got.filterMap (fun c => c.ctx.map fun x =>
        (⟨x, ((BitVec.ofNat 32 c.seq ++ c.tag : BitVec 48) ++ BitVec.ofNat 16 c.gid : BitVec 64), c.seq,
          if g.excl = true ∧ gone.contains c.member = true then r.absent else r⟩ : AgrMsg)) ++ later ∧
      (h.cut = false → later = []) ∧ (h.cut = true → g.cut = true ∨ h.insts = []) ∧
      r.status = (if mis ≠ [] then 1 else if gone = [] then 0 else if g.excl then 3 else 2) ∧
      ((r.status = 0 ∨ r.status = 3) → r.word.toNat / 2 ^ 32 = (combine g.op g.k p).1.toNat ∧ r.dec = (combine g.op g.k p).2) ∧
      ((r.status = 1 ∨ r.status = 2) → r.word.toNat / 2 ^ 32 = 0 ∧ r.dec = false) ∧
      r.word.toNat / 2 ^ 16 % 2 ^ 11 = p.length % 2 ^ 11 ∧ r.word.toNat % 2 ^ 16 = h.gen.toNat % 2 ^ 16 ∧
      r.pres = maskOf1024 (p.map fun c => c.member) ∧ r.mism = maskOf1024 mis ∧
      h.past = g.past ++ [(i.seq, r)] ∧ (∀ j ∈ h.insts, j.seq ≠ i.seq) ∧
      ((g.excl = false ∨ gone = []) → h.gen = g.gen ∧ h.members = g.members) ∧
      (g.excl = true → gone ≠ [] → h.gen = g.gen + 1 ∧ ∀ m q, g.members[m]? = some q →
        h.members[m]? = some (if gone.contains m then { q with live := false } else q))) ∧
  (∀ (s : State) (c : Contribution) (g : Group), s.contribs = [c] → s.hub.groups.find (groupKey c.vf c.gid) = some g → g.cut = false → g.insts = [] →
    (∀ q ∈ g.past, q.1 ≠ c.seq) → (g.members[c.member]?).map (fun q => q.live) = some true →
    let i : Inst := ⟨c.seq, c.stamp, [c], if (g.members[c.member]?).map s.memberLost = some true then [c.member] else []⟩
    let s1 := ({ s with contribs := [] } : State).modGroup (groupKey c.vf c.gid) fun g => { g with insts := [i] }
    ((∀ m ∈ g.missing i, ∀ q, g.members[m]? = some q → s.memberLost q = true) → exec (.agreeContributionArrival 0 none) s = .next (s1.resolveInst (groupKey c.vf c.gid) { g with insts := [i] } i)) ∧
    ((∃ m ∈ g.missing i, ∃ q, g.members[m]? = some q ∧ s.memberLost q = false) → exec (.agreeContributionArrival 0 none) s = .next s1)) ∧
  (∀ (s : State) (c : Contribution) (g : Group) (r : AgrRes), s.hub.groups.find (groupKey c.vf c.gid) = some g → g.past = [(c.seq, r)] →
    (∀ i ∈ g.insts, i.seq ≠ c.seq) →
    exec (.agreeContributionArrival 0 (some c)) s = .next s ∧
    ((g.members[c.member]?).map (fun q => q.live) = some true → s.contribute c = s.tell c r) ∧
    ((g.members[c.member]?).map (fun q => q.live) ≠ some true → s.contribute c = s.tell c r.absent ∧ r.absent.status = 2)) ∧
  (∀ (s : State) (vf gid seq : Nat) (g : Group) (i : Inst), s.hub.groups.find (groupKey vf gid) = some g →
    (g.insts.find? fun (i : Inst) => decide (i.seq = seq)) = some i →
    (g.late ≠ 0 → i.first + g.late ≤ s.ftb → exec (.agreeLateExpiry vf gid seq) s = .next (s.resolveFrom (groupKey vf gid) g i)) ∧
    (g.late ≠ 0 → i.first + g.late ≤ s.ftb → ∀ c : Contribution, groupKey c.vf c.gid = groupKey vf gid → c.seq = seq →
      s.contribute c = (s.resolveFrom (groupKey vf gid) g i).enterInst c) ∧
    ((g.late = 0 ∨ s.ftb < i.first + g.late) → exec (.agreeLateExpiry vf gid seq) s = .next s)) ∧
  -- what a resolution leaves with no member to wait for resolves with it (R298)
  (∀ (s : State) (key : Nat) (g : Group) (i : Inst), s.hub.groups.find key = some g → let t := s.resolveFrom key g i
    (∀ h, t.hub.groups.find key = some h → ∀ j ∈ h.insts, t.resolvable h j = false) ∧
    (∀ h, (s.resolveInst key g i).hub.groups.find key = some h → (∀ j ∈ h.insts, (s.resolveInst key g i).resolvable h j = false) → t = s.resolveInst key g i) ∧
    (s.resolvable g i = true ↔ ∀ m ∈ g.missing i, ∀ q, g.members[m]? = some q → m ∈ i.gone ∨ s.memberLost q = true)) ∧
  (∀ (g : Group) (i : Inst) (m : Nat), m ∈ i.gone → (g.members[m]?).map (fun q => q.live) = some true → m ∈ g.missing i ∧
    ∀ c ∈ i.byMember g.members.length, c.member ≠ m) ∧
  (∀ (s : State) (key p : Nat) (g : Group), s.hub.groups.find key = some g →
    ((p = s.hub.pkg ∨ s.hub.lost.contains p = true) → s.mayElect g = false → s.groupLoss (some p) key = s.cutGroup key g ∧
      ∃ h, (s.cutGroup key g).hub.groups.find key = some h ∧ h.cut = true ∧ h.insts = [] ∧ h.gen = g.gen ∧ h.members = g.members) ∧
    (p ≠ s.hub.pkg → s.hub.lost.contains p = false → g.insts = [] → ∃ h, (s.groupLoss (some p) key).hub.groups.find key = some h ∧ h.cut = g.cut) ∧
    -- a new root gets nothing again from the lost packages (R285)
    (s.hub.lost.contains p = true → s.mayElect g = true → ∀ h, (s.groupLoss (some p) key).hub.groups.find key = some h → ∀ j ∈ h.insts, ∀ m q, g.members[m]? = some q →
      s.hub.lost.contains q.pkg = true → m ∈ j.gone)) ∧
  (∀ (op k : Nat) (p q : List Contribution), p.Perm q → combine op k p = combine op k q) ∧
  (∀ (k : Nat) (p : List Contribution), let n := (p.filter fun (c : Contribution) => decide (c.value ≠ 0)).length
    combine 0 k p = (BitVec.ofNat 32 n, decide (n = p.length)) ∧ combine 1 k p = (BitVec.ofNat 32 n, decide (1 ≤ n)) ∧
    combine 2 k p = (BitVec.ofNat 32 n, decide (p.length < 2 * n)) ∧ combine 3 k p = (BitVec.ofNat 32 n, decide (k ≤ n)) ∧
    (∀ c ∈ p, (combine 4 k p).1.toInt ≤ c.value.toInt ∧ c.value.toInt ≤ (combine 5 k p).1.toInt) ∧
    (p ≠ [] → (∃ c ∈ p, c.value = (combine 4 k p).1) ∧ ∃ c ∈ p, c.value = (combine 5 k p).1) ∧
    (∀ op, 4 ≤ op → (combine op k p).2 = ((combine op k p).1 != 0)) ∧
    ∀ c : Contribution, (combine 6 k (p ++ [c])).1 = (combine 6 k p).1 + c.value) ∧
  (∀ (p : List Contribution) (c : Contribution), c ∈ p → (p.filter fun (d : Contribution) => decide (d.tag = c.tag)).length ≤
    (p.filter fun (d : Contribution) => decide (d.tag = refTag p)).length) ∧
  (∀ a b : Contribution, refTag [a, b] = a.tag)

/-- A result reaches the slots of its context that hold its ticket, and resolves the oldest prediction: where STATUS and DEC bear it out, what it
held back moves to the queues; where they do not, the registers go back to the ABRP's bundle, nothing of the arm stays, and the bundle decides as
the result says. A lost path ends the remote operations that depend on it (R286, R291, R293, R296, R297, R300).
What logs 43 and 78 fix is the model's choice or reading, not the spec's. -/
def Obligations.AgreementReturns : Prop :=
  (∀ (s : State) (m : AgrMsg), s.msgs = [m] → m.ctx < 4096 →
    let s1 := ({ s with msgs := [] } : State).modCtx m.ctx fun x => x.putResult m
    ((s.ctx m.ctx).preds = [] → exec (.agreeResultArrival 0) s = .next s1) ∧
    (∀ (p : Pred) (t : AgrSlot), (s.ctx m.ctx).preds = [p] → (s.ctx m.ctx).r.slots = [t] → t.ticket = m.ticket → t.seq = m.seq → p.ticket = m.ticket →
      (s.ctx m.ctx).basket = [] → (s.ctx m.ctx).killReport = none →
      ((m.res.status = 0 ∨ m.res.status = 3) → m.res.dec = p.dir → exec (.agreeResultArrival 0) s = .next (s1.release m.ctx)) ∧
      (((m.res.status ≠ 0 ∧ m.res.status ≠ 3) ∨ m.res.dec ≠ p.dir) →
        exec (.agreeResultArrival 0) s = .next (s1.drop m.ctx { p with regs := p.regs.putResult m } (m.res.decide p.target p.xm))))) ∧
  (∀ (x : Ctx) (m : AgrMsg), (x.putResult m).r = { x.r with slots := x.r.slots.map fun t =>
    if t.ticket = m.ticket ∧ t.seq = m.seq then { t with res := some m.res } else t }) ∧
  (∀ (r : AgrRes) (t : Nat) (xm : Option Nat), (r.status = 0 ∨ r.status = 3 → r.decide t xm = .branch (if r.dec then some t else none)) ∧
    (r.status = 1 → r.mm = false ∨ xm = none → r.decide t xm = .trap cMISMATCH) ∧ (∀ u, r.status = 1 → r.mm = true → xm = some u → r.decide t xm = .branch (some u)) ∧
    (r.status = 2 → r.decide t xm = .trap cABSENT)) ∧
  (∀ (s : State) (c : Nat) (p : Pred) (ls : List LEntry), let x := s.ctx c
    x.preds = [p] → x.basket = [(1, .mem ls [])] → x.killReport = none → x.rout = [] → (∀ e ∈ ls, e.alone = 0) →
    let y := (s.release c).ctx c
    y.lsq = x.lsq ++ ls ∧ y.preds = [] ∧ y.basket = [] ∧ y.r = x.r ∧ y.pc = x.pc ∧ y.pending = x.pending ∧ y.inflight = x.inflight ∧ (s.release c).mem = s.mem) ∧
  (∀ (s : State) (c : Nat) (p : Pred) (d : Decision), let x := s.ctx c
    let y := (s.drop c p d).ctx c
    y.preds = [] ∧ y.basket = [] ∧ y.lsq = x.lsq ∧ y.r.x = p.regs.x ∧ y.r.y = p.regs.y ∧ y.r.v = p.regs.v ∧ y.r.q = p.regs.q ∧ y.r.m = p.regs.m ∧ y.r.g = p.regs.g ∧
      y.r.slots = x.r.slots ∧ (∀ t ∈ y.inflight, t.seq < p.seq) ∧ y.held = .none ∧ (s.drop c p d).mem = s.mem ∧ (s.drop c p d).hub = s.hub ∧
      (∀ cause, d = .trap cause → y.agrTrap = some (cause, p.ticket)) ∧
      (p.regs.loopCnt = 0 → p.pending = none → y.pc = p.after ∧ (∀ t, d = .branch (some t) → y.pending = some t) ∧ (d = .branch none → y.pending = p.other))) ∧
  (∀ s : State, exec (.linkLoss s.hub.pkg) s = .next s) ∧
  (∀ (s : State) (pkg : Nat), pkg ≠ s.hub.pkg → ∃ t, exec (.linkLoss pkg) s = .next t ∧ t.hub.lost.contains pkg = true ∧ t.cores = s.cores ∧ t.clusters = s.clusters ∧
    t.now = s.now) ∧
  (∀ (s : State) (c : Nat) (r : REntry), (s.ctx c).rout = [r] → r.phase = 0 →
    (s.pathLost (coreOf c) r.op.va = false → s.loseRemote c = s) ∧
    (s.pathLost (coreOf c) r.op.va = true → (s.loseRemote c).mem = s.mem ∧ (s.loseRemote c).dies = s.dies ∧
      ((s.loseRemote c).ctx c).rout = [{ r with phase := 2, val := (deadValue r.op).1, psn := (deadValue r.op).2 }])) ∧
  (∀ (va v : Nat) (b : W64) (bs : List (Nat × Byte)), deadValue (.rmw va (.atom v b)) = (BitVec.ofNat 2048 (stPOISONED * 2 ^ 32), 0) ∧ deadValue (.store bs) = (0, 0) ∧
    deadValue (.rmw va (.stver b b)) = (BitVec.ofNat 2048 stPOISONED, 0) ∧ (deadValue (.load va 8 0 [])).2.getLsbD 0 = true)


/-! ### Engines (R149, R151, R161, R175, R188, R189, R229, R232, R236, R300 to R306, R322, R404 to R410) -/

/-- The engines of a core run their queues in order: a command starts once the memory operations before it have performed, reads its
descriptor, moves its bytes, and leaves the queue with its completion record when the event queue has room; a refused request waits for its hint
and is sent again, and the sixteenth refusal ends it RETRY_EXHAUSTED (R161, R175, R188, R189, R229, R232, R322, R405).
What logs 8, 9, 37 and 63 fix is the model's choice or reading, not the spec's. -/
def Obligations.EnginesRun : Prop :=
  (∀ (s : State) (k : Nat) (c : MatCmd) (q : List MatCmd), (s.core k).mq = c :: q → (s.core k).mrun = none →
    ((s.ctx c.ctx).lsqDone < c.mark → exec (.engineStart k .matrix) s = .next s) ∧
    (c.mark ≤ (s.ctx c.ctx).lsqDone → let w := s.storeWord k c.routine
      (w.getLsbD 63 = true → w.toNat / 2 ^ 12 % 2 ^ 51 = 0 → 64 ≤ w.toNat % 4096 → ∃ t r, exec (.engineStart k .matrix) s = .next t ∧ (t.core k).mrun = some r ∧
        r.word = w.toNat % 4096 ∧ r.sel = c.bank ∧ r.banks = 1#4 <<< c.bank ∧ r.ended = none ∧ r.loops = [] ∧ r.steps = 0 ∧ r.rgv = false ∧ r.zs = false ∧
        (t.core k).ver = (s.core k).ver ∧ (t.core k).mq = (s.core k).mq ∧ t.mem = s.mem) ∧
      ((w.getLsbD 63 = false ∨ w.toNat / 2 ^ 12 % 2 ^ 51 ≠ 0 ∨ w.toNat % 4096 < 64) → ∃ t r, exec (.engineStart k .matrix) s = .next t ∧ (t.core k).mrun = some r ∧
        r.ended = some (stFAULT, c.routine) ∧ (∀ b, b < 4 → t.version k b = if b = c.bank then s.version k b + 1 else s.version k b) ∧ t.mem = s.mem))) ∧
  (∀ (s : State) (k : Nat) (c : MatCmd) (q : List MatCmd) (r : MatRun) (st a : Nat), (s.core k).mq = c :: q → (s.core k).mrun = some r → r.ended = some (st, a) → r.cost ≤ s.now →
    (s.evRoom (clusterOf k) = false → exec (.engineComplete k .matrix) s = .next s) ∧
    (s.evRoom (clusterOf k) = true → ∃ t, exec (.engineComplete k .matrix) s = .next t ∧ (t.core k).mq = q ∧ (t.core k).mrun = none ∧ (t.core k).ver = (s.core k).ver ∧
      t.mem = s.mem ∧ (t.cluster (clusterOf k)).evq = (s.cluster (clusterOf k)).evq ++ [s.mkRec st 1 c.ctx r.done r.errs a c.tag.toNat c.vf])) ∧
  (∀ (s : State) (k : Nat) (c : MatCmd) (q : List MatCmd) (r : MatRun), (s.core k).mq = c :: q → (s.core k).mrun = some r → r.tries = 0 → r.cost ≤ s.now →
    exec (.engineAccess k .matrix) s = .next (s.runNext k)) ∧
  (∀ (s : State) (k : Nat) (c : CopyCmd) (q : List CopyCmd) (l : Nat) (pt : List Nat), (s.core k).cq = c :: q → (s.core k).crun = none → c.mark ≤ (s.ctx c.ctx).lsqDone → c.kind = 0 →
    s.engAcc k c.vf .rd c.desc 32 = .ok [(l, 32)] pt → (s.psnPieces c.desc [(l, 32)]).isSome = false →
    let d := (List.range 4).map fun i => s.rd64 (l + 8 * i)
    let r : CopyRun := ⟨d, 0, 0, 0, 0, 0, 0, 0, 0, s.now, none, none, []⟩
    (s.copyRefused c r = false → r.bytes ≠ 0 → ∃ t, exec (.engineStart k .copy) s = .next t ∧ (t.core k).crun = some r ∧ (t.core k).cq = c :: q) ∧
    (s.copyRefused c r = true → ∃ t u, exec (.engineStart k .copy) s = .next t ∧ (t.core k).crun = some u ∧ u.phase = 2 ∧ u.status = stFAULT ∧ u.addr = c.desc ∧ u.done = 0)) ∧
  (∀ (s : State) (k : Nat) (c : CopyCmd) (q : List CopyCmd) (va : Nat), (s.core k).cq = c :: q → (s.core k).crun = none → c.mark ≤ (s.ctx c.ctx).lsqDone → c.kind = 0 →
    s.engAcc k c.vf .rd c.desc 32 = .moving va → ∃ t r, exec (.engineStart k .copy) s = .next t ∧ (t.core k).crun = some r ∧ r.phase = 3 ∧ r.tries = 1 ∧
      r.wait = s.ftb + s.hint) ∧
  (∀ (s : State) (k : Nat) (c : CopyCmd) (q : List CopyCmd) (r : CopyRun) (a b : Nat), (s.core k).cq = c :: q → (s.core k).crun = some r → r.phase = 0 → r.tries = 0 →
    c.kind = 0 → r.pos < r.bytes → let src := r.w 0 + r.pos
    let dst := r.w 1 + r.pos
    let n := min (64 - dst % 64) (r.bytes - r.pos)
    -- a read and the write of what it read are two steps (R188)
    (r.buf = none → s.transferLost k c.vf src = false → s.transferLost k c.vf dst = false → s.engAcc k c.vf .rd src n = .ok [(a, n)] [] →
      exec (.engineAccess k .copy) s = .next (s.setRun k false { r with buf := some ((List.range n).map fun i => (s.mem.read (a + i), s.poisoned (a + i))), tries := 0 })) ∧
    (∀ data, r.buf = some data → data.length = n → (∀ x ∈ data, x.2 = false) → s.transferLost k c.vf dst = false → s.engAcc k c.vf .wr dst n = .ok [(b, n)] [] →
      s.poison = [] → s.mem.wf = true → ∃ t u, exec (.engineAccess k .copy) s = .next t ∧ (∀ i (h : i < data.length), t.mem.read (b + i) = data[i].1) ∧
      (∀ l, (l < b ∨ b + n ≤ l) → t.mem.read l = s.mem.read l) ∧ (t.core k).crun = some u ∧ u.pos = r.pos + n ∧ u.done = r.done + n ∧ u.errs = r.errs ∧ u.buf = none ∧
      u.phase = (if r.bytes ≤ r.pos + n then 2 else 0)) ∧
    -- a lost path ends the transfer FAULT at the address that it does not reach (R300)
    (r.buf = none → s.transferLost k c.vf src = true → exec (.engineAccess k .copy) s = .next (s.copyAbort k false r stFAULT src)) ∧
    (s.transferLost k c.vf src = false → s.transferLost k c.vf dst = true → exec (.engineAccess k .copy) s = .next (s.copyAbort k false r stFAULT dst))) ∧
  (∀ (s : State) (data : List (Byte × Bool)) (dst : List Nat), s.mem.wf = true → data.length = dst.length → dst.Nodup →
    (s.poison = [] → (∀ b ∈ data, b.2 = false) → (s.copyBytes data dst).2 = [] ∧
      ∀ (i : Nat) (h : i < data.length) (g : i < dst.length), (s.copyBytes data dst).1.mem.read dst[i] = data[i].1) ∧
    (∀ (i : Nat) (h : i < data.length) (g : i < dst.length), data[i].2 = true → dst[i] / 8 ∈ (s.copyBytes data dst).2 ∧
      (s.copyBytes data dst).1.poisoned dst[i] = true) ∧
    ∀ l, l ∉ dst → (s.copyBytes data dst).1.mem.read l = s.mem.read l) ∧
  (∀ (s : State) (k : Nat) (c : CopyCmd) (q : List CopyCmd) (r : CopyRun), r.phase = 2 → copyPad c r ≤ s.now →
    ((s.core k).cq = c :: q → (s.core k).crun = some r → (s.evRoom (clusterOf k) = false → exec (.engineComplete k .copy) s = .next s) ∧
      (s.evRoom (clusterOf k) = true → ∃ t, exec (.engineComplete k .copy) s = .next t ∧ (t.core k).cq = q ∧ (t.core k).crun = none ∧ t.mem = s.mem ∧
        (t.cluster (clusterOf k)).evq = (s.cluster (clusterOf k)).evq ++ [s.mkRec r.status 0 c.ctx r.done r.errs r.addr (r.w 3) c.vf])) ∧
    ((s.core k).gq = c :: q → (s.core k).grun = some r → s.evRoom (clusterOf k) = true → ∃ t, exec (.engineComplete k .gather) s = .next t ∧ (t.core k).gq = q ∧
      (t.core k).grun = none ∧ t.mem = s.mem ∧
      (t.cluster (clusterOf k)).evq = (s.cluster (clusterOf k)).evq ++ [s.mkRec r.status 2 c.ctx r.done r.errs r.addr (r.w 3) c.vf])) ∧
  (∀ (s : State) (k : Nat) (e : Engine) (n w : Nat), s.pendingTry k e = some (n + 1, w) → exec (.engineAccess k e) s = .next s ∧
    (w ≤ s.ftb → exec (.retryAfterExpiry k e) s = .next (s.engineStep k e)) ∧ (s.ftb < w → exec (.retryAfterExpiry k e) s = .next s)) ∧
  (∀ (s : State) (k : Nat) (g : Bool) (r : CopyRun) (va : Nat), 1 ≤ s.hint ∧ s.hint ≤ 65535 ∧
    (r.tries < 15 → s.copyBad k g r (.moving va) = s.bump.setRun k g { r with tries := r.tries + 1, wait := s.ftb + s.hint }) ∧
    (15 ≤ r.tries → s.copyBad k g r (.moving va) = s.bump.setRun k g { r with status := stRETRY, addr := va, errs := r.errs + 1, phase := 2 }) ∧
    s.copyBad k g r (.owner va) = s.setRun k g { r with status := stOWNER, addr := va, errs := r.errs + 1, phase := 2 } ∧
    s.copyBad k g r (.fail va) = s.setRun k g { r with status := stFAULT, addr := va, errs := r.errs + 1, phase := 2 } ∧
    s.copyBad k g r (.lost va) = s.copyAbort k g r stFAULT va ∧ s.copyAbort k g r stFAULT va = s.copyBad k g r (.fail va)) ∧
  (∀ (s : State) (k vf ofs n va o c : Nat) (f : Nat) (a : Acc), (s.place va = .own ofs → s.engPiece k vf va n a =
      if s.engineOk k ofs vf then .ok [(spLoc (s.key (s.owner k)) (k % 64) ofs, n)] [] else .owner va) ∧
    (s.pathLost k va = true → s.place va = .mem o f ∨ s.place va = .window o c ofs → s.engPiece k vf va n a = .lost va))

/-- The entries of a schedule run in table order, each at its slot and not before: SEND requantises the buffer and sends it, RADD adds what
arrived, RSTORE stores it, FLAG gives the flag unit its increment; a reserved field or a lost link ends the command FAULT at the entry's
table address, a failed translation at the failing address; poison goes on with the data; the record counts the bytes (R172, R303 to R306,
R322).
What logs 18, 27 and 77 fix is the model's choice or reading, not the spec's. -/
def Obligations.CollectivesRun : Prop :=
  (∀ (s : State) (k : Nat) (e : CollEnv) (data : List Byte) (psn : List Nat), s.collEnv k = some e →
    (s.collDue e = false → exec (.collSend k) s = .next s ∧ exec (.collRadd k ⟨data, psn⟩) s = .next s ∧ exec (.collRstore k ⟨data, psn⟩) s = .next s ∧ exec (.collFlag k) s = .next s) ∧
    (s.collDue e = true → (s.collBad e || s.collLost e) = true → exec (.collSend k) s = .next (s.collAbort e stFAULT (e.table + 64 + 16 * e.r.entry)) ∧
      exec (.collFlag k) s = .next (s.collAbort e stFAULT (e.table + 64 + 16 * e.r.entry))) ∧
    (s.collDue e = true → s.collBad e = false → s.collLost e = false →
      (e.opc = 0 → exec (.collSend k) s = .next (s.collSend e)) ∧ (e.opc = 1 → exec (.collRadd k ⟨data, psn⟩) s = .next (s.collReceive e data psn true)) ∧
      (e.opc = 2 → exec (.collRstore k ⟨data, psn⟩) s = .next (s.collReceive e data psn false)) ∧
      (e.opc = 3 → exec (.collFlag k) s = .next ((s.modColl k fun r => { r with phase := 1 }).pushIncr ((s.collHead e.table).2.2 + 8 * e.chunk) e.c.vf none (some (1024 + k)))) ∧
      (e.opc ≠ 0 → exec (.collSend k) s = .next s) ∧ (e.opc ≠ 3 → exec (.collFlag k) s = .next s)) ∧
    (s.core k).krun = some e.r ∧ e.k = k ∧ (s.collDue e = true → e.c.t0 + e.slot ≤ s.ftb ∧ e.r.phase = 0 ∧ e.r.ended = false)) ∧
  (∀ (s : State) (e : CollEnv) (l : Nat), (s.core e.k).krun = some e.r → e.scaled = false → e.link ≤ 4 →
    s.engAcc e.k e.c.vf .rd ((s.collHead e.table).2.1 + e.lofs) e.bytes = .ok [(l, e.bytes)] [] → s.poison = [] →
    s.collSend e = (s.modHub fun h => { h with payloads := h.payloads ++ [⟨linkSide e.k, e.link, e.c.idx, e.chunk, e.fmt,
      (List.range (e.bytes / 4)).map fun i => (encodeFmt e.fmt (f32 (wordAt (s.rd l e.bytes) i)) .rne true 0).1, [], []⟩] }).modColl e.k fun r =>
        { r with entry := r.entry + 1, done := r.done + e.bytes, tries := 0 }) ∧
  (∀ (s : State) (e : CollEnv) (p : Payload) (l : Nat) (add : Bool), (s.core e.k).krun = some e.r → e.link ≤ 4 → s.hub.payloads = [p] → p.src = e.link →
    p.dst = linkSide e.k → p.idx = e.c.idx → p.chunk = e.chunk → p.psn = [] → s.poison = [] → s.mem.wf = true →
    s.engAcc e.k e.c.vf (if add then .rw else .wr) ((s.collHead e.table).2.1 + e.lofs) e.bytes = .ok [(l, e.bytes)] [] → 4 ∣ e.bytes →
    let t := s.collReceive e [] [] add
    (∀ i, i < e.bytes / 4 → wordAt (t.rd l e.bytes) i =
      if add then accAdd (wordAt (s.rd l e.bytes) i) (widenPart p i) else widenPart p i) ∧
    (∀ j, (j < l ∨ l + e.bytes ≤ j) → t.mem.read j = s.mem.read j) ∧ t.hub.payloads = [] ∧
    (t.core e.k).krun = some { e.r with entry := e.r.entry + 1, done := e.r.done + e.bytes, tries := 0 }) ∧
  (∀ (s : State) (e : CollEnv) (data : List Byte) (psn : List Nat) (add : Bool), s.collIn e data psn = none → s.collReceive e data psn add = s) ∧
  (∀ (s : State) (e : CollEnv) (va : Nat), s.collRefused e (.fail va) = s.collAbort e stFAULT va ∧ s.collRefused e (.owner va) = s.collAbort e stOWNER va ∧
    s.collRefused e (.lost va) = s.collAbort e stFAULT va ∧ (e.opc ≤ 2 → e.k ≠ 512 → (s.collHead e.table).2.1 / 2 ^ 42 ≠ s.owner e.k → s.collBad e = true) ∧
    (15 ≤ e.r.tries → s.collRefused e (.moving va) = s.bump.collAbort e stRETRY va)) ∧
  (∀ (r : CollRun) (n a : Nat), n ≠ 0 → (r.poison n a).status = stPOISONED ∧ (r.poison n a).errs = r.errs + n ∧ (r.poison n a).ended = r.ended ∧
    (r.errs = 0 → (r.poison n a).addr = a)) ∧
  (∀ (p : Payload) (i : Nat), p.scales = [] → widenPart p i = if (decodeFmt p.fmt (p.data.getD i 0)).isNan then nan32 else rne32 (decodeFmt p.fmt (p.data.getD i 0))) ∧
  (∀ (s : State) (k : Nat) (c : CollCmd) (q : List CollCmd), (s.core k).kq = c :: q → (s.core k).krun = none → k < 512 →
    ((s.ctx c.ctx).lsqDone < c.mark → exec (.engineStart k .coll) s = .next s) ∧
    (c.mark ≤ (s.ctx c.ctx).lsqDone → ∃ t r, exec (.engineStart k .coll) s = .next t ∧ (t.core k).krun = some r ∧ r.entry = 0 ∧ r.done = 0 ∧ r.ended = false ∧
      (s.hub.scheds.find (schedKey (s.collPart c) 512 c.idx) = none → t = s.modCore k fun x => { x with krun := some r }))) ∧
  (∀ (s : State) (k : Nat) (c : CollCmd) (q : List CollCmd) (r : CollRun), (s.core k).kq = c :: q → (s.core k).krun = some r → r.ended = true → k < 512 →
    (s.evRoom (clusterOf k) = false → exec (.engineComplete k .coll) s = .next s) ∧
    (s.evRoom (clusterOf k) = true → ∃ t, exec (.engineComplete k .coll) s = .next t ∧ (t.core k).kq = q ∧ (t.core k).krun = none ∧ t.mem = s.mem ∧
      (t.cluster (clusterOf k)).evq = (s.cluster (clusterOf k)).evq ++ [s.mkRec r.status 3 c.ctx r.done r.errs r.addr 0 c.vf])) ∧
  (∀ (s : State) (k : Nat) (c : CollCmd) (q : List CollCmd) (r : CollRun), (s.core k).kq = c :: q → (s.core k).krun = some r → r.tries = 0 →
    exec (.engineAccess k .coll) s = .next (s.collEntry k (fun _ => true) [] []))


/-! ### Routines of the matrix engine (R142, R143, R210 to R228, R230, R236, R381, R385, R386, R390, R391, R432 to R436, R446, R454, R490 to R493) -/

/-- The control steps of a routine, where one runs on the core whose engine steps: MEND ends it, and the version of every bank that it selected
advances by one; ASEL selects a bank that is not busy for another command; ZSKIP sets the skip; LOOPM and MBR choose the next word; PADD adds to
a pointer; RAGG takes the next record. A step that faults, an ASEL of a bank that is busy for another command among them, ends the routine FAULT at
its word (R224, R226 to R230, R236, R390, R432, R434).
What logs 37, 74 and 76 fix is the model's choice or reading, not the spec's. -/
def Obligations.RoutineControl : Prop :=
  ∀ (s : State) (e : RunEnv) (q : List MatCmd), s.routine s.eng = some e → (s.core s.eng).mq = e.c :: q →
    let k := s.eng
    -- a step that faults: FAULT at its word, counted in ERRS, and every bank selected so far advances (R229, R230)
    let faults (i : Instr) : Prop := ∃ t, exec i s = .next t ∧ ((t.core k).mrun.map fun r => (r.ended, r.errs)) = some (some (stFAULT, e.r.word), e.r.errs + 1) ∧
      (∀ b, b < 4 → t.version k b = if e.r.banks.getLsbD b then s.version k b + 1 else s.version k b) ∧ t.mem = s.mem
    (∃ t, exec .mend s = .next t ∧ (∀ b, b < 4 → t.version k b = if e.r.banks.getLsbD b then s.version k b + 1 else s.version k b) ∧
      ((t.core k).mrun.bind fun r => r.ended) = some (if e.r.poisoned then stPOISONED else if e.r.clipped then stRAGGED else stOK, if e.r.errs = 0 then 0 else e.r.addr - 1) ∧
      t.mem = s.mem ∧ (t.core k).banks = (s.core k).banks) ∧
    (∀ b : BitVec 2, s.bankInBasket k b.toNat = false → (∀ c ∈ q, c.bank ≠ b.toNat) → ∃ t r, exec (.asel b) s = .next t ∧ (t.core k).mrun = some r ∧
      r.sel = b.toNat ∧ (∀ i, i < 4 → r.banks.getLsbD i = (e.r.banks.getLsbD i || decide (i = b.toNat))) ∧ (e.r.loops = [] → r.word = e.r.word + 1) ∧
      r.steps = e.r.steps + 1 ∧ t.mem = s.mem ∧ (t.core k).banks = (s.core k).banks) ∧
    (∀ b : BitVec 2, (s.bankInBasket k b.toNat = true ∨ ∃ c ∈ q, c.bank = b.toNat) → faults (.asel b)) ∧
    (∀ z : Bool, ∃ t r, exec (.zskip z) s = .next t ∧ (t.core k).mrun = some r ∧ r.zs = z ∧ r.sel = e.r.sel ∧ (e.r.loops = [] → r.word = e.r.word + 1) ∧ t.mem = s.mem) ∧
    (∀ (ms md : BitVec 3) (imm : W32), ∃ t c r, exec (.padd md 0 false imm) s = .next t ∧ (t.core k).mq = c :: q ∧ c.m = e.c.m.set md.toNat (e.m md + imm.signExtend 64) ∧
      (t.core k).mrun = some r ∧ (e.r.loops = [] → r.word = e.r.word + 1) ∧ t.mem = s.mem ∧
      ∃ u d, exec (.padd md ms true 0) s = .next u ∧ (u.core k).mq = d :: q ∧ d.m = e.c.m.set md.toNat (e.m md + e.m ms)) ∧
    (∀ (cm1 endw : BitVec 12), e.r.word < endw.toNat → e.r.loops.length < 4 → ∃ t r, exec (.loopm false 0 cm1 endw) s = .next t ∧ (t.core k).mrun = some r ∧
      r.word = e.r.word + 1 ∧ r.loops = (e.r.word + 1, endw.toNat, cm1.toNat + 1) :: e.r.loops) ∧
    (∀ (ms : BitVec 3) (endw : BitVec 12), e.r.word < endw.toNat → (e.m ms).toNat % 2 ^ 16 = 0 → ∃ t r, exec (.loopm true ms 0 endw) s = .next t ∧
      (t.core k).mrun = some r ∧ r.word = endw.toNat + 1 ∧ r.loops = e.r.loops) ∧
    (∀ (cm1 endw : BitVec 12), (4 ≤ e.r.loops.length ∨ endw.toNat ≤ e.r.word) → faults (.loopm false 0 cm1 endw)) ∧
    (∀ (cond ms : BitVec 3) (tgt : BitVec 12), cond.toNat ≤ 4 → (cond.toNat ≤ 2 → ms = 0) →
      let c := match cond.toNat with
        | 0 => true
        | 1 => e.r.re
        | 2 => !e.r.re
        | 3 => e.m ms == 0
        | _ => e.m ms != 0
      ∃ t r, exec (.mbr cond ms tgt) s = .next t ∧ (t.core k).mrun = some r ∧ (c = true → r.word = tgt.toNat ∧ r.loops = e.r.loops.filter fun l => decide (l.1 ≤ tgt.toNat ∧ tgt.toNat ≤ l.2.1)) ∧
        (c = false → e.r.loops = [] → r.word = e.r.word + 1) ∧ (t.core k).mq = (s.core k).mq ∧ t.mem = s.mem) ∧
    (∀ (cond ms : BitVec 3) (tgt : BitVec 12), 4 < cond.toNat → faults (.mbr cond ms tgt)) ∧
    (∀ ma mc : BitVec 3, ma ≠ mc → (e.m ma).toNat / 2 ^ 54 = 0 → (e.m ma).toNat % 16 = 0 →
      ((e.m mc).toNat % 2 ^ 32 = 0 → ∃ t r, exec (.ragg ma mc) s = .next t ∧ (t.core k).mrun = some r ∧ r.re = true ∧ r.rgv = false ∧ (t.core k).mq = (s.core k).mq ∧
        t.mem = s.mem) ∧
      (∀ l, (e.m mc).toNat % 2 ^ 32 ≠ 0 → s.runAcc e .rd (e.m ma).toNat 16 = .ok [(l, 16)] [] → s.poison = [] → ∃ t r c, exec (.ragg ma mc) s = .next t ∧
        (t.core k).mrun = some r ∧ r.re = false ∧ r.rgv = true ∧ r.rgf = s.rd l 16 / 2 ^ 32 % 2 ^ 32 ∧ r.rgc = s.rd l 16 / 2 ^ 64 % 2 ^ 32 ∧
        r.rgw = s.rd l 16 / 2 ^ 96 % 2 ^ 32 ∧ (t.core k).mq = c :: q ∧
        c.m = (e.c.m.set ma.toNat (e.m ma + 16)).set mc.toNat ((e.m mc &&& 0xFFFFFFFF00000000) ||| ((e.m mc - 1) &&& 0xFFFFFFFF)) ∧ t.mem = s.mem))

/-- The steps that load weights, stream rows into the selected bank, clear its rows and drain them: WLOAD and WGEN fill the array from planed
codes or from a generator; ASTREAM and AGEN add to a bank row the four groups of one activation row, in ascending order; ACLR makes rows +0;
ADRAIN writes the codes of a row (R142, R212 to R217, R222 to R225, R381).
What logs 37 and 75 fix is the model's choice or reading, not the spec's. -/
def Obligations.RoutineData : Prop :=
  (∀ (s : State) (e : RunEnv) (fmt : BitVec 4) (ma : BitVec 3) (ps : List (Nat × Nat)) (pt : List Nat), s.routine s.eng = some e → descBad (e.m ma) = false →
    (e.m ma).getLsbD 63 = false → fmt ≠ 0 → (e.m ma).toNat % 16 = 0 → s.runAcc e .rd ((e.m ma).toNat % 2 ^ 54) (2048 * fmtWidth fmt.toNat) = .ok ps pt →
    ∃ t, exec (.wload fmt false ma false 0) s = .next t ∧ (t.core s.eng).latch = some fmt.toNat ∧ (t.core s.eng).mxOn = false ∧
      (∀ i, i < 16384 → (t.core s.eng).cells.get i 0 = planed (s.rdPieces ps) (fmtWidth fmt.toNat) (i / 128) (i % 128)) ∧
      (t.core s.eng).wpsn = s.psnPieces ((e.m ma).toNat % 2 ^ 54) ps ∧ (t.core s.eng).banks = (s.core s.eng).banks) ∧
  (∀ (s : State) (e : RunEnv) (gn ma : BitVec 3) (tr : Bool), s.routine s.eng = some e → gFmt (e.g gn) ≠ 0 → gValid (e.g gn) = true →
    let d := e.m ma
    let i0 : W32 := BitVec.ofNat 32 (gRow (e.g gn) + d.toNat / 2 ^ 24 % 2 ^ 24)
    let j0 : W32 := BitVec.ofNat 32 (gCol (e.g gn) + d.toNat % 2 ^ 24)
    ∃ t, exec (.wgen gn tr ma) s = .next t ∧ (t.core s.eng).latch = some (gFmt (e.g gn)) ∧ (t.core s.eng).mxOn = false ∧ t.mem = s.mem ∧
      ∀ i, i < 16384 → (t.core s.eng).cells.get i 0 =
        let k : W32 := BitVec.ofNat 32 (i / 128)
        let j : W32 := BitVec.ofNat 32 (i % 128)
        if tr then genCode (s.runGen e) (e.g gn) (j0 + j) (i0 + k) else genCode (s.runGen e) (e.g gn) (i0 + k) (j0 + j)) ∧
  (∀ (s : State) (e : RunEnv) (fmt : BitVec 4) (pm1 : BitVec 5) (ma : BitVec 3) (row : BitVec 8) (l : Nat), s.routine s.eng = some e →
    (s.core s.eng).latch ≠ none → descBad (e.m ma) = false → (e.m ma).getLsbD 63 = false → (e.m ma).toNat % 16 = 0 → pm1.toNat < 24 → e.r.row = 0 →
    s.runAcc e .rd ((e.m ma).toNat % 2 ^ 54) (16 * (pm1.toNat + 2)) = .ok [(l, 16 * (pm1.toNat + 2))] [] →
    let x := actRow (s.rd l (16 * (pm1.toNat + 2))) (pm1.toNat + 1) fmt.toNat (s.psnPieces ((e.m ma).toNat % 2 ^ 54) [(l, 16 * (pm1.toNat + 2))])
    ∃ t, exec (.astream fmt pm1 ma row 0 false) s = .next t ∧ (t.core s.eng).banks = ((s.core s.eng).stream e.r.sel row.toNat (pm1.toNat + 1) x).banks ∧
      (t.core s.eng).cells = (s.core s.eng).cells ∧ t.mem = s.mem) ∧
  (∀ (s : State) (e : RunEnv) (gn ma : BitVec 3) (tr : Bool) (pm1 : BitVec 5) (row : BitVec 8), s.routine s.eng = some e → (s.core s.eng).latch ≠ none →
    gValid (e.g gn) = true → pm1.toNat < 24 → e.r.row = 0 →
    ∃ t, exec (.agen gn tr pm1 ma row 0 false) s = .next t ∧ t.mem = s.mem ∧
      (t.core s.eng).banks = ((s.core s.eng).stream e.r.sel row.toNat (pm1.toNat + 1) (genActRow (s.runGen e) (e.g gn) tr (e.m ma) (pm1.toNat + 1) 0)).banks) ∧
  (∀ (x : CoreSt) (b row p : Nat) (r : ActRow), let y := x.stream b row p r
    (∀ j, j < 128 → y.banks.get (bankKey b row j) 0 = [0, 1, 2, 3].foldl (fun (acc : W32) g =>
      accAdd acc (kgroup ((List.range 32).map fun k => let w := decodeFmt (x.latch.getD 0) (x.cells.get ((32 * g + k) * 128 + j) 0)
          if x.mxOn = true ∧ x.latch = some 9 then w.scale (-6) else w)
        (if x.mxOn then x.scales.get (128 * g + j) 127 else 127) (r.es.getD g 0) (r.nf.getLsbD g) ((r.a.drop (32 * g)).take 32) p)) (x.banks.get (bankKey b row j) 0)) ∧
    (∀ n, (∀ j, j < 128 → n ≠ bankKey b row j) → y.banks.get n 0 = x.banks.get n 0) ∧ y.cells = x.cells ∧ y.ver = x.ver) ∧
  (∀ (s : State) (e : RunEnv) (row nm1 : BitVec 8), s.routine s.eng = some e →
    (256 < row.toNat + nm1.toNat + 1 → exec (.aclr row nm1) s = .next (s.stepFault e)) ∧
    (row.toNat + nm1.toNat + 1 ≤ 256 → ∃ t, exec (.aclr row nm1) s = .next t ∧ t.mem = s.mem ∧
      (∀ r j, row.toNat ≤ r → r ≤ row.toNat + nm1.toNat → j < 128 → (t.core s.eng).banks.get (bankKey e.r.sel r j) 0 = 0 ∧ e.r.sel * 256 + r ∉ (t.core s.eng).bankPsn) ∧
      (∀ b r j, j < 128 → r < 256 → (b ≠ e.r.sel ∨ r < row.toNat ∨ row.toNat + nm1.toNat < r) →
        (t.core s.eng).banks.get (bankKey b r j) 0 = (s.core s.eng).banks.get (bankKey b r j) 0))) ∧
  (∀ (s : State) (e : RunEnv) (fmt : BitVec 4) (rm ma : BitVec 3) (sf clr : Bool) (row : BitVec 8) (l : Nat), s.routine s.eng = some e →
    descBad (e.m ma) = false → (e.m ma).getLsbD 63 = false → (e.m ma).toNat % 16 = 0 → rm.toNat < 4 → fmt.toNat < 14 → (fmt = 0 → sf = false) → e.r.row = 0 →
    let w := fmtWidth fmt.toNat
    s.runAcc e .wr ((e.m ma).toNat % 2 ^ 54) (16 * w) = .ok [(l, 16 * w)] [] → s.poison = [] → s.mem.wf = true → (s.core s.eng).bankPsn = [] →
    ∃ t, exec (.adrain fmt rm sf ma row 0 clr 0) s = .next t ∧
      t.rd l (16 * w) = ((List.range 128).foldr (fun j (acc : Nat) =>
        (encodeFmt fmt.toNat (f32 ((s.core s.eng).banks.get (bankKey e.r.sel row.toNat j) 0)) (rmOfBits rm) sf 0).1 + 2 ^ w * acc) 0) % 2 ^ (128 * w) ∧
      (∀ a, (a < l ∨ l + 16 * w ≤ a) → t.mem.read a = s.mem.read a) ∧
      (∀ j, j < 128 → (t.core s.eng).banks.get (bankKey e.r.sel row.toNat j) 0 = if clr then 0 else (s.core s.eng).banks.get (bankKey e.r.sel row.toNat j) 0) ∧
      (∀ n r j, j < 128 → r < 256 → (n ≠ e.r.sel ∨ r ≠ row.toNat) → (t.core s.eng).banks.get (bankKey n r j) 0 = (s.core s.eng).banks.get (bankKey n r j) 0))


/-! ### The command ring (R282, R303, R331 to R333, R336, R337, R340 to R342, R347, R350, R357 to R363) -/

/-- The hub runs the commands of the ring one at a time, each in the journal before it takes effect; STATUS and CMD_CI follow. A reserved OPC,
a reserved field or an operand that breaks a rule completes with FAULT and changes nothing; each command installs, removes or starts what
its operands say, and one that waits holds the ring; the image of a function leaves through the port, and an image that verifies installs its
function (R335 to R337, R340 to R342, R347, R357 to R363).
What logs 11, 17, 30, 54, 55, 79, 80 and 84 fix is the model's choice or reading, not the spec's. -/
def Obligations.CommandsRun : Prop :=
  (∀ (i : Instr) (op : Nat), (i, op) ∈ commandOps → ∀ s : State,
    (s.cmdHead = none → exec i s = .next s) ∧
    (∀ w, s.cmdHead = some w → s.hub.waiting = none →
      (s.journalUp = false → exec i s = .next s) ∧
      (s.journalUp = true → cmdOp w = 0 ∨ 13 < cmdOp w ∨ (cmdOp w = op ∧ w[0].toNat / 2 ^ 39 % 2 ^ 9 ≠ 0) → exec i s = .next ((s.begun w).completeCmd stFAULT)) ∧
      (cmdOp w ≠ op → 1 ≤ cmdOp w → cmdOp w ≤ 13 → exec i s = .next s))) ∧
  -- the journal has two copies, and a checkpoint follows every 2^20 commands (R350)
  (∀ (s : State) (w : Vector W64 8), (s.journalUp = true ↔ 1024 ∉ s.hub.lost ∧ 1026 ∉ s.hub.lost) ∧ (s.begun w).mem = s.mem ∧ (s.begun w).hub.begun = s.hub.begun + 1 ∧
    ((s.hub.begun + 1) % 2 ^ 20 ≠ 0 → (s.begun w).hub.journal = s.hub.journal ++ [.cmd w] ∧ (s.begun w).hub.mirror = s.hub.mirror ++ [.cmd w] ∧
      (s.begun w).hub.checkpoint = s.hub.checkpoint) ∧
    ((s.hub.begun + 1) % 2 ^ 20 = 0 → (s.begun w).hub.journal = [] ∧ (s.begun w).hub.mirror = [] ∧
      (s.begun w).hub.checkpoint = s.hub.checkpoint.replay (s.hub.journal ++ [.cmd w]))) ∧
  (∀ (s : State) (st : Nat), let t := s.completeCmd st
    t.hub = { s.hub with cmdCi := s.hub.cmdCi + 1, waiting := none } ∧
    (s.mem.wf = true → s.poison = [] → t.mem.read (s.cmdLoc + 6) = BitVec.ofNat 8 st ∧ ∀ l, l ≠ s.cmdLoc + 6 → t.mem.read l = s.mem.read l)) ∧
  (∀ (s : State) (w : Vector W64 8), s.Commands 1 w → let b := s.begun w
    let d := b.eight (arg w 1)
    let p := d[0].toNat / 2 ^ 58
    (b.partBad d = true → exec .partSet s = .next (b.completeCmd stFAULT)) ∧
    (b.partBad d = false → s.hub.parts.find p = none →
      exec .partSet s = .next (((b.modHub fun h => { h with parts := h.parts.set p (Part.new d s.ftb) }).applyDesc d).completeCmd stOK)) ∧
    (∀ q, b.partBad d = false → s.hub.parts.find p = some q →
      exec .partSet s = .next ((b.modHub fun h => { h with parts := h.parts.set p { q with next := some d } }).completeCmd stOK))) ∧
  (∀ (s : State) (d : Vector W64 8) (k : Nat), k ∈ descCores d → (d[7].toNat / 64 % 64 = 0 → ((s.applyDesc d).core k).mpwLimit = 0) ∧
    ((s.applyDesc d).core k).spk = d[0].toNat / 2 ^ 54 % 16 ∧ ((s.applyDesc d).core k).mpwBase = BitVec.ofNat 64 (64 * (d[7].toNat / 64 % 64))) ∧
  (∀ (s : State) (w : Vector W64 8), s.Commands 2 w → let b := s.begun w
    let d : Vector W64 16 := Vector.ofFn fun (i : Fin 16) => b.hs (arg w 1) i.val
    let v := d[0].toNat / 2 ^ 56 % 128
    ((d[0].toNat / 2 ^ 63 = 0 ∨ 95 < v ∨ d[0].toNat / 2 ^ 40 % 256 = 0 ∨ 100 < d[0].toNat / 2 ^ 40 % 256 ∨ d[11].toNat < 16 ∨
      d[0].setWidth 32 = Config.supervisorKey s.hub.images) → exec .vfSet s = .next (b.completeCmd stFAULT)) ∧
    (d[0].toNat / 2 ^ 63 = 1 → v ≤ 95 → d[0].toNat / 2 ^ 48 % 4 = 0 → d[0].toNat / 2 ^ 32 % 256 = 0 → 1 ≤ d[0].toNat / 2 ^ 40 % 256 → d[0].toNat / 2 ^ 40 % 256 ≤ 100 →
      (∀ i ∈ [2, 3, 4, 5, 6, 7, 8, 9], (d.toList.getD i 0).toNat % 2 ^ 15 = 0) → d[10].toNat % 64 = 0 → d[11].toNat / 2 ^ 16 = 0 → 16 ≤ d[11].toNat →
      (∀ i ∈ [12, 13, 14, 15], (d.toList.getD i 0).toNat % 4096 = 0) → d[0].setWidth 32 ≠ Config.supervisorKey s.hub.images →
      ((b.vfBusy v || b.vfMoves v) = true → exec .vfSet s = .next (b.completeCmd stQUOTA)) ∧
      ((b.vfBusy v || b.vfMoves v) = false → exec .vfSet s = .next ((b.modHub fun h => { h with vfs := h.vfs.set v (match s.hub.vfs.find v with
        | some u => ⟨d, 0, 0, false, u.graph, u.endpoint⟩
        | none => ⟨d, 0, 0, false, Table.empty, 0⟩) }).completeCmd stOK)))) ∧
  (∀ (s : State) (w : Vector W64 8), s.Commands 3 w → ∃ t marks, exec .inval s = .next t ∧ t.hub.waiting = some marks ∧ t.hub.cmdCi = s.hub.cmdCi ∧ t.mem = s.mem ∧
    (∀ c x, (c, x) ∈ s.ctxs.l → x.vf = cmdVf w → (c, x.lsqDone + x.lsq.length + x.basketEntries) ∈ marks) ∧
    ∀ c x, (c, x) ∈ s.ctxs.l → x.vf = cmdVf w → arg w 3 % 16 / 2 ^ dieOf (coreOf c) % 2 = 1 →
      ∃ y, (c, y) ∈ t.ctxs.l ∧ ∀ q ∈ y.pins, q.live = true → ¬(arg w 1 < q.ipa * 64 + 64 ∧ q.ipa * 64 < arg w 1 + arg w 2)) ∧
  (∀ (s : State) (w : Vector W64 8) (marks : List (Nat × Nat)), s.cmdHead = some w → s.hub.waiting = some marks → cmdOp w = 3 →
    ((∀ m ∈ marks, m.2 ≤ (s.ctx m.1).lsqDone ∨ ((s.ctx m.1).lsq = [] ∧ (s.ctx m.1).basketEntries = 0)) →
      (∀ v ∈ s.saved.l, v.2.ctx.vf = cmdVf w → v.2.ctx.basketEntries = 0) → (∀ d, d < 4 → (s.die d).flags = []) → exec .inval s = .next (s.completeCmd stOK)) ∧
    ((∃ m ∈ marks, (s.ctx m.1).lsqDone < m.2 ∧ ((s.ctx m.1).lsq ≠ [] ∨ (s.ctx m.1).basketEntries ≠ 0)) → exec .inval s = .next s)) ∧
  (∀ (s : State) (w : Vector W64 8), s.Commands 4 w → let b := s.begun w
    let a := arg w 1
    let vf := (b.hs a 0).toNat / 2 ^ 26 % 128
    let key := groupKey vf ((b.hs a 0).toNat / 2 ^ 48)
    (b.groupBad a = true → exec .groupSet s = .next (b.completeCmd stFAULT)) ∧
    (b.groupBad a = false → s.hub.groups.l.length < 256 → ∃ t g, exec .groupSet s = .next t ∧ t.hub.groups.find key = some g ∧
      g.members.length = (b.hs a 0).toNat / 2 ^ 38 % 2 ^ 10 + 1 ∧ (∀ q ∈ g.members, q.live = true ∧ q.next = 0) ∧ g.insts = [] ∧ g.past = [] ∧
      g.cut = b.cutFrom g ∧ g.gen = (match s.hub.groups.find key with
        | some h => h.gen
        | none => 0) ∧ t.hub.cmdCi = s.hub.cmdCi + 1)) ∧
  (∀ (s : State) (w : Vector W64 8), s.Commands 5 w → let b := s.begun w
    let key := groupKey (cmdVf w) (arg w 1 % 2 ^ 16)
    (s.hub.groups.find key = none → exec .groupDel s = .next (b.completeCmd stFAULT)) ∧
    (∀ g, s.hub.groups.find key = some g →
      exec .groupDel s = .next (((b.absentAll g).modHub fun h => { h with groups := h.groups.del key }).completeCmd stOK))) ∧
  (∀ (s : State) (w : Vector W64 8) (p : Nat), s.Commands 6 w → let b := s.begun w
    (arg w 3 < 256 ∧ b.corePart (arg w 3) = some p) ∨ (arg w 3 = 512 ∧ b.partOf (cmdVf w) = some p) →
    (b.schedBad (arg w 3) (arg w 1) = true → exec .schedSet s = .next (b.completeCmd stFAULT)) ∧
    -- a buffer outside the memory of the participant's die (R303)
    (arg w 3 ≠ 512 → (b.hs (arg w 1) 1).toNat / 2 ^ 42 ≠ s.owner (arg w 3) → b.schedBad (arg w 3) (arg w 1) = true) ∧
    (b.schedBad (arg w 3) (arg w 1) = false → exec .schedSet s =
      .next ((b.modHub fun h => { h with scheds := h.scheds.set (schedKey p (arg w 3) (arg w 2 % 256)) (arg w 1) }).completeCmd stOK))) ∧
  (∀ (s : State) (w : Vector W64 8), s.Commands 7 w → let b := s.begun w
    let d (i : Nat) : W64 := b.hs (arg w 1) i
    let q := (d 0).toNat / 2 ^ 44 % 4096
    (((d 0).toNat % 2 ^ 44 ≠ 0 ∨ 95 < (d 0).toNat / 2 ^ 56 % 128) → exec .queueSet s = .next (b.completeCmd stFAULT)) ∧
    ((d 0).toNat % 2 ^ 44 = 0 → (d 0).toNat / 2 ^ 56 % 128 ≤ 95 →
      ((d 0).toNat / 2 ^ 63 = 0 → exec .queueSet s = .next ((b.modHub fun h => { h with queues := h.queues.del q }).completeCmd stOK)) ∧
      ((d 0).toNat / 2 ^ 63 ≠ 0 → ∃ t e, exec .queueSet s = .next t ∧ t.hub.queues.find q = some e ∧ e.vf = (d 0).toNat / 2 ^ 56 % 128 ∧ e.ring = d 1 ∧ e.lastSeq = d 2 ∧
        e.badTag = 0 ∧ e.replay = 0 ∧ e.pi = 0 ∧ t.hub.badTags.find q = none ∧ e.key.extractLsb' 0 64 = d 4 ∧ e.key.extractLsb' 192 64 = d 7))) ∧
  (∀ (s : State) (w : Vector W64 8), s.Commands 8 w → let b := s.begun w
    let p := arg w 1 % 64
    (∀ q, s.hub.parts.find p = some q → s.partOf (cmdVf w) = some p → exec .switch s = .next (b.modHub fun h => { h with
      parts := h.parts.set p { q with incoming := some (cmdVf w), cmdWaits := true }, waiting := some [] })) ∧
    ((s.hub.parts.find p = none ∨ s.partOf (cmdVf w) ≠ some p) → exec .switch s = .next (b.completeCmd stFAULT))) ∧
  (∀ (s : State) (w : Vector W64 8), let b := s.begun w
    let p := arg w 1 % 64
    (∀ q, s.hub.parts.find p = some q → (s.Commands 9 w → exec .partReset s = .next ((b.resetPartition p).completeCmd stOK)) ∧
      (s.Commands 10 w → exec .readmit s = .next ((b.modHub fun h => { h with parts := h.parts.set p { q with reset := false } }).completeCmd stOK))) ∧
    (s.hub.parts.find p = none → (s.Commands 9 w → exec .partReset s = .next (b.completeCmd stFAULT)) ∧
      (s.Commands 10 w → exec .readmit s = .next (b.completeCmd stFAULT)))) ∧
  (∀ (s : State) (w : Vector W64 8), s.Commands 11 w → let b := s.begun w
    ((256 ≤ arg w 1 ∨ (s.core (arg w 1)).exposed = false) → exec .coreRetire s = .next (b.completeCmd stFAULT)) ∧
    (arg w 1 < 256 → (s.core (arg w 1)).exposed = true → exec .coreRetire s =
      .next ((b.modCore (arg w 1) fun q => { q with retiring := true }).modHub fun h => { h with waiting := some [] }))) ∧
  (∀ (s : State) (w : Vector W64 8) (m : List (Nat × Nat)), s.cmdHead = some w → s.hub.waiting = some m → cmdOp w = 11 →
    (s.coreEmpty (arg w 1) = false → exec .coreRetireMapping s = .next s) ∧
    (s.coreEmpty (arg w 1) = true → exec .coreRetireMapping s = .next ((s.retireMap (arg w 1)).completeCmd stOK))) ∧
  (∀ (s : State) (k sp : Nat) (r : List Nat), (s.die (dieOf k)).spares = sp :: r → let t := s.retireMap k
    (t.core k).phys = sp ∧ (t.core k).retiring = false ∧ (t.core k).exposed = (s.core k).exposed ∧ (t.die (dieOf k)).spares = r ∧ t.mem = s.mem) ∧
  (∀ (s : State) (k : Nat), (s.die (dieOf k)).spares = [] → let t := s.retireMap k
    (t.core k).exposed = false ∧ (t.core k).retiring = false ∧ (t.die (dieOf k)).replace = true) ∧
  (∀ (s : State) (w : Vector W64 8), s.Commands 12 w → let b := s.begun w
    (b.mayMigrate (cmdVf w) = false → exec .migrateOut s = .next (b.completeCmd stQUOTA)) ∧
    (∀ v, b.mayMigrate (cmdVf w) = true → s.hub.vfs.find (cmdVf w) = some v → ∃ t, exec .migrateOut s = .next t ∧ t.hub.waiting = some [] ∧
      t.hub.vfs.find (cmdVf w) = some { v with migrating := true } ∧ t.mem = s.mem ∧ t.fresh = s.fresh + 1 ∧
      t.hub.sent = s.hub.sent ++ [(32 + arg w 1, Config.imageOut (b.imageOf (cmdVf w)) s.fresh, [])])) ∧
  (∀ (s : State) (w : Vector W64 8) (m : List (Nat × Nat)), s.cmdHead = some w → s.hub.waiting = some m → cmdOp w = 12 →
    (Config.targetAnswers s.fresh = true → ∃ t, exec .migrateOut s = .next t ∧ t.hub.vfs.find (cmdVf w) = none ∧
      t.hub.guests.find (cmdVf w) = none ∧ t.hub.hs.place.find (cmdVf w) = none ∧ t.hub.waiting = none ∧ t.hub.cmdCi = s.hub.cmdCi + 1) ∧
    (∀ v, Config.targetAnswers s.fresh = false → s.hub.vfs.find (cmdVf w) = some v → ∃ t, exec .migrateOut s = .next t ∧
      t.hub.vfs.find (cmdVf w) = some { v with migrating := false } ∧ t.hub.waiting = none ∧ t.hub.cmdCi = s.hub.cmdCi + 1)) ∧
  (∀ (s : State) (w : Vector W64 8), s.Commands 13 w → let b := s.begun w
    let img := b.received (arg w 1)
    let key : W32 := (Config.imageWord img 0).setWidth 32
    ((imageVerifies img = false ∨ 95 < cmdVf w ∨ key = Config.supervisorKey s.hub.images) → exec .migrateIn s = .next (b.completeCmd stFAULT)) ∧
    (imageVerifies img = true → cmdVf w ≤ 95 → key ≠ Config.supervisorKey s.hub.images → (b.vfBusy (cmdVf w) || b.vfMoves (cmdVf w)) = true →
      exec .migrateIn s = .next (b.completeCmd stQUOTA)) ∧
    (imageVerifies img = true → cmdVf w ≤ 95 → key ≠ Config.supervisorKey s.hub.images → (b.vfBusy (cmdVf w) || b.vfMoves (cmdVf w)) = false →
      ∃ t v, exec .migrateIn s = .next t ∧ t.hub.vfs.find (cmdVf w) = some v ∧ v.migrating = false ∧
      t.hub.guests.find (cmdVf w) = some (Guest.ofNats (Config.imageGuest img)) ∧ t.hub.pkg = (Config.imageWord img 16).toNat % 2 ^ 10 ∧ t.hub.home = s.hub.home ∧
      v.tqProd = 0 ∧ v.tqCons = 0 ∧ v.d[0].toNat / 2 ^ 63 = 1 ∧ v.d[0].toNat / 2 ^ 56 % 128 = cmdVf w ∧ t.hub.cmdCi = s.hub.cmdCi + 1))

/-- A partition's reset: no context of its cores holds a record any longer, its records leave the sequencers, and its engines and arrays
return to their first state, its banks and weights as at reset; it is marked as in reset, until READMIT. An uncorrectable error makes its dword or register poison, and one in shared
state resets the partition (R210, R236, R320, R331 to R333, R373).
What logs 52, 53 and 64 fix is the model's choice or reading, not the spec's. -/
def Obligations.PartitionResets : Prop :=
  (∀ (s : State) (p : Nat) (q : Part), s.hub.parts.find p = some q → let t := s.resetPartition p
    (∀ c, coreOf c < 256 → s.partHolds p (coreOf c) = true → (t.ctx c).phase = .idle) ∧
    (∀ k, k < 256 → s.partHolds p k = true → (t.core k).mq = [] ∧ (t.core k).mrun = none ∧ (t.core k).cq = [] ∧ (t.core k).crun = none ∧ (t.core k).gq = [] ∧
      (t.core k).grun = none ∧ (t.core k).kq = [] ∧ (t.core k).krun = none ∧ (t.core k).latch = none ∧ (t.core k).banks = Table.empty ∧ (t.core k).cells = Table.empty ∧
      (∀ b, b < 4 → t.version k b = 0)) ∧
    (∀ cl, (∀ r ∈ (t.cluster cl).ready, r.part ≠ p) ∧ (∀ r ∈ (t.cluster cl).waiting, r.part ≠ p) ∧ ∀ r ∈ (t.cluster cl).dep, r.part ≠ p) ∧
    (∃ u, t.hub.parts.find p = some u ∧ u.reset = true)) ∧
  (∀ (s : State) (p n : Nat), exec (.eccUncorrectableError (.shared p (.sequencer n))) s = .next (s.resetPartition p) ∧
    exec (.eccUncorrectableError (.shared p (.ownerMap n))) s = .next (s.resetPartition p) ∧
    exec (.eccUncorrectableError (.shared p (.mmu n))) s = .next (s.resetPartition p) ∧
    exec (.eccUncorrectableError (.shared p (.l2 n))) s = .next ((s.countErr n 1).resetPartition p)) ∧
  (∀ (s : State) (k b row : Nat), b < 4 → row < 256 → ∃ t, exec (.eccUncorrectableError (.bank k b row)) s = .next t ∧ b * 256 + row ∈ (t.core k).bankPsn ∧
    (t.core k).banks = (s.core k).banks ∧ t.mem = s.mem) ∧
  (∀ (s : State) (k : Nat), ∃ t, exec (.eccUncorrectableError (.weights k)) s = .next t ∧ (t.core k).wpsn ≠ none ∧ (t.core k).cells = (s.core k).cells ∧
    t.mem = s.mem) ∧
  (∀ (s : State) (l : Nat), ∃ t, exec (.eccUncorrectableError (.dword l)) s = .next t ∧ t.poisoned l = true ∧ t.mem = s.mem ∧
    ∀ m, s.poisoned m = true → t.poisoned m = true) ∧
  (∀ (s : State) (c n l : Nat), 0 < n → n < 32 → (∃ t, exec (.eccUncorrectableError (.register c 0 n l)) s = .next t ∧ (t.ctx c).r.xp.getLsbD n = true ∧
      (t.ctx c).r.x = (s.ctx c).r.x ∧ t.mem = s.mem) ∧
    ∃ t, exec (.eccUncorrectableError (.register c 1 n l)) s = .next t ∧ (t.ctx c).r.yp.getLsbD n = true ∧ (t.ctx c).r.y = (s.ctx c).r.y)


/-! ### The hub (R2, R13, R204, R300, R335, R338, R339, R344 to R351, R370 to R373) -/

/-- The hub boots, watches its harts, takes notifies of work, and its registers are written: after a march test with no failing core every core is
exposed, every store holds the library and every sequencer context is at the firmware, a failing core's number goes to the lowest spare, and
eight images that fail leave BOOT_FAIL; a hart without a heartbeat for 300 µs is reset by another, and the ring pauses; a notify counts as
bad, as a replay, or moves the queue's producer; CMD_BASE and CMD_SIZE are written on an empty ring alone; the registers read back, the TRESP
pages as 0, and a peer learns of a replacement asked for (R7, R13, R256, R338, R339, R344 to R349, R351, R363, R370, R371).
What logs 5, 11, 19, 29, 56, 71, 73, 80, 82, 83, 84 and 91 fix is the model's choice or reading, not the spec's. -/
def Obligations.HubEvents : Prop :=
  (∀ (s : State) (i : Image) (p : Option Nat) (got : List (Option Nat × Image)), imageOk s.hub.fuse s.hub.fuseKey i = true →
    s.hub.flash = some i ∨ (s.hub.flash = none ∧ got = [(p, i)]) → ∃ t, exec (.powerOn [] got) s = .next t ∧ t.hub.booted = true ∧ t.hub.bootFail = false ∧ t.hub.supDown = false ∧
    t.hub.hartRun = 0xFF ∧ (∀ x ∈ t.hub.harts.toList, x = { Hart.zero with level := .hs }) ∧ t.hub.fuseKey = s.hub.fuseKey ∧ t.hub.pkg = s.hub.pkg ∧ t.hub.home = s.hub.home ∧ t.now = s.now ∧ t.mem = (State.reset.storeBytes (imageFirmware i)).mem ∧ t.clusters = State.reset.clusters ∧
    (∀ c, c < 1024 → t.ctx c = Ctx.idle) ∧ (∀ c, c < 128 → t.ctx (1024 + c) = firmwareCtx i s.now) ∧ t.hub.flash = some i ∧ t.hub.images = s.hub.images + 1 ∧
    t.hub.cmdPi = 0 ∧ t.hub.cmdCi = 0 ∧ t.hub.cmdSize = 4 ∧ ∀ k, k < 256 → (t.core k).library = true ∧ (t.core k).exposed = true ∧ (t.core k).phys = k % 64) ∧
  (∀ (s : State) (failed : List Nat) (got : List (Option Nat × Image)), (∀ p ∈ got, imageOk s.hub.fuse s.hub.fuseKey p.2 = false) →
    (∀ i, s.hub.flash = some i → imageOk s.hub.fuse s.hub.fuseKey i = false) → 8 ≤ got.length → ∃ t, exec (.powerOn failed got) s = .next t ∧ t.hub.bootFail = true ∧
    t.hub.booted = false ∧ t.ctxs = State.reset.ctxs) ∧
  (∀ (s : State) (d f : Nat), d < 4 → f < 64 → (s.core (d * 64 + f)).exposed = true → let t := s.bootDie [d * 68 + f] d
    (t.core (d * 64 + f)).phys = 64 ∧ (t.core (d * 64 + f)).exposed = true ∧ (t.die d).spares = [65, 66, 67] ∧ (t.die d).replace = (s.die d).replace) ∧
  (∀ (s : State) (h : Nat), h < 8 →
    ((s.hartUp h && decide (s.seen h + ticksOf 100 ≤ s.ftb)) = true → ∃ t, exec (.heartbeat h) s = .next t ∧ t.seen h = s.ftb ∧
      t.hub.hbeat.toList.getD h 0 = s.hub.hbeat.toList.getD h 0 + 1 ∧ t.hub.hartRun = s.hub.hartRun ∧ t.mem = s.mem) ∧
    ((s.hartUp h = false ∨ s.ftb < s.seen h + ticksOf 100) → exec (.heartbeat h) s = .next s) ∧
    (∀ v, s.hartUp h = true → s.seen h + ticksOf 300 ≤ s.ftb → v < 8 → v ≠ h → s.hartUp v = true → ∃ t, exec (.heartbeatTimeout h) s = .next t ∧
      t.hartUp h = false ∧ t.hartUp v = true ∧ t.ringRuns = false ∧ t.hub.harts.toList.getD h Hart.zero = Hart.zero ∧
      -- what the hart knew of the guests placed on it is lost, the journal is not (R348)
      (∀ f, s.placedOn h f = true → t.hub.hs.place.find f = none ∧ t.hub.hs.handler.find f = none) ∧
      (∀ f, s.placedOn h f = false → t.hub.hs.place.find f = s.hub.hs.place.find f) ∧ t.hub.journal = s.hub.journal ∧ t.hub.mirror = s.hub.mirror) ∧
    (s.ftb < s.seen h + ticksOf 300 → exec (.heartbeatTimeout h) s = .next s) ∧
    (s.hub.booted = true → s.hub.supDown = false → s.hartUp h = false → (∀ r ∈ s.hub.heldResp, s.placedOn h r.1 = false) →
      ∃ t, exec (.hartRebuildComplete h) s = .next t ∧ t.hartUp h = true ∧ t.seen h = s.ftb ∧ t.hub.harts.toList.getD h Hart.zero = { Hart.zero with level := .hs } ∧
      t.hub.journal = s.hub.journal ∧ t.mem = s.mem ∧
      -- the journal tells the hart what HS had decided for its guests (R348, R350)
      (∀ f a, s.decided.handler.l = [(f, a)] → s.placedOn h f = true → t.hub.hs.handler.find f = some a) ∧
      (∀ f, s.placedOn h f = false → t.hub.hs.handler.find f = s.hub.hs.handler.find f))) ∧
  -- a replay takes the decisions in order, and reapplies no command (R350)
  (∀ (s : State) (d : Decisions) (es : List JEntry) (e : JEntry), s.decided = s.hub.checkpoint.replay (if 1024 ∈ s.hub.lost then s.hub.mirror else s.hub.journal) ∧
    d.replay (es ++ [e]) = (d.replay es).take e ∧ (∀ w, d.take (.cmd w) = d) ∧ (∀ f x, (d.take (.place f (some x))).place.find f = some x) ∧
    (∀ f, (d.take (.place f .none)).place.find f = none) ∧ (∀ f a, (d.take (.handler f a)).handler.find f = some a) ∧ ∀ q v, (d.take (.consumer q v)).consumer.find q = some v) ∧
  (∀ s : State, (s.hub.booted = true → (∀ h, h < 8 → s.seen h + ticksOf 1000 ≤ s.ftb) → exec .supDown s = .next (s.modHub fun b => { b with supDown := true })) ∧
    ((∃ h, h < 8 ∧ s.ftb < s.seen h + ticksOf 1000) → exec .supDown s = .next s) ∧
    (∀ got i, s.hub.supDown = true → s.hub.heldResp = [] → bootResult s.hub.fuse s.hub.fuseKey bootTries (s.bootOrder got) = some (some i) → ∃ t, exec (.supervisorRestart got) s = .next t ∧ t.hub.supDown = false ∧ t.hub.booted = true ∧ t.hub.hartRun = 0xFF ∧ t.hub.hs = s.decided ∧ t.mem = s.mem ∧
      t.ctxs = s.ctxs ∧ t.cores = s.cores ∧ t.clusters = s.clusters) ∧
    (∀ got, s.hub.supDown = true → bootResult s.hub.fuse s.hub.fuseKey bootTries (s.bootOrder got) = some none → exec (.supervisorRestart got) s = .next (s.modHub fun b => { b with bootFail := true, booted := false })) ∧
    (∀ i, s.hub.supDown = false → exec (.supervisorRestart i) s = .next s)) ∧
  (∀ (s : State) (n : BitVec 192) (q : WorkQueue), let id := (n.extractLsb' 0 32).toNat
    let seq := n.extractLsb' 64 64
    let tag := notifyTag q.key (n.extractLsb' 0 128)
    s.hub.queues.find id = some q →
      (n.extractLsb' 128 64 ≠ tag → exec (.queueNotify n) s = .next (s.modHub fun h => { h with queues := h.queues.set id { q with badTag := satAdd q.badTag 1 } })) ∧
      (n.extractLsb' 128 64 = tag → seq.toNat ≤ q.lastSeq.toNat →
        exec (.queueNotify n) s = .next (s.modHub fun h => { h with queues := h.queues.set id { q with replay := satAdd q.replay 1 } })) ∧
      (n.extractLsb' 128 64 = tag → q.lastSeq.toNat < seq.toNat → ∃ t, exec (.queueNotify n) s = .next t ∧ q.vf ∈ t.hub.vsIrq ∧ t.mem = s.mem ∧
        t.hub.queues.find id = some { q with lastSeq := seq, pi := n.extractLsb' 32 32 })) ∧
  (∀ (s : State) (n : BitVec 192), let id := (n.extractLsb' 0 32).toNat
    s.hub.queues.find id = none → exec (.queueNotify n) s = .next (s.modHub fun h => { h with badTags := h.badTags.set id (satAdd (h.badTags.get id 0) 1) }) ∧
      (s.readQueue id).getD 3 0 = (s.hub.badTags.get id 0 ++ (0 : W32) : BitVec 64)) ∧
  (∀ (s : State) (id ofs : Nat) (b : Byte) (q : WorkQueue) (x : Xlat), s.hub.queues.find id = some q → s.xlatVa q.vf (q.ring.toNat + ofs) .wr = some x → x.ptes = [] →
    s.poison = [] → s.mem.wf = true → ∃ t, exec (.workQueueRecordWrite id ofs [b]) s = .next t ∧ t.mem.read x.loc = b ∧ (∀ l, l ≠ x.loc → t.mem.read l = s.mem.read l) ∧
    t.hub = s.hub) ∧
  (∀ (s : State) (v : W64),
    -- STATUS of every slot that CMD_PI takes in is 0xFF (R336)
    (let n := min (v - s.hub.cmdPi).toNat (2 ^ s.hub.cmdSize)
      let at6 (i : Nat) : Nat := hubLoc (s.hub.cmdBase.toNat + 64 * ((s.hub.cmdPi.toNat + i) % 2 ^ s.hub.cmdSize)) + 6
      ∃ t, exec (.registerWrite 0x0010 v) s = .next t ∧ t.hub = { s.hub with cmdPi := v } ∧ t.ctxs = s.ctxs ∧
        (s.mem.wf = true → s.poison = [] → (∀ i, i < n → t.mem.read (at6 i) = 0xFF) ∧ ∀ l, (∀ i, i < n → l ≠ at6 i) → t.mem.read l = s.mem.read l)) ∧
    (s.hub.cmdPi = s.hub.cmdCi → exec (.registerWrite 0x0000 v) s = .next (s.modHub fun h => { h with cmdBase := v &&& 0x003FFFFFFFFFFFC0 }) ∧
      exec (.registerWrite 0x0008 v) s = .next (s.modHub fun h => { h with cmdSize := clamp 4 12 v.toNat })) ∧
    (s.hub.cmdPi ≠ s.hub.cmdCi → exec (.registerWrite 0x0000 v) s = .next s ∧ exec (.registerWrite 0x0008 v) s = .next s) ∧
    (∀ f, f < 96 →
      ((∀ h, h < 8 → s.hub.booted = true → s.hub.hartRun.getLsbD h = false → s.placedOn h f = false) →
        exec (.registerWrite (0x100000 + 0x1000 * f) v) s = .next (s.respond (v.toNat / 2 ^ 62) (v.toNat % 2 ^ 54) f).2) ∧
      -- a guest whose hart is in reset has its responses held (R349)
      (∀ h, h < 8 → s.hub.booted = true → s.hub.hartRun.getLsbD h = false → s.placedOn h f = true →
        exec (.registerWrite (0x100000 + 0x1000 * f) v) s = .next (s.modHub fun b => { b with heldResp := b.heldResp ++ [(f, v)] }))) ∧
    -- HS's trap queue: its consumer index, never past the producer's (R343)
    (∀ n, n = (v.toNat + 2 ^ 64 - s.hub.hsCons % 2 ^ 64) % 2 ^ 64 →
      (s.hub.hsCons + n ≤ s.hub.hsProd → ∃ t, exec (.registerWrite (0x300000 + 8 * 0x7F) v) s = .next t ∧ t.hub.hsCons = s.hub.hsCons + n ∧ t.hub.hsProd = s.hub.hsProd ∧
        t.hub.hsq = s.hub.hsq.drop n ∧ (s.hub.hsCons + n = s.hub.hsProd → t.hub.hsIrq = none) ∧ t.mem = s.mem) ∧
      (s.hub.hsProd < s.hub.hsCons + n → exec (.registerWrite (0x300000 + 8 * 0x7F) v) s = .next s)) ∧
    -- HS's decisions, through the journal's two copies (R350)
    (∀ f a, f < 96 → a = 0x4010000 + 8 * f → (s.journalUp = false → exec (.registerWrite a v) s = .next s) ∧
      (s.journalUp = true → ∃ t, exec (.registerWrite a v) s = .next t ∧ t.hub.journal = s.hub.journal ++ [.handler f v] ∧ t.hub.mirror = s.hub.mirror ++ [.handler f v] ∧
        t.hub.hs = s.hub.hs.take (.handler f v) ∧ t.mem = s.mem)) ∧
    -- the registers of a hart: x0 is zero (R334)
    (∀ h n, h < 8 → n < 32 → ∃ t, exec (.registerWrite (0x5000000 + 0x20000 * h + 8 * n) v) s = .next t ∧ t.mem = s.mem ∧ ∀ (j m : Nat) (_ : m < 32), j < 8 →
      (t.hub.harts.toList.getD j Hart.zero).x[m] = if j = h ∧ m = n ∧ n ≠ 0 then v else (s.hub.harts.toList.getD j Hart.zero).x[m]) ∧
    exec (.registerWrite 0x200020 v) s = .next (s.modHub fun h => { h with trCi := v }) ∧
    exec (.registerWrite 0x200010 v) s = .next (s.modHub fun h => { h with trSize := clamp 7 24 v.toNat })) ∧
  (∀ s : State, s.readReg 0x0010 = s.hub.cmdPi ∧ s.readReg 0x0018 = s.hub.cmdCi ∧ (s.readReg 0x0028).getLsbD 0 = s.hub.bootFail ∧
    (s.readReg 0x0028).getLsbD 1 = s.hub.supDown ∧ (s.readReg 0x0028).getLsbD 2 = s.replaceRequested ∧ (∀ f, f < 128 → s.readReg (0x100000 + 0x1000 * f) = 0) ∧
    (∀ p q, p < 64 → s.hub.parts.find p = some q → (s.readReg (0x100 + 8 * p)).toNat / 2 ^ 32 = q.overrun.toNat) ∧
    (∀ id i, i < 8 → 4 ≤ i → (s.readQueue id).getD i 0 = 0) ∧ s.advert.replace = s.replaceRequested ∧ s.advert.supDown = s.hub.supDown) ∧
  (∀ s : State, (s.hub.dbgCtl.getLsbD 63 = false → exec .traceSample s = .next s) ∧
    (s.hub.dbgCtl.getLsbD 63 = true → s.now < s.hub.lastSample + 2 ^ (s.hub.dbgCtl.toNat / 2 ^ 50 % 64) → exec .traceSample s = .next s) ∧
    (s.hub.dbgCtl.getLsbD 63 = true → s.hub.lastSample + 2 ^ (s.hub.dbgCtl.toNat / 2 ^ 50 % 64) ≤ s.now →
      ((∀ i, i < 4 → s.hub.smask.toList.getD i 0 = 0) →
        exec .traceSample s = .next (s.modHub fun h => { h with lastSample := s.now })) ∧
      ∃ t, exec .traceSample s = .next t ∧ t.hub.lastSample = s.now ∧ t.cores = s.cores ∧ t.slots = s.slots)) ∧
  (∀ (s : State) (pkg : Nat) (caps : BitVec 3), ∃ t, exec (.linkBringUp pkg caps) s = .next t ∧ t.hub.peers.get pkg 0 = caps ∧ pkg ∉ t.hub.lost ∧ t.mem = s.mem ∧ t.ctxs = s.ctxs)

/-! ### Tenant switches and the tiers (R51, R176, R236, R352 to R356) -/

/-- A slice ends at its tick: with a switch asked for, the tenant's work drains, every die saves its graph positions at its operator boundary, and
the switch proceeds with the partition's store windows and arrays cleared; a save that misses its deadline abandons the switch, the third miss
ends the overrunning tasks, and a rebuild of the ring's hart pauses all of it. The tier engines note the working
set, move pages whole, and open a gate, with the positions restored, once enough of the set is near; the last gate starts the slice and
completes SWITCH (R176, R218, R349, R352 to R356).
What logs 54, 57 and 81 fix is the model's choice or reading, not the spec's. -/
def Obligations.TenancyEvents : Prop :=
  (∀ (s : State) (p : Nat) (q : Part), s.hub.parts.find p = some q → q.tick = none → q.swapping = false → s.ringRuns = true →
    let due := q.sliceStart + ticksOf (q.desc[0].toNat % 2 ^ 32)
    (s.ftb < due → exec (.switchTick p) s = .next s) ∧
    (due ≤ s.ftb → (q.incoming ≠ none ∨ q.next ≠ none) → exec (.switchTick p) s =
      .next (s.modHub fun h => { h with parts := h.parts.set p { q with tick := some s.ftb, saved := 0 } })) ∧
    -- the slice ends though its tenant stays, and its working set is noted (R354)
    (due ≤ s.ftb → q.incoming = none → q.next = none → ∃ t, exec (.switchTick p) s = .next t ∧ t.hub.parts.find p = some { q with sliceStart := s.ftb } ∧ t.ctxs = s.ctxs ∧
      (q.tenant = none → t.mem = s.mem) ∧ (∀ vf, q.tenant = some vf → t.mem = ((s.diesOf p).foldl (fun (u : State) d => u.noteSet vf d) s).mem))) ∧
  (∀ (s : State) (p : Nat) (q : Part), s.hub.parts.find p = some q → s.ringRuns = false → exec (.switchTick p) s = .next s) ∧
  (∀ (s : State) (p d t : Nat) (q : Part), s.hub.parts.find p = some q → q.tick = some t → d < 4 → q.saved.getLsbD d = false →
    ((s.atBoundary p d = false ∨ s.ringRuns = false) → exec (.operatorBoundarySave p d) s = .next s) ∧
    (s.atBoundary p d = true → s.ringRuns = true → let s0 := match q.tenant with
        | some vf => s.savePosition p vf d
        | none => s
      let s1 := s0.modHub fun h => { h with parts := h.parts.set p { q with saved := putBit q.saved d true } }
      ((∀ e ∈ s.diesOf p, (putBit q.saved d true).getLsbD e = true) → s.ftb ≤ t + ticksOf (q.desc[1].toNat / 2 ^ 32) →
        exec (.operatorBoundarySave p d) s = .next (s1.proceed p)) ∧
      ((∃ e ∈ s.diesOf p, (putBit q.saved d true).getLsbD e = false) → exec (.operatorBoundarySave p d) s = .next s1))) ∧
  (∀ (s : State) (p vf d cl : Nat) (v : VfSt), s.hub.vfs.find vf = some v → cl ∈ clustersOf d → let t := s.savePosition p vf d
    (∃ u, t.hub.vfs.find vf = some u ∧ u.d = v.d ∧ u.graph.find cl = some ((s.cluster cl).position p vf)) ∧ t.cluster cl = (s.cluster cl).without p vf ∧
    t.mem = s.mem ∧ t.ctxs = s.ctxs) ∧
  (∀ (s : State) (vf d cl : Nat) (v : VfSt) (g : Graph), s.hub.vfs.find vf = some v → cl ∈ clustersOf d → v.graph.find cl = some g → let t := s.restorePosition vf d
    (t.cluster cl).dep = g.dep ++ (s.cluster cl).dep ∧ (t.cluster cl).ready = g.ready ++ (s.cluster cl).ready ∧
    (t.cluster cl).waiting = g.waiting ++ (s.cluster cl).waiting) ∧
  (∀ (s : State) (p : Nat) (q : Part), s.hub.parts.find p = some q → q.next = none → let t := s.proceed p
    (∀ k i, k < 256 → s.partHolds p k = true → i < 64 → (t.storeWord k i).getLsbD 63 = true → t.inWindow k ((t.storeWord k i).toNat % 4096) = false) ∧
    (∀ k, k < 256 → s.partHolds p k = true → (t.core k).banks = Table.empty ∧ (t.core k).latch = none ∧ (∀ b, b < 4 → t.version k b = 0) ∧ (t.core k).spk = (s.core k).spk) ∧
    t.hub.parts.find p = some { q with tick := none, saved := 0, cmiss := 0, gates := 0, swapping := true, noted := 0, upDone := 0, outgoing := q.tenant, incoming := none,
                                       tenant := if q.incoming.isSome then q.incoming else q.tenant } ∧ t.mem = s.mem ∧ t.ctxs = s.ctxs) ∧
  (∀ (s : State) (p t : Nat) (q : Part), s.hub.parts.find p = some q → q.tick = some t → let dl := t + ticksOf (q.desc[1].toNat / 2 ^ 32)
    (s.ftb < dl → exec (.saveDeadlineExpiry p) s = .next s) ∧
    (dl ≤ s.ftb → s.ringRuns = true → q.cmiss < 2 → ∃ u, exec (.saveDeadlineExpiry p) s = .next u ∧ u.mem = s.mem ∧ u.ctxs = s.ctxs ∧
      (q.saved = 0 → u.clusters = s.clusters) ∧
      u.hub.parts.find p = some { q with tick := none, saved := 0, overrun := q.overrun + 1, cmiss := q.cmiss + 1, sliceStart := t }) ∧
    (dl ≤ s.ftb → s.ringRuns = false → ∃ u, exec (.saveDeadlineExpiry p) s = .next u ∧ u.mem = s.mem ∧ u.ctxs = s.ctxs ∧
      u.hub.parts.find p = some { q with tick := none, saved := 0, sliceStart := t }) ∧
    (dl ≤ s.ftb → s.ringRuns = true → 2 ≤ q.cmiss → ∃ u, exec (.saveDeadlineExpiry p) s = .next u ∧ (∃ v, u.hub.parts.find p = some v ∧ v.swapping = true ∧ v.cmiss = 0) ∧
      ∀ c, coreOf c < 256 → s.partHolds p (coreOf c) = true → q.tenant = some (s.ctx c).vf → q.next = none → (u.ctx c).phase = .idle)) ∧
  (∀ (s : State) (p d : Nat) (q : Part), s.hub.parts.find p = some q → (q.swapping = false → exec (.tierSwap p d) s = .next s) ∧
    (q.swapping = true → d < 4 → q.upDone.getLsbD d = false → q.noted.getLsbD d = false →
      let s1 := s.modHub fun h => { h with parts := h.parts.set p { q with noted := putBit q.noted d true } }
      (q.outgoing = none → exec (.tierSwap p d) s = .next s1) ∧
      (∀ vf, q.outgoing = some vf → exec (.tierSwap p d) s = .next (s1.noteSet vf d))) ∧
    (q.swapping = true → d < 4 → q.upDone.getLsbD d = false → q.noted.getLsbD d = true → q.outgoing = q.tenant → (s.die d).moves = [] →
      exec (.tierSwap p d) s = .next (s.modHub fun h => { h with parts := h.parts.set p { q with upDone := putBit q.upDone d true } }))) ∧
  (∀ (s : State) (d : Nat), (s.die d).moves = [] → exec (.pageMoveComplete d) s = .next s) ∧
  (∀ (s : State) (d : Nat) (m : Move) (r : List Move), (s.die d).moves = m :: r → m.up = true → s.poison = [] → s.mem.wf = true →
    let src := memLoc (s.hub.home * 4 + d) m.src
    let dst := memLoc (s.hub.home * 4 + d) m.dst
    (src + m.size ≤ dst ∨ dst + m.size ≤ src) → (m.pte + 8 ≤ dst ∨ dst + m.size ≤ m.pte) → 8 ∣ dst → 8 ∣ m.size →
    ∃ t, exec (.pageMoveComplete d) s = .next t ∧ (t.die d).moves = r ∧ (∀ i, i < m.size → t.mem.read (dst + i) = s.mem.read (src + i)) ∧
      (∀ l, (l < dst ∨ dst + m.size ≤ l) → (l < m.pte ∨ m.pte + 8 ≤ l) → t.mem.read l = s.mem.read l) ∧
      (m.dst < 2 ^ 42 → m.dst % 2 ^ 16 = 0 → t.rd m.pte 8 = s.rd m.pte 8 / 2 ^ 54 * 2 ^ 54 + m.dst + s.rd m.pte 8 % 2 ^ 9 + s.rd m.pte 8 / 2 ^ 10 % 2 ^ 6 * 2 ^ 10)) ∧
  (∀ (s : State) (p d : Nat) (q : Part), s.hub.parts.find p = some q → ((q.swapping = false ∨ s.ringRuns = false) → exec (.residencyGateOpen p d) s = .next s) ∧
    (q.swapping = true → s.ringRuns = true → (∀ e ∈ s.diesOf p, q.gates.getLsbD e = true ∧ q.upDone.getLsbD e = true) → exec (.residencyGateOpen p d) s =
      .next (s.modHub fun h => { h with parts := h.parts.set p { q with swapping := false, outgoing := none } })) ∧
    (∀ vf, q.swapping = true → s.ringRuns = true → d < 4 → d ∈ s.diesOf p → q.gates.getLsbD d = false → q.noted.getLsbD d = true → q.upDone.getLsbD d = false → q.tenant = some vf →
      (s.resident vf d = false → exec (.residencyGateOpen p d) s = .next s) ∧
      (s.resident vf d = true → (∃ e ∈ s.diesOf p, (putBit q.gates d true).getLsbD e = false) → exec (.residencyGateOpen p d) s =
        .next ((s.restorePosition vf d).modHub fun h => { h with parts := h.parts.set p { q with gates := putBit q.gates d true } })) ∧
      (s.resident vf d = true → (∀ e ∈ s.diesOf p, (putBit q.gates d true).getLsbD e = true) → ∃ t, exec (.residencyGateOpen p d) s = .next t ∧
        (∃ u, t.hub.parts.find p = some u ∧ u.gates = putBit q.gates d true ∧ u.sliceStart = s.ftb ∧ u.tenant = some vf) ∧
        (q.cmdWaits = true → t.hub.cmdCi = s.hub.cmdCi + 1 ∧ t.hub.waiting = none) ∧ (q.cmdWaits = false → t.hub.cmdCi = s.hub.cmdCi))))
end

