-- ==== Sys2Proof/Laws/Encoding.lean ====
section
/-! SUPPORT. What each field of a word reads when the word is put together from its fields (R56, R57, R219). -/

namespace Sys2Proof

variable (s : Bool) (w : BitVec 3) (op : BitVec 7) (d a b : BitVec 5) (ha hb : Bool) (v : BitVec 4)

/-- Bit `i` of a word is its one-bit field. -/
theorem bitAt_eq (x : W32) (i : Nat) : bitAt x i = (x.extractLsb' i 1).getLsbD 0 := by
  simp [bitAt]

@[simp] theorem ofBool_getLsbD_zero (c : Bool) : (BitVec.ofBool c).getLsbD 0 = c := by cases c <;> rfl

theorem getLsbD_of_field {n : Nat} (x : BitVec n) (i : Nat) (c : Bool) (h : x.extractLsb' i 1 = BitVec.ofBool c) : x.getLsbD i = c := by
  have := congrArg (fun y => BitVec.getLsbD y 0) h
  simpa using this

/-! ### encR -/

theorem encR_field_s : (encR s w op d a b ha hb v).extractLsb' 31 1 = BitVec.ofBool s := by
  unfold encR
  refine (BitVec.extractLsb'_append_eq_of_le (by decide)).trans ?_
  refine (BitVec.extractLsb'_append_eq_of_le (by decide)).trans ?_
  refine (BitVec.extractLsb'_append_eq_of_le (by decide)).trans ?_
  refine (BitVec.extractLsb'_append_eq_of_le (by decide)).trans ?_
  refine (BitVec.extractLsb'_append_eq_of_le (by decide)).trans ?_
  refine (BitVec.extractLsb'_append_eq_of_le (by decide)).trans ?_
  refine (BitVec.extractLsb'_append_eq_of_le (by decide)).trans ?_
  refine (BitVec.extractLsb'_append_eq_of_le (by decide)).trans ?_
  exact BitVec.extractLsb'_eq_self

theorem encR_field_w : (encR s w op d a b ha hb v).extractLsb' 28 3 = w := by
  unfold encR
  refine (BitVec.extractLsb'_append_eq_of_le (by decide)).trans ?_
  refine (BitVec.extractLsb'_append_eq_of_le (by decide)).trans ?_
  refine (BitVec.extractLsb'_append_eq_of_le (by decide)).trans ?_
  refine (BitVec.extractLsb'_append_eq_of_le (by decide)).trans ?_
  refine (BitVec.extractLsb'_append_eq_of_le (by decide)).trans ?_
  refine (BitVec.extractLsb'_append_eq_of_le (by decide)).trans ?_
  refine (BitVec.extractLsb'_append_eq_of_le (by decide)).trans ?_
  refine (BitVec.extractLsb'_append_eq_of_add_le (by decide)).trans ?_
  exact BitVec.extractLsb'_eq_self

theorem encR_field_op : (encR s w op d a b ha hb v).extractLsb' 21 7 = op := by
  unfold encR
  refine (BitVec.extractLsb'_append_eq_of_le (by decide)).trans ?_
  refine (BitVec.extractLsb'_append_eq_of_le (by decide)).trans ?_
  refine (BitVec.extractLsb'_append_eq_of_le (by decide)).trans ?_
  refine (BitVec.extractLsb'_append_eq_of_le (by decide)).trans ?_
  refine (BitVec.extractLsb'_append_eq_of_le (by decide)).trans ?_
  refine (BitVec.extractLsb'_append_eq_of_le (by decide)).trans ?_
  refine (BitVec.extractLsb'_append_eq_of_add_le (by decide)).trans ?_
  exact BitVec.extractLsb'_eq_self

theorem encR_field_d : (encR s w op d a b ha hb v).extractLsb' 16 5 = d := by
  unfold encR
  refine (BitVec.extractLsb'_append_eq_of_le (by decide)).trans ?_
  refine (BitVec.extractLsb'_append_eq_of_le (by decide)).trans ?_
  refine (BitVec.extractLsb'_append_eq_of_le (by decide)).trans ?_
  refine (BitVec.extractLsb'_append_eq_of_le (by decide)).trans ?_
  refine (BitVec.extractLsb'_append_eq_of_le (by decide)).trans ?_
  refine (BitVec.extractLsb'_append_eq_of_add_le (by decide)).trans ?_
  exact BitVec.extractLsb'_eq_self

theorem encR_field_a : (encR s w op d a b ha hb v).extractLsb' 11 5 = a := by
  unfold encR
  refine (BitVec.extractLsb'_append_eq_of_le (by decide)).trans ?_
  refine (BitVec.extractLsb'_append_eq_of_le (by decide)).trans ?_
  refine (BitVec.extractLsb'_append_eq_of_le (by decide)).trans ?_
  refine (BitVec.extractLsb'_append_eq_of_le (by decide)).trans ?_
  refine (BitVec.extractLsb'_append_eq_of_add_le (by decide)).trans ?_
  exact BitVec.extractLsb'_eq_self

theorem encR_field_b : (encR s w op d a b ha hb v).extractLsb' 6 5 = b := by
  unfold encR
  refine (BitVec.extractLsb'_append_eq_of_le (by decide)).trans ?_
  refine (BitVec.extractLsb'_append_eq_of_le (by decide)).trans ?_
  refine (BitVec.extractLsb'_append_eq_of_le (by decide)).trans ?_
  refine (BitVec.extractLsb'_append_eq_of_add_le (by decide)).trans ?_
  exact BitVec.extractLsb'_eq_self

theorem encR_field_ha : (encR s w op d a b ha hb v).extractLsb' 5 1 = BitVec.ofBool ha := by
  unfold encR
  refine (BitVec.extractLsb'_append_eq_of_le (by decide)).trans ?_
  refine (BitVec.extractLsb'_append_eq_of_le (by decide)).trans ?_
  refine (BitVec.extractLsb'_append_eq_of_add_le (by decide)).trans ?_
  exact BitVec.extractLsb'_eq_self

theorem encR_field_hb : (encR s w op d a b ha hb v).extractLsb' 4 1 = BitVec.ofBool hb := by
  unfold encR
  refine (BitVec.extractLsb'_append_eq_of_le (by decide)).trans ?_
  refine (BitVec.extractLsb'_append_eq_of_add_le (by decide)).trans ?_
  exact BitVec.extractLsb'_eq_self

theorem encR_field_v : (encR s w op d a b ha hb v).extractLsb' 0 4 = v := by
  unfold encR
  refine (BitVec.extractLsb'_append_eq_of_add_le (by decide)).trans ?_
  exact BitVec.extractLsb'_eq_self

@[simp] theorem fOp_encR : fOp (encR s w op d a b ha hb v) = op := encR_field_op ..
@[simp] theorem fD_encR : fD (encR s w op d a b ha hb v) = d := encR_field_d ..
@[simp] theorem fW_encR : fW (encR s w op d a b ha hb v) = w := encR_field_w ..
@[simp] theorem fA_encR : fA (encR s w op d a b ha hb v) = a := encR_field_a ..
@[simp] theorem fS_encR : fS (encR s w op d a b ha hb v) = s := getLsbD_of_field _ _ _ (encR_field_s ..)

/-! ### encI -/

theorem encI_field_s (imm : BitVec 11) : (encI s w op d a imm).extractLsb' 31 1 = BitVec.ofBool s := by
  unfold encI
  refine (BitVec.extractLsb'_append_eq_of_le (by decide)).trans ?_
  refine (BitVec.extractLsb'_append_eq_of_le (by decide)).trans ?_
  refine (BitVec.extractLsb'_append_eq_of_le (by decide)).trans ?_
  refine (BitVec.extractLsb'_append_eq_of_le (by decide)).trans ?_
  refine (BitVec.extractLsb'_append_eq_of_le (by decide)).trans ?_
  exact BitVec.extractLsb'_eq_self

theorem encI_field_w (imm : BitVec 11) : (encI s w op d a imm).extractLsb' 28 3 = w := by
  unfold encI
  refine (BitVec.extractLsb'_append_eq_of_le (by decide)).trans ?_
  refine (BitVec.extractLsb'_append_eq_of_le (by decide)).trans ?_
  refine (BitVec.extractLsb'_append_eq_of_le (by decide)).trans ?_
  refine (BitVec.extractLsb'_append_eq_of_le (by decide)).trans ?_
  refine (BitVec.extractLsb'_append_eq_of_add_le (by decide)).trans ?_
  exact BitVec.extractLsb'_eq_self

theorem encI_field_op (imm : BitVec 11) : (encI s w op d a imm).extractLsb' 21 7 = op := by
  unfold encI
  refine (BitVec.extractLsb'_append_eq_of_le (by decide)).trans ?_
  refine (BitVec.extractLsb'_append_eq_of_le (by decide)).trans ?_
  refine (BitVec.extractLsb'_append_eq_of_le (by decide)).trans ?_
  refine (BitVec.extractLsb'_append_eq_of_add_le (by decide)).trans ?_
  exact BitVec.extractLsb'_eq_self

theorem encI_field_d (imm : BitVec 11) : (encI s w op d a imm).extractLsb' 16 5 = d := by
  unfold encI
  refine (BitVec.extractLsb'_append_eq_of_le (by decide)).trans ?_
  refine (BitVec.extractLsb'_append_eq_of_le (by decide)).trans ?_
  refine (BitVec.extractLsb'_append_eq_of_add_le (by decide)).trans ?_
  exact BitVec.extractLsb'_eq_self

theorem encI_field_a (imm : BitVec 11) : (encI s w op d a imm).extractLsb' 11 5 = a := by
  unfold encI
  refine (BitVec.extractLsb'_append_eq_of_le (by decide)).trans ?_
  refine (BitVec.extractLsb'_append_eq_of_add_le (by decide)).trans ?_
  exact BitVec.extractLsb'_eq_self

theorem encI_field_imm (imm : BitVec 11) : (encI s w op d a imm).extractLsb' 0 11 = imm := by
  unfold encI
  refine (BitVec.extractLsb'_append_eq_of_add_le (by decide)).trans ?_
  exact BitVec.extractLsb'_eq_self

@[simp] theorem fOp_encI (imm : BitVec 11) : fOp (encI s w op d a imm) = op := encI_field_op ..
@[simp] theorem fD_encI (imm : BitVec 11) : fD (encI s w op d a imm) = d := encI_field_d ..
@[simp] theorem fW_encI (imm : BitVec 11) : fW (encI s w op d a imm) = w := encI_field_w ..
@[simp] theorem fA_encI (imm : BitVec 11) : fA (encI s w op d a imm) = a := encI_field_a ..
@[simp] theorem fS_encI (imm : BitVec 11) : fS (encI s w op d a imm) = s := getLsbD_of_field _ _ _ (encI_field_s ..)

/-! ### encL -/

theorem encL_field_s (imm : BitVec 16) : (encL s w op d imm).extractLsb' 31 1 = BitVec.ofBool s := by
  unfold encL
  refine (BitVec.extractLsb'_append_eq_of_le (by decide)).trans ?_
  refine (BitVec.extractLsb'_append_eq_of_le (by decide)).trans ?_
  refine (BitVec.extractLsb'_append_eq_of_le (by decide)).trans ?_
  refine (BitVec.extractLsb'_append_eq_of_le (by decide)).trans ?_
  exact BitVec.extractLsb'_eq_self

theorem encL_field_w (imm : BitVec 16) : (encL s w op d imm).extractLsb' 28 3 = w := by
  unfold encL
  refine (BitVec.extractLsb'_append_eq_of_le (by decide)).trans ?_
  refine (BitVec.extractLsb'_append_eq_of_le (by decide)).trans ?_
  refine (BitVec.extractLsb'_append_eq_of_le (by decide)).trans ?_
  refine (BitVec.extractLsb'_append_eq_of_add_le (by decide)).trans ?_
  exact BitVec.extractLsb'_eq_self

theorem encL_field_op (imm : BitVec 16) : (encL s w op d imm).extractLsb' 21 7 = op := by
  unfold encL
  refine (BitVec.extractLsb'_append_eq_of_le (by decide)).trans ?_
  refine (BitVec.extractLsb'_append_eq_of_le (by decide)).trans ?_
  refine (BitVec.extractLsb'_append_eq_of_add_le (by decide)).trans ?_
  exact BitVec.extractLsb'_eq_self

theorem encL_field_d (imm : BitVec 16) : (encL s w op d imm).extractLsb' 16 5 = d := by
  unfold encL
  refine (BitVec.extractLsb'_append_eq_of_le (by decide)).trans ?_
  refine (BitVec.extractLsb'_append_eq_of_add_le (by decide)).trans ?_
  exact BitVec.extractLsb'_eq_self

theorem encL_field_imm (imm : BitVec 16) : (encL s w op d imm).extractLsb' 0 16 = imm := by
  unfold encL
  refine (BitVec.extractLsb'_append_eq_of_add_le (by decide)).trans ?_
  exact BitVec.extractLsb'_eq_self

@[simp] theorem fOp_encL (imm : BitVec 16) : fOp (encL s w op d imm) = op := encL_field_op ..
@[simp] theorem fD_encL (imm : BitVec 16) : fD (encL s w op d imm) = d := encL_field_d ..
@[simp] theorem fW_encL (imm : BitVec 16) : fW (encL s w op d imm) = w := encL_field_w ..
@[simp] theorem fS_encL (imm : BitVec 16) : fS (encL s w op d imm) = s := getLsbD_of_field _ _ _ (encL_field_s ..)

/-! ### encM -/

theorem encM_field_s (ofs : BitVec 8) (size : BitVec 2) : (encM s w op d a ofs size ha).extractLsb' 31 1 = BitVec.ofBool s := by
  unfold encM
  refine (BitVec.extractLsb'_append_eq_of_le (by decide)).trans ?_
  refine (BitVec.extractLsb'_append_eq_of_le (by decide)).trans ?_
  refine (BitVec.extractLsb'_append_eq_of_le (by decide)).trans ?_
  refine (BitVec.extractLsb'_append_eq_of_le (by decide)).trans ?_
  refine (BitVec.extractLsb'_append_eq_of_le (by decide)).trans ?_
  refine (BitVec.extractLsb'_append_eq_of_le (by decide)).trans ?_
  refine (BitVec.extractLsb'_append_eq_of_le (by decide)).trans ?_
  exact BitVec.extractLsb'_eq_self

theorem encM_field_w (ofs : BitVec 8) (size : BitVec 2) : (encM s w op d a ofs size ha).extractLsb' 28 3 = w := by
  unfold encM
  refine (BitVec.extractLsb'_append_eq_of_le (by decide)).trans ?_
  refine (BitVec.extractLsb'_append_eq_of_le (by decide)).trans ?_
  refine (BitVec.extractLsb'_append_eq_of_le (by decide)).trans ?_
  refine (BitVec.extractLsb'_append_eq_of_le (by decide)).trans ?_
  refine (BitVec.extractLsb'_append_eq_of_le (by decide)).trans ?_
  refine (BitVec.extractLsb'_append_eq_of_le (by decide)).trans ?_
  refine (BitVec.extractLsb'_append_eq_of_add_le (by decide)).trans ?_
  exact BitVec.extractLsb'_eq_self

theorem encM_field_op (ofs : BitVec 8) (size : BitVec 2) : (encM s w op d a ofs size ha).extractLsb' 21 7 = op := by
  unfold encM
  refine (BitVec.extractLsb'_append_eq_of_le (by decide)).trans ?_
  refine (BitVec.extractLsb'_append_eq_of_le (by decide)).trans ?_
  refine (BitVec.extractLsb'_append_eq_of_le (by decide)).trans ?_
  refine (BitVec.extractLsb'_append_eq_of_le (by decide)).trans ?_
  refine (BitVec.extractLsb'_append_eq_of_le (by decide)).trans ?_
  refine (BitVec.extractLsb'_append_eq_of_add_le (by decide)).trans ?_
  exact BitVec.extractLsb'_eq_self

theorem encM_field_d (ofs : BitVec 8) (size : BitVec 2) : (encM s w op d a ofs size ha).extractLsb' 16 5 = d := by
  unfold encM
  refine (BitVec.extractLsb'_append_eq_of_le (by decide)).trans ?_
  refine (BitVec.extractLsb'_append_eq_of_le (by decide)).trans ?_
  refine (BitVec.extractLsb'_append_eq_of_le (by decide)).trans ?_
  refine (BitVec.extractLsb'_append_eq_of_le (by decide)).trans ?_
  refine (BitVec.extractLsb'_append_eq_of_add_le (by decide)).trans ?_
  exact BitVec.extractLsb'_eq_self

theorem encM_field_a (ofs : BitVec 8) (size : BitVec 2) : (encM s w op d a ofs size ha).extractLsb' 11 5 = a := by
  unfold encM
  refine (BitVec.extractLsb'_append_eq_of_le (by decide)).trans ?_
  refine (BitVec.extractLsb'_append_eq_of_le (by decide)).trans ?_
  refine (BitVec.extractLsb'_append_eq_of_le (by decide)).trans ?_
  refine (BitVec.extractLsb'_append_eq_of_add_le (by decide)).trans ?_
  exact BitVec.extractLsb'_eq_self

theorem encM_field_ofs (ofs : BitVec 8) (size : BitVec 2) : (encM s w op d a ofs size ha).extractLsb' 3 8 = ofs := by
  unfold encM
  refine (BitVec.extractLsb'_append_eq_of_le (by decide)).trans ?_
  refine (BitVec.extractLsb'_append_eq_of_le (by decide)).trans ?_
  refine (BitVec.extractLsb'_append_eq_of_add_le (by decide)).trans ?_
  exact BitVec.extractLsb'_eq_self

theorem encM_field_size (ofs : BitVec 8) (size : BitVec 2) : (encM s w op d a ofs size ha).extractLsb' 1 2 = size := by
  unfold encM
  refine (BitVec.extractLsb'_append_eq_of_le (by decide)).trans ?_
  refine (BitVec.extractLsb'_append_eq_of_add_le (by decide)).trans ?_
  exact BitVec.extractLsb'_eq_self

theorem encM_field_ha (ofs : BitVec 8) (size : BitVec 2) : (encM s w op d a ofs size ha).extractLsb' 0 1 = BitVec.ofBool ha := by
  unfold encM
  refine (BitVec.extractLsb'_append_eq_of_add_le (by decide)).trans ?_
  exact BitVec.extractLsb'_eq_self

@[simp] theorem fOp_encM (ofs : BitVec 8) (size : BitVec 2) : fOp (encM s w op d a ofs size ha) = op := encM_field_op ..
@[simp] theorem fD_encM (ofs : BitVec 8) (size : BitVec 2) : fD (encM s w op d a ofs size ha) = d := encM_field_d ..
@[simp] theorem fW_encM (ofs : BitVec 8) (size : BitVec 2) : fW (encM s w op d a ofs size ha) = w := encM_field_w ..
@[simp] theorem fA_encM (ofs : BitVec 8) (size : BitVec 2) : fA (encM s w op d a ofs size ha) = a := encM_field_a ..
@[simp] theorem fS_encM (ofs : BitVec 8) (size : BitVec 2) : fS (encM s w op d a ofs size ha) = s := getLsbD_of_field _ _ _ (encM_field_s ..)

/-! ### encJ -/

theorem encJ_field_s (p : BitVec 21) : (encJ s w op p).extractLsb' 31 1 = BitVec.ofBool s := by
  unfold encJ
  refine (BitVec.extractLsb'_append_eq_of_le (by decide)).trans ?_
  refine (BitVec.extractLsb'_append_eq_of_le (by decide)).trans ?_
  refine (BitVec.extractLsb'_append_eq_of_le (by decide)).trans ?_
  exact BitVec.extractLsb'_eq_self

theorem encJ_field_w (p : BitVec 21) : (encJ s w op p).extractLsb' 28 3 = w := by
  unfold encJ
  refine (BitVec.extractLsb'_append_eq_of_le (by decide)).trans ?_
  refine (BitVec.extractLsb'_append_eq_of_le (by decide)).trans ?_
  refine (BitVec.extractLsb'_append_eq_of_add_le (by decide)).trans ?_
  exact BitVec.extractLsb'_eq_self

theorem encJ_field_op (p : BitVec 21) : (encJ s w op p).extractLsb' 21 7 = op := by
  unfold encJ
  refine (BitVec.extractLsb'_append_eq_of_le (by decide)).trans ?_
  refine (BitVec.extractLsb'_append_eq_of_add_le (by decide)).trans ?_
  exact BitVec.extractLsb'_eq_self

theorem encJ_field_p (p : BitVec 21) : (encJ s w op p).extractLsb' 0 21 = p := by
  unfold encJ
  refine (BitVec.extractLsb'_append_eq_of_add_le (by decide)).trans ?_
  exact BitVec.extractLsb'_eq_self

@[simp] theorem fOp_encJ (p : BitVec 21) : fOp (encJ s w op p) = op := encJ_field_op ..
@[simp] theorem fW_encJ (p : BitVec 21) : fW (encJ s w op p) = w := encJ_field_w ..
@[simp] theorem fS_encJ (p : BitVec 21) : fS (encJ s w op p) = s := getLsbD_of_field _ _ _ (encJ_field_s ..)

@[simp] theorem fB_encR : fB (encR s w op d a b ha hb v) = b := encR_field_b ..
@[simp] theorem fV_encR : fV (encR s w op d a b ha hb v) = v := encR_field_v ..
@[simp] theorem bit5_encR : bitAt (encR s w op d a b ha hb v) 5 = ha := getLsbD_of_field _ _ _ (encR_field_ha ..)
@[simp] theorem bit4_encR : bitAt (encR s w op d a b ha hb v) 4 = hb := getLsbD_of_field _ _ _ (encR_field_hb ..)
theorem low_encR (i : Nat) (h : i < 4) : bitAt (encR s w op d a b ha hb v) i = v.getLsbD i := by
  have := congrArg (fun y => BitVec.getLsbD y i) (encR_field_v s w op d a b ha hb v)
  simpa [h, bitAt] using this
@[simp] theorem bit3_encR : bitAt (encR s w op d a b ha hb v) 3 = v.getLsbD 3 := low_encR _ _ _ _ _ _ _ _ _ 3 (by decide)
@[simp] theorem bit2_encR : bitAt (encR s w op d a b ha hb v) 2 = v.getLsbD 2 := low_encR _ _ _ _ _ _ _ _ _ 2 (by decide)
@[simp] theorem bit1_encR : bitAt (encR s w op d a b ha hb v) 1 = v.getLsbD 1 := low_encR _ _ _ _ _ _ _ _ _ 1 (by decide)
@[simp] theorem bit0_encR : bitAt (encR s w op d a b ha hb v) 0 = v.getLsbD 0 := low_encR _ _ _ _ _ _ _ _ _ 0 (by decide)
@[simp] theorem imm_encI (imm : BitVec 11) : (encI s w op d a imm).extractLsb' 0 11 = imm := encI_field_imm ..
theorem part_encI (imm : BitVec 11) (lo len : Nat) (h : lo + len ≤ 11) : (encI s w op d a imm).extractLsb' lo len = imm.extractLsb' lo len := by
  unfold encI; exact BitVec.extractLsb'_append_eq_of_add_le h
@[simp] theorem hi_encI (imm : BitVec 11) : (encI s w op d a imm).extractLsb' 6 5 = imm.extractLsb' 6 5 := part_encI _ _ _ _ _ _ 6 5 (by decide)
@[simp] theorem lo_encI (imm : BitVec 11) : (encI s w op d a imm).extractLsb' 0 6 = imm.extractLsb' 0 6 := part_encI _ _ _ _ _ _ 0 6 (by decide)
theorem part_encJ (p : BitVec 21) (lo len : Nat) (h : lo + len ≤ 21) : (encJ s w op p).extractLsb' lo len = p.extractLsb' lo len := by
  unfold encJ; exact BitVec.extractLsb'_append_eq_of_add_le h
theorem part_encL (imm : BitVec 16) (lo len : Nat) (h : lo + len ≤ 16) : (encL s w op d imm).extractLsb' lo len = imm.extractLsb' lo len := by
  unfold encL; exact BitVec.extractLsb'_append_eq_of_add_le h
theorem dpart_encI (imm : BitVec 11) (lo len : Nat) (h : lo + len ≤ 5) : (encI s w op d a imm).extractLsb' (16 + lo) len = d.extractLsb' lo len := by
  unfold encI
  refine (BitVec.extractLsb'_append_eq_of_le (by omega)).trans ?_
  refine (BitVec.extractLsb'_append_eq_of_le (by omega)).trans ?_
  refine (BitVec.extractLsb'_append_eq_of_add_le (by omega)).trans ?_
  rw [show 16 + lo - 11 - 5 = lo by omega]
@[simp] theorem bit2_encM (ofs : BitVec 8) (size : BitVec 2) : bitAt (encM s w op d a ofs size ha) 2 = size.getLsbD 1 := by
  have := congrArg (fun y => BitVec.getLsbD y 1) (encM_field_size s w op d a ha ofs size)
  simpa [bitAt] using this
@[simp] theorem bit1_encM (ofs : BitVec 8) (size : BitVec 2) : bitAt (encM s w op d a ofs size ha) 1 = size.getLsbD 0 := by
  have := congrArg (fun y => BitVec.getLsbD y 0) (encM_field_size s w op d a ha ofs size)
  simpa [bitAt] using this
/-- The V field lies in the low 21 bits. -/
theorem fV_of_low (x : W32) (p : BitVec 21) (h : x.extractLsb' 0 21 = p) : fV x = p.extractLsb' 0 4 := by
  have := congrArg (fun y => BitVec.extractLsb' 0 4 y) h
  rw [← this]
  apply BitVec.eq_of_getLsbD_eq
  intro i hi

  simp [fV, hi]
@[simp] theorem imm_encL (imm : BitVec 16) : (encL s w op d imm).extractLsb' 0 16 = imm := encL_field_imm ..
@[simp] theorem ofs_encM (ofs : BitVec 8) (size : BitVec 2) : (encM s w op d a ofs size ha).extractLsb' 3 8 = ofs := encM_field_ofs ..
@[simp] theorem size_encM (ofs : BitVec 8) (size : BitVec 2) : (encM s w op d a ofs size ha).extractLsb' 1 2 = size := encM_field_size ..
@[simp] theorem bit0_encM (ofs : BitVec 8) (size : BitVec 2) : bitAt (encM s w op d a ofs size ha) 0 = ha :=
  getLsbD_of_field _ _ _ (encM_field_ha ..)
@[simp] theorem p_encJ (p : BitVec 21) : (encJ s w op p).extractLsb' 0 21 = p := encJ_field_p ..

end Sys2Proof
end

