-- ==== Sys2Proof/Laws/State.lean ====
section
/-! SUPPORT. What each update of the state leaves as it was, field by field, and what is read back after it. -/

namespace Sys2Proof.Machine

/-! ### Tables -/

theorem Table.findL_setL {β : Type} (l : List (Nat × β)) (k j : Nat) (v : β) :
    Table.findL (Table.setL l k v) j = if j = k then some v else Table.findL l j := by
  induction l with
  | nil => by_cases h : j = k <;> simp [Table.setL, Table.findL, h, @eq_comm _ k j]
  | cons p r ih =>
    obtain ⟨k', w⟩ := p
    unfold Table.setL
    split
    · by_cases h : j = k
      · simp [Table.findL, h]
      · simp [Table.findL, h, Ne.symm h]
    · split
      · rename_i h2; subst h2
        by_cases h : j = k
        · simp [Table.findL, h]
        · simp [Table.findL, h, Ne.symm h]
      · rename_i h2
        simp only [Table.findL, ih]
        by_cases h : k' = j
        · subst h; simp [Ne.symm h2]
        · simp [h]
@[simp] theorem Table.find_set {β : Type} (t : Table β) (k j : Nat) (v : β) :
    (t.set k v).find j = if j = k then some v else t.find j := Table.findL_setL ..
@[simp] theorem Table.get_set {β : Type} (t : Table β) (k j : Nat) (v d : β) :
    (t.set k v).get j d = if j = k then v else t.get j d := by
  unfold Table.get; rw [Table.find_set]; split <;> rfl
@[simp] theorem Table.get_empty {β : Type} (k : Nat) (d : β) : (Table.empty : Table β).get k d = d := rfl
theorem Table.setL_setL {β : Type} (l : List (Nat × β)) (k : Nat) (v w : β) :
    Table.setL (Table.setL l k v) k w = Table.setL l k w := by
  induction l with
  | nil => simp [Table.setL]
  | cons p r ih =>
    obtain ⟨k', u⟩ := p
    by_cases h1 : k < k'
    · simp [Table.setL, h1]
    · by_cases h2 : k = k'
      · simp [Table.setL, h2]
      · simp [Table.setL, h1, h2, ih]
@[simp] theorem Table.set_set {β : Type} (t : Table β) (k : Nat) (v w : β) : (t.set k v).set k w = t.set k w := by
  simp [Table.set, Table.setL_setL]

/-! ### The parts of a state read back -/

section
variable (s : State)
@[simp] theorem State.ctx_setCtx (c d : Nat) (x : Ctx) : (s.setCtx c x).ctx d = if d = c then x else s.ctx d := Table.get_set ..
@[simp] theorem State.ctx_modCtx (c d : Nat) (f : Ctx → Ctx) :
    (s.modCtx c f).ctx d = if d = c then f (s.ctx c) else s.ctx d := Table.get_set ..
theorem State.ctx_modCtx_self (c : Nat) (f : Ctx → Ctx) : (s.modCtx c f).ctx c = f (s.ctx c) := by simp
@[simp] theorem State.setCtx_setCtx (c : Nat) (x y : Ctx) : (s.setCtx c x).setCtx c y = s.setCtx c y := by
  simp [State.setCtx]
@[simp] theorem State.modCtx_modCtx (c : Nat) (f g : Ctx → Ctx) : (s.modCtx c f).modCtx c g = s.modCtx c fun x => g (f x) := by
  simp [State.modCtx]
@[simp] theorem State.core_setCore (k j : Nat) (x : CoreSt) : (s.setCore k x).core j = if j = k then x else s.core j := by
  unfold State.core State.setCore
  rw [Table.get_set]
@[simp] theorem State.core_modCore (k j : Nat) (f : CoreSt → CoreSt) :
    (s.modCore k f).core j = if j = k then f (s.core k) else s.core j := by
  unfold State.modCore; rw [State.core_setCore]
@[simp] theorem State.cluster_modCluster (k j : Nat) (f : ClusterSt → ClusterSt) :
    (s.modCluster k f).cluster j = if j = k then f (s.cluster k) else s.cluster j := Table.get_set ..
@[simp] theorem State.die_modDie (k j : Nat) (f : DieSt → DieSt) :
    (s.modDie k f).die j = if j = k then f (s.die k) else s.die j := Table.get_set ..
@[simp] theorem State.hub_modHub' (f : HubSt → HubSt) : (s.modHub f).hub = f s.hub := rfl
@[simp] theorem State.slotOf_setSlot (k i j : Nat) (v : Nat × Bool × Option Nat × Bool) :
    (s.setSlot k i v).slotOf k j = if j = i then v else s.slotOf k j := by
  unfold State.slotOf State.setSlot
  rw [Table.get_set]
  by_cases h : j = i
  · simp [h]
  · simp [h]
end

/-! ### What an update of the state leaves alone -/

section
variable (s : State)
@[simp] theorem State.setCtx_now (c : Nat) (x : Ctx) : (s.setCtx c x).now = s.now := rfl
@[simp] theorem State.setCtx_agenda (c : Nat) (x : Ctx) : (s.setCtx c x).agenda = s.agenda := rfl
@[simp] theorem State.setCtx_fresh (c : Nat) (x : Ctx) : (s.setCtx c x).fresh = s.fresh := rfl
@[simp] theorem State.setCtx_cur (c : Nat) (x : Ctx) : (s.setCtx c x).cur = s.cur := rfl
@[simp] theorem State.setCtx_eng (c : Nat) (x : Ctx) : (s.setCtx c x).eng = s.eng := rfl
@[simp] theorem State.setCtx_iss (c : Nat) (x : Ctx) : (s.setCtx c x).iss = s.iss := rfl
@[simp] theorem State.setCtx_cores (c : Nat) (x : Ctx) : (s.setCtx c x).cores = s.cores := rfl
@[simp] theorem State.setCtx_clusters (c : Nat) (x : Ctx) : (s.setCtx c x).clusters = s.clusters := rfl
@[simp] theorem State.setCtx_dies (c : Nat) (x : Ctx) : (s.setCtx c x).dies = s.dies := rfl
@[simp] theorem State.setCtx_mem (c : Nat) (x : Ctx) : (s.setCtx c x).mem = s.mem := rfl
@[simp] theorem State.setCtx_poison (c : Nat) (x : Ctx) : (s.setCtx c x).poison = s.poison := rfl
@[simp] theorem State.setCtx_slots (c : Nat) (x : Ctx) : (s.setCtx c x).slots = s.slots := rfl
@[simp] theorem State.setCtx_contribs (c : Nat) (x : Ctx) : (s.setCtx c x).contribs = s.contribs := rfl
@[simp] theorem State.setCtx_msgs (c : Nat) (x : Ctx) : (s.setCtx c x).msgs = s.msgs := rfl
@[simp] theorem State.setCtx_saved (c : Nat) (x : Ctx) : (s.setCtx c x).saved = s.saved := rfl
@[simp] theorem State.setCtx_walks (c : Nat) (x : Ctx) : (s.setCtx c x).walks = s.walks := rfl
@[simp] theorem State.setCtx_hub (c : Nat) (x : Ctx) : (s.setCtx c x).hub = s.hub := rfl
@[simp] theorem State.modCtx_now (c : Nat) (f : Ctx → Ctx) : (s.modCtx c f).now = s.now := rfl
@[simp] theorem State.modCtx_agenda (c : Nat) (f : Ctx → Ctx) : (s.modCtx c f).agenda = s.agenda := rfl
@[simp] theorem State.modCtx_fresh (c : Nat) (f : Ctx → Ctx) : (s.modCtx c f).fresh = s.fresh := rfl
@[simp] theorem State.modCtx_cur (c : Nat) (f : Ctx → Ctx) : (s.modCtx c f).cur = s.cur := rfl
@[simp] theorem State.modCtx_eng (c : Nat) (f : Ctx → Ctx) : (s.modCtx c f).eng = s.eng := rfl
@[simp] theorem State.modCtx_iss (c : Nat) (f : Ctx → Ctx) : (s.modCtx c f).iss = s.iss := rfl
@[simp] theorem State.modCtx_cores (c : Nat) (f : Ctx → Ctx) : (s.modCtx c f).cores = s.cores := rfl
@[simp] theorem State.modCtx_clusters (c : Nat) (f : Ctx → Ctx) : (s.modCtx c f).clusters = s.clusters := rfl
@[simp] theorem State.modCtx_dies (c : Nat) (f : Ctx → Ctx) : (s.modCtx c f).dies = s.dies := rfl
@[simp] theorem State.modCtx_mem (c : Nat) (f : Ctx → Ctx) : (s.modCtx c f).mem = s.mem := rfl
@[simp] theorem State.modCtx_poison (c : Nat) (f : Ctx → Ctx) : (s.modCtx c f).poison = s.poison := rfl
@[simp] theorem State.modCtx_slots (c : Nat) (f : Ctx → Ctx) : (s.modCtx c f).slots = s.slots := rfl
@[simp] theorem State.modCtx_contribs (c : Nat) (f : Ctx → Ctx) : (s.modCtx c f).contribs = s.contribs := rfl
@[simp] theorem State.modCtx_msgs (c : Nat) (f : Ctx → Ctx) : (s.modCtx c f).msgs = s.msgs := rfl
@[simp] theorem State.modCtx_saved (c : Nat) (f : Ctx → Ctx) : (s.modCtx c f).saved = s.saved := rfl
@[simp] theorem State.modCtx_walks (c : Nat) (f : Ctx → Ctx) : (s.modCtx c f).walks = s.walks := rfl
@[simp] theorem State.modCtx_hub (c : Nat) (f : Ctx → Ctx) : (s.modCtx c f).hub = s.hub := rfl
@[simp] theorem State.setCore_now (k : Nat) (x : CoreSt) : (s.setCore k x).now = s.now := rfl
@[simp] theorem State.setCore_agenda (k : Nat) (x : CoreSt) : (s.setCore k x).agenda = s.agenda := rfl
@[simp] theorem State.setCore_fresh (k : Nat) (x : CoreSt) : (s.setCore k x).fresh = s.fresh := rfl
@[simp] theorem State.setCore_cur (k : Nat) (x : CoreSt) : (s.setCore k x).cur = s.cur := rfl
@[simp] theorem State.setCore_eng (k : Nat) (x : CoreSt) : (s.setCore k x).eng = s.eng := rfl
@[simp] theorem State.setCore_iss (k : Nat) (x : CoreSt) : (s.setCore k x).iss = s.iss := rfl
@[simp] theorem State.setCore_ctxs (k : Nat) (x : CoreSt) : (s.setCore k x).ctxs = s.ctxs := rfl
@[simp] theorem State.setCore_clusters (k : Nat) (x : CoreSt) : (s.setCore k x).clusters = s.clusters := rfl
@[simp] theorem State.setCore_dies (k : Nat) (x : CoreSt) : (s.setCore k x).dies = s.dies := rfl
@[simp] theorem State.setCore_mem (k : Nat) (x : CoreSt) : (s.setCore k x).mem = s.mem := rfl
@[simp] theorem State.setCore_poison (k : Nat) (x : CoreSt) : (s.setCore k x).poison = s.poison := rfl
@[simp] theorem State.setCore_slots (k : Nat) (x : CoreSt) : (s.setCore k x).slots = s.slots := rfl
@[simp] theorem State.setCore_contribs (k : Nat) (x : CoreSt) : (s.setCore k x).contribs = s.contribs := rfl
@[simp] theorem State.setCore_msgs (k : Nat) (x : CoreSt) : (s.setCore k x).msgs = s.msgs := rfl
@[simp] theorem State.setCore_saved (k : Nat) (x : CoreSt) : (s.setCore k x).saved = s.saved := rfl
@[simp] theorem State.setCore_walks (k : Nat) (x : CoreSt) : (s.setCore k x).walks = s.walks := rfl
@[simp] theorem State.setCore_hub (k : Nat) (x : CoreSt) : (s.setCore k x).hub = s.hub := rfl
@[simp] theorem State.modCore_now (k : Nat) (f : CoreSt → CoreSt) : (s.modCore k f).now = s.now := rfl
@[simp] theorem State.modCore_agenda (k : Nat) (f : CoreSt → CoreSt) : (s.modCore k f).agenda = s.agenda := rfl
@[simp] theorem State.modCore_fresh (k : Nat) (f : CoreSt → CoreSt) : (s.modCore k f).fresh = s.fresh := rfl
@[simp] theorem State.modCore_cur (k : Nat) (f : CoreSt → CoreSt) : (s.modCore k f).cur = s.cur := rfl
@[simp] theorem State.modCore_eng (k : Nat) (f : CoreSt → CoreSt) : (s.modCore k f).eng = s.eng := rfl
@[simp] theorem State.modCore_iss (k : Nat) (f : CoreSt → CoreSt) : (s.modCore k f).iss = s.iss := rfl
@[simp] theorem State.modCore_ctxs (k : Nat) (f : CoreSt → CoreSt) : (s.modCore k f).ctxs = s.ctxs := rfl
@[simp] theorem State.modCore_clusters (k : Nat) (f : CoreSt → CoreSt) : (s.modCore k f).clusters = s.clusters := rfl
@[simp] theorem State.modCore_dies (k : Nat) (f : CoreSt → CoreSt) : (s.modCore k f).dies = s.dies := rfl
@[simp] theorem State.modCore_mem (k : Nat) (f : CoreSt → CoreSt) : (s.modCore k f).mem = s.mem := rfl
@[simp] theorem State.modCore_poison (k : Nat) (f : CoreSt → CoreSt) : (s.modCore k f).poison = s.poison := rfl
@[simp] theorem State.modCore_slots (k : Nat) (f : CoreSt → CoreSt) : (s.modCore k f).slots = s.slots := rfl
@[simp] theorem State.modCore_contribs (k : Nat) (f : CoreSt → CoreSt) : (s.modCore k f).contribs = s.contribs := rfl
@[simp] theorem State.modCore_msgs (k : Nat) (f : CoreSt → CoreSt) : (s.modCore k f).msgs = s.msgs := rfl
@[simp] theorem State.modCore_saved (k : Nat) (f : CoreSt → CoreSt) : (s.modCore k f).saved = s.saved := rfl
@[simp] theorem State.modCore_walks (k : Nat) (f : CoreSt → CoreSt) : (s.modCore k f).walks = s.walks := rfl
@[simp] theorem State.modCore_hub (k : Nat) (f : CoreSt → CoreSt) : (s.modCore k f).hub = s.hub := rfl
@[simp] theorem State.modCluster_now (cl : Nat) (f : ClusterSt → ClusterSt) : (s.modCluster cl f).now = s.now := rfl
@[simp] theorem State.modCluster_agenda (cl : Nat) (f : ClusterSt → ClusterSt) : (s.modCluster cl f).agenda = s.agenda := rfl
@[simp] theorem State.modCluster_fresh (cl : Nat) (f : ClusterSt → ClusterSt) : (s.modCluster cl f).fresh = s.fresh := rfl
@[simp] theorem State.modCluster_cur (cl : Nat) (f : ClusterSt → ClusterSt) : (s.modCluster cl f).cur = s.cur := rfl
@[simp] theorem State.modCluster_eng (cl : Nat) (f : ClusterSt → ClusterSt) : (s.modCluster cl f).eng = s.eng := rfl
@[simp] theorem State.modCluster_iss (cl : Nat) (f : ClusterSt → ClusterSt) : (s.modCluster cl f).iss = s.iss := rfl
@[simp] theorem State.modCluster_ctxs (cl : Nat) (f : ClusterSt → ClusterSt) : (s.modCluster cl f).ctxs = s.ctxs := rfl
@[simp] theorem State.modCluster_cores (cl : Nat) (f : ClusterSt → ClusterSt) : (s.modCluster cl f).cores = s.cores := rfl
@[simp] theorem State.modCluster_dies (cl : Nat) (f : ClusterSt → ClusterSt) : (s.modCluster cl f).dies = s.dies := rfl
@[simp] theorem State.modCluster_mem (cl : Nat) (f : ClusterSt → ClusterSt) : (s.modCluster cl f).mem = s.mem := rfl
@[simp] theorem State.modCluster_poison (cl : Nat) (f : ClusterSt → ClusterSt) : (s.modCluster cl f).poison = s.poison := rfl
@[simp] theorem State.modCluster_slots (cl : Nat) (f : ClusterSt → ClusterSt) : (s.modCluster cl f).slots = s.slots := rfl
@[simp] theorem State.modCluster_contribs (cl : Nat) (f : ClusterSt → ClusterSt) : (s.modCluster cl f).contribs = s.contribs := rfl
@[simp] theorem State.modCluster_msgs (cl : Nat) (f : ClusterSt → ClusterSt) : (s.modCluster cl f).msgs = s.msgs := rfl
@[simp] theorem State.modCluster_saved (cl : Nat) (f : ClusterSt → ClusterSt) : (s.modCluster cl f).saved = s.saved := rfl
@[simp] theorem State.modCluster_walks (cl : Nat) (f : ClusterSt → ClusterSt) : (s.modCluster cl f).walks = s.walks := rfl
@[simp] theorem State.modCluster_hub (cl : Nat) (f : ClusterSt → ClusterSt) : (s.modCluster cl f).hub = s.hub := rfl
@[simp] theorem State.modDie_now (d : Nat) (f : DieSt → DieSt) : (s.modDie d f).now = s.now := rfl
@[simp] theorem State.modDie_agenda (d : Nat) (f : DieSt → DieSt) : (s.modDie d f).agenda = s.agenda := rfl
@[simp] theorem State.modDie_fresh (d : Nat) (f : DieSt → DieSt) : (s.modDie d f).fresh = s.fresh := rfl
@[simp] theorem State.modDie_cur (d : Nat) (f : DieSt → DieSt) : (s.modDie d f).cur = s.cur := rfl
@[simp] theorem State.modDie_eng (d : Nat) (f : DieSt → DieSt) : (s.modDie d f).eng = s.eng := rfl
@[simp] theorem State.modDie_iss (d : Nat) (f : DieSt → DieSt) : (s.modDie d f).iss = s.iss := rfl
@[simp] theorem State.modDie_ctxs (d : Nat) (f : DieSt → DieSt) : (s.modDie d f).ctxs = s.ctxs := rfl
@[simp] theorem State.modDie_cores (d : Nat) (f : DieSt → DieSt) : (s.modDie d f).cores = s.cores := rfl
@[simp] theorem State.modDie_clusters (d : Nat) (f : DieSt → DieSt) : (s.modDie d f).clusters = s.clusters := rfl
@[simp] theorem State.modDie_mem (d : Nat) (f : DieSt → DieSt) : (s.modDie d f).mem = s.mem := rfl
@[simp] theorem State.modDie_poison (d : Nat) (f : DieSt → DieSt) : (s.modDie d f).poison = s.poison := rfl
@[simp] theorem State.modDie_slots (d : Nat) (f : DieSt → DieSt) : (s.modDie d f).slots = s.slots := rfl
@[simp] theorem State.modDie_contribs (d : Nat) (f : DieSt → DieSt) : (s.modDie d f).contribs = s.contribs := rfl
@[simp] theorem State.modDie_msgs (d : Nat) (f : DieSt → DieSt) : (s.modDie d f).msgs = s.msgs := rfl
@[simp] theorem State.modDie_saved (d : Nat) (f : DieSt → DieSt) : (s.modDie d f).saved = s.saved := rfl
@[simp] theorem State.modDie_walks (d : Nat) (f : DieSt → DieSt) : (s.modDie d f).walks = s.walks := rfl
@[simp] theorem State.modDie_hub (d : Nat) (f : DieSt → DieSt) : (s.modDie d f).hub = s.hub := rfl
@[simp] theorem State.modHub_now (f : HubSt → HubSt) : (s.modHub f).now = s.now := rfl
@[simp] theorem State.modHub_agenda (f : HubSt → HubSt) : (s.modHub f).agenda = s.agenda := rfl
@[simp] theorem State.modHub_fresh (f : HubSt → HubSt) : (s.modHub f).fresh = s.fresh := rfl
@[simp] theorem State.modHub_cur (f : HubSt → HubSt) : (s.modHub f).cur = s.cur := rfl
@[simp] theorem State.modHub_eng (f : HubSt → HubSt) : (s.modHub f).eng = s.eng := rfl
@[simp] theorem State.modHub_iss (f : HubSt → HubSt) : (s.modHub f).iss = s.iss := rfl
@[simp] theorem State.modHub_ctxs (f : HubSt → HubSt) : (s.modHub f).ctxs = s.ctxs := rfl
@[simp] theorem State.modHub_cores (f : HubSt → HubSt) : (s.modHub f).cores = s.cores := rfl
@[simp] theorem State.modHub_clusters (f : HubSt → HubSt) : (s.modHub f).clusters = s.clusters := rfl
@[simp] theorem State.modHub_dies (f : HubSt → HubSt) : (s.modHub f).dies = s.dies := rfl
@[simp] theorem State.modHub_mem (f : HubSt → HubSt) : (s.modHub f).mem = s.mem := rfl
@[simp] theorem State.modHub_poison (f : HubSt → HubSt) : (s.modHub f).poison = s.poison := rfl
@[simp] theorem State.modHub_slots (f : HubSt → HubSt) : (s.modHub f).slots = s.slots := rfl
@[simp] theorem State.modHub_contribs (f : HubSt → HubSt) : (s.modHub f).contribs = s.contribs := rfl
@[simp] theorem State.modHub_msgs (f : HubSt → HubSt) : (s.modHub f).msgs = s.msgs := rfl
@[simp] theorem State.modHub_saved (f : HubSt → HubSt) : (s.modHub f).saved = s.saved := rfl
@[simp] theorem State.modHub_walks (f : HubSt → HubSt) : (s.modHub f).walks = s.walks := rfl
@[simp] theorem State.setSlot_now (k i : Nat) (v : Nat × Bool × Option Nat × Bool) : (s.setSlot k i v).now = s.now := rfl
@[simp] theorem State.setSlot_agenda (k i : Nat) (v : Nat × Bool × Option Nat × Bool) : (s.setSlot k i v).agenda = s.agenda := rfl
@[simp] theorem State.setSlot_fresh (k i : Nat) (v : Nat × Bool × Option Nat × Bool) : (s.setSlot k i v).fresh = s.fresh := rfl
@[simp] theorem State.setSlot_cur (k i : Nat) (v : Nat × Bool × Option Nat × Bool) : (s.setSlot k i v).cur = s.cur := rfl
@[simp] theorem State.setSlot_eng (k i : Nat) (v : Nat × Bool × Option Nat × Bool) : (s.setSlot k i v).eng = s.eng := rfl
@[simp] theorem State.setSlot_iss (k i : Nat) (v : Nat × Bool × Option Nat × Bool) : (s.setSlot k i v).iss = s.iss := rfl
@[simp] theorem State.setSlot_ctxs (k i : Nat) (v : Nat × Bool × Option Nat × Bool) : (s.setSlot k i v).ctxs = s.ctxs := rfl
@[simp] theorem State.setSlot_cores (k i : Nat) (v : Nat × Bool × Option Nat × Bool) : (s.setSlot k i v).cores = s.cores := rfl
@[simp] theorem State.setSlot_clusters (k i : Nat) (v : Nat × Bool × Option Nat × Bool) : (s.setSlot k i v).clusters = s.clusters := rfl
@[simp] theorem State.setSlot_dies (k i : Nat) (v : Nat × Bool × Option Nat × Bool) : (s.setSlot k i v).dies = s.dies := rfl
@[simp] theorem State.setSlot_mem (k i : Nat) (v : Nat × Bool × Option Nat × Bool) : (s.setSlot k i v).mem = s.mem := rfl
@[simp] theorem State.setSlot_poison (k i : Nat) (v : Nat × Bool × Option Nat × Bool) : (s.setSlot k i v).poison = s.poison := rfl
@[simp] theorem State.setSlot_contribs (k i : Nat) (v : Nat × Bool × Option Nat × Bool) : (s.setSlot k i v).contribs = s.contribs := rfl
@[simp] theorem State.setSlot_msgs (k i : Nat) (v : Nat × Bool × Option Nat × Bool) : (s.setSlot k i v).msgs = s.msgs := rfl
@[simp] theorem State.setSlot_saved (k i : Nat) (v : Nat × Bool × Option Nat × Bool) : (s.setSlot k i v).saved = s.saved := rfl
@[simp] theorem State.setSlot_walks (k i : Nat) (v : Nat × Bool × Option Nat × Bool) : (s.setSlot k i v).walks = s.walks := rfl
@[simp] theorem State.setSlot_hub (k i : Nat) (v : Nat × Bool × Option Nat × Bool) : (s.setSlot k i v).hub = s.hub := rfl
@[simp] theorem State.bump_now : (s.bump).now = s.now := rfl
@[simp] theorem State.bump_agenda : (s.bump).agenda = s.agenda := rfl
@[simp] theorem State.bump_cur : (s.bump).cur = s.cur := rfl
@[simp] theorem State.bump_eng : (s.bump).eng = s.eng := rfl
@[simp] theorem State.bump_iss : (s.bump).iss = s.iss := rfl
@[simp] theorem State.bump_ctxs : (s.bump).ctxs = s.ctxs := rfl
@[simp] theorem State.bump_cores : (s.bump).cores = s.cores := rfl
@[simp] theorem State.bump_clusters : (s.bump).clusters = s.clusters := rfl
@[simp] theorem State.bump_dies : (s.bump).dies = s.dies := rfl
@[simp] theorem State.bump_mem : (s.bump).mem = s.mem := rfl
@[simp] theorem State.bump_poison : (s.bump).poison = s.poison := rfl
@[simp] theorem State.bump_slots : (s.bump).slots = s.slots := rfl
@[simp] theorem State.bump_contribs : (s.bump).contribs = s.contribs := rfl
@[simp] theorem State.bump_msgs : (s.bump).msgs = s.msgs := rfl
@[simp] theorem State.bump_saved : (s.bump).saved = s.saved := rfl
@[simp] theorem State.bump_walks : (s.bump).walks = s.walks := rfl
@[simp] theorem State.bump_hub : (s.bump).hub = s.hub := rfl
@[simp] theorem State.wake_now (l : List Nat) : (s.wake l).now = s.now := rfl
@[simp] theorem State.wake_agenda (l : List Nat) : (s.wake l).agenda = s.agenda := rfl
@[simp] theorem State.wake_fresh (l : List Nat) : (s.wake l).fresh = s.fresh := rfl
@[simp] theorem State.wake_cur (l : List Nat) : (s.wake l).cur = s.cur := rfl
@[simp] theorem State.wake_eng (l : List Nat) : (s.wake l).eng = s.eng := rfl
@[simp] theorem State.wake_iss (l : List Nat) : (s.wake l).iss = s.iss := rfl
@[simp] theorem State.wake_cores (l : List Nat) : (s.wake l).cores = s.cores := rfl
@[simp] theorem State.wake_clusters (l : List Nat) : (s.wake l).clusters = s.clusters := rfl
@[simp] theorem State.wake_dies (l : List Nat) : (s.wake l).dies = s.dies := rfl
@[simp] theorem State.wake_mem (l : List Nat) : (s.wake l).mem = s.mem := rfl
@[simp] theorem State.wake_poison (l : List Nat) : (s.wake l).poison = s.poison := rfl
@[simp] theorem State.wake_slots (l : List Nat) : (s.wake l).slots = s.slots := rfl
@[simp] theorem State.wake_contribs (l : List Nat) : (s.wake l).contribs = s.contribs := rfl
@[simp] theorem State.wake_msgs (l : List Nat) : (s.wake l).msgs = s.msgs := rfl
@[simp] theorem State.wake_saved (l : List Nat) : (s.wake l).saved = s.saved := rfl
@[simp] theorem State.wake_walks (l : List Nat) : (s.wake l).walks = s.walks := rfl
@[simp] theorem State.wake_hub (l : List Nat) : (s.wake l).hub = s.hub := rfl
@[simp] theorem State.addPoison_now (l n : Nat) : (s.addPoison l n).now = s.now := rfl
@[simp] theorem State.addPoison_agenda (l n : Nat) : (s.addPoison l n).agenda = s.agenda := rfl
@[simp] theorem State.addPoison_fresh (l n : Nat) : (s.addPoison l n).fresh = s.fresh := rfl
@[simp] theorem State.addPoison_cur (l n : Nat) : (s.addPoison l n).cur = s.cur := rfl
@[simp] theorem State.addPoison_eng (l n : Nat) : (s.addPoison l n).eng = s.eng := rfl
@[simp] theorem State.addPoison_iss (l n : Nat) : (s.addPoison l n).iss = s.iss := rfl
@[simp] theorem State.addPoison_ctxs (l n : Nat) : (s.addPoison l n).ctxs = s.ctxs := rfl
@[simp] theorem State.addPoison_cores (l n : Nat) : (s.addPoison l n).cores = s.cores := rfl
@[simp] theorem State.addPoison_clusters (l n : Nat) : (s.addPoison l n).clusters = s.clusters := rfl
@[simp] theorem State.addPoison_dies (l n : Nat) : (s.addPoison l n).dies = s.dies := rfl
@[simp] theorem State.addPoison_mem (l n : Nat) : (s.addPoison l n).mem = s.mem := rfl
@[simp] theorem State.addPoison_slots (l n : Nat) : (s.addPoison l n).slots = s.slots := rfl
@[simp] theorem State.addPoison_contribs (l n : Nat) : (s.addPoison l n).contribs = s.contribs := rfl
@[simp] theorem State.addPoison_msgs (l n : Nat) : (s.addPoison l n).msgs = s.msgs := rfl
@[simp] theorem State.addPoison_saved (l n : Nat) : (s.addPoison l n).saved = s.saved := rfl
@[simp] theorem State.addPoison_walks (l n : Nat) : (s.addPoison l n).walks = s.walks := rfl
@[simp] theorem State.addPoison_hub (l n : Nat) : (s.addPoison l n).hub = s.hub := rfl
@[simp] theorem State.touch_now (p : List Nat) (w : Bool) : (s.touch p w).now = s.now := rfl
@[simp] theorem State.touch_agenda (p : List Nat) (w : Bool) : (s.touch p w).agenda = s.agenda := rfl
@[simp] theorem State.touch_fresh (p : List Nat) (w : Bool) : (s.touch p w).fresh = s.fresh := rfl
@[simp] theorem State.touch_cur (p : List Nat) (w : Bool) : (s.touch p w).cur = s.cur := rfl
@[simp] theorem State.touch_eng (p : List Nat) (w : Bool) : (s.touch p w).eng = s.eng := rfl
@[simp] theorem State.touch_iss (p : List Nat) (w : Bool) : (s.touch p w).iss = s.iss := rfl
@[simp] theorem State.touch_ctxs (p : List Nat) (w : Bool) : (s.touch p w).ctxs = s.ctxs := rfl
@[simp] theorem State.touch_cores (p : List Nat) (w : Bool) : (s.touch p w).cores = s.cores := rfl
@[simp] theorem State.touch_clusters (p : List Nat) (w : Bool) : (s.touch p w).clusters = s.clusters := rfl
@[simp] theorem State.touch_dies (p : List Nat) (w : Bool) : (s.touch p w).dies = s.dies := rfl
@[simp] theorem State.touch_poison (p : List Nat) (w : Bool) : (s.touch p w).poison = s.poison := rfl
@[simp] theorem State.touch_slots (p : List Nat) (w : Bool) : (s.touch p w).slots = s.slots := rfl
@[simp] theorem State.touch_contribs (p : List Nat) (w : Bool) : (s.touch p w).contribs = s.contribs := rfl
@[simp] theorem State.touch_msgs (p : List Nat) (w : Bool) : (s.touch p w).msgs = s.msgs := rfl
@[simp] theorem State.touch_saved (p : List Nat) (w : Bool) : (s.touch p w).saved = s.saved := rfl
@[simp] theorem State.touch_walks (p : List Nat) (w : Bool) : (s.touch p w).walks = s.walks := rfl
@[simp] theorem State.touch_hub (p : List Nat) (w : Bool) : (s.touch p w).hub = s.hub := rfl
@[simp] theorem State.storeBytes_now (b : List (Nat × Byte)) : (s.storeBytes b).now = s.now := rfl
@[simp] theorem State.storeBytes_agenda (b : List (Nat × Byte)) : (s.storeBytes b).agenda = s.agenda := rfl
@[simp] theorem State.storeBytes_fresh (b : List (Nat × Byte)) : (s.storeBytes b).fresh = s.fresh := rfl
@[simp] theorem State.storeBytes_cur (b : List (Nat × Byte)) : (s.storeBytes b).cur = s.cur := rfl
@[simp] theorem State.storeBytes_eng (b : List (Nat × Byte)) : (s.storeBytes b).eng = s.eng := rfl
@[simp] theorem State.storeBytes_iss (b : List (Nat × Byte)) : (s.storeBytes b).iss = s.iss := rfl
@[simp] theorem State.storeBytes_cores (b : List (Nat × Byte)) : (s.storeBytes b).cores = s.cores := rfl
@[simp] theorem State.storeBytes_clusters (b : List (Nat × Byte)) : (s.storeBytes b).clusters = s.clusters := rfl
@[simp] theorem State.storeBytes_dies (b : List (Nat × Byte)) : (s.storeBytes b).dies = s.dies := rfl
@[simp] theorem State.storeBytes_slots (b : List (Nat × Byte)) : (s.storeBytes b).slots = s.slots := rfl
@[simp] theorem State.storeBytes_contribs (b : List (Nat × Byte)) : (s.storeBytes b).contribs = s.contribs := rfl
@[simp] theorem State.storeBytes_msgs (b : List (Nat × Byte)) : (s.storeBytes b).msgs = s.msgs := rfl
@[simp] theorem State.storeBytes_saved (b : List (Nat × Byte)) : (s.storeBytes b).saved = s.saved := rfl
@[simp] theorem State.storeBytes_walks (b : List (Nat × Byte)) : (s.storeBytes b).walks = s.walks := rfl
@[simp] theorem State.storeBytes_hub (b : List (Nat × Byte)) : (s.storeBytes b).hub = s.hub := rfl
@[simp] theorem State.wr_now (l n v : Nat) : (s.wr l n v).now = s.now := rfl
@[simp] theorem State.wr_agenda (l n v : Nat) : (s.wr l n v).agenda = s.agenda := rfl
@[simp] theorem State.wr_fresh (l n v : Nat) : (s.wr l n v).fresh = s.fresh := rfl
@[simp] theorem State.wr_cur (l n v : Nat) : (s.wr l n v).cur = s.cur := rfl
@[simp] theorem State.wr_eng (l n v : Nat) : (s.wr l n v).eng = s.eng := rfl
@[simp] theorem State.wr_iss (l n v : Nat) : (s.wr l n v).iss = s.iss := rfl
@[simp] theorem State.wr_cores (l n v : Nat) : (s.wr l n v).cores = s.cores := rfl
@[simp] theorem State.wr_clusters (l n v : Nat) : (s.wr l n v).clusters = s.clusters := rfl
@[simp] theorem State.wr_dies (l n v : Nat) : (s.wr l n v).dies = s.dies := rfl
@[simp] theorem State.wr_slots (l n v : Nat) : (s.wr l n v).slots = s.slots := rfl
@[simp] theorem State.wr_contribs (l n v : Nat) : (s.wr l n v).contribs = s.contribs := rfl
@[simp] theorem State.wr_msgs (l n v : Nat) : (s.wr l n v).msgs = s.msgs := rfl
@[simp] theorem State.wr_saved (l n v : Nat) : (s.wr l n v).saved = s.saved := rfl
@[simp] theorem State.wr_walks (l n v : Nat) : (s.wr l n v).walks = s.walks := rfl
@[simp] theorem State.wr_hub (l n v : Nat) : (s.wr l n v).hub = s.hub := rfl
@[simp] theorem State.core_setCtx (c : Nat) (x : Ctx) (d : Nat) : (s.setCtx c x).core d = s.core d := rfl
@[simp] theorem State.cluster_setCtx (c : Nat) (x : Ctx) (d : Nat) : (s.setCtx c x).cluster d = s.cluster d := rfl
@[simp] theorem State.die_setCtx (c : Nat) (x : Ctx) (d : Nat) : (s.setCtx c x).die d = s.die d := rfl
@[simp] theorem State.core_modCtx (c : Nat) (f : Ctx → Ctx) (d : Nat) : (s.modCtx c f).core d = s.core d := rfl
@[simp] theorem State.cluster_modCtx (c : Nat) (f : Ctx → Ctx) (d : Nat) : (s.modCtx c f).cluster d = s.cluster d := rfl
@[simp] theorem State.die_modCtx (c : Nat) (f : Ctx → Ctx) (d : Nat) : (s.modCtx c f).die d = s.die d := rfl
@[simp] theorem State.ctx_setCore (k : Nat) (x : CoreSt) (d : Nat) : (s.setCore k x).ctx d = s.ctx d := rfl
@[simp] theorem State.cluster_setCore (k : Nat) (x : CoreSt) (d : Nat) : (s.setCore k x).cluster d = s.cluster d := rfl
@[simp] theorem State.die_setCore (k : Nat) (x : CoreSt) (d : Nat) : (s.setCore k x).die d = s.die d := rfl
@[simp] theorem State.ctx_modCore (k : Nat) (f : CoreSt → CoreSt) (d : Nat) : (s.modCore k f).ctx d = s.ctx d := rfl
@[simp] theorem State.cluster_modCore (k : Nat) (f : CoreSt → CoreSt) (d : Nat) : (s.modCore k f).cluster d = s.cluster d := rfl
@[simp] theorem State.die_modCore (k : Nat) (f : CoreSt → CoreSt) (d : Nat) : (s.modCore k f).die d = s.die d := rfl
@[simp] theorem State.ctx_modCluster (cl : Nat) (f : ClusterSt → ClusterSt) (d : Nat) : (s.modCluster cl f).ctx d = s.ctx d := rfl
@[simp] theorem State.core_modCluster (cl : Nat) (f : ClusterSt → ClusterSt) (d : Nat) : (s.modCluster cl f).core d = s.core d := rfl
@[simp] theorem State.die_modCluster (cl : Nat) (f : ClusterSt → ClusterSt) (d : Nat) : (s.modCluster cl f).die d = s.die d := rfl
@[simp] theorem State.ctx_modDie (d' : Nat) (f : DieSt → DieSt) (d : Nat) : (s.modDie d' f).ctx d = s.ctx d := rfl
@[simp] theorem State.core_modDie (d' : Nat) (f : DieSt → DieSt) (d : Nat) : (s.modDie d' f).core d = s.core d := rfl
@[simp] theorem State.cluster_modDie (d' : Nat) (f : DieSt → DieSt) (d : Nat) : (s.modDie d' f).cluster d = s.cluster d := rfl
@[simp] theorem State.ctx_modHub (f : HubSt → HubSt) (d : Nat) : (s.modHub f).ctx d = s.ctx d := rfl
@[simp] theorem State.core_modHub (f : HubSt → HubSt) (d : Nat) : (s.modHub f).core d = s.core d := rfl
@[simp] theorem State.cluster_modHub (f : HubSt → HubSt) (d : Nat) : (s.modHub f).cluster d = s.cluster d := rfl
@[simp] theorem State.die_modHub (f : HubSt → HubSt) (d : Nat) : (s.modHub f).die d = s.die d := rfl
@[simp] theorem State.ctx_setSlot (k i : Nat) (v : Nat × Bool × Option Nat × Bool) (d : Nat) : (s.setSlot k i v).ctx d = s.ctx d := rfl
@[simp] theorem State.core_setSlot (k i : Nat) (v : Nat × Bool × Option Nat × Bool) (d : Nat) : (s.setSlot k i v).core d = s.core d := rfl
@[simp] theorem State.cluster_setSlot (k i : Nat) (v : Nat × Bool × Option Nat × Bool) (d : Nat) : (s.setSlot k i v).cluster d = s.cluster d := rfl
@[simp] theorem State.die_setSlot (k i : Nat) (v : Nat × Bool × Option Nat × Bool) (d : Nat) : (s.setSlot k i v).die d = s.die d := rfl
@[simp] theorem State.ctx_bump (d : Nat) : (s.bump).ctx d = s.ctx d := rfl
@[simp] theorem State.core_bump (d : Nat) : (s.bump).core d = s.core d := rfl
@[simp] theorem State.cluster_bump (d : Nat) : (s.bump).cluster d = s.cluster d := rfl
@[simp] theorem State.die_bump (d : Nat) : (s.bump).die d = s.die d := rfl
@[simp] theorem State.core_wake (l : List Nat) (d : Nat) : (s.wake l).core d = s.core d := rfl
@[simp] theorem State.cluster_wake (l : List Nat) (d : Nat) : (s.wake l).cluster d = s.cluster d := rfl
@[simp] theorem State.die_wake (l : List Nat) (d : Nat) : (s.wake l).die d = s.die d := rfl
@[simp] theorem State.ctx_addPoison (l n : Nat) (d : Nat) : (s.addPoison l n).ctx d = s.ctx d := rfl
@[simp] theorem State.core_addPoison (l n : Nat) (d : Nat) : (s.addPoison l n).core d = s.core d := rfl
@[simp] theorem State.cluster_addPoison (l n : Nat) (d : Nat) : (s.addPoison l n).cluster d = s.cluster d := rfl
@[simp] theorem State.die_addPoison (l n : Nat) (d : Nat) : (s.addPoison l n).die d = s.die d := rfl
@[simp] theorem State.ctx_touch (p : List Nat) (w : Bool) (d : Nat) : (s.touch p w).ctx d = s.ctx d := rfl
@[simp] theorem State.core_touch (p : List Nat) (w : Bool) (d : Nat) : (s.touch p w).core d = s.core d := rfl
@[simp] theorem State.cluster_touch (p : List Nat) (w : Bool) (d : Nat) : (s.touch p w).cluster d = s.cluster d := rfl
@[simp] theorem State.die_touch (p : List Nat) (w : Bool) (d : Nat) : (s.touch p w).die d = s.die d := rfl
@[simp] theorem State.core_storeBytes (b : List (Nat × Byte)) (d : Nat) : (s.storeBytes b).core d = s.core d := rfl
@[simp] theorem State.cluster_storeBytes (b : List (Nat × Byte)) (d : Nat) : (s.storeBytes b).cluster d = s.cluster d := rfl
@[simp] theorem State.die_storeBytes (b : List (Nat × Byte)) (d : Nat) : (s.storeBytes b).die d = s.die d := rfl
@[simp] theorem State.core_wr (l n v : Nat) (d : Nat) : (s.wr l n v).core d = s.core d := rfl
@[simp] theorem State.cluster_wr (l n v : Nat) (d : Nat) : (s.wr l n v).cluster d = s.cluster d := rfl
@[simp] theorem State.die_wr (l n v : Nat) (d : Nat) : (s.wr l n v).die d = s.die d := rfl
/-! What a charged cycle, the advance of the clock and the two together leave alone. -/

theorem State.chargeCycle_eq (k : Nat) : ∃ m : Table W64, s.chargeCycle k = s.modHub fun h => { h with mclass := m } := by
  unfold State.chargeCycle
  split
  · exact ⟨_, rfl⟩
  · exact ⟨s.hub.mclass, rfl⟩
/-- A charged cycle changes nothing but the class counters of the hub (R237). -/
theorem State.chargeAll_eq : ∃ m : Table W64, s.chargeAll = s.modHub fun h => { h with mclass := m } := by
  unfold State.chargeAll
  have h (l : List Nat) : ∀ s : State, ∃ m : Table W64, l.foldl (fun (s : State) k => s.chargeCycle k) s = s.modHub fun h => { h with mclass := m } := by
    induction l with
    | nil => exact fun s => ⟨s.hub.mclass, rfl⟩
    | cons k r ih =>
      intro s
      obtain ⟨m, hm⟩ := s.chargeCycle_eq k
      obtain ⟨n, hn⟩ := ih (s.chargeCycle k)
      exact ⟨n, by rw [List.foldl_cons, hn, hm]; rfl⟩
  exact h _ s
@[simp] theorem State.chargeAll_now : (s.chargeAll).now = s.now := by obtain ⟨_, h⟩ := s.chargeAll_eq; rw [h]; rfl
@[simp] theorem State.chargeAll_agenda : (s.chargeAll).agenda = s.agenda := by obtain ⟨_, h⟩ := s.chargeAll_eq; rw [h]; rfl
@[simp] theorem State.chargeAll_fresh : (s.chargeAll).fresh = s.fresh := by obtain ⟨_, h⟩ := s.chargeAll_eq; rw [h]; rfl
@[simp] theorem State.chargeAll_cur : (s.chargeAll).cur = s.cur := by obtain ⟨_, h⟩ := s.chargeAll_eq; rw [h]; rfl
@[simp] theorem State.chargeAll_eng : (s.chargeAll).eng = s.eng := by obtain ⟨_, h⟩ := s.chargeAll_eq; rw [h]; rfl
@[simp] theorem State.chargeAll_iss : (s.chargeAll).iss = s.iss := by obtain ⟨_, h⟩ := s.chargeAll_eq; rw [h]; rfl
@[simp] theorem State.chargeAll_ctxs : (s.chargeAll).ctxs = s.ctxs := by obtain ⟨_, h⟩ := s.chargeAll_eq; rw [h]; rfl
@[simp] theorem State.chargeAll_cores : (s.chargeAll).cores = s.cores := by obtain ⟨_, h⟩ := s.chargeAll_eq; rw [h]; rfl
@[simp] theorem State.chargeAll_clusters : (s.chargeAll).clusters = s.clusters := by obtain ⟨_, h⟩ := s.chargeAll_eq; rw [h]; rfl
@[simp] theorem State.chargeAll_dies : (s.chargeAll).dies = s.dies := by obtain ⟨_, h⟩ := s.chargeAll_eq; rw [h]; rfl
@[simp] theorem State.chargeAll_mem : (s.chargeAll).mem = s.mem := by obtain ⟨_, h⟩ := s.chargeAll_eq; rw [h]; rfl
@[simp] theorem State.chargeAll_poison : (s.chargeAll).poison = s.poison := by obtain ⟨_, h⟩ := s.chargeAll_eq; rw [h]; rfl
@[simp] theorem State.chargeAll_slots : (s.chargeAll).slots = s.slots := by obtain ⟨_, h⟩ := s.chargeAll_eq; rw [h]; rfl
@[simp] theorem State.chargeAll_contribs : (s.chargeAll).contribs = s.contribs := by obtain ⟨_, h⟩ := s.chargeAll_eq; rw [h]; rfl
@[simp] theorem State.chargeAll_msgs : (s.chargeAll).msgs = s.msgs := by obtain ⟨_, h⟩ := s.chargeAll_eq; rw [h]; rfl
@[simp] theorem State.chargeAll_saved : (s.chargeAll).saved = s.saved := by obtain ⟨_, h⟩ := s.chargeAll_eq; rw [h]; rfl
@[simp] theorem State.chargeAll_walks : (s.chargeAll).walks = s.walks := by obtain ⟨_, h⟩ := s.chargeAll_eq; rw [h]; rfl
/-- What the sequencer reads for a function sets AC bits in memory and nothing else (R168). -/
theorem State.seenAt_eq (vf va : Nat) : ∃ m : Memory, s.seenAt vf va = { s with mem := m } := by
  unfold State.seenAt
  split
  · exact ⟨_, rfl⟩
  · exact ⟨s.mem, rfl⟩
/-- Steps that change memory alone, one after the other. -/
theorem State.foldl_mem {β : Type} (f : State → β → State) (h : ∀ s b, ∃ m : Memory, f s b = { s with mem := m }) (l : List β) :
    ∀ s : State, ∃ m : Memory, l.foldl f s = { s with mem := m } := by
  induction l with
  | nil => exact fun s => ⟨s.mem, rfl⟩
  | cons b r ih =>
    intro s
    obtain ⟨m, hm⟩ := h s b
    obtain ⟨n, hn⟩ := ih (f s b)
    exact ⟨n, by rw [List.foldl_cons, hn, hm]⟩
theorem State.inputsSeen_eq (d : DepEntry) : ∃ m : Memory, s.inputsSeen d = { s with mem := m } := by
  unfold State.inputsSeen
  refine State.foldl_mem _ (fun s i => State.foldl_mem _ (fun s n => ?_) _ s) _ s
  dsimp only
  split
  · exact ⟨s.mem, rfl⟩
  · exact s.seenAt_eq ..
  · exact s.seenAt_eq ..
/-- A look at a table changes memory and the tables alone (R258). -/
theorem State.scan_eq (cl : Nat) : ∃ (m : Memory) (c : Table ClusterSt), s.scan cl = { s with mem := m, clusters := c } := by
  obtain ⟨m, hm⟩ := State.foldl_mem State.inputsSeen (fun s d => s.inputsSeen_eq d) (s.cluster cl).dep s
  exact ⟨m, s.clusters.set cl { s.cluster cl with dep := (s.cluster cl).dep.map s.look }, by simp only [State.scan, hm]; rfl⟩
theorem State.scanAll_eq : ∃ (m : Memory) (c : Table ClusterSt), s.scanAll = { s with mem := m, clusters := c } := by
  have h (l : List Nat) : ∀ s : State, ∃ (m : Memory) (c : Table ClusterSt), l.foldl State.scan s = { s with mem := m, clusters := c } := by
    induction l with
    | nil => exact fun s => ⟨s.mem, s.clusters, rfl⟩
    | cons k r ih =>
      intro s
      obtain ⟨m, c, hm⟩ := s.scan_eq k
      obtain ⟨n, e, hn⟩ := ih (s.scan k)
      exact ⟨n, e, by rw [List.foldl_cons, hn, hm]⟩
  exact h _ s
@[simp] theorem State.scanAll_now : (s.scanAll).now = s.now := by obtain ⟨_, _, h⟩ := s.scanAll_eq; rw [h]
@[simp] theorem State.scanAll_agenda : (s.scanAll).agenda = s.agenda := by obtain ⟨_, _, h⟩ := s.scanAll_eq; rw [h]
@[simp] theorem State.scanAll_fresh : (s.scanAll).fresh = s.fresh := by obtain ⟨_, _, h⟩ := s.scanAll_eq; rw [h]
@[simp] theorem State.scanAll_cur : (s.scanAll).cur = s.cur := by obtain ⟨_, _, h⟩ := s.scanAll_eq; rw [h]
@[simp] theorem State.scanAll_eng : (s.scanAll).eng = s.eng := by obtain ⟨_, _, h⟩ := s.scanAll_eq; rw [h]
@[simp] theorem State.scanAll_iss : (s.scanAll).iss = s.iss := by obtain ⟨_, _, h⟩ := s.scanAll_eq; rw [h]
@[simp] theorem State.scanAll_ctxs : (s.scanAll).ctxs = s.ctxs := by obtain ⟨_, _, h⟩ := s.scanAll_eq; rw [h]
@[simp] theorem State.scanAll_cores : (s.scanAll).cores = s.cores := by obtain ⟨_, _, h⟩ := s.scanAll_eq; rw [h]
@[simp] theorem State.scanAll_dies : (s.scanAll).dies = s.dies := by obtain ⟨_, _, h⟩ := s.scanAll_eq; rw [h]
@[simp] theorem State.scanAll_poison : (s.scanAll).poison = s.poison := by obtain ⟨_, _, h⟩ := s.scanAll_eq; rw [h]
@[simp] theorem State.scanAll_slots : (s.scanAll).slots = s.slots := by obtain ⟨_, _, h⟩ := s.scanAll_eq; rw [h]
@[simp] theorem State.scanAll_contribs : (s.scanAll).contribs = s.contribs := by obtain ⟨_, _, h⟩ := s.scanAll_eq; rw [h]
@[simp] theorem State.scanAll_msgs : (s.scanAll).msgs = s.msgs := by obtain ⟨_, _, h⟩ := s.scanAll_eq; rw [h]
@[simp] theorem State.scanAll_saved : (s.scanAll).saved = s.saved := by obtain ⟨_, _, h⟩ := s.scanAll_eq; rw [h]
@[simp] theorem State.scanAll_walks : (s.scanAll).walks = s.walks := by obtain ⟨_, _, h⟩ := s.scanAll_eq; rw [h]
@[simp] theorem State.scanAll_hub : (s.scanAll).hub = s.hub := by obtain ⟨_, _, h⟩ := s.scanAll_eq; rw [h]
@[simp] theorem State.advance_agenda : (s.advance).agenda = s.agenda := rfl
@[simp] theorem State.advance_fresh : (s.advance).fresh = s.fresh := rfl
@[simp] theorem State.advance_cur : (s.advance).cur = s.cur := rfl
@[simp] theorem State.advance_eng : (s.advance).eng = s.eng := rfl
@[simp] theorem State.advance_iss : (s.advance).iss = s.iss := rfl
@[simp] theorem State.advance_cores : (s.advance).cores = s.cores := rfl
@[simp] theorem State.advance_clusters : (s.advance).clusters = s.clusters := rfl
@[simp] theorem State.advance_dies : (s.advance).dies = s.dies := rfl
@[simp] theorem State.advance_mem : (s.advance).mem = s.mem := rfl
@[simp] theorem State.advance_poison : (s.advance).poison = s.poison := rfl
@[simp] theorem State.advance_slots : (s.advance).slots = s.slots := rfl
@[simp] theorem State.advance_contribs : (s.advance).contribs = s.contribs := rfl
@[simp] theorem State.advance_msgs : (s.advance).msgs = s.msgs := rfl
@[simp] theorem State.advance_saved : (s.advance).saved = s.saved := rfl
@[simp] theorem State.advance_hub : (s.advance).hub = s.hub := rfl
@[simp] theorem State.advance_now : (s.advance).now = s.now + 1 := rfl
@[simp] theorem State.tick_now : (s.tick).now = s.now + 1 := by simp [State.tick]
@[simp] theorem State.tick_agenda : (s.tick).agenda = s.agenda := by simp [State.tick]
@[simp] theorem State.tick_fresh : (s.tick).fresh = s.fresh := by simp [State.tick]
@[simp] theorem State.tick_cur : (s.tick).cur = s.cur := by simp [State.tick]
@[simp] theorem State.tick_eng : (s.tick).eng = s.eng := by simp [State.tick]
@[simp] theorem State.tick_iss : (s.tick).iss = s.iss := by simp [State.tick]
@[simp] theorem State.tick_cores : (s.tick).cores = s.cores := by simp [State.tick]
@[simp] theorem State.tick_dies : (s.tick).dies = s.dies := by simp [State.tick]
@[simp] theorem State.tick_poison : (s.tick).poison = s.poison := by simp [State.tick]
@[simp] theorem State.tick_slots : (s.tick).slots = s.slots := by simp [State.tick]
@[simp] theorem State.tick_contribs : (s.tick).contribs = s.contribs := by simp [State.tick]
@[simp] theorem State.tick_msgs : (s.tick).msgs = s.msgs := by simp [State.tick]
@[simp] theorem State.tick_saved : (s.tick).saved = s.saved := by simp [State.tick]
theorem Table.findL_map {β γ : Type} (f : β → γ) (l : List (Nat × β)) (k : Nat) :
    Table.findL (l.map fun (p : Nat × β) => (p.1, f p.2)) k = (Table.findL l k).map f := by
  induction l with
  | nil => rfl
  | cons p r ih =>
    obtain ⟨j, v⟩ := p
    by_cases h : j = k <;> simp [Table.findL, h, ih]
/-- A tick changes nothing of a context but which report is due (R329). -/
@[simp] theorem State.ctx_tick (d : Nat) : (s.tick).ctx d = (s.ctx d).ageReport (s.now + 1) := by
  have h : Ctx.idle = Ctx.idle.ageReport (s.now + 1) := rfl
  simp only [State.tick, State.advance, State.scanAll_ctxs, State.scanAll_now, State.chargeAll_ctxs, State.chargeAll_now, State.ctx, Table.get, Table.find]
  rw [Table.findL_map fun x : Ctx => x.ageReport (s.now + 1)]
  cases Table.findL s.ctxs.l d <;> simp [← h]
@[simp] theorem State.core_tick (d : Nat) : (s.tick).core d = s.core d := by simp [State.core]
@[simp] theorem State.die_tick (d : Nat) : (s.tick).die d = s.die d := by simp [State.die]
end

/-! ### What an update of a context leaves alone -/

section
variable (x : Ctx)
@[simp] theorem Ctx.modR_r' (f : Regs → Regs) : (x.modR f).r = f x.r := rfl
@[simp] theorem Ctx.push_inflight' (t : Res) :
    (x.push t).inflight = x.inflight ++ [{ t with seq := x.nextSeq, iss := x.bundles }] := rfl
@[simp] theorem Ctx.push_nextSeq' (t : Res) : (x.push t).nextSeq = x.nextSeq + 1 := rfl
@[simp] theorem Ctx.push_r (t : Res) : (x.push t).r = x.r := rfl
@[simp] theorem Ctx.push_n (t : Res) : (x.push t).n = x.n := rfl
@[simp] theorem Ctx.push_np (t : Res) : (x.push t).np = x.np := rfl
@[simp] theorem Ctx.push_nrot (t : Res) : (x.push t).nrot = x.nrot := rfl
@[simp] theorem Ctx.push_pc (t : Res) : (x.push t).pc = x.pc := rfl
@[simp] theorem Ctx.push_pending (t : Res) : (x.push t).pending = x.pending := rfl
@[simp] theorem Ctx.push_phase (t : Res) : (x.push t).phase = x.phase := rfl
@[simp] theorem Ctx.push_rcd (t : Res) : (x.push t).rcd = x.rcd := rfl
@[simp] theorem Ctx.push_words (t : Res) : (x.push t).words = x.words := rfl
@[simp] theorem Ctx.push_vf (t : Res) : (x.push t).vf = x.vf := rfl
@[simp] theorem Ctx.push_part (t : Res) : (x.push t).part = x.part := rfl
@[simp] theorem Ctx.push_prv (t : Res) : (x.push t).prv = x.prv := rfl
@[simp] theorem Ctx.push_seqr (t : Res) : (x.push t).seqr = x.seqr := rfl
@[simp] theorem Ctx.push_tmem (t : Res) : (x.push t).tmem = x.tmem := rfl
@[simp] theorem Ctx.push_posted (t : Res) : (x.push t).posted = x.posted := rfl
@[simp] theorem Ctx.push_jcb (t : Res) : (x.push t).jcb = x.jcb := rfl
@[simp] theorem Ctx.push_idx (t : Res) : (x.push t).idx = x.idx := rfl
@[simp] theorem Ctx.push_errMultibr (t : Res) : (x.push t).errMultibr = x.errMultibr := rfl
@[simp] theorem Ctx.push_errRagged (t : Res) : (x.push t).errRagged = x.errRagged := rfl
@[simp] theorem Ctx.push_errUnsup (t : Res) : (x.push t).errUnsup = x.errUnsup := rfl
@[simp] theorem Ctx.push_errRaise (t : Res) : (x.push t).errRaise = x.errRaise := rfl
@[simp] theorem Ctx.push_tally (t : Res) : (x.push t).tally = x.tally := rfl
@[simp] theorem Ctx.push_ran (t : Res) : (x.push t).ran = x.ran := rfl
@[simp] theorem Ctx.push_trapCause (t : Res) : (x.push t).trapCause = x.trapCause := rfl
@[simp] theorem Ctx.push_trapPc (t : Res) : (x.push t).trapPc = x.trapPc := rfl
@[simp] theorem Ctx.push_trapAddr (t : Res) : (x.push t).trapAddr = x.trapAddr := rfl
@[simp] theorem Ctx.push_trapSrc (t : Res) : (x.push t).trapSrc = x.trapSrc := rfl
@[simp] theorem Ctx.push_lockQuota (t : Res) : (x.push t).lockQuota = x.lockQuota := rfl
@[simp] theorem Ctx.push_lquo (t : Res) : (x.push t).lquo = x.lquo := rfl
@[simp] theorem Ctx.push_pins (t : Res) : (x.push t).pins = x.pins := rfl
@[simp] theorem Ctx.push_ltag (t : Res) : (x.push t).ltag = x.ltag := rfl
@[simp] theorem Ctx.push_replay (t : Res) : (x.push t).replay = x.replay := rfl
@[simp] theorem Ctx.push_bundles (t : Res) : (x.push t).bundles = x.bundles := rfl
@[simp] theorem Ctx.push_nextIssue (t : Res) : (x.push t).nextIssue = x.nextIssue := rfl
@[simp] theorem Ctx.push_scyc (t : Res) : (x.push t).scyc = x.scyc := rfl
@[simp] theorem Ctx.push_stepMode (t : Res) : (x.push t).stepMode = x.stepMode := rfl
@[simp] theorem Ctx.push_lsq (t : Res) : (x.push t).lsq = x.lsq := rfl
@[simp] theorem Ctx.push_lsqDone (t : Res) : (x.push t).lsqDone = x.lsqDone := rfl
@[simp] theorem Ctx.push_rout (t : Res) : (x.push t).rout = x.rout := rfl
@[simp] theorem Ctx.push_basket (t : Res) : (x.push t).basket = x.basket := rfl
@[simp] theorem Ctx.push_preds (t : Res) : (x.push t).preds = x.preds := rfl
@[simp] theorem Ctx.push_held (t : Res) : (x.push t).held = x.held := rfl
@[simp] theorem Ctx.push_wait (t : Res) : (x.push t).wait = x.wait := rfl
@[simp] theorem Ctx.push_wfe (t : Res) : (x.push t).wfe = x.wfe := rfl
@[simp] theorem Ctx.push_resumed (t : Res) : (x.push t).resumed = x.resumed := rfl
@[simp] theorem Ctx.push_stop (t : Res) : (x.push t).stop = x.stop := rfl
@[simp] theorem Ctx.push_wsk (t : Res) : (x.push t).wsk = x.wsk := rfl
@[simp] theorem Ctx.push_agrTrap (t : Res) : (x.push t).agrTrap = x.agrTrap := rfl
@[simp] theorem Ctx.push_report (t : Res) : (x.push t).report = x.report := rfl
@[simp] theorem Ctx.push_killReport (t : Res) : (x.push t).killReport = x.killReport := rfl
@[simp] theorem Ctx.push_leave (t : Res) : (x.push t).leave = x.leave := rfl
@[simp] theorem Ctx.push_save (t : Res) : (x.push t).save = x.save := rfl
@[simp] theorem Ctx.push_loopOld (t : Res) : (x.push t).loopOld = x.loopOld := rfl
@[simp] theorem Ctx.push_picked (t : Res) : (x.push t).picked = x.picked := rfl
@[simp] theorem Ctx.push_quantum (t : Res) : (x.push t).quantum = x.quantum := rfl
@[simp] theorem Ctx.push_team (t : Res) : (x.push t).team = x.team := rfl
@[simp] theorem Ctx.push_tsize (t : Res) : (x.push t).tsize = x.tsize := rfl
@[simp] theorem Ctx.push_foot (t : Res) : (x.push t).foot = x.foot := rfl
@[simp] theorem Ctx.push_fslot (t : Res) : (x.push t).fslot = x.fslot := rfl
@[simp] theorem Ctx.push_gang (t : Res) : (x.push t).gang = x.gang := rfl
@[simp] theorem Ctx.push_leader (t : Res) : (x.push t).leader = x.leader := rfl
@[simp] theorem Ctx.push_promoted (t : Res) : (x.push t).promoted = x.promoted := rfl
@[simp] theorem Ctx.push_barred (t : Res) : (x.push t).barred = x.barred := rfl
@[simp] theorem Ctx.push_fence (t : Res) : (x.push t).fence = x.fence := rfl
@[simp] theorem Ctx.modR_n (f : Regs → Regs) : (x.modR f).n = x.n := rfl
@[simp] theorem Ctx.modR_np (f : Regs → Regs) : (x.modR f).np = x.np := rfl
@[simp] theorem Ctx.modR_nrot (f : Regs → Regs) : (x.modR f).nrot = x.nrot := rfl
@[simp] theorem Ctx.modR_pc (f : Regs → Regs) : (x.modR f).pc = x.pc := rfl
@[simp] theorem Ctx.modR_pending (f : Regs → Regs) : (x.modR f).pending = x.pending := rfl
@[simp] theorem Ctx.modR_phase (f : Regs → Regs) : (x.modR f).phase = x.phase := rfl
@[simp] theorem Ctx.modR_rcd (f : Regs → Regs) : (x.modR f).rcd = x.rcd := rfl
@[simp] theorem Ctx.modR_words (f : Regs → Regs) : (x.modR f).words = x.words := rfl
@[simp] theorem Ctx.modR_vf (f : Regs → Regs) : (x.modR f).vf = x.vf := rfl
@[simp] theorem Ctx.modR_part (f : Regs → Regs) : (x.modR f).part = x.part := rfl
@[simp] theorem Ctx.modR_prv (f : Regs → Regs) : (x.modR f).prv = x.prv := rfl
@[simp] theorem Ctx.modR_seqr (f : Regs → Regs) : (x.modR f).seqr = x.seqr := rfl
@[simp] theorem Ctx.modR_tmem (f : Regs → Regs) : (x.modR f).tmem = x.tmem := rfl
@[simp] theorem Ctx.modR_posted (f : Regs → Regs) : (x.modR f).posted = x.posted := rfl
@[simp] theorem Ctx.modR_jcb (f : Regs → Regs) : (x.modR f).jcb = x.jcb := rfl
@[simp] theorem Ctx.modR_idx (f : Regs → Regs) : (x.modR f).idx = x.idx := rfl
@[simp] theorem Ctx.modR_errMultibr (f : Regs → Regs) : (x.modR f).errMultibr = x.errMultibr := rfl
@[simp] theorem Ctx.modR_errRagged (f : Regs → Regs) : (x.modR f).errRagged = x.errRagged := rfl
@[simp] theorem Ctx.modR_errUnsup (f : Regs → Regs) : (x.modR f).errUnsup = x.errUnsup := rfl
@[simp] theorem Ctx.modR_errRaise (f : Regs → Regs) : (x.modR f).errRaise = x.errRaise := rfl
@[simp] theorem Ctx.modR_tally (f : Regs → Regs) : (x.modR f).tally = x.tally := rfl
@[simp] theorem Ctx.modR_ran (f : Regs → Regs) : (x.modR f).ran = x.ran := rfl
@[simp] theorem Ctx.modR_trapCause (f : Regs → Regs) : (x.modR f).trapCause = x.trapCause := rfl
@[simp] theorem Ctx.modR_trapPc (f : Regs → Regs) : (x.modR f).trapPc = x.trapPc := rfl
@[simp] theorem Ctx.modR_trapAddr (f : Regs → Regs) : (x.modR f).trapAddr = x.trapAddr := rfl
@[simp] theorem Ctx.modR_trapSrc (f : Regs → Regs) : (x.modR f).trapSrc = x.trapSrc := rfl
@[simp] theorem Ctx.modR_lockQuota (f : Regs → Regs) : (x.modR f).lockQuota = x.lockQuota := rfl
@[simp] theorem Ctx.modR_lquo (f : Regs → Regs) : (x.modR f).lquo = x.lquo := rfl
@[simp] theorem Ctx.modR_pins (f : Regs → Regs) : (x.modR f).pins = x.pins := rfl
@[simp] theorem Ctx.modR_ltag (f : Regs → Regs) : (x.modR f).ltag = x.ltag := rfl
@[simp] theorem Ctx.modR_inflight (f : Regs → Regs) : (x.modR f).inflight = x.inflight := rfl
@[simp] theorem Ctx.modR_replay (f : Regs → Regs) : (x.modR f).replay = x.replay := rfl
@[simp] theorem Ctx.modR_nextSeq (f : Regs → Regs) : (x.modR f).nextSeq = x.nextSeq := rfl
@[simp] theorem Ctx.modR_bundles (f : Regs → Regs) : (x.modR f).bundles = x.bundles := rfl
@[simp] theorem Ctx.modR_nextIssue (f : Regs → Regs) : (x.modR f).nextIssue = x.nextIssue := rfl
@[simp] theorem Ctx.modR_scyc (f : Regs → Regs) : (x.modR f).scyc = x.scyc := rfl
@[simp] theorem Ctx.modR_stepMode (f : Regs → Regs) : (x.modR f).stepMode = x.stepMode := rfl
@[simp] theorem Ctx.modR_lsq (f : Regs → Regs) : (x.modR f).lsq = x.lsq := rfl
@[simp] theorem Ctx.modR_lsqDone (f : Regs → Regs) : (x.modR f).lsqDone = x.lsqDone := rfl
@[simp] theorem Ctx.modR_rout (f : Regs → Regs) : (x.modR f).rout = x.rout := rfl
@[simp] theorem Ctx.modR_basket (f : Regs → Regs) : (x.modR f).basket = x.basket := rfl
@[simp] theorem Ctx.modR_preds (f : Regs → Regs) : (x.modR f).preds = x.preds := rfl
@[simp] theorem Ctx.modR_held (f : Regs → Regs) : (x.modR f).held = x.held := rfl
@[simp] theorem Ctx.modR_wait (f : Regs → Regs) : (x.modR f).wait = x.wait := rfl
@[simp] theorem Ctx.modR_wfe (f : Regs → Regs) : (x.modR f).wfe = x.wfe := rfl
@[simp] theorem Ctx.modR_resumed (f : Regs → Regs) : (x.modR f).resumed = x.resumed := rfl
@[simp] theorem Ctx.modR_stop (f : Regs → Regs) : (x.modR f).stop = x.stop := rfl
@[simp] theorem Ctx.modR_wsk (f : Regs → Regs) : (x.modR f).wsk = x.wsk := rfl
@[simp] theorem Ctx.modR_agrTrap (f : Regs → Regs) : (x.modR f).agrTrap = x.agrTrap := rfl
@[simp] theorem Ctx.modR_report (f : Regs → Regs) : (x.modR f).report = x.report := rfl
@[simp] theorem Ctx.modR_killReport (f : Regs → Regs) : (x.modR f).killReport = x.killReport := rfl
@[simp] theorem Ctx.modR_leave (f : Regs → Regs) : (x.modR f).leave = x.leave := rfl
@[simp] theorem Ctx.modR_save (f : Regs → Regs) : (x.modR f).save = x.save := rfl
@[simp] theorem Ctx.modR_loopOld (f : Regs → Regs) : (x.modR f).loopOld = x.loopOld := rfl
@[simp] theorem Ctx.modR_picked (f : Regs → Regs) : (x.modR f).picked = x.picked := rfl
@[simp] theorem Ctx.modR_quantum (f : Regs → Regs) : (x.modR f).quantum = x.quantum := rfl
@[simp] theorem Ctx.modR_team (f : Regs → Regs) : (x.modR f).team = x.team := rfl
@[simp] theorem Ctx.modR_tsize (f : Regs → Regs) : (x.modR f).tsize = x.tsize := rfl
@[simp] theorem Ctx.modR_foot (f : Regs → Regs) : (x.modR f).foot = x.foot := rfl
@[simp] theorem Ctx.modR_fslot (f : Regs → Regs) : (x.modR f).fslot = x.fslot := rfl
@[simp] theorem Ctx.modR_gang (f : Regs → Regs) : (x.modR f).gang = x.gang := rfl
@[simp] theorem Ctx.modR_leader (f : Regs → Regs) : (x.modR f).leader = x.leader := rfl
@[simp] theorem Ctx.modR_promoted (f : Regs → Regs) : (x.modR f).promoted = x.promoted := rfl
@[simp] theorem Ctx.modR_barred (f : Regs → Regs) : (x.modR f).barred = x.barred := rfl
@[simp] theorem Ctx.modR_fence (f : Regs → Regs) : (x.modR f).fence = x.fence := rfl
@[simp] theorem Ctx.deliver_r (q : Nat) (v : Wide) (p : W64) : (x.deliver q v p).r = x.r := rfl
@[simp] theorem Ctx.deliver_n (q : Nat) (v : Wide) (p : W64) : (x.deliver q v p).n = x.n := rfl
@[simp] theorem Ctx.deliver_np (q : Nat) (v : Wide) (p : W64) : (x.deliver q v p).np = x.np := rfl
@[simp] theorem Ctx.deliver_nrot (q : Nat) (v : Wide) (p : W64) : (x.deliver q v p).nrot = x.nrot := rfl
@[simp] theorem Ctx.deliver_pc (q : Nat) (v : Wide) (p : W64) : (x.deliver q v p).pc = x.pc := rfl
@[simp] theorem Ctx.deliver_pending (q : Nat) (v : Wide) (p : W64) : (x.deliver q v p).pending = x.pending := rfl
@[simp] theorem Ctx.deliver_phase (q : Nat) (v : Wide) (p : W64) : (x.deliver q v p).phase = x.phase := rfl
@[simp] theorem Ctx.deliver_rcd (q : Nat) (v : Wide) (p : W64) : (x.deliver q v p).rcd = x.rcd := rfl
@[simp] theorem Ctx.deliver_words (q : Nat) (v : Wide) (p : W64) : (x.deliver q v p).words = x.words := rfl
@[simp] theorem Ctx.deliver_vf (q : Nat) (v : Wide) (p : W64) : (x.deliver q v p).vf = x.vf := rfl
@[simp] theorem Ctx.deliver_part (q : Nat) (v : Wide) (p : W64) : (x.deliver q v p).part = x.part := rfl
@[simp] theorem Ctx.deliver_prv (q : Nat) (v : Wide) (p : W64) : (x.deliver q v p).prv = x.prv := rfl
@[simp] theorem Ctx.deliver_seqr (q : Nat) (v : Wide) (p : W64) : (x.deliver q v p).seqr = x.seqr := rfl
@[simp] theorem Ctx.deliver_tmem (q : Nat) (v : Wide) (p : W64) : (x.deliver q v p).tmem = x.tmem := rfl
@[simp] theorem Ctx.deliver_posted (q : Nat) (v : Wide) (p : W64) : (x.deliver q v p).posted = x.posted := rfl
@[simp] theorem Ctx.deliver_jcb (q : Nat) (v : Wide) (p : W64) : (x.deliver q v p).jcb = x.jcb := rfl
@[simp] theorem Ctx.deliver_idx (q : Nat) (v : Wide) (p : W64) : (x.deliver q v p).idx = x.idx := rfl
@[simp] theorem Ctx.deliver_errMultibr (q : Nat) (v : Wide) (p : W64) : (x.deliver q v p).errMultibr = x.errMultibr := rfl
@[simp] theorem Ctx.deliver_errRagged (q : Nat) (v : Wide) (p : W64) : (x.deliver q v p).errRagged = x.errRagged := rfl
@[simp] theorem Ctx.deliver_errUnsup (q : Nat) (v : Wide) (p : W64) : (x.deliver q v p).errUnsup = x.errUnsup := rfl
@[simp] theorem Ctx.deliver_errRaise (q : Nat) (v : Wide) (p : W64) : (x.deliver q v p).errRaise = x.errRaise := rfl
@[simp] theorem Ctx.deliver_tally (q : Nat) (v : Wide) (p : W64) : (x.deliver q v p).tally = x.tally := rfl
@[simp] theorem Ctx.deliver_ran (q : Nat) (v : Wide) (p : W64) : (x.deliver q v p).ran = x.ran := rfl
@[simp] theorem Ctx.deliver_trapCause (q : Nat) (v : Wide) (p : W64) : (x.deliver q v p).trapCause = x.trapCause := rfl
@[simp] theorem Ctx.deliver_trapPc (q : Nat) (v : Wide) (p : W64) : (x.deliver q v p).trapPc = x.trapPc := rfl
@[simp] theorem Ctx.deliver_trapAddr (q : Nat) (v : Wide) (p : W64) : (x.deliver q v p).trapAddr = x.trapAddr := rfl
@[simp] theorem Ctx.deliver_trapSrc (q : Nat) (v : Wide) (p : W64) : (x.deliver q v p).trapSrc = x.trapSrc := rfl
@[simp] theorem Ctx.deliver_lockQuota (q : Nat) (v : Wide) (p : W64) : (x.deliver q v p).lockQuota = x.lockQuota := rfl
@[simp] theorem Ctx.deliver_lquo (q : Nat) (v : Wide) (p : W64) : (x.deliver q v p).lquo = x.lquo := rfl
@[simp] theorem Ctx.deliver_pins (q : Nat) (v : Wide) (p : W64) : (x.deliver q v p).pins = x.pins := rfl
@[simp] theorem Ctx.deliver_ltag (q : Nat) (v : Wide) (p : W64) : (x.deliver q v p).ltag = x.ltag := rfl
@[simp] theorem Ctx.deliver_replay (q : Nat) (v : Wide) (p : W64) : (x.deliver q v p).replay = x.replay := rfl
@[simp] theorem Ctx.deliver_nextSeq (q : Nat) (v : Wide) (p : W64) : (x.deliver q v p).nextSeq = x.nextSeq := rfl
@[simp] theorem Ctx.deliver_bundles (q : Nat) (v : Wide) (p : W64) : (x.deliver q v p).bundles = x.bundles := rfl
@[simp] theorem Ctx.deliver_nextIssue (q : Nat) (v : Wide) (p : W64) : (x.deliver q v p).nextIssue = x.nextIssue := rfl
@[simp] theorem Ctx.deliver_scyc (q : Nat) (v : Wide) (p : W64) : (x.deliver q v p).scyc = x.scyc := rfl
@[simp] theorem Ctx.deliver_stepMode (q : Nat) (v : Wide) (p : W64) : (x.deliver q v p).stepMode = x.stepMode := rfl
@[simp] theorem Ctx.deliver_lsq (q : Nat) (v : Wide) (p : W64) : (x.deliver q v p).lsq = x.lsq := rfl
@[simp] theorem Ctx.deliver_lsqDone (q : Nat) (v : Wide) (p : W64) : (x.deliver q v p).lsqDone = x.lsqDone := rfl
@[simp] theorem Ctx.deliver_rout (q : Nat) (v : Wide) (p : W64) : (x.deliver q v p).rout = x.rout := rfl
@[simp] theorem Ctx.deliver_basket (q : Nat) (v : Wide) (p : W64) : (x.deliver q v p).basket = x.basket := rfl
@[simp] theorem Ctx.deliver_preds (q : Nat) (v : Wide) (p : W64) : (x.deliver q v p).preds = x.preds := rfl
@[simp] theorem Ctx.deliver_held (q : Nat) (v : Wide) (p : W64) : (x.deliver q v p).held = x.held := rfl
@[simp] theorem Ctx.deliver_wait (q : Nat) (v : Wide) (p : W64) : (x.deliver q v p).wait = x.wait := rfl
@[simp] theorem Ctx.deliver_wfe (q : Nat) (v : Wide) (p : W64) : (x.deliver q v p).wfe = x.wfe := rfl
@[simp] theorem Ctx.deliver_resumed (q : Nat) (v : Wide) (p : W64) : (x.deliver q v p).resumed = x.resumed := rfl
@[simp] theorem Ctx.deliver_stop (q : Nat) (v : Wide) (p : W64) : (x.deliver q v p).stop = x.stop := rfl
@[simp] theorem Ctx.deliver_wsk (q : Nat) (v : Wide) (p : W64) : (x.deliver q v p).wsk = x.wsk := rfl
@[simp] theorem Ctx.deliver_agrTrap (q : Nat) (v : Wide) (p : W64) : (x.deliver q v p).agrTrap = x.agrTrap := rfl
@[simp] theorem Ctx.deliver_report (q : Nat) (v : Wide) (p : W64) : (x.deliver q v p).report = x.report := rfl
@[simp] theorem Ctx.deliver_killReport (q : Nat) (v : Wide) (p : W64) : (x.deliver q v p).killReport = x.killReport := rfl
@[simp] theorem Ctx.deliver_leave (q : Nat) (v : Wide) (p : W64) : (x.deliver q v p).leave = x.leave := rfl
@[simp] theorem Ctx.deliver_save (q : Nat) (v : Wide) (p : W64) : (x.deliver q v p).save = x.save := rfl
@[simp] theorem Ctx.deliver_loopOld (q : Nat) (v : Wide) (p : W64) : (x.deliver q v p).loopOld = x.loopOld := rfl
@[simp] theorem Ctx.deliver_picked (q : Nat) (v : Wide) (p : W64) : (x.deliver q v p).picked = x.picked := rfl
@[simp] theorem Ctx.deliver_quantum (q : Nat) (v : Wide) (p : W64) : (x.deliver q v p).quantum = x.quantum := rfl
@[simp] theorem Ctx.deliver_team (q : Nat) (v : Wide) (p : W64) : (x.deliver q v p).team = x.team := rfl
@[simp] theorem Ctx.deliver_tsize (q : Nat) (v : Wide) (p : W64) : (x.deliver q v p).tsize = x.tsize := rfl
@[simp] theorem Ctx.deliver_foot (q : Nat) (v : Wide) (p : W64) : (x.deliver q v p).foot = x.foot := rfl
@[simp] theorem Ctx.deliver_fslot (q : Nat) (v : Wide) (p : W64) : (x.deliver q v p).fslot = x.fslot := rfl
@[simp] theorem Ctx.deliver_gang (q : Nat) (v : Wide) (p : W64) : (x.deliver q v p).gang = x.gang := rfl
@[simp] theorem Ctx.deliver_leader (q : Nat) (v : Wide) (p : W64) : (x.deliver q v p).leader = x.leader := rfl
@[simp] theorem Ctx.deliver_promoted (q : Nat) (v : Wide) (p : W64) : (x.deliver q v p).promoted = x.promoted := rfl
@[simp] theorem Ctx.deliver_barred (q : Nat) (v : Wide) (p : W64) : (x.deliver q v p).barred = x.barred := rfl
@[simp] theorem Ctx.deliver_fence (q : Nat) (v : Wide) (p : W64) : (x.deliver q v p).fence = x.fence := rfl
end

end Sys2Proof.Machine
end

