-- ==== Sys2Proof/Laws/Memory.lean ====
section
/-! SUPPORT. Byte memory in canonical form: every write keeps it, and what is read after a write. -/

namespace Sys2Proof.Machine

/-! ### Cell lists -/

theorem Memory.wfL_mono {l : List Host.Cell} {lo lo' : Nat} (hle : lo' ≤ lo) (h : Memory.wfL lo l = true) : Memory.wfL lo' l = true := by
  cases l with
  | nil => rfl
  | cons p r =>
    obtain ⟨k, b⟩ := p
    simp only [Memory.wfL, Bool.and_eq_true, decide_eq_true_eq] at *
    exact ⟨⟨by omega, h.1.2⟩, h.2⟩
theorem Memory.readL_below {l : List Host.Cell} {lo a : Nat} (h : Memory.wfL lo l = true) (ha : a < lo) :
    Memory.readL l a = Memory.unlisted := by
  cases l with
  | nil => rfl
  | cons p r =>
    obtain ⟨k, b⟩ := p
    simp [Memory.wfL] at h
    have h1 : ¬ k = a := by omega
    have h2 : a < k := by omega
    simp [Memory.readL, h1, h2]
theorem Memory.writeL_wf (a : Nat) (b : Byte) (l : List Host.Cell) (lo : Nat) (h : Memory.wfL lo l = true) (ha : lo ≤ a) :
    Memory.wfL lo (Memory.writeL l a b) = true := by
  induction l generalizing lo with
  | nil => by_cases hb : b = Memory.unlisted <;> simp [Memory.writeL, Memory.wfL, hb, ha]
  | cons p r ih =>
    obtain ⟨k, c⟩ := p
    have h' := h
    simp only [Memory.wfL, Bool.and_eq_true, decide_eq_true_eq, bne_iff_ne, ne_eq] at h
    obtain ⟨⟨hk, hc⟩, hr⟩ := h
    unfold Memory.writeL
    split
    · split
      · exact h'
      · simp only [Memory.wfL, Bool.and_eq_true, decide_eq_true_eq, bne_iff_ne, ne_eq]
        exact ⟨⟨ha, by assumption⟩, ⟨by omega, hc⟩, hr⟩
    · split
      · split
        · exact Memory.wfL_mono (by omega) hr
        · simp only [Memory.wfL, Bool.and_eq_true, decide_eq_true_eq, bne_iff_ne, ne_eq]
          rename_i h1 h2 _; subst h2; exact ⟨⟨ha, by assumption⟩, hr⟩
      · simp only [Memory.wfL, Bool.and_eq_true, decide_eq_true_eq, bne_iff_ne, ne_eq]
        exact ⟨⟨hk, hc⟩, ih (k + 1) hr (by omega)⟩
theorem Memory.readL_writeL (a j : Nat) (b : Byte) (l : List Host.Cell) (lo : Nat) (h : Memory.wfL lo l = true) :
    Memory.readL (Memory.writeL l a b) j = if j = a then b else Memory.readL l j := by
  induction l generalizing lo with
  | nil =>
    by_cases hb : b = Memory.unlisted <;> by_cases hj : j = a
    · simp [Memory.writeL, Memory.readL, hb]
    · simp [Memory.writeL, Memory.readL, hb]
    · simp [Memory.writeL, Memory.readL, hb, hj]
    · simp [Memory.writeL, Memory.readL, hb, hj, Ne.symm hj]
  | cons p r ih =>
    obtain ⟨k, c⟩ := p
    simp only [Memory.wfL, Bool.and_eq_true, decide_eq_true_eq, bne_iff_ne, ne_eq] at h
    obtain ⟨⟨hk, hc⟩, hr⟩ := h
    unfold Memory.writeL
    split
    · rename_i hak
      split
      · rename_i hb
        by_cases hj : j = a
        · have h1 : ¬ k = a := by omega
          simp [Memory.readL, hb, hj, h1, hak]
        · simp [hj]
      · by_cases hj : j = a
        · simp [Memory.readL, hj]
        · have h1 : ¬ a = j := Ne.symm hj
          by_cases h2 : j < a
          · have h3 : ¬ k = j := by omega
            have h4 : j < k := by omega
            simp [Memory.readL, hj, h1, h2, h3, h4]
          · simp [Memory.readL, hj, h1, h2]
    · split
      · rename_i h1 h2
        subst h2
        split
        · rename_i hb
          by_cases hj : j = a
          · subst hj; rw [Memory.readL_below hr (by omega)]; simp [hb]
          · simp only [Memory.readL, hj, if_false, Ne.symm hj]
            split
            · exact Memory.readL_below hr (by omega)
            · rfl
        · by_cases hj : j = a
          · simp [Memory.readL, hj]
          · simp [Memory.readL, hj, Ne.symm hj]
      · rename_i h1 h2
        simp only [Memory.readL, ih (k + 1) hr]
        by_cases hj : j = a
        · subst hj
          have h3 : ¬ k = j := by omega
          simp [h3, h1]
        · simp [hj]
theorem Memory.wfL_filter (p : Host.Cell → Bool) (l : List Host.Cell) (lo : Nat) (h : Memory.wfL lo l = true) :
    Memory.wfL lo (l.filter p) = true := by
  induction l generalizing lo with
  | nil => rfl
  | cons q r ih =>
    obtain ⟨k, c⟩ := q
    simp only [Memory.wfL, Bool.and_eq_true, decide_eq_true_eq, bne_iff_ne, ne_eq] at h
    obtain ⟨⟨hk, hc⟩, hr⟩ := h
    rw [List.filter_cons]
    split
    · simp only [Memory.wfL, Bool.and_eq_true, decide_eq_true_eq, bne_iff_ne, ne_eq]
      exact ⟨⟨hk, hc⟩, ih _ hr⟩
    · exact ih _ (Memory.wfL_mono (by omega) hr)

/-! ### Memories -/

theorem Memory.write_wf {m : Memory} (h : m.wf = true) (a : Nat) (b : Byte) : (m.write a b).wf = true :=
  Memory.writeL_wf a b m.cells 0 h (Nat.zero_le a)
theorem Memory.read_write {m : Memory} (h : m.wf = true) (a j : Nat) (b : Byte) :
    (m.write a b).read j = if j = a then b else m.read j := Memory.readL_writeL a j b m.cells 0 h
theorem Memory.filter_wf {m : Memory} (h : m.wf = true) (p : Host.Cell → Bool) : (Memory.mk (m.cells.filter p)).wf = true :=
  Memory.wfL_filter p m.cells 0 h
theorem Memory.writeNat_wf {m : Memory} (h : m.wf = true) (a n v : Nat) : (m.writeNat a n v).wf = true := by
  induction n generalizing m a v with
  | zero => exact h
  | succ n ih => exact ih (Memory.write_wf h ..) ..
theorem Memory.foldl_write_wf {β : Type} (f : Memory → β → Memory) (hf : ∀ m b, m.wf = true → (f m b).wf = true) (l : List β)
    {m : Memory} (h : m.wf = true) : (l.foldl f m).wf = true := by
  induction l generalizing m with
  | nil => exact h
  | cons b r ih => exact ih (hf _ _ h)
/-- Writing a list of bytes: the last one written to a place is read there, every other place reads as before. -/
theorem Memory.read_writes (l : List (Nat × Byte)) {m : Memory} (h : m.wf = true) (j : Nat) :
    (l.foldl (fun m p => m.write p.1 p.2) m).read j =
      match l.reverse.find? fun p => decide (p.1 = j) with
      | some p => p.2
      | none => m.read j := by
  induction l generalizing m with
  | nil => rfl
  | cons p r ih =>
    rw [List.foldl_cons, ih (Memory.write_wf h ..), Memory.read_write h, List.reverse_cons, List.find?_append]
    cases hf : r.reverse.find? fun p => decide (p.1 = j) with
    | some q => rfl
    | none =>
      by_cases hj : j = p.1
      · subst hj; simp
      · simp [hj, Ne.symm hj]
theorem Memory.read_writes_other (l : List (Nat × Byte)) {m : Memory} (h : m.wf = true) (j : Nat) (hj : ∀ p ∈ l, p.1 ≠ j) :
    (l.foldl (fun m p => m.write p.1 p.2) m).read j = m.read j := by
  rw [Memory.read_writes l h, List.find?_eq_none.2 fun p hp => by simpa using hj p (List.mem_reverse.1 hp)]

/-! ### The operations of the machine over memory -/

theorem State.touch_wf {s : State} (h : s.mem.wf = true) (p : List Nat) (w : Bool) : (s.touch p w).mem.wf = true :=
  Memory.foldl_write_wf _ (fun _ _ hm => Memory.write_wf hm ..) p h
theorem State.storeBytes_wf {s : State} (h : s.mem.wf = true) (b : List (Nat × Byte)) : (s.storeBytes b).mem.wf = true :=
  Memory.foldl_write_wf _ (fun _ _ hm => Memory.write_wf hm ..) _ h
theorem State.wr_wf {s : State} (h : s.mem.wf = true) (l n v : Nat) : (s.wr l n v).mem.wf = true := State.storeBytes_wf h _
theorem State.zeroRange_wf {s : State} (h : s.mem.wf = true) (l n : Nat) : (s.zeroRange l n).mem.wf = true := Memory.filter_wf h _

/-- A byte outside the list that is stored reads as before. -/
theorem State.storeBytes_other {s : State} (h : s.mem.wf = true) (b : List (Nat × Byte)) (j : Nat) (hj : ∀ p ∈ b, p.1 ≠ j) :
    (s.storeBytes b).mem.read j = s.mem.read j :=
  Memory.read_writes_other _ h j fun p hp => hj p (List.mem_filter.1 hp).1
/-- Where no dword of the list is poisoned, the last byte stored to a place is read there. -/
theorem State.storeBytes_read {s : State} (h : s.mem.wf = true) (b : List (Nat × Byte)) (j : Nat)
    (hp : ∀ p ∈ b, s.poison.contains (p.1 / 8) = false) :
    (s.storeBytes b).mem.read j = match b.reverse.find? fun p => decide (p.1 = j) with
      | some p => p.2
      | none => s.mem.read j := by
  have hb : (b.filter fun (p : Nat × Byte) => !(s.poison.contains (p.1 / 8)) ||
      decide (8 ≤ (b.filter fun (q : Nat × Byte) => q.1 / 8 = p.1 / 8).length)) = b := by
    rw [List.filter_eq_self]; intro p hq; rw [hp p hq]; rfl
  show ((b.filter fun (p : Nat × Byte) => !(s.poison.contains (p.1 / 8)) ||
      decide (8 ≤ (b.filter fun (q : Nat × Byte) => q.1 / 8 = p.1 / 8).length)).foldl (fun m p => m.write p.1 p.2) s.mem).read j = _
  rw [hb]
  exact Memory.read_writes b h j

theorem State.copyRange_wf {s : State} (h : s.mem.wf = true) (src dst n : Nat) : (s.copyRange src dst n).mem.wf = true := by
  unfold State.copyRange
  generalize s.mem.cells.filter _ = l
  induction l generalizing s with
  | nil => exact h
  | cons p r ih => exact ih (Memory.write_wf h ..)

end Sys2Proof.Machine
end

