-- ==== Sys2Proof/Laws/Issue.lean ====
section
/-! SUPPORT. The issue of one slot: inside a bundle whose checks are made, and on its own. -/

namespace Sys2Proof.Machine

/-- Inside a bundle whose checks are made, a slot takes its effect. -/
theorem issue_checked (f : State → Slot) (s : State) (h : s.iss.checked = true) : issue f s = .next ((f s).eff s) := by
  simp [issue, State.alone, issueSlot, h]

/-- A slot under a true condition: the latches take its operands, and its effect follows (R65, R69). -/
theorem finish_eff (sl : Slot) (e : Env) (ops : List Opnd) (psn : List (W64 × Nat)) (h : e.cond = true) :
    (Slot.finish sl e ops psn).eff = fun s => sl.eff (s.modCtx e.c fun x => x.fill (ops.flatMap fun o => o.fill)) := by
  unfold Slot.finish
  simp only [h, if_true]

/-- A slot under a false condition has no effect (R65). -/
theorem finish_eff_false (sl : Slot) (e : Env) (ops : List Opnd) (psn : List (W64 × Nat)) (h : e.cond = false) :
    (Slot.finish sl e ops psn).eff = id := by
  unfold Slot.finish
  simp only [h, Bool.false_eq_true, if_false]

/-- The next state of a slot of a bundle that issues. -/
theorem issue_finish (f : State → Slot) {s : State} {sl : Slot} {ops : List Opnd} {psn : List (W64 × Nat)} (h : s.Issuing)
    (hf : f s = Slot.finish sl s.env ops psn) : issue f s = .next (sl.eff (s.filled ops)) := by
  rw [issue_checked f s h.checked, hf, finish_eff sl s.env ops psn h.cond]; rfl

/-- A slot never faults and is never refused. -/
theorem issue_next (f : State → Slot) (s : State) : ∃ t, issue f s = .next t := by
  unfold issue issueSlot
  split
  · exact ⟨_, rfl⟩
  · split <;> exact ⟨_, rfl⟩

/-- On its own, a slot whose verdict is to go takes its effect, and the bundle ends. -/
theorem issue_go (f : State → Slot) (s : State) (h : s.iss.checked = false)
    (hv : verdict (s.alone.ctx s.alone.cur) s.alone.now [f s.alone] ((f s.alone).prefixBad s.alone.env || s.alone.iss.pfxiBad) = .go) :
    issue f s = .next (((f s.alone).eff s.alone.enter).endBundle 0) := by
  have h2 : s.alone.iss.checked = false := by simp [State.alone, h]
  simp only [issue, issueSlot, h2, hv, Bool.false_eq_true, if_false]

/-- On its own, a slot whose verdict is not to go is held, trapped or killed. -/
theorem issue_stop (f : State → Slot) (s : State) (h : s.iss.checked = false) {v : Verdict}
    (hv : verdict (s.alone.ctx s.alone.cur) s.alone.now [f s.alone] ((f s.alone).prefixBad s.alone.env || s.alone.iss.pfxiBad) = v)
    (hg : v ≠ .go) : issue f s = .next (s.alone.stopFor s.alone.cur v [f s.alone]) := by
  have h2 : s.alone.iss.checked = false := by simp [State.alone, h]
  simp only [issue, issueSlot, h2, hv, Bool.false_eq_true, if_false]

/-- The verdict on one slot of a context with nothing in flight and no prediction: go, when nothing of the slot speaks against it. -/
theorem verdict_one (x : Ctx) (now : Nat) (sl : Slot) (hi : x.inflight = []) (hp : x.preds = []) (hl : sl.legal = true)
    (hg : sl.illVal = none) (hq : sl.priv = false) (hv : sl.privVal = false) (hh : sl.hold = .none) (ht : sl.traps = []) (he : sl.ecc = none) (hk : sl.kill = none)
    (hn : sl.nres ≤ 48) (hb : sl.takenK = none ∨ sl.takenY = none) : verdict x now [sl] false = .go := by
  have h1 : x.ilock sl.reads = false := by simp [Ctx.ilock, hi]
  have h2 : x.lateParts now = false := by simp [Ctx.lateParts, hi]
  have h3 : x.early now sl.reads = false := by simp [Ctx.early, hi]
  rcases hb with hb | hb <;>
    simp [verdict, h1, h2, h3, hi, hp, hl, hq, hv, hh, ht, he, hk, hb, lowest, hn, Slot.illegal, hg]

/-- The lowest cause of a list is one of them, and no other is lower. -/
theorem lowest_le (l : List (Nat × W64)) (u : Nat × W64) (h : lowest l = some u) : u ∈ l ∧ ∀ t ∈ l, u.1 ≤ t.1 := by
  induction l generalizing u with
  | nil => simp [lowest] at h
  | cons t r ih =>
    unfold lowest at h
    cases hr : lowest r with
    | none =>
      have hnil : r = [] := by
        cases r with
        | nil => rfl
        | cons a b =>
          unfold lowest at hr
          cases hb : lowest b with
          | none => simp [hb] at hr
          | some w => rw [hb] at hr; simp only at hr; split at hr <;> simp at hr
      subst hnil
      simp [hr] at h
      subst h
      simp
    | some w =>
      obtain ⟨hm, hw⟩ := ih w hr
      rw [hr] at h
      simp only at h
      split at h <;> rename_i hle
      · simp only [Option.some.injEq] at h; subst h
        refine ⟨List.mem_cons_self, fun q hq => ?_⟩
        rcases List.mem_cons.1 hq with rfl | hq
        · exact Nat.le_refl _
        · exact Nat.le_trans hle (hw q hq)
      · simp only [Option.some.injEq] at h; subst h
        refine ⟨List.mem_cons_of_mem _ hm, fun q hq => ?_⟩
        rcases List.mem_cons.1 hq with rfl | hq
        · omega
        · exact hw q hq

end Sys2Proof.Machine
end

