-- ==== Sys2Proof/Laws/Tame.lean ====
section
/-! SUPPORT. What no operation of the machine touches: the agenda stays, and memory keeps its canonical form. One lemma for each operation
over the state. -/

namespace Sys2Proof.Machine

/-- The agenda is the same, and memory in canonical form stays so. -/
def Tame (s t : State) : Prop := t.agenda = s.agenda ∧ (s.mem.wf = true → t.mem.wf = true)

theorem Tame.refl (s : State) : Tame s s := ⟨rfl, id⟩
theorem Tame.trans {s t u : State} (h : Tame s t) (k : Tame t u) : Tame s u := ⟨k.1.trans h.1, fun w => k.2 (h.2 w)⟩
/-- An update of other fields. -/
theorem Tame.same {s t u : State} (h : Tame s t) (ha : u.agenda = t.agenda) (hm : u.mem = t.mem) : Tame s u :=
  ⟨ha.trans h.1, fun w => hm ▸ h.2 w⟩
theorem Tame.put {s0 t : State} (h : Tame s0 t) {n f c e : Nat} {i : Issue} {xs : Table Ctx} {ks : Table CoreSt} {cs : Table ClusterSt}
    {ds : Table DieSt} {p : List Nat} {ts : Table (Nat × Bool × Option Nat × Bool)} {cn : List Contribution} {ms : List AgrMsg}
    {sv : Table Saved} {wk : Vector Nat 4} {u : HubSt} : Tame s0 ⟨n, t.agenda, f, c, e, i, xs, ks, cs, ds, t.mem, p, ts, cn, ms, sv, wk, u⟩ := h.same rfl rfl
theorem Tame.ite {s a b : State} {p : Prop} [Decidable p] (ha : Tame s a) (hb : Tame s b) : Tame s (if p then a else b) := by
  split <;> assumption
theorem Tame.foldl {β : Type} {s0 : State} {f : State → β → State} (hf : ∀ s b, Tame s0 s → Tame s0 (f s b)) (l : List β) {s : State}
    (h : Tame s0 s) : Tame s0 (l.foldl f s) := by
  induction l generalizing s with
  | nil => exact h
  | cons b r ih => exact ih (hf _ _ h)


theorem State.setCtx_tame (s : State) (c : Nat) (x : Ctx) : Tame s (State.setCtx s c x) := by
  unfold State.setCtx
  repeat' (first | with_reducible exact Tame.refl _ | with_reducible assumption |  (with_reducible apply Tame.foldl; intro _ _ _) | split | exact Tame.same (Tame.refl _) rfl rfl | dsimp only)
theorem State.setCtx_tame' {s : State} {c : Nat} {x : Ctx} {s0 : State} (h0 : Tame s0 s) : Tame s0 (State.setCtx s c x) := h0.trans (State.setCtx_tame _ _ _)
theorem State.modCtx_tame (s : State) (c : Nat) (f : Ctx → Ctx) : Tame s (State.modCtx s c f) := by
  unfold State.modCtx
  repeat' (first | with_reducible exact Tame.refl _ | with_reducible assumption | with_reducible apply State.setCtx_tame' | (with_reducible apply Tame.foldl; intro _ _ _) | split | exact Tame.same (Tame.refl _) rfl rfl | dsimp only)
theorem State.modCtx_tame' {s : State} {c : Nat} {f : Ctx → Ctx} {s0 : State} (h0 : Tame s0 s) : Tame s0 (State.modCtx s c f) := h0.trans (State.modCtx_tame _ _ _)
theorem State.setCore_tame (s : State) (k : Nat) (x : CoreSt) : Tame s (State.setCore s k x) := by
  unfold State.setCore
  repeat' (first | with_reducible exact Tame.refl _ | with_reducible assumption |  (with_reducible apply Tame.foldl; intro _ _ _) | split | exact Tame.same (Tame.refl _) rfl rfl | dsimp only)
theorem State.setCore_tame' {s : State} {k : Nat} {x : CoreSt} {s0 : State} (h0 : Tame s0 s) : Tame s0 (State.setCore s k x) := h0.trans (State.setCore_tame _ _ _)
theorem State.modCore_tame (s : State) (k : Nat) (f : CoreSt → CoreSt) : Tame s (State.modCore s k f) := by
  unfold State.modCore
  repeat' (first | with_reducible exact Tame.refl _ | with_reducible assumption | with_reducible apply State.setCore_tame' | (with_reducible apply Tame.foldl; intro _ _ _) | split | exact Tame.same (Tame.refl _) rfl rfl | dsimp only)
theorem State.modCore_tame' {s : State} {k : Nat} {f : CoreSt → CoreSt} {s0 : State} (h0 : Tame s0 s) : Tame s0 (State.modCore s k f) := h0.trans (State.modCore_tame _ _ _)
theorem State.modCluster_tame (s : State) (cl : Nat) (f : ClusterSt → ClusterSt) : Tame s (State.modCluster s cl f) := by
  unfold State.modCluster
  repeat' (first | with_reducible exact Tame.refl _ | with_reducible assumption |  (with_reducible apply Tame.foldl; intro _ _ _) | split | exact Tame.same (Tame.refl _) rfl rfl | dsimp only)
theorem State.modCluster_tame' {s : State} {cl : Nat} {f : ClusterSt → ClusterSt} {s0 : State} (h0 : Tame s0 s) : Tame s0 (State.modCluster s cl f) := h0.trans (State.modCluster_tame _ _ _)
theorem State.modDie_tame (s : State) (d : Nat) (f : DieSt → DieSt) : Tame s (State.modDie s d f) := by
  unfold State.modDie
  repeat' (first | with_reducible exact Tame.refl _ | with_reducible assumption |  (with_reducible apply Tame.foldl; intro _ _ _) | split | exact Tame.same (Tame.refl _) rfl rfl | dsimp only)
theorem State.modDie_tame' {s : State} {d : Nat} {f : DieSt → DieSt} {s0 : State} (h0 : Tame s0 s) : Tame s0 (State.modDie s d f) := h0.trans (State.modDie_tame _ _ _)
theorem State.modHub_tame (s : State) (f : HubSt → HubSt) : Tame s (State.modHub s f) := by
  unfold State.modHub
  repeat' (first | with_reducible exact Tame.refl _ | with_reducible assumption |  (with_reducible apply Tame.foldl; intro _ _ _) | split | exact Tame.same (Tame.refl _) rfl rfl | dsimp only)
theorem State.modHub_tame' {s : State} {f : HubSt → HubSt} {s0 : State} (h0 : Tame s0 s) : Tame s0 (State.modHub s f) := h0.trans (State.modHub_tame _ _)
theorem State.bump_tame (s : State) : Tame s (State.bump s) := by
  unfold State.bump
  repeat' (first | with_reducible exact Tame.refl _ | with_reducible assumption |  (with_reducible apply Tame.foldl; intro _ _ _) | split | exact Tame.same (Tame.refl _) rfl rfl | dsimp only)
theorem State.bump_tame' {s : State} {s0 : State} (h0 : Tame s0 s) : Tame s0 (State.bump s) := h0.trans (State.bump_tame _)
theorem State.wake_tame (s : State) (locs : List Nat) : Tame s (State.wake s locs) := by
  unfold State.wake
  repeat' (first | with_reducible exact Tame.refl _ | with_reducible assumption |  (with_reducible apply Tame.foldl; intro _ _ _) | split | exact Tame.same (Tame.refl _) rfl rfl | dsimp only)
theorem State.wake_tame' {s : State} {locs : List Nat} {s0 : State} (h0 : Tame s0 s) : Tame s0 (State.wake s locs) := h0.trans (State.wake_tame _ _)
theorem State.storeBytes_tame (s : State) (bs : List (Nat × Byte)) : Tame s (State.storeBytes s bs) := by
  exact ⟨rfl, fun h => State.storeBytes_wf h ..⟩
theorem State.storeBytes_tame' {s : State} {bs : List (Nat × Byte)} {s0 : State} (h0 : Tame s0 s) : Tame s0 (State.storeBytes s bs) := h0.trans (State.storeBytes_tame _ _)
theorem State.wr_tame (s : State) (l n v : Nat) : Tame s (State.wr s l n v) := by
  exact ⟨rfl, fun h => State.wr_wf h ..⟩
theorem State.wr_tame' {s : State} {l n v : Nat} {s0 : State} (h0 : Tame s0 s) : Tame s0 (State.wr s l n v) := h0.trans (State.wr_tame _ _ _ _)
theorem State.addPoison_tame (s : State) (l n : Nat) : Tame s (State.addPoison s l n) := by
  unfold State.addPoison
  repeat' (first | with_reducible exact Tame.refl _ | with_reducible assumption |  (with_reducible apply Tame.foldl; intro _ _ _) | split | exact Tame.same (Tame.refl _) rfl rfl | dsimp only)
theorem State.addPoison_tame' {s : State} {l n : Nat} {s0 : State} (h0 : Tame s0 s) : Tame s0 (State.addPoison s l n) := h0.trans (State.addPoison_tame _ _ _)
theorem State.touch_tame (s : State) (ptes : List Nat) (write : Bool) : Tame s (State.touch s ptes write) := by
  exact ⟨rfl, fun h => State.touch_wf h ..⟩
theorem State.touch_tame' {s : State} {ptes : List Nat} {write : Bool} {s0 : State} (h0 : Tame s0 s) : Tame s0 (State.touch s ptes write) := h0.trans (State.touch_tame _ _ _)
theorem State.setSlot_tame (s : State) (k i : Nat) (v : Nat × Bool × Option Nat × Bool) : Tame s (State.setSlot s k i v) := by
  unfold State.setSlot
  repeat' (first | with_reducible exact Tame.refl _ | with_reducible assumption |  (with_reducible apply Tame.foldl; intro _ _ _) | split | exact Tame.same (Tame.refl _) rfl rfl | dsimp only)
theorem State.setSlot_tame' {s : State} {k i : Nat} {v : Nat × Bool × Option Nat × Bool} {s0 : State} (h0 : Tame s0 s) : Tame s0 (State.setSlot s k i v) := h0.trans (State.setSlot_tame _ _ _ _)
theorem State.landCore_tame (s : State) (k : Nat) (t : Res) : Tame s (State.landCore s k t) := by
  unfold State.landCore
  repeat' (first | with_reducible exact Tame.refl _ | with_reducible assumption | with_reducible apply State.modCore_tame' | (with_reducible apply Tame.foldl; intro _ _ _) | split | exact Tame.same (Tame.refl _) rfl rfl | dsimp only)
theorem State.landCore_tame' {s : State} {k : Nat} {t : Res} {s0 : State} (h0 : Tame s0 s) : Tame s0 (State.landCore s k t) := h0.trans (State.landCore_tame _ _ _)
theorem State.landCtx_tame (s : State) (c : Nat) : Tame s (State.landCtx s c) := by
  unfold State.landCtx
  repeat' (first | with_reducible exact Tame.refl _ | with_reducible assumption | with_reducible apply State.modCtx_tame' | with_reducible apply State.landCore_tame' | (with_reducible apply Tame.foldl; intro _ _ _) | split | exact Tame.same (Tame.refl _) rfl rfl | dsimp only)
theorem State.landCtx_tame' {s : State} {c : Nat} {s0 : State} (h0 : Tame s0 s) : Tame s0 (State.landCtx s c) := h0.trans (State.landCtx_tame _ _)
theorem State.clearCounter_tame (s : State) (c num : Nat) : Tame s (State.clearCounter s c num) := by
  unfold State.clearCounter
  repeat' (first | with_reducible exact Tame.refl _ | with_reducible assumption | with_reducible apply State.modCtx_tame' | with_reducible apply State.modCore_tame' | (with_reducible apply Tame.foldl; intro _ _ _) | split | exact Tame.same (Tame.refl _) rfl rfl | dsimp only)
theorem State.clearCounter_tame' {s : State} {c num : Nat} {s0 : State} (h0 : Tame s0 s) : Tame s0 (State.clearCounter s c num) := h0.trans (State.clearCounter_tame _ _ _)
theorem State.deliver_tame (s : State) (c seq : Nat) (val : Wide) (psn : W64) : Tame s (State.deliver s c seq val psn) := by
  unfold State.deliver
  repeat' (first | with_reducible exact Tame.refl _ | with_reducible assumption | with_reducible apply State.modCtx_tame' | (with_reducible apply Tame.foldl; intro _ _ _) | split | exact Tame.same (Tame.refl _) rfl rfl | dsimp only)
theorem State.deliver_tame' {s : State} {c seq : Nat} {val : Wide} {psn : W64} {s0 : State} (h0 : Tame s0 s) : Tame s0 (State.deliver s c seq val psn) := h0.trans (State.deliver_tame _ _ _ _ _)
theorem State.pushIncr_tame (s : State) (va vf : Nat) (ctx : Option (Nat × Nat)) (copy : Option Nat) : Tame s (State.pushIncr s va vf ctx copy) := by
  unfold State.pushIncr
  repeat' (first | with_reducible exact Tame.refl _ | with_reducible assumption | with_reducible apply State.modDie_tame' | (with_reducible apply Tame.foldl; intro _ _ _) | split | exact Tame.same (Tame.refl _) rfl rfl | dsimp only)
theorem State.pushIncr_tame' {s : State} {va vf : Nat} {ctx : Option (Nat × Nat)} {copy : Option Nat} {s0 : State} (h0 : Tame s0 s) : Tame s0 (State.pushIncr s va vf ctx copy) := h0.trans (State.pushIncr_tame _ _ _ _ _)
theorem State.pushIncrAt_tame (s : State) (loc vf : Nat) (ctx : Nat × Nat) : Tame s (State.pushIncrAt s loc vf ctx) := by
  unfold State.pushIncrAt
  repeat' (first | with_reducible exact Tame.refl _ | with_reducible assumption | with_reducible apply State.modDie_tame' | (with_reducible apply Tame.foldl; intro _ _ _) | split | exact Tame.same (Tame.refl _) rfl rfl | dsimp only)
theorem State.pushIncrAt_tame' {s : State} {loc vf : Nat} {ctx : Nat × Nat} {s0 : State} (h0 : Tame s0 s) : Tame s0 (State.pushIncrAt s loc vf ctx) := h0.trans (State.pushIncrAt_tame _ _ _ _)
theorem State.enterRec_tame (s : State) (cl : Nat) (r : CRec) : Tame s (State.enterRec s cl r) := by
  unfold State.enterRec
  repeat' (first | with_reducible exact Tame.refl _ | with_reducible assumption | with_reducible apply State.modCluster_tame' | with_reducible apply State.pushIncr_tame' | (with_reducible apply Tame.foldl; intro _ _ _) | split | exact Tame.same (Tame.refl _) rfl rfl | dsimp only)
theorem State.enterRec_tame' {s : State} {cl : Nat} {r : CRec} {s0 : State} (h0 : Tame s0 s) : Tame s0 (State.enterRec s cl r) := h0.trans (State.enterRec_tame _ _ _)
theorem State.postRec_tame (s : State) (cl : Nat) (r : CRec) : Tame s (State.postRec s cl r) := by
  unfold State.postRec
  repeat' (first | with_reducible exact Tame.refl _ | with_reducible assumption | with_reducible apply State.modCluster_tame' | with_reducible apply State.enterRec_tame' | (with_reducible apply Tame.foldl; intro _ _ _) | split | exact Tame.same (Tame.refl _) rfl rfl | dsimp only)
theorem State.postRec_tame' {s : State} {cl : Nat} {r : CRec} {s0 : State} (h0 : Tame s0 s) : Tame s0 (State.postRec s cl r) := h0.trans (State.postRec_tame _ _ _)
theorem refillL_tame (cl : Nat) (a0 : Nat) (a1 : State) : Tame a1 (refillL cl a0 a1) := by
  induction a0 generalizing a1 with
  | zero => exact .refl _
  | succ n ih =>
    unfold refillL
    split
    · exact .refl _
    · split
      · exact (State.enterRec_tame' (State.modCluster_tame ..)).trans (ih _)
      · exact .refl _
theorem refillL_tame' {cl : Nat} {a0 : Nat} {a1 : State} {s0 : State} (h0 : Tame s0 a1) : Tame s0 (refillL cl a0 a1) := h0.trans (refillL_tame _ _ _)
theorem State.dropRec_tame (s : State) (cl : Nat) : Tame s (State.dropRec s cl) := by
  unfold State.dropRec
  repeat' (first | with_reducible exact Tame.refl _ | with_reducible assumption | with_reducible apply State.modCluster_tame' | with_reducible apply refillL_tame' | (with_reducible apply Tame.foldl; intro _ _ _) | split | exact Tame.same (Tame.refl _) rfl rfl | dsimp only)
theorem State.dropRec_tame' {s : State} {cl : Nat} {s0 : State} (h0 : Tame s0 s) : Tame s0 (State.dropRec s cl) := h0.trans (State.dropRec_tame _ _)
theorem State.jcbCount_tame (s : State) (l vf : Nat) (fault : Bool) : Tame s (State.jcbCount s l vf fault) := by
  unfold State.jcbCount
  repeat' (first | with_reducible exact Tame.refl _ | with_reducible assumption | with_reducible apply State.wr_tame' | with_reducible apply State.pushIncr_tame' | (with_reducible apply Tame.foldl; intro _ _ _) | split | exact Tame.same (Tame.refl _) rfl rfl | dsimp only)
theorem State.jcbCount_tame' {s : State} {l vf : Nat} {fault : Bool} {s0 : State} (h0 : Tame s0 s) : Tame s0 (State.jcbCount s l vf fault) := h0.trans (State.jcbCount_tame _ _ _ _)
theorem State.jcbDrop_tame (s : State) (l : Nat) : Tame s (State.jcbDrop s l) := by
  unfold State.jcbDrop
  repeat' (first | with_reducible exact Tame.refl _ | with_reducible assumption | with_reducible apply State.wr_tame' | (with_reducible apply Tame.foldl; intro _ _ _) | split | exact Tame.same (Tame.refl _) rfl rfl | dsimp only)
theorem State.jcbDrop_tame' {s : State} {l : Nat} {s0 : State} (h0 : Tame s0 s) : Tame s0 (State.jcbDrop s l) := h0.trans (State.jcbDrop_tame _ _)
theorem State.jcbFaultOnly_tame (s : State) (l : Nat) : Tame s (State.jcbFaultOnly s l) := by
  unfold State.jcbFaultOnly
  repeat' (first | with_reducible exact Tame.refl _ | with_reducible assumption | with_reducible apply State.wr_tame' | (with_reducible apply Tame.foldl; intro _ _ _) | split | exact Tame.same (Tame.refl _) rfl rfl | dsimp only)
theorem State.jcbFaultOnly_tame' {s : State} {l : Nat} {s0 : State} (h0 : Tame s0 s) : Tame s0 (State.jcbFaultOnly s l) := h0.trans (State.jcbFaultOnly_tame _ _)
theorem State.countFault_tame (s : State) (vf : Nat) (jcb : BitVec 48) (posted : Bool) : Tame s (State.countFault s vf jcb posted) := by
  unfold State.countFault
  repeat' (first | with_reducible exact Tame.refl _ | with_reducible assumption | with_reducible apply State.touch_tame' | with_reducible apply State.jcbCount_tame' | with_reducible apply State.jcbFaultOnly_tame' | (with_reducible apply Tame.foldl; intro _ _ _) | split | exact Tame.same (Tame.refl _) rfl rfl | dsimp only)
theorem State.countFault_tame' {s : State} {vf : Nat} {jcb : BitVec 48} {posted : Bool} {s0 : State} (h0 : Tame s0 s) : Tame s0 (State.countFault s vf jcb posted) := h0.trans (State.countFault_tame _ _ _ _)
theorem State.doRmw_tame (s : State) (c l : Nat) (op : Rmw) : Tame s ((State.doRmw s c l op).1) := by
  cases op <;> simp only [State.doRmw] <;>
    repeat' (first | with_reducible exact Tame.refl _ | with_reducible apply State.wr_tame' | with_reducible apply State.modCtx_tame' |
      with_reducible apply State.jcbDrop_tame' | with_reducible apply State.jcbCount_tame' | split)
theorem State.doRmw_tame' {s : State} {c l : Nat} {op : Rmw} {s0 : State} (h0 : Tame s0 s) : Tame s0 ((State.doRmw s c l op).1) := h0.trans (State.doRmw_tame _ _ _ _)
theorem State.watchHome_tame (s : State) (bit : Nat) (vf owner : Nat) (own : Option (Nat × List Nat)) (vas : List Nat) (src : W64) : Tame s (State.watchHome s bit vf owner own vas src) := by
  unfold State.watchHome
  repeat' (first | with_reducible exact Tame.refl _ | with_reducible assumption |  (with_reducible apply Tame.foldl; intro _ _ _) | split | exact Tame.same (Tame.refl _) rfl rfl | dsimp only)
theorem State.watchHome_tame' {s : State} {bit : Nat} {vf owner : Nat} {own : Option (Nat × List Nat)} {vas : List Nat} {src : W64} {s0 : State} (h0 : Tame s0 s) : Tame s0 (State.watchHome s bit vf owner own vas src) := h0.trans (State.watchHome_tame _ _ _ _ _ _ _)
theorem State.performHead_tame (s : State) (c : Nat) : Tame s (State.performHead s c) := by
  unfold State.performHead
  repeat' (first | with_reducible exact Tame.refl _ | with_reducible assumption | with_reducible apply State.modCtx_tame' | with_reducible apply State.storeBytes_tame' | with_reducible apply State.touch_tame' | with_reducible apply State.deliver_tame' | with_reducible apply State.doRmw_tame' | (with_reducible apply Tame.foldl; intro _ _ _) | split | exact Tame.same (Tame.refl _) rfl rfl | dsimp only)
theorem State.performHead_tame' {s : State} {c : Nat} {s0 : State} (h0 : Tame s0 s) : Tame s0 (State.performHead s c) := h0.trans (State.performHead_tame _ _)
theorem drainLsqL_tame (c : Nat) (a0 : Nat) (a1 : State) : Tame a1 (drainLsqL c a0 a1) := by
  induction a0 generalizing a1 with
  | zero => exact .refl _
  | succ n ih => exact (State.performHead_tame ..).trans (ih _)
theorem drainLsqL_tame' {c : Nat} {a0 : Nat} {a1 : State} {s0 : State} (h0 : Tame s0 a1) : Tame s0 (drainLsqL c a0 a1) := h0.trans (drainLsqL_tame _ _ _)
theorem State.serialise_tame (s : State) (k : Nat) : Tame s (State.serialise s k) := by
  unfold State.serialise
  repeat' (first | with_reducible exact Tame.refl _ | with_reducible assumption | with_reducible apply drainLsqL_tame' | (with_reducible apply Tame.foldl; intro _ _ _) | split | exact Tame.same (Tame.refl _) rfl rfl | dsimp only)
theorem State.serialise_tame' {s : State} {k : Nat} {s0 : State} (h0 : Tame s0 s) : Tame s0 (State.serialise s k) := h0.trans (State.serialise_tame _ _)
theorem State.releaseSlots_tame (s : State) (c : Nat) : Tame s (State.releaseSlots s c) := by
  unfold State.releaseSlots
  repeat' (first | with_reducible exact Tame.refl _ | with_reducible assumption |  (with_reducible apply Tame.foldl; intro _ _ _) | split | exact Tame.same (Tame.refl _) rfl rfl | dsimp only)
theorem State.releaseSlots_tame' {s : State} {c : Nat} {s0 : State} (h0 : Tame s0 s) : Tame s0 (State.releaseSlots s c) := h0.trans (State.releaseSlots_tame _ _)
theorem State.endDrain_tame (s : State) (k : Nat) : Tame s (State.endDrain s k) := by
  unfold State.endDrain
  repeat' (first | with_reducible exact Tame.refl _ | with_reducible assumption |  (with_reducible apply Tame.foldl; intro _ _ _) | split | exact Tame.same (Tame.refl _) rfl rfl | dsimp only)
theorem State.endDrain_tame' {s : State} {k : Nat} {s0 : State} (h0 : Tame s0 s) : Tame s0 (State.endDrain s k) := h0.trans (State.endDrain_tame _ _)
theorem State.vacate_tame (s : State) (c : Nat) : Tame s (State.vacate s c) := by
  unfold State.vacate
  repeat' (first | with_reducible exact Tame.refl _ | with_reducible assumption | with_reducible apply State.modCtx_tame' | with_reducible apply State.modCore_tame' | with_reducible apply State.releaseSlots_tame' | (with_reducible apply Tame.foldl; intro _ _ _) | split | exact Tame.same (Tame.refl _) rfl rfl | dsimp only)
theorem State.vacate_tame' {s : State} {c : Nat} {s0 : State} (h0 : Tame s0 s) : Tame s0 (State.vacate s c) := h0.trans (State.vacate_tame _ _)
theorem State.recWrite_tame (s : State) (vf addr i v : Nat) : Tame s (State.recWrite s vf addr i v) := by
  unfold State.recWrite
  repeat' (first | with_reducible exact Tame.refl _ | with_reducible assumption | with_reducible apply State.wr_tame' | with_reducible apply State.touch_tame' | (with_reducible apply Tame.foldl; intro _ _ _) | split | exact Tame.same (Tame.refl _) rfl rfl | dsimp only)
theorem State.recWrite_tame' {s : State} {vf addr i v : Nat} {s0 : State} (h0 : Tame s0 s) : Tame s0 (State.recWrite s vf addr i v) := h0.trans (State.recWrite_tame _ _ _ _ _)
theorem State.seenAt_tame (s : State) (vf va : Nat) : Tame s (State.seenAt s vf va) := by
  unfold State.seenAt
  repeat' (first | with_reducible exact Tame.refl _ | with_reducible assumption | with_reducible apply State.touch_tame' | (with_reducible apply Tame.foldl; intro _ _ _) | split | exact Tame.same (Tame.refl _) rfl rfl | dsimp only)
theorem State.seenAt_tame' {s : State} {vf va : Nat} {s0 : State} (h0 : Tame s0 s) : Tame s0 (State.seenAt s vf va) := h0.trans (State.seenAt_tame _ _ _)
theorem State.recFault_tame (s : State) (vf addr cause : Nat) : Tame s (State.recFault s vf addr cause) := by
  unfold State.recFault
  repeat' (first | with_reducible exact Tame.refl _ | with_reducible assumption | with_reducible apply State.recWrite_tame' | (with_reducible apply Tame.foldl; intro _ _ _) | split | exact Tame.same (Tame.refl _) rfl rfl | dsimp only)
theorem State.recFault_tame' {s : State} {vf addr cause : Nat} {s0 : State} (h0 : Tame s0 s) : Tame s0 (State.recFault s vf addr cause) := h0.trans (State.recFault_tame _ _ _ _)
theorem State.traceAs_tame (s : State) (kind c vf code pc scyc : Nat) : Tame s (State.traceAs s kind c vf code pc scyc) := by
  unfold State.traceAs
  repeat' (first | with_reducible exact Tame.refl _ | with_reducible assumption | with_reducible apply State.modHub_tame' | with_reducible apply State.wr_tame' | (with_reducible apply Tame.foldl; intro _ _ _) | split | exact Tame.same (Tame.refl _) rfl rfl | dsimp only)
theorem State.traceAs_tame' {s : State} {kind c vf code pc scyc : Nat} {s0 : State} (h0 : Tame s0 s) : Tame s0 (State.traceAs s kind c vf code pc scyc) := h0.trans (State.traceAs_tame _ _ _ _ _ _ _)
theorem State.traceRec_tame (s : State) (kind c code pc scyc : Nat) : Tame s (State.traceRec s kind c code pc scyc) := by
  unfold State.traceRec
  repeat' (first | with_reducible exact Tame.refl _ | with_reducible assumption | with_reducible apply State.traceAs_tame' | (with_reducible apply Tame.foldl; intro _ _ _) | split | exact Tame.same (Tame.refl _) rfl rfl | dsimp only)
theorem State.traceRec_tame' {s : State} {kind c code pc scyc : Nat} {s0 : State} (h0 : Tame s0 s) : Tame s0 (State.traceRec s kind c code pc scyc) := h0.trans (State.traceRec_tame _ _ _ _ _ _)
theorem State.sendTrap_tame (s : State) (c cause : Nat) (act : Bool) : Tame s (State.sendTrap s c cause act) := by
  unfold State.sendTrap
  repeat' (first | with_reducible exact Tame.refl _ | with_reducible assumption | with_reducible apply State.modHub_tame' | (with_reducible apply Tame.foldl; intro _ _ _) | split | exact Tame.same (Tame.refl _) rfl rfl | dsimp only)
theorem State.sendTrap_tame' {s : State} {c cause : Nat} {act : Bool} {s0 : State} (h0 : Tame s0 s) : Tame s0 (State.sendTrap s c cause act) := h0.trans (State.sendTrap_tame _ _ _ _)
theorem State.dropLaunches_tame (s : State) (c : Nat) : Tame s (State.dropLaunches s c) := by
  unfold State.dropLaunches
  repeat' (first | with_reducible exact Tame.refl _ | with_reducible assumption | with_reducible apply State.modCluster_tame' | with_reducible apply State.postRec_tame' | (with_reducible apply Tame.foldl; intro _ _ _) | split | exact Tame.same (Tame.refl _) rfl rfl | dsimp only)
theorem State.dropLaunches_tame' {s : State} {c : Nat} {s0 : State} (h0 : Tame s0 s) : Tame s0 (State.dropLaunches s c) := h0.trans (State.dropLaunches_tame _ _)
theorem State.kill_tame (s : State) (c cause : Nat) (addr : W64) (entry : Bool) : Tame s (State.kill s c cause addr entry) := by
  unfold State.kill
  repeat' (first | with_reducible exact Tame.refl _ | with_reducible assumption | with_reducible apply State.modCtx_tame' | with_reducible apply State.postRec_tame' | with_reducible apply State.countFault_tame' | with_reducible apply State.vacate_tame' | with_reducible apply State.recWrite_tame' | with_reducible apply State.traceRec_tame' | with_reducible apply State.sendTrap_tame' | with_reducible apply State.dropLaunches_tame' | (with_reducible apply Tame.foldl; intro _ _ _) | split | exact Tame.same (Tame.refl _) rfl rfl | dsimp only)
theorem State.kill_tame' {s : State} {c cause : Nat} {addr : W64} {entry : Bool} {s0 : State} (h0 : Tame s0 s) : Tame s0 (State.kill s c cause addr entry) := h0.trans (State.kill_tame _ _ _ _ _)
theorem takeTrap_tame (c cause : Nat) (addr : W64) (pc : Nat) (s : State) : Tame s (takeTrap c cause addr pc s) := by
  unfold takeTrap
  repeat' (first | with_reducible exact Tame.refl _ | with_reducible assumption | with_reducible apply State.modCtx_tame' | (with_reducible apply Tame.foldl; intro _ _ _) | split | exact Tame.same (Tame.refl _) rfl rfl | dsimp only)
theorem takeTrap_tame' {c cause : Nat} {addr : W64} {pc : Nat} {s : State} {s0 : State} (h0 : Tame s0 s) : Tame s0 (takeTrap c cause addr pc s) := h0.trans (takeTrap_tame _ _ _ _ _)
theorem trapOrWait_tame (c cause : Nat) (addr : W64) (pc : Nat) (s : State) : Tame s (trapOrWait c cause addr pc s) := by
  unfold trapOrWait
  repeat' (first | with_reducible exact Tame.refl _ | with_reducible assumption | with_reducible apply State.modCtx_tame' | with_reducible apply takeTrap_tame' | (with_reducible apply Tame.foldl; intro _ _ _) | split | exact Tame.same (Tame.refl _) rfl rfl | dsimp only)
theorem trapOrWait_tame' {c cause : Nat} {addr : W64} {pc : Nat} {s : State} {s0 : State} (h0 : Tame s0 s) : Tame s0 (trapOrWait c cause addr pc s) := h0.trans (trapOrWait_tame _ _ _ _ _)
theorem killOrWait_tame (c : Nat) (addr : W64) (s : State) : Tame s (killOrWait c addr s) := by
  unfold killOrWait
  repeat' (first | with_reducible exact Tame.refl _ | with_reducible assumption | with_reducible apply State.modCtx_tame' | with_reducible apply State.kill_tame' | (with_reducible apply Tame.foldl; intro _ _ _) | split | exact Tame.same (Tame.refl _) rfl rfl | dsimp only)
theorem killOrWait_tame' {c : Nat} {addr : W64} {s : State} {s0 : State} (h0 : Tame s0 s) : Tame s0 (killOrWait c addr s) := h0.trans (killOrWait_tame _ _ _)
theorem State.resume_tame (s : State) (c : Nat) : Tame s (State.resume s c) := by
  unfold State.resume
  repeat' (first | with_reducible exact Tame.refl _ | with_reducible assumption | with_reducible apply State.modCtx_tame' | (with_reducible apply Tame.foldl; intro _ _ _) | split | exact Tame.same (Tame.refl _) rfl rfl | dsimp only)
theorem State.resume_tame' {s : State} {c : Nat} {s0 : State} (h0 : Tame s0 s) : Tame s0 (State.resume s c) := h0.trans (State.resume_tame _ _)
theorem State.preempt_tame (s : State) (c plan : Nat) : Tame s (State.preempt s c plan) := by
  unfold State.preempt
  repeat' (first | with_reducible exact Tame.refl _ | with_reducible assumption | with_reducible apply State.modCtx_tame' | with_reducible apply takeTrap_tame' | (with_reducible apply Tame.foldl; intro _ _ _) | split | exact Tame.same (Tame.refl _) rfl rfl | dsimp only)
theorem State.preempt_tame' {s : State} {c plan : Nat} {s0 : State} (h0 : Tame s0 s) : Tame s0 (State.preempt s c plan) := h0.trans (State.preempt_tame _ _ _)
theorem State.preemptTeam_tame (s : State) (c plan : Nat) : Tame s (State.preemptTeam s c plan) := by
  unfold State.preemptTeam
  repeat' (first | with_reducible exact Tame.refl _ | with_reducible assumption | with_reducible apply State.preempt_tame' | (with_reducible apply Tame.foldl; intro _ _ _) | split | exact Tame.same (Tame.refl _) rfl rfl | dsimp only)
theorem State.preemptTeam_tame' {s : State} {c plan : Nat} {s0 : State} (h0 : Tame s0 s) : Tame s0 (State.preemptTeam s c plan) := h0.trans (State.preemptTeam_tame _ _ _)
theorem State.unstop_tame (s : State) (c shift : Nat) : Tame s (State.unstop s c shift) := by
  unfold State.unstop
  repeat' (first | with_reducible exact Tame.refl _ | with_reducible assumption | with_reducible apply State.modCtx_tame' | (with_reducible apply Tame.foldl; intro _ _ _) | split | exact Tame.same (Tame.refl _) rfl rfl | dsimp only)
theorem State.unstop_tame' {s : State} {c shift : Nat} {s0 : State} (h0 : Tame s0 s) : Tame s0 (State.unstop s c shift) := h0.trans (State.unstop_tame _ _ _)
theorem State.resumeAll_tame (s : State) (cs : List Nat) : Tame s (State.resumeAll s cs) := by
  unfold State.resumeAll
  repeat' (first | with_reducible exact Tame.refl _ | with_reducible assumption | with_reducible apply State.modCtx_tame' | with_reducible apply State.resume_tame' | with_reducible apply State.unstop_tame' | (with_reducible apply Tame.foldl; intro _ _ _) | split | exact Tame.same (Tame.refl _) rfl rfl | dsimp only)
theorem State.resumeAll_tame' {s : State} {cs : List Nat} {s0 : State} (h0 : Tame s0 s) : Tame s0 (State.resumeAll s cs) := h0.trans (State.resumeAll_tame _ _)
theorem State.ignoreResponse_tame (s : State) : Tame s (State.ignoreResponse s) := by
  unfold State.ignoreResponse
  repeat' (first | with_reducible exact Tame.refl _ | with_reducible assumption | with_reducible apply State.modHub_tame' | (with_reducible apply Tame.foldl; intro _ _ _) | split | exact Tame.same (Tame.refl _) rfl rfl | dsimp only)
theorem State.ignoreResponse_tame' {s : State} {s0 : State} (h0 : Tame s0 s) : Tame s0 (State.ignoreResponse s) := h0.trans (State.ignoreResponse_tame _)
theorem State.respond_tame (s : State) (rsp rcd vf : Nat) : Tame s ((State.respond s rsp rcd vf).2) := by
  unfold State.respond
  repeat' (first | with_reducible exact Tame.refl _ | with_reducible assumption | with_reducible apply State.modCtx_tame' | with_reducible apply State.kill_tame' | with_reducible apply State.preemptTeam_tame' | with_reducible apply State.resumeAll_tame' | with_reducible apply State.ignoreResponse_tame' | (with_reducible apply Tame.foldl; intro _ _ _) | split | exact Tame.same (Tame.refl _) rfl rfl | dsimp only)
theorem State.respond_tame' {s : State} {rsp rcd vf : Nat} {s0 : State} (h0 : Tame s0 s) : Tame s0 ((State.respond s rsp rcd vf).2) := h0.trans (State.respond_tame _ _ _ _)
theorem Env.fixed_tame (e : Env) (f : File) (r : BitVec 5) (v : Wide) (lat : Nat) (s : State) : Tame s (Env.fixed e f r v lat s) := by
  unfold Env.fixed
  repeat' (first | with_reducible exact Tame.refl _ | with_reducible assumption | with_reducible apply State.modCtx_tame' | (with_reducible apply Tame.foldl; intro _ _ _) | split | exact Tame.same (Tame.refl _) rfl rfl | dsimp only)
theorem Env.fixed_tame' {e : Env} {f : File} {r : BitVec 5} {v : Wide} {lat : Nat} {s : State} {s0 : State} (h0 : Tame s0 s) : Tame s0 (Env.fixed e f r v lat s) := h0.trans (Env.fixed_tame _ _ _ _ _ _)
theorem Env.fixedF_tame (e : Env) (f : File) (r : BitVec 5) (v : Wide) (lat : Nat) (fl : BitVec 5) (s : State) : Tame s (Env.fixedF e f r v lat fl s) := by
  unfold Env.fixedF
  repeat' (first | with_reducible exact Tame.refl _ | with_reducible assumption | with_reducible apply State.modCtx_tame' | (with_reducible apply Tame.foldl; intro _ _ _) | split | exact Tame.same (Tame.refl _) rfl rfl | dsimp only)
theorem Env.fixedF_tame' {e : Env} {f : File} {r : BitVec 5} {v : Wide} {lat : Nat} {fl : BitVec 5} {s : State} {s0 : State} (h0 : Tame s0 s) : Tame s0 (Env.fixedF e f r v lat fl s) := h0.trans (Env.fixedF_tame _ _ _ _ _ _ _)
theorem Env.fixedL_tame (e : Env) (f : File) (r : BitVec 5) (v : Wide) (lat : Nat) (fl : BitVec 5) (s : State) : Tame s (Env.fixedL e f r v lat fl s) := by
  unfold Env.fixedL
  repeat' (first | with_reducible exact Tame.refl _ | with_reducible assumption | with_reducible apply State.modCtx_tame' | (with_reducible apply Tame.foldl; intro _ _ _) | split | exact Tame.same (Tame.refl _) rfl rfl | dsimp only)
theorem Env.fixedL_tame' {e : Env} {f : File} {r : BitVec 5} {v : Wide} {lat : Nat} {fl : BitVec 5} {s : State} {s0 : State} (h0 : Tame s0 s) : Tame s0 (Env.fixedL e f r v lat fl s) := h0.trans (Env.fixedL_tame _ _ _ _ _ _ _)
theorem State.countDone_tame (s : State) (vf : Nat) (jcb : BitVec 48) : Tame s (State.countDone s vf jcb) := by
  unfold State.countDone
  repeat' (first | with_reducible exact Tame.refl _ | with_reducible assumption | with_reducible apply State.touch_tame' | with_reducible apply State.jcbCount_tame' | (with_reducible apply Tame.foldl; intro _ _ _) | split | exact Tame.same (Tame.refl _) rfl rfl | dsimp only)
theorem State.countDone_tame' {s : State} {vf : Nat} {jcb : BitVec 48} {s0 : State} (h0 : Tame s0 s) : Tame s0 (State.countDone s vf jcb) := h0.trans (State.countDone_tame _ _ _)
theorem State.recWrites_tame (s : State) (vf addr i : Nat) (a0 : List W64) : Tame s (State.recWrites s vf addr i a0) := by
  induction a0 generalizing s i with
  | nil => exact .refl _
  | cons w r ih => exact (State.recWrite_tame ..).trans (ih ..)
theorem State.recWrites_tame' {s : State} {vf addr i : Nat} {a0 : List W64} {s0 : State} (h0 : Tame s0 s) : Tame s0 (State.recWrites s vf addr i a0) := h0.trans (State.recWrites_tame _ _ _ _ _)
theorem State.writeBack_tame (s : State) (c : Nat) : Tame s (State.writeBack s c) := by
  unfold State.writeBack
  repeat' (first | with_reducible exact Tame.refl _ | with_reducible assumption | with_reducible apply State.modCluster_tame' | with_reducible apply State.vacate_tame' | with_reducible apply State.countDone_tame' | with_reducible apply State.recWrites_tame' | (with_reducible apply Tame.foldl; intro _ _ _) | split | exact Tame.same (Tame.refl _) rfl rfl | dsimp only)
theorem State.writeBack_tame' {s : State} {c : Nat} {s0 : State} (h0 : Tame s0 s) : Tame s0 (State.writeBack s c) := h0.trans (State.writeBack_tame _ _)
theorem State.enter_tame (s : State) : Tame s (State.enter s) := by
  unfold State.enter
  repeat' (first | with_reducible exact Tame.refl _ | with_reducible assumption | with_reducible apply State.modCtx_tame' | (with_reducible apply Tame.foldl; intro _ _ _) | split | exact Tame.same (Tame.refl _) rfl rfl | dsimp only)
theorem State.enter_tame' {s : State} {s0 : State} (h0 : Tame s0 s) : Tame s0 (State.enter s) := h0.trans (State.enter_tame _)
theorem State.stopAfter_tame (s : State) (c cause bundle : Nat) (own : Bool) : Tame s (State.stopAfter s c cause bundle own) := by
  unfold State.stopAfter
  repeat' (first | with_reducible exact Tame.refl _ | with_reducible assumption | with_reducible apply takeTrap_tame' | with_reducible apply State.preempt_tame' | (with_reducible apply Tame.foldl; intro _ _ _) | split | exact Tame.same (Tame.refl _) rfl rfl | dsimp only)
theorem State.stopAfter_tame' {s : State} {c cause bundle : Nat} {own : Bool} {s0 : State} (h0 : Tame s0 s) : Tame s0 (State.stopAfter s c cause bundle own) := h0.trans (State.stopAfter_tame _ _ _ _ _)
theorem State.endBundle_tame (s : State) (maxW : Nat) : Tame s (State.endBundle s maxW) := by
  unfold State.endBundle
  repeat' (first | with_reducible exact Tame.refl _ | with_reducible assumption | with_reducible apply State.setCtx_tame' | with_reducible apply State.modCtx_tame' | with_reducible apply State.writeBack_tame' | with_reducible apply State.stopAfter_tame' | (with_reducible apply Tame.foldl; intro _ _ _) | split | exact Tame.same (Tame.refl _) rfl rfl | dsimp only)
theorem State.endBundle_tame' {s : State} {maxW : Nat} {s0 : State} (h0 : Tame s0 s) : Tame s0 (State.endBundle s maxW) := h0.trans (State.endBundle_tame _ _)
theorem State.alone_tame (s : State) : Tame s (State.alone s) := by
  unfold State.alone
  repeat' (first | with_reducible exact Tame.refl _ | with_reducible assumption |  (with_reducible apply Tame.foldl; intro _ _ _) | split | exact Tame.same (Tame.refl _) rfl rfl | dsimp only)
theorem State.alone_tame' {s : State} {s0 : State} (h0 : Tame s0 s) : Tame s0 (State.alone s) := h0.trans (State.alone_tame _)
theorem Env.maskRes_tame (e : Env) (d : BitVec 5) (m : W64) (fl : BitVec 5) (a0 : State) : Tame a0 (Env.maskRes e d m fl a0) := by
  unfold Env.maskRes
  repeat' (first | with_reducible exact Tame.refl _ | with_reducible assumption | with_reducible apply Env.fixedL_tame' | (with_reducible apply Tame.foldl; intro _ _ _) | split | exact Tame.same (Tame.refl _) rfl rfl | dsimp only)
theorem Env.maskRes_tame' {e : Env} {d : BitVec 5} {m : W64} {fl : BitVec 5} {a0 : State} {s0 : State} (h0 : Tame s0 a0) : Tame s0 (Env.maskRes e d m fl a0) := h0.trans (Env.maskRes_tame _ _ _ _ _)
theorem Env.gRes_tame (e : Env) (d : BitVec 5) (v : BitVec 128) (bytes : W64) (a0 : State) : Tame a0 (Env.gRes e d v bytes a0) := by
  unfold Env.gRes
  repeat' (first | with_reducible exact Tame.refl _ | with_reducible assumption | with_reducible apply State.modCtx_tame' | (with_reducible apply Tame.foldl; intro _ _ _) | split | exact Tame.same (Tame.refl _) rfl rfl | dsimp only)
theorem Env.gRes_tame' {e : Env} {d : BitVec 5} {v : BitVec 128} {bytes : W64} {a0 : State} {s0 : State} (h0 : Tame s0 a0) : Tame s0 (Env.gRes e d v bytes a0) := h0.trans (Env.gRes_tame _ _ _ _ _)
theorem State.enqueueCopy_tame (s : State) (eng : Engine) (cmd : CopyCmd) : Tame s (State.enqueueCopy s eng cmd) := by
  unfold State.enqueueCopy
  repeat' (first | with_reducible exact Tame.refl _ | with_reducible assumption | with_reducible apply State.modCore_tame' | (with_reducible apply Tame.foldl; intro _ _ _) | split | exact Tame.same (Tame.refl _) rfl rfl | dsimp only)
theorem State.enqueueCopy_tame' {s : State} {eng : Engine} {cmd : CopyCmd} {s0 : State} (h0 : Tame s0 s) : Tame s0 (State.enqueueCopy s eng cmd) := h0.trans (State.enqueueCopy_tame _ _ _)
theorem State.enterMem_tame (s : State) (c : Nat) (ls : List LEntry) (rs : List REntry) : Tame s (State.enterMem s c ls rs) := by
  unfold State.enterMem
  repeat' (first | with_reducible exact Tame.refl _ | with_reducible assumption | with_reducible apply State.modCtx_tame' | (with_reducible apply Tame.foldl; intro _ _ _) | split | exact Tame.same (Tame.refl _) rfl rfl | dsimp only)
theorem State.enterMem_tame' {s : State} {c : Nat} {ls : List LEntry} {rs : List REntry} {s0 : State} (h0 : Tame s0 s) : Tame s0 (State.enterMem s c ls rs) := h0.trans (State.enterMem_tame _ _ _ _)
theorem Env.load_tame (e : Env) (f : File) (d : BitVec 5) (els : List Elem) (lat : Nat) (own always : Bool) (a0 : State) : Tame a0 (Env.load e f d els lat own always a0) := by
  unfold Env.load
  repeat' (first | with_reducible exact Tame.refl _ | with_reducible assumption | with_reducible apply State.modCtx_tame' | with_reducible apply State.touch_tame' | with_reducible apply Env.fixed_tame' | (with_reducible apply Tame.foldl; intro _ _ _) | split | exact Tame.same (Tame.refl _) rfl rfl | dsimp only)
theorem Env.load_tame' {e : Env} {f : File} {d : BitVec 5} {els : List Elem} {lat : Nat} {own always : Bool} {a0 : State} {s0 : State} (h0 : Tame s0 a0) : Tame s0 (Env.load e f d els lat own always a0) := h0.trans (Env.load_tame _ _ _ _ _ _ _ _)
theorem State.flip_tame (s : State) (k first n : Nat) (o : Bool) : Tame s (State.flip s k first n o) := by
  unfold State.flip
  repeat' (first | with_reducible exact Tame.refl _ | with_reducible assumption | with_reducible apply State.setSlot_tame' | (with_reducible apply Tame.foldl; intro _ _ _) | split | exact Tame.same (Tame.refl _) rfl rfl | dsimp only)
theorem State.flip_tame' {s : State} {k first n : Nat} {o : Bool} {s0 : State} (h0 : Tame s0 s) : Tame s0 (State.flip s k first n o) := h0.trans (State.flip_tame _ _ _ _ _)
theorem State.wrPieces_tame (s : State) (a0 : Nat) (a1 : Bool) (a2 : List (Nat × Nat)) : Tame s (State.wrPieces s a0 a1 a2) := by
  induction a2 generalizing s a0 a1 with
  | nil => exact .refl _
  | cons q r ih =>
    obtain ⟨l, n⟩ := q
    unfold State.wrPieces
    refine Tame.trans ?_ (ih ..)
    split
    · exact State.wake_tame' (State.addPoison_tame ..)
    · exact State.wr_tame ..
theorem State.wrPieces_tame' {s : State} {a0 : Nat} {a1 : Bool} {a2 : List (Nat × Nat)} {s0 : State} (h0 : Tame s0 s) : Tame s0 (State.wrPieces s a0 a1 a2) := h0.trans (State.wrPieces_tame _ _ _ _)
theorem State.settleStore_tame (s : State) (k : Nat) : Tame s (State.settleStore s k) := by
  unfold State.settleStore
  repeat' (first | with_reducible exact Tame.refl _ | with_reducible assumption | with_reducible apply State.modCore_tame' | (with_reducible apply Tame.foldl; intro _ _ _) | split | exact Tame.same (Tame.refl _) rfl rfl | dsimp only)
theorem State.settleStore_tame' {s : State} {k : Nat} {s0 : State} (h0 : Tame s0 s) : Tame s0 (State.settleStore s k) := h0.trans (State.settleStore_tame _ _)
theorem State.enterMcall_tame (s : State) (cmd : MatCmd) (reject : Bool) : Tame s (State.enterMcall s cmd reject) := by
  unfold State.enterMcall
  repeat' (first | with_reducible exact Tame.refl _ | with_reducible assumption | with_reducible apply State.modCore_tame' | with_reducible apply State.postRec_tame' | (with_reducible apply Tame.foldl; intro _ _ _) | split | exact Tame.same (Tame.refl _) rfl rfl | dsimp only)
theorem State.enterMcall_tame' {s : State} {cmd : MatCmd} {reject : Bool} {s0 : State} (h0 : Tame s0 s) : Tame s0 (State.enterMcall s cmd reject) := h0.trans (State.enterMcall_tame _ _ _)
theorem State.modRun_tame (s : State) (k : Nat) (f : MatRun → MatRun) : Tame s (State.modRun s k f) := by
  unfold State.modRun
  repeat' (first | with_reducible exact Tame.refl _ | with_reducible assumption | with_reducible apply State.modCore_tame' | (with_reducible apply Tame.foldl; intro _ _ _) | split | exact Tame.same (Tame.refl _) rfl rfl | dsimp only)
theorem State.modRun_tame' {s : State} {k : Nat} {f : MatRun → MatRun} {s0 : State} (h0 : Tame s0 s) : Tame s0 (State.modRun s k f) := h0.trans (State.modRun_tame _ _ _)
theorem State.chargeCycle_tame (s : State) (k : Nat) : Tame s (State.chargeCycle s k) := by
  unfold State.chargeCycle
  repeat' (first | with_reducible exact Tame.refl _ | with_reducible assumption | with_reducible apply State.modHub_tame' | (with_reducible apply Tame.foldl; intro _ _ _) | split | exact Tame.same (Tame.refl _) rfl rfl | dsimp only)
theorem State.chargeCycle_tame' {s : State} {k : Nat} {s0 : State} (h0 : Tame s0 s) : Tame s0 (State.chargeCycle s k) := h0.trans (State.chargeCycle_tame _ _)
theorem State.chargeAll_tame (s : State) : Tame s (State.chargeAll s) := by
  unfold State.chargeAll
  repeat' (first | with_reducible exact Tame.refl _ | with_reducible assumption | with_reducible apply State.chargeCycle_tame' | (with_reducible apply Tame.foldl; intro _ _ _) | split | exact Tame.same (Tame.refl _) rfl rfl | dsimp only)
theorem State.chargeAll_tame' {s : State} {s0 : State} (h0 : Tame s0 s) : Tame s0 (State.chargeAll s) := h0.trans (State.chargeAll_tame _)
theorem State.endRun_tame (s : State) (e : RunEnv) (st addr : Nat) : Tame s (State.endRun s e st addr) := by
  unfold State.endRun
  repeat' (first | with_reducible exact Tame.refl _ | with_reducible assumption | with_reducible apply State.modCtx_tame' | with_reducible apply State.modCore_tame' | with_reducible apply State.bump_tame' | (with_reducible apply Tame.foldl; intro _ _ _) | split | exact Tame.same (Tame.refl _) rfl rfl | dsimp only)
theorem State.endRun_tame' {s : State} {e : RunEnv} {st addr : Nat} {s0 : State} (h0 : Tame s0 s) : Tame s0 (State.endRun s e st addr) := h0.trans (State.endRun_tame _ _ _ _)
theorem State.abortRun_tame (s : State) (e : RunEnv) (st addr : Nat) : Tame s (State.abortRun s e st addr) := by
  unfold State.abortRun
  repeat' (first | with_reducible exact Tame.refl _ | with_reducible assumption | with_reducible apply State.endRun_tame' | (with_reducible apply Tame.foldl; intro _ _ _) | split | exact Tame.same (Tame.refl _) rfl rfl | dsimp only)
theorem State.abortRun_tame' {s : State} {e : RunEnv} {st addr : Nat} {s0 : State} (h0 : Tame s0 s) : Tame s0 (State.abortRun s e st addr) := h0.trans (State.abortRun_tame _ _ _ _)
theorem State.abortAt_tame (s : State) (e : RunEnv) (st addr : Nat) : Tame s (State.abortAt s e st addr) := by
  unfold State.abortAt
  repeat' (first | with_reducible exact Tame.refl _ | with_reducible assumption | with_reducible apply State.modRun_tame' | with_reducible apply State.abortRun_tame' | (with_reducible apply Tame.foldl; intro _ _ _) | split | exact Tame.same (Tame.refl _) rfl rfl | dsimp only)
theorem State.abortAt_tame' {s : State} {e : RunEnv} {st addr : Nat} {s0 : State} (h0 : Tame s0 s) : Tame s0 (State.abortAt s e st addr) := h0.trans (State.abortAt_tame _ _ _ _)
theorem State.stepFault_tame (s : State) (e : RunEnv) : Tame s (State.stepFault s e) := by
  unfold State.stepFault
  repeat' (first | with_reducible exact Tame.refl _ | with_reducible assumption | with_reducible apply State.abortAt_tame' | (with_reducible apply Tame.foldl; intro _ _ _) | split | exact Tame.same (Tame.refl _) rfl rfl | dsimp only)
theorem State.stepFault_tame' {s : State} {e : RunEnv} {s0 : State} (h0 : Tame s0 s) : Tame s0 (State.stepFault s e) := h0.trans (State.stepFault_tame _ _)
theorem State.stepTo_tame (s : State) (k : Nat) (c : MClass) (cycles : Nat) (loops : List (Nat × Nat × Nat)) (next : Nat) : Tame s (State.stepTo s k c cycles loops next) := by
  unfold State.stepTo
  repeat' (first | with_reducible exact Tame.refl _ | with_reducible assumption | with_reducible apply State.modRun_tame' | (with_reducible apply Tame.foldl; intro _ _ _) | split | exact Tame.same (Tame.refl _) rfl rfl | dsimp only)
theorem State.stepTo_tame' {s : State} {k : Nat} {c : MClass} {cycles : Nat} {loops : List (Nat × Nat × Nat)} {next : Nat} {s0 : State} (h0 : Tame s0 s) : Tame s0 (State.stepTo s k c cycles loops next) := h0.trans (State.stepTo_tame _ _ _ _ _ _)
theorem State.stepOn_tame (s : State) (e : RunEnv) (c : MClass) (cycles : Nat) : Tame s (State.stepOn s e c cycles) := by
  unfold State.stepOn
  repeat' (first | with_reducible exact Tame.refl _ | with_reducible assumption | with_reducible apply State.stepTo_tame' | (with_reducible apply Tame.foldl; intro _ _ _) | split | exact Tame.same (Tame.refl _) rfl rfl | dsimp only)
theorem State.stepOn_tame' {s : State} {e : RunEnv} {c : MClass} {cycles : Nat} {s0 : State} (h0 : Tame s0 s) : Tame s0 (State.stepOn s e c cycles) := h0.trans (State.stepOn_tame _ _ _ _)
theorem State.runRetry_tame (s : State) (e : RunEnv) (va : Nat) : Tame s (State.runRetry s e va) := by
  unfold State.runRetry
  repeat' (first | with_reducible exact Tame.refl _ | with_reducible assumption | with_reducible apply State.bump_tame' | with_reducible apply State.modRun_tame' | with_reducible apply State.abortAt_tame' | (with_reducible apply Tame.foldl; intro _ _ _) | split | exact Tame.same (Tame.refl _) rfl rfl | dsimp only)
theorem State.runRetry_tame' {s : State} {e : RunEnv} {va : Nat} {s0 : State} (h0 : Tame s0 s) : Tame s0 (State.runRetry s e va) := h0.trans (State.runRetry_tame _ _ _)
theorem State.runBad_tame (s : State) (e : RunEnv) (x : EngRes) : Tame s (State.runBad s e x) := by
  unfold State.runBad
  repeat' (first | with_reducible exact Tame.refl _ | with_reducible assumption | with_reducible apply State.abortAt_tame' | with_reducible apply State.runRetry_tame' | (with_reducible apply Tame.foldl; intro _ _ _) | split | exact Tame.same (Tame.refl _) rfl rfl | dsimp only)
theorem State.runBad_tame' {s : State} {e : RunEnv} {x : EngRes} {s0 : State} (h0 : Tame s0 s) : Tame s0 (State.runBad s e x) := h0.trans (State.runBad_tame _ _ _)
theorem State.loadArray_tame (s : State) (e : RunEnv) (fmt : Nat) (mx : Bool) (code scale : Nat → Nat) (psn : Option Nat) : Tame s (State.loadArray s e fmt mx code scale psn) := by
  unfold State.loadArray
  repeat' (first | with_reducible exact Tame.refl _ | with_reducible assumption | with_reducible apply State.modCore_tame' | (with_reducible apply Tame.foldl; intro _ _ _) | split | exact Tame.same (Tame.refl _) rfl rfl | dsimp only)
theorem State.loadArray_tame' {s : State} {e : RunEnv} {fmt : Nat} {mx : Bool} {code scale : Nat → Nat} {psn : Option Nat} {s0 : State} (h0 : Tame s0 s) : Tame s0 (State.loadArray s e fmt mx code scale psn) := h0.trans (State.loadArray_tame _ _ _ _ _ _ _)
theorem State.loadGen_tame (s : State) (e : RunEnv) (g : BitVec 128) (t : Bool) (d : W64) : Tame s (State.loadGen s e g t d) := by
  unfold State.loadGen
  repeat' (first | with_reducible exact Tame.refl _ | with_reducible assumption | with_reducible apply State.modRun_tame' | with_reducible apply State.stepFault_tame' | with_reducible apply State.stepOn_tame' | with_reducible apply State.loadArray_tame' | (with_reducible apply Tame.foldl; intro _ _ _) | split | exact Tame.same (Tame.refl _) rfl rfl | dsimp only)
theorem State.loadGen_tame' {s : State} {e : RunEnv} {g : BitVec 128} {t : Bool} {d : W64} {s0 : State} (h0 : Tame s0 s) : Tame s0 (State.loadGen s e g t d) := h0.trans (State.loadGen_tame _ _ _ _ _)
theorem runWload_tame (fmt : BitVec 4) (mx : Bool) (ma : BitVec 3) (rw : Bool) (ms : BitVec 3) (e : RunEnv) (s : State) : Tame s (runWload fmt mx ma rw ms e s) := by
  unfold runWload
  repeat' (first | with_reducible exact Tame.refl _ | with_reducible assumption | with_reducible apply State.touch_tame' | with_reducible apply State.modRun_tame' | with_reducible apply State.stepFault_tame' | with_reducible apply State.stepOn_tame' | with_reducible apply State.runBad_tame' | with_reducible apply State.loadArray_tame' | with_reducible apply State.loadGen_tame' | (with_reducible apply Tame.foldl; intro _ _ _) | split | exact Tame.same (Tame.refl _) rfl rfl | dsimp only)
theorem runWload_tame' {fmt : BitVec 4} {mx : Bool} {ma : BitVec 3} {rw : Bool} {ms : BitVec 3} {e : RunEnv} {s : State} {s0 : State} (h0 : Tame s0 s) : Tame s0 (runWload fmt mx ma rw ms e s) := h0.trans (runWload_tame _ _ _ _ _ _ _)
theorem runWgen_tame (gn : BitVec 3) (t : Bool) (ma : BitVec 3) (e : RunEnv) (s : State) : Tame s (runWgen gn t ma e s) := by
  unfold runWgen
  repeat' (first | with_reducible exact Tame.refl _ | with_reducible assumption | with_reducible apply State.loadGen_tame' | (with_reducible apply Tame.foldl; intro _ _ _) | split | exact Tame.same (Tame.refl _) rfl rfl | dsimp only)
theorem runWgen_tame' {gn : BitVec 3} {t : Bool} {ma : BitVec 3} {e : RunEnv} {s : State} {s0 : State} (h0 : Tame s0 s) : Tame s0 (runWgen gn t ma e s) := h0.trans (runWgen_tame _ _ _ _ _)
theorem streamRows_tame (e : RunEnv) (p brow fmt addr first : Nat) (gen : Option (BitVec 128 × Bool × W64)) (a0 : Nat) (a1 : Nat) (a2 : Nat) (a3 : State) : Tame a3 (streamRows e p brow fmt addr first gen a0 a1 a2 a3) := by
  induction a0 generalizing a1 a2 a3 with
  | zero => exact State.stepOn_tame ..
  | succ n ih =>
    unfold streamRows
    dsimp only
    repeat' (first | with_reducible exact Tame.refl _ | (refine Tame.trans ?_ (ih ..)) | with_reducible apply State.runBad_tame' |
      with_reducible apply State.modRun_tame' | with_reducible apply State.modCore_tame' |
      with_reducible apply State.touch_tame' | split)
theorem streamRows_tame' {e : RunEnv} {p brow fmt addr first : Nat} {gen : Option (BitVec 128 × Bool × W64)} {a0 : Nat} {a1 : Nat} {a2 : Nat} {a3 : State} {s0 : State} (h0 : Tame s0 a3) : Tame s0 (streamRows e p brow fmt addr first gen a0 a1 a2 a3) := h0.trans (streamRows_tame _ _ _ _ _ _ _ _ _ _ _)
theorem State.streamStep_tame (s : State) (e : RunEnv) (fmt p brow n addr : Nat) (rg : Bool) (gen : Option (BitVec 128 × Bool × W64)) : Tame s (State.streamStep s e fmt p brow n addr rg gen) := by
  unfold State.streamStep
  repeat' (first | with_reducible exact Tame.refl _ | with_reducible assumption | with_reducible apply State.modRun_tame' | with_reducible apply State.stepFault_tame' | with_reducible apply streamRows_tame' | (with_reducible apply Tame.foldl; intro _ _ _) | split | exact Tame.same (Tame.refl _) rfl rfl | dsimp only)
theorem State.streamStep_tame' {s : State} {e : RunEnv} {fmt p brow n addr : Nat} {rg : Bool} {gen : Option (BitVec 128 × Bool × W64)} {s0 : State} (h0 : Tame s0 s) : Tame s0 (State.streamStep s e fmt p brow n addr rg gen) := h0.trans (State.streamStep_tame _ _ _ _ _ _ _ _ _)
theorem runAstream_tame (fmt : BitVec 4) (pm1 : BitVec 5) (ma : BitVec 3) (brow0 nm1 : BitVec 8) (rg : Bool) (e : RunEnv) (s : State) : Tame s (runAstream fmt pm1 ma brow0 nm1 rg e s) := by
  unfold runAstream
  repeat' (first | with_reducible exact Tame.refl _ | with_reducible assumption | with_reducible apply State.stepFault_tame' | with_reducible apply State.streamStep_tame' | (with_reducible apply Tame.foldl; intro _ _ _) | split | exact Tame.same (Tame.refl _) rfl rfl | dsimp only)
theorem runAstream_tame' {fmt : BitVec 4} {pm1 : BitVec 5} {ma : BitVec 3} {brow0 nm1 : BitVec 8} {rg : Bool} {e : RunEnv} {s : State} {s0 : State} (h0 : Tame s0 s) : Tame s0 (runAstream fmt pm1 ma brow0 nm1 rg e s) := h0.trans (runAstream_tame _ _ _ _ _ _ _ _)
theorem runAgen_tame (gn : BitVec 3) (t : Bool) (pm1 : BitVec 5) (ma : BitVec 3) (brow0 nm1 : BitVec 8) (rg : Bool) (e : RunEnv) (s : State) : Tame s (runAgen gn t pm1 ma brow0 nm1 rg e s) := by
  unfold runAgen
  repeat' (first | with_reducible exact Tame.refl _ | with_reducible assumption | with_reducible apply State.streamStep_tame' | (with_reducible apply Tame.foldl; intro _ _ _) | split | exact Tame.same (Tame.refl _) rfl rfl | dsimp only)
theorem runAgen_tame' {gn : BitVec 3} {t : Bool} {pm1 : BitVec 5} {ma : BitVec 3} {brow0 nm1 : BitVec 8} {rg : Bool} {e : RunEnv} {s : State} {s0 : State} (h0 : Tame s0 s) : Tame s0 (runAgen gn t pm1 ma brow0 nm1 rg e s) := h0.trans (runAgen_tame _ _ _ _ _ _ _ _ _)
theorem runAsel_tame (bank : BitVec 2) (e : RunEnv) (s : State) : Tame s (runAsel bank e s) := by
  unfold runAsel
  repeat' (first | with_reducible exact Tame.refl _ | with_reducible assumption | with_reducible apply State.modRun_tame' | with_reducible apply State.stepFault_tame' | with_reducible apply State.stepOn_tame' | (with_reducible apply Tame.foldl; intro _ _ _) | split | exact Tame.same (Tame.refl _) rfl rfl | dsimp only)
theorem runAsel_tame' {bank : BitVec 2} {e : RunEnv} {s : State} {s0 : State} (h0 : Tame s0 s) : Tame s0 (runAsel bank e s) := h0.trans (runAsel_tame _ _ _)
theorem runAclr_tame (brow0 nm1 : BitVec 8) (e : RunEnv) (s : State) : Tame s (runAclr brow0 nm1 e s) := by
  unfold runAclr
  repeat' (first | with_reducible exact Tame.refl _ | with_reducible assumption | with_reducible apply State.modCore_tame' | with_reducible apply State.stepFault_tame' | with_reducible apply State.stepOn_tame' | (with_reducible apply Tame.foldl; intro _ _ _) | split | exact Tame.same (Tame.refl _) rfl rfl | dsimp only)
theorem runAclr_tame' {brow0 nm1 : BitVec 8} {e : RunEnv} {s : State} {s0 : State} (h0 : Tame s0 s) : Tame s0 (runAclr brow0 nm1 e s) := h0.trans (runAclr_tame _ _ _ _)
theorem drainRows_tame (e : RunEnv) (fmt : Nat) (rm : Rm) (sat : Bool) (addr brow cyc : Nat) (pos : W64) (clr : Bool) (a0 : Nat) (a1 : Nat) (a2 : State) : Tame a2 (drainRows e fmt rm sat addr brow cyc pos clr a0 a1 a2) := by
  induction a0 generalizing a1 a2 with
  | zero => exact State.stepOn_tame ..
  | succ n ih =>
    unfold drainRows
    dsimp only
    repeat' (first | with_reducible exact Tame.refl _ | (refine Tame.trans ?_ (ih ..)) | with_reducible apply State.runBad_tame' |
      with_reducible apply State.modRun_tame' | with_reducible apply State.modCore_tame' | with_reducible apply State.wrPieces_tame' |
      with_reducible apply State.touch_tame' | split)
theorem drainRows_tame' {e : RunEnv} {fmt : Nat} {rm : Rm} {sat : Bool} {addr brow cyc : Nat} {pos : W64} {clr : Bool} {a0 : Nat} {a1 : Nat} {a2 : State} {s0 : State} (h0 : Tame s0 a2) : Tame s0 (drainRows e fmt rm sat addr brow cyc pos clr a0 a1 a2) := h0.trans (drainRows_tame _ _ _ _ _ _ _ _ _ _ _ _)
theorem runAdrain_tame (fmt : BitVec 4) (rm : BitVec 3) (sf : Bool) (ma : BitVec 3) (brow0 nm1 : BitVec 8) (clr : Bool) (ms : BitVec 3) (e : RunEnv) (s : State) : Tame s (runAdrain fmt rm sf ma brow0 nm1 clr ms e s) := by
  unfold runAdrain
  repeat' (first | with_reducible exact Tame.refl _ | with_reducible assumption | with_reducible apply State.stepFault_tame' | with_reducible apply drainRows_tame' | (with_reducible apply Tame.foldl; intro _ _ _) | split | exact Tame.same (Tame.refl _) rfl rfl | dsimp only)
theorem runAdrain_tame' {fmt : BitVec 4} {rm : BitVec 3} {sf : Bool} {ma : BitVec 3} {brow0 nm1 : BitVec 8} {clr : Bool} {ms : BitVec 3} {e : RunEnv} {s : State} {s0 : State} (h0 : Tame s0 s) : Tame s0 (runAdrain fmt rm sf ma brow0 nm1 clr ms e s) := h0.trans (runAdrain_tame _ _ _ _ _ _ _ _ _ _)
theorem runRagg_tame (ma mc : BitVec 3) (e : RunEnv) (s : State) : Tame s (runRagg ma mc e s) := by
  unfold runRagg
  repeat' (first | with_reducible exact Tame.refl _ | with_reducible assumption | with_reducible apply State.modCore_tame' | with_reducible apply State.touch_tame' | with_reducible apply State.modRun_tame' | with_reducible apply State.abortAt_tame' | with_reducible apply State.stepFault_tame' | with_reducible apply State.stepOn_tame' | with_reducible apply State.runBad_tame' | (with_reducible apply Tame.foldl; intro _ _ _) | split | exact Tame.same (Tame.refl _) rfl rfl | dsimp only)
theorem runRagg_tame' {ma mc : BitVec 3} {e : RunEnv} {s : State} {s0 : State} (h0 : Tame s0 s) : Tame s0 (runRagg ma mc e s) := h0.trans (runRagg_tame _ _ _ _)
theorem runZskip_tame (en : Bool) (e : RunEnv) (s : State) : Tame s (runZskip en e s) := by
  unfold runZskip
  repeat' (first | with_reducible exact Tame.refl _ | with_reducible assumption | with_reducible apply State.modRun_tame' | with_reducible apply State.stepOn_tame' | (with_reducible apply Tame.foldl; intro _ _ _) | split | exact Tame.same (Tame.refl _) rfl rfl | dsimp only)
theorem runZskip_tame' {en : Bool} {e : RunEnv} {s : State} {s0 : State} (h0 : Tame s0 s) : Tame s0 (runZskip en e s) := h0.trans (runZskip_tame _ _ _)
theorem runLoopm_tame (src : Bool) (ms : BitVec 3) (cm1 endw : BitVec 12) (e : RunEnv) (s : State) : Tame s (runLoopm src ms cm1 endw e s) := by
  unfold runLoopm
  repeat' (first | with_reducible exact Tame.refl _ | with_reducible assumption | with_reducible apply State.stepFault_tame' | with_reducible apply State.stepTo_tame' | (with_reducible apply Tame.foldl; intro _ _ _) | split | exact Tame.same (Tame.refl _) rfl rfl | dsimp only)
theorem runLoopm_tame' {src : Bool} {ms : BitVec 3} {cm1 endw : BitVec 12} {e : RunEnv} {s : State} {s0 : State} (h0 : Tame s0 s) : Tame s0 (runLoopm src ms cm1 endw e s) := h0.trans (runLoopm_tame _ _ _ _ _ _)
theorem runMbr_tame (cond ms : BitVec 3) (tgt : BitVec 12) (e : RunEnv) (s : State) : Tame s (runMbr cond ms tgt e s) := by
  unfold runMbr
  repeat' (first | with_reducible exact Tame.refl _ | with_reducible assumption | with_reducible apply State.stepFault_tame' | with_reducible apply State.stepTo_tame' | with_reducible apply State.stepOn_tame' | (with_reducible apply Tame.foldl; intro _ _ _) | split | exact Tame.same (Tame.refl _) rfl rfl | dsimp only)
theorem runMbr_tame' {cond ms : BitVec 3} {tgt : BitVec 12} {e : RunEnv} {s : State} {s0 : State} (h0 : Tame s0 s) : Tame s0 (runMbr cond ms tgt e s) := h0.trans (runMbr_tame _ _ _ _ _)
theorem runPadd_tame (md ms : BitVec 3) (src : Bool) (imm : W32) (e : RunEnv) (s : State) : Tame s (runPadd md ms src imm e s) := by
  unfold runPadd
  repeat' (first | with_reducible exact Tame.refl _ | with_reducible assumption | with_reducible apply State.modCore_tame' | with_reducible apply State.stepFault_tame' | with_reducible apply State.stepOn_tame' | (with_reducible apply Tame.foldl; intro _ _ _) | split | exact Tame.same (Tame.refl _) rfl rfl | dsimp only)
theorem runPadd_tame' {md ms : BitVec 3} {src : Bool} {imm : W32} {e : RunEnv} {s : State} {s0 : State} (h0 : Tame s0 s) : Tame s0 (runPadd md ms src imm e s) := h0.trans (runPadd_tame _ _ _ _ _ _)
theorem runMend_tame (e : RunEnv) (s : State) : Tame s (runMend e s) := by
  unfold runMend
  repeat' (first | with_reducible exact Tame.refl _ | with_reducible assumption | with_reducible apply State.endRun_tame' | (with_reducible apply Tame.foldl; intro _ _ _) | split | exact Tame.same (Tame.refl _) rfl rfl | dsimp only)
theorem runMend_tame' {e : RunEnv} {s : State} {s0 : State} (h0 : Tame s0 s) : Tame s0 (runMend e s) := h0.trans (runMend_tame _ _)
theorem runStep_tame (i : Instr) (e : RunEnv) (s : State) : Tame s (runStep i e s) := by
  unfold runStep
  repeat' (first | with_reducible exact Tame.refl _ | with_reducible assumption | with_reducible apply State.stepFault_tame' | with_reducible apply runWload_tame' | with_reducible apply runWgen_tame' | with_reducible apply runAstream_tame' | with_reducible apply runAgen_tame' | with_reducible apply runAsel_tame' | with_reducible apply runAclr_tame' | with_reducible apply runAdrain_tame' | with_reducible apply runRagg_tame' | with_reducible apply runZskip_tame' | with_reducible apply runLoopm_tame' | with_reducible apply runMbr_tame' | with_reducible apply runPadd_tame' | with_reducible apply runMend_tame' | (with_reducible apply Tame.foldl; intro _ _ _) | split | exact Tame.same (Tame.refl _) rfl rfl | dsimp only)
theorem runStep_tame' {i : Instr} {e : RunEnv} {s : State} {s0 : State} (h0 : Tame s0 s) : Tame s0 (runStep i e s) := h0.trans (runStep_tame _ _ _)
theorem State.runNext_tame (s : State) (k : Nat) : Tame s (State.runNext s k) := by
  unfold State.runNext
  repeat' (first | with_reducible exact Tame.refl _ | with_reducible assumption | with_reducible apply State.stepFault_tame' | with_reducible apply runStep_tame' | (with_reducible apply Tame.foldl; intro _ _ _) | split | exact Tame.same (Tame.refl _) rfl rfl | dsimp only)
theorem State.runNext_tame' {s : State} {k : Nat} {s0 : State} (h0 : Tame s0 s) : Tame s0 (State.runNext s k) := h0.trans (State.runNext_tame _ _)
theorem Env.takeK_tame (e_ : Env) (t : Option Nat) (a0 : State) : Tame a0 (Env.takeK e_ t a0) := by
  unfold Env.takeK
  repeat' (first | with_reducible exact Tame.refl _ | with_reducible assumption |  (with_reducible apply Tame.foldl; intro _ _ _) | split | exact Tame.same (Tame.refl _) rfl rfl | dsimp only)
theorem Env.takeK_tame' {e_ : Env} {t : Option Nat} {a0 : State} {s0 : State} (h0 : Tame s0 a0) : Tame s0 (Env.takeK e_ t a0) := h0.trans (Env.takeK_tame _ _ _)
theorem stopAfterBundle_tame (cause : Nat) (a0 : State) : Tame a0 (stopAfterBundle cause a0) := by
  unfold stopAfterBundle
  repeat' (first | with_reducible exact Tame.refl _ | with_reducible assumption | with_reducible apply State.stopAfter_tame' | (with_reducible apply Tame.foldl; intro _ _ _) | split | exact Tame.same (Tame.refl _) rfl rfl | dsimp only)
theorem stopAfterBundle_tame' {cause : Nat} {a0 : State} {s0 : State} (h0 : Tame s0 a0) : Tame s0 (stopAfterBundle cause a0) := h0.trans (stopAfterBundle_tame _ _)
theorem Env.leave_tame (e : Env) (tend : Bool) (w6 : W64) (a0 : State) : Tame a0 (Env.leave e tend w6 a0) := by
  unfold Env.leave
  repeat' (first | with_reducible exact Tame.refl _ | with_reducible assumption | with_reducible apply State.modCtx_tame' | (with_reducible apply Tame.foldl; intro _ _ _) | split | exact Tame.same (Tame.refl _) rfl rfl | dsimp only)
theorem Env.leave_tame' {e : Env} {tend : Bool} {w6 : W64} {a0 : State} {s0 : State} (h0 : Tame s0 a0) : Tame s0 (Env.leave e tend w6 a0) := h0.trans (Env.leave_tame _ _ _ _)
theorem State.sendReq_tame (s : State) (r : LaunchReq) : Tame s (State.sendReq s r) := by
  unfold State.sendReq
  repeat' (first | with_reducible exact Tame.refl _ | with_reducible assumption | with_reducible apply State.modCluster_tame' | (with_reducible apply Tame.foldl; intro _ _ _) | split | exact Tame.same (Tame.refl _) rfl rfl | dsimp only)
theorem State.sendReq_tame' {s : State} {r : LaunchReq} {s0 : State} (h0 : Tame s0 s) : Tame s0 (State.sendReq s r) := h0.trans (State.sendReq_tame _ _)
theorem State.atItem_tame (s : State) (t : Item) : Tame s (State.atItem s t) := by
  unfold State.atItem
  repeat' (first | with_reducible exact Tame.refl _ | with_reducible assumption |  (with_reducible apply Tame.foldl; intro _ _ _) | split | exact Tame.same (Tame.refl _) rfl rfl | dsimp only)
theorem State.atItem_tame' {s : State} {t : Item} {s0 : State} (h0 : Tame s0 s) : Tame s0 (State.atItem s t) := h0.trans (State.atItem_tame _ _)
theorem State.deliverReport_tame (s : State) (c : Nat) : Tame s (State.deliverReport s c) := by
  unfold State.deliverReport
  repeat' (first | with_reducible exact Tame.refl _ | with_reducible assumption | with_reducible apply State.modCtx_tame' | with_reducible apply takeTrap_tame' | (with_reducible apply Tame.foldl; intro _ _ _) | split | exact Tame.same (Tame.refl _) rfl rfl | dsimp only)
theorem State.deliverReport_tame' {s : State} {c : Nat} {s0 : State} (h0 : Tame s0 s) : Tame s0 (State.deliverReport s c) := h0.trans (State.deliverReport_tame _ _)
theorem State.feed_tame (s : State) (ws : List (Nat × W32)) : Tame s (State.feed s ws) := by
  unfold State.feed
  repeat' (first | with_reducible exact Tame.refl _ | with_reducible assumption |  (with_reducible apply Tame.foldl; intro _ _ _) | split | exact Tame.same (Tame.refl _) rfl rfl | dsimp only)
theorem State.feed_tame' {s : State} {ws : List (Nat × W32)} {s0 : State} (h0 : Tame s0 s) : Tame s0 (State.feed s ws) := h0.trans (State.feed_tame _ _)
theorem State.follow_tame (s : State) : Tame s (State.follow s) := by
  unfold State.follow
  repeat' (first | with_reducible exact Tame.refl _ | with_reducible assumption | with_reducible apply State.modCtx_tame' | (with_reducible apply Tame.foldl; intro _ _ _) | split | exact Tame.same (Tame.refl _) rfl rfl | dsimp only)
theorem State.follow_tame' {s : State} {s0 : State} (h0 : Tame s0 s) : Tame s0 (State.follow s) := h0.trans (State.follow_tame _)
theorem State.gangWait_tame (s : State) (ms : List Nat) : Tame s (State.gangWait s ms) := by
  unfold State.gangWait
  repeat' (first | with_reducible exact Tame.refl _ | with_reducible assumption | with_reducible apply State.modCtx_tame' | (with_reducible apply Tame.foldl; intro _ _ _) | split | exact Tame.same (Tame.refl _) rfl rfl | dsimp only)
theorem State.gangWait_tame' {s : State} {ms : List Nat} {s0 : State} (h0 : Tame s0 s) : Tame s0 (State.gangWait s ms) := h0.trans (State.gangWait_tame _ _)
theorem State.showWfe_tame (s : State) (ws : List (Nat × W32)) (m : Nat) : Tame s (State.showWfe s ws m) := by
  unfold State.showWfe
  repeat' (first | with_reducible exact Tame.refl _ | with_reducible assumption | with_reducible apply State.setCtx_tame' | with_reducible apply State.kill_tame' | (with_reducible apply Tame.foldl; intro _ _ _) | split | exact Tame.same (Tame.refl _) rfl rfl | dsimp only)
theorem State.showWfe_tame' {s : State} {ws : List (Nat × W32)} {m : Nat} {s0 : State} (h0 : Tame s0 s) : Tame s0 (State.showWfe s ws m) := h0.trans (State.showWfe_tame _ _ _)
theorem State.modRout_tame (s : State) (c id : Nat) (f : REntry → REntry) : Tame s (State.modRout s c id f) := by
  unfold State.modRout
  repeat' (first | with_reducible exact Tame.refl _ | with_reducible assumption | with_reducible apply State.modCtx_tame' | (with_reducible apply Tame.foldl; intro _ _ _) | split | exact Tame.same (Tame.refl _) rfl rfl | dsimp only)
theorem State.modRout_tame' {s : State} {c id : Nat} {f : REntry → REntry} {s0 : State} (h0 : Tame s0 s) : Tame s0 (State.modRout s c id f) := h0.trans (State.modRout_tame _ _ _ _)
theorem State.remoteDone_tame (s : State) (c id : Nat) (v : Wide × W64) : Tame s (State.remoteDone s c id v) := by
  unfold State.remoteDone
  repeat' (first | with_reducible exact Tame.refl _ | with_reducible assumption | with_reducible apply State.modRout_tame' | (with_reducible apply Tame.foldl; intro _ _ _) | split | exact Tame.same (Tame.refl _) rfl rfl | dsimp only)
theorem State.remoteDone_tame' {s : State} {c id : Nat} {v : Wide × W64} {s0 : State} (h0 : Tame s0 s) : Tame s0 (State.remoteDone s c id v) := h0.trans (State.remoteDone_tame _ _ _ _)
theorem State.remoteFail_tame (s : State) (c id va arm : Nat) : Tame s (State.remoteFail s c id va arm) := by
  unfold State.remoteFail
  repeat' (first | with_reducible exact Tame.refl _ | with_reducible assumption | with_reducible apply State.modCtx_tame' | with_reducible apply State.remoteDone_tame' | (with_reducible apply Tame.foldl; intro _ _ _) | split | exact Tame.same (Tame.refl _) rfl rfl | dsimp only)
theorem State.remoteFail_tame' {s : State} {c id va arm : Nat} {s0 : State} (h0 : Tame s0 s) : Tame s0 (State.remoteFail s c id va arm) := h0.trans (State.remoteFail_tame _ _ _ _ _)
theorem State.remotePerform_tame (s : State) (c : Nat) (r : REntry) (l : Nat) (ptes : List Nat) : Tame s (State.remotePerform s c r l ptes) := by
  unfold State.remotePerform
  repeat' (first | with_reducible exact Tame.refl _ | with_reducible assumption | with_reducible apply State.storeBytes_tame' | with_reducible apply State.touch_tame' | with_reducible apply State.pushIncrAt_tame' | with_reducible apply State.doRmw_tame' | with_reducible apply State.watchHome_tame' | with_reducible apply Env.load_tame' | with_reducible apply State.modRout_tame' | with_reducible apply State.remoteDone_tame' | (with_reducible apply Tame.foldl; intro _ _ _) | split | exact Tame.same (Tame.refl _) rfl rfl | dsimp only)
theorem State.remotePerform_tame' {s : State} {c : Nat} {r : REntry} {l : Nat} {ptes : List Nat} {s0 : State} (h0 : Tame s0 s) : Tame s0 (State.remotePerform s c r l ptes) := h0.trans (State.remotePerform_tame _ _ _ _ _)
theorem State.sendEntry_tame (s : State) (c : Nat) (r : REntry) : Tame s (State.sendEntry s c r) := by
  unfold State.sendEntry
  repeat' (first | with_reducible exact Tame.refl _ | with_reducible assumption | with_reducible apply State.modCtx_tame' | with_reducible apply State.remoteDone_tame' | with_reducible apply State.remoteFail_tame' | with_reducible apply State.remotePerform_tame' | (with_reducible apply Tame.foldl; intro _ _ _) | split | exact Tame.same (Tame.refl _) rfl rfl | dsimp only)
theorem State.sendEntry_tame' {s : State} {c : Nat} {r : REntry} {s0 : State} (h0 : Tame s0 s) : Tame s0 (State.sendEntry s c r) := h0.trans (State.sendEntry_tame _ _ _)
theorem State.flagDone_tame (s : State) (n : Incr) (bad : Bool) : Tame s (State.flagDone s n bad) := by
  unfold State.flagDone
  repeat' (first | with_reducible exact Tame.refl _ | with_reducible assumption | with_reducible apply State.modCore_tame' | with_reducible apply State.modRout_tame' | (with_reducible apply Tame.foldl; intro _ _ _) | split | exact Tame.same (Tame.refl _) rfl rfl | dsimp only)
theorem State.flagDone_tame' {s : State} {n : Incr} {bad : Bool} {s0 : State} (h0 : Tame s0 s) : Tame s0 (State.flagDone s n bad) := h0.trans (State.flagDone_tame _ _ _)
theorem State.moveF_tame (s : State) (c : Nat) (t : Res) : Tame s (State.moveF s c t) := by
  unfold State.moveF
  repeat' (first | with_reducible exact Tame.refl _ | with_reducible assumption | with_reducible apply State.modCtx_tame' | (with_reducible apply Tame.foldl; intro _ _ _) | split | exact Tame.same (Tame.refl _) rfl rfl | dsimp only)
theorem State.moveF_tame' {s : State} {c : Nat} {t : Res} {s0 : State} (h0 : Tame s0 s) : Tame s0 (State.moveF s c t) := h0.trans (State.moveF_tame _ _ _)
theorem State.setRun_tame (s : State) (k : Nat) (g : Bool) (r : CopyRun) : Tame s (State.setRun s k g r) := by
  unfold State.setRun
  repeat' (first | with_reducible exact Tame.refl _ | with_reducible assumption | with_reducible apply State.modCore_tame' | (with_reducible apply Tame.foldl; intro _ _ _) | split | exact Tame.same (Tame.refl _) rfl rfl | dsimp only)
theorem State.setRun_tame' {s : State} {k : Nat} {g : Bool} {r : CopyRun} {s0 : State} (h0 : Tame s0 s) : Tame s0 (State.setRun s k g r) := h0.trans (State.setRun_tame _ _ _ _)
theorem State.copyDone_tame (s : State) (k : Nat) (g : Bool) (c : CopyCmd) (r : CopyRun) : Tame s (State.copyDone s k g c r) := by
  unfold State.copyDone
  repeat' (first | with_reducible exact Tame.refl _ | with_reducible assumption | with_reducible apply State.pushIncr_tame' | with_reducible apply State.setRun_tame' | (with_reducible apply Tame.foldl; intro _ _ _) | split | exact Tame.same (Tame.refl _) rfl rfl | dsimp only)
theorem State.copyDone_tame' {s : State} {k : Nat} {g : Bool} {c : CopyCmd} {r : CopyRun} {s0 : State} (h0 : Tame s0 s) : Tame s0 (State.copyDone s k g c r) := h0.trans (State.copyDone_tame _ _ _ _ _)
theorem State.copyBytes_tame (s : State) (data : List (Byte × Bool)) (dst : List Nat) : Tame s ((State.copyBytes s data dst).1) := by
  unfold State.copyBytes
  repeat' (first | with_reducible exact Tame.refl _ | with_reducible assumption | with_reducible apply State.wake_tame' | with_reducible apply State.storeBytes_tame' | with_reducible apply State.addPoison_tame' | (with_reducible apply Tame.foldl; intro _ _ _) | split | exact Tame.same (Tame.refl _) rfl rfl | dsimp only)
theorem State.copyBytes_tame' {s : State} {data : List (Byte × Bool)} {dst : List Nat} {s0 : State} (h0 : Tame s0 s) : Tame s0 ((State.copyBytes s data dst).1) := h0.trans (State.copyBytes_tame _ _ _)
theorem State.watchEngine_tame (s : State) (k : Nat) (c : CopyCmd) (dst n : Nat) : Tame s (State.watchEngine s k c dst n) := by
  unfold State.watchEngine
  repeat' (first | with_reducible exact Tame.refl _ | with_reducible assumption | with_reducible apply State.watchHome_tame' | (with_reducible apply Tame.foldl; intro _ _ _) | split | exact Tame.same (Tame.refl _) rfl rfl | dsimp only)
theorem State.watchEngine_tame' {s : State} {k : Nat} {c : CopyCmd} {dst n : Nat} {s0 : State} (h0 : Tame s0 s) : Tame s0 (State.watchEngine s k c dst n) := h0.trans (State.watchEngine_tame _ _ _ _ _)
theorem State.copyAbort_tame (s : State) (k : Nat) (g : Bool) (r : CopyRun) (st addr : Nat) : Tame s (State.copyAbort s k g r st addr) := by
  unfold State.copyAbort
  repeat' (first | with_reducible exact Tame.refl _ | with_reducible assumption | with_reducible apply State.setRun_tame' | (with_reducible apply Tame.foldl; intro _ _ _) | split | exact Tame.same (Tame.refl _) rfl rfl | dsimp only)
theorem State.copyAbort_tame' {s : State} {k : Nat} {g : Bool} {r : CopyRun} {st addr : Nat} {s0 : State} (h0 : Tame s0 s) : Tame s0 (State.copyAbort s k g r st addr) := h0.trans (State.copyAbort_tame _ _ _ _ _ _)
theorem State.copyBad_tame (s : State) (k : Nat) (g : Bool) (r : CopyRun) (x : EngRes) : Tame s (State.copyBad s k g r x) := by
  unfold State.copyBad
  repeat' (first | with_reducible exact Tame.refl _ | with_reducible assumption | with_reducible apply State.bump_tame' | with_reducible apply State.setRun_tame' | with_reducible apply State.copyAbort_tame' | (with_reducible apply Tame.foldl; intro _ _ _) | split | exact Tame.same (Tame.refl _) rfl rfl | dsimp only)
theorem State.copyBad_tame' {s : State} {k : Nat} {g : Bool} {r : CopyRun} {x : EngRes} {s0 : State} (h0 : Tame s0 s) : Tame s0 (State.copyBad s k g r x) := h0.trans (State.copyBad_tame _ _ _ _ _)
theorem State.copyRead_tame (s : State) (k : Nat) (g : Bool) (c : CopyCmd) (r : CopyRun) : Tame s (State.copyRead s k g c r) := by
  unfold State.copyRead
  repeat' (first | with_reducible exact Tame.refl _ | with_reducible assumption | with_reducible apply State.touch_tame' | with_reducible apply State.setRun_tame' | with_reducible apply State.copyDone_tame' | with_reducible apply State.copyBad_tame' | (with_reducible apply Tame.foldl; intro _ _ _) | split | exact Tame.same (Tame.refl _) rfl rfl | dsimp only)
theorem State.copyRead_tame' {s : State} {k : Nat} {g : Bool} {c : CopyCmd} {r : CopyRun} {s0 : State} (h0 : Tame s0 s) : Tame s0 (State.copyRead s k g c r) := h0.trans (State.copyRead_tame _ _ _ _ _)
theorem State.copyStart_tame (s : State) (k : Nat) (g : Bool) : Tame s (State.copyStart s k g) := by
  unfold State.copyStart
  repeat' (first | with_reducible exact Tame.refl _ | with_reducible assumption | with_reducible apply State.copyRead_tame' | (with_reducible apply Tame.foldl; intro _ _ _) | split | exact Tame.same (Tame.refl _) rfl rfl | dsimp only)
theorem State.copyStart_tame' {s : State} {k : Nat} {g : Bool} {s0 : State} (h0 : Tame s0 s) : Tame s0 (State.copyStart s k g) := h0.trans (State.copyStart_tame _ _ _)
theorem State.copyWrite_tame (s : State) (k : Nat) (g : Bool) (c : CopyCmd) (r : CopyRun) (src dst n : Nat) (data : List (Byte × Bool)) : Tame s (State.copyWrite s k g c r src dst n data) := by
  unfold State.copyWrite
  split
  · rename_i qs qt _
    have hb := State.copyBytes_tame (s.touch qt true) data (byteLocs qs)
    generalize (s.touch qt true).copyBytes data (byteLocs qs) = cb at hb
    obtain ⟨s1, bad⟩ := cb
    have h1 : Tame s s1 := (State.touch_tame ..).trans hb
    dsimp only
    exact Tame.ite (State.copyDone_tame' (State.watchEngine_tame' h1)) (State.setRun_tame' (State.watchEngine_tame' h1))
  · exact State.copyBad_tame ..
theorem State.copyWrite_tame' {s : State} {k : Nat} {g : Bool} {c : CopyCmd} {r : CopyRun} {src dst n : Nat} {data : List (Byte × Bool)} {s0 : State} (h0 : Tame s0 s) : Tame s0 (State.copyWrite s k g c r src dst n data) := h0.trans (State.copyWrite_tame _ _ _ _ _ _ _ _ _)
theorem State.copyMove_tame (s : State) (k : Nat) (g : Bool) (c : CopyCmd) (r : CopyRun) (src dst n : Nat) (psn : Bool) : Tame s (State.copyMove s k g c r src dst n psn) := by
  unfold State.copyMove
  repeat' (first | with_reducible exact Tame.refl _ | with_reducible assumption | with_reducible apply State.touch_tame' | with_reducible apply State.setRun_tame' | with_reducible apply State.copyAbort_tame' | with_reducible apply State.copyBad_tame' | with_reducible apply State.copyWrite_tame' | (with_reducible apply Tame.foldl; intro _ _ _) | split | exact Tame.same (Tame.refl _) rfl rfl | dsimp only)
theorem State.copyMove_tame' {s : State} {k : Nat} {g : Bool} {c : CopyCmd} {r : CopyRun} {src dst n : Nat} {psn : Bool} {s0 : State} (h0 : Tame s0 s) : Tame s0 (State.copyMove s k g c r src dst n psn) := h0.trans (State.copyMove_tame _ _ _ _ _ _ _ _ _)
theorem State.copyElement_tame (s : State) (k : Nat) (g : Bool) (c : CopyCmd) (r : CopyRun) (idx : Nat) (psn : Bool) : Tame s (State.copyElement s k g c r idx psn) := by
  unfold State.copyElement
  repeat' (first | with_reducible exact Tame.refl _ | with_reducible assumption | with_reducible apply State.copyAbort_tame' | with_reducible apply State.copyMove_tame' | (with_reducible apply Tame.foldl; intro _ _ _) | split | exact Tame.same (Tame.refl _) rfl rfl | dsimp only)
theorem State.copyElement_tame' {s : State} {k : Nat} {g : Bool} {c : CopyCmd} {r : CopyRun} {idx : Nat} {psn : Bool} {s0 : State} (h0 : Tame s0 s) : Tame s0 (State.copyElement s k g c r idx psn) := h0.trans (State.copyElement_tame _ _ _ _ _ _ _)
theorem State.copyNext_tame (s : State) (k : Nat) (g : Bool) : Tame s (State.copyNext s k g) := by
  unfold State.copyNext
  repeat' (first | with_reducible exact Tame.refl _ | with_reducible assumption | with_reducible apply State.touch_tame' | with_reducible apply State.setRun_tame' | with_reducible apply State.copyAbort_tame' | with_reducible apply State.copyBad_tame' | with_reducible apply State.copyRead_tame' | with_reducible apply State.copyMove_tame' | with_reducible apply State.copyElement_tame' | (with_reducible apply Tame.foldl; intro _ _ _) | split | exact Tame.same (Tame.refl _) rfl rfl | dsimp only)
theorem State.copyNext_tame' {s : State} {k : Nat} {g : Bool} {s0 : State} (h0 : Tame s0 s) : Tame s0 (State.copyNext s k g) := h0.trans (State.copyNext_tame _ _ _)
theorem State.copyComplete_tame (s : State) (k : Nat) (g : Bool) : Tame s (State.copyComplete s k g) := by
  unfold State.copyComplete
  repeat' (first | with_reducible exact Tame.refl _ | with_reducible assumption | with_reducible apply State.modCore_tame' | with_reducible apply State.postRec_tame' | with_reducible apply State.endDrain_tame' | (with_reducible apply Tame.foldl; intro _ _ _) | split | exact Tame.same (Tame.refl _) rfl rfl | dsimp only)
theorem State.copyComplete_tame' {s : State} {k : Nat} {g : Bool} {s0 : State} (h0 : Tame s0 s) : Tame s0 (State.copyComplete s k g) := h0.trans (State.copyComplete_tame _ _ _)
theorem State.modColl_tame (s : State) (k : Nat) (f : CollRun → CollRun) : Tame s (State.modColl s k f) := by
  unfold State.modColl
  repeat' (first | with_reducible exact Tame.refl _ | with_reducible assumption | with_reducible apply State.modCore_tame' | (with_reducible apply Tame.foldl; intro _ _ _) | split | exact Tame.same (Tame.refl _) rfl rfl | dsimp only)
theorem State.modColl_tame' {s : State} {k : Nat} {f : CollRun → CollRun} {s0 : State} (h0 : Tame s0 s) : Tame s0 (State.modColl s k f) := h0.trans (State.modColl_tame _ _ _)
theorem State.collAbort_tame (s : State) (e : CollEnv) (st addr : Nat) : Tame s (State.collAbort s e st addr) := by
  unfold State.collAbort
  repeat' (first | with_reducible exact Tame.refl _ | with_reducible assumption | with_reducible apply State.modColl_tame' | (with_reducible apply Tame.foldl; intro _ _ _) | split | exact Tame.same (Tame.refl _) rfl rfl | dsimp only)
theorem State.collAbort_tame' {s : State} {e : CollEnv} {st addr : Nat} {s0 : State} (h0 : Tame s0 s) : Tame s0 (State.collAbort s e st addr) := h0.trans (State.collAbort_tame _ _ _ _)
theorem State.collNext_tame (s : State) (k done : Nat) : Tame s (State.collNext s k done) := by
  unfold State.collNext
  repeat' (first | with_reducible exact Tame.refl _ | with_reducible assumption | with_reducible apply State.modColl_tame' | (with_reducible apply Tame.foldl; intro _ _ _) | split | exact Tame.same (Tame.refl _) rfl rfl | dsimp only)
theorem State.collNext_tame' {s : State} {k done : Nat} {s0 : State} (h0 : Tame s0 s) : Tame s0 (State.collNext s k done) := h0.trans (State.collNext_tame _ _ _)
theorem State.collRefused_tame (s : State) (e : CollEnv) (x : EngRes) : Tame s (State.collRefused s e x) := by
  unfold State.collRefused
  repeat' (first | with_reducible exact Tame.refl _ | with_reducible assumption | with_reducible apply State.bump_tame' | with_reducible apply State.modColl_tame' | with_reducible apply State.collAbort_tame' | (with_reducible apply Tame.foldl; intro _ _ _) | split | exact Tame.same (Tame.refl _) rfl rfl | dsimp only)
theorem State.collRefused_tame' {s : State} {e : CollEnv} {x : EngRes} {s0 : State} (h0 : Tame s0 s) : Tame s0 (State.collRefused s e x) := h0.trans (State.collRefused_tame _ _ _)
theorem State.collSend_tame (s : State) (e : CollEnv) : Tame s (State.collSend s e) := by
  unfold State.collSend
  repeat' (first | with_reducible exact Tame.refl _ | with_reducible assumption | with_reducible apply State.modHub_tame' | with_reducible apply State.touch_tame' | with_reducible apply State.modColl_tame' | with_reducible apply State.collNext_tame' | with_reducible apply State.collRefused_tame' | (with_reducible apply Tame.foldl; intro _ _ _) | split | exact Tame.same (Tame.refl _) rfl rfl | dsimp only)
theorem State.collSend_tame' {s : State} {e : CollEnv} {s0 : State} (h0 : Tame s0 s) : Tame s0 (State.collSend s e) := h0.trans (State.collSend_tame _ _)
theorem State.collIn_tame {s t : State} {e : CollEnv} {data : List Byte} {psn : List Nat} {p : Payload} (h : s.collIn e data psn = some (p, t)) : Tame s t := by
  unfold State.collIn at h
  split at h
  · split at h
    · exact absurd h (by simp)
    · simp only [Option.some.injEq, Prod.mk.injEq] at h
      rw [← h.2]
      exact .refl _
  · dsimp only at h
    split at h
    · exact absurd h (by simp)
    · simp only [Option.some.injEq, Prod.mk.injEq] at h
      rw [← h.2]
      exact State.modHub_tame ..

theorem State.collReceive_tame (s : State) (e : CollEnv) (data : List Byte) (psn : List Nat) (add : Bool) : Tame s (State.collReceive s e data psn add) := by
  unfold State.collReceive
  repeat' (first | with_reducible exact Tame.refl _ | (with_reducible exact State.collIn_tame ‹_›) | with_reducible assumption | with_reducible apply State.storeBytes_tame' | with_reducible apply State.wr_tame' | with_reducible apply State.addPoison_tame' | with_reducible apply State.touch_tame' | with_reducible apply State.modColl_tame' | with_reducible apply State.collNext_tame' | with_reducible apply State.collRefused_tame' | (with_reducible apply Tame.foldl; intro _ _ _) | split | exact Tame.same (Tame.refl _) rfl rfl | dsimp only)
theorem State.collReceive_tame' {s : State} {e : CollEnv} {data : List Byte} {psn : List Nat} {add : Bool} {s0 : State} (h0 : Tame s0 s) : Tame s0 (State.collReceive s e data psn add) := h0.trans (State.collReceive_tame _ _ _ _ _)
theorem State.collFlag_tame (s : State) (e : CollEnv) : Tame s (State.collFlag s e) := by
  unfold State.collFlag
  repeat' (first | with_reducible exact Tame.refl _ | with_reducible assumption | with_reducible apply State.pushIncr_tame' | with_reducible apply State.modColl_tame' | (with_reducible apply Tame.foldl; intro _ _ _) | split | exact Tame.same (Tame.refl _) rfl rfl | dsimp only)
theorem State.collFlag_tame' {s : State} {e : CollEnv} {s0 : State} (h0 : Tame s0 s) : Tame s0 (State.collFlag s e) := h0.trans (State.collFlag_tame _ _)
theorem State.collEntry_tame (s : State) (k : Nat) (op : Nat → Bool) (data : List Byte) (psn : List Nat) : Tame s (State.collEntry s k op data psn) := by
  unfold State.collEntry
  repeat' (first | with_reducible exact Tame.refl _ | with_reducible assumption | with_reducible apply State.collAbort_tame' | with_reducible apply State.collSend_tame' | with_reducible apply State.collReceive_tame' | with_reducible apply State.collFlag_tame' | (with_reducible apply Tame.foldl; intro _ _ _) | split | exact Tame.same (Tame.refl _) rfl rfl | dsimp only)
theorem State.collEntry_tame' {s : State} {k : Nat} {op : Nat → Bool} {data : List Byte} {psn : List Nat} {s0 : State} (h0 : Tame s0 s) : Tame s0 (State.collEntry s k op data psn) := h0.trans (State.collEntry_tame _ _ _ _ _)
theorem State.collStart_tame (s : State) (k : Nat) : Tame s (State.collStart s k) := by
  unfold State.collStart
  repeat' (first | with_reducible exact Tame.refl _ | with_reducible assumption | with_reducible apply State.modCore_tame' | (with_reducible apply Tame.foldl; intro _ _ _) | split | exact Tame.same (Tame.refl _) rfl rfl | dsimp only)
theorem State.collStart_tame' {s : State} {k : Nat} {s0 : State} (h0 : Tame s0 s) : Tame s0 (State.collStart s k) := h0.trans (State.collStart_tame _ _)
theorem State.collComplete_tame (s : State) (k : Nat) : Tame s (State.collComplete s k) := by
  unfold State.collComplete
  repeat' (first | with_reducible exact Tame.refl _ | with_reducible assumption | with_reducible apply State.modCore_tame' | with_reducible apply State.postRec_tame' | with_reducible apply State.endDrain_tame' | (with_reducible apply Tame.foldl; intro _ _ _) | split | exact Tame.same (Tame.refl _) rfl rfl | dsimp only)
theorem State.collComplete_tame' {s : State} {k : Nat} {s0 : State} (h0 : Tame s0 s) : Tame s0 (State.collComplete s k) := h0.trans (State.collComplete_tame _ _)
theorem State.matrixStart_tame (s : State) (k : Nat) : Tame s (State.matrixStart s k) := by
  unfold State.matrixStart
  repeat' (first | with_reducible exact Tame.refl _ | with_reducible assumption | with_reducible apply State.modCore_tame' | with_reducible apply State.settleStore_tame' | with_reducible apply State.modRun_tame' | with_reducible apply State.abortRun_tame' | (with_reducible apply Tame.foldl; intro _ _ _) | split | exact Tame.same (Tame.refl _) rfl rfl | dsimp only)
theorem State.matrixStart_tame' {s : State} {k : Nat} {s0 : State} (h0 : Tame s0 s) : Tame s0 (State.matrixStart s k) := h0.trans (State.matrixStart_tame _ _)
theorem State.matrixComplete_tame (s : State) (k : Nat) : Tame s (State.matrixComplete s k) := by
  unfold State.matrixComplete
  repeat' (first | with_reducible exact Tame.refl _ | with_reducible assumption | with_reducible apply State.modCore_tame' | with_reducible apply State.postRec_tame' | with_reducible apply State.endDrain_tame' | (with_reducible apply Tame.foldl; intro _ _ _) | split | exact Tame.same (Tame.refl _) rfl rfl | dsimp only)
theorem State.matrixComplete_tame' {s : State} {k : Nat} {s0 : State} (h0 : Tame s0 s) : Tame s0 (State.matrixComplete s k) := h0.trans (State.matrixComplete_tame _ _)
theorem State.engineStep_tame (s : State) (k : Nat) (e : Engine) : Tame s (State.engineStep s k e) := by
  unfold State.engineStep
  repeat' (first | with_reducible exact Tame.refl _ | with_reducible assumption | with_reducible apply State.runNext_tame' | with_reducible apply State.copyNext_tame' | with_reducible apply State.collEntry_tame' | (with_reducible apply Tame.foldl; intro _ _ _) | split | exact Tame.same (Tame.refl _) rfl rfl | dsimp only)
theorem State.engineStep_tame' {s : State} {k : Nat} {e : Engine} {s0 : State} (h0 : Tame s0 s) : Tame s0 (State.engineStep s k e) := h0.trans (State.engineStep_tame _ _ _)
theorem State.releaseHeld_tame (s : State) (c : Nat) (h : Held) : Tame s (State.releaseHeld s c h) := by
  unfold State.releaseHeld
  repeat' (first | with_reducible exact Tame.refl _ | with_reducible assumption | with_reducible apply State.modCtx_tame' | with_reducible apply State.alone_tame' | with_reducible apply State.enqueueCopy_tame' | with_reducible apply State.enterMcall_tame' | with_reducible apply State.sendReq_tame' | (with_reducible apply Tame.foldl; intro _ _ _) | split | exact Tame.same (Tame.refl _) rfl rfl | dsimp only)
theorem State.releaseHeld_tame' {s : State} {c : Nat} {h : Held} {s0 : State} (h0 : Tame s0 s) : Tame s0 (State.releaseHeld s c h) := h0.trans (State.releaseHeld_tame _ _ _)
theorem State.release_tame (s : State) (c : Nat) : Tame s (State.release s c) := by
  unfold State.release
  repeat' (first | with_reducible exact Tame.refl _ | with_reducible assumption | with_reducible apply State.modCtx_tame' | with_reducible apply State.kill_tame' | with_reducible apply State.releaseHeld_tame' | (with_reducible apply Tame.foldl; intro _ _ _) | split | exact Tame.same (Tame.refl _) rfl rfl | dsimp only)
theorem State.release_tame' {s : State} {c : Nat} {s0 : State} (h0 : Tame s0 s) : Tame s0 (State.release s c) := h0.trans (State.release_tame _ _)
theorem State.drop_tame (s : State) (c : Nat) (p : Pred) (d : Decision) : Tame s (State.drop s c p d) := by
  unfold State.drop
  repeat' (first | with_reducible exact Tame.refl _ | with_reducible assumption | with_reducible apply State.setCtx_tame' | (with_reducible apply Tame.foldl; intro _ _ _) | split | exact Tame.same (Tame.refl _) rfl rfl | dsimp only)
theorem State.drop_tame' {s : State} {c : Nat} {p : Pred} {d : Decision} {s0 : State} (h0 : Tame s0 s) : Tame s0 (State.drop s c p d) := h0.trans (State.drop_tame _ _ _ _)
theorem State.settlePreds_tame (s : State) (c : Nat) (a0 : Nat) : Tame s (State.settlePreds s c a0) := by
  induction a0 generalizing s with
  | zero => exact .refl _
  | succ n ih =>
    unfold State.settlePreds
    repeat' (first | with_reducible exact Tame.refl _ | exact (State.release_tame ..).trans (ih _) | with_reducible apply State.drop_tame' | split)
theorem State.settlePreds_tame' {s : State} {c : Nat} {a0 : Nat} {s0 : State} (h0 : Tame s0 s) : Tame s0 (State.settlePreds s c a0) := h0.trans (State.settlePreds_tame _ _ _)
theorem State.modGroup_tame (s : State) (key : Nat) (f : Group → Group) : Tame s (State.modGroup s key f) := by
  unfold State.modGroup
  repeat' (first | with_reducible exact Tame.refl _ | with_reducible assumption | with_reducible apply State.modHub_tame' | (with_reducible apply Tame.foldl; intro _ _ _) | split | exact Tame.same (Tame.refl _) rfl rfl | dsimp only)
theorem State.modGroup_tame' {s : State} {key : Nat} {f : Group → Group} {s0 : State} (h0 : Tame s0 s) : Tame s0 (State.modGroup s key f) := h0.trans (State.modGroup_tame _ _ _)
theorem State.tell_tame (s : State) (c : Contribution) (r : AgrRes) : Tame s (State.tell s c r) := by
  unfold State.tell
  repeat' (first | with_reducible exact Tame.refl _ | with_reducible assumption |  (with_reducible apply Tame.foldl; intro _ _ _) | split | exact Tame.same (Tame.refl _) rfl rfl | dsimp only)
theorem State.tell_tame' {s : State} {c : Contribution} {r : AgrRes} {s0 : State} (h0 : Tame s0 s) : Tame s0 (State.tell s c r) := h0.trans (State.tell_tame _ _ _)
theorem State.cutGroup_tame (s : State) (key : Nat) (g : Group) : Tame s (State.cutGroup s key g) := by
  unfold State.cutGroup
  repeat' (first | with_reducible exact Tame.refl _ | with_reducible assumption | with_reducible apply State.modGroup_tame' | with_reducible apply State.tell_tame' | (with_reducible apply Tame.foldl; intro _ _ _) | split | exact Tame.same (Tame.refl _) rfl rfl | dsimp only)
theorem State.cutGroup_tame' {s : State} {key : Nat} {g : Group} {s0 : State} (h0 : Tame s0 s) : Tame s0 (State.cutGroup s key g) := h0.trans (State.cutGroup_tame _ _ _)
theorem State.resolveInst_tame (s : State) (key : Nat) (g : Group) (i : Inst) : Tame s (State.resolveInst s key g i) := by
  unfold State.resolveInst
  extract_lets p gone ref mis status drop gen ok
  generalize combine g.op g.k p = vd
  obtain ⟨v, dec⟩ := vd
  dsimp -zeta only
  extract_lets r s1 s2 s3
  have h1 : Tame s s1 := State.modGroup_tame ..
  have h2 : Tame s s2 := Tame.ite (Tame.foldl (fun t m h => State.wr_tame' h) _ (State.wr_tame' h1)) h1
  have h3 : Tame s s3 := Tame.foldl (fun t c h => State.tell_tame' h) _ h2
  split
  · exact Tame.ite (State.cutGroup_tame' h3) h3
  · exact h3
theorem State.resolveInst_tame' {s : State} {key : Nat} {g : Group} {i : Inst} {s0 : State} (h0 : Tame s0 s) : Tame s0 (State.resolveInst s key g i) := h0.trans (State.resolveInst_tame _ _ _ _)
theorem State.settleGroup_tame (key : Nat) (a0 : Nat) (a1 : State) : Tame a1 (State.settleGroup key a0 a1) := by
  induction a0 generalizing a1 with
  | zero => exact .refl _
  | succ n ih =>
    unfold State.settleGroup
    split
    · exact .refl _
    · split
      · exact .refl _
      · exact (State.resolveInst_tame ..).trans (ih _)
theorem State.settleGroup_tame' {key : Nat} {a0 : Nat} {a1 : State} {s0 : State} (h0 : Tame s0 a1) : Tame s0 (State.settleGroup key a0 a1) := h0.trans (State.settleGroup_tame _ _ _)
theorem State.resolveFrom_tame (s : State) (key : Nat) (g : Group) (i : Inst) : Tame s (State.resolveFrom s key g i) := by
  unfold State.resolveFrom
  repeat' (first | with_reducible exact Tame.refl _ | with_reducible assumption | with_reducible apply State.resolveInst_tame' | with_reducible apply State.settleGroup_tame' | (with_reducible apply Tame.foldl; intro _ _ _) | split | exact Tame.same (Tame.refl _) rfl rfl | dsimp only)
theorem State.resolveFrom_tame' {s : State} {key : Nat} {g : Group} {i : Inst} {s0 : State} (h0 : Tame s0 s) : Tame s0 (State.resolveFrom s key g i) := h0.trans (State.resolveFrom_tame _ _ _ _)
theorem State.tryResolve_tame (s : State) (key seq : Nat) : Tame s (State.tryResolve s key seq) := by
  unfold State.tryResolve
  repeat' (first | with_reducible exact Tame.refl _ | with_reducible assumption | with_reducible apply State.resolveFrom_tame' | (with_reducible apply Tame.foldl; intro _ _ _) | split | exact Tame.same (Tame.refl _) rfl rfl | dsimp only)
theorem State.tryResolve_tame' {s : State} {key seq : Nat} {s0 : State} (h0 : Tame s0 s) : Tame s0 (State.tryResolve s key seq) := h0.trans (State.tryResolve_tame _ _ _)
theorem State.expire_tame (s : State) (key seq : Nat) : Tame s (State.expire s key seq) := by
  unfold State.expire
  repeat' (first | with_reducible exact Tame.refl _ | with_reducible assumption | with_reducible apply State.resolveFrom_tame' | (with_reducible apply Tame.foldl; intro _ _ _) | split | exact Tame.same (Tame.refl _) rfl rfl | dsimp only)
theorem State.expire_tame' {s : State} {key seq : Nat} {s0 : State} (h0 : Tame s0 s) : Tame s0 (State.expire s key seq) := h0.trans (State.expire_tame _ _ _)
theorem State.enterInst_tame (s : State) (c : Contribution) : Tame s (State.enterInst s c) := by
  unfold State.enterInst
  repeat' (first | with_reducible exact Tame.refl _ | with_reducible assumption | with_reducible apply State.modGroup_tame' | with_reducible apply State.tell_tame' | with_reducible apply State.tryResolve_tame' | (with_reducible apply Tame.foldl; intro _ _ _) | split | exact Tame.same (Tame.refl _) rfl rfl | dsimp only)
theorem State.enterInst_tame' {s : State} {c : Contribution} {s0 : State} (h0 : Tame s0 s) : Tame s0 (State.enterInst s c) := h0.trans (State.enterInst_tame _ _)
theorem State.contribute_tame (s : State) (c : Contribution) : Tame s (State.contribute s c) := by
  unfold State.contribute
  repeat' (first | with_reducible exact Tame.refl _ | with_reducible assumption | with_reducible apply State.expire_tame' | with_reducible apply State.enterInst_tame' | (with_reducible apply Tame.foldl; intro _ _ _) | split | exact Tame.same (Tame.refl _) rfl rfl | dsimp only)
theorem State.contribute_tame' {s : State} {c : Contribution} {s0 : State} (h0 : Tame s0 s) : Tame s0 (State.contribute s c) := h0.trans (State.contribute_tame _ _)
theorem State.groupLoss_tame (s : State) (root : Option Nat) (key : Nat) : Tame s (State.groupLoss s root key) := by
  unfold State.groupLoss
  repeat' (first | with_reducible exact Tame.refl _ | with_reducible assumption | with_reducible apply State.modGroup_tame' | with_reducible apply State.cutGroup_tame' | with_reducible apply State.tryResolve_tame' | (with_reducible apply Tame.foldl; intro _ _ _) | split | exact Tame.same (Tame.refl _) rfl rfl | dsimp only)
theorem State.groupLoss_tame' {s : State} {root : Option Nat} {key : Nat} {s0 : State} (h0 : Tame s0 s) : Tame s0 (State.groupLoss s root key) := h0.trans (State.groupLoss_tame _ _ _)
theorem State.groupsLoss_tame (s : State) (before : State) : Tame s (State.groupsLoss s before) := by
  unfold State.groupsLoss
  repeat' (first | with_reducible exact Tame.refl _ | with_reducible assumption | with_reducible apply State.groupLoss_tame' | (with_reducible apply Tame.foldl; intro _ _ _) | split | exact Tame.same (Tame.refl _) rfl rfl | dsimp only)
theorem State.groupsLoss_tame' {s : State} {before : State} {s0 : State} (h0 : Tame s0 s) : Tame s0 (State.groupsLoss s before) := h0.trans (State.groupsLoss_tame _ _)
theorem State.loseRemote_tame (s : State) (c : Nat) : Tame s (State.loseRemote s c) := by
  unfold State.loseRemote
  repeat' (first | with_reducible exact Tame.refl _ | with_reducible assumption | with_reducible apply State.remoteDone_tame' | (with_reducible apply Tame.foldl; intro _ _ _) | split | exact Tame.same (Tame.refl _) rfl rfl | dsimp only)
theorem State.loseRemote_tame' {s : State} {c : Nat} {s0 : State} (h0 : Tame s0 s) : Tame s0 (State.loseRemote s c) := h0.trans (State.loseRemote_tame _ _)
theorem State.toHs_tame (s : State) (t : TrapEntry) : Tame s (State.toHs s t) := by
  unfold State.toHs
  repeat' (first | with_reducible exact Tame.refl _ | with_reducible assumption | with_reducible apply State.modHub_tame' | (with_reducible apply Tame.foldl; intro _ _ _) | split | exact Tame.same (Tame.refl _) rfl rfl | dsimp only)
theorem State.toHs_tame' {s : State} {t : TrapEntry} {s0 : State} (h0 : Tame s0 s) : Tame s0 (State.toHs s t) := h0.trans (State.toHs_tame _ _)
theorem State.hsConsume_tame (s : State) (v : W64) : Tame s (State.hsConsume s v) := by
  unfold State.hsConsume
  repeat' (first | with_reducible exact Tame.refl _ | with_reducible assumption | with_reducible apply State.modHub_tame' | with_reducible apply State.drop_tame' | (with_reducible apply Tame.foldl; intro _ _ _) | split | exact Tame.same (Tame.refl _) rfl rfl | dsimp only)
theorem State.hsConsume_tame' {s : State} {v : W64} {s0 : State} (h0 : Tame s0 s) : Tame s0 (State.hsConsume s v) := h0.trans (State.hsConsume_tame _ _)
theorem State.wrDwords_tame (s : State) (l : Nat) (a0 : List Nat) : Tame s (State.wrDwords s l a0) := by
  induction a0 generalizing s l with
  | nil => exact .refl _
  | cons w r ih => exact (State.wr_tame ..).trans (ih ..)
theorem State.wrDwords_tame' {s : State} {l : Nat} {a0 : List Nat} {s0 : State} (h0 : Tame s0 s) : Tame s0 (State.wrDwords s l a0) := h0.trans (State.wrDwords_tame _ _ _)
theorem State.countErr_tame (s : State) (die i : Nat) : Tame s (State.countErr s die i) := by
  unfold State.countErr
  repeat' (first | with_reducible exact Tame.refl _ | with_reducible assumption | with_reducible apply State.modHub_tame' | (with_reducible apply Tame.foldl; intro _ _ _) | split | exact Tame.same (Tame.refl _) rfl rfl | dsimp only)
theorem State.countErr_tame' {s : State} {die i : Nat} {s0 : State} (h0 : Tame s0 s) : Tame s0 (State.countErr s die i) := h0.trans (State.countErr_tame _ _ _)
theorem State.countTier_tame (s : State) (loc : Nat) (bad : Bool) : Tame s (State.countTier s loc bad) := by
  unfold State.countTier
  repeat' (first | with_reducible exact Tame.refl _ | with_reducible assumption | with_reducible apply State.countErr_tame' | (with_reducible apply Tame.foldl; intro _ _ _) | split | exact Tame.same (Tame.refl _) rfl rfl | dsimp only)
theorem State.countTier_tame' {s : State} {loc : Nat} {bad : Bool} {s0 : State} (h0 : Tame s0 s) : Tame s0 (State.countTier s loc bad) := h0.trans (State.countTier_tame _ _ _)
theorem State.countEcc_tame (s : State) (k : Nat) : Tame s (State.countEcc s k) := by
  unfold State.countEcc
  repeat' (first | with_reducible exact Tame.refl _ | with_reducible assumption | with_reducible apply State.modCore_tame' | (with_reducible apply Tame.foldl; intro _ _ _) | split | exact Tame.same (Tame.refl _) rfl rfl | dsimp only)
theorem State.countEcc_tame' {s : State} {k : Nat} {s0 : State} (h0 : Tame s0 s) : Tame s0 (State.countEcc s k) := h0.trans (State.countEcc_tame _ _)
theorem State.zeroRange_tame (s : State) (l n : Nat) : Tame s (State.zeroRange s l n) := by
  exact ⟨rfl, fun h => State.zeroRange_wf h ..⟩
theorem State.zeroRange_tame' {s : State} {l n : Nat} {s0 : State} (h0 : Tame s0 s) : Tame s0 (State.zeroRange s l n) := h0.trans (State.zeroRange_tame _ _ _)
theorem State.wrFields_tame (s : State) (base : Nat) (fs : List Field) : Tame s (State.wrFields s base fs) := by
  unfold State.wrFields
  repeat' (first | with_reducible exact Tame.refl _ | with_reducible assumption | with_reducible apply State.wr_tame' | (with_reducible apply Tame.foldl; intro _ _ _) | split | exact Tame.same (Tame.refl _) rfl rfl | dsimp only)
theorem State.wrFields_tame' {s : State} {base : Nat} {fs : List Field} {s0 : State} (h0 : Tame s0 s) : Tame s0 (State.wrFields s base fs) := h0.trans (State.wrFields_tame _ _ _)
theorem State.copyRange_tame (s : State) (src dst n : Nat) : Tame s (State.copyRange s src dst n) := by
  exact ⟨by unfold State.copyRange; generalize s.mem.cells.filter _ = l; induction l generalizing s with
    | nil => rfl
    | cons p r ih => exact ih _, fun h => State.copyRange_wf h ..⟩
theorem State.copyRange_tame' {s : State} {src dst n : Nat} {s0 : State} (h0 : Tame s0 s) : Tame s0 (State.copyRange s src dst n) := h0.trans (State.copyRange_tame _ _ _ _)
theorem State.copyTile_tame (s : State) (src dst : Nat) : Tame s (State.copyTile s src dst) := by
  exact Tame.same (State.copyRange_tame s src dst 4096) rfl rfl
theorem State.copyTile_tame' {s : State} {src dst : Nat} {s0 : State} (h0 : Tame s0 s) : Tame s0 (State.copyTile s src dst) := h0.trans (State.copyTile_tame _ _ _)
theorem State.writeArea_tame (s : State) (c : Nat) (sv : SaveRef) : Tame s (State.writeArea s c sv) := by
  unfold State.writeArea
  repeat' (first | with_reducible exact Tame.refl _ | with_reducible assumption | with_reducible apply State.zeroRange_tame' | with_reducible apply State.wrFields_tame' | with_reducible apply State.copyTile_tame' | (with_reducible apply Tame.foldl; intro _ _ _) | split | exact Tame.same (Tame.refl _) rfl rfl | dsimp only)
theorem State.writeArea_tame' {s : State} {c : Nat} {sv : SaveRef} {s0 : State} (h0 : Tame s0 s) : Tame s0 (State.writeArea s c sv) := h0.trans (State.writeArea_tame _ _ _)
theorem State.giveBack_tame (s : State) (c : Nat) (sv : SaveRef) (v : Saved) : Tame s (State.giveBack s c sv v) := by
  unfold State.giveBack
  repeat' (first | with_reducible exact Tame.refl _ | with_reducible assumption | with_reducible apply State.modCore_tame' | with_reducible apply State.setSlot_tame' | with_reducible apply State.zeroRange_tame' | with_reducible apply State.copyTile_tame' | (with_reducible apply Tame.foldl; intro _ _ _) | split | exact Tame.same (Tame.refl _) rfl rfl | dsimp only)
theorem State.giveBack_tame' {s : State} {c : Nat} {sv : SaveRef} {v : Saved} {s0 : State} (h0 : Tame s0 s) : Tame s0 (State.giveBack s c sv v) := h0.trans (State.giveBack_tame _ _ _ _)
theorem State.postFault_tame (s : State) (cl ctx addr vf : Nat) : Tame s (State.postFault s cl ctx addr vf) := by
  unfold State.postFault
  repeat' (first | with_reducible exact Tame.refl _ | with_reducible assumption | with_reducible apply State.postRec_tame' | (with_reducible apply Tame.foldl; intro _ _ _) | split | exact Tame.same (Tame.refl _) rfl rfl | dsimp only)
theorem State.postFault_tame' {s : State} {cl ctx addr vf : Nat} {s0 : State} (h0 : Tame s0 s) : Tame s0 (State.postFault s cl ctx addr vf) := h0.trans (State.postFault_tame _ _ _ _ _)
theorem State.faultMalformed_tame (s : State) (cl ctx vf addr : Nat) : Tame s (State.faultMalformed s cl ctx vf addr) := by
  unfold State.faultMalformed
  repeat' (first | with_reducible exact Tame.refl _ | with_reducible assumption | with_reducible apply State.recFault_tame' | with_reducible apply State.postFault_tame' | (with_reducible apply Tame.foldl; intro _ _ _) | split | exact Tame.same (Tame.refl _) rfl rfl | dsimp only)
theorem State.faultMalformed_tame' {s : State} {cl ctx vf addr : Nat} {s0 : State} (h0 : Tame s0 s) : Tame s0 (State.faultMalformed s cl ctx vf addr) := h0.trans (State.faultMalformed_tame _ _ _ _ _)
theorem State.faultRecord_tame (s : State) (cl ctx vf addr cause : Nat) (posted : Bool) : Tame s (State.faultRecord s cl ctx vf addr cause posted) := by
  unfold State.faultRecord
  repeat' (first | with_reducible exact Tame.refl _ | with_reducible assumption | with_reducible apply State.countFault_tame' | with_reducible apply State.recFault_tame' | with_reducible apply State.postFault_tame' | (with_reducible apply Tame.foldl; intro _ _ _) | split | exact Tame.same (Tame.refl _) rfl rfl | dsimp only)
theorem State.faultRecord_tame' {s : State} {cl ctx vf addr cause : Nat} {posted : Bool} {s0 : State} (h0 : Tame s0 s) : Tame s0 (State.faultRecord s cl ctx vf addr cause posted) := h0.trans (State.faultRecord_tame _ _ _ _ _ _ _)
theorem State.teamsSeen_tame (s : State) (cl : Nat) : Tame s (State.teamsSeen s cl) := by
  unfold State.teamsSeen
  repeat' (first | with_reducible exact Tame.refl _ | with_reducible assumption | with_reducible apply State.seenAt_tame' | (with_reducible apply Tame.foldl; intro _ _ _) | split | exact Tame.same (Tame.refl _) rfl rfl | dsimp only)
theorem State.teamsSeen_tame' {s : State} {cl : Nat} {s0 : State} (h0 : Tame s0 s) : Tame s0 (State.teamsSeen s cl) := h0.trans (State.teamsSeen_tame _ _)
theorem State.grant_tame (s : State) (c vf : Nat) (is : List Nat) : Tame s (State.grant s c vf is) := by
  unfold State.grant
  repeat' (first | with_reducible exact Tame.refl _ | with_reducible assumption | with_reducible apply State.setSlot_tame' | with_reducible apply State.zeroRange_tame' | (with_reducible apply Tame.foldl; intro _ _ _) | split | exact Tame.same (Tame.refl _) rfl rfl | dsimp only)
theorem State.grant_tame' {s : State} {c vf : Nat} {is : List Nat} {s0 : State} (h0 : Tame s0 s) : Tame s0 (State.grant s c vf is) := h0.trans (State.grant_tame _ _ _ _)
theorem State.retarget_tame (s : State) (a b : Nat) : Tame s (State.retarget s a b) := by
  unfold State.retarget
  repeat' (first | with_reducible exact Tame.refl _ | with_reducible assumption |  (with_reducible apply Tame.foldl; intro _ _ _) | split | exact Tame.same (Tame.refl _) rfl rfl | dsimp only)
theorem State.retarget_tame' {s : State} {a b : Nat} {s0 : State} (h0 : Tame s0 s) : Tame s0 (State.retarget s a b) := h0.trans (State.retarget_tame _ _ _)
theorem State.pickOne_tame (s : State) (cl : Nat) (r : RecRef) (c : Nat) (leader : Option Nat) : Tame s (State.pickOne s cl r c leader) := by
  unfold State.pickOne
  dsimp only
  repeat' (first | with_reducible exact Tame.refl _ | with_reducible apply State.postFault_tame' | with_reducible apply State.faultMalformed_tame' |
    with_reducible apply State.recWrite_tame' | with_reducible apply State.grant_tame' | with_reducible apply State.setCtx_tame' |
    with_reducible apply State.modCluster_tame' | split)
  exact Tame.put (State.retarget_tame' (State.setCtx_tame' (State.giveBack_tame' (State.recWrite_tame' (State.modCluster_tame ..)))))
theorem State.pickOne_tame' {s : State} {cl : Nat} {r : RecRef} {c : Nat} {leader : Option Nat} {s0 : State} (h0 : Tame s0 s) : Tame s0 (State.pickOne s cl r c leader) := h0.trans (State.pickOne_tame _ _ _ _ _)
theorem State.waitSeen_tame (s : State) (vf : Nat) (w6 : W64) : Tame s (State.waitSeen s vf w6) := by
  unfold State.waitSeen
  repeat' (first | with_reducible exact Tame.refl _ | with_reducible assumption | with_reducible apply State.seenAt_tame' | (with_reducible apply Tame.foldl; intro _ _ _) | split | exact Tame.same (Tame.refl _) rfl rfl | dsimp only)
theorem State.waitSeen_tame' {s : State} {vf : Nat} {w6 : W64} {s0 : State} (h0 : Tame s0 s) : Tame s0 (State.waitSeen s vf w6) := h0.trans (State.waitSeen_tame _ _ _)
theorem State.inputsSeen_tame (s : State) (d : DepEntry) : Tame s (State.inputsSeen s d) := by
  unfold State.inputsSeen
  repeat' (first | with_reducible exact Tame.refl _ | with_reducible assumption | with_reducible apply State.seenAt_tame' | (with_reducible apply Tame.foldl; intro _ _ _) | split | exact Tame.same (Tame.refl _) rfl rfl | dsimp only)
theorem State.inputsSeen_tame' {s : State} {d : DepEntry} {s0 : State} (h0 : Tame s0 s) : Tame s0 (State.inputsSeen s d) := h0.trans (State.inputsSeen_tame _ _)
theorem State.scan_tame (s : State) (cl : Nat) : Tame s (State.scan s cl) := by
  unfold State.scan
  repeat' (first | with_reducible exact Tame.refl _ | with_reducible assumption | with_reducible apply State.modCluster_tame' | with_reducible apply State.inputsSeen_tame' | (with_reducible apply Tame.foldl; intro _ _ _) | split | exact Tame.same (Tame.refl _) rfl rfl | dsimp only)
theorem State.scan_tame' {s : State} {cl : Nat} {s0 : State} (h0 : Tame s0 s) : Tame s0 (State.scan s cl) := h0.trans (State.scan_tame _ _)
theorem State.setDep_tame (s : State) (cl e : Nat) (d : DepEntry) : Tame s (State.setDep s cl e d) := by
  unfold State.setDep
  repeat' (first | with_reducible exact Tame.refl _ | with_reducible assumption | with_reducible apply State.modCluster_tame' | (with_reducible apply Tame.foldl; intro _ _ _) | split | exact Tame.same (Tame.refl _) rfl rfl | dsimp only)
theorem State.setDep_tame' {s : State} {cl e : Nat} {d : DepEntry} {s0 : State} (h0 : Tame s0 s) : Tame s0 (State.setDep s cl e d) := h0.trans (State.setDep_tame _ _ _ _)
theorem State.takeIn_tame (s : State) (cl : Nat) (d : DepEntry) (i : Nat) : Tame s (State.takeIn s cl d i) := by
  unfold State.takeIn
  repeat' (first | with_reducible exact Tame.refl _ | with_reducible assumption | with_reducible apply State.modCluster_tame' | with_reducible apply State.recWrite_tame' | with_reducible apply State.seenAt_tame' | with_reducible apply State.postFault_tame' | with_reducible apply State.faultMalformed_tame' | (with_reducible apply Tame.foldl; intro _ _ _) | split | exact Tame.same (Tame.refl _) rfl rfl | dsimp only)
theorem State.takeIn_tame' {s : State} {cl : Nat} {d : DepEntry} {i : Nat} {s0 : State} (h0 : Tame s0 s) : Tame s0 (State.takeIn s cl d i) := h0.trans (State.takeIn_tame _ _ _ _)
theorem State.scanAll_tame (s : State) : Tame s (State.scanAll s) := by
  unfold State.scanAll
  repeat' (first | with_reducible exact Tame.refl _ | with_reducible assumption | with_reducible apply State.scan_tame' | (with_reducible apply Tame.foldl; intro _ _ _) | split | exact Tame.same (Tame.refl _) rfl rfl | dsimp only)
theorem State.scanAll_tame' {s : State} {s0 : State} (h0 : Tame s0 s) : Tame s0 (State.scanAll s) := h0.trans (State.scanAll_tame _)
theorem State.evictOne_tame (s : State) (c : Nat) (sv : SaveRef) : Tame s (State.evictOne s c sv) := by
  unfold State.evictOne
  exact State.vacate_tame' (State.modCluster_tame' (Tame.put (State.retarget_tame'
    (State.recWrite_tame' (State.recWrite_tame' (State.writeArea_tame ..))))))
theorem State.evictOne_tame' {s : State} {c : Nat} {sv : SaveRef} {s0 : State} (h0 : Tame s0 s) : Tame s0 (State.evictOne s c sv) := h0.trans (State.evictOne_tame _ _ _)
theorem State.modPart_tame (s : State) (p : Nat) (f : Part → Part) : Tame s (State.modPart s p f) := by
  unfold State.modPart
  repeat' (first | with_reducible exact Tame.refl _ | with_reducible assumption | with_reducible apply State.modHub_tame' | (with_reducible apply Tame.foldl; intro _ _ _) | split | exact Tame.same (Tame.refl _) rfl rfl | dsimp only)
theorem State.modPart_tame' {s : State} {p : Nat} {f : Part → Part} {s0 : State} (h0 : Tame s0 s) : Tame s0 (State.modPart s p f) := h0.trans (State.modPart_tame _ _ _)
theorem State.clearScratch_tame (s : State) (k : Nat) : Tame s (State.clearScratch s k) := by
  exact Tame.put (State.zeroRange_tame ..)
theorem State.clearScratch_tame' {s : State} {k : Nat} {s0 : State} (h0 : Tame s0 s) : Tame s0 (State.clearScratch s k) := h0.trans (State.clearScratch_tame _ _)
theorem State.applyDesc_tame (s : State) (d : Vector W64 8) : Tame s (State.applyDesc s d) := by
  unfold State.applyDesc
  repeat' (first | with_reducible exact Tame.refl _ | with_reducible assumption | with_reducible apply State.modCore_tame' | with_reducible apply State.clearScratch_tame' | (with_reducible apply Tame.foldl; intro _ _ _) | split | exact Tame.same (Tame.refl _) rfl rfl | dsimp only)
theorem State.applyDesc_tame' {s : State} {d : Vector W64 8} {s0 : State} (h0 : Tame s0 s) : Tame s0 (State.applyDesc s d) := h0.trans (State.applyDesc_tame _ _)
theorem State.modVf_tame (s : State) (vf : Nat) (f : VfSt → VfSt) : Tame s (State.modVf s vf f) := by
  unfold State.modVf
  repeat' (first | with_reducible exact Tame.refl _ | with_reducible assumption | with_reducible apply State.modHub_tame' | (with_reducible apply Tame.foldl; intro _ _ _) | split | exact Tame.same (Tame.refl _) rfl rfl | dsimp only)
theorem State.modVf_tame' {s : State} {vf : Nat} {f : VfSt → VfSt} {s0 : State} (h0 : Tame s0 s) : Tame s0 (State.modVf s vf f) := h0.trans (State.modVf_tame _ _ _)
theorem State.savePosition_tame (s : State) (p vf d : Nat) : Tame s (State.savePosition s p vf d) := by
  unfold State.savePosition
  repeat' (first | with_reducible exact Tame.refl _ | with_reducible assumption | with_reducible apply State.modCluster_tame' | with_reducible apply State.modVf_tame' | (with_reducible apply Tame.foldl; intro _ _ _) | split | exact Tame.same (Tame.refl _) rfl rfl | dsimp only)
theorem State.savePosition_tame' {s : State} {p vf d : Nat} {s0 : State} (h0 : Tame s0 s) : Tame s0 (State.savePosition s p vf d) := h0.trans (State.savePosition_tame _ _ _ _)
theorem State.restorePosition_tame (s : State) (vf d : Nat) : Tame s (State.restorePosition s vf d) := by
  unfold State.restorePosition
  repeat' (first | with_reducible exact Tame.refl _ | with_reducible assumption | with_reducible apply State.modCluster_tame' | with_reducible apply State.modVf_tame' | (with_reducible apply Tame.foldl; intro _ _ _) | split | exact Tame.same (Tame.refl _) rfl rfl | dsimp only)
theorem State.restorePosition_tame' {s : State} {vf d : Nat} {s0 : State} (h0 : Tame s0 s) : Tame s0 (State.restorePosition s vf d) := h0.trans (State.restorePosition_tame _ _ _)
theorem State.endFault_tame (s : State) (c cause : Nat) (post : Bool) : Tame s (State.endFault s c cause post) := by
  unfold State.endFault
  repeat' (first | with_reducible exact Tame.refl _ | with_reducible assumption | with_reducible apply State.countFault_tame' | with_reducible apply State.vacate_tame' | with_reducible apply State.recWrite_tame' | with_reducible apply State.postFault_tame' | (with_reducible apply Tame.foldl; intro _ _ _) | split | exact Tame.same (Tame.refl _) rfl rfl | dsimp only)
theorem State.endFault_tame' {s : State} {c cause : Nat} {post : Bool} {s0 : State} (h0 : Tame s0 s) : Tame s0 (State.endFault s c cause post) := h0.trans (State.endFault_tame _ _ _ _)
theorem State.endEvicted_tame (s : State) (cl : Nat) (r : RecRef) (cause : Nat) (post : Bool) : Tame s (State.endEvicted s cl r cause post) := by
  unfold State.endEvicted
  split
  · exact .refl _
  · refine Tame.put (State.modCluster_tame' ?_)
    split
    · exact State.postFault_tame' (State.countFault_tame' (State.recFault_tame ..))
    · exact State.countFault_tame' (State.recFault_tame ..)
theorem State.endEvicted_tame' {s : State} {cl : Nat} {r : RecRef} {cause : Nat} {post : Bool} {s0 : State} (h0 : Tame s0 s) : Tame s0 (State.endEvicted s cl r cause post) := h0.trans (State.endEvicted_tame _ _ _ _ _)
theorem State.completeCmd_tame (s : State) (st : Nat) : Tame s (State.completeCmd s st) := by
  unfold State.completeCmd
  repeat' (first | with_reducible exact Tame.refl _ | with_reducible assumption | with_reducible apply State.modHub_tame' | with_reducible apply State.wr_tame' | (with_reducible apply Tame.foldl; intro _ _ _) | split | exact Tame.same (Tame.refl _) rfl rfl | dsimp only)
theorem State.completeCmd_tame' {s : State} {st : Nat} {s0 : State} (h0 : Tame s0 s) : Tame s0 (State.completeCmd s st) := h0.trans (State.completeCmd_tame _ _)
theorem State.retireMap_tame (s : State) (k : Nat) : Tame s (State.retireMap s k) := by
  unfold State.retireMap
  repeat' (first | with_reducible exact Tame.refl _ | with_reducible assumption | with_reducible apply State.modCore_tame' | with_reducible apply State.modDie_tame' | with_reducible apply State.modHub_tame' | with_reducible apply State.endEvicted_tame' | (with_reducible apply Tame.foldl; intro _ _ _) | split | exact Tame.same (Tame.refl _) rfl rfl | dsimp only)
theorem State.retireMap_tame' {s : State} {k : Nat} {s0 : State} (h0 : Tame s0 s) : Tame s0 (State.retireMap s k) := h0.trans (State.retireMap_tame _ _)
theorem State.resetCore_tame (s : State) (k : Nat) : Tame s (State.resetCore s k) := by
  unfold State.resetCore
  repeat' (first | with_reducible exact Tame.refl _ | with_reducible assumption | with_reducible apply State.modCore_tame' | with_reducible apply State.clearScratch_tame' | (with_reducible apply Tame.foldl; intro _ _ _) | split | exact Tame.same (Tame.refl _) rfl rfl | dsimp only)
theorem State.resetCore_tame' {s : State} {k : Nat} {s0 : State} (h0 : Tame s0 s) : Tame s0 (State.resetCore s k) := h0.trans (State.resetCore_tame _ _)
theorem State.resetPartition_tame (s : State) (p : Nat) : Tame s (State.resetPartition s p) := by
  unfold State.resetPartition
  dsimp only
  refine State.groupsLoss_tame' ?_
  refine Tame.foldl (fun s b h => h.trans (State.completeCmd_tame' (State.retireMap_tame ..))) _ ?_
  refine State.modPart_tame' ?_
  refine Tame.foldl (fun s b h => h.trans (State.resetCore_tame ..)) _ ?_
  refine Tame.put ?_
  refine Tame.foldl (fun s b h => h.trans (State.dropLaunches_tame ..)) _ ?_
  refine Tame.foldl (fun s b h => h.trans (refillL_tame ..)) _ ?_
  refine Tame.put ?_
  refine Tame.foldl (fun s b h => h.trans (State.endEvicted_tame ..)) _ ?_
  exact Tame.foldl (fun s b h => h.trans (State.endFault_tame ..)) _ (.refl _)
theorem State.resetPartition_tame' {s : State} {p : Nat} {s0 : State} (h0 : Tame s0 s) : Tame s0 (State.resetPartition s p) := h0.trans (State.resetPartition_tame _ _)
theorem State.journalWrite_tame (s : State) (e : JEntry) : Tame s (State.journalWrite s e) := by
  unfold State.journalWrite
  repeat' (first | with_reducible exact Tame.refl _ | with_reducible assumption | with_reducible apply State.modHub_tame' | (with_reducible apply Tame.foldl; intro _ _ _) | split | exact Tame.same (Tame.refl _) rfl rfl | dsimp only)
theorem State.journalWrite_tame' {s : State} {e : JEntry} {s0 : State} (h0 : Tame s0 s) : Tame s0 (State.journalWrite s e) := h0.trans (State.journalWrite_tame _ _)
theorem refuse_tame (s : State) : Tame s ((refuse s).2) := by
  unfold refuse
  repeat' (first | with_reducible exact Tame.refl _ | with_reducible assumption |  (with_reducible apply Tame.foldl; intro _ _ _) | split | exact Tame.same (Tame.refl _) rfl rfl | dsimp only)
theorem refuse_tame' {s : State} {s0 : State} (h0 : Tame s0 s) : Tame s0 ((refuse s).2) := h0.trans (refuse_tame _)
theorem State.unpin_tame (s : State) (vf a n mask : Nat) : Tame s (State.unpin s vf a n mask) := by
  unfold State.unpin
  repeat' (first | with_reducible exact Tame.refl _ | with_reducible assumption |  (with_reducible apply Tame.foldl; intro _ _ _) | split | exact Tame.same (Tame.refl _) rfl rfl | dsimp only)
theorem State.unpin_tame' {s : State} {vf a n mask : Nat} {s0 : State} (h0 : Tame s0 s) : Tame s0 (State.unpin s vf a n mask) := h0.trans (State.unpin_tame _ _ _ _ _)
theorem State.absentAll_tame (s : State) (g : Group) : Tame s (State.absentAll s g) := by
  unfold State.absentAll
  dsimp only
  refine Tame.foldl (fun t c h => State.tell_tame' h) _ (Tame.put ?_)
  exact Tame.foldl (fun t i h => Tame.foldl (fun t c h => State.tell_tame' h) _ h) _ (.refl _)
theorem State.absentAll_tame' {s : State} {g : Group} {s0 : State} (h0 : Tame s0 s) : Tame s0 (State.absentAll s g) := h0.trans (State.absentAll_tame _ _)
theorem State.forgetGuest_tame (s : State) (vf : Nat) : Tame s (State.forgetGuest s vf) := by
  unfold State.forgetGuest
  repeat' (first | with_reducible exact Tame.refl _ | with_reducible assumption | with_reducible apply State.modHub_tame' | with_reducible apply State.journalWrite_tame' | (with_reducible apply Tame.foldl; intro _ _ _) | split | exact Tame.same (Tame.refl _) rfl rfl | dsimp only)
theorem State.forgetGuest_tame' {s : State} {vf : Nat} {s0 : State} (h0 : Tame s0 s) : Tame s0 (State.forgetGuest s vf) := h0.trans (State.forgetGuest_tame _ _)
theorem State.revokeTable_tame (s : State) (k : Nat) : Tame s (State.revokeTable s k) := by
  unfold State.revokeTable
  repeat' (first | with_reducible exact Tame.refl _ | with_reducible assumption | with_reducible apply State.modCore_tame' | (with_reducible apply Tame.foldl; intro _ _ _) | split | exact Tame.same (Tame.refl _) rfl rfl | dsimp only)
theorem State.revokeTable_tame' {s : State} {k : Nat} {s0 : State} (h0 : Tame s0 s) : Tame s0 (State.revokeTable s k) := h0.trans (State.revokeTable_tame _ _)
theorem State.proceed_tame (s : State) (p : Nat) : Tame s (State.proceed s p) := by
  unfold State.proceed
  repeat' (first | with_reducible exact Tame.refl _ | with_reducible assumption | with_reducible apply State.modCore_tame' | with_reducible apply State.modPart_tame' | with_reducible apply State.applyDesc_tame' | with_reducible apply State.revokeTable_tame' | (with_reducible apply Tame.foldl; intro _ _ _) | split | exact Tame.same (Tame.refl _) rfl rfl | dsimp only)
theorem State.proceed_tame' {s : State} {p : Nat} {s0 : State} (h0 : Tame s0 s) : Tame s0 (State.proceed s p) := h0.trans (State.proceed_tame _ _)
theorem State.abandon_tame (s : State) (p t : Nat) (q : Part) : Tame s (State.abandon s p t q) := by
  unfold State.abandon
  repeat' (first | with_reducible exact Tame.refl _ | with_reducible assumption | with_reducible apply State.modPart_tame' | with_reducible apply State.restorePosition_tame' | (with_reducible apply Tame.foldl; intro _ _ _) | split | exact Tame.same (Tame.refl _) rfl rfl | dsimp only)
theorem State.abandon_tame' {s : State} {p t : Nat} {q : Part} {s0 : State} (h0 : Tame s0 s) : Tame s0 (State.abandon s p t q) := h0.trans (State.abandon_tame _ _ _ _)
theorem State.flushRout_tame (s : State) (c : Nat) : Tame s (State.flushRout s c) := by
  unfold State.flushRout
  repeat' (first | with_reducible exact Tame.refl _ | with_reducible assumption | with_reducible apply State.modCtx_tame' | with_reducible apply State.alone_tame' | with_reducible apply State.sendEntry_tame' | (with_reducible apply Tame.foldl; intro _ _ _) | split | exact Tame.same (Tame.refl _) rfl rfl | dsimp only)
theorem State.flushRout_tame' {s : State} {c : Nat} {s0 : State} (h0 : Tame s0 s) : Tame s0 (State.flushRout s c) := h0.trans (State.flushRout_tame _ _)
theorem State.endOperator_tame (s : State) (p : Nat) (q : Part) : Tame s (State.endOperator s p q) := by
  unfold State.endOperator
  repeat' (first | with_reducible exact Tame.refl _ | with_reducible assumption | with_reducible apply State.serialise_tame' | with_reducible apply State.savePosition_tame' | with_reducible apply State.endFault_tame' | with_reducible apply State.endEvicted_tame' | with_reducible apply State.flushRout_tame' | (with_reducible apply Tame.foldl; intro _ _ _) | split | exact Tame.same (Tame.refl _) rfl rfl | dsimp only)
theorem State.endOperator_tame' {s : State} {p : Nat} {q : Part} {s0 : State} (h0 : Tame s0 s) : Tame s0 (State.endOperator s p q) := h0.trans (State.endOperator_tame _ _ _)
theorem State.setFree_tame (s : State) (p d : Nat) (is : List Nat) (free : Bool) : Tame s (State.setFree s p d is free) := by
  unfold State.setFree
  repeat' (first | with_reducible exact Tame.refl _ | with_reducible assumption | with_reducible apply State.wr_tame' | (with_reducible apply Tame.foldl; intro _ _ _) | split | exact Tame.same (Tame.refl _) rfl rfl | dsimp only)
theorem State.setFree_tame' {s : State} {p d : Nat} {is : List Nat} {free : Bool} {s0 : State} (h0 : Tame s0 s) : Tame s0 (State.setFree s p d is free) := h0.trans (State.setFree_tame _ _ _ _ _)
theorem State.noteSet_tame (s : State) (vf d : Nat) : Tame s (State.noteSet s vf d) := by
  have hw (t : State) (a : Nat) (b : Byte) : Tame t { t with mem := t.mem.write a b } := ⟨rfl, fun w => Memory.write_wf w _ _⟩
  unfold State.noteSet
  dsimp only
  apply Tame.foldl
  · intro t b h
    exact h.trans (hw ..)
  apply Tame.foldl
  · intro t b h
    exact h.trans (hw ..)
  exact State.zeroRange_tame ..
theorem State.noteSet_tame' {s : State} {vf d : Nat} {s0 : State} (h0 : Tame s0 s) : Tame s0 (State.noteSet s vf d) := h0.trans (State.noteSet_tame _ _ _)
theorem State.startMove_tame (s : State) (d : Nat) (m : Move) : Tame s (State.startMove s d m) := by
  unfold State.startMove
  repeat' (first | with_reducible exact Tame.refl _ | with_reducible assumption | with_reducible apply State.modDie_tame' | with_reducible apply State.wr_tame' | (with_reducible apply Tame.foldl; intro _ _ _) | split | exact Tame.same (Tame.refl _) rfl rfl | dsimp only)
theorem State.startMove_tame' {s : State} {d : Nat} {m : Move} {s0 : State} (h0 : Tame s0 s) : Tame s0 (State.startMove s d m) := h0.trans (State.startMove_tame _ _ _)
theorem State.bootDie_tame (s : State) (failed : List Nat) (d : Nat) : Tame s (State.bootDie s failed d) := by
  unfold State.bootDie
  repeat' (first | with_reducible exact Tame.refl _ | with_reducible assumption | with_reducible apply State.modCore_tame' | with_reducible apply State.modDie_tame' | (with_reducible apply Tame.foldl; intro _ _ _) | split | exact Tame.same (Tame.refl _) rfl rfl | dsimp only)
theorem State.bootDie_tame' {s : State} {failed : List Nat} {d : Nat} {s0 : State} (h0 : Tame s0 s) : Tame s0 (State.bootDie s failed d) := h0.trans (State.bootDie_tame _ _ _)
theorem State.startHarts_tame (s : State) (i : Image) : Tame s (State.startHarts s i) := by
  unfold State.startHarts
  repeat' (first | with_reducible exact Tame.refl _ | with_reducible assumption | with_reducible apply State.modHub_tame' | (with_reducible apply Tame.foldl; intro _ _ _) | split | exact Tame.same (Tame.refl _) rfl rfl | dsimp only)
theorem State.startHarts_tame' {s : State} {i : Image} {s0 : State} (h0 : Tame s0 s) : Tame s0 (State.startHarts s i) := h0.trans (State.startHarts_tame _ _)
theorem State.startSequencers_tame (s : State) (i : Image) : Tame s (State.startSequencers s i) := by
  unfold State.startSequencers
  repeat' (first | with_reducible exact Tame.refl _ | with_reducible assumption | with_reducible apply State.setCtx_tame' | with_reducible apply State.storeBytes_tame' | (with_reducible apply Tame.foldl; intro _ _ _) | split | exact Tame.same (Tame.refl _) rfl rfl | dsimp only)
theorem State.startSequencers_tame' {s : State} {i : Image} {s0 : State} (h0 : Tame s0 s) : Tame s0 (State.startSequencers s i) := h0.trans (State.startSequencers_tame _ _)
theorem State.startCores_tame (s : State) : Tame s (State.startCores s) := by
  unfold State.startCores
  repeat' (first | with_reducible exact Tame.refl _ | with_reducible assumption | with_reducible apply State.modCore_tame' | (with_reducible apply Tame.foldl; intro _ _ _) | split | exact Tame.same (Tame.refl _) rfl rfl | dsimp only)
theorem State.startCores_tame' {s : State} {s0 : State} (h0 : Tame s0 s) : Tame s0 (State.startCores s) := h0.trans (State.startCores_tame _)
theorem State.takeHeld_tame (s : State) (f : Nat → Bool) : Tame s (State.takeHeld s f) := by
  unfold State.takeHeld
  repeat' (first | with_reducible exact Tame.refl _ | with_reducible assumption | with_reducible apply State.modHub_tame' | with_reducible apply State.respond_tame' | (with_reducible apply Tame.foldl; intro _ _ _) | split | exact Tame.same (Tame.refl _) rfl rfl | dsimp only)
theorem State.takeHeld_tame' {s : State} {f : Nat → Bool} {s0 : State} (h0 : Tame s0 s) : Tame s0 (State.takeHeld s f) := h0.trans (State.takeHeld_tame _ _)
theorem State.debugWrite_tame (s : State) (o : Nat) (v : W64) : Tame s (State.debugWrite s o v) := by
  unfold State.debugWrite
  repeat' (first | with_reducible exact Tame.refl _ | with_reducible assumption | with_reducible apply State.modHub_tame' | (with_reducible apply Tame.foldl; intro _ _ _) | split | exact Tame.same (Tame.refl _) rfl rfl | dsimp only)
theorem State.debugWrite_tame' {s : State} {o : Nat} {v : W64} {s0 : State} (h0 : Tame s0 s) : Tame s0 (State.debugWrite s o v) := h0.trans (State.debugWrite_tame _ _ _)
theorem State.writeMember_tame (s : State) (v : W64) : Tame s (State.writeMember s v) := by
  unfold State.writeMember
  repeat' (first | with_reducible exact Tame.refl _ | with_reducible assumption | with_reducible apply State.modHub_tame' | (with_reducible apply Tame.foldl; intro _ _ _) | split | exact Tame.same (Tame.refl _) rfl rfl | dsimp only)
theorem State.writeMember_tame' {s : State} {v : W64} {s0 : State} (h0 : Tame s0 s) : Tame s0 (State.writeMember s v) := h0.trans (State.writeMember_tame _ _)
theorem State.writeFar_tame (s : State) (o : Nat) (v : W64) : Tame s (State.writeFar s o v) := by
  unfold State.writeFar
  repeat' (first | with_reducible exact Tame.refl _ | with_reducible assumption | with_reducible apply State.modHub_tame' | (with_reducible apply Tame.foldl; intro _ _ _) | split | exact Tame.same (Tame.refl _) rfl rfl | dsimp only)
theorem State.writeFar_tame' {s : State} {o : Nat} {v : W64} {s0 : State} (h0 : Tame s0 s) : Tame s0 (State.writeFar s o v) := h0.trans (State.writeFar_tame _ _ _)
theorem State.hsDecides_tame (s : State) (e : JEntry) : Tame s (State.hsDecides s e) := by
  unfold State.hsDecides
  repeat' (first | with_reducible exact Tame.refl _ | with_reducible assumption | with_reducible apply State.modHub_tame' | with_reducible apply State.journalWrite_tame' | (with_reducible apply Tame.foldl; intro _ _ _) | split | exact Tame.same (Tame.refl _) rfl rfl | dsimp only)
theorem State.hsDecides_tame' {s : State} {e : JEntry} {s0 : State} (h0 : Tame s0 s) : Tame s0 (State.hsDecides s e) := h0.trans (State.hsDecides_tame _ _)
theorem State.writeHs_tame (s : State) (o : Nat) (v : W64) : Tame s (State.writeHs s o v) := by
  unfold State.writeHs
  repeat' (first | with_reducible exact Tame.refl _ | with_reducible assumption | with_reducible apply State.modHub_tame' | with_reducible apply State.hsDecides_tame' | (with_reducible apply Tame.foldl; intro _ _ _) | split | exact Tame.same (Tame.refl _) rfl rfl | dsimp only)
theorem State.writeHs_tame' {s : State} {o : Nat} {v : W64} {s0 : State} (h0 : Tame s0 s) : Tame s0 (State.writeHs s o v) := h0.trans (State.writeHs_tame _ _ _)
theorem State.runGuest_tame (s : State) (h : Nat) (vf : Option Nat) : Tame s (State.runGuest s h vf) := by
  unfold State.runGuest
  repeat' (first | with_reducible exact Tame.refl _ | with_reducible assumption | with_reducible apply State.modHub_tame' | (with_reducible apply Tame.foldl; intro _ _ _) | split | exact Tame.same (Tame.refl _) rfl rfl | dsimp only)
theorem State.runGuest_tame' {s : State} {h : Nat} {vf : Option Nat} {s0 : State} (h0 : Tame s0 s) : Tame s0 (State.runGuest s h vf) := h0.trans (State.runGuest_tame _ _ _)
theorem State.writeHart_tame (s : State) (h o : Nat) (v : W64) : Tame s (State.writeHart s h o v) := by
  unfold State.writeHart
  repeat' (first | with_reducible exact Tame.refl _ | with_reducible assumption | with_reducible apply State.modHub_tame' | with_reducible apply State.runGuest_tame' | (with_reducible apply Tame.foldl; intro _ _ _) | split | exact Tame.same (Tame.refl _) rfl rfl | dsimp only)
theorem State.writeHart_tame' {s : State} {h o : Nat} {v : W64} {s0 : State} (h0 : Tame s0 s) : Tame s0 (State.writeHart s h o v) := h0.trans (State.writeHart_tame _ _ _ _)
theorem State.writeGuest_tame (s : State) (f a : Nat) (v : W64) : Tame s (State.writeGuest s f a v) := by
  unfold State.writeGuest
  repeat' (first | with_reducible exact Tame.refl _ | with_reducible assumption | with_reducible apply State.modHub_tame' | (with_reducible apply Tame.foldl; intro _ _ _) | split | exact Tame.same (Tame.refl _) rfl rfl | dsimp only)
theorem State.writeGuest_tame' {s : State} {f a : Nat} {v : W64} {s0 : State} (h0 : Tame s0 s) : Tame s0 (State.writeGuest s f a v) := h0.trans (State.writeGuest_tame _ _ _ _)
theorem State.writePi_tame (s : State) (v : W64) : Tame s (State.writePi s v) := by
  unfold State.writePi
  repeat' (first | with_reducible exact Tame.refl _ | with_reducible assumption | with_reducible apply State.modHub_tame' | with_reducible apply State.wr_tame' | (with_reducible apply Tame.foldl; intro _ _ _) | split | exact Tame.same (Tame.refl _) rfl rfl | dsimp only)
theorem State.writePi_tame' {s : State} {v : W64} {s0 : State} (h0 : Tame s0 s) : Tame s0 (State.writePi s v) := h0.trans (State.writePi_tame _ _)
theorem State.writeResp_tame (s : State) (f : Nat) (v : W64) : Tame s (State.writeResp s f v) := by
  unfold State.writeResp
  repeat' (first | with_reducible exact Tame.refl _ | with_reducible assumption | with_reducible apply State.modHub_tame' | with_reducible apply State.respond_tame' | (with_reducible apply Tame.foldl; intro _ _ _) | split | exact Tame.same (Tame.refl _) rfl rfl | dsimp only)
theorem State.writeResp_tame' {s : State} {f : Nat} {v : W64} {s0 : State} (h0 : Tame s0 s) : Tame s0 (State.writeResp s f v) := h0.trans (State.writeResp_tame _ _ _)
theorem State.sampleCore_tame (s : State) (k : Nat) : Tame s (State.sampleCore s k) := by
  unfold State.sampleCore
  repeat' (first | with_reducible exact Tame.refl _ | with_reducible assumption | with_reducible apply State.traceAs_tame' | (with_reducible apply Tame.foldl; intro _ _ _) | split | exact Tame.same (Tame.refl _) rfl rfl | dsimp only)
theorem State.sampleCore_tame' {s : State} {k : Nat} {s0 : State} (h0 : Tame s0 s) : Tame s0 (State.sampleCore s k) := h0.trans (State.sampleCore_tame _ _)
theorem State.advance_tame (s : State) : Tame s (State.advance s) := by
  exact Tame.put (.refl _)
theorem State.advance_tame' {s : State} {s0 : State} (h0 : Tame s0 s) : Tame s0 (State.advance s) := h0.trans (State.advance_tame _)
theorem State.tick_tame (s : State) : Tame s (State.tick s) := by
  exact (State.chargeAll_tame s).trans (State.scanAll_tame' (.refl _) |>.trans (State.advance_tame _))
theorem State.tick_tame' {s : State} {s0 : State} (h0 : Tame s0 s) : Tame s0 (State.tick s) := h0.trans (State.tick_tame _)

end Sys2Proof.Machine
end

