-- ==== Sys2Proof/Laws/Events.lean ====
section
/-! SUPPORT. Every event goes on, with the agenda as it was and memory in canonical form. -/

namespace Sys2Proof.Machine

/-! ### Events -/

/-- An outcome that goes on, with the agenda as it was and memory in canonical form. -/
def Runs (s : State) (o : Host.Outcome State Fault Refusal) : Prop := ∃ t, o = .next t ∧ Tame s t

theorem runCmd_tame {op : Nat} {f : Vector W64 8 → State → Option Nat × State} {s : State} (hf : ∀ w t, Tame t (f w t).2) :
    Tame s (runCmd op f s) := by
  unfold runCmd
  split
  · dsimp only
    split
    · exact .refl _
    · split
      · exact .refl _
      · split
        · exact State.completeCmd_tame' (State.journalWrite_tame ..)
        · rename_i w _ _ _ _ _
          have h := hf w (s.journalWrite (.cmd w))
          split <;> rename_i heq <;> rw [heq] at h
          · exact State.completeCmd_tame' ((State.journalWrite_tame ..).trans h)
          · exact State.modHub_tame' ((State.journalWrite_tame ..).trans h)
  · exact .refl _

theorem Runs.of {s t : State} (h : Tame s t) : Runs s (.next t) := ⟨t, rfl, h⟩

theorem execFixedResultLand_runs (c : Nat) (s : State) : Runs s (execFixedResultLand c s) := by
  unfold execFixedResultLand
  refine Runs.of ?_
  repeat' (first | with_reducible exact Tame.refl _ | with_reducible assumption | (with_reducible apply runCmd_tame; intro _ _) | with_reducible apply State.landCtx_tame' | (with_reducible apply Tame.foldl; intro _ _ _) | split | exact Tame.same (Tame.refl _) rfl rfl | dsimp only)
theorem execVariableResultLand_runs (c seq : Nat) (s : State) : Runs s (execVariableResultLand c seq s) := by
  unfold execVariableResultLand
  refine Runs.of ?_
  repeat' (first | with_reducible exact Tame.refl _ | with_reducible assumption | (with_reducible apply runCmd_tame; intro _ _) | with_reducible apply State.modCtx_tame' | with_reducible apply State.landCtx_tame' | with_reducible apply State.moveF_tame' | (with_reducible apply Tame.foldl; intro _ _ _) | split | exact Tame.same (Tame.refl _) rfl rfl | dsimp only)
theorem execNexttReply_runs (c i : Nat) (s : State) : Runs s (execNexttReply c i s) := by
  unfold execNexttReply
  refine Runs.of ?_
  repeat' (first | with_reducible exact Tame.refl _ | with_reducible assumption | (with_reducible apply runCmd_tame; intro _ _) | with_reducible apply State.deliver_tame' | (with_reducible apply Tame.foldl; intro _ _ _) | split | exact Tame.same (Tame.refl _) rfl rfl | dsimp only)
theorem execPerformLocal_runs (c : Nat) (s : State) : Runs s (execPerformLocal c s) := by
  unfold execPerformLocal
  refine Runs.of ?_
  repeat' (first | with_reducible exact Tame.refl _ | with_reducible assumption | (with_reducible apply runCmd_tame; intro _ _) | with_reducible apply State.performHead_tame' | (with_reducible apply Tame.foldl; intro _ _ _) | split | exact Tame.same (Tame.refl _) rfl rfl | dsimp only)
theorem execSendRemote_runs (c i : Nat) (s : State) : Runs s (execSendRemote c i s) := by
  unfold execSendRemote
  refine Runs.of ?_
  repeat' (first | with_reducible exact Tame.refl _ | with_reducible assumption | (with_reducible apply runCmd_tame; intro _ _) | with_reducible apply State.sendEntry_tame' | (with_reducible apply Tame.foldl; intro _ _ _) | split | exact Tame.same (Tame.refl _) rfl rfl | dsimp only)
theorem execFlag_runs (p : FlagAt) (s : State) : Runs s (execFlag p s) := by
  unfold execFlag
  refine Runs.of ?_
  repeat' (first | with_reducible exact Tame.refl _ | with_reducible assumption | (with_reducible apply runCmd_tame; intro _ _) | with_reducible apply State.modDie_tame' | with_reducible apply State.wr_tame' | with_reducible apply State.touch_tame' | with_reducible apply State.flagDone_tame' | (with_reducible apply Tame.foldl; intro _ _ _) | split | exact Tame.same (Tame.refl _) rfl rfl | dsimp only)
theorem execCompleteRemote_runs (c i : Nat) (s : State) : Runs s (execCompleteRemote c i s) := by
  unfold execCompleteRemote
  refine Runs.of ?_
  repeat' (first | with_reducible exact Tame.refl _ | with_reducible assumption | (with_reducible apply runCmd_tame; intro _ _) | with_reducible apply State.modCtx_tame' | with_reducible apply State.deliver_tame' | (with_reducible apply Tame.foldl; intro _ _ _) | split | exact Tame.same (Tame.refl _) rfl rfl | dsimp only)
theorem execEngineStart_runs (k : Nat) (e : Engine) (s : State) : Runs s (execEngineStart k e s) := by
  unfold execEngineStart
  refine Runs.of ?_
  repeat' (first | with_reducible exact Tame.refl _ | with_reducible assumption | (with_reducible apply runCmd_tame; intro _ _) | with_reducible apply State.copyStart_tame' | with_reducible apply State.collStart_tame' | with_reducible apply State.matrixStart_tame' | (with_reducible apply Tame.foldl; intro _ _ _) | split | exact Tame.same (Tame.refl _) rfl rfl | dsimp only)
theorem execEngineAccess_runs (k : Nat) (e : Engine) (s : State) : Runs s (execEngineAccess k e s) := by
  unfold execEngineAccess
  refine Runs.of ?_
  repeat' (first | with_reducible exact Tame.refl _ | with_reducible assumption | (with_reducible apply runCmd_tame; intro _ _) | with_reducible apply State.engineStep_tame' | (with_reducible apply Tame.foldl; intro _ _ _) | split | exact Tame.same (Tame.refl _) rfl rfl | dsimp only)
theorem execEngineComplete_runs (k : Nat) (e : Engine) (s : State) : Runs s (execEngineComplete k e s) := by
  unfold execEngineComplete
  refine Runs.of ?_
  repeat' (first | with_reducible exact Tame.refl _ | with_reducible assumption | (with_reducible apply runCmd_tame; intro _ _) | with_reducible apply State.copyComplete_tame' | with_reducible apply State.collComplete_tame' | with_reducible apply State.matrixComplete_tame' | (with_reducible apply Tame.foldl; intro _ _ _) | split | exact Tame.same (Tame.refl _) rfl rfl | dsimp only)
theorem execRetryAfterExpiry_runs (k : Nat) (e : Engine) (s : State) : Runs s (execRetryAfterExpiry k e s) := by
  unfold execRetryAfterExpiry
  refine Runs.of ?_
  repeat' (first | with_reducible exact Tame.refl _ | with_reducible assumption | (with_reducible apply runCmd_tame; intro _ _) | with_reducible apply State.engineStep_tame' | (with_reducible apply Tame.foldl; intro _ _ _) | split | exact Tame.same (Tame.refl _) rfl rfl | dsimp only)
theorem execCollSend_runs (k : Nat) (s : State) : Runs s (execCollSend k s) := by
  unfold execCollSend
  refine Runs.of ?_
  repeat' (first | with_reducible exact Tame.refl _ | with_reducible assumption | (with_reducible apply runCmd_tame; intro _ _) | with_reducible apply State.collEntry_tame' | (with_reducible apply Tame.foldl; intro _ _ _) | split | exact Tame.same (Tame.refl _) rfl rfl | dsimp only)
theorem execCollRadd_runs (k : Nat) (data : PortData) (s : State) : Runs s (execCollRadd k data s) := by
  unfold execCollRadd
  refine Runs.of ?_
  repeat' (first | with_reducible exact Tame.refl _ | with_reducible assumption | (with_reducible apply runCmd_tame; intro _ _) | with_reducible apply State.collEntry_tame' | (with_reducible apply Tame.foldl; intro _ _ _) | split | exact Tame.same (Tame.refl _) rfl rfl | dsimp only)
theorem execCollRstore_runs (k : Nat) (data : PortData) (s : State) : Runs s (execCollRstore k data s) := by
  unfold execCollRstore
  refine Runs.of ?_
  repeat' (first | with_reducible exact Tame.refl _ | with_reducible assumption | (with_reducible apply runCmd_tame; intro _ _) | with_reducible apply State.collEntry_tame' | (with_reducible apply Tame.foldl; intro _ _ _) | split | exact Tame.same (Tame.refl _) rfl rfl | dsimp only)
theorem execCollFlag_runs (k : Nat) (s : State) : Runs s (execCollFlag k s) := by
  unfold execCollFlag
  refine Runs.of ?_
  repeat' (first | with_reducible exact Tame.refl _ | with_reducible assumption | (with_reducible apply runCmd_tame; intro _ _) | with_reducible apply State.collEntry_tame' | (with_reducible apply Tame.foldl; intro _ _ _) | split | exact Tame.same (Tame.refl _) rfl rfl | dsimp only)
theorem execAgreeResultArrival_runs (i : Nat) (s : State) : Runs s (execAgreeResultArrival i s) := by
  unfold execAgreeResultArrival
  refine Runs.of ?_
  repeat' (first | with_reducible exact Tame.refl _ | with_reducible assumption | (with_reducible apply runCmd_tame; intro _ _) | with_reducible apply State.modCtx_tame' | with_reducible apply State.settlePreds_tame' | (with_reducible apply Tame.foldl; intro _ _ _) | split | exact Tame.same (Tame.refl _) rfl rfl | dsimp only)
theorem execAgreeContributionArrival_runs (i : Nat) (outside : Option Contribution) (s : State) : Runs s (execAgreeContributionArrival i outside s) := by
  unfold execAgreeContributionArrival
  refine Runs.of ?_
  repeat' (first | with_reducible exact Tame.refl _ | with_reducible assumption | (with_reducible apply runCmd_tame; intro _ _) | with_reducible apply State.contribute_tame' | (with_reducible apply Tame.foldl; intro _ _ _) | split | exact Tame.same (Tame.refl _) rfl rfl | dsimp only)
theorem execAgreeLateExpiry_runs (vf gid seq : Nat) (s : State) : Runs s (execAgreeLateExpiry vf gid seq s) := by
  unfold execAgreeLateExpiry
  refine Runs.of ?_
  repeat' (first | with_reducible exact Tame.refl _ | with_reducible assumption | (with_reducible apply runCmd_tame; intro _ _) | with_reducible apply State.expire_tame' | (with_reducible apply Tame.foldl; intro _ _ _) | split | exact Tame.same (Tame.refl _) rfl rfl | dsimp only)
theorem execLinkLoss_runs (pkg : Nat) (s : State) : Runs s (execLinkLoss pkg s) := by
  unfold execLinkLoss
  refine Runs.of ?_
  repeat' (first | with_reducible exact Tame.refl _ | with_reducible assumption | (with_reducible apply runCmd_tame; intro _ _) | with_reducible apply State.modHub_tame' | with_reducible apply State.groupsLoss_tame' | with_reducible apply State.loseRemote_tame' | (with_reducible apply Tame.foldl; intro _ _ _) | split | exact Tame.same (Tame.refl _) rfl rfl | dsimp only)
theorem execStopFreeze_runs (c : Nat) (s : State) : Runs s (execStopFreeze c s) := by
  unfold execStopFreeze
  refine Runs.of ?_
  repeat' (first | with_reducible exact Tame.refl _ | with_reducible assumption | (with_reducible apply runCmd_tame; intro _ _) | with_reducible apply State.modCtx_tame' | with_reducible apply State.landCtx_tame' | with_reducible apply State.traceRec_tame' | with_reducible apply State.sendTrap_tame' | with_reducible apply Env.fixed_tame' | (with_reducible apply Tame.foldl; intro _ _ _) | split | exact Tame.same (Tame.refl _) rfl rfl | dsimp only)
theorem execTrapEntryDelivery_runs (s : State) : Runs s (execTrapEntryDelivery s) := by
  unfold execTrapEntryDelivery
  refine Runs.of ?_
  repeat' (first | with_reducible exact Tame.refl _ | with_reducible assumption | (with_reducible apply runCmd_tame; intro _ _) | with_reducible apply State.modHub_tame' | with_reducible apply State.toHs_tame' | with_reducible apply State.wrDwords_tame' | (with_reducible apply Tame.foldl; intro _ _ _) | split | exact Tame.same (Tame.refl _) rfl rfl | dsimp only)
theorem execTrespResume_runs (rec vf : Nat) (s : State) : Runs s (execTrespResume rec vf s) := by
  unfold execTrespResume
  refine Runs.of ?_
  repeat' (first | with_reducible exact Tame.refl _ | with_reducible assumption | (with_reducible apply runCmd_tame; intro _ _) | with_reducible apply State.respond_tame' | (with_reducible apply Tame.foldl; intro _ _ _) | split | exact Tame.same (Tame.refl _) rfl rfl | dsimp only)
theorem execTrespKill_runs (rec vf : Nat) (s : State) : Runs s (execTrespKill rec vf s) := by
  unfold execTrespKill
  refine Runs.of ?_
  repeat' (first | with_reducible exact Tame.refl _ | with_reducible assumption | (with_reducible apply runCmd_tame; intro _ _) | with_reducible apply State.respond_tame' | (with_reducible apply Tame.foldl; intro _ _ _) | split | exact Tame.same (Tame.refl _) rfl rfl | dsimp only)
theorem execTrespEvict_runs (rec vf : Nat) (s : State) : Runs s (execTrespEvict rec vf s) := by
  unfold execTrespEvict
  refine Runs.of ?_
  repeat' (first | with_reducible exact Tame.refl _ | with_reducible assumption | (with_reducible apply runCmd_tame; intro _ _) | with_reducible apply State.respond_tame' | (with_reducible apply Tame.foldl; intro _ _ _) | split | exact Tame.same (Tame.refl _) rfl rfl | dsimp only)
theorem execWatchReportArrival_runs (c : Nat) (s : State) : Runs s (execWatchReportArrival c s) := by
  unfold execWatchReportArrival
  refine Runs.of ?_
  repeat' (first | with_reducible exact Tame.refl _ | with_reducible assumption | (with_reducible apply runCmd_tame; intro _ _) | with_reducible apply State.modCtx_tame' | (with_reducible apply Tame.foldl; intro _ _ _) | split | exact Tame.same (Tame.refl _) rfl rfl | dsimp only)
theorem execRemoteFaultReport_runs (c : Nat) (s : State) : Runs s (execRemoteFaultReport c s) := by
  unfold execRemoteFaultReport
  refine Runs.of ?_
  repeat' (first | with_reducible exact Tame.refl _ | with_reducible assumption | (with_reducible apply runCmd_tame; intro _ _) | with_reducible apply State.modCtx_tame' | with_reducible apply State.kill_tame' | (with_reducible apply Tame.foldl; intro _ _ _) | split | exact Tame.same (Tame.refl _) rfl rfl | dsimp only)
theorem execEccCorrectedError_runs (site : EccSite) (s : State) : Runs s (execEccCorrectedError site s) := by
  unfold execEccCorrectedError
  refine Runs.of ?_
  repeat' (first | with_reducible exact Tame.refl _ | with_reducible assumption | (with_reducible apply runCmd_tame; intro _ _) | with_reducible apply State.countErr_tame' | with_reducible apply State.countTier_tame' | with_reducible apply State.countEcc_tame' | (with_reducible apply Tame.foldl; intro _ _ _) | split | exact Tame.same (Tame.refl _) rfl rfl | dsimp only)
theorem execPickUp_runs (c : Nat) (s : State) : Runs s (execPickUp c s) := by
  unfold execPickUp
  refine Runs.of ?_
  repeat' (first | with_reducible exact Tame.refl _ | with_reducible assumption | (with_reducible apply runCmd_tame; intro _ _) | with_reducible apply State.teamsSeen_tame' | with_reducible apply State.pickOne_tame' | (with_reducible apply Tame.foldl; intro _ _ _) | split | exact Tame.same (Tame.refl _) rfl rfl | dsimp only)
theorem execPickUpLoadComplete_runs (c : Nat) (s : State) : Runs s (execPickUpLoadComplete c s) := by
  unfold execPickUpLoadComplete
  refine Runs.of ?_
  repeat' (first | with_reducible exact Tame.refl _ | with_reducible assumption | (with_reducible apply runCmd_tame; intro _ _) | with_reducible apply State.modCtx_tame' | with_reducible apply State.preempt_tame' | with_reducible apply State.resumeAll_tame' | with_reducible apply State.settlePreds_tame' | (with_reducible apply Tame.foldl; intro _ _ _) | split | exact Tame.same (Tame.refl _) rfl rfl | dsimp only)
theorem execWaitConditionMet_runs (cl i : Nat) (s : State) : Runs s (execWaitConditionMet cl i s) := by
  unfold execWaitConditionMet
  refine Runs.of ?_
  repeat' (first | with_reducible exact Tame.refl _ | with_reducible assumption | (with_reducible apply runCmd_tame; intro _ _) | with_reducible apply State.modCluster_tame' | with_reducible apply State.recWrite_tame' | with_reducible apply State.seenAt_tame' | with_reducible apply State.drop_tame' | with_reducible apply State.faultMalformed_tame' | with_reducible apply State.faultRecord_tame' | with_reducible apply State.waitSeen_tame' | (with_reducible apply Tame.foldl; intro _ _ _) | split | exact Tame.same (Tame.refl _) rfl rfl | dsimp only)
theorem execLaunchRequestArrival_runs (cl : Nat) (s : State) : Runs s (execLaunchRequestArrival cl s) := by
  unfold execLaunchRequestArrival
  refine Runs.of ?_
  repeat' (first | with_reducible exact Tame.refl _ | with_reducible assumption | (with_reducible apply runCmd_tame; intro _ _) | with_reducible apply State.modCluster_tame' | with_reducible apply State.deliver_tame' | with_reducible apply State.postRec_tame' | with_reducible apply State.seenAt_tame' | (with_reducible apply Tame.foldl; intro _ _ _) | split | exact Tame.same (Tame.refl _) rfl rfl | dsimp only)
theorem execAdmission_runs (cl e i : Nat) (s : State) : Runs s (execAdmission cl e i s) := by
  unfold execAdmission
  refine Runs.of ?_
  repeat' (first | with_reducible exact Tame.refl _ | with_reducible assumption | (with_reducible apply runCmd_tame; intro _ _) | with_reducible apply State.scan_tame' | with_reducible apply State.setDep_tame' | with_reducible apply State.takeIn_tame' | (with_reducible apply Tame.foldl; intro _ _ _) | split | exact Tame.same (Tame.refl _) rfl rfl | dsimp only)
theorem execPriorityPreemption_runs (cl : Nat) (s : State) : Runs s (execPriorityPreemption cl s) := by
  unfold execPriorityPreemption
  refine Runs.of ?_
  repeat' (first | with_reducible exact Tame.refl _ | with_reducible assumption | (with_reducible apply runCmd_tame; intro _ _) | with_reducible apply State.preemptTeam_tame' | (with_reducible apply Tame.foldl; intro _ _ _) | split | exact Tame.same (Tame.refl _) rfl rfl | dsimp only)
theorem execTeamQuantumExpiry_runs (c : Nat) (s : State) : Runs s (execTeamQuantumExpiry c s) := by
  unfold execTeamQuantumExpiry
  refine Runs.of ?_
  repeat' (first | with_reducible exact Tame.refl _ | with_reducible assumption | (with_reducible apply runCmd_tame; intro _ _) | with_reducible apply State.modCtx_tame' | with_reducible apply State.preemptTeam_tame' | (with_reducible apply Tame.foldl; intro _ _ _) | split | exact Tame.same (Tame.refl _) rfl rfl | dsimp only)
theorem execTeamPromotion_runs (cl i : Nat) (s : State) : Runs s (execTeamPromotion cl i s) := by
  unfold execTeamPromotion
  refine Runs.of ?_
  repeat' (first | with_reducible exact Tame.refl _ | with_reducible assumption | (with_reducible apply runCmd_tame; intro _ _) | with_reducible apply State.modCluster_tame' | (with_reducible apply Tame.foldl; intro _ _ _) | split | exact Tame.same (Tame.refl _) rfl rfl | dsimp only)
theorem evictAll_tame {l : List Nat} {s t : State} (h : evictAll l s = some t) : Tame s t := by
  induction l generalizing s with
  | nil => simp only [evictAll, Option.some.injEq] at h; exact h ▸ .refl _
  | cons c r ih =>
    unfold evictAll at h
    dsimp only at h
    split at h
    · exact absurd h (by simp)
    · exact (State.evictOne_tame ..).trans (ih h)
theorem execEviction_runs (c : Nat) (s : State) : Runs s (execEviction c s) := by
  unfold execEviction
  refine Runs.of ?_
  dsimp only
  split
  · have h0 : Tame s ((s.mates c).foldl (fun (t : State) m => t.modCtx m fun x => x.landAllNextt s.now) s) :=
      Tame.foldl (fun s b h => State.modCtx_tame' h) _ (.refl _)
    split
    · exact h0.trans (evictAll_tame ‹_›)
    · split
      · exact .refl _
      · exact Tame.foldl (fun s b h => State.modCtx_tame' h) _ (State.resumeAll_tame ..)
  · exact .refl _
theorem execContextSwitch_runs (k : Nat) (s : State) : Runs s (execContextSwitch k s) := by
  unfold execContextSwitch
  refine Runs.of ?_
  repeat' (first | with_reducible exact Tame.refl _ | with_reducible assumption | (with_reducible apply runCmd_tame; intro _ _) | with_reducible apply State.modCore_tame' | (with_reducible apply Tame.foldl; intro _ _ _) | split | exact Tame.same (Tame.refl _) rfl rfl | dsimp only)
theorem execWfeDeadline_runs (c : Nat) (s : State) : Runs s (execWfeDeadline c s) := by
  unfold execWfeDeadline
  refine Runs.of ?_
  repeat' (first | with_reducible exact Tame.refl _ | with_reducible assumption | (with_reducible apply runCmd_tame; intro _ _) | with_reducible apply State.modCtx_tame' | (with_reducible apply Tame.foldl; intro _ _ _) | split | exact Tame.same (Tame.refl _) rfl rfl | dsimp only)
theorem execEccUncorrectableError_runs (site : EccSite) (s : State) : Runs s (execEccUncorrectableError site s) := by
  unfold execEccUncorrectableError
  refine Runs.of ?_
  repeat' (first | with_reducible exact Tame.refl _ | with_reducible assumption | (with_reducible apply runCmd_tame; intro _ _) | with_reducible apply State.modCtx_tame' | with_reducible apply State.modCore_tame' | with_reducible apply State.bump_tame' | with_reducible apply State.addPoison_tame' | with_reducible apply State.countErr_tame' | with_reducible apply State.countTier_tame' | with_reducible apply State.resetPartition_tame' | (with_reducible apply Tame.foldl; intro _ _ _) | split | exact Tame.same (Tame.refl _) rfl rfl | dsimp only)
theorem execOperatorBoundarySave_runs (p d : Nat) (s : State) : Runs s (execOperatorBoundarySave p d s) := by
  unfold execOperatorBoundarySave
  refine Runs.of ?_
  repeat' (first | with_reducible exact Tame.refl _ | with_reducible assumption | (with_reducible apply runCmd_tame; intro _ _) | with_reducible apply State.modPart_tame' | with_reducible apply State.savePosition_tame' | with_reducible apply State.proceed_tame' | with_reducible apply State.tick_tame' | (with_reducible apply Tame.foldl; intro _ _ _) | split | exact Tame.same (Tame.refl _) rfl rfl | dsimp only)
theorem execSaveDeadlineExpiry_runs (p : Nat) (s : State) : Runs s (execSaveDeadlineExpiry p s) := by
  unfold execSaveDeadlineExpiry
  refine Runs.of ?_
  repeat' (first | with_reducible exact Tame.refl _ | with_reducible assumption | (with_reducible apply runCmd_tame; intro _ _) | with_reducible apply State.modPart_tame' | with_reducible apply State.proceed_tame' | with_reducible apply State.abandon_tame' | with_reducible apply State.endOperator_tame' | with_reducible apply State.tick_tame' | (with_reducible apply Tame.foldl; intro _ _ _) | split | exact Tame.same (Tame.refl _) rfl rfl | dsimp only)
theorem execSwitchTick_runs (p : Nat) (s : State) : Runs s (execSwitchTick p s) := by
  unfold execSwitchTick
  refine Runs.of ?_
  repeat' (first | with_reducible exact Tame.refl _ | with_reducible assumption | (with_reducible apply runCmd_tame; intro _ _) | with_reducible apply State.modPart_tame' | with_reducible apply State.noteSet_tame' | with_reducible apply State.tick_tame' | (with_reducible apply Tame.foldl; intro _ _ _) | split | exact Tame.same (Tame.refl _) rfl rfl | dsimp only)
theorem execTierSwap_runs (p d : Nat) (s : State) : Runs s (execTierSwap p d s) := by
  unfold execTierSwap
  refine Runs.of ?_
  repeat' (first | with_reducible exact Tame.refl _ | with_reducible assumption | (with_reducible apply runCmd_tame; intro _ _) | with_reducible apply State.modPart_tame' | with_reducible apply State.setFree_tame' | with_reducible apply State.noteSet_tame' | with_reducible apply State.startMove_tame' | (with_reducible apply Tame.foldl; intro _ _ _) | split | exact Tame.same (Tame.refl _) rfl rfl | dsimp only)
theorem execPageMoveComplete_runs (d : Nat) (s : State) : Runs s (execPageMoveComplete d s) := by
  unfold execPageMoveComplete
  refine Runs.of ?_
  split
  · exact .refl _
  · dsimp only
    split
    · refine State.modDie_tame' (Tame.put (State.wr_tame' ?_))
      split
      · exact Tame.put (State.copyRange_tame' (State.zeroRange_tame' (State.modDie_tame ..)))
      · exact State.modDie_tame ..
    · refine State.setFree_tame' (State.modDie_tame' (Tame.put (State.wr_tame' ?_)))
      split
      · exact Tame.put (State.copyRange_tame' (State.zeroRange_tame' (State.modDie_tame ..)))
      · exact State.modDie_tame ..
theorem execResidencyGateOpen_runs (p d : Nat) (s : State) : Runs s (execResidencyGateOpen p d s) := by
  unfold execResidencyGateOpen
  refine Runs.of ?_
  repeat' (first | with_reducible exact Tame.refl _ | with_reducible assumption | (with_reducible apply runCmd_tame; intro _ _) | with_reducible apply State.modPart_tame' | with_reducible apply State.restorePosition_tame' | with_reducible apply State.completeCmd_tame' | (with_reducible apply Tame.foldl; intro _ _ _) | split | exact Tame.same (Tame.refl _) rfl rfl | dsimp only)
theorem execPartSet_runs (s : State) : Runs s (execPartSet s) := by
  unfold execPartSet
  refine Runs.of ?_
  repeat' (first | with_reducible exact Tame.refl _ | with_reducible assumption | (with_reducible apply runCmd_tame; intro _ _) | with_reducible apply State.modHub_tame' | with_reducible apply State.modPart_tame' | with_reducible apply State.applyDesc_tame' | with_reducible apply runCmd_tame' | with_reducible apply refuse_tame' | (with_reducible apply Tame.foldl; intro _ _ _) | split | exact Tame.same (Tame.refl _) rfl rfl | dsimp only)
theorem execVfSet_runs (s : State) : Runs s (execVfSet s) := by
  unfold execVfSet
  refine Runs.of ?_
  repeat' (first | with_reducible exact Tame.refl _ | with_reducible assumption | (with_reducible apply runCmd_tame; intro _ _) | with_reducible apply State.modHub_tame' | with_reducible apply runCmd_tame' | with_reducible apply refuse_tame' | (with_reducible apply Tame.foldl; intro _ _ _) | split | exact Tame.same (Tame.refl _) rfl rfl | dsimp only)
theorem execInval_runs (s : State) : Runs s (execInval s) := by
  unfold execInval
  refine Runs.of ?_
  repeat' (first | with_reducible exact Tame.refl _ | with_reducible assumption | (with_reducible apply runCmd_tame; intro _ _) | with_reducible apply State.modHub_tame' | with_reducible apply State.completeCmd_tame' | with_reducible apply runCmd_tame' | with_reducible apply State.unpin_tame' | (with_reducible apply Tame.foldl; intro _ _ _) | split | exact Tame.same (Tame.refl _) rfl rfl | dsimp only)
theorem execGroupSet_runs (s : State) : Runs s (execGroupSet s) := by
  unfold execGroupSet
  refine Runs.of ?_
  repeat' (first | with_reducible exact Tame.refl _ | with_reducible assumption | (with_reducible apply runCmd_tame; intro _ _) | with_reducible apply State.modHub_tame' | with_reducible apply State.wr_tame' | with_reducible apply runCmd_tame' | with_reducible apply refuse_tame' | with_reducible apply State.absentAll_tame' | (with_reducible apply Tame.foldl; intro _ _ _) | split | exact Tame.same (Tame.refl _) rfl rfl | dsimp only)
theorem execGroupDel_runs (s : State) : Runs s (execGroupDel s) := by
  unfold execGroupDel
  refine Runs.of ?_
  repeat' (first | with_reducible exact Tame.refl _ | with_reducible assumption | (with_reducible apply runCmd_tame; intro _ _) | with_reducible apply State.modHub_tame' | with_reducible apply runCmd_tame' | with_reducible apply refuse_tame' | with_reducible apply State.absentAll_tame' | (with_reducible apply Tame.foldl; intro _ _ _) | split | exact Tame.same (Tame.refl _) rfl rfl | dsimp only)
theorem execSchedSet_runs (s : State) : Runs s (execSchedSet s) := by
  unfold execSchedSet
  refine Runs.of ?_
  repeat' (first | with_reducible exact Tame.refl _ | with_reducible assumption | (with_reducible apply runCmd_tame; intro _ _) | with_reducible apply State.modHub_tame' | with_reducible apply runCmd_tame' | with_reducible apply refuse_tame' | (with_reducible apply Tame.foldl; intro _ _ _) | split | exact Tame.same (Tame.refl _) rfl rfl | dsimp only)
theorem execQueueSet_runs (s : State) : Runs s (execQueueSet s) := by
  unfold execQueueSet
  refine Runs.of (runCmd_tame fun w t => ?_)
  dsimp only
  generalize (arg w 1) = a
  split
  · exact refuse_tame ..
  · split <;> exact State.modHub_tame ..
theorem execSwitch_runs (s : State) : Runs s (execSwitch s) := by
  unfold execSwitch
  refine Runs.of ?_
  repeat' (first | with_reducible exact Tame.refl _ | with_reducible assumption | (with_reducible apply runCmd_tame; intro _ _) | with_reducible apply State.modPart_tame' | with_reducible apply runCmd_tame' | with_reducible apply refuse_tame' | (with_reducible apply Tame.foldl; intro _ _ _) | split | exact Tame.same (Tame.refl _) rfl rfl | dsimp only)
theorem execPartReset_runs (s : State) : Runs s (execPartReset s) := by
  unfold execPartReset
  refine Runs.of ?_
  repeat' (first | with_reducible exact Tame.refl _ | with_reducible assumption | (with_reducible apply runCmd_tame; intro _ _) | with_reducible apply State.resetPartition_tame' | with_reducible apply runCmd_tame' | with_reducible apply refuse_tame' | (with_reducible apply Tame.foldl; intro _ _ _) | split | exact Tame.same (Tame.refl _) rfl rfl | dsimp only)
theorem execReadmit_runs (s : State) : Runs s (execReadmit s) := by
  unfold execReadmit
  refine Runs.of ?_
  repeat' (first | with_reducible exact Tame.refl _ | with_reducible assumption | (with_reducible apply runCmd_tame; intro _ _) | with_reducible apply State.modPart_tame' | with_reducible apply runCmd_tame' | with_reducible apply refuse_tame' | (with_reducible apply Tame.foldl; intro _ _ _) | split | exact Tame.same (Tame.refl _) rfl rfl | dsimp only)
theorem execCoreRetire_runs (s : State) : Runs s (execCoreRetire s) := by
  unfold execCoreRetire
  refine Runs.of ?_
  repeat' (first | with_reducible exact Tame.refl _ | with_reducible assumption | (with_reducible apply runCmd_tame; intro _ _) | with_reducible apply State.modCore_tame' | with_reducible apply runCmd_tame' | with_reducible apply refuse_tame' | (with_reducible apply Tame.foldl; intro _ _ _) | split | exact Tame.same (Tame.refl _) rfl rfl | dsimp only)
theorem execCoreRetireMapping_runs (s : State) : Runs s (execCoreRetireMapping s) := by
  unfold execCoreRetireMapping
  refine Runs.of ?_
  repeat' (first | with_reducible exact Tame.refl _ | with_reducible assumption | (with_reducible apply runCmd_tame; intro _ _) | with_reducible apply State.completeCmd_tame' | with_reducible apply State.retireMap_tame' | (with_reducible apply Tame.foldl; intro _ _ _) | split | exact Tame.same (Tame.refl _) rfl rfl | dsimp only)
theorem execMigrateOut_runs (s : State) : Runs s (execMigrateOut s) := by
  unfold execMigrateOut
  refine Runs.of ?_
  repeat' (first | with_reducible exact Tame.refl _ | with_reducible assumption | (with_reducible apply runCmd_tame; intro _ _) | with_reducible apply State.modHub_tame' | with_reducible apply State.bump_tame' | with_reducible apply State.zeroRange_tame' | with_reducible apply State.completeCmd_tame' | with_reducible apply runCmd_tame' | with_reducible apply State.forgetGuest_tame' | (with_reducible apply Tame.foldl; intro _ _ _) | split | exact Tame.same (Tame.refl _) rfl rfl | dsimp only)
theorem execMigrateIn_runs (s : State) : Runs s (execMigrateIn s) := by
  unfold execMigrateIn
  refine Runs.of ?_
  repeat' (first | with_reducible exact Tame.refl _ | with_reducible assumption | (with_reducible apply runCmd_tame; intro _ _) | with_reducible apply State.modHub_tame' | with_reducible apply State.storeBytes_tame' | with_reducible apply runCmd_tame' | with_reducible apply State.forgetGuest_tame' | (with_reducible apply Tame.foldl; intro _ _ _) | split | exact Tame.same (Tame.refl _) rfl rfl | dsimp only)
theorem State.powerUp_tame (s : State) (failed : List Nat) : Tame s (s.powerUp failed) := by
  have h (t : State) : Tame t ([0, 1, 2, 3].foldl (fun (s : State) d => s.bootDie failed d) t) := Tame.foldl (fun u d h => State.bootDie_tame' h) _ (.refl _)
  exact ⟨(h _).1, fun _ => (h _).2 rfl⟩
theorem execPowerOn_runs (failed : List Nat) (images : List (Option Nat × Image)) (s : State) : Runs s (execPowerOn failed images s) := by
  unfold execPowerOn
  refine Runs.of ?_
  have hb := s.powerUp_tame failed
  split
  · exact State.startSequencers_tame' (State.startCores_tame' (State.modHub_tame' (State.startHarts_tame' hb)))
  · exact State.modHub_tame' hb
  · exact hb
theorem execHeartbeat_runs (h : Nat) (s : State) : Runs s (execHeartbeat h s) := by
  unfold execHeartbeat
  refine Runs.of ?_
  repeat' (first | with_reducible exact Tame.refl _ | with_reducible assumption | (with_reducible apply runCmd_tame; intro _ _) | with_reducible apply State.modHub_tame' | (with_reducible apply Tame.foldl; intro _ _ _) | split | exact Tame.same (Tame.refl _) rfl rfl | dsimp only)
theorem execHeartbeatTimeout_runs (h : Nat) (s : State) : Runs s (execHeartbeatTimeout h s) := by
  unfold execHeartbeatTimeout
  refine Runs.of ?_
  repeat' (first | with_reducible exact Tame.refl _ | with_reducible assumption | (with_reducible apply runCmd_tame; intro _ _) | with_reducible apply State.modHub_tame' | (with_reducible apply Tame.foldl; intro _ _ _) | split | exact Tame.same (Tame.refl _) rfl rfl | dsimp only)
theorem execHartRebuildComplete_runs (h : Nat) (s : State) : Runs s (execHartRebuildComplete h s) := by
  unfold execHartRebuildComplete
  refine Runs.of ?_
  repeat' (first | with_reducible exact Tame.refl _ | with_reducible assumption | (with_reducible apply runCmd_tame; intro _ _) | with_reducible apply State.modHub_tame' | with_reducible apply State.takeHeld_tame' | (with_reducible apply Tame.foldl; intro _ _ _) | split | exact Tame.same (Tame.refl _) rfl rfl | dsimp only)
theorem execSupDown_runs (s : State) : Runs s (execSupDown s) := by
  unfold execSupDown
  refine Runs.of ?_
  repeat' (first | with_reducible exact Tame.refl _ | with_reducible assumption | (with_reducible apply runCmd_tame; intro _ _) | with_reducible apply State.modHub_tame' | (with_reducible apply Tame.foldl; intro _ _ _) | split | exact Tame.same (Tame.refl _) rfl rfl | dsimp only)
theorem execSupervisorRestart_runs (images : List (Option Nat × Image)) (s : State) : Runs s (execSupervisorRestart images s) := by
  unfold execSupervisorRestart
  refine Runs.of ?_
  repeat' (first | with_reducible exact Tame.refl _ | with_reducible assumption | (with_reducible apply runCmd_tame; intro _ _) | with_reducible apply State.modHub_tame' | with_reducible apply State.startHarts_tame' | with_reducible apply State.takeHeld_tame' | (with_reducible apply Tame.foldl; intro _ _ _) | split | exact Tame.same (Tame.refl _) rfl rfl | dsimp only)
theorem execQueueNotify_runs (n : BitVec 192) (s : State) : Runs s (execQueueNotify n s) := by
  unfold execQueueNotify
  refine Runs.of ?_
  repeat' (first | with_reducible exact Tame.refl _ | with_reducible assumption | (with_reducible apply runCmd_tame; intro _ _) | with_reducible apply State.modHub_tame' | (with_reducible apply Tame.foldl; intro _ _ _) | split | exact Tame.same (Tame.refl _) rfl rfl | dsimp only)
theorem execWorkQueueRecordWrite_runs (qid ofs : Nat) (data : List Byte) (s : State) : Runs s (execWorkQueueRecordWrite qid ofs data s) := by
  unfold execWorkQueueRecordWrite
  refine Runs.of ?_
  repeat' (first | with_reducible exact Tame.refl _ | with_reducible assumption | (with_reducible apply runCmd_tame; intro _ _) | with_reducible apply State.storeBytes_tame' | with_reducible apply State.wr_tame' | with_reducible apply State.touch_tame' | (with_reducible apply Tame.foldl; intro _ _ _) | split | exact Tame.same (Tame.refl _) rfl rfl | dsimp only)
theorem execRegisterWrite_runs (ofs : Nat) (v : W64) (s : State) : Runs s (execRegisterWrite ofs v s) := by
  unfold execRegisterWrite
  refine Runs.of ?_
  dsimp only
  repeat' (first | with_reducible exact Tame.refl _ | with_reducible apply State.writeFar_tame' | with_reducible apply State.writeMember_tame' |
    with_reducible apply State.debugWrite_tame' | with_reducible apply State.writeResp_tame' | with_reducible apply State.writePi_tame' | with_reducible apply State.hsConsume_tame' | with_reducible apply State.writeGuest_tame' |
    with_reducible apply State.writeHart_tame' | with_reducible apply State.writeHs_tame' | with_reducible apply State.modHub_tame' |
    with_reducible apply Tame.ite | split)
theorem execTraceSample_runs (s : State) : Runs s (execTraceSample s) := by
  unfold execTraceSample
  refine Runs.of ?_
  repeat' (first | with_reducible exact Tame.refl _ | with_reducible assumption | (with_reducible apply runCmd_tame; intro _ _) | with_reducible apply State.modHub_tame' | with_reducible apply State.sampleCore_tame' | (with_reducible apply Tame.foldl; intro _ _ _) | split | exact Tame.same (Tame.refl _) rfl rfl | dsimp only)
theorem execLinkBringUp_runs (pkg : Nat) (caps : BitVec 3) (s : State) : Runs s (execLinkBringUp pkg caps s) := by
  unfold execLinkBringUp
  refine Runs.of ?_
  repeat' (first | with_reducible exact Tame.refl _ | with_reducible assumption | (with_reducible apply runCmd_tame; intro _ _) | with_reducible apply State.modHub_tame' | (with_reducible apply Tame.foldl; intro _ _ _) | split | exact Tame.same (Tame.refl _) rfl rfl | dsimp only)

end Sys2Proof.Machine
end

