-- ==== Sys2Proof/Laws/Hub.lean ====
section
/-! SUPPORT. What the journal, HS's queue and the harts' state do: one lemma for each form of a write (R334, R343, R350). -/

namespace Sys2Proof.Machine

/-! ### The journal -/

/-- A decision enters both copies and nothing else changes. -/
theorem State.journalWrite_decision (s : State) {e : JEntry} (he : ∀ w, e ≠ .cmd w) :
    s.journalWrite e = s.modHub fun h => { h with journal := h.journal ++ [e], mirror := h.mirror ++ [e] } := by
  cases e with
  | cmd w => exact absurd rfl (he w)
  | _ => rfl

/-- A command enters both copies and is counted, short of a checkpoint. -/
theorem State.journalWrite_command (s : State) (w : Vector W64 8) (hc : (s.hub.begun + 1) % checkpointEvery ≠ 0) :
    s.journalWrite (.cmd w) = s.modHub fun h => { h with begun := h.begun + 1, journal := h.journal ++ [.cmd w], mirror := h.mirror ++ [.cmd w] } := by
  simp [State.journalWrite, State.modHub, hc]

/-- Every 2^20 commands the journal starts again from what HS has decided. -/
theorem State.journalWrite_checkpoint (s : State) (w : Vector W64 8) (hc : (s.hub.begun + 1) % checkpointEvery = 0) :
    s.journalWrite (.cmd w) = s.modHub fun h =>
      { h with begun := h.begun + 1, checkpoint := h.checkpoint.replay (h.journal ++ [.cmd w]), journal := [], mirror := [] } := by
  simp [State.journalWrite, State.modHub, hc]

/-- A journal write changes the hub alone. -/
theorem State.journalWrite_hub (s : State) (e : JEntry) : s.journalWrite e = { s with hub := (s.journalWrite e).hub } := by
  unfold State.journalWrite State.modHub; rfl
@[simp] theorem State.journalWrite_mem (s : State) (e : JEntry) : (s.journalWrite e).mem = s.mem := rfl
@[simp] theorem State.journalWrite_ctxs (s : State) (e : JEntry) : (s.journalWrite e).ctxs = s.ctxs := rfl
@[simp] theorem State.journalWrite_cores (s : State) (e : JEntry) : (s.journalWrite e).cores = s.cores := rfl
@[simp] theorem State.journalWrite_clusters (s : State) (e : JEntry) : (s.journalWrite e).clusters = s.clusters := rfl
@[simp] theorem State.journalWrite_now (s : State) (e : JEntry) : (s.journalWrite e).now = s.now := rfl

@[simp] theorem Decisions.replay_nil (d : Decisions) : d.replay [] = d := rfl
@[simp] theorem Decisions.take_cmd (d : Decisions) (w : Vector W64 8) : d.take (.cmd w) = d := rfl
/-- A journal of commands alone says nothing of HS's decisions. -/
theorem Decisions.replay_commands (d : Decisions) (ws : List (Vector W64 8)) : d.replay (ws.map .cmd) = d := by
  induction ws with
  | nil => rfl
  | cons w ws ih => simpa [Decisions.replay] using ih
/-- Replaying in two parts. -/
theorem Decisions.replay_append (d : Decisions) (es fs : List JEntry) : d.replay (es ++ fs) = (d.replay es).replay fs := by
  simp [Decisions.replay]

/-! ### HS's queue and the harts -/

/-- A consumer index up to the producer's takes the entries before it. -/
theorem State.hsConsume_upto (s : State) {v : W64} {n : Nat} (hn : n = (v.toNat + 2 ^ 64 - s.hub.hsCons % 2 ^ 64) % 2 ^ 64)
    (h : s.hub.hsCons + n ≤ s.hub.hsProd) : s.hsConsume v = s.modHub fun h =>
      { h with hsCons := h.hsCons + n, hsq := h.hsq.drop n, hsIrq := if h.hsCons + n = h.hsProd then none else s.hsHart } := by
  subst hn; exact if_pos h
/-- A consumer index past the producer's changes nothing. -/
theorem State.hsConsume_past (s : State) {v : W64} {n : Nat} (hn : n = (v.toNat + 2 ^ 64 - s.hub.hsCons % 2 ^ 64) % 2 ^ 64)
    (h : ¬ s.hub.hsCons + n ≤ s.hub.hsProd) : s.hsConsume v = s := by
  subst hn; exact if_neg h

/-- Reading a vector of eight after a change at one place. -/
theorem setEight_getElem {β : Type} (v : Vector β 8) (h : Nat) (f : β → β) (i : Nat) (hi : i < 8) :
    (setEight v h f)[i] = if i = h then f v[i] else v[i] := by
  simp [setEight]

end Sys2Proof.Machine
end

