-- ==== Sys2Proof/Laws/PerInstr.lean ====
section
/-! SUPPORT. Facts about instructions as syntax, one lemma for each constructor: what the encoder writes, the decoder reads back. -/

set_option Elab.async false
set_option linter.unusedSimpArgs false

namespace Sys2Proof.Laws.RoundTrip

/-- Decode of encode is the instruction, with its stop bit and stall count for a slot; an event has no word (R56, R57, R219). -/
def Statement (i : Instr) : Prop :=
  wellFormed i = true →
    (Machine.isSlot i = true → ∀ (s : Bool) (w : BitVec 3),
      decodeSlot (encode s w i) = some i ∧ fS (encode s w i) = s ∧ fW (encode s w i) = w) ∧
    (Machine.isMicro i = true → decodeMicro (encodeMicro i) = some i)

/-- A row of the decoder. -/
theorem row {x : W32} {n : Nat} {r : Option Instr} (h : (fOp x).toNat = n) (hr : rowOf n x = r) : decodeSlot x = r := by
  unfold decodeSlot; rw [h]; exact hr

/-- A row of the decoder of steps. -/
theorem stepRow {x : W64} {n : Nat} {r : Option Instr} (h : (mf x 59 5).toNat = n) (hr : stepOf n x = r) : decodeMicro x = r := by
  unfold decodeMicro; rw [h]; exact hr

/-- A slot has no word of a microprogram. -/
theorem slotRow (i : Instr) (hm : Machine.isMicro i = false)
    (h : wellFormed i = true → ∀ (s : Bool) (w : BitVec 3),
      decodeSlot (encode s w i) = some i ∧ fS (encode s w i) = s ∧ fW (encode s w i) = w) : Statement i := by
  intro hw
  exact ⟨fun _ => h hw, fun hc => by rw [hm] at hc; cases hc⟩
/-- A step of a microprogram is no slot. -/
theorem microRow (i : Instr) (hs : Machine.isSlot i = false) (h : wellFormed i = true → decodeMicro (encodeMicro i) = some i) : Statement i := by
  intro hw
  exact ⟨fun hc => (by rw [hs] at hc; cases hc), fun _ => h hw⟩
/-- An event has no word. -/
theorem eventRow (i : Instr) (hs : Machine.isSlot i = false) (hm : Machine.isMicro i = false) : Statement i := by
  intro _
  exact ⟨fun hc => (by rw [hs] at hc; cases hc), fun hc => (by rw [hm] at hc; cases hc)⟩

/-! ### Parts of a V field -/

theorem v_r (r : BitVec 3) : (0#1 ++ r : BitVec 4)[3] = false ∧ BitVec.extractLsb' 0 3 (0#1 ++ r : BitVec 4) = r := by
  revert r; decide
theorem v_nr (n : Bool) (r : BitVec 3) : (BitVec.ofBool n ++ r : BitVec 4)[3] = n ∧ BitVec.extractLsb' 0 3 (BitVec.ofBool n ++ r : BitVec 4) = r := by
  revert n r; decide
theorem v_n (n : BitVec 2) : BitVec.extractLsb' 0 2 (0#2 ++ n : BitVec 4) = n ∧ BitVec.extractLsb' 2 2 (0#2 ++ n : BitVec 4) = 0#2 := by
  revert n; decide
theorem v_z (z : Bool) : BitVec.extractLsb' 1 3 (0#3 ++ BitVec.ofBool z : BitVec 4) = 0#3 ∧ (0#3 ++ BitVec.ofBool z : BitVec 4)[0] = z := by
  revert z; decide
theorem v_tc (t c : Bool) : BitVec.extractLsb' 2 2 (0#2 ++ BitVec.ofBool t ++ BitVec.ofBool c : BitVec 4) = 0#2 ∧
    (0#2 ++ BitVec.ofBool t ++ BitVec.ofBool c : BitVec 4)[1] = t ∧ (0#2 ++ BitVec.ofBool t ++ BitVec.ofBool c : BitVec 4)[0] = c := by
  revert t c; decide
theorem v_t (t : BitVec 2) : (0#1 ++ t ++ 0#1 : BitVec 4)[3] = false ∧ (0#1 ++ t ++ 0#1 : BitVec 4)[0] = false ∧
    BitVec.extractLsb' 1 2 (0#1 ++ t ++ 0#1 : BitVec 4) = t ∧ (0#1 ++ t ++ 1#1 : BitVec 4)[3] = false ∧
    (0#1 ++ t ++ 1#1 : BitVec 4)[0] = true ∧ BitVec.extractLsb' 1 2 (0#1 ++ t ++ 1#1 : BitVec 4) = t := by
  revert t; decide
theorem v_l (l : Bool) : (0#1 ++ BitVec.ofBool l : BitVec 2)[1] = false ∧ (0#1 ++ BitVec.ofBool l : BitVec 2)[0] = l := by
  revert l; decide
theorem v_ls (ls : BitVec 3) : BitVec.extractLsb' 3 2 ((0 : BitVec 2) ++ ls : BitVec 5) = 0 ∧ BitVec.extractLsb' 0 3 ((0 : BitVec 2) ++ ls : BitVec 5) = ls := by
  revert ls; decide
theorem v_pm (p : Bool) (m : BitVec 4) : BitVec.extractLsb' 4 1 (BitVec.ofBool p ++ m : BitVec 5) = BitVec.ofBool p ∧
    BitVec.extractLsb' 0 4 (BitVec.ofBool p ++ m : BitVec 5) = m := by
  revert p m; decide
theorem v_sh (k : BitVec 5) (n : BitVec 6) : BitVec.extractLsb' 6 5 (k ++ n : BitVec 11) = k ∧ BitVec.extractLsb' 0 6 (k ++ n : BitVec 11) = n :=
  ⟨(BitVec.extractLsb'_append_eq_of_le (by decide)).trans BitVec.extractLsb'_eq_self,
   (BitVec.extractLsb'_append_eq_of_add_le (by decide)).trans BitVec.extractLsb'_eq_self⟩

theorem nop : Statement (.nop) := slotRow (.nop) rfl (fun hw s w =>
  ⟨row (x := encJ s w 0 0) (n := 0) (by rw [fOp_encJ]; rfl) (by
    let x := encJ s w 0 0
    show (guardI (decide (x.extractLsb' 0 21 = 0)) (.nop) : Option Instr) = _
    simp [x, guardI, orI, fR3, fR2, fAB, fA1, fRI, fMO]), fS_encJ .., fW_encJ ..⟩)
theorem add (o : R3) : Statement (.add o) := slotRow (.add o) rfl (fun hw s w =>
  ⟨row (x := encR s w 1 o.d o.a o.b o.ha o.hb (0)) (n := 1) (by rw [fOp_encR]; rfl) (by
    let x := encR s w 1 o.d o.a o.b o.ha o.hb (0)
    show (guardI (decide (fV x = 0)) (.add (fR3 x)) : Option Instr) = _
    simp [x, guardI, orI, fR3, fR2, fAB, fA1, fRI, fMO]), fS_encR .., fW_encR ..⟩)
theorem sub (o : R3) : Statement (.sub o) := slotRow (.sub o) rfl (fun hw s w =>
  ⟨row (x := encR s w 2 o.d o.a o.b o.ha o.hb (0)) (n := 2) (by rw [fOp_encR]; rfl) (by
    let x := encR s w 2 o.d o.a o.b o.ha o.hb (0)
    show (guardI (decide (fV x = 0)) (.sub (fR3 x)) : Option Instr) = _
    simp [x, guardI, orI, fR3, fR2, fAB, fA1, fRI, fMO]), fS_encR .., fW_encR ..⟩)
theorem addr (o : R3) (v : BitVec 4) : Statement (.addr o v) := slotRow (.addr o v) rfl (fun hw s w =>
  ⟨row (x := encR s w 3 o.d o.a o.b o.ha o.hb (v)) (n := 3) (by rw [fOp_encR]; rfl) (by
    let x := encR s w 3 o.d o.a o.b o.ha o.hb (v)
    show (some (.addr (fR3 x) (fV x)) : Option Instr) = _
    simp [x, guardI, orI, fR3, fR2, fAB, fA1, fRI, fMO]), fS_encR .., fW_encR ..⟩)
theorem and (o : R3) : Statement (.and o) := slotRow (.and o) rfl (fun hw s w =>
  ⟨row (x := encR s w 4 o.d o.a o.b o.ha o.hb (0)) (n := 4) (by rw [fOp_encR]; rfl) (by
    let x := encR s w 4 o.d o.a o.b o.ha o.hb (0)
    show (guardI (decide (fV x = 0)) (.and (fR3 x)) : Option Instr) = _
    simp [x, guardI, orI, fR3, fR2, fAB, fA1, fRI, fMO]), fS_encR .., fW_encR ..⟩)
theorem or (o : R3) : Statement (.or o) := slotRow (.or o) rfl (fun hw s w =>
  ⟨row (x := encR s w 5 o.d o.a o.b o.ha o.hb (0)) (n := 5) (by rw [fOp_encR]; rfl) (by
    let x := encR s w 5 o.d o.a o.b o.ha o.hb (0)
    show (guardI (decide (fV x = 0)) (.or (fR3 x)) : Option Instr) = _
    simp [x, guardI, orI, fR3, fR2, fAB, fA1, fRI, fMO]), fS_encR .., fW_encR ..⟩)
theorem xor (o : R3) : Statement (.xor o) := slotRow (.xor o) rfl (fun hw s w =>
  ⟨row (x := encR s w 6 o.d o.a o.b o.ha o.hb (0)) (n := 6) (by rw [fOp_encR]; rfl) (by
    let x := encR s w 6 o.d o.a o.b o.ha o.hb (0)
    show (guardI (decide (fV x = 0)) (.xor (fR3 x)) : Option Instr) = _
    simp [x, guardI, orI, fR3, fR2, fAB, fA1, fRI, fMO]), fS_encR .., fW_encR ..⟩)
theorem shl (o : R3) (w0 : Bool) : Statement (.shl o w0) := slotRow (.shl o w0) rfl (fun hw s w =>
  ⟨row (x := encR s w 7 o.d o.a o.b o.ha o.hb ((0 : BitVec 1) ++ BitVec.ofBool w0 ++ (0 : BitVec 2))) (n := 7) (by rw [fOp_encR]; rfl) (by
    let x := encR s w 7 o.d o.a o.b o.ha o.hb ((0 : BitVec 1) ++ BitVec.ofBool w0 ++ (0 : BitVec 2))
    show (orI (guardI (decide ((fV x).extractLsb' 0 2 = 0 ∧ bitAt x 3 = false)) (.shl (fR3 x) (bitAt x 2)))
      (orI (guardI (decide ((fV x).extractLsb' 0 2 = 1 ∧ bitAt x 3 = false)) (.shr (fR3 x) (bitAt x 2)))
      (guardI (decide ((fV x).extractLsb' 0 2 = 2 ∧ bitAt x 3 = false)) (.sra (fR3 x) (bitAt x 2)))) : Option Instr) = _
    simp only [x, fV_encR, bit3_encR, bit2_encR, bit1_encR, bit0_encR, fR3, fD_encR, fA_encR, fB_encR, bit5_encR, bit4_encR]
    cases w0 <;> rfl), fS_encR .., fW_encR ..⟩)
theorem shr (o : R3) (w0 : Bool) : Statement (.shr o w0) := slotRow (.shr o w0) rfl (fun hw s w =>
  ⟨row (x := encR s w 7 o.d o.a o.b o.ha o.hb ((0 : BitVec 1) ++ BitVec.ofBool w0 ++ (1 : BitVec 2))) (n := 7) (by rw [fOp_encR]; rfl) (by
    let x := encR s w 7 o.d o.a o.b o.ha o.hb ((0 : BitVec 1) ++ BitVec.ofBool w0 ++ (1 : BitVec 2))
    show (orI (guardI (decide ((fV x).extractLsb' 0 2 = 0 ∧ bitAt x 3 = false)) (.shl (fR3 x) (bitAt x 2)))
      (orI (guardI (decide ((fV x).extractLsb' 0 2 = 1 ∧ bitAt x 3 = false)) (.shr (fR3 x) (bitAt x 2)))
      (guardI (decide ((fV x).extractLsb' 0 2 = 2 ∧ bitAt x 3 = false)) (.sra (fR3 x) (bitAt x 2)))) : Option Instr) = _
    simp only [x, fV_encR, bit3_encR, bit2_encR, bit1_encR, bit0_encR, fR3, fD_encR, fA_encR, fB_encR, bit5_encR, bit4_encR]
    cases w0 <;> rfl), fS_encR .., fW_encR ..⟩)
theorem sra (o : R3) (w0 : Bool) : Statement (.sra o w0) := slotRow (.sra o w0) rfl (fun hw s w =>
  ⟨row (x := encR s w 7 o.d o.a o.b o.ha o.hb ((0 : BitVec 1) ++ BitVec.ofBool w0 ++ (2 : BitVec 2))) (n := 7) (by rw [fOp_encR]; rfl) (by
    let x := encR s w 7 o.d o.a o.b o.ha o.hb ((0 : BitVec 1) ++ BitVec.ofBool w0 ++ (2 : BitVec 2))
    show (orI (guardI (decide ((fV x).extractLsb' 0 2 = 0 ∧ bitAt x 3 = false)) (.shl (fR3 x) (bitAt x 2)))
      (orI (guardI (decide ((fV x).extractLsb' 0 2 = 1 ∧ bitAt x 3 = false)) (.shr (fR3 x) (bitAt x 2)))
      (guardI (decide ((fV x).extractLsb' 0 2 = 2 ∧ bitAt x 3 = false)) (.sra (fR3 x) (bitAt x 2)))) : Option Instr) = _
    simp only [x, fV_encR, bit3_encR, bit2_encR, bit1_encR, bit0_encR, fR3, fD_encR, fA_encR, fB_encR, bit5_encR, bit4_encR]
    cases w0 <;> rfl), fS_encR .., fW_encR ..⟩)
theorem mul (o : R3) : Statement (.mul o) := slotRow (.mul o) rfl (fun hw s w =>
  ⟨row (x := encR s w 8 o.d o.a o.b o.ha o.hb (0)) (n := 8) (by rw [fOp_encR]; rfl) (by
    let x := encR s w 8 o.d o.a o.b o.ha o.hb (0)
    show (guardI (decide (fV x = 0)) (.mul (fR3 x)) : Option Instr) = _
    simp [x, guardI, orI, fR3, fR2, fAB, fA1, fRI, fMO]), fS_encR .., fW_encR ..⟩)
theorem mulh (o : R3) (v : BitVec 4) : Statement (.mulh o v) := slotRow (.mulh o v) rfl (fun hw s w =>
  ⟨row (x := encR s w 9 o.d o.a o.b o.ha o.hb (v)) (n := 9) (by rw [fOp_encR]; rfl) (by
    let x := encR s w 9 o.d o.a o.b o.ha o.hb (v)
    show (some (.mulh (fR3 x) (fV x)) : Option Instr) = _
    simp [x, guardI, orI, fR3, fR2, fAB, fA1, fRI, fMO]), fS_encR .., fW_encR ..⟩)
theorem min (o : R3) (u : Bool) : Statement (.min o u) := slotRow (.min o u) rfl (fun hw s w =>
  ⟨row (x := encR s w 10 o.d o.a o.b o.ha o.hb ((0 : BitVec 2) ++ BitVec.ofBool u ++ (0 : BitVec 1))) (n := 10) (by rw [fOp_encR]; rfl) (by
    let x := encR s w 10 o.d o.a o.b o.ha o.hb ((0 : BitVec 2) ++ BitVec.ofBool u ++ (0 : BitVec 1))
    show (orI (guardI (decide ((fV x).extractLsb' 2 2 = 0 ∧ bitAt x 0 = false)) (.min (fR3 x) (bitAt x 1)))
      (guardI (decide ((fV x).extractLsb' 2 2 = 0 ∧ bitAt x 0 = true)) (.max (fR3 x) (bitAt x 1))) : Option Instr) = _
    simp only [x, fV_encR, bit3_encR, bit2_encR, bit1_encR, bit0_encR, fR3, fD_encR, fA_encR, fB_encR, bit5_encR, bit4_encR]
    cases u <;> rfl), fS_encR .., fW_encR ..⟩)
theorem max (o : R3) (u : Bool) : Statement (.max o u) := slotRow (.max o u) rfl (fun hw s w =>
  ⟨row (x := encR s w 10 o.d o.a o.b o.ha o.hb ((0 : BitVec 2) ++ BitVec.ofBool u ++ (1 : BitVec 1))) (n := 10) (by rw [fOp_encR]; rfl) (by
    let x := encR s w 10 o.d o.a o.b o.ha o.hb ((0 : BitVec 2) ++ BitVec.ofBool u ++ (1 : BitVec 1))
    show (orI (guardI (decide ((fV x).extractLsb' 2 2 = 0 ∧ bitAt x 0 = false)) (.min (fR3 x) (bitAt x 1)))
      (guardI (decide ((fV x).extractLsb' 2 2 = 0 ∧ bitAt x 0 = true)) (.max (fR3 x) (bitAt x 1))) : Option Instr) = _
    simp only [x, fV_encR, bit3_encR, bit2_encR, bit1_encR, bit0_encR, fR3, fD_encR, fA_encR, fB_encR, bit5_encR, bit4_encR]
    cases u <;> rfl), fS_encR .., fW_encR ..⟩)
theorem cmp (o : R3) (v : BitVec 4) : Statement (.cmp o v) := slotRow (.cmp o v) rfl (fun hw s w =>
  ⟨row (x := encR s w 11 o.d o.a o.b o.ha o.hb (v)) (n := 11) (by rw [fOp_encR]; rfl) (by
    let x := encR s w 11 o.d o.a o.b o.ha o.hb (v)
    show (some (.cmp (fR3 x) (fV x)) : Option Instr) = _
    simp [x, guardI, orI, fR3, fR2, fAB, fA1, fRI, fMO]), fS_encR .., fW_encR ..⟩)
theorem sel (o : R3) (z : Bool) : Statement (.sel o z) := slotRow (.sel o z) rfl (fun hw s w =>
  ⟨row (x := encR s w 12 o.d o.a o.b o.ha o.hb ((0 : BitVec 3) ++ BitVec.ofBool z)) (n := 12) (by rw [fOp_encR]; rfl) (by
    let x := encR s w 12 o.d o.a o.b o.ha o.hb ((0 : BitVec 3) ++ BitVec.ofBool z)
    show (guardI (decide ((fV x).extractLsb' 1 3 = 0)) (.sel (fR3 x) (bitAt x 0)) : Option Instr) = _
    simp [x, guardI, orI, fR3, fR2, fAB, fA1, fRI, fMO, v_z]), fS_encR .., fW_encR ..⟩)
theorem clz (o : R2) (w0 : Bool) : Statement (.clz o w0) := slotRow (.clz o w0) rfl (fun hw s w =>
  ⟨row (x := encR s w 13 o.d o.a 0 o.ha false ((0 : BitVec 3) ++ BitVec.ofBool w0)) (n := 13) (by rw [fOp_encR]; rfl) (by
    let x := encR s w 13 o.d o.a 0 o.ha false ((0 : BitVec 3) ++ BitVec.ofBool w0)
    show (guardI (decide (fB x = 0 ∧ bitAt x 4 = false ∧ (fV x).extractLsb' 1 3 = 0)) (.clz (fR2 x) (bitAt x 0)) : Option Instr) = _
    simp [x, guardI, orI, fR3, fR2, fAB, fA1, fRI, fMO, v_z]), fS_encR .., fW_encR ..⟩)
theorem popc (o : R2) (w0 : Bool) : Statement (.popc o w0) := slotRow (.popc o w0) rfl (fun hw s w =>
  ⟨row (x := encR s w 14 o.d o.a 0 o.ha false ((0 : BitVec 3) ++ BitVec.ofBool w0)) (n := 14) (by rw [fOp_encR]; rfl) (by
    let x := encR s w 14 o.d o.a 0 o.ha false ((0 : BitVec 3) ++ BitVec.ofBool w0)
    show (guardI (decide (fB x = 0 ∧ bitAt x 4 = false ∧ (fV x).extractLsb' 1 3 = 0)) (.popc (fR2 x) (bitAt x 0)) : Option Instr) = _
    simp [x, guardI, orI, fR3, fR2, fAB, fA1, fRI, fMO, v_z]), fS_encR .., fW_encR ..⟩)
theorem movx (o : R2) (v : BitVec 4) : Statement (.movx o v) := slotRow (.movx o v) rfl (fun hw s w =>
  ⟨row (x := encR s w 15 o.d o.a 0 o.ha false (v)) (n := 15) (by rw [fOp_encR]; rfl) (by
    let x := encR s w 15 o.d o.a 0 o.ha false (v)
    show (guardI (decide (fB x = 0 ∧ bitAt x 4 = false)) (.movx (fR2 x) (fV x)) : Option Instr) = _
    simp [x, guardI, orI, fR3, fR2, fAB, fA1, fRI, fMO]), fS_encR .., fW_encR ..⟩)
theorem addi (o : RI) : Statement (.addi o) := slotRow (.addi o) rfl (fun hw s w =>
  ⟨row (x := encI s w 16 o.d o.a o.imm) (n := 16) (by rw [fOp_encI]; rfl) (by
    let x := encI s w 16 o.d o.a o.imm
    show (some (.addi (fRI x)) : Option Instr) = _
    simp [x, guardI, orI, fR3, fR2, fAB, fA1, fRI, fMO]), fS_encI .., fW_encI ..⟩)
theorem andi (o : RI) : Statement (.andi o) := slotRow (.andi o) rfl (fun hw s w =>
  ⟨row (x := encI s w 17 o.d o.a o.imm) (n := 17) (by rw [fOp_encI]; rfl) (by
    let x := encI s w 17 o.d o.a o.imm
    show (some (.andi (fRI x)) : Option Instr) = _
    simp [x, guardI, orI, fR3, fR2, fAB, fA1, fRI, fMO]), fS_encI .., fW_encI ..⟩)
theorem ori (o : RI) : Statement (.ori o) := slotRow (.ori o) rfl (fun hw s w =>
  ⟨row (x := encI s w 18 o.d o.a o.imm) (n := 18) (by rw [fOp_encI]; rfl) (by
    let x := encI s w 18 o.d o.a o.imm
    show (some (.ori (fRI x)) : Option Instr) = _
    simp [x, guardI, orI, fR3, fR2, fAB, fA1, fRI, fMO]), fS_encI .., fW_encI ..⟩)
theorem xori (o : RI) : Statement (.xori o) := slotRow (.xori o) rfl (fun hw s w =>
  ⟨row (x := encI s w 19 o.d o.a o.imm) (n := 19) (by rw [fOp_encI]; rfl) (by
    let x := encI s w 19 o.d o.a o.imm
    show (some (.xori (fRI x)) : Option Instr) = _
    simp [x, guardI, orI, fR3, fR2, fAB, fA1, fRI, fMO]), fS_encI .., fW_encI ..⟩)
theorem shli (d : BitVec 5) (a : BitVec 5) (n : BitVec 6) : Statement (.shli d a n) := slotRow (.shli d a n) rfl (fun hw s w =>
  ⟨row (x := encI s w 20 d a ((0 : BitVec 5) ++ n)) (n := 20) (by rw [fOp_encI]; rfl) (by
    let x := encI s w 20 d a ((0 : BitVec 5) ++ n)
    show (orI (guardI (decide (x.extractLsb' 6 5 = 0)) (.shli (fD x) (fA x) (x.extractLsb' 0 6)))
      (orI (guardI (decide (x.extractLsb' 6 5 = 1)) (.shri (fD x) (fA x) (x.extractLsb' 0 6)))
      (guardI (decide (x.extractLsb' 6 5 = 2)) (.srai (fD x) (fA x) (x.extractLsb' 0 6)))) : Option Instr) = _
    simp [x, guardI, orI, fR3, fR2, fAB, fA1, fRI, fMO, v_sh]), fS_encI .., fW_encI ..⟩)
theorem shri (d : BitVec 5) (a : BitVec 5) (n : BitVec 6) : Statement (.shri d a n) := slotRow (.shri d a n) rfl (fun hw s w =>
  ⟨row (x := encI s w 20 d a ((1 : BitVec 5) ++ n)) (n := 20) (by rw [fOp_encI]; rfl) (by
    let x := encI s w 20 d a ((1 : BitVec 5) ++ n)
    show (orI (guardI (decide (x.extractLsb' 6 5 = 0)) (.shli (fD x) (fA x) (x.extractLsb' 0 6)))
      (orI (guardI (decide (x.extractLsb' 6 5 = 1)) (.shri (fD x) (fA x) (x.extractLsb' 0 6)))
      (guardI (decide (x.extractLsb' 6 5 = 2)) (.srai (fD x) (fA x) (x.extractLsb' 0 6)))) : Option Instr) = _
    simp [x, guardI, orI, fR3, fR2, fAB, fA1, fRI, fMO, v_sh]), fS_encI .., fW_encI ..⟩)
theorem srai (d : BitVec 5) (a : BitVec 5) (n : BitVec 6) : Statement (.srai d a n) := slotRow (.srai d a n) rfl (fun hw s w =>
  ⟨row (x := encI s w 20 d a ((2 : BitVec 5) ++ n)) (n := 20) (by rw [fOp_encI]; rfl) (by
    let x := encI s w 20 d a ((2 : BitVec 5) ++ n)
    show (orI (guardI (decide (x.extractLsb' 6 5 = 0)) (.shli (fD x) (fA x) (x.extractLsb' 0 6)))
      (orI (guardI (decide (x.extractLsb' 6 5 = 1)) (.shri (fD x) (fA x) (x.extractLsb' 0 6)))
      (guardI (decide (x.extractLsb' 6 5 = 2)) (.srai (fD x) (fA x) (x.extractLsb' 0 6)))) : Option Instr) = _
    simp [x, guardI, orI, fR3, fR2, fAB, fA1, fRI, fMO, v_sh]), fS_encI .., fW_encI ..⟩)
theorem cmpi (o : RI) : Statement (.cmpi o) := slotRow (.cmpi o) rfl (fun hw s w =>
  ⟨row (x := encI s w 21 o.d o.a o.imm) (n := 21) (by rw [fOp_encI]; rfl) (by
    let x := encI s w 21 o.d o.a o.imm
    show (some (.cmpi (fRI x)) : Option Instr) = _
    simp [x, guardI, orI, fR3, fR2, fAB, fA1, fRI, fMO]), fS_encI .., fW_encI ..⟩)
theorem li (d : BitVec 5) (imm : BitVec 16) : Statement (.li d imm) := slotRow (.li d imm) rfl (fun hw s w =>
  ⟨row (x := encL s w 22 d imm) (n := 22) (by rw [fOp_encL]; rfl) (by
    let x := encL s w 22 d imm
    show (some (.li (fD x) (x.extractLsb' 0 16)) : Option Instr) = _
    simp [x, guardI, orI, fR3, fR2, fAB, fA1, fRI, fMO]), fS_encL .., fW_encL ..⟩)
theorem lih (d : BitVec 5) (imm : BitVec 16) : Statement (.lih d imm) := slotRow (.lih d imm) rfl (fun hw s w =>
  ⟨row (x := encL s w 23 d imm) (n := 23) (by rw [fOp_encL]; rfl) (by
    let x := encL s w 23 d imm
    show (some (.lih (fD x) (x.extractLsb' 0 16)) : Option Instr) = _
    simp [x, guardI, orI, fR3, fR2, fAB, fA1, fRI, fMO]), fS_encL .., fW_encL ..⟩)
theorem div (o : R3) (v : BitVec 4) : Statement (.div o v) := slotRow (.div o v) rfl (fun hw s w =>
  ⟨row (x := encR s w 24 o.d o.a o.b o.ha o.hb (v)) (n := 24) (by rw [fOp_encR]; rfl) (by
    let x := encR s w 24 o.d o.a o.b o.ha o.hb (v)
    show (some (.div (fR3 x) (fV x)) : Option Instr) = _
    simp [x, guardI, orI, fR3, fR2, fAB, fA1, fRI, fMO]), fS_encR .., fW_encR ..⟩)
theorem fadd (o : R3) (rm : BitVec 3) : Statement (.fadd o rm) := slotRow (.fadd o rm) rfl (fun hw s w =>
  ⟨row (x := encR s w 25 o.d o.a o.b o.ha o.hb ((0 : BitVec 1) ++ rm)) (n := 25) (by rw [fOp_encR]; rfl) (by
    let x := encR s w 25 o.d o.a o.b o.ha o.hb ((0 : BitVec 1) ++ rm)
    show (guardI (decide (bitAt x 3 = false)) (.fadd (fR3 x) ((fV x).extractLsb' 0 3)) : Option Instr) = _
    simp [x, guardI, orI, fR3, fR2, fAB, fA1, fRI, fMO, v_r]), fS_encR .., fW_encR ..⟩)
theorem fsub (o : R3) (rm : BitVec 3) : Statement (.fsub o rm) := slotRow (.fsub o rm) rfl (fun hw s w =>
  ⟨row (x := encR s w 26 o.d o.a o.b o.ha o.hb ((0 : BitVec 1) ++ rm)) (n := 26) (by rw [fOp_encR]; rfl) (by
    let x := encR s w 26 o.d o.a o.b o.ha o.hb ((0 : BitVec 1) ++ rm)
    show (guardI (decide (bitAt x 3 = false)) (.fsub (fR3 x) ((fV x).extractLsb' 0 3)) : Option Instr) = _
    simp [x, guardI, orI, fR3, fR2, fAB, fA1, fRI, fMO, v_r]), fS_encR .., fW_encR ..⟩)
theorem fmul (o : R3) (rm : BitVec 3) : Statement (.fmul o rm) := slotRow (.fmul o rm) rfl (fun hw s w =>
  ⟨row (x := encR s w 27 o.d o.a o.b o.ha o.hb ((0 : BitVec 1) ++ rm)) (n := 27) (by rw [fOp_encR]; rfl) (by
    let x := encR s w 27 o.d o.a o.b o.ha o.hb ((0 : BitVec 1) ++ rm)
    show (guardI (decide (bitAt x 3 = false)) (.fmul (fR3 x) ((fV x).extractLsb' 0 3)) : Option Instr) = _
    simp [x, guardI, orI, fR3, fR2, fAB, fA1, fRI, fMO, v_r]), fS_encR .., fW_encR ..⟩)
theorem fma (o : R3) (neg : Bool) (rm : BitVec 3) : Statement (.fma o neg rm) := slotRow (.fma o neg rm) rfl (fun hw s w =>
  ⟨row (x := encR s w 28 o.d o.a o.b o.ha o.hb (BitVec.ofBool neg ++ rm)) (n := 28) (by rw [fOp_encR]; rfl) (by
    let x := encR s w 28 o.d o.a o.b o.ha o.hb (BitVec.ofBool neg ++ rm)
    show (some (.fma (fR3 x) (bitAt x 3) ((fV x).extractLsb' 0 3)) : Option Instr) = _
    simp [x, guardI, orI, fR3, fR2, fAB, fA1, fRI, fMO, v_nr]), fS_encR .., fW_encR ..⟩)
theorem fdiv (o : R3) (rm : BitVec 3) : Statement (.fdiv o rm) := slotRow (.fdiv o rm) rfl (fun hw s w =>
  ⟨row (x := encR s w 29 o.d o.a o.b o.ha o.hb ((0 : BitVec 1) ++ rm)) (n := 29) (by rw [fOp_encR]; rfl) (by
    let x := encR s w 29 o.d o.a o.b o.ha o.hb ((0 : BitVec 1) ++ rm)
    show (guardI (decide (bitAt x 3 = false)) (.fdiv (fR3 x) ((fV x).extractLsb' 0 3)) : Option Instr) = _
    simp [x, guardI, orI, fR3, fR2, fAB, fA1, fRI, fMO, v_r]), fS_encR .., fW_encR ..⟩)
theorem fsqrt (o : R2) (rm : BitVec 3) : Statement (.fsqrt o rm) := slotRow (.fsqrt o rm) rfl (fun hw s w =>
  ⟨row (x := encR s w 30 o.d o.a 0 o.ha false ((0 : BitVec 1) ++ rm)) (n := 30) (by rw [fOp_encR]; rfl) (by
    let x := encR s w 30 o.d o.a 0 o.ha false ((0 : BitVec 1) ++ rm)
    show (guardI (decide (fB x = 0 ∧ bitAt x 4 = false ∧ bitAt x 3 = false)) (.fsqrt (fR2 x) ((fV x).extractLsb' 0 3)) : Option Instr) = _
    simp [x, guardI, orI, fR3, fR2, fAB, fA1, fRI, fMO, v_r]), fS_encR .., fW_encR ..⟩)
theorem frsq (o : R2) (rm : BitVec 3) : Statement (.frsq o rm) := slotRow (.frsq o rm) rfl (fun hw s w =>
  ⟨row (x := encR s w 31 o.d o.a 0 o.ha false ((0 : BitVec 1) ++ rm)) (n := 31) (by rw [fOp_encR]; rfl) (by
    let x := encR s w 31 o.d o.a 0 o.ha false ((0 : BitVec 1) ++ rm)
    show (guardI (decide (fB x = 0 ∧ bitAt x 4 = false ∧ bitAt x 3 = false)) (.frsq (fR2 x) ((fV x).extractLsb' 0 3)) : Option Instr) = _
    simp [x, guardI, orI, fR3, fR2, fAB, fA1, fRI, fMO, v_r]), fS_encR .., fW_encR ..⟩)
theorem fcmp (o : R3) (v : BitVec 4) : Statement (.fcmp o v) := slotRow (.fcmp o v) rfl (fun hw s w =>
  ⟨row (x := encR s w 32 o.d o.a o.b o.ha o.hb (v)) (n := 32) (by rw [fOp_encR]; rfl) (by
    let x := encR s w 32 o.d o.a o.b o.ha o.hb (v)
    show (some (.fcmp (fR3 x) (fV x)) : Option Instr) = _
    simp [x, guardI, orI, fR3, fR2, fAB, fA1, fRI, fMO]), fS_encR .., fW_encR ..⟩)
theorem fmin (o : R3) : Statement (.fmin o) := slotRow (.fmin o) rfl (fun hw s w =>
  ⟨row (x := encR s w 33 o.d o.a o.b o.ha o.hb (0)) (n := 33) (by rw [fOp_encR]; rfl) (by
    let x := encR s w 33 o.d o.a o.b o.ha o.hb (0)
    show (orI (guardI (decide (fV x = 0)) (.fmin (fR3 x)))
      (guardI (decide (fV x = 1)) (.fmax (fR3 x))) : Option Instr) = _
    simp [x, guardI, orI, fR3, fR2, fAB, fA1, fRI, fMO]), fS_encR .., fW_encR ..⟩)
theorem fmax (o : R3) : Statement (.fmax o) := slotRow (.fmax o) rfl (fun hw s w =>
  ⟨row (x := encR s w 33 o.d o.a o.b o.ha o.hb (1)) (n := 33) (by rw [fOp_encR]; rfl) (by
    let x := encR s w 33 o.d o.a o.b o.ha o.hb (1)
    show (orI (guardI (decide (fV x = 0)) (.fmin (fR3 x)))
      (guardI (decide (fV x = 1)) (.fmax (fR3 x))) : Option Instr) = _
    simp [x, guardI, orI, fR3, fR2, fAB, fA1, fRI, fMO]), fS_encR .., fW_encR ..⟩)
theorem fcvt (o : R2) (v : BitVec 4) : Statement (.fcvt o v) := slotRow (.fcvt o v) rfl (fun hw s w =>
  ⟨row (x := encR s w 34 o.d o.a 0 o.ha false (v)) (n := 34) (by rw [fOp_encR]; rfl) (by
    let x := encR s w 34 o.d o.a 0 o.ha false (v)
    show (guardI (decide (fB x = 0 ∧ bitAt x 4 = false)) (.fcvt (fR2 x) (fV x)) : Option Instr) = _
    simp [x, guardI, orI, fR3, fR2, fAB, fA1, fRI, fMO]), fS_encR .., fW_encR ..⟩)
theorem fclass (o : R2) : Statement (.fclass o) := slotRow (.fclass o) rfl (fun hw s w =>
  ⟨row (x := encR s w 35 o.d o.a 0 o.ha false (0)) (n := 35) (by rw [fOp_encR]; rfl) (by
    let x := encR s w 35 o.d o.a 0 o.ha false (0)
    show (guardI (decide (fB x = 0 ∧ bitAt x 4 = false ∧ fV x = 0)) (.fclass (fR2 x)) : Option Instr) = _
    simp [x, guardI, orI, fR3, fR2, fAB, fA1, fRI, fMO]), fS_encR .., fW_encR ..⟩)
theorem brc (cond : BitVec 5) (a : BitVec 5) (ofs : BitVec 11) : Statement (.brc cond a ofs) := slotRow (.brc cond a ofs) rfl (fun hw s w =>
  ⟨row (x := encI s w 36 cond a ofs) (n := 36) (by rw [fOp_encI]; rfl) (by
    let x := encI s w 36 cond a ofs
    show (some (.brc (fD x) (fA x) (x.extractLsb' 0 11)) : Option Instr) = _
    simp [x, guardI, orI, fR3, fR2, fAB, fA1, fRI, fMO]), fS_encI .., fW_encI ..⟩)
theorem vadd (o : R3) (v : BitVec 4) : Statement (.vadd o v) := slotRow (.vadd o v) rfl (fun hw s w =>
  ⟨row (x := encR s w 40 o.d o.a o.b o.ha o.hb (v)) (n := 40) (by rw [fOp_encR]; rfl) (by
    let x := encR s w 40 o.d o.a o.b o.ha o.hb (v)
    show (some (.vadd (fR3 x) (fV x)) : Option Instr) = _
    simp [x, guardI, orI, fR3, fR2, fAB, fA1, fRI, fMO]), fS_encR .., fW_encR ..⟩)
theorem vsub (o : R3) (v : BitVec 4) : Statement (.vsub o v) := slotRow (.vsub o v) rfl (fun hw s w =>
  ⟨row (x := encR s w 41 o.d o.a o.b o.ha o.hb (v)) (n := 41) (by rw [fOp_encR]; rfl) (by
    let x := encR s w 41 o.d o.a o.b o.ha o.hb (v)
    show (some (.vsub (fR3 x) (fV x)) : Option Instr) = _
    simp [x, guardI, orI, fR3, fR2, fAB, fA1, fRI, fMO]), fS_encR .., fW_encR ..⟩)
theorem vmul (o : R3) (v : BitVec 4) : Statement (.vmul o v) := slotRow (.vmul o v) rfl (fun hw s w =>
  ⟨row (x := encR s w 42 o.d o.a o.b o.ha o.hb (v)) (n := 42) (by rw [fOp_encR]; rfl) (by
    let x := encR s w 42 o.d o.a o.b o.ha o.hb (v)
    show (some (.vmul (fR3 x) (fV x)) : Option Instr) = _
    simp [x, guardI, orI, fR3, fR2, fAB, fA1, fRI, fMO]), fS_encR .., fW_encR ..⟩)
theorem vfma (o : R3) (v : BitVec 4) : Statement (.vfma o v) := slotRow (.vfma o v) rfl (fun hw s w =>
  ⟨row (x := encR s w 43 o.d o.a o.b o.ha o.hb (v)) (n := 43) (by rw [fOp_encR]; rfl) (by
    let x := encR s w 43 o.d o.a o.b o.ha o.hb (v)
    show (some (.vfma (fR3 x) (fV x)) : Option Instr) = _
    simp [x, guardI, orI, fR3, fR2, fAB, fA1, fRI, fMO]), fS_encR .., fW_encR ..⟩)
theorem vmin (o : R3) (t : BitVec 2) : Statement (.vmin o t) := slotRow (.vmin o t) rfl (fun hw s w =>
  ⟨row (x := encR s w 44 o.d o.a o.b o.ha o.hb ((0 : BitVec 1) ++ t ++ (0 : BitVec 1))) (n := 44) (by rw [fOp_encR]; rfl) (by
    let x := encR s w 44 o.d o.a o.b o.ha o.hb ((0 : BitVec 1) ++ t ++ (0 : BitVec 1))
    show (orI (guardI (decide (bitAt x 3 = false ∧ bitAt x 0 = false)) (.vmin (fR3 x) ((fV x).extractLsb' 1 2)))
      (guardI (decide (bitAt x 3 = false ∧ bitAt x 0 = true)) (.vmax (fR3 x) ((fV x).extractLsb' 1 2))) : Option Instr) = _
    simp [x, guardI, orI, fR3, fR2, fAB, fA1, fRI, fMO, v_t]), fS_encR .., fW_encR ..⟩)
theorem vmax (o : R3) (t : BitVec 2) : Statement (.vmax o t) := slotRow (.vmax o t) rfl (fun hw s w =>
  ⟨row (x := encR s w 44 o.d o.a o.b o.ha o.hb ((0 : BitVec 1) ++ t ++ (1 : BitVec 1))) (n := 44) (by rw [fOp_encR]; rfl) (by
    let x := encR s w 44 o.d o.a o.b o.ha o.hb ((0 : BitVec 1) ++ t ++ (1 : BitVec 1))
    show (orI (guardI (decide (bitAt x 3 = false ∧ bitAt x 0 = false)) (.vmin (fR3 x) ((fV x).extractLsb' 1 2)))
      (guardI (decide (bitAt x 3 = false ∧ bitAt x 0 = true)) (.vmax (fR3 x) ((fV x).extractLsb' 1 2))) : Option Instr) = _
    simp [x, guardI, orI, fR3, fR2, fAB, fA1, fRI, fMO, v_t]), fS_encR .., fW_encR ..⟩)
theorem vand (o : R3) : Statement (.vand o) := slotRow (.vand o) rfl (fun hw s w =>
  ⟨row (x := encR s w 45 o.d o.a o.b o.ha o.hb (0)) (n := 45) (by rw [fOp_encR]; rfl) (by
    let x := encR s w 45 o.d o.a o.b o.ha o.hb (0)
    show (orI (guardI (decide (fV x = 0)) (.vand (fR3 x)))
      (orI (guardI (decide (fV x = 1)) (.vor (fR3 x)))
      (guardI (decide (fV x = 2)) (.vxor (fR3 x)))) : Option Instr) = _
    simp [x, guardI, orI, fR3, fR2, fAB, fA1, fRI, fMO]), fS_encR .., fW_encR ..⟩)
theorem vor (o : R3) : Statement (.vor o) := slotRow (.vor o) rfl (fun hw s w =>
  ⟨row (x := encR s w 45 o.d o.a o.b o.ha o.hb (1)) (n := 45) (by rw [fOp_encR]; rfl) (by
    let x := encR s w 45 o.d o.a o.b o.ha o.hb (1)
    show (orI (guardI (decide (fV x = 0)) (.vand (fR3 x)))
      (orI (guardI (decide (fV x = 1)) (.vor (fR3 x)))
      (guardI (decide (fV x = 2)) (.vxor (fR3 x)))) : Option Instr) = _
    simp [x, guardI, orI, fR3, fR2, fAB, fA1, fRI, fMO]), fS_encR .., fW_encR ..⟩)
theorem vxor (o : R3) : Statement (.vxor o) := slotRow (.vxor o) rfl (fun hw s w =>
  ⟨row (x := encR s w 45 o.d o.a o.b o.ha o.hb (2)) (n := 45) (by rw [fOp_encR]; rfl) (by
    let x := encR s w 45 o.d o.a o.b o.ha o.hb (2)
    show (orI (guardI (decide (fV x = 0)) (.vand (fR3 x)))
      (orI (guardI (decide (fV x = 1)) (.vor (fR3 x)))
      (guardI (decide (fV x = 2)) (.vxor (fR3 x)))) : Option Instr) = _
    simp [x, guardI, orI, fR3, fR2, fAB, fA1, fRI, fMO]), fS_encR .., fW_encR ..⟩)
theorem vshl (o : R3) : Statement (.vshl o) := slotRow (.vshl o) rfl (fun hw s w =>
  ⟨row (x := encR s w 46 o.d o.a o.b o.ha o.hb (0)) (n := 46) (by rw [fOp_encR]; rfl) (by
    let x := encR s w 46 o.d o.a o.b o.ha o.hb (0)
    show (orI (guardI (decide (fV x = 0)) (.vshl (fR3 x)))
      (guardI (decide ((fV x).extractLsb' 2 2 = 0 ∧ (fV x).extractLsb' 0 2 ≠ 0)) (.vshr (fR3 x) ((fV x).extractLsb' 0 2))) : Option Instr) = _
    simp [x, guardI, orI, fR3, fR2, fAB, fA1, fRI, fMO]), fS_encR .., fW_encR ..⟩)
theorem vshr (o : R3) (t : BitVec 2) : Statement (.vshr o t) := slotRow (.vshr o t) rfl (fun hw s w =>
  ⟨row (x := encR s w 46 o.d o.a o.b o.ha o.hb ((0 : BitVec 2) ++ t)) (n := 46) (by rw [fOp_encR]; rfl) (by
    let x := encR s w 46 o.d o.a o.b o.ha o.hb ((0 : BitVec 2) ++ t)
    show (orI (guardI (decide (fV x = 0)) (.vshl (fR3 x)))
      (guardI (decide ((fV x).extractLsb' 2 2 = 0 ∧ (fV x).extractLsb' 0 2 ≠ 0)) (.vshr (fR3 x) ((fV x).extractLsb' 0 2))) : Option Instr) = _
    have ht : (decide (t = 1) || decide (t = 2)) = true := hw
    have ht' : t = 1 ∨ t = 2 := by simpa using ht
    simp only [x, fV_encR, bit3_encR, bit2_encR, bit1_encR, bit0_encR, fR3, fR2, fAB, fA1, fD_encR, fA_encR, fB_encR, bit5_encR, bit4_encR]
    rcases ht' with rfl | rfl <;> rfl), fS_encR .., fW_encR ..⟩)
theorem vcmp (o : R3) (v : BitVec 4) : Statement (.vcmp o v) := slotRow (.vcmp o v) rfl (fun hw s w =>
  ⟨row (x := encR s w 47 o.d o.a o.b o.ha o.hb (v)) (n := 47) (by rw [fOp_encR]; rfl) (by
    let x := encR s w 47 o.d o.a o.b o.ha o.hb (v)
    show (some (.vcmp (fR3 x) (fV x)) : Option Instr) = _
    simp [x, guardI, orI, fR3, fR2, fAB, fA1, fRI, fMO]), fS_encR .., fW_encR ..⟩)
theorem vsel (o : R3) (n : BitVec 3) : Statement (.vsel o n) := slotRow (.vsel o n) rfl (fun hw s w =>
  ⟨row (x := encR s w 48 o.d o.a o.b o.ha o.hb ((0 : BitVec 1) ++ n)) (n := 48) (by rw [fOp_encR]; rfl) (by
    let x := encR s w 48 o.d o.a o.b o.ha o.hb ((0 : BitVec 1) ++ n)
    show (guardI (decide (bitAt x 3 = false)) (.vsel (fR3 x) ((fV x).extractLsb' 0 3)) : Option Instr) = _
    simp [x, guardI, orI, fR3, fR2, fAB, fA1, fRI, fMO, v_r]), fS_encR .., fW_encR ..⟩)
theorem vcvt (o : R2) (v : BitVec 4) : Statement (.vcvt o v) := slotRow (.vcvt o v) rfl (fun hw s w =>
  ⟨row (x := encR s w 49 o.d o.a 0 o.ha false (v)) (n := 49) (by rw [fOp_encR]; rfl) (by
    let x := encR s w 49 o.d o.a 0 o.ha false (v)
    show (guardI (decide (fB x = 0 ∧ bitAt x 4 = false)) (.vcvt (fR2 x) (fV x)) : Option Instr) = _
    simp [x, guardI, orI, fR3, fR2, fAB, fA1, fRI, fMO]), fS_encR .., fW_encR ..⟩)
theorem vred (o : R2) (v : BitVec 4) : Statement (.vred o v) := slotRow (.vred o v) rfl (fun hw s w =>
  ⟨row (x := encR s w 50 o.d o.a 0 o.ha false (v)) (n := 50) (by rw [fOp_encR]; rfl) (by
    let x := encR s w 50 o.d o.a 0 o.ha false (v)
    show (guardI (decide (fB x = 0 ∧ bitAt x 4 = false)) (.vred (fR2 x) (fV x)) : Option Instr) = _
    simp [x, guardI, orI, fR3, fR2, fAB, fA1, fRI, fMO]), fS_encR .., fW_encR ..⟩)
theorem vperm (o : R3) : Statement (.vperm o) := slotRow (.vperm o) rfl (fun hw s w =>
  ⟨row (x := encR s w 51 o.d o.a o.b o.ha o.hb (0)) (n := 51) (by rw [fOp_encR]; rfl) (by
    let x := encR s w 51 o.d o.a o.b o.ha o.hb (0)
    show (guardI (decide (fV x = 0)) (.vperm (fR3 x)) : Option Instr) = _
    simp [x, guardI, orI, fR3, fR2, fAB, fA1, fRI, fMO]), fS_encR .., fW_encR ..⟩)
theorem vbcast (o : R3) (lane : Bool) : Statement (.vbcast o lane) := slotRow (.vbcast o lane) rfl (fun hw s w =>
  ⟨row (x := encR s w 52 o.d o.a o.b o.ha o.hb ((0 : BitVec 3) ++ BitVec.ofBool lane)) (n := 52) (by rw [fOp_encR]; rfl) (by
    let x := encR s w 52 o.d o.a o.b o.ha o.hb ((0 : BitVec 3) ++ BitVec.ofBool lane)
    show (guardI (decide ((fV x).extractLsb' 1 3 = 0)) (.vbcast (fR3 x) (bitAt x 0)) : Option Instr) = _
    simp [x, guardI, orI, fR3, fR2, fAB, fA1, fRI, fMO, v_z]), fS_encR .., fW_encR ..⟩)
theorem vexp2 (o : R2) : Statement (.vexp2 o) := slotRow (.vexp2 o) rfl (fun hw s w =>
  ⟨row (x := encR s w 53 o.d o.a 0 o.ha false (0)) (n := 53) (by rw [fOp_encR]; rfl) (by
    let x := encR s w 53 o.d o.a 0 o.ha false (0)
    show (orI (guardI (decide (fB x = 0 ∧ bitAt x 4 = false ∧ fV x = 0)) (.vexp2 (fR2 x)))
      (orI (guardI (decide (fB x = 0 ∧ bitAt x 4 = false ∧ fV x = 1)) (.vlog2 (fR2 x)))
      (orI (guardI (decide (fB x = 0 ∧ bitAt x 4 = false ∧ fV x = 2)) (.vrcp (fR2 x)))
      (guardI (decide (fB x = 0 ∧ bitAt x 4 = false ∧ fV x = 3)) (.vrsq (fR2 x))))) : Option Instr) = _
    simp [x, guardI, orI, fR3, fR2, fAB, fA1, fRI, fMO]), fS_encR .., fW_encR ..⟩)
theorem vlog2 (o : R2) : Statement (.vlog2 o) := slotRow (.vlog2 o) rfl (fun hw s w =>
  ⟨row (x := encR s w 53 o.d o.a 0 o.ha false (1)) (n := 53) (by rw [fOp_encR]; rfl) (by
    let x := encR s w 53 o.d o.a 0 o.ha false (1)
    show (orI (guardI (decide (fB x = 0 ∧ bitAt x 4 = false ∧ fV x = 0)) (.vexp2 (fR2 x)))
      (orI (guardI (decide (fB x = 0 ∧ bitAt x 4 = false ∧ fV x = 1)) (.vlog2 (fR2 x)))
      (orI (guardI (decide (fB x = 0 ∧ bitAt x 4 = false ∧ fV x = 2)) (.vrcp (fR2 x)))
      (guardI (decide (fB x = 0 ∧ bitAt x 4 = false ∧ fV x = 3)) (.vrsq (fR2 x))))) : Option Instr) = _
    simp [x, guardI, orI, fR3, fR2, fAB, fA1, fRI, fMO]), fS_encR .., fW_encR ..⟩)
theorem vrcp (o : R2) : Statement (.vrcp o) := slotRow (.vrcp o) rfl (fun hw s w =>
  ⟨row (x := encR s w 53 o.d o.a 0 o.ha false (2)) (n := 53) (by rw [fOp_encR]; rfl) (by
    let x := encR s w 53 o.d o.a 0 o.ha false (2)
    show (orI (guardI (decide (fB x = 0 ∧ bitAt x 4 = false ∧ fV x = 0)) (.vexp2 (fR2 x)))
      (orI (guardI (decide (fB x = 0 ∧ bitAt x 4 = false ∧ fV x = 1)) (.vlog2 (fR2 x)))
      (orI (guardI (decide (fB x = 0 ∧ bitAt x 4 = false ∧ fV x = 2)) (.vrcp (fR2 x)))
      (guardI (decide (fB x = 0 ∧ bitAt x 4 = false ∧ fV x = 3)) (.vrsq (fR2 x))))) : Option Instr) = _
    simp [x, guardI, orI, fR3, fR2, fAB, fA1, fRI, fMO]), fS_encR .., fW_encR ..⟩)
theorem vrsq (o : R2) : Statement (.vrsq o) := slotRow (.vrsq o) rfl (fun hw s w =>
  ⟨row (x := encR s w 53 o.d o.a 0 o.ha false (3)) (n := 53) (by rw [fOp_encR]; rfl) (by
    let x := encR s w 53 o.d o.a 0 o.ha false (3)
    show (orI (guardI (decide (fB x = 0 ∧ bitAt x 4 = false ∧ fV x = 0)) (.vexp2 (fR2 x)))
      (orI (guardI (decide (fB x = 0 ∧ bitAt x 4 = false ∧ fV x = 1)) (.vlog2 (fR2 x)))
      (orI (guardI (decide (fB x = 0 ∧ bitAt x 4 = false ∧ fV x = 2)) (.vrcp (fR2 x)))
      (guardI (decide (fB x = 0 ∧ bitAt x 4 = false ∧ fV x = 3)) (.vrsq (fR2 x))))) : Option Instr) = _
    simp [x, guardI, orI, fR3, fR2, fAB, fA1, fRI, fMO]), fS_encR .., fW_encR ..⟩)
theorem vquant (o : R3) (int : Bool) : Statement (.vquant o int) := slotRow (.vquant o int) rfl (fun hw s w =>
  ⟨row (x := encR s w 54 o.d o.a o.b o.ha o.hb ((0 : BitVec 3) ++ BitVec.ofBool int)) (n := 54) (by rw [fOp_encR]; rfl) (by
    let x := encR s w 54 o.d o.a o.b o.ha o.hb ((0 : BitVec 3) ++ BitVec.ofBool int)
    show (guardI (decide ((fV x).extractLsb' 1 3 = 0)) (.vquant (fR3 x) (bitAt x 0)) : Option Instr) = _
    simp [x, guardI, orI, fR3, fR2, fAB, fA1, fRI, fMO, v_z]), fS_encR .., fW_encR ..⟩)
theorem vdeq (o : R3) (fmt : BitVec 4) : Statement (.vdeq o fmt) := slotRow (.vdeq o fmt) rfl (fun hw s w =>
  ⟨row (x := encR s w 55 o.d o.a o.b o.ha o.hb (fmt)) (n := 55) (by rw [fOp_encR]; rfl) (by
    let x := encR s w 55 o.d o.a o.b o.ha o.hb (fmt)
    show (some (.vdeq (fR3 x) (fV x)) : Option Instr) = _
    simp [x, guardI, orI, fR3, fR2, fAB, fA1, fRI, fMO]), fS_encR .., fW_encR ..⟩)
theorem qop (o : R3) (v : BitVec 4) : Statement (.qop o v) := slotRow (.qop o v) rfl (fun hw s w =>
  ⟨row (x := encR s w 56 o.d o.a o.b o.ha o.hb (v)) (n := 56) (by rw [fOp_encR]; rfl) (by
    let x := encR s w 56 o.d o.a o.b o.ha o.hb (v)
    show (some (.qop (fR3 x) (fV x)) : Option Instr) = _
    simp [x, guardI, orI, fR3, fR2, fAB, fA1, fRI, fMO]), fS_encR .., fW_encR ..⟩)
theorem gset (o : R3) (ofs : Bool) : Statement (.gset o ofs) := slotRow (.gset o ofs) rfl (fun hw s w =>
  ⟨row (x := encR s w 61 o.d o.a o.b o.ha o.hb ((0 : BitVec 3) ++ BitVec.ofBool ofs)) (n := 61) (by rw [fOp_encR]; rfl) (by
    let x := encR s w 61 o.d o.a o.b o.ha o.hb ((0 : BitVec 3) ++ BitVec.ofBool ofs)
    show (guardI (decide ((fV x).extractLsb' 1 3 = 0)) (.gset (fR3 x) (bitAt x 0)) : Option Instr) = _
    simp [x, guardI, orI, fR3, fR2, fAB, fA1, fRI, fMO, v_z]), fS_encR .., fW_encR ..⟩)
theorem gseed (o : RI) : Statement (.gseed o) := slotRow (.gseed o) rfl (fun hw s w =>
  ⟨row (x := encI s w 62 o.d o.a o.imm) (n := 62) (by rw [fOp_encI]; rfl) (by
    let x := encI s w 62 o.d o.a o.imm
    show (some (.gseed (fRI x)) : Option Instr) = _
    simp [x, guardI, orI, fR3, fR2, fAB, fA1, fRI, fMO]), fS_encI .., fW_encI ..⟩)
theorem ggen (o : R3) (t : Bool) (c : Bool) : Statement (.ggen o t c) := slotRow (.ggen o t c) rfl (fun hw s w =>
  ⟨row (x := encR s w 63 o.d o.a o.b o.ha o.hb ((0 : BitVec 2) ++ BitVec.ofBool t ++ BitVec.ofBool c)) (n := 63) (by rw [fOp_encR]; rfl) (by
    let x := encR s w 63 o.d o.a o.b o.ha o.hb ((0 : BitVec 2) ++ BitVec.ofBool t ++ BitVec.ofBool c)
    show (guardI (decide ((fV x).extractLsb' 2 2 = 0)) (.ggen (fR3 x) (bitAt x 1) (bitAt x 0)) : Option Instr) = _
    simp [x, guardI, orI, fR3, fR2, fAB, fA1, fRI, fMO, v_tc]), fS_encR .., fW_encR ..⟩)
theorem cpy (o : A1) : Statement (.cpy o) := slotRow (.cpy o) rfl (fun hw s w =>
  ⟨row (x := encR s w 84 0 o.a 0 o.ha false (0)) (n := 84) (by rw [fOp_encR]; rfl) (by
    let x := encR s w 84 0 o.a 0 o.ha false (0)
    show (guardI (decide (fD x = 0 ∧ fB x = 0 ∧ bitAt x 4 = false ∧ fV x = 0)) (.cpy (fA1 x)) : Option Instr) = _
    simp [x, guardI, orI, fR3, fR2, fAB, fA1, fRI, fMO]), fS_encR .., fW_encR ..⟩)
theorem cpys (o : A1) : Statement (.cpys o) := slotRow (.cpys o) rfl (fun hw s w =>
  ⟨row (x := encR s w 85 0 o.a 0 o.ha false (0)) (n := 85) (by rw [fOp_encR]; rfl) (by
    let x := encR s w 85 0 o.a 0 o.ha false (0)
    show (guardI (decide (fD x = 0 ∧ fB x = 0 ∧ bitAt x 4 = false ∧ fV x = 0)) (.cpys (fA1 x)) : Option Instr) = _
    simp [x, guardI, orI, fR3, fR2, fAB, fA1, fRI, fMO]), fS_encR .., fW_encR ..⟩)
theorem cpyg (o : A1) : Statement (.cpyg o) := slotRow (.cpyg o) rfl (fun hw s w =>
  ⟨row (x := encR s w 86 0 o.a 0 o.ha false (0)) (n := 86) (by rw [fOp_encR]; rfl) (by
    let x := encR s w 86 0 o.a 0 o.ha false (0)
    show (guardI (decide (fD x = 0 ∧ fB x = 0 ∧ bitAt x 4 = false ∧ fV x = 0)) (.cpyg (fA1 x)) : Option Instr) = _
    simp [x, guardI, orI, fR3, fR2, fAB, fA1, fRI, fMO]), fS_encR .., fW_encR ..⟩)
theorem cpyr (o : A1) : Statement (.cpyr o) := slotRow (.cpyr o) rfl (fun hw s w =>
  ⟨row (x := encR s w 87 0 o.a 0 o.ha false (0)) (n := 87) (by rw [fOp_encR]; rfl) (by
    let x := encR s w 87 0 o.a 0 o.ha false (0)
    show (guardI (decide (fD x = 0 ∧ fB x = 0 ∧ bitAt x 4 = false ∧ fV x = 0)) (.cpyr (fA1 x)) : Option Instr) = _
    simp [x, guardI, orI, fR3, fR2, fAB, fA1, fRI, fMO]), fS_encR .., fW_encR ..⟩)
theorem cpyw (o : A1) : Statement (.cpyw o) := slotRow (.cpyw o) rfl (fun hw s w =>
  ⟨row (x := encR s w 88 0 o.a 0 o.ha false (0)) (n := 88) (by rw [fOp_encR]; rfl) (by
    let x := encR s w 88 0 o.a 0 o.ha false (0)
    show (guardI (decide (fD x = 0 ∧ fB x = 0 ∧ bitAt x 4 = false ∧ fV x = 0)) (.cpyw (fA1 x)) : Option Instr) = _
    simp [x, guardI, orI, fR3, fR2, fAB, fA1, fRI, fMO]), fS_encR .., fW_encR ..⟩)
theorem ld (o : MO) (size : BitVec 2) : Statement (.ld o size) := slotRow (.ld o size) rfl (fun hw s w =>
  ⟨row (x := encM s w 64 o.d o.base o.ofs size o.ha) (n := 64) (by rw [fOp_encM]; rfl) (by
    let x := encM s w 64 o.d o.base o.ofs size o.ha
    show (some (.ld (fMO x) (x.extractLsb' 1 2)) : Option Instr) = _
    simp [x, guardI, orI, fR3, fR2, fAB, fA1, fRI, fMO]), fS_encM .., fW_encM ..⟩)
theorem st (o : MO) (size : BitVec 2) : Statement (.st o size) := slotRow (.st o size) rfl (fun hw s w =>
  ⟨row (x := encM s w 65 o.d o.base o.ofs size o.ha) (n := 65) (by rw [fOp_encM]; rfl) (by
    let x := encM s w 65 o.d o.base o.ofs size o.ha
    show (some (.st (fMO x) (x.extractLsb' 1 2)) : Option Instr) = _
    simp [x, guardI, orI, fR3, fR2, fAB, fA1, fRI, fMO]), fS_encM .., fW_encM ..⟩)
theorem ldv (o : MO) : Statement (.ldv o) := slotRow (.ldv o) rfl (fun hw s w =>
  ⟨row (x := encM s w 66 o.d o.base o.ofs 0 o.ha) (n := 66) (by rw [fOp_encM]; rfl) (by
    let x := encM s w 66 o.d o.base o.ofs 0 o.ha
    show (guardI (decide (x.extractLsb' 1 2 = 0)) (.ldv (fMO x)) : Option Instr) = _
    simp [x, guardI, orI, fR3, fR2, fAB, fA1, fRI, fMO]), fS_encM .., fW_encM ..⟩)
theorem stv (o : MO) : Statement (.stv o) := slotRow (.stv o) rfl (fun hw s w =>
  ⟨row (x := encM s w 67 o.d o.base o.ofs 0 o.ha) (n := 67) (by rw [fOp_encM]; rfl) (by
    let x := encM s w 67 o.d o.base o.ofs 0 o.ha
    show (guardI (decide (x.extractLsb' 1 2 = 0)) (.stv (fMO x)) : Option Instr) = _
    simp [x, guardI, orI, fR3, fR2, fAB, fA1, fRI, fMO]), fS_encM .., fW_encM ..⟩)
theorem ldg (o : R3) (v : BitVec 4) : Statement (.ldg o v) := slotRow (.ldg o v) rfl (fun hw s w =>
  ⟨row (x := encR s w 68 o.d o.a o.b o.ha o.hb (v)) (n := 68) (by rw [fOp_encR]; rfl) (by
    let x := encR s w 68 o.d o.a o.b o.ha o.hb (v)
    show (some (.ldg (fR3 x) (fV x)) : Option Instr) = _
    simp [x, guardI, orI, fR3, fR2, fAB, fA1, fRI, fMO]), fS_encR .., fW_encR ..⟩)
theorem stg (o : R3) (v : BitVec 4) : Statement (.stg o v) := slotRow (.stg o v) rfl (fun hw s w =>
  ⟨row (x := encR s w 69 o.d o.a o.b o.ha o.hb (v)) (n := 69) (by rw [fOp_encR]; rfl) (by
    let x := encR s w 69 o.d o.a o.b o.ha o.hb (v)
    show (some (.stg (fR3 x) (fV x)) : Option Instr) = _
    simp [x, guardI, orI, fR3, fR2, fAB, fA1, fRI, fMO]), fS_encR .., fW_encR ..⟩)
theorem probe (o : R3) (w0 : Bool) : Statement (.probe o w0) := slotRow (.probe o w0) rfl (fun hw s w =>
  ⟨row (x := encR s w 70 o.d o.a o.b o.ha o.hb ((0 : BitVec 3) ++ BitVec.ofBool w0)) (n := 70) (by rw [fOp_encR]; rfl) (by
    let x := encR s w 70 o.d o.a o.b o.ha o.hb ((0 : BitVec 3) ++ BitVec.ofBool w0)
    show (guardI (decide ((fV x).extractLsb' 1 3 = 0)) (.probe (fR3 x) (bitAt x 0)) : Option Instr) = _
    simp [x, guardI, orI, fR3, fR2, fAB, fA1, fRI, fMO, v_z]), fS_encR .., fW_encR ..⟩)
theorem lock (o : R3) (l1 : Bool) : Statement (.lock o l1) := slotRow (.lock o l1) rfl (fun hw s w =>
  ⟨row (x := encR s w 71 o.d o.a o.b o.ha o.hb ((0 : BitVec 3) ++ BitVec.ofBool l1)) (n := 71) (by rw [fOp_encR]; rfl) (by
    let x := encR s w 71 o.d o.a o.b o.ha o.hb ((0 : BitVec 3) ++ BitVec.ofBool l1)
    show (orI (guardI (decide ((fV x).extractLsb' 1 3 = 0)) (.lock (fR3 x) (bitAt x 0)))
      (guardI (decide (fD x = 0 ∧ fV x = 2)) (.unlock (fAB x))) : Option Instr) = _
    simp [x, guardI, orI, fR3, fR2, fAB, fA1, fRI, fMO, v_z]), fS_encR .., fW_encR ..⟩)
theorem unlock (o : AB) : Statement (.unlock o) := slotRow (.unlock o) rfl (fun hw s w =>
  ⟨row (x := encR s w 71 0 o.a o.b o.ha o.hb (2)) (n := 71) (by rw [fOp_encR]; rfl) (by
    let x := encR s w 71 0 o.a o.b o.ha o.hb (2)
    show (orI (guardI (decide ((fV x).extractLsb' 1 3 = 0)) (.lock (fR3 x) (bitAt x 0)))
      (guardI (decide (fD x = 0 ∧ fV x = 2)) (.unlock (fAB x))) : Option Instr) = _
    simp [x, guardI, orI, fR3, fR2, fAB, fA1, fRI, fMO]), fS_encR .., fW_encR ..⟩)
theorem pref (base : BitVec 5) (ofs : BitVec 8) (l2 : Bool) (ha : Bool) : Statement (.pref base ofs l2 ha) := slotRow (.pref base ofs l2 ha) rfl (fun hw s w =>
  ⟨row (x := encM s w 72 0 base ofs ((0 : BitVec 1) ++ BitVec.ofBool l2) ha) (n := 72) (by rw [fOp_encM]; rfl) (by
    let x := encM s w 72 0 base ofs ((0 : BitVec 1) ++ BitVec.ofBool l2) ha
    show (guardI (decide (fD x = 0 ∧ bitAt x 2 = false)) (.pref (fA x) (x.extractLsb' 3 8) (bitAt x 1) (bitAt x 0)) : Option Instr) = _
    simp [x, guardI, v_l]), fS_encM .., fW_encM ..⟩)
theorem drain : Statement (.drain) := slotRow (.drain) rfl (fun hw s w =>
  ⟨row (x := encJ s w 73 0) (n := 73) (by rw [fOp_encJ]; rfl) (by
    let x := encJ s w 73 0
    show (guardI (decide (x.extractLsb' 0 21 = 0)) (.drain) : Option Instr) = _
    simp [x, guardI, orI, fR3, fR2, fAB, fA1, fRI, fMO]), fS_encJ .., fW_encJ ..⟩)
theorem fenceo : Statement (.fenceo) := slotRow (.fenceo) rfl (fun hw s w =>
  ⟨row (x := encJ s w 74 0) (n := 74) (by rw [fOp_encJ]; rfl) (by
    let x := encJ s w 74 0
    show (orI (guardI (decide (x.extractLsb' 0 21 = 0)) (.fenceo))
      (guardI (decide (fD x = 0)) (.fencer (fAB x) (fV x))) : Option Instr) = _
    simp [x, guardI, orI, fR3, fR2, fAB, fA1, fRI, fMO]), fS_encJ .., fW_encJ ..⟩)
theorem fencer (o : AB) (v : BitVec 4) : Statement (.fencer o v) := slotRow (.fencer o v) rfl (fun hw s w =>
  ⟨row (x := encR s w 74 0 o.a o.b o.ha o.hb (v)) (n := 74) (by rw [fOp_encR]; rfl) (by
    let x := encR s w 74 0 o.a o.b o.ha o.hb (v)
    show (orI (guardI (decide (x.extractLsb' 0 21 = 0)) (.fenceo))
      (guardI (decide (fD x = 0)) (.fencer (fAB x) (fV x))) : Option Instr) = _
    have hv : v ≠ 0 := by
      rintro rfl
      have h2 : (decide ((0 : BitVec 4) = 1) || decide ((0 : BitVec 4) = 2) || ((decide ((0 : BitVec 4) = 3) || decide ((0 : BitVec 4) = 4))
      && decide (o.b = 0) && !o.hb)) = true := hw
      simp at h2
    have hl : x.extractLsb' 0 21 ≠ 0 := by
      intro h
      have h3 := fV_of_low x 0 h
      simp [x] at h3
      exact hv h3
    have hg : decide (x.extractLsb' 0 21 = 0) = false := by simpa using hl
    rw [hg]
    simp [x, guardI, orI, fAB]), fS_encR .., fW_encR ..⟩)
theorem atom (o : R3) (v : BitVec 4) : Statement (.atom o v) := slotRow (.atom o v) rfl (fun hw s w =>
  ⟨row (x := encR s w 75 o.d o.a o.b o.ha o.hb (v)) (n := 75) (by rw [fOp_encR]; rfl) (by
    let x := encR s w 75 o.d o.a o.b o.ha o.hb (v)
    show (some (.atom (fR3 x) (fV x)) : Option Instr) = _
    simp [x, guardI, orI, fR3, fR2, fAB, fA1, fRI, fMO]), fS_encR .., fW_encR ..⟩)
theorem ratom (o : R3) (v : BitVec 4) : Statement (.ratom o v) := slotRow (.ratom o v) rfl (fun hw s w =>
  ⟨row (x := encR s w 76 o.d o.a o.b o.ha o.hb (v)) (n := 76) (by rw [fOp_encR]; rfl) (by
    let x := encR s w 76 o.d o.a o.b o.ha o.hb (v)
    show (some (.ratom (fR3 x) (fV x)) : Option Instr) = _
    simp [x, guardI, orI, fR3, fR2, fAB, fA1, fRI, fMO]), fS_encR .., fW_encR ..⟩)
theorem rld (o : MO) (size : BitVec 2) : Statement (.rld o size) := slotRow (.rld o size) rfl (fun hw s w =>
  ⟨row (x := encM s w 77 o.d o.base o.ofs size o.ha) (n := 77) (by rw [fOp_encM]; rfl) (by
    let x := encM s w 77 o.d o.base o.ofs size o.ha
    show (some (.rld (fMO x) (x.extractLsb' 1 2)) : Option Instr) = _
    simp [x, guardI, orI, fR3, fR2, fAB, fA1, fRI, fMO]), fS_encM .., fW_encM ..⟩)
theorem rst (o : R3) (v : BitVec 4) : Statement (.rst o v) := slotRow (.rst o v) rfl (fun hw s w =>
  ⟨row (x := encR s w 78 o.d o.a o.b o.ha o.hb (v)) (n := 78) (by rw [fOp_encR]; rfl) (by
    let x := encR s w 78 o.d o.a o.b o.ha o.hb (v)
    show (some (.rst (fR3 x) (fV x)) : Option Instr) = _
    simp [x, guardI, orI, fR3, fR2, fAB, fA1, fRI, fMO]), fS_encR .., fW_encR ..⟩)
theorem stver (o : R3) : Statement (.stver o) := slotRow (.stver o) rfl (fun hw s w =>
  ⟨row (x := encR s w 79 o.d o.a o.b o.ha o.hb (0)) (n := 79) (by rw [fOp_encR]; rfl) (by
    let x := encR s w 79 o.d o.a o.b o.ha o.hb (0)
    show (guardI (decide (fV x = 0)) (.stver (fR3 x)) : Option Instr) = _
    simp [x, guardI, orI, fR3, fR2, fAB, fA1, fRI, fMO]), fS_encR .., fW_encR ..⟩)
theorem owne (o : AB) : Statement (.owne o) := slotRow (.owne o) rfl (fun hw s w =>
  ⟨row (x := encR s w 80 0 o.a o.b o.ha o.hb (0)) (n := 80) (by rw [fOp_encR]; rfl) (by
    let x := encR s w 80 0 o.a o.b o.ha o.hb (0)
    show (orI (guardI (decide (fD x = 0 ∧ fV x = 0)) (.owne (fAB x)))
      (guardI (decide (fD x = 0 ∧ fV x = 1)) (.ownt (fAB x))) : Option Instr) = _
    simp [x, guardI, orI, fR3, fR2, fAB, fA1, fRI, fMO]), fS_encR .., fW_encR ..⟩)
theorem ownt (o : AB) : Statement (.ownt o) := slotRow (.ownt o) rfl (fun hw s w =>
  ⟨row (x := encR s w 80 0 o.a o.b o.ha o.hb (1)) (n := 80) (by rw [fOp_encR]; rfl) (by
    let x := encR s w 80 0 o.a o.b o.ha o.hb (1)
    show (orI (guardI (decide (fD x = 0 ∧ fV x = 0)) (.owne (fAB x)))
      (guardI (decide (fD x = 0 ∧ fV x = 1)) (.ownt (fAB x))) : Option Instr) = _
    simp [x, guardI, orI, fR3, fR2, fAB, fA1, fRI, fMO]), fS_encR .., fW_encR ..⟩)
theorem barm (o : AB) : Statement (.barm o) := slotRow (.barm o) rfl (fun hw s w =>
  ⟨row (x := encR s w 81 0 o.a o.b o.ha o.hb (0)) (n := 81) (by rw [fOp_encR]; rfl) (by
    let x := encR s w 81 0 o.a o.b o.ha o.hb (0)
    show (guardI (decide (fD x = 0 ∧ fV x = 0)) (.barm (fAB x)) : Option Instr) = _
    simp [x, guardI, orI, fR3, fR2, fAB, fA1, fRI, fMO]), fS_encR .., fW_encR ..⟩)
theorem cwait (o : AB) : Statement (.cwait o) := slotRow (.cwait o) rfl (fun hw s w =>
  ⟨row (x := encR s w 82 0 o.a o.b o.ha o.hb (0)) (n := 82) (by rw [fOp_encR]; rfl) (by
    let x := encR s w 82 0 o.a o.b o.ha o.hb (0)
    show (guardI (decide (fD x = 0 ∧ fV x = 0)) (.cwait (fAB x)) : Option Instr) = _
    simp [x, guardI, orI, fR3, fR2, fAB, fA1, fRI, fMO]), fS_encR .., fW_encR ..⟩)
theorem mcall (o : AB) (bank : BitVec 2) : Statement (.mcall o bank) := slotRow (.mcall o bank) rfl (fun hw s w =>
  ⟨row (x := encR s w 90 0 o.a o.b o.ha o.hb ((0 : BitVec 2) ++ bank)) (n := 90) (by rw [fOp_encR]; rfl) (by
    let x := encR s w 90 0 o.a o.b o.ha o.hb ((0 : BitVec 2) ++ bank)
    show (guardI (decide (fD x = 0 ∧ (fV x).extractLsb' 2 2 = 0)) (.mcall (fAB x) ((fV x).extractLsb' 0 2)) : Option Instr) = _
    simp [x, guardI, orI, fR3, fR2, fAB, fA1, fRI, fMO, v_n]), fS_encR .., fW_encR ..⟩)
theorem mwait (o : A1) (bank : BitVec 2) : Statement (.mwait o bank) := slotRow (.mwait o bank) rfl (fun hw s w =>
  ⟨row (x := encR s w 91 0 o.a 0 o.ha false ((0 : BitVec 2) ++ bank)) (n := 91) (by rw [fOp_encR]; rfl) (by
    let x := encR s w 91 0 o.a 0 o.ha false ((0 : BitVec 2) ++ bank)
    show (guardI (decide (fD x = 0 ∧ fB x = 0 ∧ bitAt x 4 = false ∧ (fV x).extractLsb' 2 2 = 0)) (.mwait (fA1 x) ((fV x).extractLsb' 0 2)) : Option Instr) = _
    simp [x, guardI, orI, fR3, fR2, fAB, fA1, fRI, fMO, v_n]), fS_encR .., fW_encR ..⟩)
theorem mver (d : BitVec 5) (bank : BitVec 2) : Statement (.mver d bank) := slotRow (.mver d bank) rfl (fun hw s w =>
  ⟨row (x := encR s w 92 d 0 0 false false ((0 : BitVec 2) ++ bank)) (n := 92) (by rw [fOp_encR]; rfl) (by
    let x := encR s w 92 d 0 0 false false ((0 : BitVec 2) ++ bank)
    show (guardI (decide (fA x = 0 ∧ fB x = 0 ∧ bitAt x 5 = false ∧ bitAt x 4 = false ∧ (fV x).extractLsb' 2 2 = 0)) (.mver (fD x) ((fV x).extractLsb' 0 2)) : Option Instr) = _
    simp [x, guardI, orI, fR3, fR2, fAB, fA1, fRI, fMO, v_n]), fS_encR .., fW_encR ..⟩)
theorem mpwr (o : AB) : Statement (.mpwr o) := slotRow (.mpwr o) rfl (fun hw s w =>
  ⟨row (x := encR s w 93 0 o.a o.b o.ha o.hb (0)) (n := 93) (by rw [fOp_encR]; rfl) (by
    let x := encR s w 93 0 o.a o.b o.ha o.hb (0)
    show (guardI (decide (fD x = 0 ∧ fV x = 0)) (.mpwr (fAB x)) : Option Instr) = _
    simp [x, guardI, orI, fR3, fR2, fAB, fA1, fRI, fMO]), fS_encR .., fW_encR ..⟩)
theorem mprd (o : R2) : Statement (.mprd o) := slotRow (.mprd o) rfl (fun hw s w =>
  ⟨row (x := encR s w 94 o.d o.a 0 o.ha false (0)) (n := 94) (by rw [fOp_encR]; rfl) (by
    let x := encR s w 94 o.d o.a 0 o.ha false (0)
    show (guardI (decide (fB x = 0 ∧ bitAt x 4 = false ∧ fV x = 0)) (.mprd (fR2 x)) : Option Instr) = _
    simp [x, guardI, orI, fR3, fR2, fAB, fA1, fRI, fMO]), fS_encR .., fW_encR ..⟩)
theorem br (ofs : BitVec 21) : Statement (.br ofs) := slotRow (.br ofs) rfl (fun hw s w =>
  ⟨row (x := encJ s w 96 ofs) (n := 96) (by rw [fOp_encJ]; rfl) (by
    let x := encJ s w 96 ofs
    show (some (.br (x.extractLsb' 0 21)) : Option Instr) = _
    simp [x, guardI, orI, fR3, fR2, fAB, fA1, fRI, fMO]), fS_encJ .., fW_encJ ..⟩)
theorem brl (ofs : BitVec 21) : Statement (.brl ofs) := slotRow (.brl ofs) rfl (fun hw s w =>
  ⟨row (x := encJ s w 97 ofs) (n := 97) (by rw [fOp_encJ]; rfl) (by
    let x := encJ s w 97 ofs
    show (some (.brl (x.extractLsb' 0 21)) : Option Instr) = _
    simp [x, guardI, orI, fR3, fR2, fAB, fA1, fRI, fMO]), fS_encJ .., fW_encJ ..⟩)
theorem jr (o : A1) : Statement (.jr o) := slotRow (.jr o) rfl (fun hw s w =>
  ⟨row (x := encR s w 98 0 o.a 0 o.ha false (0)) (n := 98) (by rw [fOp_encR]; rfl) (by
    let x := encR s w 98 0 o.a 0 o.ha false (0)
    show (orI (guardI (decide (fD x = 0 ∧ fB x = 0 ∧ bitAt x 4 = false ∧ fV x = 0)) (.jr (fA1 x)))
      (orI (guardI (decide (x.extractLsb' 0 21 = 1)) (.ret))
      (guardI (decide (fB x = 0 ∧ bitAt x 4 = false ∧ fV x = 2)) (.jrL (fR2 x)))) : Option Instr) = _
    simp [x, guardI, orI, fR3, fR2, fAB, fA1, fRI, fMO]), fS_encR .., fW_encR ..⟩)
theorem ret : Statement (.ret) := slotRow (.ret) rfl (fun hw s w =>
  ⟨row (x := encJ s w 98 1) (n := 98) (by rw [fOp_encJ]; rfl) (by
    let x := encJ s w 98 1
    show (orI (guardI (decide (fD x = 0 ∧ fB x = 0 ∧ bitAt x 4 = false ∧ fV x = 0)) (.jr (fA1 x)))
      (orI (guardI (decide (x.extractLsb' 0 21 = 1)) (.ret))
      (guardI (decide (fB x = 0 ∧ bitAt x 4 = false ∧ fV x = 2)) (.jrL (fR2 x)))) : Option Instr) = _
    have h1 : fV x = 1 := by
      show x.extractLsb' 0 4 = 1
      rw [show x.extractLsb' 0 4 = BitVec.extractLsb' 0 4 (1 : BitVec 21) from part_encJ _ _ _ _ 0 4 (by decide)]
      decide
    have hg : decide (fD x = 0 ∧ fB x = 0 ∧ bitAt x 4 = false ∧ fV x = 0) = false := by simp [h1]
    have h2 : x.extractLsb' 0 21 = 1 := p_encJ ..
    rw [hg, h2]
    simp [guardI, orI]), fS_encJ .., fW_encJ ..⟩)
theorem jrL (o : R2) : Statement (.jrL o) := slotRow (.jrL o) rfl (fun hw s w =>
  ⟨row (x := encR s w 98 o.d o.a 0 o.ha false (2)) (n := 98) (by rw [fOp_encR]; rfl) (by
    let x := encR s w 98 o.d o.a 0 o.ha false (2)
    show (orI (guardI (decide (fD x = 0 ∧ fB x = 0 ∧ bitAt x 4 = false ∧ fV x = 0)) (.jr (fA1 x)))
      (orI (guardI (decide (x.extractLsb' 0 21 = 1)) (.ret))
      (guardI (decide (fB x = 0 ∧ bitAt x 4 = false ∧ fV x = 2)) (.jrL (fR2 x)))) : Option Instr) = _
    have hl : x.extractLsb' 0 21 ≠ 1 := by
      intro h
      have h3 := fV_of_low x 1 h
      have h4 : fV x = 2 := fV_encR ..
      rw [h4] at h3
      exact absurd h3 (by decide)
    have hg : decide (x.extractLsb' 0 21 = 1) = false := by simpa using hl
    rw [hg]
    simp [x, guardI, orI, fR2]), fS_encR .., fW_encR ..⟩)
theorem loop (ls : BitVec 3) (a : BitVec 5) (ofs : BitVec 11) : Statement (.loop ls a ofs) := slotRow (.loop ls a ofs) rfl (fun hw s w =>
  ⟨row (x := encI s w 99 ((0 : BitVec 2) ++ ls) a ofs) (n := 99) (by rw [fOp_encI]; rfl) (by
    let x := encI s w 99 ((0 : BitVec 2) ++ ls) a ofs
    show (guardI (decide (x.extractLsb' 19 2 = 0)) (.loop (x.extractLsb' 16 3) (fA x) (x.extractLsb' 0 11)) : Option Instr) = _
    have h1 : x.extractLsb' 19 2 = 0 := (dpart_encI _ _ _ _ _ _ 3 2 (by decide)).trans (v_ls ls).1
    have h2 : x.extractLsb' 16 3 = ls := (dpart_encI _ _ _ _ _ _ 0 3 (by decide)).trans (v_ls ls).2
    rw [h1, h2]
    simp [x, guardI]), fS_encI .., fW_encI ..⟩)
theorem bucket (o : R3) : Statement (.bucket o) := slotRow (.bucket o) rfl (fun hw s w =>
  ⟨row (x := encR s w 100 o.d o.a o.b o.ha o.hb (0)) (n := 100) (by rw [fOp_encR]; rfl) (by
    let x := encR s w 100 o.d o.a o.b o.ha o.hb (0)
    show (guardI (decide (fV x = 0)) (.bucket (fR3 x)) : Option Instr) = _
    simp [x, guardI, orI, fR3, fR2, fAB, fA1, fRI, fMO]), fS_encR .., fW_encR ..⟩)
theorem nextt (o : AB) : Statement (.nextt o) := slotRow (.nextt o) rfl (fun hw s w =>
  ⟨row (x := encR s w 101 0 o.a o.b o.ha o.hb (0)) (n := 101) (by rw [fOp_encR]; rfl) (by
    let x := encR s w 101 0 o.a o.b o.ha o.hb (0)
    show (guardI (decide (fD x = 0 ∧ fV x = 0)) (.nextt (fAB x)) : Option Instr) = _
    simp [x, guardI, orI, fR3, fR2, fAB, fA1, fRI, fMO]), fS_encR .., fW_encR ..⟩)
theorem suspend (o : A1) (v : BitVec 4) : Statement (.suspend o v) := slotRow (.suspend o v) rfl (fun hw s w =>
  ⟨row (x := encR s w 102 0 o.a 0 o.ha false (v)) (n := 102) (by rw [fOp_encR]; rfl) (by
    let x := encR s w 102 0 o.a 0 o.ha false (v)
    show (guardI (decide (fD x = 0 ∧ fB x = 0 ∧ bitAt x 4 = false)) (.suspend (fA1 x) (fV x)) : Option Instr) = _
    simp [x, guardI, orI, fR3, fR2, fAB, fA1, fRI, fMO]), fS_encR .., fW_encR ..⟩)
theorem tend : Statement (.tend) := slotRow (.tend) rfl (fun hw s w =>
  ⟨row (x := encJ s w 103 0) (n := 103) (by rw [fOp_encJ]; rfl) (by
    let x := encJ s w 103 0
    show (guardI (decide (x.extractLsb' 0 21 = 0)) (.tend) : Option Instr) = _
    simp [x, guardI, orI, fR3, fR2, fAB, fA1, fRI, fMO]), fS_encJ .., fW_encJ ..⟩)
theorem launch (o : R3) : Statement (.launch o) := slotRow (.launch o) rfl (fun hw s w =>
  ⟨row (x := encR s w 104 o.d o.a o.b o.ha o.hb (0)) (n := 104) (by rw [fOp_encR]; rfl) (by
    let x := encR s w 104 o.d o.a o.b o.ha o.hb (0)
    show (guardI (decide (fV x = 0)) (.launch (fR3 x)) : Option Instr) = _
    simp [x, guardI, orI, fR3, fR2, fAB, fA1, fRI, fMO]), fS_encR .., fW_encR ..⟩)
theorem raise (o : R3) : Statement (.raise o) := slotRow (.raise o) rfl (fun hw s w =>
  ⟨row (x := encR s w 105 o.d o.a o.b o.ha o.hb (0)) (n := 105) (by rw [fOp_encR]; rfl) (by
    let x := encR s w 105 o.d o.a o.b o.ha o.hb (0)
    show (guardI (decide (fV x = 0)) (.raise (fR3 x)) : Option Instr) = _
    simp [x, guardI, orI, fR3, fR2, fAB, fA1, fRI, fMO]), fS_encR .., fW_encR ..⟩)
theorem post (o : R2) : Statement (.post o) := slotRow (.post o) rfl (fun hw s w =>
  ⟨row (x := encR s w 106 o.d o.a 0 o.ha false (0)) (n := 106) (by rw [fOp_encR]; rfl) (by
    let x := encR s w 106 o.d o.a 0 o.ha false (0)
    show (guardI (decide (fB x = 0 ∧ bitAt x 4 = false ∧ fV x = 0)) (.post (fR2 x)) : Option Instr) = _
    simp [x, guardI, orI, fR3, fR2, fAB, fA1, fRI, fMO]), fS_encR .., fW_encR ..⟩)
theorem qpop (o : R2) : Statement (.qpop o) := slotRow (.qpop o) rfl (fun hw s w =>
  ⟨row (x := encR s w 107 o.d o.a 0 o.ha false (0)) (n := 107) (by rw [fOp_encR]; rfl) (by
    let x := encR s w 107 o.d o.a 0 o.ha false (0)
    show (guardI (decide (fB x = 0 ∧ bitAt x 4 = false ∧ fV x = 0)) (.qpop (fR2 x)) : Option Instr) = _
    simp [x, guardI, orI, fR3, fR2, fAB, fA1, fRI, fMO]), fS_encR .., fW_encR ..⟩)
theorem dispatch (o : R3) : Statement (.dispatch o) := slotRow (.dispatch o) rfl (fun hw s w =>
  ⟨row (x := encR s w 108 o.d o.a o.b o.ha o.hb (0)) (n := 108) (by rw [fOp_encR]; rfl) (by
    let x := encR s w 108 o.d o.a o.b o.ha o.hb (0)
    show (guardI (decide (fV x = 0)) (.dispatch (fR3 x)) : Option Instr) = _
    simp [x, guardI, orI, fR3, fR2, fAB, fA1, fRI, fMO]), fS_encR .., fW_encR ..⟩)
theorem agree (d : BitVec 5) (tag : BitVec 16) : Statement (.agree d tag) := slotRow (.agree d tag) rfl (fun hw s w =>
  ⟨row (x := encL s w 109 d tag) (n := 109) (by rw [fOp_encL]; rfl) (by
    let x := encL s w 109 d tag
    show (some (.agree (fD x) (x.extractLsb' 0 16)) : Option Instr) = _
    simp [x, guardI, orI, fR3, fR2, fAB, fA1, fRI, fMO]), fS_encL .., fW_encL ..⟩)
theorem abr (m : BitVec 5) (a : BitVec 5) (ofs : BitVec 11) : Statement (.abr m a ofs) := slotRow (.abr m a ofs) rfl (fun hw s w =>
  ⟨row (x := encI s w 110 m a ofs) (n := 110) (by rw [fOp_encI]; rfl) (by
    let x := encI s w 110 m a ofs
    show (some (.abr (fD x) (fA x) (x.extractLsb' 0 11)) : Option Instr) = _
    simp [x, guardI, orI, fR3, fR2, fAB, fA1, fRI, fMO]), fS_encI .., fW_encI ..⟩)
theorem abrp (p : Bool) (m : BitVec 4) (a : BitVec 5) (ofs : BitVec 11) : Statement (.abrp p m a ofs) := slotRow (.abrp p m a ofs) rfl (fun hw s w =>
  ⟨row (x := encI s w 111 (BitVec.ofBool p ++ m) a ofs) (n := 111) (by rw [fOp_encI]; rfl) (by
    let x := encI s w 111 (BitVec.ofBool p ++ m) a ofs
    show (some (.abrp (bitAt x 20) (x.extractLsb' 16 4) (fA x) (x.extractLsb' 0 11)) : Option Instr) = _
    have h1 : bitAt x 20 = p := getLsbD_of_field _ _ _ ((dpart_encI _ _ _ _ _ _ 4 1 (by decide)).trans (v_pm p m).1)
    have h2 : x.extractLsb' 16 4 = m := (dpart_encI _ _ _ _ _ _ 0 4 (by decide)).trans (v_pm p m).2
    rw [h1, h2]
    simp [x]), fS_encI .., fW_encI ..⟩)
theorem ares (o : R3) (v : BitVec 4) : Statement (.ares o v) := slotRow (.ares o v) rfl (fun hw s w =>
  ⟨row (x := encR s w 112 o.d o.a o.b o.ha o.hb (v)) (n := 112) (by rw [fOp_encR]; rfl) (by
    let x := encR s w 112 o.d o.a o.b o.ha o.hb (v)
    show (some (.ares (fR3 x) (fV x)) : Option Instr) = _
    simp [x, guardI, orI, fR3, fR2, fAB, fA1, fRI, fMO]), fS_encR .., fW_encR ..⟩)
theorem coll (o : R3) : Statement (.coll o) := slotRow (.coll o) rfl (fun hw s w =>
  ⟨row (x := encR s w 113 o.d o.a o.b o.ha o.hb (0)) (n := 113) (by rw [fOp_encR]; rfl) (by
    let x := encR s w 113 o.d o.a o.b o.ha o.hb (0)
    show (guardI (decide (fV x = 0)) (.coll (fR3 x)) : Option Instr) = _
    simp [x, guardI, orI, fR3, fR2, fAB, fA1, fRI, fMO]), fS_encR .., fW_encR ..⟩)
theorem trap (code : BitVec 16) : Statement (.trap code) := slotRow (.trap code) rfl (fun hw s w =>
  ⟨row (x := encL s w 114 0 code) (n := 114) (by rw [fOp_encL]; rfl) (by
    let x := encL s w 114 0 code
    show (guardI (decide (fD x = 0)) (.trap (x.extractLsb' 0 16)) : Option Instr) = _
    simp [x, guardI, orI, fR3, fR2, fAB, fA1, fRI, fMO]), fS_encL .., fW_encL ..⟩)
theorem rte (o : R2) (v : BitVec 4) : Statement (.rte o v) := slotRow (.rte o v) rfl (fun hw s w =>
  ⟨row (x := encR s w 115 o.d o.a 0 o.ha false (v)) (n := 115) (by rw [fOp_encR]; rfl) (by
    let x := encR s w 115 o.d o.a 0 o.ha false (v)
    show (guardI (decide (fB x = 0 ∧ bitAt x 4 = false)) (.rte (fR2 x) (fV x)) : Option Instr) = _
    simp [x, guardI, orI, fR3, fR2, fAB, fA1, fRI, fMO]), fS_encR .., fW_encR ..⟩)
theorem wfe (o : R3) (v : BitVec 4) : Statement (.wfe o v) := slotRow (.wfe o v) rfl (fun hw s w =>
  ⟨row (x := encR s w 116 o.d o.a o.b o.ha o.hb (v)) (n := 116) (by rw [fOp_encR]; rfl) (by
    let x := encR s w 116 o.d o.a o.b o.ha o.hb (v)
    show (some (.wfe (fR3 x) (fV x)) : Option Instr) = _
    simp [x, guardI, orI, fR3, fR2, fAB, fA1, fRI, fMO]), fS_encR .., fW_encR ..⟩)
theorem dbrk (code : BitVec 16) : Statement (.dbrk code) := slotRow (.dbrk code) rfl (fun hw s w =>
  ⟨row (x := encL s w 117 0 code) (n := 117) (by rw [fOp_encL]; rfl) (by
    let x := encL s w 117 0 code
    show (guardI (decide (fD x = 0)) (.dbrk (x.extractLsb' 0 16)) : Option Instr) = _
    simp [x, guardI, orI, fR3, fR2, fAB, fA1, fRI, fMO]), fS_encL .., fW_encL ..⟩)
theorem srd (d : BitVec 5) (num : BitVec 12) : Statement (.srd d num) := slotRow (.srd d num) rfl (fun hw s w =>
  ⟨row (x := encL s w 118 d ((0 : BitVec 4) ++ num)) (n := 118) (by rw [fOp_encL]; rfl) (by
    let x := encL s w 118 d ((0 : BitVec 4) ++ num)
    show (guardI (decide (x.extractLsb' 12 4 = 0)) (.srd (fD x) (x.extractLsb' 0 12)) : Option Instr) = _
    have h1 : x.extractLsb' 12 4 = 0 := (part_encL _ _ _ _ _ 12 4 (by decide)).trans ((BitVec.extractLsb'_append_eq_of_le (by decide)).trans BitVec.extractLsb'_eq_self)
    have h2 : x.extractLsb' 0 12 = num := (part_encL _ _ _ _ _ 0 12 (by decide)).trans ((BitVec.extractLsb'_append_eq_of_add_le (by decide)).trans BitVec.extractLsb'_eq_self)
    rw [h1, h2]
    simp [x, guardI]), fS_encL .., fW_encL ..⟩)
theorem swr (d : BitVec 5) (num : BitVec 12) : Statement (.swr d num) := slotRow (.swr d num) rfl (fun hw s w =>
  ⟨row (x := encL s w 119 d ((0 : BitVec 4) ++ num)) (n := 119) (by rw [fOp_encL]; rfl) (by
    let x := encL s w 119 d ((0 : BitVec 4) ++ num)
    show (guardI (decide (x.extractLsb' 12 4 = 0)) (.swr (fD x) (x.extractLsb' 0 12)) : Option Instr) = _
    have h1 : x.extractLsb' 12 4 = 0 := (part_encL _ _ _ _ _ 12 4 (by decide)).trans ((BitVec.extractLsb'_append_eq_of_le (by decide)).trans BitVec.extractLsb'_eq_self)
    have h2 : x.extractLsb' 0 12 = num := (part_encL _ _ _ _ _ 0 12 (by decide)).trans ((BitVec.extractLsb'_append_eq_of_add_le (by decide)).trans BitVec.extractLsb'_eq_self)
    rw [h1, h2]
    simp [x, guardI]), fS_encL .., fW_encL ..⟩)
theorem pfxi (payload : BitVec 21) : Statement (.pfxi payload) := slotRow (.pfxi payload) rfl (fun hw s w =>
  ⟨row (x := encJ s w 126 payload) (n := 126) (by rw [fOp_encJ]; rfl) (by
    let x := encJ s w 126 payload
    show (some (.pfxi (x.extractLsb' 0 21)) : Option Instr) = _
    simp [x, guardI, orI, fR3, fR2, fAB, fA1, fRI, fMO]), fS_encJ .., fW_encJ ..⟩)
theorem pfxp (mode : BitVec 3) (reg : BitVec 5) : Statement (.pfxp mode reg) := slotRow (.pfxp mode reg) rfl (fun hw s w =>
  ⟨row (x := encJ s w 127 (mode ++ reg ++ (0 : BitVec 13))) (n := 127) (by rw [fOp_encJ]; rfl) (by
    let x := encJ s w 127 (mode ++ reg ++ (0 : BitVec 13))
    show (guardI (decide (x.extractLsb' 0 13 = 0)) (.pfxp (x.extractLsb' 18 3) (x.extractLsb' 13 5)) : Option Instr) = _
    have h1 : x.extractLsb' 0 13 = 0 := (part_encJ _ _ _ _ 0 13 (by decide)).trans
      ((BitVec.extractLsb'_append_eq_of_add_le (by decide)).trans BitVec.extractLsb'_eq_self)
    have h2 : x.extractLsb' 18 3 = mode := (part_encJ _ _ _ _ 18 3 (by decide)).trans ((BitVec.extractLsb'_append_eq_of_le (by decide)).trans
      ((BitVec.extractLsb'_append_eq_of_le (by decide)).trans BitVec.extractLsb'_eq_self))
    have h3 : x.extractLsb' 13 5 = reg := (part_encJ _ _ _ _ 13 5 (by decide)).trans ((BitVec.extractLsb'_append_eq_of_le (by decide)).trans
      ((BitVec.extractLsb'_append_eq_of_add_le (by decide)).trans BitVec.extractLsb'_eq_self))
    rw [h1, h2, h3]
    simp [guardI]), fS_encJ .., fW_encJ ..⟩)
theorem mend : Statement (.mend) := microRow (.mend) rfl (fun hw => by
  decide)
theorem wload (fmt : BitVec 4) (mx : Bool) (ma : BitVec 3) (rw : Bool) (ms : BitVec 3) : Statement (.wload fmt mx ma rw ms) := microRow (.wload fmt mx ma rw ms) rfl (fun hw => by
  obtain ⟨x, hx⟩ : ∃ x : W64, x = ((1 : BitVec 5) ++ fmt ++ BitVec.ofBool mx ++ ma ++ BitVec.ofBool rw ++ ms ++ (0 : BitVec 47) : BitVec 64) := ⟨_, rfl⟩
  have h0 : x.extractLsb' 59 5 = (1 : BitVec 5) := by
    rw [hx]
    exact (BitVec.extractLsb'_append_eq_of_le (by decide)).trans <| (BitVec.extractLsb'_append_eq_of_le (by decide)).trans <| (BitVec.extractLsb'_append_eq_of_le (by decide)).trans <| (BitVec.extractLsb'_append_eq_of_le (by decide)).trans <| (BitVec.extractLsb'_append_eq_of_le (by decide)).trans <| (BitVec.extractLsb'_append_eq_of_le (by decide)).trans <| BitVec.extractLsb'_eq_self
  have h1 : x.extractLsb' 55 4 = fmt := by
    rw [hx]
    exact (BitVec.extractLsb'_append_eq_of_le (by decide)).trans <| (BitVec.extractLsb'_append_eq_of_le (by decide)).trans <| (BitVec.extractLsb'_append_eq_of_le (by decide)).trans <| (BitVec.extractLsb'_append_eq_of_le (by decide)).trans <| (BitVec.extractLsb'_append_eq_of_le (by decide)).trans <| (BitVec.extractLsb'_append_eq_of_add_le (by decide)).trans BitVec.extractLsb'_eq_self
  have h2 : x.extractLsb' 54 1 = BitVec.ofBool mx := by
    rw [hx]
    exact (BitVec.extractLsb'_append_eq_of_le (by decide)).trans <| (BitVec.extractLsb'_append_eq_of_le (by decide)).trans <| (BitVec.extractLsb'_append_eq_of_le (by decide)).trans <| (BitVec.extractLsb'_append_eq_of_le (by decide)).trans <| (BitVec.extractLsb'_append_eq_of_add_le (by decide)).trans BitVec.extractLsb'_eq_self
  have b2 : x.getLsbD 54 = mx := getLsbD_of_field _ _ _ h2
  have h3 : x.extractLsb' 51 3 = ma := by
    rw [hx]
    exact (BitVec.extractLsb'_append_eq_of_le (by decide)).trans <| (BitVec.extractLsb'_append_eq_of_le (by decide)).trans <| (BitVec.extractLsb'_append_eq_of_le (by decide)).trans <| (BitVec.extractLsb'_append_eq_of_add_le (by decide)).trans BitVec.extractLsb'_eq_self
  have h4 : x.extractLsb' 50 1 = BitVec.ofBool rw := by
    rw [hx]
    exact (BitVec.extractLsb'_append_eq_of_le (by decide)).trans <| (BitVec.extractLsb'_append_eq_of_le (by decide)).trans <| (BitVec.extractLsb'_append_eq_of_add_le (by decide)).trans BitVec.extractLsb'_eq_self
  have b4 : x.getLsbD 50 = rw := getLsbD_of_field _ _ _ h4
  have h5 : x.extractLsb' 47 3 = ms := by
    rw [hx]
    exact (BitVec.extractLsb'_append_eq_of_le (by decide)).trans <| (BitVec.extractLsb'_append_eq_of_add_le (by decide)).trans BitVec.extractLsb'_eq_self
  have h6 : x.extractLsb' 0 47 = (0 : BitVec 47) := by
    rw [hx]
    exact (BitVec.extractLsb'_append_eq_of_add_le (by decide)).trans BitVec.extractLsb'_eq_self
  have he : encodeMicro (.wload fmt mx ma rw ms) = x := hx.symm
  rw [he]
  refine stepRow (n := 1) (by show (x.extractLsb' 59 5).toNat = _; rw [h0]; rfl) ?_
  show (guardI (decide (mf x 0 47 = 0)) (.wload (mf x 55 4) (x.getLsbD 54) (mf x 51 3) (x.getLsbD 50) (mf x 47 3)) : Option Instr) = _
  simp only [mf, h0, h1, h2, b2, h3, h4, b4, h5, h6]
  rfl)
theorem wgen (gn : BitVec 3) (t : Bool) (ma : BitVec 3) : Statement (.wgen gn t ma) := microRow (.wgen gn t ma) rfl (fun hw => by
  obtain ⟨x, hx⟩ : ∃ x : W64, x = ((2 : BitVec 5) ++ gn ++ BitVec.ofBool t ++ ma ++ (0 : BitVec 52) : BitVec 64) := ⟨_, rfl⟩
  have h0 : x.extractLsb' 59 5 = (2 : BitVec 5) := by
    rw [hx]
    exact (BitVec.extractLsb'_append_eq_of_le (by decide)).trans <| (BitVec.extractLsb'_append_eq_of_le (by decide)).trans <| (BitVec.extractLsb'_append_eq_of_le (by decide)).trans <| (BitVec.extractLsb'_append_eq_of_le (by decide)).trans <| BitVec.extractLsb'_eq_self
  have h1 : x.extractLsb' 56 3 = gn := by
    rw [hx]
    exact (BitVec.extractLsb'_append_eq_of_le (by decide)).trans <| (BitVec.extractLsb'_append_eq_of_le (by decide)).trans <| (BitVec.extractLsb'_append_eq_of_le (by decide)).trans <| (BitVec.extractLsb'_append_eq_of_add_le (by decide)).trans BitVec.extractLsb'_eq_self
  have h2 : x.extractLsb' 55 1 = BitVec.ofBool t := by
    rw [hx]
    exact (BitVec.extractLsb'_append_eq_of_le (by decide)).trans <| (BitVec.extractLsb'_append_eq_of_le (by decide)).trans <| (BitVec.extractLsb'_append_eq_of_add_le (by decide)).trans BitVec.extractLsb'_eq_self
  have b2 : x.getLsbD 55 = t := getLsbD_of_field _ _ _ h2
  have h3 : x.extractLsb' 52 3 = ma := by
    rw [hx]
    exact (BitVec.extractLsb'_append_eq_of_le (by decide)).trans <| (BitVec.extractLsb'_append_eq_of_add_le (by decide)).trans BitVec.extractLsb'_eq_self
  have h4 : x.extractLsb' 0 52 = (0 : BitVec 52) := by
    rw [hx]
    exact (BitVec.extractLsb'_append_eq_of_add_le (by decide)).trans BitVec.extractLsb'_eq_self
  have he : encodeMicro (.wgen gn t ma) = x := hx.symm
  rw [he]
  refine stepRow (n := 2) (by show (x.extractLsb' 59 5).toNat = _; rw [h0]; rfl) ?_
  show (guardI (decide (mf x 0 52 = 0)) (.wgen (mf x 56 3) (x.getLsbD 55) (mf x 52 3)) : Option Instr) = _
  simp only [mf, h0, h1, h2, b2, h3, h4]
  rfl)
theorem astream (fmt : BitVec 4) (pm1 : BitVec 5) (ma : BitVec 3) (brow0 : BitVec 8) (nm1 : BitVec 8) (rg : Bool) : Statement (.astream fmt pm1 ma brow0 nm1 rg) := microRow (.astream fmt pm1 ma brow0 nm1 rg) rfl (fun hw => by
  obtain ⟨x, hx⟩ : ∃ x : W64, x = ((3 : BitVec 5) ++ fmt ++ pm1 ++ ma ++ brow0 ++ nm1 ++ BitVec.ofBool rg ++ (0 : BitVec 30) : BitVec 64) := ⟨_, rfl⟩
  have h0 : x.extractLsb' 59 5 = (3 : BitVec 5) := by
    rw [hx]
    exact (BitVec.extractLsb'_append_eq_of_le (by decide)).trans <| (BitVec.extractLsb'_append_eq_of_le (by decide)).trans <| (BitVec.extractLsb'_append_eq_of_le (by decide)).trans <| (BitVec.extractLsb'_append_eq_of_le (by decide)).trans <| (BitVec.extractLsb'_append_eq_of_le (by decide)).trans <| (BitVec.extractLsb'_append_eq_of_le (by decide)).trans <| (BitVec.extractLsb'_append_eq_of_le (by decide)).trans <| BitVec.extractLsb'_eq_self
  have h1 : x.extractLsb' 55 4 = fmt := by
    rw [hx]
    exact (BitVec.extractLsb'_append_eq_of_le (by decide)).trans <| (BitVec.extractLsb'_append_eq_of_le (by decide)).trans <| (BitVec.extractLsb'_append_eq_of_le (by decide)).trans <| (BitVec.extractLsb'_append_eq_of_le (by decide)).trans <| (BitVec.extractLsb'_append_eq_of_le (by decide)).trans <| (BitVec.extractLsb'_append_eq_of_le (by decide)).trans <| (BitVec.extractLsb'_append_eq_of_add_le (by decide)).trans BitVec.extractLsb'_eq_self
  have h2 : x.extractLsb' 50 5 = pm1 := by
    rw [hx]
    exact (BitVec.extractLsb'_append_eq_of_le (by decide)).trans <| (BitVec.extractLsb'_append_eq_of_le (by decide)).trans <| (BitVec.extractLsb'_append_eq_of_le (by decide)).trans <| (BitVec.extractLsb'_append_eq_of_le (by decide)).trans <| (BitVec.extractLsb'_append_eq_of_le (by decide)).trans <| (BitVec.extractLsb'_append_eq_of_add_le (by decide)).trans BitVec.extractLsb'_eq_self
  have h3 : x.extractLsb' 47 3 = ma := by
    rw [hx]
    exact (BitVec.extractLsb'_append_eq_of_le (by decide)).trans <| (BitVec.extractLsb'_append_eq_of_le (by decide)).trans <| (BitVec.extractLsb'_append_eq_of_le (by decide)).trans <| (BitVec.extractLsb'_append_eq_of_le (by decide)).trans <| (BitVec.extractLsb'_append_eq_of_add_le (by decide)).trans BitVec.extractLsb'_eq_self
  have h4 : x.extractLsb' 39 8 = brow0 := by
    rw [hx]
    exact (BitVec.extractLsb'_append_eq_of_le (by decide)).trans <| (BitVec.extractLsb'_append_eq_of_le (by decide)).trans <| (BitVec.extractLsb'_append_eq_of_le (by decide)).trans <| (BitVec.extractLsb'_append_eq_of_add_le (by decide)).trans BitVec.extractLsb'_eq_self
  have h5 : x.extractLsb' 31 8 = nm1 := by
    rw [hx]
    exact (BitVec.extractLsb'_append_eq_of_le (by decide)).trans <| (BitVec.extractLsb'_append_eq_of_le (by decide)).trans <| (BitVec.extractLsb'_append_eq_of_add_le (by decide)).trans BitVec.extractLsb'_eq_self
  have h6 : x.extractLsb' 30 1 = BitVec.ofBool rg := by
    rw [hx]
    exact (BitVec.extractLsb'_append_eq_of_le (by decide)).trans <| (BitVec.extractLsb'_append_eq_of_add_le (by decide)).trans BitVec.extractLsb'_eq_self
  have b6 : x.getLsbD 30 = rg := getLsbD_of_field _ _ _ h6
  have h7 : x.extractLsb' 0 30 = (0 : BitVec 30) := by
    rw [hx]
    exact (BitVec.extractLsb'_append_eq_of_add_le (by decide)).trans BitVec.extractLsb'_eq_self
  have he : encodeMicro (.astream fmt pm1 ma brow0 nm1 rg) = x := hx.symm
  rw [he]
  refine stepRow (n := 3) (by show (x.extractLsb' 59 5).toNat = _; rw [h0]; rfl) ?_
  show (guardI (decide (mf x 0 30 = 0)) (.astream (mf x 55 4) (mf x 50 5) (mf x 47 3) (mf x 39 8) (mf x 31 8) (x.getLsbD 30)) : Option Instr) = _
  simp only [mf, h0, h1, h2, h3, h4, h5, h6, b6, h7]
  rfl)
theorem agen (gn : BitVec 3) (t : Bool) (pm1 : BitVec 5) (ma : BitVec 3) (brow0 : BitVec 8) (nm1 : BitVec 8) (rg : Bool) : Statement (.agen gn t pm1 ma brow0 nm1 rg) := microRow (.agen gn t pm1 ma brow0 nm1 rg) rfl (fun hw => by
  obtain ⟨x, hx⟩ : ∃ x : W64, x = ((4 : BitVec 5) ++ gn ++ BitVec.ofBool t ++ pm1 ++ ma ++ brow0 ++ nm1 ++ BitVec.ofBool rg ++ (0 : BitVec 30) : BitVec 64) := ⟨_, rfl⟩
  have h0 : x.extractLsb' 59 5 = (4 : BitVec 5) := by
    rw [hx]
    exact (BitVec.extractLsb'_append_eq_of_le (by decide)).trans <| (BitVec.extractLsb'_append_eq_of_le (by decide)).trans <| (BitVec.extractLsb'_append_eq_of_le (by decide)).trans <| (BitVec.extractLsb'_append_eq_of_le (by decide)).trans <| (BitVec.extractLsb'_append_eq_of_le (by decide)).trans <| (BitVec.extractLsb'_append_eq_of_le (by decide)).trans <| (BitVec.extractLsb'_append_eq_of_le (by decide)).trans <| (BitVec.extractLsb'_append_eq_of_le (by decide)).trans <| BitVec.extractLsb'_eq_self
  have h1 : x.extractLsb' 56 3 = gn := by
    rw [hx]
    exact (BitVec.extractLsb'_append_eq_of_le (by decide)).trans <| (BitVec.extractLsb'_append_eq_of_le (by decide)).trans <| (BitVec.extractLsb'_append_eq_of_le (by decide)).trans <| (BitVec.extractLsb'_append_eq_of_le (by decide)).trans <| (BitVec.extractLsb'_append_eq_of_le (by decide)).trans <| (BitVec.extractLsb'_append_eq_of_le (by decide)).trans <| (BitVec.extractLsb'_append_eq_of_le (by decide)).trans <| (BitVec.extractLsb'_append_eq_of_add_le (by decide)).trans BitVec.extractLsb'_eq_self
  have h2 : x.extractLsb' 55 1 = BitVec.ofBool t := by
    rw [hx]
    exact (BitVec.extractLsb'_append_eq_of_le (by decide)).trans <| (BitVec.extractLsb'_append_eq_of_le (by decide)).trans <| (BitVec.extractLsb'_append_eq_of_le (by decide)).trans <| (BitVec.extractLsb'_append_eq_of_le (by decide)).trans <| (BitVec.extractLsb'_append_eq_of_le (by decide)).trans <| (BitVec.extractLsb'_append_eq_of_le (by decide)).trans <| (BitVec.extractLsb'_append_eq_of_add_le (by decide)).trans BitVec.extractLsb'_eq_self
  have b2 : x.getLsbD 55 = t := getLsbD_of_field _ _ _ h2
  have h3 : x.extractLsb' 50 5 = pm1 := by
    rw [hx]
    exact (BitVec.extractLsb'_append_eq_of_le (by decide)).trans <| (BitVec.extractLsb'_append_eq_of_le (by decide)).trans <| (BitVec.extractLsb'_append_eq_of_le (by decide)).trans <| (BitVec.extractLsb'_append_eq_of_le (by decide)).trans <| (BitVec.extractLsb'_append_eq_of_le (by decide)).trans <| (BitVec.extractLsb'_append_eq_of_add_le (by decide)).trans BitVec.extractLsb'_eq_self
  have h4 : x.extractLsb' 47 3 = ma := by
    rw [hx]
    exact (BitVec.extractLsb'_append_eq_of_le (by decide)).trans <| (BitVec.extractLsb'_append_eq_of_le (by decide)).trans <| (BitVec.extractLsb'_append_eq_of_le (by decide)).trans <| (BitVec.extractLsb'_append_eq_of_le (by decide)).trans <| (BitVec.extractLsb'_append_eq_of_add_le (by decide)).trans BitVec.extractLsb'_eq_self
  have h5 : x.extractLsb' 39 8 = brow0 := by
    rw [hx]
    exact (BitVec.extractLsb'_append_eq_of_le (by decide)).trans <| (BitVec.extractLsb'_append_eq_of_le (by decide)).trans <| (BitVec.extractLsb'_append_eq_of_le (by decide)).trans <| (BitVec.extractLsb'_append_eq_of_add_le (by decide)).trans BitVec.extractLsb'_eq_self
  have h6 : x.extractLsb' 31 8 = nm1 := by
    rw [hx]
    exact (BitVec.extractLsb'_append_eq_of_le (by decide)).trans <| (BitVec.extractLsb'_append_eq_of_le (by decide)).trans <| (BitVec.extractLsb'_append_eq_of_add_le (by decide)).trans BitVec.extractLsb'_eq_self
  have h7 : x.extractLsb' 30 1 = BitVec.ofBool rg := by
    rw [hx]
    exact (BitVec.extractLsb'_append_eq_of_le (by decide)).trans <| (BitVec.extractLsb'_append_eq_of_add_le (by decide)).trans BitVec.extractLsb'_eq_self
  have b7 : x.getLsbD 30 = rg := getLsbD_of_field _ _ _ h7
  have h8 : x.extractLsb' 0 30 = (0 : BitVec 30) := by
    rw [hx]
    exact (BitVec.extractLsb'_append_eq_of_add_le (by decide)).trans BitVec.extractLsb'_eq_self
  have he : encodeMicro (.agen gn t pm1 ma brow0 nm1 rg) = x := hx.symm
  rw [he]
  refine stepRow (n := 4) (by show (x.extractLsb' 59 5).toNat = _; rw [h0]; rfl) ?_
  show (guardI (decide (mf x 0 30 = 0)) (.agen (mf x 56 3) (x.getLsbD 55) (mf x 50 5) (mf x 47 3) (mf x 39 8) (mf x 31 8) (x.getLsbD 30)) : Option Instr) = _
  simp only [mf, h0, h1, h2, b2, h3, h4, h5, h6, h7, b7, h8]
  rfl)
theorem asel (bank : BitVec 2) : Statement (.asel bank) := microRow (.asel bank) rfl (fun hw => by
  obtain ⟨x, hx⟩ : ∃ x : W64, x = ((5 : BitVec 5) ++ bank ++ (0 : BitVec 57) : BitVec 64) := ⟨_, rfl⟩
  have h0 : x.extractLsb' 59 5 = (5 : BitVec 5) := by
    rw [hx]
    exact (BitVec.extractLsb'_append_eq_of_le (by decide)).trans <| (BitVec.extractLsb'_append_eq_of_le (by decide)).trans <| BitVec.extractLsb'_eq_self
  have h1 : x.extractLsb' 57 2 = bank := by
    rw [hx]
    exact (BitVec.extractLsb'_append_eq_of_le (by decide)).trans <| (BitVec.extractLsb'_append_eq_of_add_le (by decide)).trans BitVec.extractLsb'_eq_self
  have h2 : x.extractLsb' 0 57 = (0 : BitVec 57) := by
    rw [hx]
    exact (BitVec.extractLsb'_append_eq_of_add_le (by decide)).trans BitVec.extractLsb'_eq_self
  have he : encodeMicro (.asel bank) = x := hx.symm
  rw [he]
  refine stepRow (n := 5) (by show (x.extractLsb' 59 5).toNat = _; rw [h0]; rfl) ?_
  show (guardI (decide (mf x 0 57 = 0)) (.asel (mf x 57 2)) : Option Instr) = _
  simp only [mf, h0, h1, h2]
  rfl)
theorem aclr (brow0 : BitVec 8) (nm1 : BitVec 8) : Statement (.aclr brow0 nm1) := microRow (.aclr brow0 nm1) rfl (fun hw => by
  obtain ⟨x, hx⟩ : ∃ x : W64, x = ((6 : BitVec 5) ++ (0 : BitVec 12) ++ brow0 ++ nm1 ++ (0 : BitVec 31) : BitVec 64) := ⟨_, rfl⟩
  have h0 : x.extractLsb' 59 5 = (6 : BitVec 5) := by
    rw [hx]
    exact (BitVec.extractLsb'_append_eq_of_le (by decide)).trans <| (BitVec.extractLsb'_append_eq_of_le (by decide)).trans <| (BitVec.extractLsb'_append_eq_of_le (by decide)).trans <| (BitVec.extractLsb'_append_eq_of_le (by decide)).trans <| BitVec.extractLsb'_eq_self
  have h1 : x.extractLsb' 47 12 = (0 : BitVec 12) := by
    rw [hx]
    exact (BitVec.extractLsb'_append_eq_of_le (by decide)).trans <| (BitVec.extractLsb'_append_eq_of_le (by decide)).trans <| (BitVec.extractLsb'_append_eq_of_le (by decide)).trans <| (BitVec.extractLsb'_append_eq_of_add_le (by decide)).trans BitVec.extractLsb'_eq_self
  have h2 : x.extractLsb' 39 8 = brow0 := by
    rw [hx]
    exact (BitVec.extractLsb'_append_eq_of_le (by decide)).trans <| (BitVec.extractLsb'_append_eq_of_le (by decide)).trans <| (BitVec.extractLsb'_append_eq_of_add_le (by decide)).trans BitVec.extractLsb'_eq_self
  have h3 : x.extractLsb' 31 8 = nm1 := by
    rw [hx]
    exact (BitVec.extractLsb'_append_eq_of_le (by decide)).trans <| (BitVec.extractLsb'_append_eq_of_add_le (by decide)).trans BitVec.extractLsb'_eq_self
  have h4 : x.extractLsb' 0 31 = (0 : BitVec 31) := by
    rw [hx]
    exact (BitVec.extractLsb'_append_eq_of_add_le (by decide)).trans BitVec.extractLsb'_eq_self
  have he : encodeMicro (.aclr brow0 nm1) = x := hx.symm
  rw [he]
  refine stepRow (n := 6) (by show (x.extractLsb' 59 5).toNat = _; rw [h0]; rfl) ?_
  show (guardI (decide (mf x 47 12 = 0 ∧ mf x 0 31 = 0)) (.aclr (mf x 39 8) (mf x 31 8)) : Option Instr) = _
  simp only [mf, h0, h1, h2, h3, h4]
  rfl)
theorem adrain (fmt : BitVec 4) (rm : BitVec 3) (sf : Bool) (ma : BitVec 3) (brow0 : BitVec 8) (nm1 : BitVec 8) (clr : Bool) (ms : BitVec 3) : Statement (.adrain fmt rm sf ma brow0 nm1 clr ms) := microRow (.adrain fmt rm sf ma brow0 nm1 clr ms) rfl (fun hw => by
  obtain ⟨x, hx⟩ : ∃ x : W64, x = ((7 : BitVec 5) ++ fmt ++ rm ++ BitVec.ofBool sf ++ (0 : BitVec 1) ++ ma ++ brow0 ++ nm1 ++ BitVec.ofBool clr ++ ms ++ (0 : BitVec 27) : BitVec 64) := ⟨_, rfl⟩
  have h0 : x.extractLsb' 59 5 = (7 : BitVec 5) := by
    rw [hx]
    exact (BitVec.extractLsb'_append_eq_of_le (by decide)).trans <| (BitVec.extractLsb'_append_eq_of_le (by decide)).trans <| (BitVec.extractLsb'_append_eq_of_le (by decide)).trans <| (BitVec.extractLsb'_append_eq_of_le (by decide)).trans <| (BitVec.extractLsb'_append_eq_of_le (by decide)).trans <| (BitVec.extractLsb'_append_eq_of_le (by decide)).trans <| (BitVec.extractLsb'_append_eq_of_le (by decide)).trans <| (BitVec.extractLsb'_append_eq_of_le (by decide)).trans <| (BitVec.extractLsb'_append_eq_of_le (by decide)).trans <| (BitVec.extractLsb'_append_eq_of_le (by decide)).trans <| BitVec.extractLsb'_eq_self
  have h1 : x.extractLsb' 55 4 = fmt := by
    rw [hx]
    exact (BitVec.extractLsb'_append_eq_of_le (by decide)).trans <| (BitVec.extractLsb'_append_eq_of_le (by decide)).trans <| (BitVec.extractLsb'_append_eq_of_le (by decide)).trans <| (BitVec.extractLsb'_append_eq_of_le (by decide)).trans <| (BitVec.extractLsb'_append_eq_of_le (by decide)).trans <| (BitVec.extractLsb'_append_eq_of_le (by decide)).trans <| (BitVec.extractLsb'_append_eq_of_le (by decide)).trans <| (BitVec.extractLsb'_append_eq_of_le (by decide)).trans <| (BitVec.extractLsb'_append_eq_of_le (by decide)).trans <| (BitVec.extractLsb'_append_eq_of_add_le (by decide)).trans BitVec.extractLsb'_eq_self
  have h2 : x.extractLsb' 52 3 = rm := by
    rw [hx]
    exact (BitVec.extractLsb'_append_eq_of_le (by decide)).trans <| (BitVec.extractLsb'_append_eq_of_le (by decide)).trans <| (BitVec.extractLsb'_append_eq_of_le (by decide)).trans <| (BitVec.extractLsb'_append_eq_of_le (by decide)).trans <| (BitVec.extractLsb'_append_eq_of_le (by decide)).trans <| (BitVec.extractLsb'_append_eq_of_le (by decide)).trans <| (BitVec.extractLsb'_append_eq_of_le (by decide)).trans <| (BitVec.extractLsb'_append_eq_of_le (by decide)).trans <| (BitVec.extractLsb'_append_eq_of_add_le (by decide)).trans BitVec.extractLsb'_eq_self
  have h3 : x.extractLsb' 51 1 = BitVec.ofBool sf := by
    rw [hx]
    exact (BitVec.extractLsb'_append_eq_of_le (by decide)).trans <| (BitVec.extractLsb'_append_eq_of_le (by decide)).trans <| (BitVec.extractLsb'_append_eq_of_le (by decide)).trans <| (BitVec.extractLsb'_append_eq_of_le (by decide)).trans <| (BitVec.extractLsb'_append_eq_of_le (by decide)).trans <| (BitVec.extractLsb'_append_eq_of_le (by decide)).trans <| (BitVec.extractLsb'_append_eq_of_le (by decide)).trans <| (BitVec.extractLsb'_append_eq_of_add_le (by decide)).trans BitVec.extractLsb'_eq_self
  have b3 : x.getLsbD 51 = sf := getLsbD_of_field _ _ _ h3
  have h4 : x.extractLsb' 50 1 = (0 : BitVec 1) := by
    rw [hx]
    exact (BitVec.extractLsb'_append_eq_of_le (by decide)).trans <| (BitVec.extractLsb'_append_eq_of_le (by decide)).trans <| (BitVec.extractLsb'_append_eq_of_le (by decide)).trans <| (BitVec.extractLsb'_append_eq_of_le (by decide)).trans <| (BitVec.extractLsb'_append_eq_of_le (by decide)).trans <| (BitVec.extractLsb'_append_eq_of_le (by decide)).trans <| (BitVec.extractLsb'_append_eq_of_add_le (by decide)).trans BitVec.extractLsb'_eq_self
  have h5 : x.extractLsb' 47 3 = ma := by
    rw [hx]
    exact (BitVec.extractLsb'_append_eq_of_le (by decide)).trans <| (BitVec.extractLsb'_append_eq_of_le (by decide)).trans <| (BitVec.extractLsb'_append_eq_of_le (by decide)).trans <| (BitVec.extractLsb'_append_eq_of_le (by decide)).trans <| (BitVec.extractLsb'_append_eq_of_le (by decide)).trans <| (BitVec.extractLsb'_append_eq_of_add_le (by decide)).trans BitVec.extractLsb'_eq_self
  have h6 : x.extractLsb' 39 8 = brow0 := by
    rw [hx]
    exact (BitVec.extractLsb'_append_eq_of_le (by decide)).trans <| (BitVec.extractLsb'_append_eq_of_le (by decide)).trans <| (BitVec.extractLsb'_append_eq_of_le (by decide)).trans <| (BitVec.extractLsb'_append_eq_of_le (by decide)).trans <| (BitVec.extractLsb'_append_eq_of_add_le (by decide)).trans BitVec.extractLsb'_eq_self
  have h7 : x.extractLsb' 31 8 = nm1 := by
    rw [hx]
    exact (BitVec.extractLsb'_append_eq_of_le (by decide)).trans <| (BitVec.extractLsb'_append_eq_of_le (by decide)).trans <| (BitVec.extractLsb'_append_eq_of_le (by decide)).trans <| (BitVec.extractLsb'_append_eq_of_add_le (by decide)).trans BitVec.extractLsb'_eq_self
  have h8 : x.extractLsb' 30 1 = BitVec.ofBool clr := by
    rw [hx]
    exact (BitVec.extractLsb'_append_eq_of_le (by decide)).trans <| (BitVec.extractLsb'_append_eq_of_le (by decide)).trans <| (BitVec.extractLsb'_append_eq_of_add_le (by decide)).trans BitVec.extractLsb'_eq_self
  have b8 : x.getLsbD 30 = clr := getLsbD_of_field _ _ _ h8
  have h9 : x.extractLsb' 27 3 = ms := by
    rw [hx]
    exact (BitVec.extractLsb'_append_eq_of_le (by decide)).trans <| (BitVec.extractLsb'_append_eq_of_add_le (by decide)).trans BitVec.extractLsb'_eq_self
  have h10 : x.extractLsb' 0 27 = (0 : BitVec 27) := by
    rw [hx]
    exact (BitVec.extractLsb'_append_eq_of_add_le (by decide)).trans BitVec.extractLsb'_eq_self
  have he : encodeMicro (.adrain fmt rm sf ma brow0 nm1 clr ms) = x := hx.symm
  rw [he]
  refine stepRow (n := 7) (by show (x.extractLsb' 59 5).toNat = _; rw [h0]; rfl) ?_
  show (guardI (decide (mf x 50 1 = 0 ∧ mf x 0 27 = 0)) (.adrain (mf x 55 4) (mf x 52 3) (x.getLsbD 51) (mf x 47 3) (mf x 39 8) (mf x 31 8) (x.getLsbD 30) (mf x 27 3)) : Option Instr) = _
  simp only [mf, h0, h1, h2, h3, b3, h4, h5, h6, h7, h8, b8, h9, h10]
  rfl)
theorem ragg (ma : BitVec 3) (mc : BitVec 3) : Statement (.ragg ma mc) := microRow (.ragg ma mc) rfl (fun hw => by
  obtain ⟨x, hx⟩ : ∃ x : W64, x = ((8 : BitVec 5) ++ (0 : BitVec 9) ++ ma ++ mc ++ (0 : BitVec 44) : BitVec 64) := ⟨_, rfl⟩
  have h0 : x.extractLsb' 59 5 = (8 : BitVec 5) := by
    rw [hx]
    exact (BitVec.extractLsb'_append_eq_of_le (by decide)).trans <| (BitVec.extractLsb'_append_eq_of_le (by decide)).trans <| (BitVec.extractLsb'_append_eq_of_le (by decide)).trans <| (BitVec.extractLsb'_append_eq_of_le (by decide)).trans <| BitVec.extractLsb'_eq_self
  have h1 : x.extractLsb' 50 9 = (0 : BitVec 9) := by
    rw [hx]
    exact (BitVec.extractLsb'_append_eq_of_le (by decide)).trans <| (BitVec.extractLsb'_append_eq_of_le (by decide)).trans <| (BitVec.extractLsb'_append_eq_of_le (by decide)).trans <| (BitVec.extractLsb'_append_eq_of_add_le (by decide)).trans BitVec.extractLsb'_eq_self
  have h2 : x.extractLsb' 47 3 = ma := by
    rw [hx]
    exact (BitVec.extractLsb'_append_eq_of_le (by decide)).trans <| (BitVec.extractLsb'_append_eq_of_le (by decide)).trans <| (BitVec.extractLsb'_append_eq_of_add_le (by decide)).trans BitVec.extractLsb'_eq_self
  have h3 : x.extractLsb' 44 3 = mc := by
    rw [hx]
    exact (BitVec.extractLsb'_append_eq_of_le (by decide)).trans <| (BitVec.extractLsb'_append_eq_of_add_le (by decide)).trans BitVec.extractLsb'_eq_self
  have h4 : x.extractLsb' 0 44 = (0 : BitVec 44) := by
    rw [hx]
    exact (BitVec.extractLsb'_append_eq_of_add_le (by decide)).trans BitVec.extractLsb'_eq_self
  have he : encodeMicro (.ragg ma mc) = x := hx.symm
  rw [he]
  refine stepRow (n := 8) (by show (x.extractLsb' 59 5).toNat = _; rw [h0]; rfl) ?_
  show (guardI (decide (mf x 50 9 = 0 ∧ mf x 0 44 = 0)) (.ragg (mf x 47 3) (mf x 44 3)) : Option Instr) = _
  simp only [mf, h0, h1, h2, h3, h4]
  rfl)
theorem zskip (en : Bool) : Statement (.zskip en) := microRow (.zskip en) rfl (fun hw => by
  obtain ⟨x, hx⟩ : ∃ x : W64, x = ((9 : BitVec 5) ++ BitVec.ofBool en ++ (0 : BitVec 58) : BitVec 64) := ⟨_, rfl⟩
  have h0 : x.extractLsb' 59 5 = (9 : BitVec 5) := by
    rw [hx]
    exact (BitVec.extractLsb'_append_eq_of_le (by decide)).trans <| (BitVec.extractLsb'_append_eq_of_le (by decide)).trans <| BitVec.extractLsb'_eq_self
  have h1 : x.extractLsb' 58 1 = BitVec.ofBool en := by
    rw [hx]
    exact (BitVec.extractLsb'_append_eq_of_le (by decide)).trans <| (BitVec.extractLsb'_append_eq_of_add_le (by decide)).trans BitVec.extractLsb'_eq_self
  have b1 : x.getLsbD 58 = en := getLsbD_of_field _ _ _ h1
  have h2 : x.extractLsb' 0 58 = (0 : BitVec 58) := by
    rw [hx]
    exact (BitVec.extractLsb'_append_eq_of_add_le (by decide)).trans BitVec.extractLsb'_eq_self
  have he : encodeMicro (.zskip en) = x := hx.symm
  rw [he]
  refine stepRow (n := 9) (by show (x.extractLsb' 59 5).toNat = _; rw [h0]; rfl) ?_
  show (guardI (decide (mf x 0 58 = 0)) (.zskip (x.getLsbD 58)) : Option Instr) = _
  simp only [mf, h0, h1, b1, h2]
  rfl)
theorem loopm (src : Bool) (ms : BitVec 3) (cm1 : BitVec 12) (endw : BitVec 12) : Statement (.loopm src ms cm1 endw) := microRow (.loopm src ms cm1 endw) rfl (fun hw => by
  obtain ⟨x, hx⟩ : ∃ x : W64, x = ((10 : BitVec 5) ++ BitVec.ofBool src ++ ms ++ cm1 ++ endw ++ (0 : BitVec 31) : BitVec 64) := ⟨_, rfl⟩
  have h0 : x.extractLsb' 59 5 = (10 : BitVec 5) := by
    rw [hx]
    exact (BitVec.extractLsb'_append_eq_of_le (by decide)).trans <| (BitVec.extractLsb'_append_eq_of_le (by decide)).trans <| (BitVec.extractLsb'_append_eq_of_le (by decide)).trans <| (BitVec.extractLsb'_append_eq_of_le (by decide)).trans <| (BitVec.extractLsb'_append_eq_of_le (by decide)).trans <| BitVec.extractLsb'_eq_self
  have h1 : x.extractLsb' 58 1 = BitVec.ofBool src := by
    rw [hx]
    exact (BitVec.extractLsb'_append_eq_of_le (by decide)).trans <| (BitVec.extractLsb'_append_eq_of_le (by decide)).trans <| (BitVec.extractLsb'_append_eq_of_le (by decide)).trans <| (BitVec.extractLsb'_append_eq_of_le (by decide)).trans <| (BitVec.extractLsb'_append_eq_of_add_le (by decide)).trans BitVec.extractLsb'_eq_self
  have b1 : x.getLsbD 58 = src := getLsbD_of_field _ _ _ h1
  have h2 : x.extractLsb' 55 3 = ms := by
    rw [hx]
    exact (BitVec.extractLsb'_append_eq_of_le (by decide)).trans <| (BitVec.extractLsb'_append_eq_of_le (by decide)).trans <| (BitVec.extractLsb'_append_eq_of_le (by decide)).trans <| (BitVec.extractLsb'_append_eq_of_add_le (by decide)).trans BitVec.extractLsb'_eq_self
  have h3 : x.extractLsb' 43 12 = cm1 := by
    rw [hx]
    exact (BitVec.extractLsb'_append_eq_of_le (by decide)).trans <| (BitVec.extractLsb'_append_eq_of_le (by decide)).trans <| (BitVec.extractLsb'_append_eq_of_add_le (by decide)).trans BitVec.extractLsb'_eq_self
  have h4 : x.extractLsb' 31 12 = endw := by
    rw [hx]
    exact (BitVec.extractLsb'_append_eq_of_le (by decide)).trans <| (BitVec.extractLsb'_append_eq_of_add_le (by decide)).trans BitVec.extractLsb'_eq_self
  have h5 : x.extractLsb' 0 31 = (0 : BitVec 31) := by
    rw [hx]
    exact (BitVec.extractLsb'_append_eq_of_add_le (by decide)).trans BitVec.extractLsb'_eq_self
  have he : encodeMicro (.loopm src ms cm1 endw) = x := hx.symm
  rw [he]
  refine stepRow (n := 10) (by show (x.extractLsb' 59 5).toNat = _; rw [h0]; rfl) ?_
  show (guardI (decide (mf x 0 31 = 0)) (.loopm (x.getLsbD 58) (mf x 55 3) (mf x 43 12) (mf x 31 12)) : Option Instr) = _
  simp only [mf, h0, h1, b1, h2, h3, h4, h5]
  rfl)
theorem mbr (cond : BitVec 3) (ms : BitVec 3) (tgt : BitVec 12) : Statement (.mbr cond ms tgt) := microRow (.mbr cond ms tgt) rfl (fun hw => by
  obtain ⟨x, hx⟩ : ∃ x : W64, x = ((11 : BitVec 5) ++ cond ++ ms ++ (0 : BitVec 10) ++ tgt ++ (0 : BitVec 31) : BitVec 64) := ⟨_, rfl⟩
  have h0 : x.extractLsb' 59 5 = (11 : BitVec 5) := by
    rw [hx]
    exact (BitVec.extractLsb'_append_eq_of_le (by decide)).trans <| (BitVec.extractLsb'_append_eq_of_le (by decide)).trans <| (BitVec.extractLsb'_append_eq_of_le (by decide)).trans <| (BitVec.extractLsb'_append_eq_of_le (by decide)).trans <| (BitVec.extractLsb'_append_eq_of_le (by decide)).trans <| BitVec.extractLsb'_eq_self
  have h1 : x.extractLsb' 56 3 = cond := by
    rw [hx]
    exact (BitVec.extractLsb'_append_eq_of_le (by decide)).trans <| (BitVec.extractLsb'_append_eq_of_le (by decide)).trans <| (BitVec.extractLsb'_append_eq_of_le (by decide)).trans <| (BitVec.extractLsb'_append_eq_of_le (by decide)).trans <| (BitVec.extractLsb'_append_eq_of_add_le (by decide)).trans BitVec.extractLsb'_eq_self
  have h2 : x.extractLsb' 53 3 = ms := by
    rw [hx]
    exact (BitVec.extractLsb'_append_eq_of_le (by decide)).trans <| (BitVec.extractLsb'_append_eq_of_le (by decide)).trans <| (BitVec.extractLsb'_append_eq_of_le (by decide)).trans <| (BitVec.extractLsb'_append_eq_of_add_le (by decide)).trans BitVec.extractLsb'_eq_self
  have h3 : x.extractLsb' 43 10 = (0 : BitVec 10) := by
    rw [hx]
    exact (BitVec.extractLsb'_append_eq_of_le (by decide)).trans <| (BitVec.extractLsb'_append_eq_of_le (by decide)).trans <| (BitVec.extractLsb'_append_eq_of_add_le (by decide)).trans BitVec.extractLsb'_eq_self
  have h4 : x.extractLsb' 31 12 = tgt := by
    rw [hx]
    exact (BitVec.extractLsb'_append_eq_of_le (by decide)).trans <| (BitVec.extractLsb'_append_eq_of_add_le (by decide)).trans BitVec.extractLsb'_eq_self
  have h5 : x.extractLsb' 0 31 = (0 : BitVec 31) := by
    rw [hx]
    exact (BitVec.extractLsb'_append_eq_of_add_le (by decide)).trans BitVec.extractLsb'_eq_self
  have he : encodeMicro (.mbr cond ms tgt) = x := hx.symm
  rw [he]
  refine stepRow (n := 11) (by show (x.extractLsb' 59 5).toNat = _; rw [h0]; rfl) ?_
  show (guardI (decide (mf x 43 10 = 0 ∧ mf x 0 31 = 0)) (.mbr (mf x 56 3) (mf x 53 3) (mf x 31 12)) : Option Instr) = _
  simp only [mf, h0, h1, h2, h3, h4, h5]
  rfl)
theorem padd (md : BitVec 3) (ms : BitVec 3) (src : Bool) (imm : W32) : Statement (.padd md ms src imm) := microRow (.padd md ms src imm) rfl (fun hw => by
  obtain ⟨x, hx⟩ : ∃ x : W64, x = ((12 : BitVec 5) ++ md ++ ms ++ BitVec.ofBool src ++ (0 : BitVec 20) ++ imm : BitVec 64) := ⟨_, rfl⟩
  have h0 : x.extractLsb' 59 5 = (12 : BitVec 5) := by
    rw [hx]
    exact (BitVec.extractLsb'_append_eq_of_le (by decide)).trans <| (BitVec.extractLsb'_append_eq_of_le (by decide)).trans <| (BitVec.extractLsb'_append_eq_of_le (by decide)).trans <| (BitVec.extractLsb'_append_eq_of_le (by decide)).trans <| (BitVec.extractLsb'_append_eq_of_le (by decide)).trans <| BitVec.extractLsb'_eq_self
  have h1 : x.extractLsb' 56 3 = md := by
    rw [hx]
    exact (BitVec.extractLsb'_append_eq_of_le (by decide)).trans <| (BitVec.extractLsb'_append_eq_of_le (by decide)).trans <| (BitVec.extractLsb'_append_eq_of_le (by decide)).trans <| (BitVec.extractLsb'_append_eq_of_le (by decide)).trans <| (BitVec.extractLsb'_append_eq_of_add_le (by decide)).trans BitVec.extractLsb'_eq_self
  have h2 : x.extractLsb' 53 3 = ms := by
    rw [hx]
    exact (BitVec.extractLsb'_append_eq_of_le (by decide)).trans <| (BitVec.extractLsb'_append_eq_of_le (by decide)).trans <| (BitVec.extractLsb'_append_eq_of_le (by decide)).trans <| (BitVec.extractLsb'_append_eq_of_add_le (by decide)).trans BitVec.extractLsb'_eq_self
  have h3 : x.extractLsb' 52 1 = BitVec.ofBool src := by
    rw [hx]
    exact (BitVec.extractLsb'_append_eq_of_le (by decide)).trans <| (BitVec.extractLsb'_append_eq_of_le (by decide)).trans <| (BitVec.extractLsb'_append_eq_of_add_le (by decide)).trans BitVec.extractLsb'_eq_self
  have b3 : x.getLsbD 52 = src := getLsbD_of_field _ _ _ h3
  have h4 : x.extractLsb' 32 20 = (0 : BitVec 20) := by
    rw [hx]
    exact (BitVec.extractLsb'_append_eq_of_le (by decide)).trans <| (BitVec.extractLsb'_append_eq_of_add_le (by decide)).trans BitVec.extractLsb'_eq_self
  have h5 : x.extractLsb' 0 32 = imm := by
    rw [hx]
    exact (BitVec.extractLsb'_append_eq_of_add_le (by decide)).trans BitVec.extractLsb'_eq_self
  have he : encodeMicro (.padd md ms src imm) = x := hx.symm
  rw [he]
  refine stepRow (n := 12) (by show (x.extractLsb' 59 5).toNat = _; rw [h0]; rfl) ?_
  show (guardI (decide (mf x 32 20 = 0)) (.padd (mf x 56 3) (mf x 53 3) (x.getLsbD 52) (mf x 0 32)) : Option Instr) = _
  simp only [mf, h0, h1, h2, h3, b3, h4, h5]
  rfl)
theorem performLocal (c : Nat) : Statement (.performLocal c) := eventRow (.performLocal c) rfl rfl
theorem sendRemote (c : Nat) (i : Nat) : Statement (.sendRemote c i) := eventRow (.sendRemote c i) rfl rfl
theorem flag (p : FlagAt) : Statement (.flag p) := eventRow (.flag p) rfl rfl
theorem completeRemote (c : Nat) (i : Nat) : Statement (.completeRemote c i) := eventRow (.completeRemote c i) rfl rfl
theorem engineStart (k : Nat) (e : Engine) : Statement (.engineStart k e) := eventRow (.engineStart k e) rfl rfl
theorem engineAccess (k : Nat) (e : Engine) : Statement (.engineAccess k e) := eventRow (.engineAccess k e) rfl rfl
theorem engineComplete (k : Nat) (e : Engine) : Statement (.engineComplete k e) := eventRow (.engineComplete k e) rfl rfl
theorem retryAfterExpiry (k : Nat) (e : Engine) : Statement (.retryAfterExpiry k e) := eventRow (.retryAfterExpiry k e) rfl rfl
theorem fixedResultLand (c : Nat) : Statement (.fixedResultLand c) := eventRow (.fixedResultLand c) rfl rfl
theorem variableResultLand (c : Nat) (seq : Nat) : Statement (.variableResultLand c seq) := eventRow (.variableResultLand c seq) rfl rfl
theorem nexttReply (c : Nat) (i : Nat) : Statement (.nexttReply c i) := eventRow (.nexttReply c i) rfl rfl
theorem contextSwitch (k : Nat) : Statement (.contextSwitch k) := eventRow (.contextSwitch k) rfl rfl
theorem admission (cl : Nat) (e : Nat) (i : Nat) : Statement (.admission cl e i) := eventRow (.admission cl e i) rfl rfl
theorem pickUp (c : Nat) : Statement (.pickUp c) := eventRow (.pickUp c) rfl rfl
theorem pickUpLoadComplete (c : Nat) : Statement (.pickUpLoadComplete c) := eventRow (.pickUpLoadComplete c) rfl rfl
theorem waitConditionMet (cl : Nat) (i : Nat) : Statement (.waitConditionMet cl i) := eventRow (.waitConditionMet cl i) rfl rfl
theorem priorityPreemption (cl : Nat) : Statement (.priorityPreemption cl) := eventRow (.priorityPreemption cl) rfl rfl
theorem teamQuantumExpiry (c : Nat) : Statement (.teamQuantumExpiry c) := eventRow (.teamQuantumExpiry c) rfl rfl
theorem teamPromotion (cl : Nat) (i : Nat) : Statement (.teamPromotion cl i) := eventRow (.teamPromotion cl i) rfl rfl
theorem eviction (c : Nat) : Statement (.eviction c) := eventRow (.eviction c) rfl rfl
theorem launchRequestArrival (cl : Nat) : Statement (.launchRequestArrival cl) := eventRow (.launchRequestArrival cl) rfl rfl
theorem stopFreeze (c : Nat) : Statement (.stopFreeze c) := eventRow (.stopFreeze c) rfl rfl
theorem trapEntryDelivery : Statement (.trapEntryDelivery) := eventRow (.trapEntryDelivery) rfl rfl
theorem trespResume (rec : Nat) (vf : Nat) : Statement (.trespResume rec vf) := eventRow (.trespResume rec vf) rfl rfl
theorem trespKill (rec : Nat) (vf : Nat) : Statement (.trespKill rec vf) := eventRow (.trespKill rec vf) rfl rfl
theorem trespEvict (rec : Nat) (vf : Nat) : Statement (.trespEvict rec vf) := eventRow (.trespEvict rec vf) rfl rfl
theorem watchReportArrival (c : Nat) : Statement (.watchReportArrival c) := eventRow (.watchReportArrival c) rfl rfl
theorem remoteFaultReport (c : Nat) : Statement (.remoteFaultReport c) := eventRow (.remoteFaultReport c) rfl rfl
theorem eccCorrectedError (site : EccSite) : Statement (.eccCorrectedError site) := eventRow (.eccCorrectedError site) rfl rfl
theorem eccUncorrectableError (site : EccSite) : Statement (.eccUncorrectableError site) := eventRow (.eccUncorrectableError site) rfl rfl
theorem agreeContributionArrival (i : Nat) (outside : Option Contribution) : Statement (.agreeContributionArrival i outside) := eventRow (.agreeContributionArrival i outside) rfl rfl
theorem agreeLateExpiry (vf : Nat) (gid : Nat) (seq : Nat) : Statement (.agreeLateExpiry vf gid seq) := eventRow (.agreeLateExpiry vf gid seq) rfl rfl
theorem agreeResultArrival (i : Nat) : Statement (.agreeResultArrival i) := eventRow (.agreeResultArrival i) rfl rfl
theorem linkLoss (pkg : Nat) : Statement (.linkLoss pkg) := eventRow (.linkLoss pkg) rfl rfl
theorem collSend (k : Nat) : Statement (.collSend k) := eventRow (.collSend k) rfl rfl
theorem collRadd (k : Nat) (data : PortData) : Statement (.collRadd k data) := eventRow (.collRadd k data) rfl rfl
theorem collRstore (k : Nat) (data : PortData) : Statement (.collRstore k data) := eventRow (.collRstore k data) rfl rfl
theorem collFlag (k : Nat) : Statement (.collFlag k) := eventRow (.collFlag k) rfl rfl
theorem partSet : Statement (.partSet) := eventRow (.partSet) rfl rfl
theorem vfSet : Statement (.vfSet) := eventRow (.vfSet) rfl rfl
theorem inval : Statement (.inval) := eventRow (.inval) rfl rfl
theorem groupSet : Statement (.groupSet) := eventRow (.groupSet) rfl rfl
theorem groupDel : Statement (.groupDel) := eventRow (.groupDel) rfl rfl
theorem schedSet : Statement (.schedSet) := eventRow (.schedSet) rfl rfl
theorem queueSet : Statement (.queueSet) := eventRow (.queueSet) rfl rfl
theorem switch : Statement (.switch) := eventRow (.switch) rfl rfl
theorem partReset : Statement (.partReset) := eventRow (.partReset) rfl rfl
theorem readmit : Statement (.readmit) := eventRow (.readmit) rfl rfl
theorem coreRetire : Statement (.coreRetire) := eventRow (.coreRetire) rfl rfl
theorem coreRetireMapping : Statement (.coreRetireMapping) := eventRow (.coreRetireMapping) rfl rfl
theorem migrateOut : Statement (.migrateOut) := eventRow (.migrateOut) rfl rfl
theorem migrateIn : Statement (.migrateIn) := eventRow (.migrateIn) rfl rfl
theorem switchTick (p : Nat) : Statement (.switchTick p) := eventRow (.switchTick p) rfl rfl
theorem operatorBoundarySave (p : Nat) (d : Nat) : Statement (.operatorBoundarySave p d) := eventRow (.operatorBoundarySave p d) rfl rfl
theorem saveDeadlineExpiry (p : Nat) : Statement (.saveDeadlineExpiry p) := eventRow (.saveDeadlineExpiry p) rfl rfl
theorem tierSwap (p : Nat) (d : Nat) : Statement (.tierSwap p d) := eventRow (.tierSwap p d) rfl rfl
theorem pageMoveComplete (d : Nat) : Statement (.pageMoveComplete d) := eventRow (.pageMoveComplete d) rfl rfl
theorem residencyGateOpen (p : Nat) (d : Nat) : Statement (.residencyGateOpen p d) := eventRow (.residencyGateOpen p d) rfl rfl
theorem queueNotify (n : BitVec 192) : Statement (.queueNotify n) := eventRow (.queueNotify n) rfl rfl
theorem heartbeat (h : Nat) : Statement (.heartbeat h) := eventRow (.heartbeat h) rfl rfl
theorem heartbeatTimeout (h : Nat) : Statement (.heartbeatTimeout h) := eventRow (.heartbeatTimeout h) rfl rfl
theorem hartRebuildComplete (h : Nat) : Statement (.hartRebuildComplete h) := eventRow (.hartRebuildComplete h) rfl rfl
theorem supDown : Statement (.supDown) := eventRow (.supDown) rfl rfl
theorem supervisorRestart (images : List (Option Nat × Image)) : Statement (.supervisorRestart images) := eventRow (.supervisorRestart images) rfl rfl
theorem powerOn (failed : List Nat) (images : List (Option Nat × Image)) : Statement (.powerOn failed images) := eventRow (.powerOn failed images) rfl rfl
theorem traceSample : Statement (.traceSample) := eventRow (.traceSample) rfl rfl
theorem registerWrite (ofs : Nat) (v : W64) : Statement (.registerWrite ofs v) := eventRow (.registerWrite ofs v) rfl rfl
theorem wfeDeadline (c : Nat) : Statement (.wfeDeadline c) := eventRow (.wfeDeadline c) rfl rfl
theorem linkBringUp (pkg : Nat) (caps : BitVec 3) : Statement (.linkBringUp pkg caps) := eventRow (.linkBringUp pkg caps) rfl rfl
theorem workQueueRecordWrite (qid : Nat) (ofs : Nat) (data : List Byte) : Statement (.workQueueRecordWrite qid ofs data) := eventRow (.workQueueRecordWrite qid ofs data) rfl rfl

end Sys2Proof.Laws.RoundTrip
end

