-- ==== Sys2Proof/Laws/Signature.lean ====
section
/-! SUPPORT. Images that verify exist: under a public key whose t1 is zero, the response zero with no hint and the commitment hash of a zero w1 is a
signature of any message (FIPS 204), and any 64 bytes can be fused. -/

namespace Sys2Proof.Machine

theorem sponge_length (rate : Nat) (suffix : Byte) (bs : List Byte) (n : Nat) : (sponge rate suffix bs n).length = n := by simp [sponge]

/-! ### Polynomials that are zero -/

theorem replicate_getD (n i : Nat) : (List.replicate n (0 : Nat)).getD i 0 = 0 := by
  rw [List.getD_eq_getElem?_getD, List.getElem?_replicate]; split <;> rfl
theorem polyOf_const (f : Nat → Nat) (h : ∀ i, i < 256 → f i = 0) : polyOf f = polyZero :=
  (List.map_congr_left fun i hi => h i (List.mem_range.mp hi)).trans (by rw [List.map_const', List.length_range]; rfl)
theorem polyMul_zero (a : Poly) : polyMul a polyZero = polyZero :=
  polyOf_const _ fun i _ => by rw [show polyZero.getD i 0 = 0 from replicate_getD 256 i]; rfl
theorem ntt_zero : ntt polyZero = polyZero := by decide +kernel
theorem intt_zero : intt polyZero = polyZero := by decide +kernel
theorem polyAdd_zero : polyAdd polyZero polyZero = polyZero := by decide +kernel
theorem polySub_zero : polySub polyZero polyZero = polyZero := by decide +kernel
theorem times_zero : (polyOf fun n => polyZero.getD n 0 * 2 ^ 13 % mlQ) = polyZero := by decide +kernel
theorem approxW_zero (rho : List Byte) (c : Poly) (i : Nat) (zs : List Poly) (hz : ∀ j, zs.getD j polyZero = polyZero) : approxW rho zs c polyZero i = polyZero := by
  have hf : ∀ l : List Nat, l.foldl (fun (s : Poly) j => polyAdd s (polyMul (expandA rho i j) (zs.getD j polyZero))) polyZero = polyZero := by
    intro l; induction l with
    | nil => rfl
    | cons j r ih => rw [List.foldl_cons, hz, polyMul_zero, polyAdd_zero]; exact ih
  unfold approxW; simp only [hf, times_zero, ntt_zero, polyMul_zero, polySub_zero, intt_zero]

/-! ### The signature -/

/-- A public key of zeros. -/
def zeroKey : List Byte := List.replicate mlPkLen 0
/-- Responses that are zero: every field of 20 bits holds γ1. -/
def zeroZ : List Byte := (List.replicate 896 [0, 0, 8, 0, 0x80]).flatten
/-- A signature of a message under the zero key. -/
def zeroSig (msg : List Byte) : List Byte := shake256 (mlMu zeroKey msg ++ List.replicate 1024 0) 64 ++ (zeroZ ++ List.replicate 83 0)

theorem zeroSig_hint (msg : List Byte) : sigHint (zeroSig msg) = List.replicate 83 0 := by
  unfold sigHint zeroSig
  have h : (shake256 (mlMu zeroKey msg ++ List.replicate 1024 0) 64).length = 64 := sponge_length ..
  rw [List.drop_append, h, List.drop_of_length_le (by omega)]
  decide +kernel
theorem zeroZ_part : ∀ i, i < 7 → ((zeroZ ++ List.replicate 83 0).drop (640 * i)).take 640 = (List.replicate 128 [0, 0, 8, 0, 0x80]).flatten := by decide +kernel
theorem zeroZ_field : ∀ j, j < 256 → bitsAt (List.replicate 128 [0, 0, 8, 0, 0x80]).flatten 20 j = 2 ^ 19 := by decide +kernel
theorem zeroSig_z (msg : List Byte) (i j : Nat) (hi : i < 7) (hj : j < 256) : sigZ (zeroSig msg) i j = 0 := by
  unfold sigZ zeroSig
  have h : (shake256 (mlMu zeroKey msg ++ List.replicate 1024 0) 64).length = 64 := sponge_length ..
  rw [List.drop_append, h, List.drop_of_length_le (by omega), show 64 + 640 * i - 64 = 640 * i by omega, List.nil_append, zeroZ_part i hi, zeroZ_field j hj]
  rfl
theorem zeroSig_poly (msg : List Byte) (i : Nat) (hi : i < 7) : sigPoly (zeroSig msg) i = polyZero := by
  exact polyOf_const _ fun j hj => by rw [zeroSig_z msg i j hi hj]; rfl
theorem zeroKey_t1 (i : Nat) (hi : i < 8) : pkT1 zeroKey i = polyZero := by
  unfold pkT1 zeroKey mlPkLen
  rw [List.drop_replicate, List.take_replicate, Nat.min_eq_left (by omega)]
  decide +kernel
theorem zeroHint_none : ∀ i, i < 8 → ∀ j, hintAt (List.replicate 83 0) i j = false := by
  intro i hi j
  have h : ∀ n, n < 9 → (if n = 0 then 0 else ((List.replicate 83 (0 : Byte)).getD (74 + n) 0).toNat) = 0 := by decide +kernel
  unfold hintAt
  simp only [h (i + 1) (by omega), h i (by omega)]
  rfl
theorem useHint_zero : (polyOf fun j => useHint false (polyZero.getD j 0)) = polyZero := by decide +kernel

theorem zeroSig_verifies (msg : List Byte) : mldsaVerify zeroKey msg (zeroSig msg) = true := by
  have h : (shake256 (mlMu zeroKey msg ++ List.replicate 1024 0) 64).length = 64 := sponge_length ..
  have hc : (zeroSig msg).take 64 = shake256 (mlMu zeroKey msg ++ List.replicate 1024 0) 64 := by
    unfold zeroSig; rw [List.take_append, h, List.take_of_length_le (by omega), Nat.sub_self, List.take_zero, List.append_nil]
  have hz : ∀ j, ((List.range 7).map fun i => ntt (sigPoly (zeroSig msg) i)).getD j polyZero = polyZero := by
    intro j
    by_cases hj : j < 7
    · simp [List.getD, hj, zeroSig_poly msg j hj, ntt_zero]
    · simp [List.getD, hj]
  have hw : ((List.range 8).map fun i => polyOf fun j => useHint (hintAt (sigHint (zeroSig msg)) i j)
      ((approxW (zeroKey.take 32) ((List.range 7).map fun i => ntt (sigPoly (zeroSig msg) i)) (ntt (sampleInBall ((zeroSig msg).take 64))) (pkT1 zeroKey i) i).getD j 0))
      = List.replicate 8 polyZero := by
    rw [List.map_congr_left (g := fun _ => polyZero) fun i hi => by
      have hi' : i < 8 := by simpa using hi
      simp only [zeroKey_t1 i hi', zeroSig_hint, zeroHint_none i hi', approxW_zero _ _ _ _ hz, useHint_zero]]
    rfl
  unfold mldsaVerify
  simp only [Bool.and_eq_true, decide_eq_true_eq, List.all_eq_true, List.mem_range]
  refine ⟨⟨⟨⟨by decide +kernel, ?_⟩, ?_⟩, fun i hi j hj => ?_⟩, ?_⟩
  · unfold zeroSig; rw [List.length_append, h]; decide +kernel
  · rw [zeroSig_hint]; decide +kernel
  · rw [zeroSig_z msg i j hi hj]; decide
  · refine hc.trans ?_
    refine Eq.trans ?_ (congrArg (fun l => shake256 (mlMu zeroKey msg ++ encodeW1 l) 64) hw.symm)
    exact congrArg (fun l => shake256 (mlMu zeroKey msg ++ l) 64) (by decide +kernel)

/-! ### What can be fused -/

/-- Bytes as a number, the first lowest. -/
def bytesNat (l : List Byte) : Nat := l.foldr (fun b n => b.toNat + 256 * n) 0
/-- A fused hash from its bytes. -/
def fuseOf (l : List Byte) : BitVec 512 := BitVec.ofNat 512 (bytesNat l)
theorem bytesNat_digit (l : List Byte) : ∀ j, bytesNat l / 256 ^ j % 256 = (l.getD j 0).toNat := by
  induction l with
  | nil => intro j; simp [bytesNat]
  | cons b r ih =>
    intro j
    have hb := b.isLt
    have hc : bytesNat (b :: r) = b.toNat + 256 * bytesNat r := rfl
    cases j with
    | zero => simp [hc]; omega
    | succ j =>
      rw [hc, Nat.pow_succ, Nat.mul_comm (256 ^ j), ← Nat.div_div_eq_div_mul, show (b.toNat + 256 * bytesNat r) / 256 = bytesNat r by omega]
      simpa using ih j
theorem bytesNat_lt (l : List Byte) : bytesNat l < 256 ^ l.length := by
  induction l with
  | nil => decide
  | cons b r ih =>
    have hb := b.isLt
    have hc : bytesNat (b :: r) = b.toNat + 256 * bytesNat r := rfl
    rw [hc, List.length_cons, Nat.pow_succ]; omega
theorem hashBytes_fuseOf (l : List Byte) (h : l.length = 64) : hashBytes (fuseOf l) = l := by
  unfold hashBytes
  refine List.ext_getElem (by simp [h]) fun j hj _ => ?_
  have hj' : j < 64 := by simpa using hj
  have hl : ∀ n m, n = 8 * m → l.length = m → bytesNat l < 2 ^ n := fun n m hn hm => by
    have := bytesNat_lt l; rwa [hm, show (256 : Nat) = 2 ^ 8 from rfl, ← Nat.pow_mul, ← hn] at this
  apply BitVec.eq_of_toNat_eq
  have hd := bytesNat_digit l j
  have hg : l.getD j 0 = l[j] := by rw [List.getD_eq_getElem?_getD, List.getElem?_eq_getElem (by omega)]; rfl
  simp only [List.getElem_map, List.getElem_range, BitVec.extractLsb'_toNat, fuseOf, BitVec.toNat_ofNat, Nat.shiftRight_eq_div_pow]
  rw [Nat.mod_eq_of_lt (hl 512 64 rfl h), Nat.pow_mul, ← hg, ← hd]

/-! ### An image -/

/-- The header of an image with one byte of sequencer firmware: version 1, its length, and 4000H as base and entry of the firmware. -/
def zeroHeader : List Byte := [1, 0, 0, 0, 0, 0, 0, 0, 0x54, 0x12, 0, 0, 0, 0, 0, 0] ++ [0, 0x40, 0, 0, 0, 0, 0, 0] ++ [0, 0x40, 0, 0, 0, 0, 0, 0] ++ List.replicate 32 0
/-- An image signed under the zero key. -/
def zeroImage : Image := ⟨zeroHeader, [5], zeroSig (sha3_512 (zeroHeader ++ [5])), zeroKey⟩
/-- The hash that lets it verify. -/
def zeroFuse : BitVec 512 := fuseOf (sha3_512 zeroKey)
theorem zeroImage_ok (fuse : W32) (h : fuse.toNat ≤ 1) : imageOk fuse zeroFuse zeroImage = true := by
  have hs : (zeroSig (sha3_512 (zeroHeader ++ [5]))).length = 4627 := by
    unfold zeroSig; rw [List.length_append, show (shake256 _ 64).length = 64 from sponge_length ..]; decide +kernel
  unfold imageOk zeroFuse
  rw [show zeroImage.publicKey = zeroKey from rfl, hashBytes_fuseOf _ (show (sha3_512 zeroKey).length = 64 from sponge_length ..)]
  have hv : mldsaVerify zeroKey (sha3_512 (zeroImage.header ++ zeroImage.body)) zeroImage.signature = true := zeroSig_verifies _
  rw [hv]
  have hl : headerField zeroImage 8 8 = imageLength zeroImage := by
    unfold imageLength; rw [show zeroImage.signature.length = 4627 from hs]; decide +kernel
  have hh : zeroImage.header.length = 64 := by decide +kernel
  have h0 : headerField zeroImage 0 4 = 1 := by decide +kernel
  simp [hl, hh, h0, h]

end Sys2Proof.Machine
end

