-- ==== Sys2Proof/Laws/Slots.lean ====
section
/-! SUPPORT. The effect of every slot keeps the agenda and the form of memory. -/

namespace Sys2Proof.Machine

/-! ### Slots -/

/-- The effect of a slot, and what its presentation starts, keep the agenda and the form of memory. -/
def Slot.Mild (sl : Slot) : Prop := (∀ s, Tame s (sl.eff s)) ∧ ∀ s, Tame s (sl.present s)

theorem Slot.mild_of {sl : Slot} (h : ∀ s, Tame s (sl.eff s)) (k : ∀ s, Tame s (sl.present s)) : sl.Mild := ⟨h, k⟩
theorem Slot.finish_mild {sl : Slot} {e : Env} {ops : List Opnd} {psn : List (W64 × Nat)} (h : sl.Mild) : (sl.finish e ops psn).Mild := by
  unfold Slot.finish
  dsimp only
  split
  · exact ⟨fun s => (State.modCtx_tame ..).trans (h.1 _), h.2⟩
  · exact ⟨fun s => .refl s, fun s => .refl s⟩

theorem xRRR_mild (e : Env) (legal : Bool) (o : R3) (lat : Nat) (f : W64 → W64 → W64) : (xRRR e legal o lat f).Mild := by
  unfold xRRR
  try dsimp only
  repeat' (first | with_reducible exact Tame.refl _ | with_reducible assumption | with_reducible apply Slot.finish_mild | with_reducible apply Slot.mild_of | intro _ | with_reducible apply Env.fixed_tame' | (with_reducible apply Tame.foldl; intro _ _ _) | split | exact Tame.same (Tame.refl _) rfl rfl | dsimp only)
theorem xRR_mild (e : Env) (legal : Bool) (o : R2) (lat : Nat) (f : W64 → W64) : (xRR e legal o lat f).Mild := by
  unfold xRR
  try dsimp only
  repeat' (first | with_reducible exact Tame.refl _ | with_reducible assumption | with_reducible apply Slot.finish_mild | with_reducible apply Slot.mild_of | intro _ | with_reducible apply Env.fixed_tame' | (with_reducible apply Tame.foldl; intro _ _ _) | split | exact Tame.same (Tame.refl _) rfl rfl | dsimp only)
theorem xRI_mild (e : Env) (o : RI) (f : W64 → W64 → W64) : (xRI e o f).Mild := by
  unfold xRI
  try dsimp only
  repeat' (first | with_reducible exact Tame.refl _ | with_reducible assumption | with_reducible apply Slot.finish_mild | with_reducible apply Slot.mild_of | intro _ | with_reducible apply Env.fixed_tame' | (with_reducible apply Tame.foldl; intro _ _ _) | split | exact Tame.same (Tame.refl _) rfl rfl | dsimp only)
theorem xShift_mild (e : Env) (d a : BitVec 5) (f : W64 → W64) : (xShift e d a f).Mild := by
  unfold xShift
  try dsimp only
  repeat' (first | with_reducible exact Tame.refl _ | with_reducible assumption | with_reducible apply Slot.finish_mild | with_reducible apply Slot.mild_of | intro _ | with_reducible apply Env.fixed_tame' | (with_reducible apply Tame.foldl; intro _ _ _) | split | exact Tame.same (Tame.refl _) rfl rfl | dsimp only)
theorem slotNop_mild (u0_ : State) : (slotNop u0_).Mild := by
  unfold slotNop
  try dsimp only
  repeat' (first | with_reducible exact Tame.refl _ | with_reducible assumption | with_reducible apply Slot.finish_mild | with_reducible apply Slot.mild_of | intro _ | (with_reducible apply Tame.foldl; intro _ _ _) | split | exact Tame.same (Tame.refl _) rfl rfl | dsimp only)
theorem slotAdd_mild (o : R3) (s : State) : (slotAdd o s).Mild := by
  unfold slotAdd
  try dsimp only
  repeat' (first | with_reducible exact Tame.refl _ | with_reducible assumption | with_reducible apply xRRR_mild | with_reducible apply Slot.finish_mild | with_reducible apply Slot.mild_of | intro _ | (with_reducible apply Tame.foldl; intro _ _ _) | split | exact Tame.same (Tame.refl _) rfl rfl | dsimp only)
theorem slotSub_mild (o : R3) (s : State) : (slotSub o s).Mild := by
  unfold slotSub
  try dsimp only
  repeat' (first | with_reducible exact Tame.refl _ | with_reducible assumption | with_reducible apply xRRR_mild | with_reducible apply Slot.finish_mild | with_reducible apply Slot.mild_of | intro _ | (with_reducible apply Tame.foldl; intro _ _ _) | split | exact Tame.same (Tame.refl _) rfl rfl | dsimp only)
theorem slotAddr_mild (o : R3) (v : BitVec 4) (s : State) : (slotAddr o v s).Mild := by
  unfold slotAddr
  try dsimp only
  repeat' (first | with_reducible exact Tame.refl _ | with_reducible assumption | with_reducible apply xRRR_mild | with_reducible apply Slot.finish_mild | with_reducible apply Slot.mild_of | intro _ | (with_reducible apply Tame.foldl; intro _ _ _) | split | exact Tame.same (Tame.refl _) rfl rfl | dsimp only)
theorem slotAnd_mild (o : R3) (s : State) : (slotAnd o s).Mild := by
  unfold slotAnd
  try dsimp only
  repeat' (first | with_reducible exact Tame.refl _ | with_reducible assumption | with_reducible apply xRRR_mild | with_reducible apply Slot.finish_mild | with_reducible apply Slot.mild_of | intro _ | (with_reducible apply Tame.foldl; intro _ _ _) | split | exact Tame.same (Tame.refl _) rfl rfl | dsimp only)
theorem slotOr_mild (o : R3) (s : State) : (slotOr o s).Mild := by
  unfold slotOr
  try dsimp only
  repeat' (first | with_reducible exact Tame.refl _ | with_reducible assumption | with_reducible apply xRRR_mild | with_reducible apply Slot.finish_mild | with_reducible apply Slot.mild_of | intro _ | (with_reducible apply Tame.foldl; intro _ _ _) | split | exact Tame.same (Tame.refl _) rfl rfl | dsimp only)
theorem slotXor_mild (o : R3) (s : State) : (slotXor o s).Mild := by
  unfold slotXor
  try dsimp only
  repeat' (first | with_reducible exact Tame.refl _ | with_reducible assumption | with_reducible apply xRRR_mild | with_reducible apply Slot.finish_mild | with_reducible apply Slot.mild_of | intro _ | (with_reducible apply Tame.foldl; intro _ _ _) | split | exact Tame.same (Tame.refl _) rfl rfl | dsimp only)
theorem slotShl_mild (o : R3) (w : Bool) (s : State) : (slotShl o w s).Mild := by
  unfold slotShl
  try dsimp only
  repeat' (first | with_reducible exact Tame.refl _ | with_reducible assumption | with_reducible apply xRRR_mild | with_reducible apply Slot.finish_mild | with_reducible apply Slot.mild_of | intro _ | (with_reducible apply Tame.foldl; intro _ _ _) | split | exact Tame.same (Tame.refl _) rfl rfl | dsimp only)
theorem slotShr_mild (o : R3) (w : Bool) (s : State) : (slotShr o w s).Mild := by
  unfold slotShr
  try dsimp only
  repeat' (first | with_reducible exact Tame.refl _ | with_reducible assumption | with_reducible apply xRRR_mild | with_reducible apply Slot.finish_mild | with_reducible apply Slot.mild_of | intro _ | (with_reducible apply Tame.foldl; intro _ _ _) | split | exact Tame.same (Tame.refl _) rfl rfl | dsimp only)
theorem slotSra_mild (o : R3) (w : Bool) (s : State) : (slotSra o w s).Mild := by
  unfold slotSra
  try dsimp only
  repeat' (first | with_reducible exact Tame.refl _ | with_reducible assumption | with_reducible apply xRRR_mild | with_reducible apply Slot.finish_mild | with_reducible apply Slot.mild_of | intro _ | (with_reducible apply Tame.foldl; intro _ _ _) | split | exact Tame.same (Tame.refl _) rfl rfl | dsimp only)
theorem slotMul_mild (o : R3) (s : State) : (slotMul o s).Mild := by
  unfold slotMul
  try dsimp only
  repeat' (first | with_reducible exact Tame.refl _ | with_reducible assumption | with_reducible apply xRRR_mild | with_reducible apply Slot.finish_mild | with_reducible apply Slot.mild_of | intro _ | (with_reducible apply Tame.foldl; intro _ _ _) | split | exact Tame.same (Tame.refl _) rfl rfl | dsimp only)
theorem slotMulh_mild (o : R3) (v : BitVec 4) (s : State) : (slotMulh o v s).Mild := by
  unfold slotMulh
  try dsimp only
  repeat' (first | with_reducible exact Tame.refl _ | with_reducible assumption | with_reducible apply xRRR_mild | with_reducible apply Slot.finish_mild | with_reducible apply Slot.mild_of | intro _ | (with_reducible apply Tame.foldl; intro _ _ _) | split | exact Tame.same (Tame.refl _) rfl rfl | dsimp only)
theorem slotMin_mild (o : R3) (u : Bool) (s : State) : (slotMin o u s).Mild := by
  unfold slotMin
  try dsimp only
  repeat' (first | with_reducible exact Tame.refl _ | with_reducible assumption | with_reducible apply xRRR_mild | with_reducible apply Slot.finish_mild | with_reducible apply Slot.mild_of | intro _ | (with_reducible apply Tame.foldl; intro _ _ _) | split | exact Tame.same (Tame.refl _) rfl rfl | dsimp only)
theorem slotMax_mild (o : R3) (u : Bool) (s : State) : (slotMax o u s).Mild := by
  unfold slotMax
  try dsimp only
  repeat' (first | with_reducible exact Tame.refl _ | with_reducible assumption | with_reducible apply xRRR_mild | with_reducible apply Slot.finish_mild | with_reducible apply Slot.mild_of | intro _ | (with_reducible apply Tame.foldl; intro _ _ _) | split | exact Tame.same (Tame.refl _) rfl rfl | dsimp only)
theorem slotCmp_mild (o : R3) (v : BitVec 4) (s : State) : (slotCmp o v s).Mild := by
  unfold slotCmp
  try dsimp only
  repeat' (first | with_reducible exact Tame.refl _ | with_reducible assumption | with_reducible apply xRRR_mild | with_reducible apply Slot.finish_mild | with_reducible apply Slot.mild_of | intro _ | (with_reducible apply Tame.foldl; intro _ _ _) | split | exact Tame.same (Tame.refl _) rfl rfl | dsimp only)
theorem slotSel_mild (o : R3) (z : Bool) (s : State) : (slotSel o z s).Mild := by
  unfold slotSel
  try dsimp only
  repeat' (first | with_reducible exact Tame.refl _ | with_reducible assumption | with_reducible apply Slot.finish_mild | with_reducible apply Slot.mild_of | intro _ | with_reducible apply Env.fixed_tame' | (with_reducible apply Tame.foldl; intro _ _ _) | split | exact Tame.same (Tame.refl _) rfl rfl | dsimp only)
theorem slotClz_mild (o : R2) (w : Bool) (s : State) : (slotClz o w s).Mild := by
  unfold slotClz
  try dsimp only
  repeat' (first | with_reducible exact Tame.refl _ | with_reducible assumption | with_reducible apply xRR_mild | with_reducible apply Slot.finish_mild | with_reducible apply Slot.mild_of | intro _ | (with_reducible apply Tame.foldl; intro _ _ _) | split | exact Tame.same (Tame.refl _) rfl rfl | dsimp only)
theorem slotPopc_mild (o : R2) (w : Bool) (s : State) : (slotPopc o w s).Mild := by
  unfold slotPopc
  try dsimp only
  repeat' (first | with_reducible exact Tame.refl _ | with_reducible assumption | with_reducible apply xRR_mild | with_reducible apply Slot.finish_mild | with_reducible apply Slot.mild_of | intro _ | (with_reducible apply Tame.foldl; intro _ _ _) | split | exact Tame.same (Tame.refl _) rfl rfl | dsimp only)
theorem slotAddi_mild (o : RI) (s : State) : (slotAddi o s).Mild := by
  unfold slotAddi
  try dsimp only
  repeat' (first | with_reducible exact Tame.refl _ | with_reducible assumption | with_reducible apply xRI_mild | with_reducible apply Slot.finish_mild | with_reducible apply Slot.mild_of | intro _ | (with_reducible apply Tame.foldl; intro _ _ _) | split | exact Tame.same (Tame.refl _) rfl rfl | dsimp only)
theorem slotAndi_mild (o : RI) (s : State) : (slotAndi o s).Mild := by
  unfold slotAndi
  try dsimp only
  repeat' (first | with_reducible exact Tame.refl _ | with_reducible assumption | with_reducible apply xRI_mild | with_reducible apply Slot.finish_mild | with_reducible apply Slot.mild_of | intro _ | (with_reducible apply Tame.foldl; intro _ _ _) | split | exact Tame.same (Tame.refl _) rfl rfl | dsimp only)
theorem slotOri_mild (o : RI) (s : State) : (slotOri o s).Mild := by
  unfold slotOri
  try dsimp only
  repeat' (first | with_reducible exact Tame.refl _ | with_reducible assumption | with_reducible apply xRI_mild | with_reducible apply Slot.finish_mild | with_reducible apply Slot.mild_of | intro _ | (with_reducible apply Tame.foldl; intro _ _ _) | split | exact Tame.same (Tame.refl _) rfl rfl | dsimp only)
theorem slotXori_mild (o : RI) (s : State) : (slotXori o s).Mild := by
  unfold slotXori
  try dsimp only
  repeat' (first | with_reducible exact Tame.refl _ | with_reducible assumption | with_reducible apply xRI_mild | with_reducible apply Slot.finish_mild | with_reducible apply Slot.mild_of | intro _ | (with_reducible apply Tame.foldl; intro _ _ _) | split | exact Tame.same (Tame.refl _) rfl rfl | dsimp only)
theorem slotCmpi_mild (o : RI) (s : State) : (slotCmpi o s).Mild := by
  unfold slotCmpi
  try dsimp only
  repeat' (first | with_reducible exact Tame.refl _ | with_reducible assumption | with_reducible apply xRI_mild | with_reducible apply Slot.finish_mild | with_reducible apply Slot.mild_of | intro _ | (with_reducible apply Tame.foldl; intro _ _ _) | split | exact Tame.same (Tame.refl _) rfl rfl | dsimp only)
theorem slotShli_mild (d a : BitVec 5) (n : BitVec 6) (s : State) : (slotShli d a n s).Mild := by
  unfold slotShli
  try dsimp only
  repeat' (first | with_reducible exact Tame.refl _ | with_reducible assumption | with_reducible apply xShift_mild | with_reducible apply Slot.finish_mild | with_reducible apply Slot.mild_of | intro _ | (with_reducible apply Tame.foldl; intro _ _ _) | split | exact Tame.same (Tame.refl _) rfl rfl | dsimp only)
theorem slotShri_mild (d a : BitVec 5) (n : BitVec 6) (s : State) : (slotShri d a n s).Mild := by
  unfold slotShri
  try dsimp only
  repeat' (first | with_reducible exact Tame.refl _ | with_reducible assumption | with_reducible apply xShift_mild | with_reducible apply Slot.finish_mild | with_reducible apply Slot.mild_of | intro _ | (with_reducible apply Tame.foldl; intro _ _ _) | split | exact Tame.same (Tame.refl _) rfl rfl | dsimp only)
theorem slotSrai_mild (d a : BitVec 5) (n : BitVec 6) (s : State) : (slotSrai d a n s).Mild := by
  unfold slotSrai
  try dsimp only
  repeat' (first | with_reducible exact Tame.refl _ | with_reducible assumption | with_reducible apply xShift_mild | with_reducible apply Slot.finish_mild | with_reducible apply Slot.mild_of | intro _ | (with_reducible apply Tame.foldl; intro _ _ _) | split | exact Tame.same (Tame.refl _) rfl rfl | dsimp only)
theorem slotLi_mild (d : BitVec 5) (imm : BitVec 16) (s : State) : (slotLi d imm s).Mild := by
  unfold slotLi
  try dsimp only
  repeat' (first | with_reducible exact Tame.refl _ | with_reducible assumption | with_reducible apply Slot.finish_mild | with_reducible apply Slot.mild_of | intro _ | with_reducible apply Env.fixed_tame' | (with_reducible apply Tame.foldl; intro _ _ _) | split | exact Tame.same (Tame.refl _) rfl rfl | dsimp only)
theorem slotLih_mild (d : BitVec 5) (imm : BitVec 16) (s : State) : (slotLih d imm s).Mild := by
  unfold slotLih
  try dsimp only
  repeat' (first | with_reducible exact Tame.refl _ | with_reducible assumption | with_reducible apply Slot.finish_mild | with_reducible apply Slot.mild_of | intro _ | with_reducible apply Env.fixed_tame' | (with_reducible apply Tame.foldl; intro _ _ _) | split | exact Tame.same (Tame.refl _) rfl rfl | dsimp only)
theorem slotMovx_mild (o : R2) (v : BitVec 4) (s : State) : (slotMovx o v s).Mild := by
  have hf (sl : Slot) (e : Env) (ops : List Opnd) (psn : List (W64 × Nat)) (h : sl.Mild) (b : Bool) (f : Slot → Slot)
      (h1 : ∀ t, (f t).eff = t.eff) (h2 : ∀ t, (f t).present = t.present) :
      (if b then f (sl.finish e ops psn) else sl.finish e ops psn).Mild := by
    have := Slot.finish_mild (e := e) (ops := ops) (psn := psn) h
    cases b
    · exact this
    · exact ⟨by simpa [h1] using this.1, by simpa [h2] using this.2⟩
  refine hf _ _ _ _ ⟨fun t => ?_, fun t => .refl t⟩ _ (fun f => { f with reads := f.reads.filter fun (r : File × Nat) => decide (r.1 ≠ .n) })
    (fun _ => rfl) (fun _ => rfl)
  dsimp only
  refine State.modCtx_tame' ?_
  split
  · exact State.modCtx_tame ..
  · exact .refl _
theorem yRRR_mild (e : Env) (legal : Bool) (o : R3) (lat : Nat) (f : W64 → W64 → W64 × BitVec 5) : (yRRR e legal o lat f).Mild := by
  unfold yRRR
  try dsimp only
  repeat' (first | with_reducible exact Tame.refl _ | with_reducible assumption | with_reducible apply Slot.finish_mild | with_reducible apply Slot.mild_of | intro _ | with_reducible apply Env.fixedF_tame' | (with_reducible apply Tame.foldl; intro _ _ _) | split | exact Tame.same (Tame.refl _) rfl rfl | dsimp only)
theorem yRound_mild (e : Env) (legal : Bool) (o : R3) (rmf : BitVec 3) (lat : Nat) (f : W32 → W32 → Rm → W32 → W32 × BitVec 5) : (yRound e legal o rmf lat f).Mild := by
  unfold yRound
  try dsimp only
  repeat' (first | with_reducible exact Tame.refl _ | with_reducible assumption | with_reducible apply Slot.finish_mild | with_reducible apply Slot.mild_of | intro _ | with_reducible apply State.modCtx_tame' | with_reducible apply Env.fixedF_tame' | (with_reducible apply Tame.foldl; intro _ _ _) | split | exact Tame.same (Tame.refl _) rfl rfl | dsimp only)
theorem yRound1_mild (e : Env) (legal : Bool) (o : R2) (rmf : BitVec 3) (lat : Nat) (f : W64 → Rm → W32 → W64 × BitVec 5) : (yRound1 e legal o rmf lat f).Mild := by
  unfold yRound1
  try dsimp only
  repeat' (first | with_reducible exact Tame.refl _ | with_reducible assumption | with_reducible apply Slot.finish_mild | with_reducible apply Slot.mild_of | intro _ | with_reducible apply State.modCtx_tame' | with_reducible apply Env.fixedF_tame' | (with_reducible apply Tame.foldl; intro _ _ _) | split | exact Tame.same (Tame.refl _) rfl rfl | dsimp only)
theorem slotDiv_mild (o : R3) (v : BitVec 4) (s : State) : (slotDiv o v s).Mild := by
  unfold slotDiv
  try dsimp only
  repeat' (first | with_reducible exact Tame.refl _ | with_reducible assumption | with_reducible apply yRRR_mild | with_reducible apply Slot.finish_mild | with_reducible apply Slot.mild_of | intro _ | (with_reducible apply Tame.foldl; intro _ _ _) | split | exact Tame.same (Tame.refl _) rfl rfl | dsimp only)
theorem slotFadd_mild (o : R3) (rm : BitVec 3) (s : State) : (slotFadd o rm s).Mild := by
  unfold slotFadd
  try dsimp only
  repeat' (first | with_reducible exact Tame.refl _ | with_reducible assumption | with_reducible apply yRound_mild | with_reducible apply Slot.finish_mild | with_reducible apply Slot.mild_of | intro _ | (with_reducible apply Tame.foldl; intro _ _ _) | split | exact Tame.same (Tame.refl _) rfl rfl | dsimp only)
theorem slotFsub_mild (o : R3) (rm : BitVec 3) (s : State) : (slotFsub o rm s).Mild := by
  unfold slotFsub
  try dsimp only
  repeat' (first | with_reducible exact Tame.refl _ | with_reducible assumption | with_reducible apply yRound_mild | with_reducible apply Slot.finish_mild | with_reducible apply Slot.mild_of | intro _ | (with_reducible apply Tame.foldl; intro _ _ _) | split | exact Tame.same (Tame.refl _) rfl rfl | dsimp only)
theorem slotFmul_mild (o : R3) (rm : BitVec 3) (s : State) : (slotFmul o rm s).Mild := by
  unfold slotFmul
  try dsimp only
  repeat' (first | with_reducible exact Tame.refl _ | with_reducible assumption | with_reducible apply yRound_mild | with_reducible apply Slot.finish_mild | with_reducible apply Slot.mild_of | intro _ | (with_reducible apply Tame.foldl; intro _ _ _) | split | exact Tame.same (Tame.refl _) rfl rfl | dsimp only)
theorem slotFma_mild (o : R3) (neg : Bool) (rmf : BitVec 3) (s : State) : (slotFma o neg rmf s).Mild := by
  unfold slotFma
  try dsimp only
  repeat' (first | with_reducible exact Tame.refl _ | with_reducible assumption | with_reducible apply Slot.finish_mild | with_reducible apply Slot.mild_of | intro _ | with_reducible apply State.modCtx_tame' | with_reducible apply Env.fixedF_tame' | (with_reducible apply Tame.foldl; intro _ _ _) | split | exact Tame.same (Tame.refl _) rfl rfl | dsimp only)
theorem slotFdiv_mild (o : R3) (rm : BitVec 3) (s : State) : (slotFdiv o rm s).Mild := by
  unfold slotFdiv
  try dsimp only
  repeat' (first | with_reducible exact Tame.refl _ | with_reducible assumption | with_reducible apply yRound_mild | with_reducible apply Slot.finish_mild | with_reducible apply Slot.mild_of | intro _ | (with_reducible apply Tame.foldl; intro _ _ _) | split | exact Tame.same (Tame.refl _) rfl rfl | dsimp only)
theorem slotFsqrt_mild (o : R2) (rm : BitVec 3) (s : State) : (slotFsqrt o rm s).Mild := by
  unfold slotFsqrt
  try dsimp only
  repeat' (first | with_reducible exact Tame.refl _ | with_reducible assumption | with_reducible apply yRound1_mild | with_reducible apply Slot.finish_mild | with_reducible apply Slot.mild_of | intro _ | (with_reducible apply Tame.foldl; intro _ _ _) | split | exact Tame.same (Tame.refl _) rfl rfl | dsimp only)
theorem slotFrsq_mild (o : R2) (rm : BitVec 3) (s : State) : (slotFrsq o rm s).Mild := by
  unfold slotFrsq
  try dsimp only
  repeat' (first | with_reducible exact Tame.refl _ | with_reducible assumption | with_reducible apply yRound1_mild | with_reducible apply Slot.finish_mild | with_reducible apply Slot.mild_of | intro _ | (with_reducible apply Tame.foldl; intro _ _ _) | split | exact Tame.same (Tame.refl _) rfl rfl | dsimp only)
theorem slotFcmp_mild (o : R3) (v : BitVec 4) (s : State) : (slotFcmp o v s).Mild := by
  unfold slotFcmp
  try dsimp only
  repeat' (first | with_reducible exact Tame.refl _ | with_reducible assumption | with_reducible apply yRRR_mild | with_reducible apply Slot.finish_mild | with_reducible apply Slot.mild_of | intro _ | (with_reducible apply Tame.foldl; intro _ _ _) | split | exact Tame.same (Tame.refl _) rfl rfl | dsimp only)
theorem slotFmin_mild (o : R3) (s : State) : (slotFmin o s).Mild := by
  unfold slotFmin
  try dsimp only
  repeat' (first | with_reducible exact Tame.refl _ | with_reducible assumption | with_reducible apply yRRR_mild | with_reducible apply Slot.finish_mild | with_reducible apply Slot.mild_of | intro _ | (with_reducible apply Tame.foldl; intro _ _ _) | split | exact Tame.same (Tame.refl _) rfl rfl | dsimp only)
theorem slotFmax_mild (o : R3) (s : State) : (slotFmax o s).Mild := by
  unfold slotFmax
  try dsimp only
  repeat' (first | with_reducible exact Tame.refl _ | with_reducible assumption | with_reducible apply yRRR_mild | with_reducible apply Slot.finish_mild | with_reducible apply Slot.mild_of | intro _ | (with_reducible apply Tame.foldl; intro _ _ _) | split | exact Tame.same (Tame.refl _) rfl rfl | dsimp only)
theorem slotFcvt_mild (o : R2) (v : BitVec 4) (s : State) : (slotFcvt o v s).Mild := by
  unfold slotFcvt
  try dsimp only
  repeat' (first | with_reducible exact Tame.refl _ | with_reducible assumption | with_reducible apply yRound1_mild | with_reducible apply Slot.finish_mild | with_reducible apply Slot.mild_of | intro _ | (with_reducible apply Tame.foldl; intro _ _ _) | split | exact Tame.same (Tame.refl _) rfl rfl | dsimp only)
theorem slotFclass_mild (o : R2) (s : State) : (slotFclass o s).Mild := by
  unfold slotFclass
  try dsimp only
  repeat' (first | with_reducible exact Tame.refl _ | with_reducible assumption | with_reducible apply Slot.finish_mild | with_reducible apply Slot.mild_of | intro _ | with_reducible apply Env.fixed_tame' | (with_reducible apply Tame.foldl; intro _ _ _) | split | exact Tame.same (Tame.refl _) rfl rfl | dsimp only)
theorem slotBrc_mild (cond ra : BitVec 5) (ofs : BitVec 11) (s : State) : (slotBrc cond ra ofs s).Mild := by
  unfold slotBrc
  try dsimp only
  repeat' (first | with_reducible exact Tame.refl _ | with_reducible assumption | with_reducible apply Slot.finish_mild | with_reducible apply Slot.mild_of | intro _ | (with_reducible apply Tame.foldl; intro _ _ _) | split | exact Tame.same (Tame.refl _) rfl rfl | dsimp only)
theorem vVVV_mild (e : Env) (legal : Bool) (o : R3) (lat : Nat) (rm : Rm) (draws : Nat) (f : W32 → W32 → W32 → W32 × BitVec 5) : (vVVV e legal o lat rm draws f).Mild := by
  unfold vVVV
  try dsimp only
  repeat' (first | with_reducible exact Tame.refl _ | with_reducible assumption | with_reducible apply Slot.finish_mild | with_reducible apply Slot.mild_of | intro _ | with_reducible apply State.modCtx_tame' | with_reducible apply Env.fixedL_tame' | (with_reducible apply Tame.foldl; intro _ _ _) | split | exact Tame.same (Tame.refl _) rfl rfl | dsimp only)
theorem vVV_mild (e : Env) (legal : Bool) (o : R2) (lat : Nat) (rm : Rm) (draws : Nat) (f : W32 → W32 → W32 × BitVec 5) : (vVV e legal o lat rm draws f).Mild := by
  unfold vVV
  try dsimp only
  repeat' (first | with_reducible exact Tame.refl _ | with_reducible assumption | with_reducible apply Slot.finish_mild | with_reducible apply Slot.mild_of | intro _ | with_reducible apply State.modCtx_tame' | with_reducible apply Env.fixedL_tame' | (with_reducible apply Tame.foldl; intro _ _ _) | split | exact Tame.same (Tame.refl _) rfl rfl | dsimp only)
theorem vInt_mild (e : Env) (legal : Bool) (o : R3) (lat : Nat) (f : W32 → W32 → W32) : (vInt e legal o lat f).Mild := by
  unfold vInt
  try dsimp only
  repeat' (first | with_reducible exact Tame.refl _ | with_reducible assumption | with_reducible apply vVVV_mild | with_reducible apply Slot.finish_mild | with_reducible apply Slot.mild_of | intro _ | (with_reducible apply Tame.foldl; intro _ _ _) | split | exact Tame.same (Tame.refl _) rfl rfl | dsimp only)
theorem vArithSlot_mild (e : Env) (legal : Bool) (op : Nat) (o : R3) (v : BitVec 4) : (vArithSlot e legal op o v).Mild := by
  unfold vArithSlot
  try dsimp only
  repeat' (first | with_reducible exact Tame.refl _ | with_reducible assumption | with_reducible apply vVVV_mild | with_reducible apply Slot.finish_mild | split | with_reducible apply Slot.mild_of | intro _ | (with_reducible apply Tame.foldl; intro _ _ _) | split | exact Tame.same (Tame.refl _) rfl rfl | dsimp only)
theorem slotVadd_mild (o : R3) (v : BitVec 4) (s : State) : (slotVadd o v s).Mild := by
  unfold slotVadd
  try dsimp only
  repeat' (first | with_reducible exact Tame.refl _ | with_reducible assumption | with_reducible apply vArithSlot_mild | with_reducible apply Slot.finish_mild | with_reducible apply Slot.mild_of | intro _ | (with_reducible apply Tame.foldl; intro _ _ _) | split | exact Tame.same (Tame.refl _) rfl rfl | dsimp only)
theorem slotVsub_mild (o : R3) (v : BitVec 4) (s : State) : (slotVsub o v s).Mild := by
  unfold slotVsub
  try dsimp only
  repeat' (first | with_reducible exact Tame.refl _ | with_reducible assumption | with_reducible apply vArithSlot_mild | with_reducible apply Slot.finish_mild | with_reducible apply Slot.mild_of | intro _ | (with_reducible apply Tame.foldl; intro _ _ _) | split | exact Tame.same (Tame.refl _) rfl rfl | dsimp only)
theorem slotVmul_mild (o : R3) (v : BitVec 4) (s : State) : (slotVmul o v s).Mild := by
  unfold slotVmul
  try dsimp only
  repeat' (first | with_reducible exact Tame.refl _ | with_reducible assumption | with_reducible apply vArithSlot_mild | with_reducible apply Slot.finish_mild | with_reducible apply Slot.mild_of | intro _ | (with_reducible apply Tame.foldl; intro _ _ _) | split | exact Tame.same (Tame.refl _) rfl rfl | dsimp only)
theorem slotVfma_mild (o : R3) (v : BitVec 4) (s : State) : (slotVfma o v s).Mild := by
  unfold slotVfma
  try dsimp only
  repeat' (first | with_reducible exact Tame.refl _ | with_reducible assumption | with_reducible apply Slot.finish_mild | with_reducible apply Slot.mild_of | intro _ | with_reducible apply State.modCtx_tame' | with_reducible apply Env.fixedL_tame' | (with_reducible apply Tame.foldl; intro _ _ _) | split | exact Tame.same (Tame.refl _) rfl rfl | dsimp only)
theorem slotVmin_mild (o : R3) (t : BitVec 2) (s : State) : (slotVmin o t s).Mild := by
  unfold slotVmin
  try dsimp only
  repeat' (first | with_reducible exact Tame.refl _ | with_reducible assumption | with_reducible apply vVVV_mild | with_reducible apply Slot.finish_mild | with_reducible apply Slot.mild_of | intro _ | (with_reducible apply Tame.foldl; intro _ _ _) | split | exact Tame.same (Tame.refl _) rfl rfl | dsimp only)
theorem slotVmax_mild (o : R3) (t : BitVec 2) (s : State) : (slotVmax o t s).Mild := by
  unfold slotVmax
  try dsimp only
  repeat' (first | with_reducible exact Tame.refl _ | with_reducible assumption | with_reducible apply vVVV_mild | with_reducible apply Slot.finish_mild | with_reducible apply Slot.mild_of | intro _ | (with_reducible apply Tame.foldl; intro _ _ _) | split | exact Tame.same (Tame.refl _) rfl rfl | dsimp only)
theorem slotVand_mild (o : R3) (s : State) : (slotVand o s).Mild := by
  unfold slotVand
  try dsimp only
  repeat' (first | with_reducible exact Tame.refl _ | with_reducible assumption | with_reducible apply vInt_mild | with_reducible apply Slot.finish_mild | with_reducible apply Slot.mild_of | intro _ | (with_reducible apply Tame.foldl; intro _ _ _) | split | exact Tame.same (Tame.refl _) rfl rfl | dsimp only)
theorem slotVor_mild (o : R3) (s : State) : (slotVor o s).Mild := by
  unfold slotVor
  try dsimp only
  repeat' (first | with_reducible exact Tame.refl _ | with_reducible assumption | with_reducible apply vInt_mild | with_reducible apply Slot.finish_mild | with_reducible apply Slot.mild_of | intro _ | (with_reducible apply Tame.foldl; intro _ _ _) | split | exact Tame.same (Tame.refl _) rfl rfl | dsimp only)
theorem slotVxor_mild (o : R3) (s : State) : (slotVxor o s).Mild := by
  unfold slotVxor
  try dsimp only
  repeat' (first | with_reducible exact Tame.refl _ | with_reducible assumption | with_reducible apply vInt_mild | with_reducible apply Slot.finish_mild | with_reducible apply Slot.mild_of | intro _ | (with_reducible apply Tame.foldl; intro _ _ _) | split | exact Tame.same (Tame.refl _) rfl rfl | dsimp only)
theorem slotVshl_mild (o : R3) (s : State) : (slotVshl o s).Mild := by
  unfold slotVshl
  try dsimp only
  repeat' (first | with_reducible exact Tame.refl _ | with_reducible assumption | with_reducible apply vInt_mild | with_reducible apply Slot.finish_mild | with_reducible apply Slot.mild_of | intro _ | (with_reducible apply Tame.foldl; intro _ _ _) | split | exact Tame.same (Tame.refl _) rfl rfl | dsimp only)
theorem slotVshr_mild (o : R3) (t : BitVec 2) (s : State) : (slotVshr o t s).Mild := by
  unfold slotVshr
  try dsimp only
  repeat' (first | with_reducible exact Tame.refl _ | with_reducible assumption | with_reducible apply vInt_mild | with_reducible apply Slot.finish_mild | with_reducible apply Slot.mild_of | intro _ | (with_reducible apply Tame.foldl; intro _ _ _) | split | exact Tame.same (Tame.refl _) rfl rfl | dsimp only)
theorem slotVcmp_mild (o : R3) (v : BitVec 4) (s : State) : (slotVcmp o v s).Mild := by
  unfold slotVcmp
  try dsimp only
  repeat' (first | with_reducible exact Tame.refl _ | with_reducible assumption | with_reducible apply Slot.finish_mild | with_reducible apply Slot.mild_of | intro _ | with_reducible apply Env.maskRes_tame' | (with_reducible apply Tame.foldl; intro _ _ _) | split | exact Tame.same (Tame.refl _) rfl rfl | dsimp only)
theorem slotVsel_mild (o : R3) (n : BitVec 3) (s : State) : (slotVsel o n s).Mild := by
  unfold slotVsel
  try dsimp only
  repeat' (first | with_reducible exact Tame.refl _ | with_reducible assumption | with_reducible apply Slot.finish_mild | with_reducible apply Slot.mild_of | intro _ | with_reducible apply Env.fixedL_tame' | (with_reducible apply Tame.foldl; intro _ _ _) | split | exact Tame.same (Tame.refl _) rfl rfl | dsimp only)
theorem slotVcvt_mild (o : R2) (v : BitVec 4) (s : State) : (slotVcvt o v s).Mild := by
  unfold slotVcvt
  try dsimp only
  repeat' (first | with_reducible exact Tame.refl _ | with_reducible assumption | with_reducible apply vVV_mild | with_reducible apply Slot.finish_mild | with_reducible apply Slot.mild_of | intro _ | (with_reducible apply Tame.foldl; intro _ _ _) | split | exact Tame.same (Tame.refl _) rfl rfl | dsimp only)
theorem slotVred_mild (o : R2) (v : BitVec 4) (s : State) : (slotVred o v s).Mild := by
  unfold slotVred
  try dsimp only
  repeat' (first | with_reducible exact Tame.refl _ | with_reducible assumption | with_reducible apply Slot.finish_mild | with_reducible apply Slot.mild_of | intro _ | with_reducible apply State.modCtx_tame' | with_reducible apply Env.fixedF_tame' | (with_reducible apply Tame.foldl; intro _ _ _) | split | exact Tame.same (Tame.refl _) rfl rfl | dsimp only)
theorem slotVperm_mild (o : R3) (s : State) : (slotVperm o s).Mild := by
  unfold slotVperm
  try dsimp only
  repeat' (first | with_reducible exact Tame.refl _ | with_reducible assumption | with_reducible apply Slot.finish_mild | with_reducible apply Slot.mild_of | intro _ | with_reducible apply Env.fixedL_tame' | (with_reducible apply Tame.foldl; intro _ _ _) | split | exact Tame.same (Tame.refl _) rfl rfl | dsimp only)
theorem slotVbcast_mild (o : R3) (ln : Bool) (s : State) : (slotVbcast o ln s).Mild := by
  unfold slotVbcast
  try dsimp only
  repeat' (first | with_reducible exact Tame.refl _ | with_reducible assumption | with_reducible apply Slot.finish_mild | split | with_reducible apply Slot.mild_of | intro _ | with_reducible apply Env.fixedL_tame' | (with_reducible apply Tame.foldl; intro _ _ _) | split | exact Tame.same (Tame.refl _) rfl rfl | dsimp only)
theorem slotVexp2_mild (o : R2) (s : State) : (slotVexp2 o s).Mild := by
  unfold slotVexp2
  try dsimp only
  repeat' (first | with_reducible exact Tame.refl _ | with_reducible assumption | with_reducible apply vVV_mild | with_reducible apply Slot.finish_mild | with_reducible apply Slot.mild_of | intro _ | (with_reducible apply Tame.foldl; intro _ _ _) | split | exact Tame.same (Tame.refl _) rfl rfl | dsimp only)
theorem slotVlog2_mild (o : R2) (s : State) : (slotVlog2 o s).Mild := by
  unfold slotVlog2
  try dsimp only
  repeat' (first | with_reducible exact Tame.refl _ | with_reducible assumption | with_reducible apply vVV_mild | with_reducible apply Slot.finish_mild | with_reducible apply Slot.mild_of | intro _ | (with_reducible apply Tame.foldl; intro _ _ _) | split | exact Tame.same (Tame.refl _) rfl rfl | dsimp only)
theorem slotVrcp_mild (o : R2) (s : State) : (slotVrcp o s).Mild := by
  unfold slotVrcp
  try dsimp only
  repeat' (first | with_reducible exact Tame.refl _ | with_reducible assumption | with_reducible apply vVV_mild | with_reducible apply Slot.finish_mild | with_reducible apply Slot.mild_of | intro _ | (with_reducible apply Tame.foldl; intro _ _ _) | split | exact Tame.same (Tame.refl _) rfl rfl | dsimp only)
theorem slotVrsq_mild (o : R2) (s : State) : (slotVrsq o s).Mild := by
  unfold slotVrsq
  try dsimp only
  repeat' (first | with_reducible exact Tame.refl _ | with_reducible assumption | with_reducible apply vVV_mild | with_reducible apply Slot.finish_mild | with_reducible apply Slot.mild_of | intro _ | (with_reducible apply Tame.foldl; intro _ _ _) | split | exact Tame.same (Tame.refl _) rfl rfl | dsimp only)
theorem slotVquant_mild (o : R3) (int : Bool) (s : State) : (slotVquant o int s).Mild := by
  unfold slotVquant
  try dsimp only
  repeat' (first | with_reducible exact Tame.refl _ | with_reducible assumption | with_reducible apply Slot.finish_mild | with_reducible apply Slot.mild_of | intro _ | with_reducible apply Env.fixedF_tame' | (with_reducible apply Tame.foldl; intro _ _ _) | split | exact Tame.same (Tame.refl _) rfl rfl | dsimp only)
theorem slotVdeq_mild (o : R3) (fmt : BitVec 4) (s : State) : (slotVdeq o fmt s).Mild := by
  unfold slotVdeq
  try dsimp only
  repeat' (first | with_reducible exact Tame.refl _ | with_reducible assumption | with_reducible apply Slot.finish_mild | with_reducible apply Slot.mild_of | intro _ | with_reducible apply Env.fixedL_tame' | (with_reducible apply Tame.foldl; intro _ _ _) | split | exact Tame.same (Tame.refl _) rfl rfl | dsimp only)
theorem slotQop_mild (o : R3) (v : BitVec 4) (s : State) : (slotQop o v s).Mild := by
  unfold slotQop
  try dsimp only
  repeat' (first | with_reducible exact Tame.refl _ | with_reducible assumption | with_reducible apply Slot.finish_mild | with_reducible apply Slot.mild_of | intro _ | with_reducible apply Env.maskRes_tame' | (with_reducible apply Tame.foldl; intro _ _ _) | split | exact Tame.same (Tame.refl _) rfl rfl | dsimp only)
theorem slotGset_mild (o : R3) (ofs : Bool) (s : State) : (slotGset o ofs s).Mild := by
  unfold slotGset
  try dsimp only
  repeat' (first | with_reducible exact Tame.refl _ | with_reducible assumption | with_reducible apply Slot.finish_mild | with_reducible apply Slot.mild_of | intro _ | with_reducible apply Env.gRes_tame' | (with_reducible apply Tame.foldl; intro _ _ _) | split | exact Tame.same (Tame.refl _) rfl rfl | dsimp only)
theorem slotGseed_mild (o : RI) (s : State) : (slotGseed o s).Mild := by
  unfold slotGseed
  try dsimp only
  repeat' (first | with_reducible exact Tame.refl _ | with_reducible assumption | with_reducible apply Slot.finish_mild | with_reducible apply Slot.mild_of | intro _ | with_reducible apply Env.gRes_tame' | (with_reducible apply Tame.foldl; intro _ _ _) | split | exact Tame.same (Tame.refl _) rfl rfl | dsimp only)
theorem slotGgen_mild (o : R3) (t c : Bool) (s : State) : (slotGgen o t c s).Mild := by
  unfold slotGgen
  try dsimp only
  repeat' (first | with_reducible exact Tame.refl _ | with_reducible assumption | with_reducible apply Slot.finish_mild | with_reducible apply Slot.mild_of | intro _ | with_reducible apply Env.fixedL_tame' | (with_reducible apply Tame.foldl; intro _ _ _) | split | exact Tame.same (Tame.refl _) rfl rfl | dsimp only)
theorem copySlot_mild (e : Env) (o : A1) (kind : Nat) : (copySlot e o kind).Mild := by
  unfold copySlot
  try dsimp only
  repeat' (first | with_reducible exact Tame.refl _ | with_reducible assumption | with_reducible apply Slot.finish_mild | with_reducible apply Slot.mild_of | intro _ | with_reducible apply State.modCtx_tame' | with_reducible apply State.enqueueCopy_tame' | (with_reducible apply Tame.foldl; intro _ _ _) | split | exact Tame.same (Tame.refl _) rfl rfl | dsimp only)
theorem slotCpy_mild (o : A1) (s : State) : (slotCpy o s).Mild := by
  unfold slotCpy
  try dsimp only
  repeat' (first | with_reducible exact Tame.refl _ | with_reducible assumption | with_reducible apply copySlot_mild | with_reducible apply Slot.finish_mild | with_reducible apply Slot.mild_of | intro _ | (with_reducible apply Tame.foldl; intro _ _ _) | split | exact Tame.same (Tame.refl _) rfl rfl | dsimp only)
theorem slotCpys_mild (o : A1) (s : State) : (slotCpys o s).Mild := by
  unfold slotCpys
  try dsimp only
  repeat' (first | with_reducible exact Tame.refl _ | with_reducible assumption | with_reducible apply copySlot_mild | with_reducible apply Slot.finish_mild | with_reducible apply Slot.mild_of | intro _ | (with_reducible apply Tame.foldl; intro _ _ _) | split | exact Tame.same (Tame.refl _) rfl rfl | dsimp only)
theorem slotCpyg_mild (o : A1) (s : State) : (slotCpyg o s).Mild := by
  unfold slotCpyg
  try dsimp only
  repeat' (first | with_reducible exact Tame.refl _ | with_reducible assumption | with_reducible apply copySlot_mild | with_reducible apply Slot.finish_mild | with_reducible apply Slot.mild_of | intro _ | (with_reducible apply Tame.foldl; intro _ _ _) | split | exact Tame.same (Tame.refl _) rfl rfl | dsimp only)
theorem slotCpyr_mild (o : A1) (s : State) : (slotCpyr o s).Mild := by
  unfold slotCpyr
  try dsimp only
  repeat' (first | with_reducible exact Tame.refl _ | with_reducible assumption | with_reducible apply copySlot_mild | with_reducible apply Slot.finish_mild | with_reducible apply Slot.mild_of | intro _ | (with_reducible apply Tame.foldl; intro _ _ _) | split | exact Tame.same (Tame.refl _) rfl rfl | dsimp only)
theorem slotCpyw_mild (o : A1) (s : State) : (slotCpyw o s).Mild := by
  unfold slotCpyw
  try dsimp only
  repeat' (first | with_reducible exact Tame.refl _ | with_reducible assumption | with_reducible apply Slot.finish_mild | with_reducible apply Slot.mild_of | intro _ | (with_reducible apply Tame.foldl; intro _ _ _) | split | exact Tame.same (Tame.refl _) rfl rfl | dsimp only)
theorem Env.loadSlot_mild (e : Env) (sl : Slot) (ops : List Opnd) (psn : List (W64 × Nat)) (f : File) (d : BitVec 5) (els : List Elem) (lat : Nat) (own : Bool) (hm : sl.Mild) : (Env.loadSlot e sl ops psn f d els lat own).Mild := by
  unfold Env.loadSlot
  try dsimp only
  repeat' (first | with_reducible exact Tame.refl _ | with_reducible assumption | with_reducible apply Slot.finish_mild | with_reducible apply Slot.mild_of | intro _ | with_reducible apply State.kill_tame' | with_reducible apply Env.load_tame' | exact hm.1 _ | exact hm.2 _ | (with_reducible apply Tame.foldl; intro _ _ _) | split | exact Tame.same (Tame.refl _) rfl rfl | dsimp only)
theorem slotLd_mild (o : MO) (size : BitVec 2) (s : State) : (slotLd o size s).Mild := by
  unfold slotLd
  try dsimp only
  repeat' (first | with_reducible exact Tame.refl _ | with_reducible assumption | with_reducible apply Env.loadSlot_mild | with_reducible apply Slot.finish_mild | with_reducible apply Slot.mild_of | intro _ | (with_reducible apply Tame.foldl; intro _ _ _) | split | exact Tame.same (Tame.refl _) rfl rfl | dsimp only)
theorem slotLdv_mild (o : MO) (s : State) : (slotLdv o s).Mild := by
  unfold slotLdv
  try dsimp only
  repeat' (first | with_reducible exact Tame.refl _ | with_reducible assumption | with_reducible apply Env.loadSlot_mild | with_reducible apply Slot.finish_mild | with_reducible apply Slot.mild_of | intro _ | (with_reducible apply Tame.foldl; intro _ _ _) | split | exact Tame.same (Tame.refl _) rfl rfl | dsimp only)
theorem slotLdg_mild (o : R3) (v : BitVec 4) (s : State) : (slotLdg o v s).Mild := by
  unfold slotLdg
  try dsimp only
  repeat' (first | with_reducible exact Tame.refl _ | with_reducible assumption | with_reducible apply Env.loadSlot_mild | with_reducible apply Slot.finish_mild | split | with_reducible apply Slot.mild_of | intro _ | (with_reducible apply Tame.foldl; intro _ _ _) | split | exact Tame.same (Tame.refl _) rfl rfl | dsimp only)
theorem slotRld_mild (o : MO) (size : BitVec 2) (s : State) : (slotRld o size s).Mild := by
  unfold slotRld
  try dsimp only
  repeat' (first | with_reducible exact Tame.refl _ | with_reducible assumption | with_reducible apply Slot.finish_mild | with_reducible apply Slot.mild_of | intro _ | with_reducible apply State.kill_tame' | with_reducible apply Env.load_tame' | (with_reducible apply Tame.foldl; intro _ _ _) | split | exact Tame.same (Tame.refl _) rfl rfl | dsimp only)
theorem Env.storeSlot_mild (e : Env) (sl : Slot) (ops : List Opnd) (psn : List (W64 × Nat)) (v : Wide) (els rels : List Elem) (merge : Bool) (keys : List (File × Nat)) (hm : sl.Mild) : (Env.storeSlot e sl ops psn v els rels merge keys).Mild := by
  unfold Env.storeSlot
  try dsimp only
  repeat' (first | with_reducible exact Tame.refl _ | with_reducible assumption | with_reducible apply Slot.finish_mild | with_reducible apply Slot.mild_of | intro _ | with_reducible apply State.wr_tame' | with_reducible apply State.kill_tame' | with_reducible apply State.enterMem_tame' | exact hm.1 _ | exact hm.2 _ | (with_reducible apply Tame.foldl; intro _ _ _) | split | exact Tame.same (Tame.refl _) rfl rfl | dsimp only)
theorem slotSt_mild (o : MO) (size : BitVec 2) (s : State) : (slotSt o size s).Mild := by
  unfold slotSt
  try dsimp only
  repeat' (first | with_reducible exact Tame.refl _ | with_reducible assumption | with_reducible apply Env.storeSlot_mild | with_reducible apply Slot.finish_mild | with_reducible apply Slot.mild_of | intro _ | (with_reducible apply Tame.foldl; intro _ _ _) | split | exact Tame.same (Tame.refl _) rfl rfl | dsimp only)
theorem slotStv_mild (o : MO) (s : State) : (slotStv o s).Mild := by
  unfold slotStv
  try dsimp only
  repeat' (first | with_reducible exact Tame.refl _ | with_reducible assumption | with_reducible apply Env.storeSlot_mild | with_reducible apply Slot.finish_mild | split | with_reducible apply Slot.mild_of | intro _ | with_reducible apply State.modCtx_tame' | with_reducible apply State.enterMem_tame' | (with_reducible apply Tame.foldl; intro _ _ _) | split | exact Tame.same (Tame.refl _) rfl rfl | dsimp only)
  all_goals exact (Env.storeSlot_mild (hm := ⟨fun _ => .refl _, fun _ => .refl _⟩) ..).2 _
theorem slotStg_mild (o : R3) (v : BitVec 4) (s : State) : (slotStg o v s).Mild := by
  unfold slotStg
  try dsimp only
  repeat' (first | with_reducible exact Tame.refl _ | with_reducible assumption | with_reducible apply Env.storeSlot_mild | with_reducible apply Slot.finish_mild | with_reducible apply Slot.mild_of | intro _ | (with_reducible apply Tame.foldl; intro _ _ _) | split | exact Tame.same (Tame.refl _) rfl rfl | dsimp only)
theorem slotRst_mild (o : R3) (v : BitVec 4) (s : State) : (slotRst o v s).Mild := by
  unfold slotRst
  try dsimp only
  repeat' (first | with_reducible exact Tame.refl _ | with_reducible assumption | with_reducible apply Slot.finish_mild | with_reducible apply Slot.mild_of | intro _ | with_reducible apply State.kill_tame' | with_reducible apply State.enterMem_tame' | (with_reducible apply Tame.foldl; intro _ _ _) | split | exact Tame.same (Tame.refl _) rfl rfl | dsimp only)
theorem Env.rmwSlot_mild (e : Env) (sl : Slot) (addr : Opnd) (ops : List Opnd) (psn : List (W64 × Nat)) (va : W64) (op : Rmw) (d : BitVec 5) (pad : Nat) (res always : Bool) (hm : sl.Mild) : (Env.rmwSlot e sl addr ops psn va op d pad res always).Mild := by
  unfold Env.rmwSlot
  try dsimp only
  repeat' (first | with_reducible exact Tame.refl _ | with_reducible assumption | with_reducible apply Slot.finish_mild | with_reducible apply Slot.mild_of | intro _ | with_reducible apply State.modCtx_tame' | with_reducible apply State.kill_tame' | with_reducible apply State.enterMem_tame' | exact hm.1 _ | exact hm.2 _ | (with_reducible apply Tame.foldl; intro _ _ _) | split | exact Tame.same (Tame.refl _) rfl rfl | dsimp only)
theorem slotAtom_mild (o : R3) (v : BitVec 4) (s : State) : (slotAtom o v s).Mild := by
  unfold slotAtom
  try dsimp only
  repeat' (first | with_reducible exact Tame.refl _ | with_reducible assumption | with_reducible apply Env.rmwSlot_mild | with_reducible apply Slot.finish_mild | with_reducible apply Slot.mild_of | intro _ | (with_reducible apply Tame.foldl; intro _ _ _) | split | exact Tame.same (Tame.refl _) rfl rfl | dsimp only)
theorem slotRatom_mild (o : R3) (v : BitVec 4) (s : State) : (slotRatom o v s).Mild := by
  unfold slotRatom
  try dsimp only
  repeat' (first | with_reducible exact Tame.refl _ | with_reducible assumption | with_reducible apply Env.rmwSlot_mild | with_reducible apply Slot.finish_mild | with_reducible apply Slot.mild_of | intro _ | (with_reducible apply Tame.foldl; intro _ _ _) | split | exact Tame.same (Tame.refl _) rfl rfl | dsimp only)
theorem slotStver_mild (o : R3) (s : State) : (slotStver o s).Mild := by
  unfold slotStver
  try dsimp only
  repeat' (first | with_reducible exact Tame.refl _ | with_reducible assumption | with_reducible apply Env.rmwSlot_mild | with_reducible apply Slot.finish_mild | split | with_reducible apply Slot.mild_of | intro _ | (with_reducible apply Tame.foldl; intro _ _ _) | split | exact Tame.same (Tame.refl _) rfl rfl | dsimp only)
  all_goals first | exact (Env.rmwSlot_mild (hm := ⟨fun _ => .refl _, fun _ => .refl _⟩) ..).2 _ | exact (Env.rmwSlot_mild (hm := ⟨fun _ => .refl _, fun _ => .refl _⟩) ..).1 _
theorem slotBarm_mild (o : AB) (s : State) : (slotBarm o s).Mild := by
  unfold slotBarm
  try dsimp only
  repeat' (first | with_reducible exact Tame.refl _ | with_reducible assumption | with_reducible apply Env.rmwSlot_mild | with_reducible apply Slot.finish_mild | with_reducible apply Slot.mild_of | intro _ | (with_reducible apply Tame.foldl; intro _ _ _) | split | exact Tame.same (Tame.refl _) rfl rfl | dsimp only)
theorem flipSlot_mild (e : Env) (o : AB) (eng : Bool) : (flipSlot e o eng).Mild := by
  unfold flipSlot
  try dsimp only
  repeat' (first | with_reducible exact Tame.refl _ | with_reducible assumption | with_reducible apply Slot.finish_mild | with_reducible apply Slot.mild_of | intro _ | with_reducible apply State.flip_tame' | (with_reducible apply Tame.foldl; intro _ _ _) | split | exact Tame.same (Tame.refl _) rfl rfl | dsimp only)
theorem slotOwne_mild (o : AB) (s : State) : (slotOwne o s).Mild := by
  unfold slotOwne
  try dsimp only
  repeat' (first | with_reducible exact Tame.refl _ | with_reducible assumption | with_reducible apply flipSlot_mild | with_reducible apply Slot.finish_mild | with_reducible apply Slot.mild_of | intro _ | (with_reducible apply Tame.foldl; intro _ _ _) | split | exact Tame.same (Tame.refl _) rfl rfl | dsimp only)
theorem slotOwnt_mild (o : AB) (s : State) : (slotOwnt o s).Mild := by
  unfold slotOwnt
  try dsimp only
  repeat' (first | with_reducible exact Tame.refl _ | with_reducible assumption | with_reducible apply flipSlot_mild | with_reducible apply Slot.finish_mild | with_reducible apply Slot.mild_of | intro _ | (with_reducible apply Tame.foldl; intro _ _ _) | split | exact Tame.same (Tame.refl _) rfl rfl | dsimp only)
theorem slotLock_mild (o : R3) (l1 : Bool) (s : State) : (slotLock o l1 s).Mild := by
  unfold slotLock
  try dsimp only
  repeat' (first | with_reducible exact Tame.refl _ | with_reducible assumption | with_reducible apply Slot.finish_mild | with_reducible apply Slot.mild_of | intro _ | with_reducible apply State.modCtx_tame' | with_reducible apply State.touch_tame' | with_reducible apply State.kill_tame' | (with_reducible apply Tame.foldl; intro _ _ _) | split | exact Tame.same (Tame.refl _) rfl rfl | dsimp only)
theorem slotUnlock_mild (o : AB) (s : State) : (slotUnlock o s).Mild := by
  unfold slotUnlock
  try dsimp only
  repeat' (first | with_reducible exact Tame.refl _ | with_reducible assumption | with_reducible apply Slot.finish_mild | with_reducible apply Slot.mild_of | intro _ | with_reducible apply State.modCtx_tame' | (with_reducible apply Tame.foldl; intro _ _ _) | split | exact Tame.same (Tame.refl _) rfl rfl | dsimp only)
theorem slotPref_mild (base : BitVec 5) (_ofs : BitVec 8) (_l2 ha : Bool) (s : State) : (slotPref base _ofs _l2 ha s).Mild := by
  unfold slotPref
  try dsimp only
  repeat' (first | with_reducible exact Tame.refl _ | with_reducible assumption | with_reducible apply Slot.finish_mild | with_reducible apply Slot.mild_of | intro _ | (with_reducible apply Tame.foldl; intro _ _ _) | split | exact Tame.same (Tame.refl _) rfl rfl | dsimp only)
theorem slotProbe_mild (o : R3) (w : Bool) (s : State) : (slotProbe o w s).Mild := by
  unfold slotProbe
  try dsimp only
  repeat' (first | with_reducible exact Tame.refl _ | with_reducible assumption | with_reducible apply Slot.finish_mild | with_reducible apply Slot.mild_of | intro _ | with_reducible apply State.modCtx_tame' | with_reducible apply State.kill_tame' | (with_reducible apply Tame.foldl; intro _ _ _) | split | exact Tame.same (Tame.refl _) rfl rfl | dsimp only)
theorem slotCwait_mild (o : AB) (s : State) : (slotCwait o s).Mild := by
  unfold slotCwait
  try dsimp only
  repeat' (first | with_reducible exact Tame.refl _ | with_reducible assumption | with_reducible apply Slot.finish_mild | with_reducible apply Slot.mild_of | intro _ | with_reducible apply State.modCtx_tame' | with_reducible apply State.touch_tame' | with_reducible apply State.kill_tame' | (with_reducible apply Tame.foldl; intro _ _ _) | split | exact Tame.same (Tame.refl _) rfl rfl | dsimp only)
theorem slotDrain_mild (s : State) : (slotDrain s).Mild := by
  unfold slotDrain
  try dsimp only
  repeat' (first | with_reducible exact Tame.refl _ | with_reducible assumption | with_reducible apply Slot.finish_mild | with_reducible apply Slot.mild_of | intro _ | (with_reducible apply Tame.foldl; intro _ _ _) | split | exact Tame.same (Tame.refl _) rfl rfl | dsimp only)
theorem slotFenceo_mild (s : State) : (slotFenceo s).Mild := by
  unfold slotFenceo
  try dsimp only
  repeat' (first | with_reducible exact Tame.refl _ | with_reducible assumption | with_reducible apply Slot.finish_mild | with_reducible apply Slot.mild_of | intro _ | (with_reducible apply Tame.foldl; intro _ _ _) | split | exact Tame.same (Tame.refl _) rfl rfl | dsimp only)
theorem slotFencer_mild (o : AB) (v : BitVec 4) (s : State) : (slotFencer o v s).Mild := by
  unfold slotFencer
  try dsimp only
  repeat' (first | with_reducible exact Tame.refl _ | with_reducible assumption | with_reducible apply Slot.finish_mild | with_reducible apply Slot.mild_of | intro _ | with_reducible apply State.modCtx_tame' | with_reducible apply State.serialise_tame' | with_reducible apply State.kill_tame' | (with_reducible apply Tame.foldl; intro _ _ _) | split | exact Tame.same (Tame.refl _) rfl rfl | dsimp only)
theorem slotMcall_mild (o : AB) (bank : BitVec 2) (s : State) : (slotMcall o bank s).Mild := by
  unfold slotMcall
  -- what a slot reads is no effect of it
  change Slot.Mild (Slot.finish _ _ _ _)
  repeat' (first | with_reducible exact Tame.refl _ | with_reducible assumption | with_reducible apply Slot.finish_mild | with_reducible apply Slot.mild_of | intro _ | with_reducible apply State.modCtx_tame' | with_reducible apply State.enterMcall_tame' | (with_reducible apply Tame.foldl; intro _ _ _) | split | exact Tame.same (Tame.refl _) rfl rfl | dsimp only)
theorem slotMwait_mild (o : A1) (bank : BitVec 2) (s : State) : (slotMwait o bank s).Mild := by
  unfold slotMwait
  try dsimp only
  repeat' (first | with_reducible exact Tame.refl _ | with_reducible assumption | with_reducible apply Slot.finish_mild | with_reducible apply Slot.mild_of | intro _ | (with_reducible apply Tame.foldl; intro _ _ _) | split | exact Tame.same (Tame.refl _) rfl rfl | dsimp only)
theorem slotMver_mild (d : BitVec 5) (bank : BitVec 2) (s : State) : (slotMver d bank s).Mild := by
  unfold slotMver
  try dsimp only
  repeat' (first | with_reducible exact Tame.refl _ | with_reducible assumption | with_reducible apply Slot.finish_mild | with_reducible apply Slot.mild_of | intro _ | with_reducible apply Env.fixed_tame' | (with_reducible apply Tame.foldl; intro _ _ _) | split | exact Tame.same (Tame.refl _) rfl rfl | dsimp only)
theorem slotMpwr_mild (o : AB) (s : State) : (slotMpwr o s).Mild := by
  unfold slotMpwr
  try dsimp only
  repeat' (first | with_reducible exact Tame.refl _ | with_reducible assumption | with_reducible apply Slot.finish_mild | with_reducible apply Slot.mild_of | intro _ | with_reducible apply State.modCore_tame' | with_reducible apply State.settleStore_tame' | (with_reducible apply Tame.foldl; intro _ _ _) | split | exact Tame.same (Tame.refl _) rfl rfl | dsimp only)
theorem slotMprd_mild (o : R2) (s : State) : (slotMprd o s).Mild := by
  unfold slotMprd
  try dsimp only
  repeat' (first | with_reducible exact Tame.refl _ | with_reducible assumption | with_reducible apply Slot.finish_mild | with_reducible apply Slot.mild_of | intro _ | with_reducible apply Env.fixed_tame' | (with_reducible apply Tame.foldl; intro _ _ _) | split | exact Tame.same (Tame.refl _) rfl rfl | dsimp only)
theorem slotBr_mild (ofs : BitVec 21) (s : State) : (slotBr ofs s).Mild := by
  unfold slotBr
  try dsimp only
  repeat' (first | with_reducible exact Tame.refl _ | with_reducible assumption | with_reducible apply Slot.finish_mild | with_reducible apply Slot.mild_of | intro _ | with_reducible apply Env.takeK_tame' | (with_reducible apply Tame.foldl; intro _ _ _) | split | exact Tame.same (Tame.refl _) rfl rfl | dsimp only)
theorem slotBrl_mild (ofs : BitVec 21) (s : State) : (slotBrl ofs s).Mild := by
  unfold slotBrl
  try dsimp only
  repeat' (first | with_reducible exact Tame.refl _ | with_reducible assumption | with_reducible apply Slot.finish_mild | with_reducible apply Slot.mild_of | intro _ | with_reducible apply Env.fixed_tame' | with_reducible apply Env.takeK_tame' | (with_reducible apply Tame.foldl; intro _ _ _) | split | exact Tame.same (Tame.refl _) rfl rfl | dsimp only)
theorem jumpSlot_mild (e : Env) (a : Opnd) (link : Option (BitVec 5)) : (jumpSlot e a link).Mild := by
  unfold jumpSlot
  try dsimp only
  repeat' (first | with_reducible exact Tame.refl _ | with_reducible assumption | with_reducible apply Slot.finish_mild | with_reducible apply Slot.mild_of | intro _ | with_reducible apply Env.fixed_tame' | with_reducible apply Env.takeK_tame' | (with_reducible apply Tame.foldl; intro _ _ _) | split | exact Tame.same (Tame.refl _) rfl rfl | dsimp only)
theorem slotJr_mild (o : A1) (s : State) : (slotJr o s).Mild := by
  unfold slotJr
  try dsimp only
  repeat' (first | with_reducible exact Tame.refl _ | with_reducible assumption | with_reducible apply jumpSlot_mild | with_reducible apply Slot.finish_mild | with_reducible apply Slot.mild_of | intro _ | (with_reducible apply Tame.foldl; intro _ _ _) | split | exact Tame.same (Tame.refl _) rfl rfl | dsimp only)
theorem slotRet_mild (s : State) : (slotRet s).Mild := by
  unfold slotRet
  try dsimp only
  repeat' (first | with_reducible exact Tame.refl _ | with_reducible assumption | with_reducible apply jumpSlot_mild | with_reducible apply Slot.finish_mild | with_reducible apply Slot.mild_of | intro _ | (with_reducible apply Tame.foldl; intro _ _ _) | split | exact Tame.same (Tame.refl _) rfl rfl | dsimp only)
theorem slotJrL_mild (o : R2) (s : State) : (slotJrL o s).Mild := by
  unfold slotJrL
  try dsimp only
  repeat' (first | with_reducible exact Tame.refl _ | with_reducible assumption | with_reducible apply jumpSlot_mild | with_reducible apply Slot.finish_mild | with_reducible apply Slot.mild_of | intro _ | (with_reducible apply Tame.foldl; intro _ _ _) | split | exact Tame.same (Tame.refl _) rfl rfl | dsimp only)
theorem slotLoop_mild (ls : BitVec 3) (ra : BitVec 5) (ofs : BitVec 11) (s : State) : (slotLoop ls ra ofs s).Mild := by
  unfold slotLoop
  try dsimp only
  repeat' (first | with_reducible exact Tame.refl _ | with_reducible assumption | with_reducible apply Slot.finish_mild | with_reducible apply Slot.mild_of | intro _ | with_reducible apply State.modCtx_tame' | with_reducible apply Env.takeK_tame' | (with_reducible apply Tame.foldl; intro _ _ _) | split | exact Tame.same (Tame.refl _) rfl rfl | dsimp only)
theorem slotBucket_mild (o : R3) (s : State) : (slotBucket o s).Mild := by
  unfold slotBucket
  try dsimp only
  repeat' (first | with_reducible exact Tame.refl _ | with_reducible assumption | with_reducible apply Slot.finish_mild | with_reducible apply Slot.mild_of | intro _ | with_reducible apply State.touch_tame' | with_reducible apply State.kill_tame' | with_reducible apply Env.fixed_tame' | with_reducible apply Env.takeK_tame' | with_reducible apply State.drop_tame' | (with_reducible apply Tame.foldl; intro _ _ _) | split | exact Tame.same (Tame.refl _) rfl rfl | dsimp only)
theorem slotTrap_mild (_code : BitVec 16) (s : State) : (slotTrap _code s).Mild := by
  unfold slotTrap
  try dsimp only
  repeat' (first | with_reducible exact Tame.refl _ | with_reducible assumption | with_reducible apply Slot.finish_mild | with_reducible apply Slot.mild_of | intro _ | with_reducible apply stopAfterBundle_tame' | (with_reducible apply Tame.foldl; intro _ _ _) | split | exact Tame.same (Tame.refl _) rfl rfl | dsimp only)
theorem slotDbrk_mild (_code : BitVec 16) (s : State) : (slotDbrk _code s).Mild := by
  unfold slotDbrk
  try dsimp only
  repeat' (first | with_reducible exact Tame.refl _ | with_reducible assumption | with_reducible apply Slot.finish_mild | with_reducible apply Slot.mild_of | intro _ | with_reducible apply stopAfterBundle_tame' | (with_reducible apply Tame.foldl; intro _ _ _) | split | exact Tame.same (Tame.refl _) rfl rfl | dsimp only)
theorem slotSrd_mild (d : BitVec 5) (num : BitVec 12) (s : State) : (slotSrd d num s).Mild := by
  unfold slotSrd
  try dsimp only
  repeat' (first | with_reducible exact Tame.refl _ | with_reducible assumption | with_reducible apply Slot.finish_mild | with_reducible apply Slot.mild_of | intro _ | with_reducible apply Env.fixed_tame' | (with_reducible apply Tame.foldl; intro _ _ _) | split | exact Tame.same (Tame.refl _) rfl rfl | dsimp only)
theorem slotSwr_mild (d : BitVec 5) (num : BitVec 12) (s : State) : (slotSwr d num s).Mild := by
  unfold slotSwr
  try dsimp only
  repeat' (first | with_reducible exact Tame.refl _ | with_reducible assumption | with_reducible apply Slot.finish_mild | with_reducible apply Slot.mild_of | intro _ | with_reducible apply State.modCtx_tame' | with_reducible apply State.clearCounter_tame' | (with_reducible apply Tame.foldl; intro _ _ _) | split | exact Tame.same (Tame.refl _) rfl rfl | dsimp only)
theorem slotNextt_mild (o : AB) (s : State) : (slotNextt o s).Mild := by
  unfold slotNextt
  try dsimp only
  repeat' (first | with_reducible exact Tame.refl _ | with_reducible assumption | with_reducible apply Slot.finish_mild | with_reducible apply Slot.mild_of | intro _ | with_reducible apply State.modCtx_tame' | with_reducible apply State.kill_tame' | with_reducible apply Env.fixed_tame' | with_reducible apply State.enterMem_tame' | (with_reducible apply Tame.foldl; intro _ _ _) | split | exact Tame.same (Tame.refl _) rfl rfl | dsimp only)
theorem slotSuspend_mild (o : A1) (v : BitVec 4) (s : State) : (slotSuspend o v s).Mild := by
  unfold slotSuspend
  try dsimp only
  repeat' (first | with_reducible exact Tame.refl _ | with_reducible assumption | with_reducible apply Slot.finish_mild | with_reducible apply Slot.mild_of | intro _ | with_reducible apply Env.leave_tame' | (with_reducible apply Tame.foldl; intro _ _ _) | split | exact Tame.same (Tame.refl _) rfl rfl | dsimp only)
theorem slotTend_mild (s : State) : (slotTend s).Mild := by
  unfold slotTend
  try dsimp only
  repeat' (first | with_reducible exact Tame.refl _ | with_reducible assumption | with_reducible apply Slot.finish_mild | with_reducible apply Slot.mild_of | intro _ | with_reducible apply Env.leave_tame' | (with_reducible apply Tame.foldl; intro _ _ _) | split | exact Tame.same (Tame.refl _) rfl rfl | dsimp only)
theorem launchSlot_mild (e : Env) (o : R3) (dispatch : Bool) : (launchSlot e o dispatch).Mild := by
  unfold launchSlot
  try dsimp only
  repeat' (first | with_reducible exact Tame.refl _ | with_reducible assumption | with_reducible apply Slot.finish_mild | with_reducible apply Slot.mild_of | intro _ | with_reducible apply State.modCtx_tame' | with_reducible apply State.sendReq_tame' | (with_reducible apply Tame.foldl; intro _ _ _) | split | exact Tame.same (Tame.refl _) rfl rfl | dsimp only)
theorem slotLaunch_mild (o : R3) (s : State) : (slotLaunch o s).Mild := by
  unfold slotLaunch
  try dsimp only
  repeat' (first | with_reducible exact Tame.refl _ | with_reducible assumption | with_reducible apply launchSlot_mild | with_reducible apply Slot.finish_mild | with_reducible apply Slot.mild_of | intro _ | (with_reducible apply Tame.foldl; intro _ _ _) | split | exact Tame.same (Tame.refl _) rfl rfl | dsimp only)
theorem slotDispatch_mild (o : R3) (s : State) : (slotDispatch o s).Mild := by
  unfold slotDispatch
  try dsimp only
  repeat' (first | with_reducible exact Tame.refl _ | with_reducible assumption | with_reducible apply launchSlot_mild | with_reducible apply Slot.finish_mild | with_reducible apply Slot.mild_of | intro _ | (with_reducible apply Tame.foldl; intro _ _ _) | split | exact Tame.same (Tame.refl _) rfl rfl | dsimp only)
theorem jcbSlot_mild (e : Env) (raise : Bool) (d : BitVec 5) (a b : Opnd) : (jcbSlot e raise d a b).Mild := by
  unfold jcbSlot
  try dsimp only
  repeat' (first | with_reducible exact Tame.refl _ | with_reducible assumption | with_reducible apply Slot.finish_mild | with_reducible apply Slot.mild_of | intro _ | with_reducible apply State.modCtx_tame' | with_reducible apply State.kill_tame' | with_reducible apply State.alone_tame' | with_reducible apply State.enterMem_tame' | (with_reducible apply Tame.foldl; intro _ _ _) | split | exact Tame.same (Tame.refl _) rfl rfl | dsimp only)
theorem slotRaise_mild (o : R3) (s : State) : (slotRaise o s).Mild := by
  unfold slotRaise
  try dsimp only
  repeat' (first | with_reducible exact Tame.refl _ | with_reducible assumption | with_reducible apply jcbSlot_mild | with_reducible apply Slot.finish_mild | with_reducible apply Slot.mild_of | intro _ | (with_reducible apply Tame.foldl; intro _ _ _) | split | exact Tame.same (Tame.refl _) rfl rfl | dsimp only)
theorem slotPost_mild (o : R2) (s : State) : (slotPost o s).Mild := by
  unfold slotPost
  try dsimp only
  repeat' (first | with_reducible exact Tame.refl _ | with_reducible assumption | with_reducible apply jcbSlot_mild | with_reducible apply Slot.finish_mild | with_reducible apply Slot.mild_of | intro _ | (with_reducible apply Tame.foldl; intro _ _ _) | split | exact Tame.same (Tame.refl _) rfl rfl | dsimp only)
theorem slotQpop_mild (o : R2) (s : State) : (slotQpop o s).Mild := by
  unfold slotQpop
  refine Slot.finish_mild ⟨fun t => ?_, fun t => .refl t⟩
  dsimp only
  refine Tame.ite (State.modCtx_tame ..) ?_
  exact Tame.trans (State.dropRec_tame' (State.modCtx_tame ..)) ((Env.storeSlot_mild (hm := ⟨fun _ => .refl _, fun _ => .refl _⟩) ..).1 _)
theorem slotColl_mild (o : R3) (s : State) : (slotColl o s).Mild := by
  unfold slotColl
  try dsimp only
  repeat' (first | with_reducible exact Tame.refl _ | with_reducible assumption | with_reducible apply Slot.finish_mild | with_reducible apply Slot.mild_of | intro _ | with_reducible apply State.modCtx_tame' | with_reducible apply State.modCore_tame' | with_reducible apply State.postRec_tame' | (with_reducible apply Tame.foldl; intro _ _ _) | split | exact Tame.same (Tame.refl _) rfl rfl | dsimp only)
theorem slotRte_mild (o : R2) (v : BitVec 4) (s : State) : (slotRte o v s).Mild := by
  unfold slotRte
  try dsimp only
  repeat' (first | with_reducible exact Tame.refl _ | with_reducible assumption | with_reducible apply Slot.finish_mild | with_reducible apply Slot.mild_of | intro _ | with_reducible apply State.modCtx_tame' | with_reducible apply State.respond_tame' | (with_reducible apply Tame.foldl; intro _ _ _) | split | exact Tame.same (Tame.refl _) rfl rfl | dsimp only)
theorem slotWfe_mild (o : R3) (v : BitVec 4) (s : State) : (slotWfe o v s).Mild := by
  unfold slotWfe
  try dsimp only
  repeat' (first | with_reducible exact Tame.refl _ | with_reducible assumption | with_reducible apply Slot.finish_mild | with_reducible apply Slot.mild_of | intro _ | with_reducible apply State.modCtx_tame' | with_reducible apply State.touch_tame' | with_reducible apply State.kill_tame' | with_reducible apply Env.fixed_tame' | (with_reducible apply Tame.foldl; intro _ _ _) | split | exact Tame.same (Tame.refl _) rfl rfl | dsimp only)
theorem slotAgree_mild (d : BitVec 5) (tag : BitVec 16) (s : State) : (slotAgree d tag s).Mild := by
  unfold slotAgree
  try dsimp only
  repeat' (first | with_reducible exact Tame.refl _ | with_reducible assumption | with_reducible apply Slot.finish_mild | with_reducible apply Slot.mild_of | intro _ | with_reducible apply State.modCtx_tame' | with_reducible apply State.modHub_tame' | with_reducible apply Env.fixed_tame' | (with_reducible apply Tame.foldl; intro _ _ _) | split | exact Tame.same (Tame.refl _) rfl rfl | dsimp only)
theorem agreedSlot_mild (e : Env) (rm ra : BitVec 5) (ofs : BitVec 11) (predict : Option Bool) : (agreedSlot e rm ra ofs predict).Mild := by
  unfold agreedSlot
  try dsimp only
  repeat' (first | with_reducible exact Tame.refl _ | with_reducible assumption | with_reducible apply Slot.finish_mild | split | with_reducible apply Slot.mild_of | intro _ | with_reducible apply Env.takeK_tame' | (with_reducible apply Tame.foldl; intro _ _ _) | split | exact Tame.same (Tame.refl _) rfl rfl | dsimp only)
theorem slotAbr_mild (m a : BitVec 5) (ofs : BitVec 11) (s : State) : (slotAbr m a ofs s).Mild := by
  unfold slotAbr
  try dsimp only
  repeat' (first | with_reducible exact Tame.refl _ | with_reducible assumption | with_reducible apply agreedSlot_mild | with_reducible apply Slot.finish_mild | with_reducible apply Slot.mild_of | intro _ | (with_reducible apply Tame.foldl; intro _ _ _) | split | exact Tame.same (Tame.refl _) rfl rfl | dsimp only)
theorem slotAbrp_mild (p : Bool) (m : BitVec 4) (a : BitVec 5) (ofs : BitVec 11) (s : State) : (slotAbrp p m a ofs s).Mild := by
  unfold slotAbrp
  try dsimp only
  repeat' (first | with_reducible exact Tame.refl _ | with_reducible assumption | with_reducible apply agreedSlot_mild | with_reducible apply Slot.finish_mild | with_reducible apply Slot.mild_of | intro _ | (with_reducible apply Tame.foldl; intro _ _ _) | split | exact Tame.same (Tame.refl _) rfl rfl | dsimp only)
theorem slotAres_mild (o : R3) (v : BitVec 4) (s : State) : (slotAres o v s).Mild := by
  unfold slotAres
  try dsimp only
  repeat' (first | with_reducible exact Tame.refl _ | with_reducible assumption | with_reducible apply Slot.finish_mild | with_reducible apply Slot.mild_of | intro _ | with_reducible apply Env.fixed_tame' | (with_reducible apply Tame.foldl; intro _ _ _) | split | exact Tame.same (Tame.refl _) rfl rfl | dsimp only)

end Sys2Proof.Machine
end

