-- ==== Sys2Proof/Tests/Slice0.lean ====
section
/-! SUPPORT. Tests: ill-formed terms that the check refuses, words of the spec's examples, single steps on a small state, and for every
statement with hypotheses states and operands that meet them. -/

set_option Elab.async false

namespace Sys2Proof.Tests

open Sys2Proof Sys2Proof.Machine

/-! ### Ill-formed terms, one for each check -/

def r3 : R3 := ⟨3, 1, 2, false, false⟩
def r2 : R2 := ⟨3, 1, false⟩
def ab : AB := ⟨1, 2, false, false⟩

theorem test_wellFormed_refuses_variants :
    ([.addr r3 8, .mulh r3 3, .cmp r3 6, .movx r2 7, .div r3 8, .fadd r3 6, .fsub r3 6, .fmul r3 6, .fma r3 true 6, .fdiv r3 6, .fsqrt r2 6,
      .frsq r2 6, .fcmp r3 7, .fcvt r2 8, .brc 11 1 0, .vadd r3 6, .vsub r3 10, .vmul r3 11, .vfma r3 14, .vmin r3 3, .vmax r3 3, .vshr r3 0,
      .vcmp r3 7, .vcvt r2 10, .vred r2 8, .ldg r3 4, .stg r3 10, .fencer ab 0, .atom r3 15, .ratom r3 15, .rst r3 5, .loop 5 1 0,
      .suspend ⟨1, false⟩ 4, .ares r3 3, .rte r2 3, .wfe r3 3, .srd 1 0x006, .swr 1 0x032] : List Instr).all (fun i => !wellFormed i) = true := by
  decide

theorem test_wellFormed_refuses_fields :
    ([.movx ⟨3, 4, false⟩ 2, .movx ⟨8, 1, false⟩ 3, .movx ⟨3, 8, false⟩ 4, .movx ⟨3, 8, false⟩ 5, .movx ⟨8, 1, false⟩ 6, .vcmp ⟨8, 1, 2, false, false⟩ 0,
      .vbcast r3 false, .qop ⟨8, 1, 2, false, false⟩ 0, .qop ⟨3, 1, 8, false, false⟩ 0, .qop r3 4, .qop r3 5, .qop r3 7, .gset ⟨8, 1, 2, false, false⟩ true,
      .gseed ⟨8, 1, 0⟩, .ggen ⟨3, 8, 2, false, false⟩ false true, .fencer ab 3, .bucket ⟨8, 1, 2, false, false⟩, .suspend ⟨1, false⟩ 3, .ares r3 0,
      .wfe r3 0, .wfe r3 1, .pfxp 6 1, .pfxp 4 8] : List Instr).all (fun i => !wellFormed i) = true := by
  decide

theorem test_wellFormed_refuses_steps :
    ([.wload 0 false 0 false 0, .wload 1 true 0 false 0, .wload 1 false 0 false 1, .astream 1 24 0 0 0 false, .astream 1 0 0 255 1 false,
      .agen 0 false 24 0 0 0 false, .agen 0 false 0 0 1 255 false, .aclr 255 1, .adrain 1 5 false 0 0 0 false 0, .adrain 1 0 false 0 0 0 false 1,
      .adrain 14 0 false 0 0 0 false 0, .adrain 15 0 false 0 0 0 false 0, .adrain 0 0 true 0 0 0 false 0, .adrain 1 0 false 0 255 1 false 0, .ragg 1 1,
      .loopm true 0 1 0, .loopm false 1 0 0, .mbr 5 0 0, .mbr 2 1 0, .padd 0 0 true 1, .padd 0 1 false 0] : List Instr).all
      (fun i => !wellFormed i) = true := by decide

theorem test_wellFormed_admits :
    ([.nop, .addr r3 7, .div r3 7, .vadd r3 9, .qop ⟨3, 1, 0, false, false⟩ 5, .ldg r3 9, .rst r3 4, .loop 4 1 0, .wfe r3 2, .srd 1 0x079, .aclr 255 0,
      .adrain 0 4 false 0 0 255 true 7, .mbr 4 7 0] : List Instr).all wellFormed = true := by decide

/-! ### Words that the entries of the spec give (R382 to R493) -/

theorem test_words_scalar_x :
    decodeSlot 0x0023_0880 = some (.add ⟨3, 1, 2, false, false⟩) ∧ decodeSlot 0x0049_4A00 = some (.sub ⟨9, 9, 8, false, false⟩) ∧
    decodeSlot 0x0064_2983 = some (.addr ⟨4, 5, 6, false, false⟩ 3) ∧ decodeSlot 0x00DA_CA00 = some (.xor ⟨26, 25, 8, false, false⟩) ∧
    decodeSlot 0x00F3_4980 = some (.shl ⟨19, 9, 6, false, false⟩ false) ∧ decodeSlot 0x0107_2980 = some (.mul ⟨7, 5, 6, false, false⟩) ∧
    decodeSlot 0x0129_52C1 = some (.mulh ⟨9, 10, 11, false, false⟩ 1) ∧ decodeSlot 0x0152_8440 = some (.min ⟨18, 16, 17, false, false⟩ false) ∧
    decodeSlot 0x0143_2143 = some (.max ⟨3, 4, 5, false, false⟩ true) ∧ decodeSlot 0x0155_A801 = some (.max ⟨21, 21, 0, false, false⟩ false) ∧
    decodeSlot 0x0167_4244 = some (.cmp ⟨7, 8, 9, false, false⟩ 4) ∧ decodeSlot 0x0185_31C0 = some (.sel ⟨5, 6, 7, false, false⟩ false) ∧
    decodeSlot 0x01C4_2801 = some (.popc ⟨4, 5, false⟩ true) ∧ decodeSlot 0x01E0_5003 = some (.movx ⟨0, 10, false⟩ 3) ∧
    decodeSlot 0x0206_3001 = some (.addi ⟨6, 6, 1⟩) ∧ decodeSlot 0x0229_4FF8 = some (.andi ⟨9, 9, -8⟩) ∧ decodeSlot 0x0245_2806 = some (.ori ⟨5, 5, 6⟩) ∧
    decodeSlot 0x0273_6803 = some (.xori ⟨19, 13, 3⟩) ∧ decodeSlot 0x0285_4010 = some (.shli 5 8 16) ∧ decodeSlot 0x0283_1884 = some (.srai 3 3 4) ∧
    decodeSlot 0x02A7_47FB = some (.cmpi ⟨7, 8, -5⟩) ∧ decodeSlot 0x02CB_0001 = some (.li 11 1) ∧ decodeSlot 0x02EB_3F80 = some (.lih 11 0x3F80) := by decide

theorem test_words_scalar_y :
    decodeSlot 0x0304_2983 = some (.div ⟨4, 5, 6, false, false⟩ 3) ∧ decodeSlot 0x0386_088A = some (.fma ⟨6, 1, 2, false, false⟩ true 2) ∧
    decodeSlot 0x03AF_5380 = some (.fdiv ⟨15, 10, 14, false, false⟩ 0) ∧ decodeSlot 0x03CE_6000 = some (.fsqrt ⟨14, 12, false⟩ 0) ∧
    decodeSlot 0x03E2_1800 = some (.frsq ⟨2, 3, false⟩ 0) ∧ decodeSlot 0x040D_6004 = some (.fcmp ⟨13, 12, 0, false, false⟩ 4) ∧
    decodeSlot 0x0421_10C1 = some (.fmax ⟨1, 2, 3, false, false⟩) ∧ decodeSlot 0x0445_3004 = some (.fcvt ⟨5, 6, false⟩ 4) ∧
    decodeSlot 0x0467_1800 = some (.fclass ⟨7, 3, false⟩) ∧ decodeSlot 0x0482_2808 = some (.brc 2 5 8) := by decide

theorem test_words_vector :
    decodeSlot 0x0503_0888 = some (.vadd ⟨3, 1, 2, false, false⟩ 8) ∧ decodeSlot 0x0542_0940 = some (.vmul ⟨2, 1, 5, false, false⟩ 0) ∧
    decodeSlot 0x0563_3100 = some (.vfma ⟨3, 6, 4, false, false⟩ 0) ∧ decodeSlot 0x0581_10C1 = some (.vmax ⟨1, 2, 3, false, false⟩ 0) ∧
    decodeSlot 0x05A1_18C1 = some (.vor ⟨1, 3, 3, false, false⟩) ∧ decodeSlot 0x05A2_1082 = some (.vxor ⟨2, 2, 2, false, false⟩) ∧
    decodeSlot 0x05C1_10C1 = some (.vshr ⟨1, 2, 3, false, false⟩ 1) ∧ decodeSlot 0x05E0_2000 = some (.vcmp ⟨0, 4, 0, false, false⟩ 0) ∧
    decodeSlot 0x0601_10C2 = some (.vsel ⟨1, 2, 3, false, false⟩ 2) ∧ decodeSlot 0x0621_1002 = some (.vcvt ⟨1, 2, false⟩ 2) ∧
    decodeSlot 0x0641_1000 = some (.vred ⟨1, 2, false⟩ 0) ∧ decodeSlot 0x0661_10C0 = some (.vperm ⟨1, 2, 3, false, false⟩) ∧
    decodeSlot 0x0686_8800 = some (.vbcast ⟨6, 17, 0, false, false⟩ false) ∧ decodeSlot 0x06A2_1802 = some (.vrcp ⟨2, 3, false⟩) ∧
    decodeSlot 0x06C4_2980 = some (.vquant ⟨4, 5, 6, false, false⟩ false) ∧ decodeSlot 0x06E7_4243 = some (.vdeq ⟨7, 8, 9, false, false⟩ 3) ∧
    decodeSlot 0x0703_0880 = some (.qop ⟨3, 1, 2, false, false⟩ 0) := by decide

theorem test_words_copy_memory :
    decodeSlot 0x07C1_0005 = some (.gseed ⟨1, 0, 5⟩) ∧ decodeSlot 0x0A80_1800 = some (.cpy ⟨3, false⟩) ∧
    decodeSlot 0x0804_2824 = some (.ld ⟨4, 5, 4, false⟩ 2) ∧ decodeSlot 0x083B_2006 = some (.st ⟨27, 4, 0, false⟩ 3) ∧
    decodeSlot 0x0827_080C = some (.st ⟨7, 1, 1, false⟩ 2) ∧ decodeSlot 0x0843_7800 = some (.ldv ⟨3, 15, 0, false⟩) ∧
    decodeSlot 0x0845_1010 = some (.ldv ⟨5, 2, 2, false⟩) ∧ decodeSlot 0x0862_2800 = some (.stv ⟨2, 5, 0, false⟩) ∧
    decodeSlot 0x0886_3A01 = some (.ldg ⟨6, 7, 8, false, false⟩ 1) ∧ decodeSlot 0x0883_2148 = some (.ldg ⟨3, 4, 5, false, false⟩ 8) ∧
    decodeSlot 0x08A3_3A00 = some (.stg ⟨3, 7, 8, false, false⟩ 0) ∧ decodeSlot 0x08C9_52C1 = some (.probe ⟨9, 10, 11, false, false⟩ true) ∧
    decodeSlot 0x08E9_52C0 = some (.lock ⟨9, 10, 11, false, false⟩ false) ∧ decodeSlot 0x08E0_52C2 = some (.unlock ⟨10, 11, false, false⟩) ∧
    decodeSlot 0x0920_0000 = some .drain ∧ decodeSlot 0x0940_0000 = some .fenceo ∧
    decodeSlot 0x0940_09C1 = some (.fencer ⟨1, 7, false, false⟩ 1) ∧ decodeSlot 0x0940_0804 = some (.fencer ⟨1, 0, false, false⟩ 4) ∧
    decodeSlot 0x0964_0882 = some (.atom ⟨4, 1, 2, false, false⟩ 2) ∧ decodeSlot 0x0988_0882 = some (.ratom ⟨8, 1, 2, false, false⟩ 2) ∧
    decodeSlot 0x09A6_0804 = some (.rld ⟨6, 1, 0, false⟩ 2) ∧ decodeSlot 0x09C3_31C4 = some (.rst ⟨3, 6, 7, false, false⟩ 4) ∧
    decodeSlot 0x09C9_83C2 = some (.rst ⟨9, 16, 15, false, false⟩ 2) ∧ decodeSlot 0x09E4_2980 = some (.stver ⟨4, 5, 6, false, false⟩) ∧
    decodeSlot 0x0A00_4240 = some (.owne ⟨8, 9, false, false⟩) ∧ decodeSlot 0x0A20_0880 = some (.barm ⟨1, 2, false, false⟩) := by decide

theorem test_words_matrix_control :
    decodeSlot 0x0B40_2140 = some (.mcall ⟨4, 5, false, false⟩ 0) ∧ decodeSlot 0x0B60_3002 = some (.mwait ⟨6, false⟩ 2) ∧
    decodeSlot 0x0B88_0000 = some (.mver 8 0) ∧ decodeSlot 0x0BA0_31C0 = some (.mpwr ⟨6, 7, false, false⟩) ∧ decodeSlot 0x0BC4_2800 = some (.mprd ⟨4, 5, false⟩) ∧
    decodeSlot 0x0C00_0400 = some (.br 0x400) ∧ decodeSlot 0x0C5F_3002 = some (.jrL ⟨31, 6, false⟩) ∧ decodeSlot 0x0CC0_5801 = some (.suspend ⟨11, false⟩ 1) ∧
    decodeSlot 0x0CE0_0000 = some .tend ∧ decodeSlot 0x0D09_5300 = some (.launch ⟨9, 10, 12, false, false⟩) ∧
    decodeSlot 0x0D29_52C0 = some (.raise ⟨9, 10, 11, false, false⟩) ∧ decodeSlot 0x0D49_5000 = some (.post ⟨9, 10, false⟩) ∧
    decodeSlot 0x0D69_5000 = some (.qpop ⟨9, 10, false⟩) ∧ decodeSlot 0x0D89_5300 = some (.dispatch ⟨9, 10, 12, false, false⟩) ∧
    decodeSlot 0x0DC0_2810 = some (.abr 0 5 16) ∧ decodeSlot 0x0E24_52C0 = some (.coll ⟨4, 10, 11, false, false⟩) ∧
    decodeSlot 0x0E40_0005 = some (.trap 5) ∧ decodeSlot 0x0E69_5000 = some (.rte ⟨9, 10, false⟩ 0) ∧ decodeSlot 0x0E60_5001 = some (.rte ⟨0, 10, false⟩ 1) ∧
    decodeSlot 0x0E89_0280 = some (.wfe ⟨9, 0, 10, false, false⟩ 0) ∧ decodeSlot 0x0EA0_00B1 = some (.dbrk 0xB1) ∧ decodeSlot 0x0ECA_0050 = some (.srd 10 0x050) ∧
    decodeSlot 0x0EE3_0008 = some (.swr 3 0x008) ∧ decodeSlot 0x0EE1_0020 = some (.swr 1 0x020) ∧ decodeSlot 0x0FC0_0002 = some (.pfxi 2) ∧
    decodeSlot 0x0FEC_4000 = some (.pfxp 3 2) := by decide

theorem test_words_steps :
    decodeMicro 0x3000_0001_8000_0000 = some (.aclr 0 3) ∧ decodeMicro 0x3909_000F_8000_0000 = some (.adrain 2 0 true 2 0 31 false 0) ∧
    decodeMicro 0x238C_800F_8000_0000 = some (.agen 3 true 3 1 0 31 false) ∧ decodeMicro 0x2C00_0000_0000_0000 = some (.asel 2) ∧
    decodeMicro 0x1C9C_800F_8000_0000 = some (.astream 9 7 1 0 31 false) ∧ decodeMicro 0x6170_0000_0000_0000 = some (.padd 1 3 true 0) ∧
    decodeMicro 0x6200_0000_0000_4000 = some (.padd 2 0 false 16384) ∧ decodeMicro 0x1180_0000_0000_0000 = some (.wgen 1 true 0) ∧
    decodeMicro 0x0C80_0000_0000_0000 = some (.wload 9 false 0 false 0) ∧ decodeMicro 0x0C86_8000_0000_0000 = some (.wload 9 false 0 true 5) ∧
    decodeMicro 0x4800_0000_0000_0000 = some (.zskip false) ∧ decodeMicro 0x4C00_0000_0000_0000 = some (.zskip true) := by decide

theorem test_words_table_form :
    decodeTableWord 32 0x0023_0880 = some (.add ⟨3, 1, 2, false, false⟩) ∧ decodeTableWord 64 0x3000_0001_8000_0000 = some (.aclr 0 3) := by decide

/-! ### The small state of the tests: context 0 of core 0 issues a bundle -/

/-- The own-scratchpad window. -/
def own : W64 := 0x003FFC0000000000
/-- An address of another die. -/
def far : W64 := 0x0000040000001000

/-- Registers: x1 = 7, x2 = 5, x3 = 0, x4 own scratchpad, x5 memory of the own die, x6 memory of another die, x7 = -5, x8 = 2^32 + 8, x12 to x18 values at the ends of ranges; y1 = 1.0, y2 = 2.0,
y3 = 7, y4 = -2, y5 a NaN, y6 = 0, y9 to y12 the sources of the table of R420; lanes: v1 3, v2 the lane's number, v4 1.0; q1 = 6, q2 = 3. -/
def tRegs : Regs := { Regs.zero with
  x := #v[0, 7, 5, 0, own, 0x1000, far, -5, 0x100000008, 1, 0x40, 0x2000, 0x10000, 0x80000000, own + 0x10, 0x700, 0xC00000000, 0x100000000000, 0x1100, 0, 0, 0, 0, 0, 0, 0, 0, 0, 0, 0, 0, 0x3002]
  y := #v[0, 0x3F800000, 0x40000000, 7, -2, 0x7FC00000, 0, 0x8000000000000000, -1, 0xC02C0000, 0x4F000000, 0xBF000000, 0x01000001, 0, 0, 0, 0, 0, 0, 0, 0, 0, 0, 0, 0, 0, 0, 0, 0, 0, 0, 0]
  v := (Vector.replicate 32 (0 : Wide)).set 1 (ofLanes fun _ => 3) |>.set 2 (ofLanes fun l => BitVec.ofNat 32 l) |>.set 4 (ofLanes fun _ => 0x3F800000)
  q := #v[0, 6, 3, 0, 0, 0, 0, 0]
  g := #v[0, 0x20000000000000000000000000000000, 0x0E000000000000000000000000000000, 0, 0, 0, 0, 0] }

/-- The context. -/
def tCtx : Ctx := { Ctx.idle with r := tRegs, pc := 0x2000, phase := .run, rcd := 0x4000, vf := 0x7F, prv := true, seqr := true, part := 0 }

/-- The state: a bundle issues, its checks made. -/
def tS : State := { State.reset with
  now := 100
  iss := { Issue.none with checked := true, bundle := 0x2000, slot := 0x2000, after := 0x2004 }
  ctxs := ⟨[(0, tCtx)]⟩
  cores := ⟨[(0, { coreDefault 0 with spk := 12 })]⟩
  slots := ⟨[(0, (0, false, some 0x7F, false)), (1, (0, true, some 0x7F, false))]⟩ }

/-- The last result in flight of context 0 after an outcome: file, number, value, first cycle, flags. -/
def sent (o : Host.Outcome State Fault Refusal) : Option (File × Nat × Nat × Nat × Nat) :=
  match o with
  | .next t => (t.ctx 0).inflight.getLast?.map fun r => (r.file, r.idx, r.val.toNat, r.due, r.flags.toNat)
  | _ => none

theorem test_state_issues : tS.Issuing := ⟨by decide, by decide⟩

/-- Lane l of the last result in flight of context 0. -/
def sentLane (o : Host.Outcome State Fault Refusal) (l : Nat) : Option Nat :=
  match o with
  | .next t => (t.ctx 0).inflight.getLast?.map fun r => (lane r.val l).toNat
  | _ => none
/-- Context 0 after an outcome. -/
def ctxOf (o : Host.Outcome State Fault Refusal) : Ctx :=
  match o with
  | .next t => t.ctx 0
  | _ => Ctx.idle
/-- The state after an outcome. -/
def stateOf (o : Host.Outcome State Fault Refusal) : State :=
  match o with
  | .next t => t
  | _ => State.reset

/-! ### Single steps: scalar X -/

theorem test_add : sent (exec (.add ⟨3, 1, 2, false, false⟩) tS) = some (.x, 3, 12, 101, 0) := by decide +kernel
theorem test_sub_wraps : sent (exec (.sub ⟨3, 2, 1, false, false⟩) tS) = some (.x, 3, 18446744073709551614, 101, 0) := by decide +kernel
theorem test_addr_keeps_owner : sent (exec (.addr ⟨3, 6, 1, false, false⟩ 2) tS) = some (.x, 3, 4398046515228, 101, 0) := by decide +kernel
theorem test_addr_steps_back : sent (exec (.addr ⟨3, 6, 7, false, false⟩ 0) tS) = some (.x, 3, 4398046515195, 101, 0) := by decide +kernel
theorem test_and : sent (exec (.and ⟨3, 1, 2, false, false⟩) tS) = some (.x, 3, 5, 101, 0) := by decide +kernel
theorem test_or : sent (exec (.or ⟨3, 1, 2, false, false⟩) tS) = some (.x, 3, 7, 101, 0) := by decide +kernel
theorem test_xor : sent (exec (.xor ⟨3, 1, 2, false, false⟩) tS) = some (.x, 3, 2, 101, 0) := by decide +kernel
theorem test_shl : sent (exec (.shl ⟨3, 1, 2, false, false⟩ false) tS) = some (.x, 3, 224, 101, 0) := by decide +kernel
theorem test_shl_w : sent (exec (.shl ⟨3, 7, 1, false, false⟩ true) tS) = some (.x, 3, 18446744073709550976, 101, 0) := by decide +kernel
theorem test_shr_w : sent (exec (.shr ⟨3, 7, 2, false, false⟩ true) tS) = some (.x, 3, 134217727, 101, 0) := by decide +kernel
theorem test_sra : sent (exec (.sra ⟨3, 7, 2, false, false⟩ false) tS) = some (.x, 3, 18446744073709551615, 101, 0) := by decide +kernel
theorem test_mul : sent (exec (.mul ⟨3, 1, 7, false, false⟩) tS) = some (.x, 3, 18446744073709551581, 103, 0) := by decide +kernel
theorem test_mulh_u : sent (exec (.mulh ⟨3, 7, 1, false, false⟩ 1) tS) = some (.x, 3, 6, 103, 0) := by decide +kernel
theorem test_mulh_s : sent (exec (.mulh ⟨3, 7, 1, false, false⟩ 0) tS) = some (.x, 3, 18446744073709551615, 103, 0) := by decide +kernel
theorem test_min : sent (exec (.min ⟨3, 7, 1, false, false⟩ false) tS) = some (.x, 3, 18446744073709551611, 101, 0) := by decide +kernel
theorem test_max_u : sent (exec (.max ⟨3, 7, 1, false, false⟩ true) tS) = some (.x, 3, 18446744073709551611, 101, 0) := by decide +kernel
theorem test_cmp_lt : sent (exec (.cmp ⟨3, 7, 1, false, false⟩ 2) tS) = some (.x, 3, 1, 101, 0) := by decide +kernel
theorem test_cmp_ltu : sent (exec (.cmp ⟨3, 7, 1, false, false⟩ 4) tS) = some (.x, 3, 0, 101, 0) := by decide +kernel
theorem test_sel : sent (exec (.sel ⟨1, 2, 7, false, false⟩ false) tS) = some (.x, 1, 5, 101, 0) := by decide +kernel
theorem test_sel_z : sent (exec (.sel ⟨1, 2, 7, false, false⟩ true) tS) = some (.x, 1, 18446744073709551611, 101, 0) := by decide +kernel
theorem test_clz : sent (exec (.clz ⟨3, 1, false⟩ false) tS) = some (.x, 3, 61, 101, 0) := by decide +kernel
theorem test_popc_w : sent (exec (.popc ⟨3, 7, false⟩ true) tS) = some (.x, 3, 31, 101, 0) := by decide +kernel
theorem test_movx_yx : sent (exec (.movx ⟨3, 1, false⟩ 0) tS) = some (.x, 3, 1065353216, 102, 0) := by decide +kernel
theorem test_movx_qx : sent (exec (.movx ⟨3, 1, false⟩ 5) tS) = some (.x, 3, 6, 102, 0) := by decide +kernel
theorem test_addi : sent (exec (.addi ⟨3, 1, -8⟩) tS) = some (.x, 3, 18446744073709551615, 101, 0) := by decide +kernel
theorem test_andi : sent (exec (.andi ⟨3, 7, -8⟩) tS) = some (.x, 3, 18446744073709551608, 101, 0) := by decide +kernel
theorem test_ori : sent (exec (.ori ⟨3, 1, -8⟩) tS) = some (.x, 3, 18446744073709551615, 101, 0) := by decide +kernel
theorem test_xori : sent (exec (.xori ⟨3, 1, -1⟩) tS) = some (.x, 3, 18446744073709551608, 101, 0) := by decide +kernel
theorem test_shli : sent (exec (.shli 3 1 63) tS) = some (.x, 3, 9223372036854775808, 101, 0) := by decide +kernel
theorem test_shri : sent (exec (.shri 3 7 63) tS) = some (.x, 3, 1, 101, 0) := by decide +kernel
theorem test_srai : sent (exec (.srai 3 7 1) tS) = some (.x, 3, 18446744073709551613, 101, 0) := by decide +kernel
theorem test_cmpi : sent (exec (.cmpi ⟨3, 8, 0⟩) tS) = some (.x, 3, 0, 101, 0) := by decide +kernel
theorem test_cmpi_neg : sent (exec (.cmpi ⟨3, 7, -4⟩) tS) = some (.x, 3, 1, 101, 0) := by decide +kernel
theorem test_li : sent (exec (.li 3 0x8000) tS) = some (.x, 3, 18446744073709518848, 101, 0) := by decide +kernel
theorem test_lih : sent (exec (.lih 1 0x8000) tS) = some (.x, 1, 18446603336221196295, 101, 0) := by decide +kernel

/-! ### Single steps: scalar Y -/

theorem test_div : sent (exec (.div ⟨3, 4, 3, false, false⟩ 0) tS) = some (.y, 3, 0, 120, 0) := by decide +kernel
theorem test_div_rem : sent (exec (.div ⟨3, 4, 3, false, false⟩ 2) tS) = some (.y, 3, 18446744073709551614, 120, 0) := by decide +kernel
theorem test_div_overflow : sent (exec (.div ⟨3, 7, 8, false, false⟩ 0) tS) = some (.y, 3, 9223372036854775808, 120, 0) := by decide +kernel
theorem test_div_zero : sent (exec (.div ⟨3, 3, 6, false, false⟩ 1) tS) = some (.y, 3, 18446744073709551615, 120, 0) := by decide +kernel
theorem test_fadd : sent (exec (.fadd ⟨3, 1, 2, false, false⟩ 0) tS) = some (.y, 3, 1077936128, 104, 0) := by decide +kernel
theorem test_fsub_zero : sent (exec (.fsub ⟨3, 1, 1, false, false⟩ 3) tS) = some (.y, 3, 2147483648, 104, 0) := by decide +kernel
theorem test_fmul : sent (exec (.fmul ⟨3, 2, 2, false, false⟩ 0) tS) = some (.y, 3, 1082130432, 104, 0) := by decide +kernel
theorem test_fma_neg : sent (exec (.fma ⟨2, 1, 1, false, false⟩ true 1) tS) = some (.y, 2, 1065353216, 104, 0) := by decide +kernel
theorem test_fma : sent (exec (.fma ⟨2, 1, 1, false, false⟩ false 1) tS) = some (.y, 2, 1077936128, 104, 0) := by decide +kernel
theorem test_fdiv : sent (exec (.fdiv ⟨3, 1, 2, false, false⟩ 0) tS) = some (.y, 3, 1056964608, 114, 0) := by decide +kernel
theorem test_fdiv_zero : sent (exec (.fdiv ⟨3, 1, 6, false, false⟩ 0) tS) = some (.y, 3, 2139095040, 114, 8) := by decide +kernel
theorem test_fsqrt : sent (exec (.fsqrt ⟨3, 1, false⟩ 0) tS) = some (.y, 3, 1065353216, 114, 0) := by decide +kernel
theorem test_frsq_zero : sent (exec (.frsq ⟨3, 6, false⟩ 0) tS) = some (.y, 3, 2139095040, 108, 8) := by decide +kernel
theorem test_fcmp_gt : sent (exec (.fcmp ⟨3, 2, 1, false, false⟩ 4) tS) = some (.y, 3, 1, 102, 0) := by decide +kernel
theorem test_fcmp_nan : sent (exec (.fcmp ⟨3, 2, 5, false, false⟩ 2) tS) = some (.y, 3, 0, 102, 16) := by decide +kernel
theorem test_fmin : sent (exec (.fmin ⟨3, 2, 1, false, false⟩) tS) = some (.y, 3, 1065353216, 102, 0) := by decide +kernel
theorem test_fmax : sent (exec (.fmax ⟨3, 2, 1, false, false⟩) tS) = some (.y, 3, 1073741824, 102, 0) := by decide +kernel
theorem test_fcvt_rne : sent (exec (.fcvt ⟨3, 9, false⟩ 4) tS) = some (.y, 3, 18446744073709551613, 103, 1) := by decide +kernel
theorem test_fcvt_range : sent (exec (.fcvt ⟨3, 10, false⟩ 4) tS) = some (.y, 3, 2147483647, 103, 16) := by decide +kernel
theorem test_fcvt_tie : sent (exec (.fcvt ⟨3, 12, false⟩ 0) tS) = some (.y, 3, 1266679808, 103, 1) := by decide +kernel
theorem test_fclass_nan : sent (exec (.fclass ⟨3, 5, false⟩) tS) = some (.y, 3, 512, 102, 0) := by decide +kernel
theorem test_fclass_one : sent (exec (.fclass ⟨3, 1, false⟩) tS) = some (.y, 3, 64, 102, 0) := by decide +kernel
theorem test_brc_taken : (stateOf (exec (.brc 2 4 8) tS)).iss.takenY = some 0x2020 := by decide +kernel
theorem test_brc_not_taken : (stateOf (exec (.brc 2 3 8) tS)).iss.takenY = none := by decide +kernel

/-! ### Single steps: vector -/

theorem test_vadd_i32 : sentLane (exec (.vadd ⟨3, 1, 2, false, false⟩ 8) tS) 5 = some 8 := by decide +kernel
theorem test_vsub_i32 : sentLane (exec (.vsub ⟨3, 2, 1, false, false⟩ 8) tS) 0 = some 4294967293 := by decide +kernel
theorem test_vmul_i32 : sentLane (exec (.vmul ⟨3, 1, 2, false, false⟩ 8) tS) 5 = some 15 := by decide +kernel
theorem test_vadd_f32 : sentLane (exec (.vadd ⟨3, 4, 4, false, false⟩ 0) tS) 7 = some 1073741824 := by decide +kernel
theorem test_vfma : sentLane (exec (.vfma ⟨4, 4, 4, false, false⟩ 0) tS) 63 = some 1073741824 := by decide +kernel
theorem test_vmin_i32 : sentLane (exec (.vmin ⟨3, 1, 2, false, false⟩ 1) tS) 5 = some 3 := by decide +kernel
theorem test_vmax_i32 : sentLane (exec (.vmax ⟨3, 1, 2, false, false⟩ 1) tS) 5 = some 5 := by decide +kernel
theorem test_vand : sentLane (exec (.vand ⟨3, 1, 2, false, false⟩) tS) 5 = some 1 := by decide +kernel
theorem test_vor : sentLane (exec (.vor ⟨3, 1, 2, false, false⟩) tS) 5 = some 7 := by decide +kernel
theorem test_vxor : sentLane (exec (.vxor ⟨3, 1, 2, false, false⟩) tS) 5 = some 6 := by decide +kernel
theorem test_vshl : sentLane (exec (.vshl ⟨3, 1, 2, false, false⟩) tS) 5 = some 96 := by decide +kernel
theorem test_vshr : sentLane (exec (.vshr ⟨3, 2, 1, false, false⟩ 1) tS) 63 = some 7 := by decide +kernel
theorem test_vsel_taken : sentLane (exec (.vsel ⟨3, 1, 2, false, false⟩ 1) tS) 1 = some 3 := by decide +kernel
theorem test_vsel_other : sentLane (exec (.vsel ⟨3, 1, 2, false, false⟩ 1) tS) 0 = some 0 := by decide +kernel
theorem test_vcvt : sentLane (exec (.vcvt ⟨3, 2, false⟩ 0) tS) 2 = some 1073741824 := by decide +kernel
theorem test_vred_fadd : sentLane (exec (.vred ⟨3, 4, false⟩ 0) tS) 9 = some 1115684864 := by decide +kernel
theorem test_vperm : sentLane (exec (.vperm ⟨3, 2, 1, false, false⟩) tS) 9 = some 3 := by decide +kernel
theorem test_vbcast : sentLane (exec (.vbcast ⟨3, 1, 0, false, false⟩ false) tS) 33 = some 7 := by decide +kernel
theorem test_vexp2 : sentLane (exec (.vexp2 ⟨3, 3, false⟩) tS) 0 = some 1065353216 := by decide +kernel
theorem test_vlog2 : sentLane (exec (.vlog2 ⟨3, 4, false⟩) tS) 5 = some 0 := by decide +kernel
theorem test_vrcp : sentLane (exec (.vrcp ⟨3, 4, false⟩) tS) 5 = some 1065353216 := by decide +kernel
theorem test_vrsq : sentLane (exec (.vrsq ⟨3, 4, false⟩) tS) 5 = some 1065353216 := by decide +kernel
theorem test_vquant_header : sentLane (exec (.vquant ⟨3, 4, 2, false, false⟩ false) tS) 49 = some 80 := by decide +kernel
theorem test_vdeq_bf16 : sentLane (exec (.vdeq ⟨3, 4, 3, false, false⟩ 2) tS) 1 = some 1065353216 := by decide +kernel
theorem test_vcmp : sent (exec (.vcmp ⟨3, 1, 2, false, false⟩ 9) tS) = some (.q, 3, 18446744073709551607, 102, 0) := by decide +kernel
theorem test_qop_and : sent (exec (.qop ⟨3, 1, 2, false, false⟩ 0) tS) = some (.q, 3, 2, 102, 0) := by decide +kernel
theorem test_qop_first : sent (exec (.qop ⟨3, 1, 0, false, false⟩ 5) tS) = some (.q, 3, 2, 102, 0) := by decide +kernel

/-! ### Single steps: generator, copies, memory -/

/-- The state with bytes 11H and 22H at 1000H. -/
def tM : State := { tS with mem := ⟨[(0x1000, 0x11), (0x1001, 0x22)]⟩ }
/-- The state under a prediction. -/
def tP : State := tS.modCtx 0 fun x => { x with preds := [⟨Regs.zero, 1, true, 0, 0x3000, none, 0x2000, 0x2004, none, none⟩] }

theorem test_gset : sent (exec (.gset ⟨1, 1, 2, false, false⟩ false) tS) = some (.g, 1, 5 * 2 ^ 64 + 7, 101, 0) := by decide +kernel
theorem test_gseed : sent (exec (.gseed ⟨1, 1, 5⟩) tS) = some (.g, 1, 12 * 2 ^ 64, 101, 0) := by decide +kernel
theorem test_cpy : ((stateOf (exec (.cpy ⟨5, false⟩) tS)).core 0).cq.map (fun c => (c.kind, c.desc, c.ctx, c.vf)) = [(0, 0x1000, 0, 0x7F)] := by decide +kernel
theorem test_cpys : ((stateOf (exec (.cpys ⟨5, false⟩) tS)).core 0).cq.map (fun c => c.kind) = [1] := by decide +kernel
theorem test_cpyg : ((stateOf (exec (.cpyg ⟨5, false⟩) tS)).core 0).gq.map (fun c => (c.kind, c.desc)) = [(2, 0x1000)] := by decide +kernel
theorem test_cpyr_held : (ctxOf (exec (.cpyr ⟨5, false⟩) tP)).basket.length = 1 ∧ ((stateOf (exec (.cpyr ⟨5, false⟩) tP)).core 0).cq = [] := by decide +kernel
theorem test_cpyw : stateOf (exec (.cpyw ⟨5, false⟩) tS) = tS.filled [tS.cA .x 5 false] := by decide +kernel
theorem test_ld : sent (exec (.ld ⟨3, 5, 0, false⟩ 1) tM) = some (.x, 3, 0x2211, 106, 0) := by decide +kernel
theorem test_ld_far : (ctxOf (exec (.ld ⟨3, 6, 2, false⟩ 2) tM)).rout.map (fun e => e.op) = [.load (2 ^ 42 + 0x1008) 4 0 []] := by decide +kernel
theorem test_ldv : sentLane (exec (.ldv ⟨3, 5, 0, false⟩) tM) 0 = some 0x2211 := by decide +kernel
theorem test_ldg : sentLane (exec (.ldg ⟨3, 5, 2, false, false⟩ 3) tM) 1 = some 0x22 := by decide +kernel
theorem test_rld : (ctxOf (exec (.rld ⟨3, 5, 0, false⟩ 0) tM)).rout.map (fun e => e.op) = [.load 0x1000 1 0 []] := by decide +kernel
theorem test_st : (ctxOf (exec (.st ⟨7, 5, 1, false⟩ 1) tM)).lsq = [⟨.store [(0x1002, 0xFB), (0x1003, 0xFF)], 0, [], 0⟩] ∧
    (stateOf (exec (.st ⟨7, 5, 1, false⟩ 1) tM)).mem = tM.mem := by decide +kernel
theorem test_stv : (ctxOf (exec (.stv ⟨1, 4, 0, false⟩) tM)).lsq.map (fun e => match e.op with
    | .store bs => (bs.length, bs.head?)
    | _ => (0, none)) = [(256, some (2 ^ 54, 3))] := by decide +kernel
theorem test_stg : (ctxOf (exec (.stg ⟨1, 5, 2, false, false⟩ 3) tM)).lsq.length = 64 := by decide +kernel
theorem test_rst : (ctxOf (exec (.rst ⟨1, 6, 2, false, false⟩ 0) tM)).rout.map (fun e => e.op) = [.rst [(2 ^ 42 + 0x1000, 7)] (2 ^ 42 + 5)] := by decide +kernel
theorem test_atom : (ctxOf (exec (.atom ⟨3, 5, 2, false, false⟩ 2) tM)).lsq = [⟨.rmw 0x1000 (.atom 2 5), 1, [], 0⟩] := by decide +kernel
theorem test_ratom : (ctxOf (exec (.ratom ⟨3, 5, 2, false, false⟩ 2) tM)).rout.map (fun e => e.op) = [.rmw 0x1000 (.atom 2 5)] := by decide +kernel
theorem test_stver : (ctxOf (exec (.stver ⟨1, 5, 2, false, false⟩) tM)).lsq = [⟨.rmw 0x1000 (.stver 7 5), 1, [], 0⟩] := by decide +kernel
theorem test_barm : (ctxOf (exec (.barm ⟨5, 2, false, false⟩) tM)).lsq = [⟨.rmw 0x1000 (.barm 5), 0, [], 0⟩] := by decide +kernel
theorem test_owne : (stateOf (exec (.owne ⟨4, 9, false, false⟩) tS)).slotOf 0 0 = (0, true, some 0x7F, false) ∧
    (stateOf (exec (.owne ⟨4, 9, false, false⟩) tS)).slotOf 0 1 = (0, true, some 0x7F, false) := by decide +kernel
theorem test_ownt : (stateOf (exec (.ownt ⟨4, 2, false, false⟩) tS)).slotOf 0 1 = (0, false, some 0x7F, false) := by decide +kernel
theorem test_probe : sent (exec (.probe ⟨3, 5, 9, false, false⟩ false) tS) = some (.x, 3, 0, 112, 0) := by decide +kernel
theorem test_probe_long : sent (exec (.probe ⟨3, 5, 8, false, false⟩ false) tS) = some (.x, 3, 10, 112, 0) := by decide +kernel
theorem test_lock_quota : sent (exec (.lock ⟨3, 5, 9, false, false⟩ false) tS) = some (.x, 3, 6, 112, 0) := by decide +kernel
theorem test_unlock : (ctxOf (exec (.unlock ⟨5, 9, false, false⟩) (tS.modCtx 0 fun x => { x with pins := [⟨0x40, 0x40, 0x40, false, true⟩] }))).pins = [] := by decide +kernel
theorem test_pref : stateOf (exec (.pref 5 0 true false) tS) = tS.filled [tS.mA 5 false] := by decide +kernel
theorem test_drain : stateOf (exec .drain tS) = tS.filled [] ∧ (slotOf .drain (tS.modCtx 0 fun x => { x with rout := [⟨1, .store [], 0, 0, none, 0, 0, 0⟩] })).hold = .interlock := by decide +kernel
theorem test_fenceo : stateOf (exec .fenceo tS) = tS.filled [] := by decide +kernel
theorem test_fencer : (stateOf (exec (.fencer ⟨5, 2, false, false⟩ 1) tS)).mem = tS.mem := by decide +kernel
theorem test_cwait_held : (slotOf (.cwait ⟨5, 8, false, false⟩) tM).hold ≠ .none ∧ (slotOf (.cwait ⟨5, 2, false, false⟩) tM).hold = .none := by decide +kernel
theorem test_misaligned : (slotOf (.ld ⟨3, 1, 0, false⟩ 1) tS).traps = [(cALIGN, 7)] := by decide +kernel

/-! ### Single steps: matrix slots -/

theorem test_mcall : ((stateOf (exec (.mcall ⟨1, 2, false, false⟩ 3) tS)).core 0).mq.map (fun c => (c.routine, c.bank, c.tag)) = [(7, 3, 5)] := by decide +kernel
theorem test_mwait_held : (slotOf (.mwait ⟨1, false⟩ 0) tS).hold = .engine ∧ (slotOf (.mwait ⟨3, false⟩ 0) tS).hold = .none := by decide +kernel
theorem test_mver : sent (exec (.mver 3 0) (tS.modCore 0 fun k => { k with ver := #v[9, 0, 0, 0] })) = some (.x, 3, 9, 102, 0) := by decide +kernel
theorem test_mpwr : ((stateOf (exec (.mpwr ⟨10, 1, false, false⟩) tS)).core 0).mpw = [(104, 0x40, 7)] := by decide +kernel
theorem test_mprd : sent (exec (.mprd ⟨3, 10, false⟩) (tS.modCore 0 fun k => { k with mpw := [(99, 0x40, 77)] })) = some (.x, 3, 77, 104, 0) := by decide +kernel

/-! ### Single steps: control -/

theorem test_br : (stateOf (exec (.br (-1)) tS)).iss.takenK = some 0x1FFC := by decide +kernel
theorem test_jr : (stateOf (exec (.jr ⟨1, false⟩) tS)).iss.takenK = some 4 := by decide +kernel
theorem test_ret : (stateOf (exec .ret tS)).iss.takenK = some 0x3000 := by decide +kernel
theorem test_loop : (ctxOf (exec (.loop 0 1 12) tS)).r.loopCnt = 7 ∧ (ctxOf (exec (.loop 0 1 12) tS)).r.loopEnd = 0x2030 := by decide +kernel
theorem test_loop_zero : (stateOf (exec (.loop 0 3 12) tS)).iss.takenK = some 0x2040 := by decide +kernel
theorem test_trap : (stateOf (exec (.trap 5) tS)).iss.stopAfter = some 0x28 := by decide +kernel
theorem test_dbrk : (stateOf (exec (.dbrk 5) tS)).iss.stopAfter = some cDBRK := by decide +kernel
theorem test_srd : sent (exec (.srd 3 0x060) tS) = some (.x, 3, 100, 102, 0) := by decide +kernel
theorem test_swr : sent (exec (.swr 1 0x009) tS) = some (.sr, 9, 7, 101, 0) := by decide +kernel
theorem test_nextt : (ctxOf (exec (.nextt ⟨5, 2, false, false⟩) tS)).lsq = [⟨.rmw 0x1000 (.nextt 5 0), 1, [], 0⟩] ∧
    (ctxOf (exec (.nextt ⟨5, 2, false, false⟩) tS)).nrot = 1 := by decide +kernel
theorem test_launch : ((stateOf (exec (.launch ⟨3, 10, 2, false, false⟩) tS)).cluster 0).reqs.map (fun r => (r.desc, r.xb, r.dispatch)) = [(0x40, 5, false)] := by decide +kernel
theorem test_dispatch : ((stateOf (exec (.dispatch ⟨1, 10, 2, false, false⟩) tS)).cluster 0).reqs.map (fun r => (r.vf, r.dispatch)) = [(7, true)] := by decide +kernel
theorem test_post_no_block : sent (exec (.post ⟨3, 3, false⟩) tS) = some (.x, 3, 10, 108, 0) := by decide +kernel
theorem test_raise : (ctxOf (exec (.raise ⟨3, 5, 2, false, false⟩) tS)).lsq = [⟨.rmw 0x1000 (.raise false 5), 1, [], 0⟩] := by decide +kernel
theorem test_qpop_empty : sent (exec (.qpop ⟨3, 5, false⟩) tS) = some (.x, 3, 0x100, 108, 0) := by decide +kernel
theorem test_coll_none : sent (exec (.coll ⟨3, 1, 2, false, false⟩) tS) = some (.x, 3, 10, 108, 0) := by decide +kernel
theorem test_suspend : (stateOf (exec (.suspend ⟨5, false⟩ 2) tS)).iss.leave = some (false, 0x2000000000001000) := by decide +kernel
theorem test_tend : (stateOf (exec .tend tS)).iss.leave = some (true, 0) := by decide +kernel
theorem test_rte_none : sent (exec (.rte ⟨3, 5, false⟩ 0) tS) = some (.x, 3, 10, 108, 0) := by decide +kernel
theorem test_rte_priv : (slotOf (.rte ⟨3, 5, false⟩ 0) (tS.modCtx 0 fun x => { x with prv := false })).priv = true := by decide +kernel
theorem test_wfe_deadline : sent (exec (.wfe ⟨3, 0, 3, false, false⟩ 0) tS) = some (.x, 3, 1, 102, 0) := by decide +kernel
theorem test_agree_absent : (slotOf (.agree 3 9) tS).traps = [(cABSENT, 0x90000)] := by decide +kernel
theorem test_ares_unknown : sent (exec (.ares ⟨3, 1, 0, false, false⟩ 0) tS) = some (.x, 3, 0xF0000000, 102, 0) := by decide +kernel
theorem test_abr_unknown : (slotOf (.abr 0 1 4) tS).illVal = some 7 := by decide +kernel
theorem test_pfxi : (stateOf (exec (.pfxi 9) tS)).iss.pfxi = some 9 := by decide +kernel
theorem test_pfxp : (stateOf (exec (.pfxp 1 2) tS)).iss.pfxp = some (1, 2) := by decide +kernel
theorem test_condition_false : (tS.modCtx 0 id).env.cond = true ∧ ({ tS with iss := { tS.iss with pfxp := some (0, 3) } } : State).env.cond = false ∧
    stateOf (exec (.add ⟨3, 1, 2, false, false⟩) { tS with iss := { tS.iss with pfxp := some (0, 3) } }) = { tS with iss := { tS.iss with pfxp := some (0, 3) } } := by
  decide +kernel

/-! ### The state of the routines: the matrix engine of core 0 runs a routine -/

/-- m0 names 1000H, m1 2000H, m2 is 0, m3 is 3; g1 is a valid BF16 generator. -/
def tCmd : MatCmd :=
  ⟨9, 0, 77, #v[0x1000, 0x2000, 0, 3, 0, 0, 0, 0], #v[0, 0x20000000000000000000000000000000, 0, 0, 0, 0, 0, 0], 0x7F, 0, 0x2000, 0, 0x4000, 0, false, 0⟩
/-- The run: word 64, bank 0. -/
def tRun : MatRun := ⟨64, 0, 1, false, 0, 0, 0, false, false, 0, [], 0, 0, 0, 0, 0, false, false, 0, 0, none, 0, 0, 0, 0, 0, 0⟩
def tE : RunEnv := ⟨0, tCmd, tRun⟩
def tR : State := { tS with cores := ⟨[(0, { coreDefault 0 with spk := 12, mq := [tCmd], mrun := some tRun, latch := some 2 })]⟩, mem := ⟨[(0x1004, 5), (0x1008, 6), (0x100C, 7)]⟩ }
/-- The run after an outcome. -/
def runOf (o : Host.Outcome State Fault Refusal) : Option MatRun := ((stateOf o).core 0).mrun

theorem test_mend : (runOf (exec .mend tR)).bind (fun r => r.ended) = some (0, 0) ∧ (stateOf (exec .mend tR)).version 0 0 = 1 ∧
    (stateOf (exec .mend tR)).version 0 1 = 0 := by decide +kernel
theorem test_wload_latch : ((stateOf (exec (.wload 2 false 0 false 0) tR)).core 0).latch = some 2 := by decide +kernel
theorem test_wgen_latch : ((stateOf (exec (.wgen 1 true 0) tR)).core 0).latch = some 2 := by decide +kernel
theorem test_astream_first : (runOf (exec (.astream 2 24 0 0 0 false) tR)).bind (fun r => r.ended) = some (10, 64) := by decide +kernel
theorem test_agen_next : (runOf (exec (.agen 1 false 24 0 0 0 false) tR)).bind (fun r => r.ended) = some (10, 64) := by decide +kernel
theorem test_asel : (runOf (exec (.asel 2) tR)).map (fun r => (r.sel, r.banks, r.word)) = some (2, 5, 65) := by decide +kernel
theorem test_aclr : ((stateOf (exec (.aclr 0 3) (tR.modCore 0 fun x => { x with banks := ⟨[(128, 9), (1024, 8)]⟩ }))).core 0).banks.l = [(1024, 8)] := by decide +kernel
theorem test_adrain_fault : (runOf (exec (.adrain 0 0 true 0 0 0 false 0) tR)).bind (fun r => r.ended) = some (10, 64) := by decide +kernel
theorem test_ragg : (runOf (exec (.ragg 0 3) tR)).map (fun r => (r.rgf, r.rgc, r.rgw, r.rgv)) = some (5, 6, 7, true) ∧
    ((stateOf (exec (.ragg 0 3) tR)).core 0).mq.map (fun c => (c.m[0], c.m[3])) = [(0x1010, 2)] := by decide +kernel
theorem test_ragg_empty : (runOf (exec (.ragg 0 2) tR)).map (fun r => r.re) = some true := by decide +kernel
theorem test_zskip : (runOf (exec (.zskip true) tR)).map (fun r => (r.zs, r.word)) = some (true, 65) := by decide +kernel
theorem test_loopm : (runOf (exec (.loopm false 0 1 70) tR)).map (fun r => (r.loops, r.word)) = some ([(65, 70, 2)], 65) := by decide +kernel
theorem test_loopm_zero : (runOf (exec (.loopm true 2 0 70) tR)).map (fun r => (r.loops, r.word)) = some ([], 71) := by decide +kernel
theorem test_mbr : (runOf (exec (.mbr 0 0 99) tR)).map (fun r => r.word) = some 99 ∧ (runOf (exec (.mbr 4 2 99) tR)).map (fun r => r.word) = some 65 := by decide +kernel
theorem test_padd : ((stateOf (exec (.padd 0 0 false (-16)) tR)).core 0).mq.map (fun c => c.m[0]) = [0xFF0] := by decide +kernel

/-! ### Single events -/

/-- A store of 9 at 1000H in LSQ(0), an increment of a counter behind it, and a remote load in ROUT(0). -/
def tQ : State := tM.modCtx 0 fun x => { x with
  lsq := [⟨.store [(0x1000, 9)], 0, [], 0⟩, ⟨.rmw 0x1008 (.atom 2 4), 1, [], 0⟩]
  rout := []
  inflight := [{ mkRes .x 3 0 112 with fixed := false, need := 1, seq := 1 }] }
/-- A remote load of the bytes at 1000H, sent and not performed. -/
def tL : State := tM.modCtx 0 fun x => { x with
  rout := [⟨7, .load 0x1000 2 0 [], 1, 0, none, 0, 0, 0⟩]
  inflight := [{ mkRes .x 3 0 112 with fixed := false, need := 1, seq := 1 }] }

theorem test_performLocal : (stateOf (exec (.performLocal 0) tQ)).mem.read 0x1000 = 9 ∧ (stateOf (exec (.performLocal 0) tQ)).mem.read 0x1001 = 0x22 ∧
    (ctxOf (exec (.performLocal 0) tQ)).lsq.length = 1 := by decide +kernel
theorem test_performLocal_atom : (stateOf (exec (.performLocal 0) (stateOf (exec (.performLocal 0) tQ)))).mem.read 0x1008 = 4 := by decide +kernel
theorem test_sendRemote : (ctxOf (exec (.sendRemote 0 0) tL)).rout.map (fun e => (e.phase, e.val.toNat)) = [(2, 0x2211)] := by decide +kernel
theorem test_completeRemote : (ctxOf (exec (.completeRemote 0 0) (stateOf (exec (.sendRemote 0 0) tL)))).inflight.map (fun r => (r.val.toNat, r.need)) = [(0x2211, 0)] := by
  decide +kernel
theorem test_flag : (stateOf (exec (.flag ⟨0, 0⟩) (tM.modDie 0 fun d => { d with flags := [⟨0x1000, none, 0, none, none⟩] }))).rd 0x1000 8 = 0x2212 := by decide +kernel
theorem test_fixedResultLand : (ctxOf (exec (.fixedResultLand 0) (stateOf (exec (.fixedResultLand 0) { tS with now := 100 })))).r.x[3] = 0 ∧
    (ctxOf (exec (.fixedResultLand 0) { stateOf (exec (.add ⟨3, 1, 2, false, false⟩) tS) with now := 101 })).r.x[3] = 12 := by decide +kernel
theorem test_fixedResultLand_early : (ctxOf (exec (.fixedResultLand 0) (stateOf (exec (.mul ⟨3, 1, 2, false, false⟩) tS)))).r.x[3] = 0 := by decide +kernel
theorem test_variableResultLand : (ctxOf (exec (.variableResultLand 0 1) { tS.modCtx 0 (fun x => { x with inflight := [{ mkRes .x 3 8 112 with fixed := false, seq := 1 }] }) with
    now := 112 })).r.x[3] = 8 := by decide +kernel
theorem test_contextSwitch : ((stateOf (exec (.contextSwitch 0) (tS.modCore 0 fun k => { k with switching := some (0, 100) }))).core 0).issuing = some 0 := by decide +kernel
theorem test_engineStart_matrix : (runOf (exec (.engineStart 0 .matrix) (tR.modCore 0 fun k => { k with mrun := none, store := ⟨[(9, 0x8000000000000050)]⟩ }))).map
    (fun r => (r.word, r.ended)) = some (80, none) := by decide +kernel
theorem test_stopFreeze : (ctxOf (exec (.stopFreeze 0) (tS.modCtx 0 fun x => { x with phase := .stopping, stop := some ⟨0x28, 0, 100, false⟩ }))).phase = .frozen := by decide +kernel
theorem test_eccUncorrectableError : (stateOf (exec (.eccUncorrectableError (.dword 0x1004)) tS)).poison = [0x200] := by decide +kernel
theorem test_linkBringUp : (stateOf (exec (.linkBringUp 3 5) tS)).hub.peers.get 3 0 = 5 := by decide +kernel
theorem test_registerWrite_clamps : (stateOf (exec (.registerWrite 0x0008 99) tS)).hub.cmdSize = 12 := by decide +kernel
theorem test_heartbeat : (stateOf (exec (.heartbeat 2) { tS with now := 10000000, hub := { HubSt.zero with booted := true, hartRun := 0xFF } })).hub.hbeat[2] = 1 := by decide +kernel
/-- An image that verifies, with one byte of sequencer firmware at 4000H, in a package whose fuses hold the hash of its key; and one without a header. -/
def tImg : Image := zeroImage
def tBad : Image := { tImg with header := [] }
def tFuseOf (k : BitVec 512) (s : State) : State := s.modHub fun h => { h with fuseKey := k }
theorem tFuseOf_key (k : BitVec 512) (s : State) : (tFuseOf k s).hub.fuseKey = k := rfl
theorem tFuseOf_fuse (k : BitVec 512) (s : State) : (tFuseOf k s).hub.fuse = s.hub.fuse := rfl
def tFuse : State := tFuseOf zeroFuse State.reset
theorem tFuse_key : tFuse.hub.fuseKey = zeroFuse := tFuseOf_key zeroFuse _
theorem tFuse_fuse : tFuse.hub.fuse = 0 := tFuseOf_fuse zeroFuse _
theorem tBad_fails (fuse : W32) (key : BitVec 512) : imageOk fuse key tBad = false := by simp [imageOk, tBad]
theorem tImg_boots (fuse : W32) (n : Nat) (r : List Image) (h : fuse.toNat ≤ 1) : bootResult fuse zeroFuse (n + 1) (tImg :: r) = some (some tImg) := by
  unfold bootResult; rw [show imageOk fuse zeroFuse tImg = true from zeroImage_ok fuse h]; rfl
theorem bootOrder_one (s : State) (i : Image) (h : s.hub.flash = none) : s.bootOrder [(none, i)] = [i] := by simp [State.bootOrder, h]
theorem test_powerOn : ((stateOf (exec (.powerOn [5] [(none, tImg)]) tFuse)).core 5).phys = 64 ∧ (stateOf (exec (.powerOn [5] [(none, tImg)]) tFuse)).hub.booted = true ∧
    ((stateOf (exec (.powerOn [5] [(none, tImg)]) tFuse)).ctx 1151).pc = 0x4000 := by
  rw [show exec (.powerOn [5] [(none, tImg)]) tFuse = execPowerOn [5] [(none, tImg)] tFuse from rfl]
  unfold execPowerOn
  rw [bootOrder_one _ _ rfl, tFuse_key, tFuse_fuse, show bootTries = 7 + 1 from rfl, tImg_boots 0 7 [] (by decide)]
  decide +kernel

/-! ### Witnesses: states and operands that meet the hypotheses of the statements -/

theorem test_witness_EncodeDecodeAgree : wellFormed (.add r3) = true ∧ isSlot (.add r3) = true ∧ wellFormed (.aclr 255 0) = true ∧ isMicro (.aclr 255 0) = true := by decide

/-- A clock asked for, and an event asked for, after reset. -/
def tClock : State := { State.reset with agenda := [.clock] }
def tEvent : State := { State.reset with agenda := [.ev (.pageMoveComplete 0)] }
theorem test_witness_StepNeverStops : cleanAgenda tClock.agenda = true ∧ cleanAgenda tEvent.agenda = true := by decide
theorem test_witness_InvariantStep : ∃ s t : State, s.Inv ∧ step s = .next t := ⟨tClock, _, ⟨by decide, by decide⟩, rfl⟩
theorem test_witness_StepFollowsAgenda : tEvent.agenda = .ev (.pageMoveComplete 0) :: [] ∧ isEvent (.pageMoveComplete 0) = true ∧
    tClock.agenda = .clock :: [] ∧ tClock.turn = none := by decide +kernel

/-- A bundle of an ADD and three NOPs at 2000H, whose turn it is. -/
def tF : State := { tS with
  iss := Issue.none, mem := ⟨[(0x2000, 0x80), (0x2001, 0x08), (0x2002, 0x23), (0x200F, 0x80)]⟩
  cores := ⟨[(0, { coreDefault 0 with spk := 12, issuing := some 0 })]⟩ }
theorem test_witness_StepRunsDecodedBundle : tF.agenda = [] ∧ tF.turn = some 0 ∧ (tF.gang 0).length ≤ 1 ∧ (tF.outlook 0).map (fun p => p.v) = some .go ∧
    (tF.ctx 0).leader = none ∧ tF.fetch 0 (tF.ctx 0).pc = .ok [(0x2000, 0x00230880), (0x2004, 0), (0x2008, 0), (0x200C, 0x80000000)] ∧ decodeSlot 0x00230880 = some (.add r3) ∧
    (slotOf (.add r3) tF).phase = 2 ∧ (slotOf (.add r3) tF).phase ≠ 0 := by decide +kernel

theorem test_witness_PrefixesAndConditions : isSlot (.add r3) = true ∧ ({ tS with iss := { tS.iss with pfxp := some (0, 3) } } : State).iss.checked = true ∧
    ({ tS with iss := { tS.iss with pfxp := some (0, 3) } } : State).env.cond = false ∧ ((3 : BitVec 3).toNat < 4) ∧ ((5 : BitVec 3).toNat < 6 ∧ (7 : BitVec 5).toNat < 8) ∧
    ¬((6 : BitVec 3).toNat < 4 ∨ ((6 : BitVec 3).toNat < 6 ∧ (0 : BitVec 5).toNat < 8)) ∧
    ¬((4 : BitVec 3).toNat < 4 ∨ ((4 : BitVec 3).toNat < 6 ∧ (8 : BitVec 5).toNat < 8)) ∧ (tS.ctx tS.cur).preds = [] := by decide +kernel

/-- The bundle with a word that decodes to nothing in the place of ADD. -/
def tFi : State := { tF with mem := ⟨[(0x2000, 0x81), (0x2001, 0x08), (0x2002, 0x23), (0x200F, 0x80)]⟩ }
def tWsi : List (Nat × W32) := [(0x2000, 0x00230881), (0x2004, 0), (0x2008, 0), (0x200C, 0x80000000)]
theorem test_witness_reserved_word : decodeSlot 0x00230881 = none ∧ formBad (tWsi.map fun q => q.2) = false ∧
    readsBad ((tFi.presentWords tWsi none).items.flatMap fun q => if q.2.legal then q.2.reads else []) = false ∧ tFi.agenda = [] ∧ tFi.turn = some 0 ∧ (tFi.gang 0).length ≤ 1 ∧
    (tFi.outlook 0).map (fun p => p.v) = some (.trap cILLEGAL 0) ∧ cILLEGAL ≠ cMULTI ∧ (tFi.outlook 0).map (fun p => (p.s.ctx 0).preds) = some [] := by decide +kernel

/-- A slot alone at the program counter: no bundle is being issued. -/
def tA : State := { tS with iss := Issue.none }
/-- What the statements about a slot alone ask of the state. -/
def aloneAt (s : State) : Bool :=
  !s.iss.checked && decide (s.iss.pfxi = none) && decide (s.iss.pfxp = none) && !s.iss.pfxiBad && decide ((s.ctx s.cur).inflight = []) && decide ((s.ctx s.cur).preds = [])
/-- What they ask of a slot that issues. -/
def freeOf (sl : Slot) : Bool :=
  sl.legal && !sl.priv && !sl.privVal && decide (sl.hold = .none) && decide (sl.traps = []) && decide (sl.ecc = none) && decide (sl.kill = none)
theorem test_witness_LoneSlotIssues : isSlot (.add r3) = true ∧ aloneAt tA = true ∧ freeOf (slotOf (.add r3) tA.alone) = true ∧
    freeOf (slotOf (.st ⟨1, 5, 0, false⟩ 3) tA.alone) = true ∧ freeOf (slotOf (.rte r2 0) tA.alone) = true := by decide +kernel
theorem test_witness_LoneSlotTraps : isSlot (.add r3) = true ∧ aloneAt tA = true ∧
    (slotOf (.vadd r3 6) tA.alone).legal = false ∧
    (slotOf (.add r3) ({ tA with iss := { tA.iss with pfxi := some 1 } } : State).alone).prefixBad ({ tA with iss := { tA.iss with pfxi := some 1 } } : State).alone.env = true ∧
    (slotOf (.rte r2 0) (tA.modCtx 0 fun x => { x with prv := false }).alone).priv = true ∧
    (slotOf (.rte r2 0) (tA.modCtx 0 fun x => { x with prv := false }).alone).prefixBad (tA.modCtx 0 fun x => { x with prv := false }).alone.env = false ∧
    (slotOf (.ld ⟨3, 1, 0, false⟩ 1) tA.alone).traps = [(cALIGN, 7)] ∧ (slotOf (.ld ⟨3, 1, 0, false⟩ 1) tA.alone).hold = .none ∧
    (slotOf (.ld ⟨3, 1, 0, false⟩ 1) tA.alone).ecc = none ∧ (cALIGN ≠ cMULTI) := by decide +kernel
/-- A remote operation is outstanding. -/
def tO : State := tA.modCtx 0 fun x => { x with rout := [⟨1, .store [], 0, 0, none, 0, 0, 0⟩] }
theorem test_witness_LoneSlotHeld : aloneAt tO = true ∧ isSlot .drain = true ∧ (slotOf .drain tO.alone).hold = .interlock ∧ (slotOf .drain tO.alone).legal = true := by
  decide +kernel
theorem test_witness_PredictionHolds : (tP.ctx tP.cur).preds ≠ [] ∧ tP.env.cond = true := by decide +kernel
theorem test_witness_PrivilegeChecks : (slotOf (.rte r2 0) (tS.modCtx 0 fun x => { x with prv := false })).legal = true ∧
    (slotOf (.rte r2 0) (tS.modCtx 0 fun x => { x with prv := false })).priv = true ∧ (slotOf (.mpwr ⟨10, 2, false, false⟩) tS).privVal = true ∧
    (tS.ctx 0).ilock (slotOf (.mpwr ⟨10, 2, false, false⟩) tS).reads = false := by decide +kernel
theorem test_witness_MisalignmentTraps : tS.env.cond = true ∧ tS.env.lanes ≠ 0 := by decide +kernel
theorem test_witness_register_slots : ∃ s : State, s.Issuing := ⟨tS, test_state_issues⟩

theorem test_witness_AddSubAndOrXor : tS.Issuing ∧ (fOp 0x00230881).toNat = 1 ∧ fV 0x00230881 ≠ 0 ∧ (fOp 0x00494A0F).toNat = 2 ∧ fV 0x00494A0F ≠ 0 :=
  ⟨test_state_issues, by decide⟩
theorem test_witness_IntegerForms : (7 : BitVec 4).toNat < 8 ∧ (tS.xA 3 false).d = 0 ∧ (tS.xA 7 false).d.toNat / 2 ^ (63 - 0) = 1 ∧ (tS.xA 9 false).d.toNat / 2 ^ (63 - 63) = 1 ∧
    (tS.xA 17 false).d.setWidth 32 = (0 : W32) ∧ (tS.xA 7 false).d.toNat % 2 ^ 32 / 2 ^ (31 - 0) = 1 ∧ (tS.xA 9 false).d.toNat % 2 ^ 32 / 2 ^ (31 - 31) = 1 := by decide +kernel
/-- A bundle whose slot has a PFXI before it, and one whose slot runs under the lane masks q1 and q0. -/
def tI : State := { tS with iss := { tS.iss with pfxi := some 3 } }
def tV : State := { tS with iss := { tS.iss with pfxp := some (4, 1) } }
def tV0 : State := { tS with iss := { tS.iss with pfxp := some (4, 0) } }
theorem test_state_masked : tV.Issuing ∧ tV0.Issuing ∧ tI.Issuing := ⟨⟨by decide, by decide⟩, ⟨by decide, by decide⟩, ⟨by decide, by decide⟩⟩
theorem test_witness_ImmediateForms : tS.iss.pfxi = none ∧ tI.iss.pfxi = some 3 := by decide
theorem test_witness_MoveBetweenFiles : (tS.ctx tS.cur).nextts 0 = [] ∧ (tS.ctx tS.cur).nextts 3 = [] := by decide +kernel
theorem test_witness_DivideRounds : (tS.yB 3 false).d ≠ 0 ∧ (tS.yB 6 false).d = 0 ∧ (tS.yB 7 false).d ≠ 0 ∧ (tS.yB 7 false).d.setWidth 32 = (0 : W32) ∧
    (tS.yB 3 false).d.setWidth 32 ≠ (0 : W32) := by decide +kernel
theorem test_witness_FloatSpecialCases : f32 0x7FC00000 = .nan false ∧ f32 0x7F800001 = .nan true ∧ f32 0x3F800000 = .fin false 8388608 (-23) ∧
    (f32 0x80000000 = .fin true 0 (-149) ∨ ∃ e, f32 0x80000000 = .fin true 0 e) := ⟨by decide, by decide, by decide, .inr ⟨_, rfl⟩⟩
theorem test_witness_VectorLanes : (7 : BitVec 4).toNat < 8 ∧ (∀ l, l < 64 → ((tS.vA .q 0 false).d &&& tS.env.lanes).getLsbD l = false) ∧
    ((tS.vA .q 1 false).d &&& tS.env.lanes).getLsbD 1 = true ∧ (∀ l, l < 1 → ((tS.vA .q 1 false).d &&& tS.env.lanes).getLsbD l = false) ∧
    ((tS.vA .q 2 false).d &&& tS.env.lanes).getLsbD 0 = true := by decide +kernel
theorem test_witness_VectorFunctions : (tS.vB .x 3 false).d.getLsbD 16 = false ∧ (tS.vB .x 12 false).d.getLsbD 16 = true ∧ mxFormat 3 = true ∧ mxFormat 2 = false := by decide +kernel

theorem test_witness_GeneratorSlots : tS.iss.pfxi = none ∧ gValid ((tS.cA .g 1 false).val.setWidth 128) = true ∧ gValid ((tS.cA .g 2 false).val.setWidth 128) = false := by decide +kernel
theorem test_witness_CopySlotsEnterQueues : tS.Issuing ∧ (tS.ctx tS.cur).preds = [] ∧ (tP.ctx tP.cur).preds ≠ [] ∧ tP.iss.checked = true ∧ tP.env.cond = true ∧
    (stateOf (exec (.cpy ⟨5, false⟩) tS)).copyOut 0 0x1000 = true := ⟨test_state_issues, by decide +kernel⟩
theorem test_witness_MatrixSlots : (tS.ctx tS.cur).preds = [] ∧ ((tS.tA 1 false).d.extractLsb' 16 16 - tS.version 0 0).toNat = 0 ∧
    ((tS.tA 12 false).d.extractLsb' 16 16 - tS.version 0 0).toNat = 1 ∧ ((tS.tA 13 false).d.extractLsb' 16 16 - tS.version 0 0).toNat = 2 ^ 15 := by decide +kernel
theorem test_witness_LoadsIssue : (3 : BitVec 4).toNat < 4 ∧ tS.env.on 0 = true ∧ tV.env.on 0 = false := by decide +kernel
theorem test_witness_LoadReads : tS.route tS.cur 0x1000 .rd = .loc 0x1000 [] ∧ tS.isLocal (coreOf tS.cur) far.toNat = false ∧ (tS.ctx 0).lsq = [] ∧ (tS.ctx 0).basket = [] ∧
    (tQ.ctx 0).basket = [] ∧ ((tM.modCtx 0 fun x => { x with lsq := [⟨.store ([] ++ [(0x1000, 9)]), 0, [], 0⟩] }).ctx 0).lsq = [] ++ [⟨.store ([] ++ [(0x1000, 9)]), 0, [], 0⟩] ∧
    (∀ i, i < 8 → tS.poisoned (0x1000 + i) = false) := by decide +kernel
theorem test_witness_StoresIssue : (∀ i, i < 64 → tS.route tS.cur (own.toNat + 4 * i) .wr = .loc (2 ^ 54 + 4 * i) []) ∧ ((List.range 64).filter fun i => tS.env.on i) ≠ [] ∧
    ((List.range 64).filter fun i => tV0.env.on i) = [] ∧ tS.isLocal (coreOf tS.cur) (((tS.mA 6 false).d + tS.env.ofs8 0 * 256).toNat) = false ∧ tS.env.on 63 = true ∧
    ([⟨.store [], 0, [], 0⟩] : List LEntry) ≠ [] := by decide +kernel
theorem test_witness_AtomicsIssue : tS.route tS.cur (tS.mA 5 false).d.toNat .rw = .loc 0x1000 [] ∧ tS.isLocal (coreOf tS.cur) (tS.mA 6 false).d.toNat = false := by decide +kernel
/-- A pin quota of one line. -/
def tK : State := tS.modCtx 0 fun x => { x with lockQuota := 0x1000 }
theorem test_witness_OwnersPinsProbes : (tS.mB .x 3 false).d.toNat ≤ 1536 ∧ (tS.mA 5 false).d.toNat / 2 ^ 23 ≠ 0x7FF8_0000 ∧
    (tS.mA 14 false).d.toNat / 2 ^ 23 = 0x7FF8_0000 ∧ (tS.mA 14 false).d.toNat % 4096 ≠ 0 ∧ (tS.mA 4 false).d.toNat / 2 ^ 23 = 0x7FF8_0000 ∧ (tS.mA 4 false).d.toNat % 4096 = 0 ∧
    tS.spSize 0 < ((tS.mA 4 false).d.toNat % 2 ^ 23 / 4096 + (tS.mB .x 15 false).d.toNat) * 4096 ∧ tS.env.flipTrap (tS.mA 4 false).d (tS.mB .x 9 false).d = [] ∧
    tS.env.lockOut (tS.mA 5 false).d (tS.mB .x 9 false).d false = (none, stQUOTA, []) ∧
    (tK.env.lockOut (tK.mA 5 false).d (tK.mB .x 9 false).d false).1 = none ∧ (tK.env.lockOut (tK.mA 5 false).d (tK.mB .x 9 false).d false).2.1 = stOK ∧
    2 ^ 32 < (tS.mB .x 8 false).d.toNat ∧ (tS.mB .x 9 false).d ≠ 0 ∧ (tS.mB .x 3 false).d = 0 ∧ (tS.mB .x 9 false).d.toNat ≤ 2 ^ 32 ∧
    tS.place (tS.mA 16 false).d.toNat = .mem 0 0xC00000000 ∧ tS.translate (tS.ctx tS.cur).vf 0 0xC00000000 .rd = none := by decide +kernel
theorem test_witness_OrderingSlots : (tS.ctx tS.cur).preds = [] ∧ (tS.mA 6 false).d.toNat / 2 ^ 42 % 2 ^ 12 / 4 = tS.hub.pkg ∧
    (tS.mA 17 false).d.toNat / 2 ^ 42 % 2 ^ 12 / 4 ≠ tS.hub.pkg ∧ tS.xlatVa (tS.ctx tS.cur).vf (tS.mA 5 false).d.toNat .rd = some ⟨0x1000, [], false, 16, 0x1000⟩ ∧
    (tS.mA 5 false).d.toNat % 8 = 0 ∧ tS.inScratch (tS.mA 5 false).d.toNat = false ∧ (tS.ctx tS.cur).det = false ∧ (tS.ctx tS.cur).wait = none := by decide +kernel
/-- A deterministic queue, its FENCER held since cycle 0. -/
def tDt : State := ({ tS with now := 1600 } : State).modCtx 0 fun x => { x with words := x.words.set 0 0x2000000000000000, fence := some 0 }
theorem test_witness_deterministic : (tS.hub.membership.contains ((tS.mA 6 false).d.toNat / 2 ^ 42 % 2 ^ 12) = true ∧
      tS.hub.membership.contains ((tS.mA 17 false).d.toNat / 2 ^ 42 % 2 ^ 12) = false ∧ (slotOf (.fencer ⟨17, 0, false, false⟩ 3) tS).kill = some (tS.mA 17 false).d) ∧
    tDt.iss.checked = true ∧ tDt.env.cond = true ∧ (tDt.ctx tDt.cur).preds = [] ∧ (tDt.ctx tDt.cur).det = true ∧ (slotOf (.fencer ⟨6, 0, false, false⟩ 3) tDt).hold = .none ∧
    (slotOf (.fencer ⟨6, 0, false, false⟩ 3) { tDt with now := 1599 }).hold = .interlock ∧
    tDt.offPackage (tDt.mA 17 false).d.toNat = true ∧ (slotOf (.probe ⟨3, 17, 9, false, false⟩ false) tDt).kill = some (tDt.mA 17 false).d ∧
    tDt.offPackage (tDt.mA 16 false).d.toNat = false ∧ tDt.offPackage ((tDt.mA 16 false).d.toNat + (tDt.mB .x 9 false).d.toNat - 1) = false ∧
    (slotOf (.probe ⟨3, 16, 9, false, false⟩ false) tDt).traps = [(cPROBE, (tDt.mA 16 false).d)] := by decide +kernel

theorem test_witness_BranchSlots : (tS.yA 6 false).d = 0 ∧ (tS.yA 4 false).d.toInt < 0 ∧ 0 < (tS.yA 3 false).d.toInt ∧ fpSign ((tS.yA 9 false).d.setWidth 32) = some .lt ∧
    fpSign ((tS.yA 1 false).d.setWidth 32) = some .gt ∧ fpSign ((tS.yA 6 false).d.setWidth 32) = some .eq ∧ fpSign ((tS.yA 5 false).d.setWidth 32) = none := by decide +kernel
/-- The last bundle of a loop with two passes left, and with one. -/
def tW : State := tS.modCtx 0 fun x => { x with r := { x.r with loopCnt := 2, loopBegin := 0x1800, loopEnd := 0x2000 } }
def tW1 : State := tS.modCtx 0 fun x => { x with r := { x.r with loopCnt := 1, loopBegin := 0x1800, loopEnd := 0x2000 } }
theorem test_witness_NextBundleAddress : (tW.ctx 0).r.loopCnt ≠ 0 ∧ (tW.ctx 0).r.loopEnd.toNat = tW.iss.bundle ∧ (tW.ctx 0).pending = none ∧ 1 < (tW.ctx 0).r.loopCnt.toNat ∧
    ¬ 1 < (tW1.ctx 0).r.loopCnt.toNat ∧ (tS.ctx 0).r.loopCnt = 0 ∧ (stateOf (exec (.br 4) tS)).iss.takenK = some 0x2010 ∧ tS.iss.takenK = none ∧ tS.iss.leave = none ∧
    tS.iss.stopAfter = none ∧ (tS.ctx tS.cur).stepMode = false := by decide +kernel
/-- A bucket table of one entry at 1100H: its bound is 5, its target 4000H. -/
def tB : State := { tS with mem := ⟨[(0x1100, 1), (0x1110, 5), (0x1119, 0x40)]⟩ }
theorem test_witness_LoopBucketTrap : 0 < (tS.kA 1 false).d.toNat % 2 ^ 32 ∧ (tS.kA 3 false).d.toNat % 2 ^ 32 = 0 ∧ (tB.ctx tB.cur).lsq = [] ∧ (tB.ctx tB.cur).basket = [] ∧
    tB.iss.checked = true ∧ tB.env.cond = true ∧ (tB.kB 18 false).d.toNat + 32 < 2 ^ 64 ∧ tB.inScratch 0x1100 = false ∧ tB.inScratch 0x1110 = false ∧
    tB.route tB.cur (tB.kB 18 false).d.toNat .rd = .loc 0x1100 [] ∧ tB.route tB.cur ((tB.kB 18 false).d.toNat + 16) .rd = .loc (0x1100 + 16) [] ∧ tB.mem.readNat 0x1100 16 = 1 ∧
    tB.mem.readNat 0x1110 16 = 0x4000 * 2 ^ 64 + 5 ∧ (tB.kA 2 false).d.toNat % 2 ^ 32 = 5 ∧ 5 < (tB.kA 1 false).d.toNat % 2 ^ 32 ∧ tS.iss.stopAfter = none ∧
    (stateOf (exec (.trap 5) tS)).iss.stopAfter = some cTRAP ∧ (stateOf (exec (.trap 5) tS)).iss.leave = none := by decide +kernel
theorem test_witness_StatusRegisters : writableSr 0x009 = true ∧ writableSr 0x000 = false := by decide

/-- Four NEXTT requests of context 0 have not returned. -/
def tN : State := tS.modCtx 0 fun x => { x with inflight := (List.range 4).map fun i => { mkRes .n i 0 100 with fixed := false, need := 2, seq := i + 1, bun := 6 } }
theorem test_witness_NexttTakesTurns : tS.Issuing ∧ tS.route tS.cur (tS.kA 5 false).d.toNat .rw = .loc 0x1000 [] ∧ tS.isLocal (coreOf tS.cur) (tS.kA 6 false).d.toNat = false ∧
    tN.Issuing ∧ (tN.ctx tN.cur).preds = [] ∧ (tN.ctx tN.cur).nexttOut tN.now = 4 := ⟨test_state_issues, by decide +kernel, by decide +kernel, ⟨by decide, by decide⟩, by decide +kernel⟩
theorem test_witness_LaunchRequests : tS.Issuing ∧ (tS.ctx tS.cur).preds = [] ∧ tQ.Issuing ∧ (tQ.ctx tQ.cur).preds = [] ∧ (tQ.ctx tQ.cur).lsq ≠ [] ∧ tL.Issuing ∧
    (tL.ctx tL.cur).rout ≠ [] ∧ tP.Issuing ∧ (tP.ctx tP.cur).preds ≠ [] ∧ (tS.kA 1 false).d.toNat % 64 ≠ 0 :=
  ⟨test_state_issues, by decide +kernel, ⟨by decide, by decide⟩, by decide +kernel, by decide +kernel, ⟨by decide, by decide⟩, by decide +kernel, ⟨by decide, by decide⟩,
    by decide +kernel⟩
/-- The context's record names the block at 1000H. -/
def tJ : State := tS.modCtx 0 fun x => { x with jcb := 0x40 }
theorem test_witness_PostAndRaise : tS.Issuing ∧ tJ.Issuing ∧ (tS.ctx tS.cur).preds = [] ∧ (tJ.ctx tJ.cur).preds = [] ∧ (tS.kA 5 false).d ≠ 0 ∧
    tS.route tS.cur (tS.kA 5 false).d.toNat .rw = .loc 0x1000 [] ∧ tS.isLocal (coreOf tS.cur) (tS.kA 6 false).d.toNat = false ∧ (tS.kA 6 false).d ≠ 0 ∧
    (tS.kA 0 false).d = 0 ∧ (tS.ctx tS.cur).jcb = 0 ∧ (tJ.kA 0 false).d = 0 ∧ (tJ.ctx tJ.cur).jcb ≠ 0 ∧
    tJ.route tJ.cur ((BitVec.ofNat 64 ((tJ.ctx tJ.cur).jcb.toNat * 64) : W64)).toNat .rw = .loc 0x1000 [] :=
  ⟨test_state_issues, ⟨by decide, by decide⟩, by decide +kernel⟩
/-- The cluster's event queue holds one record; schedule 5 of core 0 is installed; x3 is the earliest start that it may have, x19 one tick less. -/
def tC : State := { ((tS.modCluster 0 fun c => { c with evq := [⟨1, 2, 3, 4, 0⟩] }).modCtx 0 fun x =>
  { x with r := { x.r with x := (x.r.x.set 3 (BitVec.ofNat 64 (tS.ftb + 256))).set 19 (BitVec.ofNat 64 (tS.ftb + 255)) } }).modHub fun h => { h with scheds := ⟨[(5, 0x8000)]⟩ } with now := 100 }
theorem test_witness_QueuePopAndCollective : tS.Issuing ∧ tC.Issuing ∧ (tS.cluster (clusterOf (coreOf tS.cur))).evq = [] ∧
    (tC.cluster (clusterOf (coreOf tC.cur))).evq = ⟨1, 2, 3, 4, 0⟩ :: [] ∧ (tC.kA 5 false).d.toNat + 32 ≤ 2 ^ 64 ∧
    (∀ i, i < 4 → tC.route tC.cur ((tC.kA 5 false).d.toNat + 8 * i) .wr = .loc (0x1000 + 8 * i) []) ∧
    (tC.hub.scheds.find (schedKey tC.env.x.part (coreOf tC.cur) ((tC.kA 2 false).d.toNat % 256))).isSome = true ∧ tC.ftb + 256 ≤ (tC.kB 3 false).d.toNat ∧
    ¬ tC.ftb + 256 ≤ (tC.kB 19 false).d.toNat ∧ (tC.hub.scheds.find (schedKey tC.env.x.part (coreOf tC.cur) ((tC.kA 1 false).d.toNat % 256))).isSome = false :=
  ⟨test_state_issues, ⟨by decide, by decide⟩, by decide +kernel⟩
theorem test_witness_EndsAndWaits : tS.Issuing ∧ (tS.ctx tS.cur).inflight = [] ∧ (3 : BitVec 4).toNat ≤ 3 ∧ (tS.kA 0 false).d = 0 ∧ tQ.env.cond = true ∧ (tQ.ctx tQ.cur).preds = [] ∧
    (tQ.ctx tQ.cur).lsq ≠ [] ∧ (tL.ctx tL.cur).rout ≠ [] ∧ tL.env.cond = true ∧ (tL.ctx tL.cur).preds = [] ∧
    tS.xlatVa (tS.ctx tS.cur).vf ((tS.kA 5 false).d.toNat / 64 * 64) .rd = some ⟨0x1000, [], false, 16, 0x1000⟩ :=
  ⟨test_state_issues, by decide +kernel⟩
/-- A group of whose two members core 0 is the second. -/
def tGrp : Group := ⟨0x7F, 0, 0, false, false, 1, 64, 0, 0x5000, [⟨true, 0, 1, 3, 9⟩, ⟨true, 0, 0, 0, 7⟩], [], [], false⟩
/-- Results: OK and taken, MISMATCH with and without the policy TARGET, ABSENT. -/
def tRes (w : W64) (mm : Bool) : AgrRes := ⟨w, 0, 0, mm⟩
/-- Tickets 1, 7 and 5 (x9, x1, x2) name slots that are open, resolved as taken and resolved as ABSENT; x10 none. -/
def tG : State := (tS.modHub fun h => { h with groups := ⟨[(groupKey 0x7F 0, tGrp)]⟩ }).modCtx 0 fun x =>
  { x with r := { x.r with slots := [⟨1, 1, none⟩, ⟨7, 2, some (tRes 0x08000000 false)⟩, ⟨5, 3, some (tRes 0x20000000 false)⟩] } }
/-- The same with one prediction, and with two. -/
def tG1 : State := tG.modCtx 0 fun x => { x with preds := [⟨Regs.zero, 1, true, 0, 0x3000, none, 0x2000, 0x2004, none, none⟩] }
def tG2 : State := tG.modCtx 0 fun x => { x with preds := (tG1.ctx 0).preds ++ (tG1.ctx 0).preds }
theorem test_state_groups : tG.Issuing ∧ tG1.Issuing ∧ tG2.Issuing := ⟨⟨by decide, by decide⟩, ⟨by decide, by decide⟩, ⟨by decide, by decide⟩⟩
theorem test_witness_AgreementSlots : tG.hub.groups.find (groupKey (tG.ctx tG.cur).vf (tG.ctx tG.cur).r.agrGroup.toNat) = some tGrp ∧ tG.memberOf tGrp (coreOf tG.cur) = some 1 ∧
    tS.env.cond = true ∧ tS.hub.groups.find (groupKey (tS.ctx tS.cur).vf (tS.ctx tS.cur).r.agrGroup.toNat) = none ∧
    tG.env.cond = true ∧ (tG.ctx tG.cur).agrSlot (tG.kA 10 false).d = none ∧ (tG.ctx tG.cur).agrSlot (tG.kA 9 false).d = some ⟨1, 1, none⟩ ∧
    (tG.ctx tG.cur).agrSlot (tG.kA 1 false).d = some ⟨7, 2, some (tRes 0x08000000 false)⟩ ∧ (tRes 0x08000000 false).decide 0x2010 none = .branch (some 0x2010) ∧
    (tG.ctx tG.cur).agrSlot (tG.kA 2 false).d = some ⟨5, 3, some (tRes 0x20000000 false)⟩ ∧ (tRes 0x20000000 false).decide 0x2010 none = .trap cABSENT ∧
    (tG1.ctx tG1.cur).preds.length = 1 ∧ (tG1.ctx tG1.cur).agrSlot (tG1.kA 9 false).d = some ⟨1, 1, none⟩ ∧ (tG2.ctx tG2.cur).preds.length = 2 ∧ tG2.env.cond = true ∧
    (tG2.ctx tG2.cur).agrSlot (tG2.kA 9 false).d = some ⟨1, 1, none⟩ ∧ (15 : BitVec 5) = (15 : BitVec 4).setWidth 5 ∧ (2 : BitVec 4).toNat ≤ 2 := by decide +kernel
theorem test_witness_AgreementDecisions : (tRes 0 false).status = 0 ∧ (tRes 0x30000000 false).status = 3 ∧ (tRes 0x10000000 true).status = 1 ∧ (tRes 0x10000000 true).mm = true ∧
    (tRes 0x10000000 false).mm = false ∧ (tRes 0x20000000 false).status = 2 ∧ 4 ≤ (tRes 0x40000000 false).status := by decide

theorem test_witness_RegisterSlotFrame : sendsOne (.add r3) = true ∧ tS.Issuing ∧ ∃ t, exec (.add r3) tS = .next t := ⟨by decide, test_state_issues, _, rfl⟩
/-- One result in flight. -/
def tZ (r : Res) : State := tS.modCtx 0 fun x => { x with inflight := [r] }
theorem test_witness_ResultsLand : ((tZ (mkRes .x 3 9 100)).ctx 0).phase = .run ∧ ((tZ (mkRes .x 3 9 100)).ctx 0).replay = false ∧
    (((tZ (mkRes .x 3 9 100)).ctx 0).inflight.map (·.seq)).Nodup ∧ (mkRes .x 3 9 100).fixed = true ∧ (mkRes .x 3 9 100).need = 0 ∧ (mkRes .x 3 9 100).due ≤ tS.now ∧
    tS.now < (mkRes .x 3 9 101).due ∧ ((tZ { mkRes .n 2 0 0 with fixed := false, need := 1 }).ctx 0).inflight.length = 1 ∧
    (mkRes .x 3 9 100).sup = 0 ∧ tCtx.preds = [] ∧ (mkRes .x 31 9 100).idx = (31 : BitVec 5).toNat ∧ (mkRes .q 7 9 100).idx = (7 : BitVec 3).toNat ∧
    { mkRes .v 3 9 100 with lm := true, lanes := 1 }.lanes.getLsbD 63 = false ∧ { mkRes .v 3 9 100 with lm := true, lanes := 1 }.lanes.getLsbD 0 = true ∧
    { mkRes .x 3 9 100 with sup := 5 }.sup ≠ 0 ∧
    { mkRes .x 3 9 100 with tie := 100 }.tie = 100 ∧ ((tZ (mkRes .x 3 9 100)).ctx 0).inflight = [mkRes .x 3 9 100] ∧
    (mkRes .x 3 9 100).seq < { mkRes .x 3 8 102 with seq := 9, iss := (mkRes .x 3 9 100).iss }.seq ∧ (mkRes .x 3 9 100).file ≠ .sr := by decide +kernel
/-- A store in LSQ(0) whose first dword is poisoned and not covered; and one whose dword is covered whole. -/
def tU : State := { tM.modCtx 0 (fun x => { x with lsq := [⟨.store ((List.range 12).map fun i => (0x1004 + i, 7)), 0, [], 0⟩] }) with poison := [0x200, 0x201] }
theorem test_witness_LocalWritesPerform : (tU.ctx 0).lsq = ⟨.store ((List.range 12).map fun i => (0x1004 + i, 7)), 0, [], 0⟩ :: [] ∧ (tU.ctx 0).rout = [] ∧ tU.mem.wf = true ∧
    tU.poisoned 0x1003 = true ∧ (((List.range 12).map fun i => ((0x1004 + i, 7) : Nat × Byte)).filter fun p => decide (p.1 / 8 = 0x1003 / 8)).length < 8 ∧
    tU.poisoned 0x1010 = false ∧ tQ.poison = [] ∧ tQ.poisoned 0x1000 = false ∧ (tS.ctx 0).lsq = [] ∧
    ((stateOf (exec (.performLocal 0) tQ)).ctx 0).lsq = ⟨.rmw 0x1008 (.atom 2 4), 1, [], 0⟩ :: [] ∧ tQ.anyPoison 0x1000 16 = false ∧ tQ.rd64 0x1000 = 0x2211 ∧
    (4 : Nat) ≤ tQ.rd 0x1000 8 ∧ tQ.rd 0x1000 8 < 0x2212 ∧ tQ.mem.wf = true := by decide +kernel
/-- A remote load and a remote store with its flag; a load of an address without translation; and one increment of die 0. -/
def tRl : REntry := ⟨7, .load 0x1000 2 0 [], 1, 0, none, 0, 0, 0⟩
def tRs : REntry := ⟨8, .rst [(0x1000, 1)] 0x1008, 0, 0, none, 0, 0, 0⟩
def tRx : REntry := ⟨9, .load 0xC00000000 8 0 [], 1, 0, none, 0, 0, 0⟩
def tX (r : REntry) : State := (tM.modCtx 0 fun x => { x with rout := [r] }).modDie 0 fun d => { d with flags := [⟨0x1000, none, 0, none, none⟩] }
/-- Two entries, of which the second is taken. -/
def tX2 (r : REntry) : State := tM.modCtx 0 fun x => { x with rout := [tRs, r] }
theorem test_witness_remote_any : ((tX2 tRl).ctx 0).rout[1]? = some tRl ∧ tRl.phase = 0 ∧ ((tX2 tRl).ctx 0).mustWait tRl = false ∧ ((tX2 tRx).ctx 0).rout[1]? = some tRx ∧
    ((tX2 tRx).ctx 0).mustWait tRx = false ∧ ((tX2 { tRl with phase := 2 }).ctx 0).rout[1]? = some { tRl with phase := 2 } ∧
    ((tX2 { tRl with op := .load far.toNat 2 0 [] }).modHub fun h => { h with lost := [1025] }).pathLost (coreOf 0) far.toNat = true ∧
    (tX2 tRl).place far.toNat ≠ .outside := by decide +kernel
/-- Increments of die 0: the second one names an address on its own die, the third one nowhere. -/
def tFl : State := tM.modDie 0 fun d => { d with flags := [⟨0x1000, none, 0x7F, none, none⟩, ⟨0, some 0x1008, 0x7F, none, none⟩, ⟨0, some 0xC00000000, 0x7F, none, none⟩] }
theorem test_witness_flags : (tFl.die 0).flags[0]? = some ⟨0x1000, none, 0x7F, none, none⟩ ∧ tFl.ownerLost 0x1000 = false ∧ tFl.flagResets ⟨0x1000, none, 0x7F, none, none⟩ 0x1000 = false ∧
    tFl.poisoned 0x1000 = false ∧ (tFl.die 0).flags[1]? = some ⟨0, some 0x1008, 0x7F, none, none⟩ ∧ tFl.ownerLost 0x1008 = false ∧
    tFl.xlatVa 0x7F 0x1008 .rw = some ⟨0x1008, [], false, 16, 0x1008⟩ ∧ tFl.flagResets ⟨0, some 0x1008, 0x7F, none, none⟩ 0x1008 = false ∧ tFl.poisoned 0x1008 = false ∧
    (tFl.die 0).flags[2]? = some ⟨0, some 0xC00000000, 0x7F, none, none⟩ ∧ tFl.xlatVa 0x7F 0xC00000000 .rw = none := by decide +kernel
theorem test_witness_RemoteOperations : ((tX tRl).ctx 0).rout = tRl :: [] ∧ (tX tRl).place tRl.op.va ≠ .outside ∧ (tX tRl).deadPath (coreOf 0) tRl.op.va (some 0x1000) = false ∧
    (tX tRl).lacksCap tRl.op tRl.op.va = false ∧ (tX tRl).xlatVa ((tX tRl).ctx 0).vf tRl.op.va tRl.op.acc = some ⟨0x1000, [], false, 16, 0x1000⟩ ∧
    (tX tRs).place tRs.op.va ≠ .outside ∧ (tX tRs).deadPath (coreOf 0) tRs.op.va (some 0x1000) = false ∧
    (tX tRs).lacksCap tRs.op tRs.op.va = false ∧ (tX tRs).xlatVa ((tX tRs).ctx 0).vf tRs.op.va tRs.op.acc = some ⟨0x1000, [], false, 16, 0x1000⟩ ∧
    (tX tRs).xlatVa ((tX tRs).ctx 0).vf 0x1008 .rw = some ⟨0x1008, [], false, 16, 0x1008⟩ ∧
    tRx.arm < armDropped ∧ (tX tRx).place tRx.op.va ≠ .outside ∧ (tX tRx).deadPath (coreOf 0) tRx.op.va none = false ∧ (tX tRx).lacksCap tRx.op tRx.op.va = false ∧
    (tX tRx).xlatVa ((tX tRx).ctx 0).vf tRx.op.va tRx.op.acc = none ∧ ((tX tRx).ctx 0).killReport = none ∧
    ((tX tRl).die 0).flags = ⟨0x1000, none, 0, none, none⟩ :: [] ∧ (tX tRl).hub.lost.contains (1024 + 0) = false ∧ (tX tRl).poisoned 0x1000 = false ∧
    ((stateOf (exec (.sendRemote 0 0) (tX tRl))).ctx 0).rout.map (fun r => r.phase) = [2] := by decide +kernel

/-! ### A partition, a record and a descriptor -/

/-- Partition 0: cores 0 to 7 of die 0, SPK 12, QLOG 14, 16 launches, slices of 500; its pool begins at 10000000H of the hub. -/
def tDesc : Vector W64 8 := #v[0x031C000000000000 + 0x10000001F4, 0x3200000000, 0xFF, 0, 0, 0, -1, 0x10000000]
/-- That partition installed; a record at 8000H, and a descriptor of four such records at 9000H; the length of the pool is 64 units. -/
def tD : State :=
  let s := { tS with
    cores := ⟨(List.range 8).map fun k => (k, { coreDefault k with spk := 12, exposed := true, library := true })⟩
    hub := { HubSt.zero with booted := true, hartRun := 0xFF, parts := ⟨[(0, Part.new tDesc 0)]⟩ } }
  ((((((s.wr 0x8000 8 0x8000000000003000).wr 0x8010 8 21).wr 0x8018 8 22).wr 0x9000 8 0x8000000000000004).wr 0x9008 8 0x200).wr (hsLoc 0x10000020) 4 64)
/-- The record's reference, and what its eight words are. -/
def tRef : RecRef := ⟨0x8000, 0x7F, 0, 0, 0, 0, 9, 1, 0, 5, false, 90, none, false⟩
def tWds : Vector W64 8 := #v[0x8000000000003000, 0, 21, 22, 0, 0, 0, 0]

/-- Context 0 stops, at cycle 100; and frozen with its entry sent, its record at 4000H; and with reports on their way. -/
def tSt (x : Ctx) : State := { tD with ctxs := ⟨[(0, x)]⟩ }
def tStop : Ctx := { tCtx with phase := .stopping, stop := some ⟨0x28, 0, 100, false⟩ }
def tPre : Ctx := { tCtx with phase := .stopping, stop := some ⟨cPREEMPT, 1, 101, false⟩ }
def tFrz : Ctx := { tCtx with phase := .frozen, stop := some ⟨0x28, 0, 100, true⟩, trapCause := 0x28 }
def tRep (n : Nat) : Ctx := { tCtx with report := some (100, 0x1000, 0, false, 0, false), killReport := some (0x1000, n, false) }
/-- Function 3, to which cause 5 is delegated: its queue of 16 entries is one short of full; and an entry of that cause, and one of another. -/
def tVf : VfSt := ⟨#v[0, 0x20, 0, 0, 0, 0, 0, 0, 0, 0, 0, 16, 0, 0, 0, 0], 15, 0, false, Table.empty, 0⟩
def tEnt (cause : Nat) : TrapEntry := ⟨cause, false, 0, 3, 0x4000, 0x2000, 0, 0⟩
def tH (cause : Nat) : State := tD.modHub fun h => { h with vfs := ⟨[(3, tVf)]⟩, traps := [tEnt cause] }
theorem test_witness_StopsAndResponses : (5 : Nat) ≠ cPREEMPT ∧ (tSt tStop).hub.dbgCtl.getLsbD 62 = false ∧ tStop.stop = some ⟨0x28, 0, 100, false⟩ ∧ tStop.inflight = [] ∧ (100 : Nat) ≤ (tSt tStop).now ∧ tStop.phase = .stopping ∧ (tSt tStop).gangStands 0 0x28 = true ∧
    (tEnt 5).act = false ∧
    tPre.stop = some ⟨cPREEMPT, 1, 101, false⟩ ∧ (tSt tPre).now < 101 ∧ (tH 6).hub.traps = tEnt 6 :: [] ∧ (tH 6).delegated 3 6 = false ∧
    (tH 5).hub.traps = tEnt 5 :: [] ∧ (tH 5).delegated 3 5 = true ∧ (tH 5).hub.vfs.find 3 = some tVf ∧ tVf.tqProd - tVf.tqCons < tVf.d[11].toNat % 2 ^ 16 ∧ (5 : Nat) ≠ cECC := by decide +kernel
theorem test_witness_responses :
    (tSt tCtx).frozenAt 0x4000 0x7F = none ∧ (tSt tFrz).frozenAt 0x4000 3 = none ∧ (0x4000 : Nat) % 64 = 0 ∧ (tSt tFrz).frozenAt 0x4000 0x7F = some 0 ∧ (tFrz.phase = .frozen) ∧ ((tSt tFrz).ctx 0).vf = 0x7F ∧
    tFrz.stop = some ⟨0x28, 0, 100, true⟩ ∧ (tSt tFrz).mates 0 = [0] ∧ (tSt tFrz).stepFollowers 0 = [] ∧
    ((tSt (tRep 0)).ctx 0).report = some (100, 0x1000, 0, false, 0, false) ∧ ((tSt (tRep 0)).ctx 0).killReport = some (0x1000, 0, false) ∧
    ((tSt (tRep 1)).ctx 0).killReport = some (0x1000, 1, false) ∧
    100 + 64 ≤ ({ tSt (tRep 0) with now := 163 } : State).now + 1 := by decide +kernel

/-- A request for the four records; one for a fifth; and an entry of the dependency table. -/
def tReq (n : Nat) : LaunchReq := ⟨false, 0x9000, BitVec.ofNat 64 (n * 2 ^ 32), 0x7F, 0, 0, 0x4000, 1, false, false⟩
def tY (r : LaunchReq) : State := tD.modCluster 0 fun q => { q with reqs := [r] }
def tDe : DepEntry := ⟨tDescW, 0x9000, 0, 4, 0x7F, 0, 0, 0, [], [], 99⟩
  where tDescW : List W64 := [0x8000000000000004, 0x200, 0, 0, 0, 0, 0, 0]
/-- The entry after a look in cycle 100. -/
def tDl : DepEntry := { tDe with found := [(3, 7, 100), (2, 7, 100), (1, 7, 100), (0, 7, 100)] }
/-- Context 4 idle; the record READY; the record waiting for a tick. -/
def tRd : State := tD.modCluster 0 fun q => { q with ready := [tRef], waiting := [tRef], dep := [tDe] }
theorem test_witness_SequencerTakesWork : ((tY (tReq 4)).cluster 0).reqs = tReq 4 :: [] ∧ (tY (tReq 4)).reqReady (tReq 4) = true ∧ (tY (tReq 4)).evRoom 0 = true ∧
    ((tY (tReq 4)).ctx 0).phase ≠ .idle ∧ ((tY (tReq 4)).ctx 0).rcd = 0x4000 ∧ (tY (tReq 4)).launchStatus 0 (tReq 4) = (stOK, tDe.desc) ∧
    (tY (tReq 5)).launchStatus 0 (tReq 5) = (stFAULT, []) ∧ ((tY { tReq 4 with ctx := 4 }).ctx 4).phase = .idle ∧ (tReq 0).xb.toNat / 2 ^ 32 = 0 ∧
    ((tRd.scan 0).cluster 0).dep = [tDl] ∧ 1 ≤ tDl.count ∧ tDl.done = [] ∧ tDl.mask tDl.first = 7 ∧ (∀ j ∈ tDl.open, tDl.since tDl.first ≤ tDl.since j) ∧ (tRd.scan 0).gateOpen tDl.vf 0 = true ∧ tDl.born < (tRd.scan 0).now ∧
    (tRd.scan 0).evRoom 0 = true ∧ ((tRd.scan 0).cluster 0).dep[0]? = some tDl ∧ (({ tRd with now := 99 } : State).scan 0).now ≤ tDl.born ∧ tDe.open.contains 0 = true ∧
    tRd.recWords 0x7F (((tDe.desc.getD 1 0).toNat % 2 ^ 48 * 64 + 64 * 0) % 2 ^ 64) = some tWds ∧ tWds[7].toNat / 2 ^ 56 = 0 ∧ malformed tWds = false ∧
    tWds[0].getLsbD 61 = tRd.detCluster tDe.part 0 ∧ isSeq (coreOf 4) = false ∧ tRd.queue (clusterOf (coreOf 4)) = [tRef] ∧ tRd.placeable 0 [] tRef = true ∧
    tRd.placement 0 4 [] tRef = some [(tRef, 4)] ∧ tRd.recWords 0x7F tRef.addr = some tWds ∧ tRef.evicted = none ∧ (tRd.cluster 0).waiting[0]? = some tRef ∧
    tRd.waitMet 0x7F 0 0 = some true ∧ tRd.waitMet 0x7F 0x3000000000000000 50 = some true ∧ tRd.waitMet 0x7F 0x3000000000000000 51 = some false ∧
    tRd.waitMet 0x7F 0x2000000C00000000 0 = none := by decide +kernel
/-- The record is being loaded into context 4. -/
def tLo : State := tRd.pickOne 0 tRef 4 none
theorem test_witness_SequencerLoads : tLo.gang (tLo.leaderOf 4) = [4] ∧ (tLo.ctx 4).phase = .loading ∧ (tLo.ctx 4).preds = [] ∧ (tLo.ctx 4).save = none ∧
    (∀ m ∈ 4 :: tLo.mates 4, (tLo.ctx m).goingOut = false) := by decide +kernel

/-- Every context of cluster 0 runs, context 0 for function 7FH and the others for function 1; the record is READY. -/
def tAll : State := { tRd with ctxs := ⟨(List.range 32).map fun c => (c, { tCtx with vf := if c = 0 then 0x7F else 1, rcd := 0x4000 + 64 * c })⟩ }
/-- Context 0 runs for function 1, the record is READY, and now is the end of its quantum; and 16 quanta after the record was READY. -/
def tQu (n : Nat) : State := { tRd with now := n, ctxs := ⟨[(0, { tCtx with vf := 1 })]⟩ }
/-- Context 0 is frozen for its eviction. -/
def tEv : State := tSt { tCtx with phase := .frozen, stop := some ⟨cPREEMPT, 1, 100, true⟩ }
/-- Context 0 is held on an engine, context 1 runs. -/
def tHd : State := { tD with
  ctxs := ⟨[(0, { tCtx with held := .engine, leader := some 4, wfe := some ⟨0x1000, none, false, 0⟩ }), (1, tCtx)]⟩
  cores := tD.cores.set 0 { tD.core 0 with issuing := some 0 } }
theorem test_witness_SequencerSchedules : tAll.queue 0 = [tRef] ∧ tAll.pressing 0 tRef = true ∧ tAll.victims 0 tRef.vf = [(0, 0, 0)] ∧ (0 : Nat) < tRef.prio ∧
    (∀ c, c < 32 → (tAll.ctx c).phase ≠ .idle ∧ (tAll.ctx c).plan ≠ some 1) ∧ (tAll.ctx 0).barred = none ∧ (tRd.ctx 4).phase = .idle ∧
    ((tQu 16383).ctx 0).phase = .run ∧ (tQu 16383).mates 0 = [0] ∧ ((tQu 16383).ctx 0).barred = none ∧ (tQu 16383).now < 0 + (tQu 16383).quantumOf 0 ∧
    0 + (tQu 16384).quantumOf 0 ≤ (tQu 16384).now ∧ ((tQu 16384).cluster 0).ready = [tRef] ∧ (tQu 16384).awaits 0 tRef = true ∧ ((tQu 16384).ctx 0).goingOut = false ∧
    tRef.vf ≠ ((tQu 16384).ctx 0).vf ∧ (tQu 262234).awaits 0 tRef = true ∧ ((tQu 262234).rank 0 tRef).2.2 + 16 * (tQu 262234).quantumOf 0 ≤ (tQu 262234).now ∧
    (tQu 262233).now < ((tQu 262233).rank 0 tRef).2.2 + 16 * (tQu 262233).quantumOf 0 ∧
    (tD.cluster 0).ready = [] := by decide +kernel
theorem test_witness_ContextsSwitch : tEv.mates 0 = [0] ∧ tEv.mayEvict 0 = true ∧ (let s' := tEv.modCtx 0 fun x => x.landAllNextt tEv.now
      s'.freeRun (s'.ctx 0).part (s'.saveUnits 0) = some 65537) ∧ (tHd.core 0).switching = none ∧
    (tHd.core 0).issuing = some 0 ∧ (tHd.ctx 0).phase = .run ∧ (tHd.ctx 0).held = .engine ∧ tHd.goes 0 = false ∧ tHd.nextReady 0 0 = some 1 ∧
    (tD.core 0).switching = none ∧ (tD.core 0).issuing = none ∧ tD.nextReady 0 ((tD.core 0).lastIssue.getD 3) = some 0 ∧
    ((tHd.modCtx 0 fun x => { x with phase := .frozen }).ctx (0 * 4 + 0)).phase ∈ [Phase.idle, .loading, .frozen] ∧ (tHd.modCtx 0 fun x => { x with phase := .frozen }).nextReady 0 0 = some 1 ∧
    ((tHd.modCtx 0 fun x => { x with phase := .stopping, held := .none }).ctx (0 * 4 + 0)).phase ∈ [Phase.stopping, .leaving] ∧ (tHd.ctx 0).wfe ≠ none ∧
    (tSt { tCtx with wfe := some ⟨0x1000, none, false, 0⟩ }).goes 0 = true ∧
    ((tD.modCore 0 fun k => { k with switching := some (0, 100) }).core 0).switching = some (0, 100) := by decide +kernel

/-- One contribution of member 1 to instance 7 of the group of two; the group with member 0 absent and LATE 64; and the instance entered. -/
def tCo : Contribution := ⟨0x7F, 0, 7, 1, 4, 1, 50, some 0⟩
def tGr (g : Group) : State := { tS with now := 228, contribs := [tCo], hub := { tS.hub with groups := ⟨[(groupKey 0x7F 0, g)]⟩ } }
def tIn : Inst := ⟨7, 50, [tCo], []⟩
/-- Two members of package 1, which is lost, and core 0. -/
def tGl : Group := { tGrp with members := [⟨true, 1, 1, 3, 9⟩, ⟨true, 1, 1, 4, 9⟩, ⟨true, 0, 0, 0, 7⟩] }
theorem test_witness_AgreementResolves : (tGr tGrp).hub.groups.find (groupKey 0x7F 0) = some tGrp ∧ (tGr tGrp).contribs = [tCo] ∧ tGrp.cut = false ∧ tGrp.insts = [] ∧
    tGrp.past = [] ∧ (tGrp.members[tCo.member]?).map (fun q => q.live) = some true ∧ tGrp.missing tIn = [0] ∧ tGrp.members[0]? = some ⟨true, 0, 1, 3, 9⟩ ∧
    (tGr tGrp).memberLost ⟨true, 0, 1, 3, 9⟩ = false ∧ ({ tGrp with members := [⟨false, 0, 1, 3, 9⟩, ⟨true, 0, 0, 0, 7⟩] } : Group).missing tIn = [] ∧
    tGrp.late ≠ 0 ∧ 50 + tGrp.late ≤ (tGr tGrp).ftb ∧ ¬ 50 + tGrp.late ≤ ({ tGr tGrp with now := 227 } : State).ftb ∧
    (∀ m ∈ tGrp.missing tIn, ∀ q, tGrp.members[m]? = some q → ((tGr tGrp).modHub fun h => { h with lost := [1025] }).memberLost q = true) ∧
    (1 : Nat) ∈ ({ tIn with gone := [1] } : Inst).gone ∧ ((tGr tGl).modHub fun h => { h with lost := [1] }).hub.lost.contains 1 = true ∧
    ((tGr tGl).modHub fun h => { h with lost := [1] }).mayElect tGl = false ∧ (2 : Nat) ≠ ((tGr tGl).modHub fun h => { h with lost := [1] }).hub.pkg ∧
    ((tGr tGl).modHub fun h => { h with lost := [1] }).hub.lost.contains 2 = false ∧
    ([tIn].find? fun (i : Inst) => decide (i.seq = 7)) = some tIn ∧ [tCo].Perm [tCo] ∧ (4 : Nat) ≤ 6 := by decide +kernel
/-- A result on its way to context 0, which has the ticket in a slot and predicts by it. -/
def tMsg (w : W64) : AgrMsg := ⟨0, 0x70000, 7, tRes w false⟩
def tPr : Pred := ⟨Regs.zero, 1, true, 0x70000, 0x3000, none, 0x2000, 0x2010, none, none⟩
def tRr (w : W64) (ps : List Pred) (b : List (Nat × Held)) : State :=
  { tS.modCtx 0 (fun x => { x with preds := ps, basket := b, r := { x.r with slots := [⟨0x70000, 7, none⟩] } }) with msgs := [tMsg w] }
theorem test_witness_AgreementReturns : (tRr 0 [] []).msgs = [tMsg 0] ∧ (tMsg 0).ctx < 4096 ∧ ((tRr 0 [] []).ctx 0).preds = [] ∧ ((tRr 0 [tPr] []).ctx 0).preds = [tPr] ∧
    ((tRr 0 [tPr] []).ctx 0).r.slots = [⟨0x70000, 7, none⟩] ∧ tPr.ticket = (tMsg 0).ticket ∧ ((tRr 0 [tPr] []).ctx 0).basket = [] ∧ ((tRr 0 [tPr] []).ctx 0).killReport = none ∧
    (tMsg 0x08000000).res.status = 0 ∧ (tMsg 0x08000000).res.dec = tPr.dir ∧ (tMsg 0).res.dec ≠ tPr.dir ∧ (tMsg 0x10000000).res.status = 1 ∧
    ((tRr 0 [tPr] [(1, .mem [⟨.store [(0x1000, 9)], 0, [], 0⟩] [])]).ctx 0).basket = [(1, .mem [⟨.store [(0x1000, 9)], 0, [], 0⟩] [])] ∧
    ((tRr 0 [tPr] [(1, .mem [⟨.store [(0x1000, 9)], 0, [], 0⟩] [])]).ctx 0).rout = [] ∧ tPr.regs.loopCnt = 0 ∧ tPr.pending = none ∧ (5 : Nat) ≠ tS.hub.pkg ∧
    (tL.ctx 0).rout = [⟨7, .load 0x1000 2 0 [], 1, 0, none, 0, 0, 0⟩] ∧ tL.pathLost (coreOf 0) 0x1000 = false ∧
    (tL.modHub fun h => { h with lost := [1025] }).pathLost (coreOf 0) far.toNat = true := by decide +kernel

/-- The matrix engine of core 0 with a command of routine 9: the word of the store, entries of the LSQ to perform, and the state of the run. -/
def tMq (w : W64) (mark : Nat) (r : Option MatRun) : State :=
  { tS with cores := ⟨[(0, { coreDefault 0 with spk := 12, mq := [{ tCmd with mark := mark }], mrun := r, store := ⟨[(9, w)]⟩ })]⟩ }
def tEnd : MatRun := { tRun with ended := some (0, 0) }
/-- The same with a full event queue. -/
def tFull (s : State) : State := s.modCluster 0 fun q => { q with evq := List.replicate 256 ⟨0, 0, 0, 0, 0⟩ }
theorem test_witness_EnginesRun : ((tMq 0x8000000000000040 0 none).core 0).mq = tCmd :: [] ∧ ((tMq 0x8000000000000040 0 none).core 0).mrun = none ∧
    ((tMq 0x8000000000000040 1 none).ctx 0).lsqDone < 1 ∧ tCmd.mark ≤ ((tMq 0x8000000000000040 0 none).ctx 0).lsqDone ∧
    ((tMq 0x8000000000000040 0 none).storeWord 0 9).getLsbD 63 = true ∧ ((tMq 0x8000000000000040 0 none).storeWord 0 9).toNat / 2 ^ 12 % 2 ^ 51 = 0 ∧
    64 ≤ ((tMq 0x8000000000000040 0 none).storeWord 0 9).toNat % 4096 ∧ ((tMq 0x800000000000003F 0 none).storeWord 0 9).toNat % 4096 < 64 ∧
    ((tMq 0x40 0 none).storeWord 0 9).getLsbD 63 = false ∧ ((tMq 0 0 (some tEnd)).core 0).mrun = some tEnd ∧ (tMq 0 0 (some tEnd)).evRoom (clusterOf 0) = true ∧
    (tFull (tMq 0 0 (some tEnd))).evRoom (clusterOf 0) = false ∧ ((tFull (tMq 0 0 (some tEnd))).core 0).mrun = some tEnd ∧
    ((tMq 0 0 (some tRun)).core 0).mrun = some tRun ∧ tRun.tries = 0 ∧ tRun.cost ≤ tS.now := by decide +kernel
/-- A copy of n bytes from 1000H to 2000H: its descriptor is at 4000H, its run at pos. -/
def tCc : CopyCmd := ⟨0, 0x4000, 0x7F, 0, 0x2000, 0, 0x4000, false, 0⟩
def tCr (n pos phase : Nat) : CopyRun := ⟨[0x1000, 0x2000, BitVec.ofNat 64 n, 0], pos, 0, 0, 0, 0, 0, 0, phase, 100, none, none, []⟩
def tCq (n : Nat) (r : Option CopyRun) : State :=
  ((({ tM with cores := ⟨[(0, { coreDefault 0 with spk := 12, cq := [tCc], crun := r, gq := [tCc], grun := r })]⟩ } : State).wr 0x4000 8 0x1000).wr 0x4008 8 0x2000).wr 0x4010 8 n
theorem test_witness_copies : ((tCq 2 none).core 0).cq = tCc :: [] ∧ ((tCq 2 none).core 0).crun = none ∧ tCc.mark ≤ ((tCq 2 none).ctx tCc.ctx).lsqDone ∧ tCc.kind = 0 ∧
    (tCq 2 none).engAcc 0 tCc.vf .rd tCc.desc 32 = .ok [(0x4000, 32)] [] ∧ ((tCq 2 none).psnPieces tCc.desc [(0x4000, 32)]).isSome = false ∧
    ((List.range 4).map fun i => (tCq 2 none).rd64 (0x4000 + 8 * i)) = (tCr 2 0 0).d ∧ (tCq 2 none).copyRefused tCc (tCr 2 0 0) = false ∧ (tCr 2 0 0).bytes ≠ 0 ∧
    (tCq 2 none).copyRefused tCc { tCr 2 0 0 with d := [0x1000, 0x2000, 0x100000002, 0] } = true ∧ ((tCq 80 (some (tCr 80 64 0))).core 0).crun = some (tCr 80 64 0) ∧
    (tCr 80 64 0).pos < (tCr 80 64 0).bytes ∧ (tCr 80 64 0).buf = none ∧ (tCq 80 none).transferLost 0 0x7F 0x1040 = false ∧ (tCq 80 none).transferLost 0 0x7F 0x2040 = false ∧
    ({ tCq 2 none with walks := Vector.replicate 4 193 } : State).engAcc 0 tCc.vf .rd tCc.desc 32 = .moving 0x4000 ∧
    (tCq 80 none).engAcc 0 0x7F .rd 0x1040 16 = .ok [(0x1040, 16)] [] ∧ (tCq 80 none).engAcc 0 0x7F .wr 0x2040 16 = .ok [(0x2040, 16)] [] ∧ (tCq 80 none).poison = [] ∧
    (tCq 80 none).mem.wf = true := by decide +kernel
theorem test_witness_copies_end : (tCr 80 80 2).phase = 2 ∧ copyPad tCc (tCr 80 80 2) ≤ (tCq 80 (some (tCr 80 80 2))).now ∧ ((tCq 80 (some (tCr 80 80 2))).core 0).crun = some (tCr 80 80 2) ∧
    ((tCq 80 (some (tCr 80 80 2))).core 0).gq = tCc :: [] ∧ (tCq 80 (some (tCr 80 80 2))).evRoom (clusterOf 0) = true ∧ (tFull (tCq 80 (some (tCr 80 80 2)))).evRoom (clusterOf 0) = false ∧
    (tCq 80 (some { tCr 80 64 0 with tries := 1, wait := 50 })).pendingTry 0 .copy = some (0 + 1, 50) ∧ (50 : Nat) ≤ (tCq 80 none).ftb ∧
    (tCq 80 none).ftb < 51 ∧ ({ tCr 80 64 0 with tries := 14 } : CopyRun).tries < 15 ∧ 15 ≤ ({ tCr 80 64 0 with tries := 15 } : CopyRun).tries ∧
    tS.place own.toNat = .own 0 := by decide +kernel

/-- Schedule 5 of core 0 at 8000H: two entries, its buffer at 10000H, its flags at 9000H; the first entry has the words given, the command starts at tick 0; the link is lost, or
a payload has come. -/
def tCm : CollCmd := ⟨5, 0, 0x7F, 0, 0x2000, 0, 0x4000⟩
def tCn : CollRun := ⟨0, 0, 0, 0, 0, 0, 0, 0, false⟩
def tKq (w0 w1 : Nat) (r : Option CollRun) : State :=
  ((((({ tS with
    cores := ⟨[(0, { coreDefault 0 with spk := 12, kq := [tCm], krun := r })]⟩
    hub := { tS.hub with scheds := ⟨[(5, 0x8000)]⟩ } } : State).wr 0x8000 8 2).wr 0x8008 8 0x10000).wr 0x8010 8 0x9000).wr 0x8040 8 w0).wr 0x8048 8 w1
def tKe (w0 w1 : Nat) : CollEnv := ⟨0, tCm, tCn, 0x8000, w0, w1⟩
/-- SEND, RADD, RSTORE and FLAG at tick 50 over link 1, chunk 0, 128 bytes. -/
def tOp (n : Nat) : Nat := 50 * 2 ^ 32 + n * 2 ^ 28 + 0x10000
def tPl : Payload := ⟨1, 0, 5, 0, 0, List.replicate 32 0x3F800000, [], []⟩
def tPay : State := (tKq (tOp 1) 128 (some tCn)).modHub fun h => { h with payloads := [tPl] }
theorem test_witness_CollectivesRun : (∀ n, n < 4 → (tKq (tOp n) 128 (some tCn)).collEnv 0 = some (tKe (tOp n) 128) ∧ (tKq (tOp n) 128 (some tCn)).collDue (tKe (tOp n) 128) = true ∧
      (tKe (tOp n) 128).opc = n ∧ (tKq (tOp n) 128 (some tCn)).collBad (tKe (tOp n) 128) = false ∧ (tKq (tOp n) 128 (some tCn)).collLost (tKe (tOp n) 128) = false) ∧
    (tKq (tOp 0 + 2 ^ 32) 128 (some tCn)).collDue (tKe (tOp 0 + 2 ^ 32) 128) = false ∧ (tKq (tOp 0) 64 (some tCn)).collDue (tKe (tOp 0) 64) = true ∧
    (tKq (tOp 0) 64 (some tCn)).collBad (tKe (tOp 0) 64) = true ∧ ((tKq (tOp 0) 128 (some tCn)).modHub fun h => { h with lost := [1025] }).collLost (tKe (tOp 0) 128) = true ∧
    ((tKq (tOp 0) 128 (some tCn)).core 0).krun = some tCn ∧ (tKe (tOp 0) 128).scaled = false ∧ (tKe (tOp 0) 128).link ≤ 4 ∧ (tKq (tOp 0) 128 (some tCn)).poison = [] ∧
    (tKq (tOp 0) 128 (some tCn)).engAcc 0 0x7F .rd (((tKq (tOp 0) 128 (some tCn)).collHead 0x8000).2.1 + (tKe (tOp 0) 128).lofs) 128 = .ok [(0x10000, 128)] [] := by decide +kernel
theorem test_witness_collectives_receive : tPay.hub.payloads = [tPl] ∧ tPl.src = (tKe (tOp 1) 128).link ∧ tPl.dst = linkSide 0 ∧ tPl.idx = tCm.idx ∧ tPl.chunk = (tKe (tOp 1) 128).chunk ∧
    tPl.psn = [] ∧ tPay.mem.wf = true ∧ tPay.engAcc 0 0x7F .rw ((tPay.collHead 0x8000).2.1 + (tKe (tOp 1) 128).lofs) 128 = .ok [(0x10000, 128)] [] ∧
    tPay.engAcc 0 0x7F .wr ((tPay.collHead 0x8000).2.1 + (tKe (tOp 1) 128).lofs) 128 = .ok [(0x10000, 128)] [] ∧ 4 ∣ (tKe (tOp 1) 128).bytes ∧
    (tKq (tOp 1) 128 (some tCn)).collIn (tKe (tOp 1) 128) [] [] = none ∧ tPl.scales = [] ∧ ((tKq 0 0 none).core 0).krun = none ∧ tCm.mark ≤ ((tKq 0 0 none).ctx 0).lsqDone ∧
    ((tKq 0 0 none).ctx 0).lsqDone < ({ tCm with mark := 1 } : CollCmd).mark ∧ ((tKq 0 0 (some { tCn with ended := true })).core 0).krun = some { tCn with ended := true } ∧
    (tKq 0 0 (some { tCn with ended := true })).evRoom (clusterOf 0) = true ∧ (tFull (tKq 0 0 (some { tCn with ended := true }))).evRoom (clusterOf 0) = false := by decide +kernel

/-- tR with another command behind that uses bank 3; loops four deep; a record at 1000H for RAGG. -/
def tR2 : State := tR.modCore 0 fun x => { x with mq := [tCmd, { tCmd with bank := 3 }] }
def tE4 : RunEnv := ⟨0, tCmd, { tRun with loops := List.replicate 4 (60, 70, 2) }⟩
theorem test_witness_RoutineControl : tR.routine tR.eng = some tE ∧ (tR.core tR.eng).mq = tE.c :: [] ∧ tR.bankInBasket 0 2 = false ∧ tR2.routine tR2.eng = some tE ∧
    (tR2.core tR2.eng).mq = tE.c :: [{ tCmd with bank := 3 }] ∧ (∀ c ∈ [{ tCmd with bank := 3 }], c.bank ≠ 2) ∧ (∃ c ∈ [{ tCmd with bank := 3 }], c.bank = 3) ∧
    tE.r.loops = [] ∧ tE.r.word < (65 : BitVec 12).toNat ∧ (tE.m 2).toNat % 2 ^ 16 = 0 ∧
    (tR.modCore 0 fun x => { x with mrun := some tE4.r }).routine 0 = some tE4 ∧ 4 ≤ tE4.r.loops.length ∧ (4 : BitVec 3).toNat ≤ 4 ∧ 4 < (5 : BitVec 3).toNat ∧
    (0 : BitVec 3) ≠ 3 ∧ (tE.m 0).toNat / 2 ^ 54 = 0 ∧ (tE.m 0).toNat % 16 = 0 ∧ (tE.m 3).toNat % 2 ^ 32 ≠ 0 ∧ (tE.m 2).toNat % 2 ^ 32 = 0 ∧
    tR.runAcc tE .rd (tE.m 0).toNat 16 = .ok [(0x1000, 16)] [] ∧ tR.poison = [] := by decide +kernel
theorem test_witness_RoutineData : tR.routine tR.eng = some tE ∧ descBad (tE.m 0) = false ∧ (tE.m 0).getLsbD 63 = false ∧ (1 : BitVec 4) ≠ 0 ∧ (tE.m 0).toNat % 16 = 0 ∧
    (∃ ps pt, tR.runAcc tE .rd ((tE.m 0).toNat % 2 ^ 54) (2048 * fmtWidth 1) = .ok ps pt) ∧ gFmt (tE.g 1) ≠ 0 ∧ gValid (tE.g 1) = true ∧ (tR.core tR.eng).latch ≠ none ∧
    (23 : BitVec 5).toNat < 24 ∧ tE.r.row = 0 ∧ tR.runAcc tE .rd ((tE.m 0).toNat % 2 ^ 54) (16 * (23 + 2)) = .ok [(0x1000, 16 * (23 + 2))] [] ∧
    256 < (255 : BitVec 8).toNat + (1 : BitVec 8).toNat + 1 ∧ (255 : BitVec 8).toNat + (0 : BitVec 8).toNat + 1 ≤ 256 ∧ (3 : BitVec 3).toNat < 4 ∧ (13 : BitVec 4).toNat < 14 ∧
    tR.runAcc tE .wr ((tE.m 0).toNat % 2 ^ 54) (16 * fmtWidth 13) = .ok [(0x1000, 16 * fmtWidth 13)] [] ∧ tR.mem.wf = true ∧ (tR.core tR.eng).bankPsn = [] := by
  refine ⟨by decide +kernel, by decide +kernel, by decide, by decide, by decide, ⟨_, _, rfl⟩, by decide +kernel⟩

/-! ### A command at the head of the ring -/

/-- What the operands of commands name: partition 0's description at 200000H, a function's at 210000H, a group's at 220000H, a schedule at 230000H, a queue's at 240000H,
and nothing at 250000H. -/
def tMem : State :=
  let s := (List.range 8).foldl (fun (s : State) i => s.wr (0x200000 + 8 * i) 8 (tDesc.toList.getD i 0).toNat) tD
  let s := ((s.wr 0x210000 8 (2 ^ 63 + 3 * 2 ^ 56 + 100 * 2 ^ 40)).wr 0x210008 8 0x20).wr 0x210058 8 16
  let s := ((s.wr 0x220000 8 (5 * 2 ^ 48 + 2 ^ 38 + 3 * 2 ^ 26)).wr 0x220040 4 1).wr 0x220044 4 2
  let s := ((((s.wr 0x230000 8 1).wr 0x230008 8 0x10000).wr 0x230010 8 0x9000).wr 0x230040 8 0x10000).wr 0x230048 8 128
  ((s.wr 0x240000 8 (2 ^ 63 + 3 * 2 ^ 56 + 9 * 2 ^ 44)).wr 0x240008 8 0x600000).wr 0x240010 8 40
/-- The state with that command: its OPC, function and operands 1 to 3; and its words. -/
def tOn (s : State) (op vf a b c : Nat) : State :=
  let s := s.modHub fun h => { h with cmdBase := 0x100000, cmdSize := 4, cmdPi := 1 }
  (((s.wr (hubLoc 0x100000) 8 (op * 2 ^ 56 + vf * 2 ^ 32)).wr (hubLoc 0x100008) 8 a).wr (hubLoc 0x100010) 8 b).wr (hubLoc 0x100018) 8 c
def tWo (op vf a b c : Nat) : Vector W64 8 := #v[BitVec.ofNat 64 (op * 2 ^ 56 + vf * 2 ^ 32), BitVec.ofNat 64 a, BitVec.ofNat 64 b, BitVec.ofNat 64 c, 0, 0, 0, 0]
/-- `Commands`, as a test. -/
def cmdAt (s : State) (op : Nat) (w : Vector W64 8) : Bool :=
  decide (s.cmdHead = some w) && s.hub.waiting.isNone && decide (cmdOp w = op) && decide (w[0].toNat / 2 ^ 39 % 2 ^ 9 = 0) && s.journalUp
theorem cmdAt_iff (s : State) (op : Nat) (w : Vector W64 8) (h : cmdAt s op w = true) : s.Commands op w := by
  simp [cmdAt, Bool.and_eq_true] at h
  exact ⟨h.1.1.1.1, h.1.1.1.2, h.1.1.2, h.1.2, h.2⟩
/-- The state without a partition. -/
def tNo : State := tMem.modHub fun h => { h with parts := ⟨[]⟩ }
/-- Function 3 installed, busy in context 0, and partition 0 its tenant's. -/
def tF3 (busy : Bool) : State :=
  (tMem.modHub fun h => { h with vfs := ⟨[(3, ⟨#v[0x8300640000000000, 0, 0, 0, 0, 0, 0, 0, 0, 0, 0, 16, 0, 0, 0, 0], 0, 0, false, Table.empty, 0⟩)]⟩ }).modCtx 0 fun x =>
    { x with vf := if busy then 3 else 0x7F, pins := [⟨0, 0, 0x40, false, true⟩] }
theorem test_witness_commands_none : ((.partSet, 1) : Instr × Nat) ∈ commandOps ∧ ((.migrateIn, 13) : Instr × Nat) ∈ commandOps ∧ tD.cmdHead = none ∧
    (tOn tMem 0 0 0 0 0).cmdHead = some (tWo 0 0 0 0 0) ∧ (tOn tMem 0 0 0 0 0).hub.waiting = none ∧ cmdOp (tWo 0 0 0 0 0) = 0 ∧ (tOn tMem 14 0 0 0 0).cmdHead = some (tWo 14 0 0 0 0) ∧
    13 < cmdOp (tWo 14 0 0 0 0) ∧ cmdOp (tWo 13 0 0 0 0) ≠ 1 ∧ 1 ≤ cmdOp (tWo 13 0 0 0 0) ∧ cmdOp (tWo 13 0 0 0 0) ≤ 13 ∧
    cmdOp (tWo 1 0x80 0 0 0) = 1 ∧ (tWo 1 0x80 0 0 0)[0].toNat / 2 ^ 39 % 2 ^ 9 ≠ 0 ∧ tMem.mem.wf = true ∧ tMem.poison = [] := by decide +kernel
theorem test_witness_partSet : cmdAt (tOn tNo 1 0 0x200000 0 0) 1 (tWo 1 0 0x200000 0 0) = true ∧ cmdAt (tOn tMem 1 0 0x250000 0 0) 1 (tWo 1 0 0x250000 0 0) = true ∧
    ((tOn tNo 1 0 0x200000 0 0).begun (tWo 1 0 0x200000 0 0)).partBad tDesc = false ∧ ((tOn tNo 1 0 0x200000 0 0).begun (tWo 1 0 0x200000 0 0)).eight 0x200000 = tDesc ∧
    ((tOn tMem 1 0 0x250000 0 0).begun (tWo 1 0 0x250000 0 0)).partBad (((tOn tMem 1 0 0x250000 0 0).begun (tWo 1 0 0x250000 0 0)).eight 0x250000) = true ∧
    cmdAt (tOn tMem 1 0 0x200000 0 0) 1 (tWo 1 0 0x200000 0 0) = true ∧ ((tOn tMem 1 0 0x200000 0 0).begun (tWo 1 0 0x200000 0 0)).partBad tDesc = false ∧
    tNo.hub.parts.find 0 = none ∧ tMem.hub.parts.find 0 = some (Part.new tDesc 0) ∧ 7 ∈ descCores tDesc ∧ tDesc[7].toNat / 64 % 64 = 0 := by decide +kernel
theorem test_witness_vfSet : cmdAt (tOn tMem 2 0 0x210000 0 0) 2 (tWo 2 0 0x210000 0 0) = true ∧ cmdAt (tOn (tF3 true) 2 0 0x210000 0 0) 2 (tWo 2 0 0x210000 0 0) = true ∧
    ((tOn tMem 2 0 0x210000 0 0).hs 0x210000 0).toNat / 2 ^ 63 = 1 ∧ ((tOn tMem 2 0 0x210000 0 0).hs 0x210000 0).toNat / 2 ^ 56 % 128 = 3 ∧
    ((tOn tMem 2 0 0x210000 0 0).hs 0x210000 0).toNat / 2 ^ 40 % 256 = 100 ∧ ((tOn tMem 2 0 0x210000 0 0).hs 0x210000 11).toNat = 16 ∧
    ((tOn tMem 2 0 0x210000 0 0).hs 0x210000 0).setWidth 32 = (0 : W32) ∧ ((tOn (tMem.wr 0x210000 4 1) 2 0 0x210000 0 0).hs 0x210000 0).setWidth 32 = (1 : W32) ∧
    ((tOn (tF3 true) 2 0 0x210000 0 0).begun (tWo 2 0 0x210000 0 0)).vfBusy 3 = true ∧ ((tOn tMem 2 0 0x210000 0 0).begun (tWo 2 0 0x210000 0 0)).vfBusy 3 = false ∧
    ((tOn tMem 2 0 0x210000 0 0).begun (tWo 2 0 0x210000 0 0)).vfMoves 3 = false ∧ cmdAt (tOn tMem 2 0 0x250000 0 0) 2 (tWo 2 0 0x250000 0 0) = true ∧
    ((tOn tMem 2 0 0x250000 0 0).hs 0x250000 0).toNat / 2 ^ 63 = 0 := by decide +kernel
/-- The supervisor queue's key is open: of the two functions' keys above, at most one equals it. -/
theorem test_witness_vfSet_key (n : Nat) : (0 : W32) ≠ Config.supervisorKey n ∨ (1 : W32) ≠ Config.supervisorKey n := by
  by_cases h : (0 : W32) = Config.supervisorKey n
  · exact Or.inr (by rw [← h]; decide)
  · exact Or.inl h
theorem test_witness_inval : cmdAt (tOn (tF3 true) 3 3 0x1000 0x1000 1) 3 (tWo 3 3 0x1000 0x1000 1) = true ∧
    (tF3 true).ctxs.l.any (fun p => decide (p.1 = 0) && decide (p.2.vf = cmdVf (tWo 3 3 0x1000 0x1000 1))) = true ∧ arg (tWo 3 3 0x1000 0x1000 1) 3 % 16 / 2 ^ dieOf (coreOf 0) % 2 = 1 ∧
    ((tOn (tF3 true) 3 3 0 0 1).modHub fun h => { h with waiting := some [(0, 1)] }).cmdHead = some (tWo 3 3 0 0 1) ∧ ((tF3 true).ctx 0).lsqDone < 1 ∧ ((tQ.ctx 0).lsqDone < 2 ∧ (tQ.ctx 0).lsq ≠ []) ∧ (tF3 true).saved.l = [] ∧
    (∀ m ∈ ([(0, 0)] : List (Nat × Nat)), m.2 ≤ ((tF3 true).ctx m.1).lsqDone) ∧ (∀ d, d < 4 → ((tF3 true).die d).flags = []) := by decide +kernel
theorem test_witness_groups : cmdAt (tOn tMem 4 0 0x220000 0 0) 4 (tWo 4 0 0x220000 0 0) = true ∧ ((tOn tMem 4 0 0x220000 0 0).begun (tWo 4 0 0x220000 0 0)).groupBad 0x220000 = false ∧
    tMem.hub.groups.l.length < 256 ∧ cmdAt (tOn tMem 4 0 0x220008 0 0) 4 (tWo 4 0 0x220008 0 0) = true ∧ ((tOn tMem 4 0 0x220008 0 0).begun (tWo 4 0 0x220008 0 0)).groupBad 0x220008 = true ∧
    cmdAt (tOn tMem 5 3 5 0 0) 5 (tWo 5 3 5 0 0) = true ∧ tMem.hub.groups.find (groupKey (cmdVf (tWo 5 3 5 0 0)) (arg (tWo 5 3 5 0 0) 1 % 2 ^ 16)) = none ∧
    (tOn (tMem.modHub fun h => { h with groups := ⟨[(groupKey 3 5, tGrp)]⟩ }) 5 3 5 0 0).hub.groups.find (groupKey 3 5) = some tGrp := by decide +kernel
theorem test_witness_schedules : cmdAt (tOn tMem 6 0 0x230000 255 7) 6 (tWo 6 0 0x230000 255 7) = true ∧ arg (tWo 6 0 0x230000 255 7) 3 < 256 ∧
    ((tOn tMem 6 0 0x230000 255 7).begun (tWo 6 0 0x230000 255 7)).corePart 7 = some 0 ∧ ((tOn tMem 6 0 0x230000 255 7).begun (tWo 6 0 0x230000 255 7)).schedBad 7 0x230000 = false ∧
    ((tOn tMem 6 0 0x250000 255 7).begun (tWo 6 0 0x250000 255 7)).schedBad 7 0x250000 = true ∧ cmdAt (tOn tMem 7 0 0x240000 0 0) 7 (tWo 7 0 0x240000 0 0) = true ∧
    ((tOn tMem 7 0 0x240000 0 0).hs 0x240000 0).toNat % 2 ^ 44 = 0 ∧ ((tOn tMem 7 0 0x240000 0 0).hs 0x240000 0).toNat / 2 ^ 56 % 128 ≤ 95 ∧
    ((tOn tMem 7 0 0x240000 0 0).hs 0x240000 0).toNat / 2 ^ 63 ≠ 0 ∧ ((tOn tMem 7 0 0x250000 0 0).hs 0x250000 0).toNat / 2 ^ 63 = 0 ∧
    ((tOn tMem 7 0 0x200000 0 0).hs 0x200000 0).toNat % 2 ^ 44 ≠ 0 := by decide +kernel

/-- A SWITCH to function 3 in partition 0, and one that names partition 1; a reset; a retirement of core 7, begun, with core 7 empty and with core 0 busy; migrations. -/
theorem test_witness_partitions : cmdAt (tOn (tF3 true) 8 3 0 0 0) 8 (tWo 8 3 0 0 0) = true ∧ (tF3 true).hub.parts.find 0 = some (Part.new tDesc 0) ∧
    (tOn (tF3 true) 8 3 0 0 0).partOf (cmdVf (tWo 8 3 0 0 0)) = some 0 ∧ cmdAt (tOn (tF3 true) 8 3 1 0 0) 8 (tWo 8 3 1 0 0) = true ∧ (tF3 true).hub.parts.find 1 = none ∧
    cmdAt (tOn tMem 9 0 0 0 0) 9 (tWo 9 0 0 0 0) = true ∧ cmdAt (tOn tMem 10 0 0 0 0) 10 (tWo 10 0 0 0 0) = true ∧ cmdAt (tOn tMem 9 0 1 0 0) 9 (tWo 9 0 1 0 0) = true ∧
    cmdAt (tOn tMem 10 0 1 0 0) 10 (tWo 10 0 1 0 0) = true ∧ tMem.hub.parts.find 1 = none := by decide +kernel
theorem test_witness_retire : cmdAt (tOn tMem 11 0 7 0 0) 11 (tWo 11 0 7 0 0) = true ∧ arg (tWo 11 0 7 0 0) 1 < 256 ∧ (tMem.core 7).exposed = true ∧
    cmdAt (tOn tMem 11 0 256 0 0) 11 (tWo 11 0 256 0 0) = true ∧ 256 ≤ arg (tWo 11 0 256 0 0) 1 ∧ ((tMem.modCore 8 fun k => { k with exposed := false }).core 8).exposed = false ∧
    ((tOn tMem 11 0 7 0 0).modHub fun h => { h with waiting := some [] }).cmdHead = some (tWo 11 0 7 0 0) ∧ cmdOp (tWo 11 0 7 0 0) = 11 ∧ tMem.coreEmpty 7 = true ∧ tMem.coreEmpty 0 = false ∧
    ((tMem.modDie 0 fun d => { d with spares := [65, 66] }).die (dieOf 7)).spares = 65 :: [66] ∧ ((tMem.modDie 0 fun d => { d with spares := [] }).die (dieOf 7)).spares = [] := by decide +kernel
theorem test_witness_migrate : cmdAt (tOn (tF3 false) 12 3 0 0 0) 12 (tWo 12 3 0 0 0) = true ∧ ((tOn (tF3 false) 12 3 0 0 0).begun (tWo 12 3 0 0 0)).mayMigrate 3 = true ∧
    ((tF3 false).hub.vfs.find 3).isSome = true ∧ cmdAt (tOn tMem 12 3 0 0 0) 12 (tWo 12 3 0 0 0) = true ∧ ((tOn tMem 12 3 0 0 0).begun (tWo 12 3 0 0 0)).mayMigrate 3 = false ∧
    ((tOn (tF3 false) 12 3 0 0 0).modHub fun h => { h with waiting := some [] }).cmdHead = some (tWo 12 3 0 0 0) ∧ cmdAt (tOn tMem 13 95 0 0 0) 13 (tWo 13 95 0 0 0) = true ∧
    cmdVf (tWo 13 95 0 0 0) ≤ 95 ∧ cmdAt (tOn tMem 13 96 0 0 0) 13 (tWo 13 96 0 0 0) = true ∧ 95 < cmdVf (tWo 13 96 0 0 0) ∧
    ((tOn tMem 13 95 0 0 0).begun (tWo 13 95 0 0 0)).vfBusy 95 = false ∧ ((tOn tMem 13 95 0 0 0).begun (tWo 13 95 0 0 0)).vfMoves 95 = false ∧
    ((tOn (tF3 true) 13 3 0 0 0).begun (tWo 13 3 0 0 0)).vfBusy 3 = true := by decide +kernel
theorem test_witness_PartitionResets : tD.hub.parts.find 0 = some (Part.new tDesc 0) ∧ coreOf 31 < 256 ∧ tD.partHolds 0 (coreOf 31) = true ∧ (tD.partHolds 0 8) = false ∧
    0 < 31 ∧ 31 < 32 ∧ 255 < 256 ∧ (tU.poisoned 0x1003) = true := by decide +kernel

/-- A hub whose harts were last seen at tick 0, at a cycle. -/
def tHb (n : Nat) : State := { tD with now := n }
/-- The supervisor is down. -/
def tSd : State := tD.modHub fun h => { h with supDown := true }
theorem test_witness_images : imageOk tFuse.hub.fuse tFuse.hub.fuseKey tImg = true ∧ imageOk tFuse.hub.fuse tFuse.hub.fuseKey tBad = false ∧
    bootResult (tFuseOf zeroFuse tSd).hub.fuse (tFuseOf zeroFuse tSd).hub.fuseKey bootTries ((tFuseOf zeroFuse tSd).bootOrder [(none, tImg)]) = some (some tImg) ∧
    bootResult tSd.hub.fuse tSd.hub.fuseKey bootTries (tSd.bootOrder (List.replicate 8 (none, tBad))) = some none := by
  refine ⟨?_, tBad_fails _ _, ?_, ?_⟩
  · rw [tFuse_key, tFuse_fuse]; exact zeroImage_ok 0 (by decide)
  · rw [bootOrder_one _ _ rfl, tFuseOf_key, tFuseOf_fuse]; exact tImg_boots 0 7 [] (by decide)
  · rw [show tSd.bootOrder (List.replicate 8 (none, tBad)) = List.replicate 8 tBad from by simp [State.bootOrder, show tSd.hub.flash = none from rfl, List.insertionSort, List.replicate]]
    simp [bootResult, bootTries, tBad_fails, List.replicate]
theorem test_witness_HubEvents : (tHb 0).hartUp 7 = true ∧ (tHb 0).seen 7 = 0 ∧ 0 + ticksOf 100 ≤ (tHb (2 * ticksOf 100)).ftb ∧ (tHb (2 * ticksOf 100 - 1)).ftb < 0 + ticksOf 100 ∧
    0 + ticksOf 300 ≤ (tHb (2 * ticksOf 300)).ftb ∧ (tHb (2 * ticksOf 300 - 1)).ftb < 0 + ticksOf 300 ∧ (tHb 0).hartUp 0 = true ∧
    (tHb 0).hub.booted = true ∧ (tHb 0).hub.supDown = false ∧ ((tD.modHub fun h => { h with hartRun := 0x7F }).hartUp 7) = false ∧
    (∀ h, h < 8 → (tHb (2 * ticksOf 1000)).seen h + ticksOf 1000 ≤ (tHb (2 * ticksOf 1000)).ftb) ∧ (tHb (2 * ticksOf 1000 - 1)).ftb < (tHb (2 * ticksOf 1000 - 1)).seen 0 + ticksOf 1000 ∧
    tSd.hub.supDown = true ∧ tSd.hub.heldResp = [] ∧ tSd.hub.flash = none ∧ tD.hub.parts.find 0 = some (Part.new tDesc 0) ∧ (tD.core 7).exposed = true ∧ tD.hub.cmdPi = tD.hub.cmdCi ∧ (tOn tMem 1 0 0 0 0).hub.cmdPi ≠ (tOn tMem 1 0 0 0 0).hub.cmdCi ∧
    tD.hub.dbgCtl.getLsbD 63 = false ∧ (95 : Nat) < 96 := by decide +kernel
/-- A queue, and a notify of it with sequence number n and tag t. -/
def tWq : WorkQueue := ⟨0x7F, 0x600000, 40, 0, 0, 0, 0⟩
def tNt (n : W64) (t : W64) : BitVec 192 := (t ++ (n ++ (0x500000009 : W64) : BitVec 128) : BitVec 192)
def tQs : State := tD.modHub fun h => { h with queues := ⟨[(9, tWq)]⟩, dbgCtl := 0x8040000000000000 }
theorem test_fields_of_join (n m : Nat) (a : BitVec n) (b : BitVec m) : (a ++ b).extractLsb' 0 m = b ∧ (a ++ b).extractLsb' m n = a :=
  ⟨by ext i hi; simp [BitVec.getLsbD_append, hi], by ext i hi; simp [BitVec.getLsbD_append, hi]⟩
theorem test_notify_fields (n t : W64) : (tNt n t).extractLsb' 0 32 = 9 ∧ (tNt n t).extractLsb' 64 64 = n ∧ (tNt n t).extractLsb' 128 64 = t ∧
    (tNt n t).extractLsb' 0 128 = n ++ (0x500000009 : W64) := by
  have low : (tNt n t).extractLsb' 0 128 = n ++ (0x500000009 : W64) := (test_fields_of_join 64 128 t (n ++ (0x500000009 : W64) : BitVec 128)).1
  have cut : ∀ (i w : Nat), i + w ≤ 128 → (tNt n t).extractLsb' i w = ((tNt n t).extractLsb' 0 128).extractLsb' i w := fun i w h => by
    ext j hj; simp [show i + j < 128 by omega]
  refine ⟨?_, ?_, (test_fields_of_join 64 128 t (n ++ (0x500000009 : W64) : BitVec 128)).2, low⟩
  · rw [cut 0 32 (by decide), low]
    have : (n ++ (0x500000009 : W64)).extractLsb' 0 32 = ((n ++ (0x500000009 : W64)).extractLsb' 0 64).extractLsb' 0 32 := by
      ext j hj; simp
    exact this.trans (by rw [(test_fields_of_join 64 64 n 0x500000009).1]; decide)
  · rw [cut 64 64 (by decide), low]
    exact (test_fields_of_join 64 64 n 0x500000009).2
theorem test_witness_notify : tQs.hub.queues.find ((tNt 41 (notifyTag tWq.key ((41 : W64) ++ (0x500000009 : W64)))).extractLsb' 0 32).toNat = some tWq ∧
    (tNt 41 (notifyTag tWq.key ((41 : W64) ++ (0x500000009 : W64)))).extractLsb' 128 64 = notifyTag tWq.key ((tNt 41 (notifyTag tWq.key ((41 : W64) ++ (0x500000009 : W64)))).extractLsb' 0 128) ∧
    tWq.lastSeq.toNat < (41 : W64).toNat ∧ (40 : W64).toNat ≤ tWq.lastSeq.toNat := by
  simp only [(test_notify_fields _ _).1, (test_notify_fields _ _).2.2.1, (test_notify_fields _ _).2.2.2]
  exact ⟨by decide +kernel, trivial, by decide +kernel⟩
theorem test_witness_queues : tD.hub.queues.find 9 = none ∧ tQs.hub.queues.find 9 = some tWq ∧ tQs.xlatVa tWq.vf (tWq.ring.toNat + 8) .wr = some ⟨0x600008, [], false, 16, 0x600008⟩ ∧
    tQs.poison = [] ∧ tQs.mem.wf = true ∧ tQs.hub.dbgCtl.getLsbD 63 = true ∧
    (∀ i, i < 4 → tQs.hub.smask.toList.getD i 0 = 0) := by decide +kernel

/-- Partition 0 with a change made to it, at a cycle. -/
def tPa (n : Nat) (f : Part → Part) : State := { tF3 false with now := n, hub := { (tF3 false).hub with parts := ⟨[(0, f (Part.new tDesc 0))]⟩ } }
/-- The partition's slice ends 500 µs after it began, a save's deadline is 50 µs. -/
def tTick : Part → Part := fun q => { q with tick := some 0, saved := 14, incoming := some 3 }
/-- Its switch to function 3 proceeds; its one die has its gate to open. -/
def tSwap : Part → Part := fun q => { q with swapping := true, tenant := some 3, noted := 1, gates := 14 }
theorem test_witness_ticks : (tPa 0 id).hub.parts.find 0 = some (Part.new tDesc 0) ∧ (Part.new tDesc 0).tick = none ∧ (Part.new tDesc 0).swapping = false ∧ (tPa 0 id).ringRuns = true ∧
    (tPa (2 * ticksOf 500 - 1) id).ftb < 0 + ticksOf (tDesc[0].toNat % 2 ^ 32) ∧ 0 + ticksOf (tDesc[0].toNat % 2 ^ 32) ≤ (tPa (2 * ticksOf 500) id).ftb ∧ (tTick (Part.new tDesc 0)).incoming ≠ none ∧
    (Part.new tDesc 0).incoming = none ∧ (Part.new tDesc 0).next = none ∧ ((tPa 0 id).modHub fun h => { h with hartRun := 0x7F }).ringRuns = false := by decide +kernel
theorem test_witness_boundaries : (tPa 0 tTick).hub.parts.find 0 = some (tTick (Part.new tDesc 0)) ∧ (tTick (Part.new tDesc 0)).tick = some 0 ∧ (tTick (Part.new tDesc 0)).saved.getLsbD 0 = false ∧
    (tPa 0 tTick).atBoundary 0 0 = false ∧ (tPa 0 tTick).ringRuns = true ∧ ((tPa 0 tTick).modHub fun h => { h with hartRun := 0x7F }).ringRuns = false ∧
    ((tPa 0 tTick).hub.vfs.find 3).isSome = true ∧ 0 ∈ clustersOf 0 ∧ ({ tPa 0 tTick with ctxs := ⟨[]⟩ } : State).atBoundary 0 0 = true ∧
    (∀ e ∈ ({ tPa 0 tTick with ctxs := ⟨[]⟩ } : State).diesOf 0, (putBit (tTick (Part.new tDesc 0)).saved 0 true).getLsbD e = true) ∧
    (tPa (2 * ticksOf 50) tTick).ftb ≤ 0 + ticksOf (tDesc[1].toNat / 2 ^ 32) ∧ (∃ e ∈ (tPa 0 fun q => { tTick q with saved := 0 }).diesOf 0, (putBit (0 : BitVec 4) 0 true).getLsbD e = false) ∧
    (tPa (2 * ticksOf 50 - 1) tTick).ftb < 0 + ticksOf (tDesc[1].toNat / 2 ^ 32) ∧ 0 + ticksOf (tDesc[1].toNat / 2 ^ 32) ≤ (tPa (2 * ticksOf 50) tTick).ftb ∧
    (tPa 0 fun q => { tTick q with cmiss := 1 }).hub.parts.find 0 = some { tTick (Part.new tDesc 0) with cmiss := 1 } ∧ (1 : Nat) < 2 ∧ (2 : Nat) ≤ 2 := by decide +kernel
theorem test_witness_TenancyEvents : (tPa 0 tSwap).hub.parts.find 0 = some (tSwap (Part.new tDesc 0)) ∧ (tSwap (Part.new tDesc 0)).upDone.getLsbD 0 = false ∧
    (tSwap (Part.new tDesc 0)).noted.getLsbD 1 = false ∧ (tSwap (Part.new tDesc 0)).noted.getLsbD 0 = true ∧ (tSwap (Part.new tDesc 0)).outgoing = none ∧
    (tPa 0 fun q => { tSwap q with outgoing := some 3 }).hub.parts.find 0 = some { tSwap (Part.new tDesc 0) with outgoing := some 3 } ∧
    (tPa 0 fun q => { tSwap q with outgoing := some 2 }).hub.parts.find 0 = some { tSwap (Part.new tDesc 0) with outgoing := some 2 } ∧ ((tPa 0 tSwap).die 0).moves = [] ∧
    0 ∈ (tPa 0 tSwap).diesOf 0 ∧ (tSwap (Part.new tDesc 0)).gates.getLsbD 0 = false ∧ (tSwap (Part.new tDesc 0)).tenant = some 3 ∧ (tPa 0 tSwap).resident 3 0 = true ∧
    (∀ e ∈ (tPa 0 tSwap).diesOf 0, (putBit (tSwap (Part.new tDesc 0)).gates 0 true).getLsbD e = true) ∧
    (∃ e ∈ (tPa 0 fun q => { tSwap q with gates := 0 }).diesOf 0, (putBit (0 : BitVec 4) 0 true).getLsbD e = false) ∧
    (∀ e ∈ (tPa 0 fun q => { tSwap q with gates := 15, upDone := 15 }).diesOf 0, ({ tSwap (Part.new tDesc 0) with gates := 15, upDone := 15 } : Part).gates.getLsbD e = true ∧
      ({ tSwap (Part.new tDesc 0) with gates := 15, upDone := 15 } : Part).upDone.getLsbD e = true) := by decide +kernel
/-- A page of 4 KiB moves up from 100000H to 200000H; its entry is at 80000H. -/
def tMv : Move := ⟨0x80000, 0x100000, 0x200000, 4096, true, 0⟩
def tMo : State := { tF3 false with mem := tM.mem, dies := ⟨[(0, { (tF3 false).die 0 with moves := [tMv] })]⟩ }
theorem test_witness_moves : (tMo.die 0).moves = tMv :: [] ∧ tMv.up = true ∧ tMo.poison = [] ∧ tMo.mem.wf = true ∧
    memLoc (tMo.hub.pkg * 4 + 0) tMv.src + tMv.size ≤ memLoc (tMo.hub.pkg * 4 + 0) tMv.dst ∧ tMv.pte + 8 ≤ memLoc (tMo.hub.pkg * 4 + 0) tMv.dst ∧
    8 ∣ memLoc (tMo.hub.pkg * 4 + 0) tMv.dst ∧ 8 ∣ tMv.size ∧ tMv.dst < 2 ^ 42 ∧ tMv.dst % 2 ^ 16 = 0 := by decide +kernel
/-- A page of 2 MiB of function 3 lies in the far tier, and its region is in the working set. -/
def tFar : State :=
  let s := tPa 0 tSwap
  let s := s.modHub fun h => { h with vfs := ⟨[(3, ⟨#v[0x8300640000000000, 0, 0, 0, 0, 0, 0x2000000, 0, 0, 0, 0, 16, 0x3000000, 0, 0, 0], 0, 0, false, Table.empty, 0⟩)]⟩ }
  { s with mem := ⟨[]⟩ }.wr 0x2000000 8 (0x2010000 + 1) |>.wr 0x2010000 8 (0xC00000000 + 0x17B) |>.wr 0x3000000 8 1
theorem test_witness_far : tFar.hub.parts.find 0 = some (tSwap (Part.new tDesc 0)) ∧ tFar.resident 3 0 = false := by decide +kernel
/-- A position of function 3 saved for cluster 0. -/
def tPos : State := (tPa 0 tSwap).modVf 3 fun v => { v with graph := v.graph.set 0 ⟨[], [tRef], []⟩ }
theorem test_witness_positions : ((tPos.hub.vfs.find 3).bind fun v => v.graph.find 0) = some ⟨[], [tRef], []⟩ ∧ (tTick (Part.new tDesc 0)).tenant = none ∧
    (tPa 0 fun q => { tTick q with tenant := some 0x7F, cmiss := 2 }).hub.parts.find 0 = some { tTick (Part.new tDesc 0) with tenant := some 0x7F, cmiss := 2 } ∧
    (some ((tPa 0 fun q => { tTick q with tenant := some 0x7F, cmiss := 2 }).ctx 0).vf) = some 0x7F := by decide +kernel

/-! ### Premises behind the first ones of a statement -/

/-- The same bundle with a PFXI that ends it, and with two PFXI before its second slot. -/
def tPx : List (Nat × W32) := [(0x2000, 0x00230880), (0x2004, 0), (0x2008, 0), (0x200C, 0x8FC00002)]
def tPd : List (Nat × W32) := [(0x2000, 0x0FC00002), (0x2004, 0x0FC00002), (0x2008, 0x02063001), (0x200C, 0x80000000)]
def tFx : State := { tF with mem := ⟨[(0x2000, 0x80), (0x2001, 0x08), (0x2002, 0x23), (0x200C, 0x02), (0x200E, 0xC0), (0x200F, 0x8F)]⟩ }
/-- An agreed branch on a ticket that no slot holds. -/
def tAbr : List (Nat × W32) := [(0x2000, 0x0DC00810), (0x2004, 0), (0x2008, 0), (0x200C, 0x80000000)]
theorem test_witness_bundles : ((tF.fetched 0).outlook 0).map (fun p => p.v) = some .go ∧ (tF.fetched 0).fetch 0 (tF.ctx 0).pc = .ok [(0x2000, 0x00230880), (0x2004, 0), (0x2008, 0), (0x200C, 0x80000000)] ∧
    readsBad (tFi.bundleReads tWsi) = false ∧ (∀ q ∈ (tFi.presentWords tWsi none).items, q.2.illVal = none) ∧
    (decodeSlot 0x8FC00002 = some (.pfxi 2) ∧ decodeSlot 0x0FC00002 = some (.pfxi 2) ∧ decodeSlot 0x0FEC4000 = some (.pfxp 3 2)) ∧
    formBad (tPx.map fun q => q.2) = false ∧ readsBad (tF.bundleReads tPx) = false ∧ (itemsOf tPx [] 0).2 = true ∧
    (∀ q ∈ (tF.presentWords tPx none).items, q.2.legal = true ∧ q.2.illVal = none ∧ ∀ p ∈ q.1.pre, wellFormed p = true) ∧
    formBad (tPd.map fun q => q.2) = false ∧ readsBad (tF.bundleReads tPd) = false ∧ (itemsOf tPd [] 0).2 = true ∧
    (∀ q ∈ (tF.presentWords tPd none).items, q.2.legal = true ∧ q.2.illVal = none ∧ ∀ p ∈ q.1.pre, wellFormed p = true) ∧
    ((tFx.fetched 0).outlook 0).map (fun p => p.v) = some (.trap cPREFIX 0) ∧
    (tF.presentWords tAbr none).v = .trap cILLEGAL 7 ∧ (∃ q ∈ (tF.presentWords tAbr none).items, q.2.illVal = some 7) := by decide +kernel
theorem test_witness_lone_slots : (slotOf (.add r3) tA.alone).illVal = none ∧ (slotOf (.abr 0 1 16) tA.alone).legal = true ∧ (slotOf (.abr 0 1 16) tA.alone).illVal = some 7 ∧
    ({ tA with iss := { tA.iss with pfxiBad := true } } : State).iss.pfxiBad = true ∧
    (slotOf (.add r3) ({ tA with iss := { tA.iss with pfxiBad := true } } : State).alone).illVal = none ∧
    (slotOf (.rte r2 0) (tA.modCtx 0 fun x => { x with prv := false }).alone).illVal = none ∧ (slotOf (.ld ⟨3, 1, 0, false⟩ 1) tA.alone).illVal = none ∧
    (slotOf .drain tO.alone).illVal = none ∧ (slotOf (.mpwr ⟨10, 2, false, false⟩) tS).illVal = none := by decide +kernel
theorem test_witness_bad_variants : ((0x2000, (0x00230881 : W32)) ∈ tWsi) ∧ (fOp 0x00230881).toNat ∈ [1, 2, 4, 5, 6] ∧ fV 0x00230881 ≠ 0 ∧
    ((1 : BitVec 4).toNat, 4, 4) ∈ [(0, 4, 1), (1, 4, 4), (2, 2, 1), (3, 1, 1)] ∧ ((9 : BitVec 4).toNat, 4) ∈ [(8, 8), (9, 4)] := by decide +kernel

/-- 1.5, 1.25 and -0.5; 3 and -1 as FP32; 2^31 and -2^32 as FP32; 1.0 in formats 1 and 2. -/
theorem test_witness_exact_values : f32 0x3FC00000 = .fin false 12582912 (-23) ∧ f32 0x3FA00000 = .fin false 10485760 (-23) ∧ f32 0xBF000000 = .fin true 8388608 (-24) ∧
    f32 0x40400000 = .fin false 12582912 (-22) ∧ f32 0x4B800000 = .fin false 8388608 1 ∧ f32 0x4F000000 = .fin false 8388608 8 ∧ f32 0xCF800000 = .fin true 8388608 9 ∧
    f32 0x7FC00000 = .nan false ∧ decodeFmt 1 (0x00003C00 % 2 ^ 16) = .fin false 1024 (-10) ∧ decodeFmt 2 (0x00003F80 % 2 ^ 16) = .fin false 128 (-7) ∧
    f32 0x3F800000 = .fin false 8388608 (-23) ∧ (0x3C00 : Nat) < 2 ^ fmtWidth 1 := by decide +kernel
/-- VQUANT of 8 bits: of integers, of an integer format's number among FP32 values, and of a group with an infinity; of a group whose largest value is 1.0. -/
theorem test_witness_quantised : (24 < (31 : W64).toNat % 32 + 1) ∧ ((7 : W64).toNat % 32 + 1 ≤ 24) ∧ (0x8007 : W64).toNat / 4096 % 16 ∈ [8, 9, 10, 11, 12, 14, 15] ∧
    (0x8007 : W64).toNat / 4096 % 16 ∉ [0, 1, 2, 3, 4, 5, 6, 7, 13] ∧ (0x0007 : W64).toNat / 4096 % 16 ∈ [0, 1, 2, 3, 4, 5, 6, 7, 13] ∧
    f32 0x7F800000 = .inf false ∧ (Nat.log2 8388608 : Int) + (-23) = 0 := by decide +kernel

theorem test_witness_links : (tF.ctx 0).pending.getD tF.iss.after = 0 ∧ (tF.modCtx 0 fun x => { x with pending := some 0x2000 }).fetch 0 0x2000 =
      .ok [(0x2000, 0x00230880), (0x2004, 0), (0x2008, 0), (0x200C, 0x80000000)] ∧
    (∀ ws, (tS.modCtx 0 fun x => { x with pending := some 0xC00000000 }).fetch 0 0xC00000000 ≠ .ok ws) :=
  ⟨by decide +kernel, by decide +kernel, fun ws h => by
    have := (by decide +kernel : (match (tS.modCtx 0 fun x => { x with pending := some 0xC00000000 }).fetch 0 0xC00000000 with | .ok _ => true | _ => false) = false)
    rw [h] at this; exact Bool.noConfusion this⟩
/-- Bucket tables of two entries, of bounds 5 and 9: in memory at 1100H, and in the own scratchpad, where a context of the table's address in x4 finds it. -/
def tB2 : State := { tS with mem := ⟨[(0x1100, 2), (0x1110, 5), (0x1119, 0x40), (0x1120, 9), (0x1129, 0x50)]⟩ }
def tB3 : State := { tS with mem := ⟨[(2 ^ 54, 2), (2 ^ 54 + 16, 5), (2 ^ 54 + 25, 0x40), (2 ^ 54 + 32, 9), (2 ^ 54 + 41, 0x50)]⟩ }
theorem test_witness_tables : tB2.Issuing ∧ tB3.Issuing ∧
    ((tB2.ctx tB2.cur).lsq = [] ∧ (tB2.ctx tB2.cur).basket = [] ∧ (tB2.kB 18 false).d.toNat + 16 * (2 + 1) < 2 ^ 64 ∧
    (∀ i, i ≤ 2 → tB2.ownerBad tB2.cur ((tB2.kB 18 false).d.toNat + 16 * i) = false ∧ tB2.route tB2.cur ((tB2.kB 18 false).d.toNat + 16 * i) .rd = .loc (0x1100 + 16 * i) []) ∧
    tB2.mem.readNat 0x1100 16 = 2 ∧ (∀ i, i < 2 → tB2.mem.readNat (0x1100 + 16 * (i + 1)) 16 = (0x4000 + 0x1000 * i) * 2 ^ 64 + (5 + 4 * i)) ∧
    (tB2.kA 1 false).d.toNat % 2 ^ 32 ≤ 5 + 4 * 1 ∧ (∀ i, i < 1 → 5 + 4 * i < (tB2.kA 1 false).d.toNat % 2 ^ 32) ∧
    (tB3.kB 4 false).d.toNat + 16 * (2 + 1) < 2 ^ 64 ∧ tB3.mem.readNat (2 ^ 54) 16 = 2 ∧
    (∀ i, i ≤ 2 → tB3.ownerBad tB3.cur ((tB3.kB 4 false).d.toNat + 16 * i) = false ∧ tB3.route tB3.cur ((tB3.kB 4 false).d.toNat + 16 * i) .rd = .loc (2 ^ 54 + 16 * i) []) ∧
    (∀ i, i < 2 → 5 + 4 * i < (tB3.kA 7 false).d.toNat % 2 ^ 32)) := ⟨⟨by decide, by decide⟩, ⟨by decide, by decide⟩, by decide +kernel⟩
theorem test_witness_registers : tS.env.cond = true ∧ (0x006 : BitVec 12).toNat ∉ [0x000, 0x001, 0x002, 0x003, 0x004, 0x005, 0x008, 0x009, 0x00A, 0x00B, 0x010, 0x011, 0x012, 0x018, 0x020, 0x021,
      0x022, 0x030, 0x031, 0x040, 0x041, 0x042, 0x043, 0x048, 0x049, 0x050, 0x051, 0x052, 0x053, 0x060, 0x061, 0x070, 0x071, 0x078, 0x079] ∧
    (tS.ctx 0).tally.cyc ≠ tS.now ∧ ((tS.modCtx 0 fun x => x.countRaise 100).ctx 0).tally.cyc = 100 := by decide +kernel
/-- A context under a prediction whose record names the block at 1000H; and one whose store has not performed. -/
def tPj : State := tP.modCtx 0 fun x => { x with jcb := 0x40 }
theorem test_witness_posts_wait : ((tQ.ctx tQ.cur).preds = [] ∧ tQ.iss.checked = true ∧ tQ.env.cond = true ∧ (tQ.ctx tQ.cur).lsq ≠ []) ∧ ((tL.ctx tL.cur).preds = [] ∧ (tL.ctx tL.cur).rout ≠ []) ∧
    tPj.iss.checked = true ∧ tPj.env.cond = true ∧ (tPj.ctx tPj.cur).preds ≠ [] ∧ ¬((tPj.kA 0 false).d = 0 ∧ (tPj.ctx tPj.cur).jcb = 0) ∧
    tPj.route tPj.cur (BitVec.ofNat 64 ((tPj.ctx tPj.cur).jcb.toNat * 64) : W64).toNat .rw = .loc 0x1000 [] ∧ tPj.isLocal (coreOf tPj.cur) (tPj.kA 6 false).d.toNat = false := by decide +kernel
/-- A record waits for a place in the event queue. -/
def tLa : State := tC.modCluster 0 fun q => { q with late := [⟨5, 6, 7, 8, 0⟩] }
theorem test_witness_late_records : (tC.cluster 0).late = [] ∧ (tLa.cluster 0).late = [⟨5, 6, 7, 8, 0⟩] ∧ (8 : W64).getLsbD 63 = false ∧ ([] : List CRec).length < 256 := by decide +kernel

/-- The bundle of a SUSPEND, and of a TEND, of context 0 at its end: the record is at 4000H, its job control block is none; with a result in flight. -/
def tEx (tend : Bool) (w6 : W64) : State := { tS with iss := { tS.iss with leave := some (tend, w6) } }
def tEi : State := (tEx true 0).modCtx 0 fun x => { x with inflight := [mkRes .x 3 9 103] }
/-- A record being written back. -/
def tWb (tend posted : Bool) (w6 : W64) : State := tS.modCtx 0 fun x => { x with phase := .leaving, leave := some (tend, w6, 0x2010), posted := posted }
theorem test_witness_write_back : ((tEx true 0).iss.leave = some (true, 0) ∧ ((tEx true 0).ctx (tEx true 0).cur).leader = none ∧
      (∀ m ∈ (tEx true 0).gang (tEx true 0).cur, m = (tEx true 0).cur) ∧ (tEx true 0).iss.takenK = none ∧ (tEx true 0).iss.takenY = none ∧
      ((tEx true 0).ctx 0).pending = none ∧ ((tEx true 0).ctx 0).r.loopCnt = 0 ∧ ((tEx true 0).ctx 0).inflight = []) ∧
    ((tEi.iss.leave = some (true, 0)) ∧ (tEi.ctx tEi.cur).leader = none ∧ (∀ m ∈ tEi.gang tEi.cur, m = tEi.cur) ∧ (tEi.ctx 0).inflight ≠ []) ∧
    (((tEi.modCtx 0 fun x => { x with pending := some 0x3000 }).ctx 0).pending = some 0x3000) ∧
    (((tWb true false 0).ctx 0).leave = some (true, 0, 0x2010) ∧ ((tWb true false 0).ctx 0).posted = false ∧ ((tWb false true 5).ctx 0).leave = some (false, 5, 0x2010) ∧
      ((tWb false true 5).ctx 0).posted = true ∧ ((tWb false false 0).ctx 0).leave = some (false, 0, 0x2010) ∧ (0 : W64).toNat / 2 ^ 60 = 0 ∧
      (0x3000000000000000 : W64).toNat / 2 ^ 60 ≠ 0) ∧
    (tD.xlatVa 0x7F (0x8000 + 8 * 7) .wr = some ⟨0x8038, [], false, 16, 0x8038⟩ ∧ tD.poison = [] ∧ tD.mem.wf = true) ∧
    ((0x40 : BitVec 48) ≠ 0 ∧ tS.xlatVa 0x7F ((0x40 : BitVec 48).toNat * 64) .rw = some ⟨0x1000, [], false, 16, 0x1000⟩ ∧ tS.anyPoison 0x1000 64 = false) ∧
    ((tS.slotOf (coreOf 0) 0).1 = 0 % 4 ∧ (tS.slotOf (coreOf 0) 0).2.1 = false ∧ (tS.slotOf (coreOf 0) 2).1 ≠ 0 % 4 ∧ (5 : Nat) ≠ coreOf 0) := by decide +kernel
theorem test_witness_unknown_ticket : (slotOf (.abr 0 10 16) tG).illVal = some 0x40 ∧ (tG.ctx tG.cur).agrSlot (tG.kA 10 false).d = none := by decide +kernel

/-- A context that stops while its next bundle waits for x1; results of one bundle in one cycle. -/
def tHf : State := tF.modCtx 0 fun x => { x with phase := .stopping, stop := some ⟨0x28, 0, 90, false⟩, inflight := [{ mkRes .x 1 9 100 with fixed := false }] }
def tTi : Res := { mkRes .v 3 9 100 with lm := true, lanes := 6, tie := 100, tied := 2 }
theorem test_witness_lands : (tHf.ctx 0).inflight = [{ mkRes .x 1 9 100 with fixed := false }] ∧ (tHf.ctx 0).stop = some ⟨0x28, 0, 90, false⟩ ∧
    ({ mkRes .x 1 9 100 with fixed := false } : Res).due ≤ tHf.now ∧ tHf.holdsFor 0 { mkRes .x 1 9 100 with fixed := false } = true ∧
    (tTi.sup = 0 ∧ tTi.tie ≠ 0 ∧ tTi.tie = 100 ∧ tTi.lanes &&& ~~~tTi.tied ≠ 0 ∧ tTi.file = .v ∧ tTi.idx = (3 : BitVec 5).toNat) ∧
    ({ tTi with lanes := 2 } : Res).lanes &&& ~~~({ tTi with lanes := 2 } : Res).tied = 0 ∧ (tZ tTi).ctx 0 = { tCtx with inflight := [tTi] } ∧
    tTi.seq < ({ tTi with seq := 9 } : Res).seq := by decide +kernel

/-- Operands of the floating-point atomics; job control blocks at 1000H: one of two posted, the last missing, with a flag and without one, and one that has ended. -/
def tJb (d0 d2 d3 : Nat) : State := ((tS.wr 0x1000 8 d0).wr 0x1010 8 d2).wr 0x1018 8 d3
theorem test_witness_blocks : (f32 0x7FC00000).isNan = true ∧ (f32 0x3F800000).isNan = false ∧ (f32 0x3F800000).cmp (f32 0x40000000) = .lt ∧
    (f32 0x40000000).cmp (f32 0x3F800000) = .gt ∧ (tJb 0x200000000 0 0).anyPoison 0x1000 64 = false ∧
    ((tJb 0x200000000 0 0).rd 0x1000 8 / 2 ^ 32 = 2 ∧ ((tJb 0x200000000 0 0).rd 0x1000 8 + 1) % 2 ^ 32 = 1 ∧ ((tJb 0x200000001 0 0).rd 0x1000 8 + 1) % 2 ^ 32 = 2 ∧
      (tJb 0x200000001 0 0).rd 0x1018 8 / 2 ^ 63 = 0 ∧ (tJb 0x200000001 0 0).rd 0x1010 8 / 2 ^ 63 ≠ 1 ∧ (tJb 0x200000001 (2 ^ 63 + 0x3000) 0).rd 0x1010 8 / 2 ^ 63 = 1 ∧
      (tJb 0x200000002 0 (2 ^ 63)).rd 0x1018 8 / 2 ^ 63 = 1) ∧ ((tS.modCtx 0 fun x => { x with posted := true }).ctx 0).posted = true ∧ (tS.ctx 0).posted = false ∧
    tU.anyPoison 0x1000 64 = true ∧ tU.anyPoison 0x1000 16 = true ∧ tU.poisoned 0x1000 = true := by decide +kernel
/-- A remote read-modify-write of each kind; a failed load that hangs on one prediction, beside a report that hangs on two. -/
def tRm (o : Rmw) : REntry := ⟨7, .rmw 0x1000 o, 1, 0, none, 0, 0, 0⟩
def tRk (n : Nat) : State := (tX { tRx with arm := 1 }).modCtx 0 fun x => { x with killReport := some (0x5000, n, true) }
theorem test_witness_remote_rmw : (tRm (.atom 2 4)).op = .rmw 0x1000 (.atom 2 4) ∧ (tM.touch [] true).poisoned 0x1000 = false ∧ (tU.touch [] true).poisoned 0x1000 = true ∧
    (tM.touch [] true).anyPoison 0x1000 16 = false ∧ (tM.touch [] true).rd64 0x1000 = 0x2211 ∧ (tM.touch [] true).rd64 0x1000 ≠ 5 ∧
    ((tRk 2).ctx 0).rout[0]? = some { tRx with arm := 1 } ∧ ((tRk 2).ctx 0).mustWait { tRx with arm := 1 } = false ∧ (1 : Nat) < armDropped ∧
    ((tRk 2).ctx 0).killReport = some (0x5000, 2, true) ∧ ((tRk 0).ctx 0).killReport = some (0x5000, 0, true) ∧
    tFl.flagLost ⟨0x1000, none, 0x7F, none, none⟩ (tFl.ownerVa 0x1000) = false ∧
    (tFl.modHub fun h => { h with lost := [1024] }).flagLost ⟨0, some 0x1008, 0x7F, none, none⟩ 0x1008 = true ∧
    (⟨0, some 0x1008, 0x7F, none, some 0⟩ : Incr).core = some 0 := by decide +kernel

/-- HS's queue with one entry of two slots; and full. -/
def tHsq (e : List TrapEntry) (n : Nat) : State := (tH cECC).modHub fun h => { h with traps := [tEnt cECC], hsq := e, hsProd := e.length, hsSlots := n, vfs := ⟨[(3, { tVf with d := tVf.d.set 1 (BitVec.ofNat 64 (2 ^ cECC)) })]⟩ }
theorem test_witness_trap_queues : (tH 6).hub.hsProd - (tH 6).hub.hsCons < (tH 6).hub.hsSlots ∧ (tH 6).hub.traps = [tEnt 6] ∧
    ((tH 6).modHub fun h => { h with hsSlots := 0 }).hub.hsSlots ≤ ((tH 6).modHub fun h => { h with hsSlots := 0 }).hub.hsProd - ((tH 6).modHub fun h => { h with hsSlots := 0 }).hub.hsCons ∧
    (tHsq [tEnt 6] 2).hub.traps = [tEnt cECC] ∧ (tHsq [tEnt 6] 2).delegated (tEnt cECC).vf (tEnt cECC).cause = true ∧ (tEnt cECC).cause = cECC ∧
    (tHsq [tEnt 6] 2).hub.hsProd - (tHsq [tEnt 6] 2).hub.hsCons < (tHsq [tEnt 6] 2).hub.hsSlots ∧
    (tHsq [tEnt 6] 1).hub.hsSlots ≤ (tHsq [tEnt 6] 1).hub.hsProd - (tHsq [tEnt 6] 1).hub.hsCons ∧ ((tSt (tRep 0)).ctx 0).phase ≠ .idle ∧
    ((tSt { tRep 0 with phase := .idle }).ctx 0).phase = .idle := by decide +kernel
theorem test_witness_kills : tD.xlatVa (tD.ctx 0).vf ((tD.ctx 0).rcd + 56) .wr = some ⟨0x4038, [], false, 16, 0x4038⟩ ∧ tD.poison = [] ∧ tD.mem.wf = true ∧ (tD.ctx 0).jcb = 0 ∧
    tD.hub.dbgCtl.getLsbD 62 = false ∧ (tD.cluster 0).dep = [] ∧ tD.evRoom 0 = true ∧ (tD.slotOf (coreOf 0) 0).1 = 0 % 4 := by decide +kernel

/-- The launching context runs another record. -/
theorem test_witness_launches : ((tY { tReq 4 with rcd := 0x4040 }).ctx 0).rcd ≠ ({ tReq 4 with rcd := 0x4040 } : LaunchReq).rcd ∧
    (tY { tReq 4 with rcd := 0x4040 }).reqReady { tReq 4 with rcd := 0x4040 } = true ∧ tRd.clusters.keys = [0] ∧ (tRd.scan 0).admissible 0 tDl 3 = true ∧
    (tRd.teamsSeen 0).queue (clusterOf (coreOf 4)) = [tRef] ∧ (tRd.teamsSeen 0).placeable 0 [] tRef = true ∧ (tRd.teamsSeen 0).placement 0 4 [] tRef = some [(tRef, 4)] := by decide +kernel

/-- The group with LATE 64 whose instance 7 waits for member 0, and another instance that waits for member 0 alone; packages 1 and 2 lost, with two of three members here. -/
def tGs : Group := { tGrp with excl := true, insts := [tIn, { tIn with seq := 8, first := 60 }] }
def tGe : Group := { tGrp with members := [⟨true, 1, 1, 3, 9⟩, ⟨true, 0, 0, 1, 7⟩, ⟨true, 0, 0, 0, 7⟩], insts := [{ tIn with got := [{ tCo with member := 0 }] }] }
theorem test_witness_resolutions : (tGr tGs).hub.groups.find (groupKey 0x7F 0) = some tGs ∧ (tGs.insts.find? fun (i : Inst) => decide (i.seq = 7)) = some tIn ∧
    tGs.late ≠ 0 ∧ tIn.first + tGs.late ≤ (tGr tGs).ftb ∧ groupKey tCo.vf tCo.gid = groupKey 0x7F 0 ∧ tCo.seq = 7 ∧
    (((tGr tGs).resolveInst (groupKey 0x7F 0) tGs tIn).hub.groups.find (groupKey 0x7F 0)).map (fun h => h.insts.map fun j => ((tGr tGs).resolveInst (groupKey 0x7F 0) tGs tIn).resolvable h j) = some [true] ∧
    ((tGr tGe).modHub fun h => { h with lost := [1] }).hub.lost.contains 1 = true ∧ ((tGr tGe).modHub fun h => { h with lost := [1] }).mayElect tGe = true ∧
    tGe.members[0]? = some ⟨true, 1, 1, 3, 9⟩ := by decide +kernel

/-- A copy that has read 16 bytes; and one whose source, or destination, lies on a lost die. -/
def tBu : CopyRun := { tCr 80 64 0 with buf := some (List.replicate 16 (7, false)) }
def tLd (src dst : W64) : State :=
  { tS with cores := ⟨[(0, { coreDefault 0 with spk := 12, cq := [tCc], crun := some ⟨[src, dst, 80, 0], 0, 0, 0, 0, 0, 0, 0, 0, 100, none, none, []⟩ }), (64, { coreDefault 64 with spk := 12 })]⟩, hub := { tS.hub with lost := [1025] } }
theorem test_witness_copy_steps : ((tCq 80 (some tBu)).core 0).crun = some tBu ∧ tBu.phase = 0 ∧ tBu.tries = 0 ∧ tBu.buf = some (List.replicate 16 (7, false)) ∧
    (List.replicate 16 ((7 : Byte), false)).length = min (64 - (tBu.w 1 + tBu.pos) % 64) (tBu.bytes - tBu.pos) ∧ (∀ x ∈ List.replicate 16 ((7 : Byte), false), x.2 = false) ∧
    (tCq 80 (some tBu)).transferLost 0 0x7F 0x2040 = false ∧ (tCq 80 (some tBu)).engAcc 0 0x7F .wr 0x2040 16 = .ok [(0x2040, 16)] [] ∧
    ((tLd far 0x2000).transferLost 0 0x7F far.toNat = true) ∧ ((tLd 0x1000 far).transferLost 0 0x7F 0x1000 = false ∧ (tLd 0x1000 far).transferLost 0 0x7F far.toNat = true) ∧
    ((tLd far 0x2000).pathLost 0 far.toNat = true ∧ (tLd far 0x2000).place far.toNat = .mem 1 0x1000) ∧
    ((tLd far 0x2000).pathLost 0 0x7FF00000000 = true ∧ (tLd far 0x2000).place 0x7FF00000000 = .window 1 0 0) := by decide +kernel
/-- A schedule whose buffer lies on die 1. -/
def tKf : State := (tKq (tOp 0) 128 (some tCn)).wr 0x8008 8 0x40000010000
theorem test_witness_buffers : (tKe (tOp 0) 128).opc ≤ 2 ∧ (tKe (tOp 0) 128).k ≠ 512 ∧ (tKf.collHead (tKe (tOp 0) 128).table).2.1 / 2 ^ 42 ≠ tKf.owner (tKe (tOp 0) 128).k := by decide +kernel

/-- The same command with a copy of the journal out of reach; and the last command before a checkpoint. -/
def tJd : State := (tOn tNo 1 0 0x200000 0 0).modHub fun h => { h with lost := [1026] }
theorem test_witness_journal : tJd.cmdHead = some (tWo 1 0 0x200000 0 0) ∧ tJd.hub.waiting = none ∧ tJd.journalUp = false ∧ tNo.journalUp = true ∧
    (tNo.hub.begun + 1) % 2 ^ 20 ≠ 0 ∧ ((tNo.modHub fun h => { h with begun := 2 ^ 20 - 1 }).hub.begun + 1) % 2 ^ 20 = 0 := by decide +kernel
/-- A schedule of the hub reducer, of function 3; and one of core 7 whose buffer lies on die 1. -/
def tSf : State := tMem.wr 0x230008 8 0x40000010000
theorem test_witness_reducer : cmdAt (tOn (tF3 false) 6 3 0x230000 255 512) 6 (tWo 6 3 0x230000 255 512) = true ∧ arg (tWo 6 3 0x230000 255 512) 3 = 512 ∧
    ((tOn (tF3 false) 6 3 0x230000 255 512).begun (tWo 6 3 0x230000 255 512)).partOf (cmdVf (tWo 6 3 0x230000 255 512)) = some 0 ∧
    ((tOn (tF3 false) 6 3 0x230000 255 512).begun (tWo 6 3 0x230000 255 512)).schedBad 512 0x230000 = false ∧
    ((tOn (tF3 false) 6 3 0x250000 255 512).begun (tWo 6 3 0x250000 255 512)).schedBad 512 0x250000 = true ∧
    cmdAt (tOn tSf 6 0 0x230000 255 7) 6 (tWo 6 0 0x230000 255 7) = true ∧
    (((tOn tSf 6 0 0x230000 255 7).begun (tWo 6 0 0x230000 255 7)).hs 0x230000 1).toNat / 2 ^ 42 ≠ (tOn tSf 6 0 0x230000 255 7).owner 7 := by decide +kernel

/-- Function 3's guest is placed on hart 7, and its handler registered, as the journal and the live harts know; the hart runs, or is in reset. -/
def tPl2 (run : BitVec 8) : State := tD.modHub fun h =>
  { h with hartRun := run, journal := [.place 3 (some 7), .handler 3 0x1234], mirror := [.place 3 (some 7), .handler 3 0x1234], hs := ⟨⟨[(3, 7)]⟩, ⟨[(3, 0x1234)]⟩, Table.empty⟩ }
theorem test_witness_harts : ({ tPl2 0xFF with now := 2 * ticksOf 300 } : State).hartUp 7 = true ∧ ({ tPl2 0xFF with now := 2 * ticksOf 300 } : State).seen 7 + ticksOf 300 ≤ ({ tPl2 0xFF with now := 2 * ticksOf 300 } : State).ftb ∧
    ({ tPl2 0xFF with now := 2 * ticksOf 300 } : State).hartUp 2 = true ∧ (tPl2 0xFF).placedOn 7 3 = true ∧ (tPl2 0xFF).placedOn 7 4 = false ∧
    (tPl2 0x7F).hub.booted = true ∧ (tPl2 0x7F).hub.supDown = false ∧ (tPl2 0x7F).hartUp 7 = false ∧ (tPl2 0x7F).hub.heldResp = [] ∧
    (tPl2 0x7F).decided.handler.l = [(3, 0x1234)] ∧ (tPl2 0x7F).hub.hartRun.getLsbD 7 = false ∧ (tPl2 0x7F).placedOn 7 3 = true ∧
    (∀ h, h < 8 → (tPl2 0xFF).hub.hartRun.getLsbD h = true) ∧ (tPl2 0xFF).journalUp = true ∧ ((tPl2 0xFF).modHub fun h => { h with lost := [1024] }).journalUp = false := by decide +kernel
/-- HS's consumer index: 4 of 5 entries taken, then all of them; and one past the producer. -/
def tHq : State := tD.modHub fun h => { h with hsProd := 5, hsCons := 3, hsq := [tEnt 6, tEnt 6] }
theorem test_witness_consumers : tHq.hub.hsCons + ((4 : W64).toNat + 2 ^ 64 - tHq.hub.hsCons % 2 ^ 64) % 2 ^ 64 ≤ tHq.hub.hsProd ∧
    tHq.hub.hsCons + ((5 : W64).toNat + 2 ^ 64 - tHq.hub.hsCons % 2 ^ 64) % 2 ^ 64 = tHq.hub.hsProd ∧
    tHq.hub.hsProd < tHq.hub.hsCons + ((6 : W64).toNat + 2 ^ 64 - tHq.hub.hsCons % 2 ^ 64) % 2 ^ 64 := by decide +kernel
theorem test_witness_samples : tQs.hub.dbgCtl.getLsbD 63 = true ∧ ({ tQs with now := 0xFFFF } : State).now < ({ tQs with now := 0xFFFF } : State).hub.lastSample + 2 ^ (tQs.hub.dbgCtl.toNat / 2 ^ 50 % 64) ∧
    ({ tQs with now := 0x10000 } : State).hub.lastSample + 2 ^ (tQs.hub.dbgCtl.toNat / 2 ^ 50 % 64) ≤ ({ tQs with now := 0x10000 } : State).now := by decide +kernel
/-- The slice of partition 0 ends, function 3 being its tenant. -/
theorem test_witness_slices : (tPa (2 * ticksOf 500) fun q => { q with tenant := some 3 }).hub.parts.find 0 = some { Part.new tDesc 0 with tenant := some 3 } ∧
    0 + ticksOf (tDesc[0].toNat % 2 ^ 32) ≤ (tPa (2 * ticksOf 500) fun q => { q with tenant := some 3 }).ftb ∧ (tPa (2 * ticksOf 500) fun q => { q with tenant := some 3 }).ringRuns = true ∧
    ((tPa 0 tSwap).modHub fun h => { h with hartRun := 0x7F }).ringRuns = false ∧ (tPa 0 tSwap).ringRuns = true ∧
    memLoc (tMo.hub.home * 4 + 0) tMv.src + tMv.size ≤ memLoc (tMo.hub.home * 4 + 0) tMv.dst := by decide +kernel

end Sys2Proof.Tests
end

section
/-! SUPPORT. Every instruction goes on, with the agenda as it was and memory in canonical form: the slots by their effect, the steps of a routine by the
run they make, the events by their own lemmas. -/

namespace Sys2Proof.Machine

/-! ### Slots, and what becomes of one that is held -/

/-- What is no slot has no effect. -/
theorem Slot.mild_illegal : ({ legal := false } : Slot).Mild := ⟨Tame.refl, Tame.refl⟩

theorem slotOf_mild (i : Instr) (s : State) : (slotOf i s).Mild := by
  cases i with
  | nop => exact slotNop_mild s
  | add => exact slotAdd_mild ..
  | sub => exact slotSub_mild ..
  | addr => exact slotAddr_mild ..
  | and => exact slotAnd_mild ..
  | or => exact slotOr_mild ..
  | xor => exact slotXor_mild ..
  | shl => exact slotShl_mild ..
  | shr => exact slotShr_mild ..
  | sra => exact slotSra_mild ..
  | mul => exact slotMul_mild ..
  | mulh => exact slotMulh_mild ..
  | min => exact slotMin_mild ..
  | max => exact slotMax_mild ..
  | cmp => exact slotCmp_mild ..
  | sel => exact slotSel_mild ..
  | clz => exact slotClz_mild ..
  | popc => exact slotPopc_mild ..
  | movx => exact slotMovx_mild ..
  | addi => exact slotAddi_mild ..
  | andi => exact slotAndi_mild ..
  | ori => exact slotOri_mild ..
  | xori => exact slotXori_mild ..
  | shli => exact slotShli_mild ..
  | shri => exact slotShri_mild ..
  | srai => exact slotSrai_mild ..
  | cmpi => exact slotCmpi_mild ..
  | li => exact slotLi_mild ..
  | lih => exact slotLih_mild ..
  | div => exact slotDiv_mild ..
  | fadd => exact slotFadd_mild ..
  | fsub => exact slotFsub_mild ..
  | fmul => exact slotFmul_mild ..
  | fma => exact slotFma_mild ..
  | fdiv => exact slotFdiv_mild ..
  | fsqrt => exact slotFsqrt_mild ..
  | frsq => exact slotFrsq_mild ..
  | fcmp => exact slotFcmp_mild ..
  | fmin => exact slotFmin_mild ..
  | fmax => exact slotFmax_mild ..
  | fcvt => exact slotFcvt_mild ..
  | fclass => exact slotFclass_mild ..
  | brc => exact slotBrc_mild ..
  | vadd => exact slotVadd_mild ..
  | vsub => exact slotVsub_mild ..
  | vmul => exact slotVmul_mild ..
  | vfma => exact slotVfma_mild ..
  | vmin => exact slotVmin_mild ..
  | vmax => exact slotVmax_mild ..
  | vand => exact slotVand_mild ..
  | vor => exact slotVor_mild ..
  | vxor => exact slotVxor_mild ..
  | vshl => exact slotVshl_mild ..
  | vshr => exact slotVshr_mild ..
  | vcmp => exact slotVcmp_mild ..
  | vsel => exact slotVsel_mild ..
  | vcvt => exact slotVcvt_mild ..
  | vred => exact slotVred_mild ..
  | vperm => exact slotVperm_mild ..
  | vbcast => exact slotVbcast_mild ..
  | vexp2 => exact slotVexp2_mild ..
  | vlog2 => exact slotVlog2_mild ..
  | vrcp => exact slotVrcp_mild ..
  | vrsq => exact slotVrsq_mild ..
  | vquant => exact slotVquant_mild ..
  | vdeq => exact slotVdeq_mild ..
  | qop => exact slotQop_mild ..
  | gset => exact slotGset_mild ..
  | gseed => exact slotGseed_mild ..
  | ggen => exact slotGgen_mild ..
  | cpy => exact slotCpy_mild ..
  | cpys => exact slotCpys_mild ..
  | cpyg => exact slotCpyg_mild ..
  | cpyr => exact slotCpyr_mild ..
  | cpyw => exact slotCpyw_mild ..
  | ld => exact slotLd_mild ..
  | st => exact slotSt_mild ..
  | ldv => exact slotLdv_mild ..
  | stv => exact slotStv_mild ..
  | ldg => exact slotLdg_mild ..
  | stg => exact slotStg_mild ..
  | probe => exact slotProbe_mild ..
  | lock => exact slotLock_mild ..
  | unlock => exact slotUnlock_mild ..
  | pref base ofs l2 ha => exact slotPref_mild base ofs l2 ha s
  | drain => exact slotDrain_mild ..
  | fenceo => exact slotFenceo_mild ..
  | fencer => exact slotFencer_mild ..
  | atom => exact slotAtom_mild ..
  | ratom => exact slotRatom_mild ..
  | rld => exact slotRld_mild ..
  | rst => exact slotRst_mild ..
  | stver => exact slotStver_mild ..
  | owne => exact slotOwne_mild ..
  | ownt => exact slotOwnt_mild ..
  | barm => exact slotBarm_mild ..
  | cwait => exact slotCwait_mild ..
  | mcall => exact slotMcall_mild ..
  | mwait => exact slotMwait_mild ..
  | mver => exact slotMver_mild ..
  | mpwr => exact slotMpwr_mild ..
  | mprd => exact slotMprd_mild ..
  | br => exact slotBr_mild ..
  | brl => exact slotBrl_mild ..
  | jr => exact slotJr_mild ..
  | ret => exact slotRet_mild ..
  | jrL => exact slotJrL_mild ..
  | loop => exact slotLoop_mild ..
  | bucket => exact slotBucket_mild ..
  | nextt => exact slotNextt_mild ..
  | suspend => exact slotSuspend_mild ..
  | tend => exact slotTend_mild ..
  | launch => exact slotLaunch_mild ..
  | raise => exact slotRaise_mild ..
  | post => exact slotPost_mild ..
  | qpop => exact slotQpop_mild ..
  | dispatch => exact slotDispatch_mild ..
  | agree => exact slotAgree_mild ..
  | abr => exact slotAbr_mild ..
  | abrp => exact slotAbrp_mild ..
  | ares => exact slotAres_mild ..
  | coll => exact slotColl_mild ..
  | trap code => exact slotTrap_mild code s
  | rte => exact slotRte_mild ..
  | wfe => exact slotWfe_mild ..
  | dbrk code => exact slotDbrk_mild code s
  | srd => exact slotSrd_mild ..
  | swr => exact slotSwr_mild ..
  | _ => exact Slot.mild_illegal

theorem State.slotAt_mild (s : State) (t : Item) : (s.slotAt t).Mild := by
  unfold State.slotAt
  split
  · exact slotOf_mild ..
  · exact Slot.mild_illegal

theorem State.stopFor_tame {sls : List Slot} (h : ∀ sl ∈ sls, sl.Mild) (s : State) (c : Nat) (v : Verdict) : Tame s (s.stopFor c v sls) := by
  cases v with
  | go => exact .refl s
  | hold k =>
    refine State.modCtx_tame' ?_
    refine List.foldlRecOn sls _ (.refl s) fun t ht sl hsl => ?_
    split
    · exact ht
    · exact ht.trans ((h sl hsl).2 t)
  | trap cause a =>
    refine trapOrWait_tame' ?_
    split
    · exact State.modCtx_tame ..
    · exact .refl s
  | kill a => exact killOrWait_tame ..

theorem issueSlot_runs {sl : Slot} (h : sl.Mild) (s : State) : Runs s (issueSlot sl s) := by
  unfold issueSlot
  split
  · exact Runs.of (h.1 s)
  · split
    · exact Runs.of (State.endBundle_tame' ((State.enter_tame s).trans (h.1 _)))
    · exact Runs.of (State.stopFor_tame (List.forall_mem_singleton.2 h) ..)

/-! ### Every instruction -/

theorem Runs.after {s t : State} {o : Host.Outcome State Fault Refusal} (k : Runs t o) (h : Tame s t) : Runs s o := by
  obtain ⟨u, hu, hk⟩ := k
  exact ⟨u, hu, h.trans hk⟩

theorem issue_runs {f : State → Slot} (h : ∀ s, (f s).Mild) (s : State) : Runs s (issue f s) :=
  (issueSlot_runs (h _) s.alone).after (State.alone_tame s)

theorem microStep_runs {f : RunEnv → State → State} (h : ∀ e s, Tame s (f e s)) (s : State) : Runs s (microStep f s) := by
  unfold microStep
  split
  · exact Runs.of (h _ s)
  · exact Runs.of (.refl s)

theorem execPfxp_runs (m : BitVec 3) (r : BitVec 5) (s : State) : Runs s (execPfxp m r s) := by
  unfold execPfxp
  split
  · exact Runs.of ((Tame.refl s).same rfl rfl)
  · exact Runs.of (State.stopFor_tame (List.forall_mem_nil _) ..)

theorem exec_runs (i : Instr) (s : State) : Runs s (exec i s) := by
  have slot : ∀ t, (slotOf i t).Mild := slotOf_mild i
  have run : ∀ e t, Tame t (runStep i e t) := runStep_tame i
  cases i with
  | pfxi p => exact Runs.of ((Tame.refl s).same rfl rfl)
  | pfxp m r => exact execPfxp_runs ..
  | mend | wload | wgen | astream | agen | asel | aclr | adrain | ragg | zskip | loopm | mbr | padd => exact microStep_runs run s
  | performLocal => exact execPerformLocal_runs ..
  | sendRemote => exact execSendRemote_runs ..
  | flag => exact execFlag_runs ..
  | completeRemote => exact execCompleteRemote_runs ..
  | engineStart => exact execEngineStart_runs ..
  | engineAccess => exact execEngineAccess_runs ..
  | engineComplete => exact execEngineComplete_runs ..
  | retryAfterExpiry => exact execRetryAfterExpiry_runs ..
  | fixedResultLand => exact execFixedResultLand_runs ..
  | variableResultLand => exact execVariableResultLand_runs ..
  | nexttReply => exact execNexttReply_runs ..
  | contextSwitch => exact execContextSwitch_runs ..
  | admission => exact execAdmission_runs ..
  | pickUp => exact execPickUp_runs ..
  | pickUpLoadComplete => exact execPickUpLoadComplete_runs ..
  | waitConditionMet => exact execWaitConditionMet_runs ..
  | priorityPreemption => exact execPriorityPreemption_runs ..
  | teamQuantumExpiry => exact execTeamQuantumExpiry_runs ..
  | teamPromotion => exact execTeamPromotion_runs ..
  | eviction => exact execEviction_runs ..
  | launchRequestArrival => exact execLaunchRequestArrival_runs ..
  | stopFreeze => exact execStopFreeze_runs ..
  | trapEntryDelivery => exact execTrapEntryDelivery_runs ..
  | trespResume => exact execTrespResume_runs ..
  | trespKill => exact execTrespKill_runs ..
  | trespEvict => exact execTrespEvict_runs ..
  | watchReportArrival => exact execWatchReportArrival_runs ..
  | remoteFaultReport => exact execRemoteFaultReport_runs ..
  | eccCorrectedError => exact execEccCorrectedError_runs ..
  | eccUncorrectableError => exact execEccUncorrectableError_runs ..
  | agreeContributionArrival => exact execAgreeContributionArrival_runs ..
  | agreeLateExpiry => exact execAgreeLateExpiry_runs ..
  | agreeResultArrival => exact execAgreeResultArrival_runs ..
  | linkLoss => exact execLinkLoss_runs ..
  | collSend => exact execCollSend_runs ..
  | collRadd => exact execCollRadd_runs ..
  | collRstore => exact execCollRstore_runs ..
  | collFlag => exact execCollFlag_runs ..
  | partSet => exact execPartSet_runs ..
  | vfSet => exact execVfSet_runs ..
  | inval => exact execInval_runs ..
  | groupSet => exact execGroupSet_runs ..
  | groupDel => exact execGroupDel_runs ..
  | schedSet => exact execSchedSet_runs ..
  | queueSet => exact execQueueSet_runs ..
  | switch => exact execSwitch_runs ..
  | partReset => exact execPartReset_runs ..
  | readmit => exact execReadmit_runs ..
  | coreRetire => exact execCoreRetire_runs ..
  | coreRetireMapping => exact execCoreRetireMapping_runs ..
  | migrateOut => exact execMigrateOut_runs ..
  | migrateIn => exact execMigrateIn_runs ..
  | switchTick => exact execSwitchTick_runs ..
  | operatorBoundarySave => exact execOperatorBoundarySave_runs ..
  | saveDeadlineExpiry => exact execSaveDeadlineExpiry_runs ..
  | tierSwap => exact execTierSwap_runs ..
  | pageMoveComplete => exact execPageMoveComplete_runs ..
  | residencyGateOpen => exact execResidencyGateOpen_runs ..
  | queueNotify => exact execQueueNotify_runs ..
  | heartbeat => exact execHeartbeat_runs ..
  | heartbeatTimeout => exact execHeartbeatTimeout_runs ..
  | hartRebuildComplete => exact execHartRebuildComplete_runs ..
  | supDown => exact execSupDown_runs ..
  | supervisorRestart => exact execSupervisorRestart_runs ..
  | powerOn => exact execPowerOn_runs ..
  | traceSample => exact execTraceSample_runs ..
  | registerWrite => exact execRegisterWrite_runs ..
  | wfeDeadline => exact execWfeDeadline_runs ..
  | linkBringUp => exact execLinkBringUp_runs ..
  | workQueueRecordWrite => exact execWorkQueueRecordWrite_runs ..
  | _ => exact issue_runs slot s

end Sys2Proof.Machine
end

section
/-! SUPPORT. The bundle, the gang, the clock and the model's own order run instructions and nothing else that touches the agenda or the form of
memory. -/

namespace Sys2Proof.Machine

/-! ### Outcomes in a row -/

theorem Runs.andThen {s : State} {o : Host.Outcome State Fault Refusal} {f : State → Host.Outcome State Fault Refusal} (h : Runs s o)
    (k : ∀ t, Runs t (f t)) : Runs s (andThen o f) := by
  obtain ⟨t, rfl, ht⟩ := h
  exact (k t).after ht

theorem Runs.foldl {β : Type} {s : State} {f : Host.Outcome State Fault Refusal → β → Host.Outcome State Fault Refusal}
    (hf : ∀ o b, Runs s o → Runs s (f o b)) (l : List β) {o : Host.Outcome State Fault Refusal} (h : Runs s o) : Runs s (l.foldl f o) :=
  List.foldlRecOn l f h fun o ho b _ => hf o b ho

/-! ### What is presented -/

/-- A presented bundle: the state in which its slots run is reached tamely, and its slots are mild. -/
structure Presented.Mild (s : State) (p : Presented) : Prop where
  state : Tame s p.s
  slots : ∀ q ∈ p.items, q.2.Mild

theorem State.presentWords_mild (s : State) (ws : List (Nat × W32)) (lead : Option (Option Nat × Option Nat)) : (s.presentWords ws lead).Mild s where
  state := (Tame.refl s).same rfl rfl
  slots q hq := by
    obtain ⟨t, _, rfl⟩ := List.mem_map.1 hq
    dsimp only
    split <;> exact State.slotAt_mild ..

/-- A presentation without slots. -/
theorem Presented.mild_nil (s : State) (v : Verdict) : (Presented.mk [] v s 0).Mild s := ⟨.refl s, List.forall_mem_nil _⟩

theorem State.presentNext_mild (s : State) : (s.presentNext).Mild s := by
  unfold State.presentNext
  dsimp only
  split
  · exact State.presentWords_mild ..
  · exact Presented.mild_nil ..
  · split
    · exact State.presentWords_mild ..
    all_goals exact Presented.mild_nil ..

/-- Another verdict on the same bundle. -/
theorem Presented.Mild.judge {s : State} {p : Presented} (h : p.Mild s) (v : Verdict) : ({ p with v := v } : Presented).Mild s := ⟨h.state, h.slots⟩

theorem Presented.Mild.after {s t : State} {p : Presented} (h : p.Mild t) (k : Tame s t) : p.Mild s := ⟨k.trans h.state, h.slots⟩

/-- The state in which context c presents its next bundle: its results that are due have landed. -/
def State.presenting (s : State) (c : Nat) : State := { (s.landCtx c) with cur := c, iss := Issue.none }

theorem State.presenting_tame (s : State) (c : Nat) : Tame s (s.presenting c) := (State.landCtx_tame s c).same rfl rfl

/-- The outlook of a context changes the verdict on its next bundle alone. -/
theorem State.outlook_eq {s : State} {c : Nat} {p : Presented} (h : s.outlook c = some p) :
    ∃ v, p = { (s.presenting c).presentNext with v := v } := by
  unfold State.outlook at h
  extract_lets land s1 x q at h
  repeat' split at h
  all_goals simp only [Option.some.injEq, reduceCtorEq] at h
  all_goals exact ⟨_, h.symm⟩

theorem State.outlook_mild {s : State} {c : Nat} {p : Presented} (h : s.outlook c = some p) : p.Mild s := by
  obtain ⟨v, rfl⟩ := State.outlook_eq h
  exact ((State.presentNext_mild _).judge v).after (State.presenting_tame s c)

/-! ### Running a bundle -/

section
variable {ex : Instr → State → Host.Outcome State Fault Refusal}

theorem runAll_runs (hex : ∀ i s, Runs s (ex i s)) (l : List Instr) (s : State) : Runs s (runAll ex l s) := by
  induction l generalizing s with
  | nil => exact Runs.of (.refl s)
  | cons i r ih => exact (hex i s).andThen ih

theorem runPhase_runs (hex : ∀ i s, Runs s (ex i s)) (ph base j : Nat) (l : List (Item × Slot)) (s : State) : Runs s (runPhase ex ph base j l s) := by
  induction l generalizing j s with
  | nil => exact Runs.of (.refl s)
  | cons q r ih =>
    obtain ⟨t, sl⟩ := q
    unfold runPhase
    split
    · exact ih (j + 1) s
    · refine Runs.andThen ((runAll_runs hex ..).after ?_) (ih (j + 1))
      exact State.modCtx_tame' ((Tame.refl s).same rfl rfl)

theorem runBundle_runs (hex : ∀ i s, Runs s (ex i s)) {s : State} {p : Presented} (h : Tame s p.s) (ws : List (Nat × W32)) :
    Runs s (runBundle ex p ws) := by
  have phase (k : Nat) (t : State) := runPhase_runs hex k (p.s.enter.ctx p.s.enter.cur).nextSeq 0 p.items t
  have phases := (((phase 0 p.s.enter).andThen (phase 1)).andThen (phase 2)).andThen (phase 3)
  refine ((phases.after (State.enter_tame p.s)).after h).andThen fun t => Runs.of ?_
  exact State.endBundle_tame' (State.follow_tame' (State.feed_tame' (State.modCtx_tame ..)))

theorem State.fetched_tame (s : State) (c : Nat) : Tame s (s.fetched c) := by
  unfold State.fetched
  split
  · exact .refl s
  · exact State.touch_tame ..

theorem issueBundle_runs (hex : ∀ i s, Runs s (ex i s)) (c : Nat) (s : State) : Runs s (issueBundle ex c s) := by
  refine Runs.after ?_ (State.fetched_tame s c)
  generalize hf : s.fetched c = t
  unfold issueBundle
  rw [hf]
  dsimp only
  cases ho : t.outlook c with
  | none =>
    dsimp only
    split
    · exact Runs.of (State.modCtx_tame' (takeTrap_tame' (State.landCtx_tame ..)))
    · exact Runs.of (State.deliverReport_tame' (State.landCtx_tame ..))
  | some p =>
    obtain ⟨state, slots⟩ := State.outlook_mild ho
    dsimp only
    split
    · exact runBundle_runs hex state _
    · have stop := State.stopFor_tame (List.forall_mem_map.2 slots) p.s c p.v
      have stopped : Tame t { (p.s.stopFor c p.v (p.items.map fun (q : Item × Slot) => q.2)) with iss := Issue.none } :=
        state.trans (stop.same rfl rfl)
      split
      · exact Runs.of (State.modCtx_tame' stopped)
      · exact Runs.of stopped

/-! ### The clock and the model's own order -/

theorem issueGang_runs (hex : ∀ i s, Runs s (ex i s)) (l : Nat) (s : State) : Runs s (issueGang ex l s) := by
  have one := issueBundle_runs hex
  unfold issueGang
  extract_lets ms all wfe due free
  split
  · refine (Runs.foldl (fun o m ho => ho.andThen (one m)) _ (Runs.of (.refl s))).andThen fun t => ?_
    split
    · exact (one l t).andThen fun u => Runs.of (Tame.foldl (fun v m hv => State.showWfe_tame' hv) _ (.refl u))
    · exact Runs.of (.refl t)
  · refine (Runs.foldl (fun o m ho => ?_) _ (Runs.of (.refl s))).andThen fun t => Runs.of (State.gangWait_tame ..)
    split
    · exact ho
    · exact ho.andThen (one m)

theorem takeTurn_runs (hex : ∀ i s, Runs s (ex i s)) (c : Nat) (s : State) : Runs s (takeTurn ex c s) := by
  unfold takeTurn
  split
  · exact issueBundle_runs hex c s
  · exact issueGang_runs hex c s

theorem clockStep_runs (hex : ∀ i s, Runs s (ex i s)) (s : State) : Runs s (clockStep ex s) := by
  unfold clockStep
  split
  · exact takeTurn_runs hex _ s
  · exact Runs.of (State.tick_tame s)

theorem firstChange_runs (hex : ∀ i s, Runs s (ex i s)) (s : State) (l : List Instr) : Runs s (firstChange ex s l) := by
  induction l with
  | nil => exact Runs.of (State.tick_tame s)
  | cons i r ih =>
    obtain ⟨t, ht, tame⟩ := hex i s
    unfold firstChange
    rw [ht]
    dsimp only
    split
    · exact ih
    · exact Runs.of tame

theorem freeStep_runs (hex : ∀ i s, Runs s (ex i s)) (s : State) : Runs s (freeStep ex s) := by
  unfold freeStep
  split
  · exact takeTurn_runs hex _ s
  · split
    · exact Runs.of (State.writeBack_tame ..)
    · exact firstChange_runs hex s _
end

/-! ### One step -/

/-- What a step does to the agenda and to memory: the agenda loses its first item, if it has one, and memory in canonical form stays so; a step goes on
unless the agenda names a slot or a step of a routine. -/
theorem step_runs {s : State} (h : cleanAgenda s.agenda = true) : Runs { s with agenda := s.agenda.tail } (step s) := by
  unfold step
  split <;> rename_i ha
  · rw [ha] at h ⊢
    rw [if_pos (List.all_eq_true.1 h _ List.mem_cons_self)]
    exact exec_runs ..
  · rw [ha]
    exact clockStep_runs exec_runs _
  · exact (freeStep_runs exec_runs s).after ⟨by simp [ha], id⟩

theorem cleanAgenda_tail {l : List Act} (h : cleanAgenda l = true) : cleanAgenda l.tail = true :=
  List.all_eq_true.2 fun a ha => List.all_eq_true.1 h a (List.mem_of_mem_tail ha)

end Sys2Proof.Machine
end

section
open Sys2Proof Sys2Proof.Machine

/-- Settles O4: a step takes at most the first item off a clean agenda, and every operation of the machine keeps memory in canonical form. -/
theorem invariantStep : Obligations.InvariantStep := by
  intro s t ⟨hmem, hagenda⟩ hstep
  obtain ⟨u, hu, agenda, mem⟩ := step_runs hagenda
  obtain rfl : t = u := Host.Outcome.next.inj (hstep.symm.trans hu)
  exact ⟨mem hmem, agenda ▸ cleanAgenda_tail hagenda⟩

/-- Settles O5: memory lists no byte at reset, and the agenda is empty. -/
theorem invariantReset : Obligations.InvariantReset := ⟨rfl, rfl⟩
end

section
/-! SUPPORT. Loads of one element, and the bytes that a context's own writes leave (R181 to R184, R427). -/

namespace Sys2Proof.Machine

/-! ### Where a load of one element goes -/

/-- An access that finds a home location of its own is local (R181). -/
theorem State.isLocal_of_route {s : State} {c va l : Nat} {a : Acc} {ps : List Nat} (h : s.route c va a = .loc l ps) :
    s.isLocal (coreOf c) va = true := by
  unfold State.route at h
  unfold State.isLocal
  cases hp : s.place va with
  | own ofs => rfl
  | window o n ofs => simp [hp] at h
  | outside => simp [hp] at h
  | bad =>
    rw [hp] at h
    dsimp only at h
    split at h
    · next hl => simpa [State.isLocal, hp] using hl
    · simp at h
  | mem o f =>
    rw [hp] at h
    dsimp only at h
    split at h
    · simp at h
    · next ho => simpa using ho

/-- A load of one element at a home location of its own reads it at once and sends nothing (R182, R427). -/
theorem Env.load_home {s : State} {f : File} {va n l : Nat} {ps : List Nat} (h : s.route s.cur va .rd = .loc l ps) (hf : f ≠ .v) (d : BitVec 5) (lat : Nat)
    (own : Bool) (t : State) :
    s.env.load f d [⟨va, n, 0⟩] lat own false t = (t.touch ps false).modCtx s.cur fun x => x.push
      { mkRes f d.toNat (BitVec.ofNat 2048 ((s.localRead s.cur va l n).getD 0)) (s.now + if own then 6 else if (s.ctx s.cur).det then 720 else lat) with
        fixed := own || (s.ctx s.cur).det, psn := s.env.elemPsn ⟨va, n, 0⟩ l, lanes := s.env.lanes } := by
  have hl : s.env.isRemote va = false := by simpa [Env.isRemote, State.env] using State.isLocal_of_route h
  have hr : s.env.s.route s.env.c va .rd = .loc l ps := h
  simp only [Env.load, Env.localVal, Env.ptesOf, hl, hr, hf, Bool.false_eq_true, if_false, List.filter_cons, List.filter_nil, Bool.not_false, if_true,
    List.foldl_cons, List.foldl_nil, List.flatMap_cons, List.flatMap_nil, List.map_nil, Ctx.addRout]
  cases own <;> simp [Env.varRes, mkRes, State.env]

/-- A load of one element that is not local sends one part, which is still to return (R185, R427). -/
theorem Env.load_far {s : State} {va : Nat} (h : s.isLocal (coreOf s.cur) va = false) (d : BitVec 5) (n : Nat) (t : State) : ∃ ov,
    s.env.load .x d [⟨va, n, 0⟩] 6 false false t = t.modCtx s.cur fun x =>
      ({ x with inflight := x.inflight ++ [{ mkRes .x d.toNat 0 (s.now + if (s.ctx s.cur).det then 1600 else 6) with
                  fixed := (s.ctx s.cur).det, need := 1, lanes := s.env.lanes, seq := x.nextSeq, iss := x.bundles }],
                nextSeq := x.nextSeq + 2,
                rout := x.rout ++ [⟨x.nextSeq + 1, .load va n 0 ov, (t.ctx s.cur).nextSeq, 0, none, (s.ctx s.cur).preds.length, 0, 0⟩] } : Ctx) := by
  have hl : s.env.isRemote va = true := by simpa [Env.isRemote, State.env] using h
  refine ⟨(overlay s.env.x va (s.env.s.homeOf s.env.x.vf va) n).getD [], ?_⟩
  simp only [Env.load, Env.localVal, Env.ptesOf, hl, reduceCtorEq, decide_false, Bool.and_false, Bool.false_eq_true, if_false, List.filter_cons, List.filter_nil,
    Bool.not_true, if_true, List.foldl_nil, List.flatMap_nil, List.map_cons, List.map_nil]
  rfl

/-! ### Bytes as local loads see them -/

/-- With no write of its own pending, a context sees what memory holds. -/
theorem State.localByte_of_no_writes {s : State} {c : Nat} (hl : (s.ctx c).lsq = []) (hb : (s.ctx c).basket = []) (va l : Nat) :
    s.localByte c va l = some (s.mem.read l) := by
  simp [State.localByte, Ctx.cover, Ctx.basketCover, basketL, coverL, hl, hb]

theorem State.localRead_of_no_writes {s : State} {c : Nat} (hl : (s.ctx c).lsq = []) (hb : (s.ctx c).basket = []) (va l n : Nat) :
    s.localRead c va l n = some (s.mem.readNat l n) := by
  induction n generalizing va l with
  | zero => rfl
  | succ n ih => simp only [State.localRead, State.localByte_of_no_writes hl hb, ih, Memory.readNat]

/-- The newest write of LSQ(c) is what a local load of its context sees (R182). -/
theorem State.localByte_of_last_store {s : State} {c l : Nat} {r : List LEntry} {e : LEntry} {bs : List (Nat × Byte)} {b : Byte}
    (hb : (s.ctx c).basket = []) (hl : (s.ctx c).lsq = r ++ [e]) (he : e.op = .store (bs ++ [(l, b)])) (va : Nat) : s.localByte c va l = some b := by
  simp [State.localByte, Ctx.cover, Ctx.basketCover, basketL, coverL, hl, hb, he, LOp.cover]

theorem State.localPoison_of_clean {s : State} {l n : Nat} (h : ∀ i, i < n → s.poisoned (l + i) = false) (c va : Nat) :
    s.localPoison c va l n = false := by
  simp only [State.localPoison, List.any_eq_false, List.mem_range]
  intro i hi
  simp [h i hi]

end Sys2Proof.Machine
end

section
open Sys2Proof Sys2Proof.Machine

/-- Settles O29: a load of one local element by `Env.load_home`, of one remote element by `Env.load_far`, and the bytes that a local load sees by what
LSQ(c) and the basket hold. -/
theorem loadReads : Obligations.LoadReads := by
  refine ⟨fun s t d va n l ps h => ?_, fun s t d va n h => ?_, fun s c va l n hl hb => ?_, fun s c va l r q ps al bs b hb hl => ?_, fun m l n => rfl,
    fun s c va l h => ?_⟩
  · exact Env.load_home h (by decide) d 6 (s.inOwn va) t
  · exact Env.load_far h d n t
  · exact State.localRead_of_no_writes hl hb va l n
  · exact State.localByte_of_last_store hb hl rfl va
  · exact State.localPoison_of_clean h c va
end

section
/-! SUPPORT. PERFORM_LOCAL of a store whose home resets with a partition from outside (R332), and a state in which one is pending. -/

namespace Sys2Proof.Machine

/-- A store whose home resets with another partition leaves LSQ(c) and writes nothing (R332). -/
theorem State.performHead_store_resetting {s : State} {c : Nat} {e : LEntry} {q : List LEntry} {bs : List (Nat × Byte)} (hl : (s.ctx c).lsq = e :: q)
    (ho : e.op = .store bs) (hr : s.resetting (coreOf c) e.op.loc = true) :
    s.performHead c = s.modCtx c fun x => { x with lsq := q, lsqDone := x.lsqDone + 1 } := by
  simp only [State.performHead, hl, hr, if_true]
  simp only [ho]

/-- With no remote operation outstanding, the head of LSQ(c) performs (R183). -/
theorem execPerformLocal_head {s : State} {c : Nat} {e : LEntry} {q : List LEntry} (hl : (s.ctx c).lsq = e :: q) (hr : (s.ctx c).rout = []) :
    execPerformLocal c s = .next (s.performHead c) := by
  simp [execPerformLocal, Ctx.headFree, hl, hr]

/-- Partition 0 holds no core, and of the memory the first near channel of die 0 alone; it resets. -/
def resettingPart : Part := { Part.new #v[0, 0, 0, 0, 0, 0, 2 ^ 32, 0] 0 with reset := true }

/-- A store of the byte 1 at location 1000H of die 0. -/
def pendingStore : LEntry := ⟨.store [(0x1000, 1)], 0, [], 0⟩

/-- That partition resets while context 0 of core 0, which lies outside it, has that store pending. -/
def resettingHome : State :=
  ({ State.reset with hub := { HubSt.zero with parts := ⟨[(0, resettingPart)]⟩ } } : State).modCtx 0 fun x => { x with lsq := [pendingStore] }

end Sys2Proof.Machine
end

section
open Sys2Proof Sys2Proof.Machine

/-- Refutes O46: the statement has no premise that the home of the entry is up. A store to memory of a partition that resets, from a core outside it, is
discarded (R332), so that the byte 1 of `pendingStore` is never read at 1000H. -/
theorem not_localWritesPerform : ¬ Obligations.LocalWritesPerform := by
  rintro ⟨stores, -⟩
  obtain ⟨t, ht, -, -, -, written, -⟩ := stores resettingHome 0 pendingStore [] [(0x1000, 1)] rfl rfl rfl rfl rfl
  have discarded : exec (.performLocal 0) resettingHome = .next (resettingHome.modCtx 0 fun x => { x with lsq := [], lsqDone := x.lsqDone + 1 }) := by
    rw [← State.performHead_store_resetting (s := resettingHome) (e := pendingStore) rfl rfl (by decide)]
    exact execPerformLocal_head (s := resettingHome) (e := pendingStore) rfl rfl
  obtain rfl := Host.Outcome.next.inj (ht.symm.trans discarded)
  have one := written 0x1000 1 rfl List.mem_cons_self (by simp)
  exact absurd one (by decide)
end

section
open Sys2Proof Sys2Proof.Machine

/-- Settles O3: on a clean agenda a step is an event, the clock or the model's own order, and `step_runs` gives each of them a next state. -/
theorem stepNeverStops : Obligations.StepNeverStops := by
  intro s hclean
  obtain ⟨t, ht, -⟩ := step_runs hclean
  exact ⟨t, ht⟩
end

section
/-! SUPPORT. A cycle in which a matrix engine runs a routine (R237, R372). -/

namespace Sys2Proof.Machine

/-- Core 0's matrix engine runs the routine at word 64, and the agenda asks for the clock; no context holds a record. -/
def routineCycle : State :=
  { State.reset with
    agenda := [.clock]
    cores := ⟨[(0, { CoreSt.zero with
      mq := [⟨0, 0, 0, Vector.replicate 8 0, Vector.replicate 8 0, 1, 0, 0, 0, 0, 0, false, 0⟩]
      mrun := some ⟨64, 0, 1, false, 0, 0, 0, false, false, 0, [], 0, 0, 0, 0, 0, false, false, 0, 0, none, 0, 0, 0, 0, 0, 0⟩ })]⟩ }

/-- The counter of cycles that were not idle is not listed before that cycle, and it is 1 after it. -/
theorem routineCycle_charged : (routineCycle.hub.mclass.find (mclassAt 0 5)) = none ∧
    ({ routineCycle with agenda := [] } : State).tick.hub.mclass.find (mclassAt 0 5) = some 1 := by decide +kernel

end Sys2Proof.Machine
end

section
open Sys2Proof Sys2Proof.Machine

/-- Refutes O7: the statement says that a cycle leaves the hub as it is, but a cycle in which a routine runs is charged to the class counters of the hub
(R237, R372), as in `routineCycle`. -/
theorem not_stepFollowsAgenda : ¬ Obligations.StepFollowsAgenda := by
  rintro ⟨-, clock⟩
  obtain ⟨-, -, -, -, -, hub, -⟩ := clock routineCycle [] rfl rfl
  obtain ⟨before, after⟩ := routineCycle_charged
  rw [hub] at after
  exact absurd (before.symm.trans after) (by decide)
end

section
/-! SUPPORT. A held WFE whose event has come, after which the event queue was emptied (R489). -/

namespace Sys2Proof.Machine

/-- Context 0 of core 0, on a deterministic queue, issues a bundle; its WFE has been held and has met its event, and the cluster's event queue is empty
again. -/
def wfeMet : State :=
  ({ State.reset with iss := { Issue.none with checked := true } } : State).modCtx 0 fun x =>
    { x with words := #v[2 ^ 61, 0, 0, 0, 0, 0, 0, 0], wfe := some ⟨2 ^ 64, none, true, 0⟩ }

theorem wfeMet_issuing : wfeMet.Issuing := ⟨rfl, rfl⟩

/-- Register operands x0 and destination x1. -/
def wfeOpnds : R3 := ⟨1, 0, 0, false, false⟩

/-- The values that `exec` of that WFE has in flight: the reason is EVENT. -/
theorem wfeMet_reason : (match exec (.wfe wfeOpnds 0) wfeMet with
    | .next t => (t.ctx 0).inflight.map (·.val)
    | _ => []) = [0] := by decide +kernel

end Sys2Proof.Machine
end

section
open Sys2Proof Sys2Proof.Machine

/-- Refutes O42: the statement gives a WFE of kind 0 the reason DEADLINE whenever the event queue is empty, but one whose event was noted while its
gang held it has the reason EVENT (R489), as in `wfeMet`. -/
theorem not_endsAndWaits : ¬ Obligations.EndsAndWaits := by
  rintro ⟨-, -, -, -, -, -, -, -, -, wfe, -⟩
  obtain ⟨queue, -⟩ := wfe wfeMet wfeOpnds wfeMet_issuing
  have reason := wfeMet_reason
  rw [queue] at reason
  exact absurd reason (by decide +kernel)
end

section
/-! SUPPORT. A slot that stands alone and is held: what its presentation starts, and what stays as it was (R43, R74, R412, R421, R489). -/

namespace Sys2Proof.Machine

/-- The meaning of a slot other than PFXI and PFXP is the issue of its slot. -/
theorem exec_slot {i : Instr} (h : isSlot i = true) (hi : ∀ p, i ≠ .pfxi p) (hp : ∀ m r, i ≠ .pfxp m r) (s : State) :
    exec i s = issue (slotOf i) s := by
  cases i
  case pfxi p => exact absurd rfl (hi p)
  case pfxp m r => exact absurd rfl (hp m r)
  all_goals cases h
  all_goals rfl

/-- Nothing of context c changes but its waits for a word, for an event and for the cycles of a fence, and memory stays (R412, R421, R489). -/
structure WaitsOnly (c : Nat) (t u : State) : Prop where
  mem : u.mem = t.mem
  ctx : ∃ w v f, u.ctx c = { t.ctx c with wait := w, wfe := v, fence := f }

theorem WaitsOnly.refl (c : Nat) (t : State) : WaitsOnly c t t := ⟨rfl, _, _, _, rfl⟩

theorem WaitsOnly.modCtx {c : Nat} {f : Ctx → Ctx} (h : ∀ x, ∃ w v g, f x = { x with wait := w, wfe := v, fence := g }) (t : State) :
    WaitsOnly c t (t.modCtx c f) := ⟨rfl, by rw [State.ctx_modCtx_self]; exact h _⟩

/-- What the presentation of a slot starts in context c is a wait. -/
structure Slot.StartsWaits (c : Nat) (sl : Slot) : Prop where
  present : ∀ t, WaitsOnly c t (sl.present t)

theorem Slot.startsWaits_id {c : Nat} {sl : Slot} (h : sl.present = id) : sl.StartsWaits c := ⟨fun t => by rw [h]; exact .refl c t⟩

theorem Slot.finish_startsWaits {c : Nat} {sl : Slot} {e : Env} {ops : List Opnd} {psn : List (W64 × Nat)} (h : sl.StartsWaits c) :
    (sl.finish e ops psn).StartsWaits c := by
  unfold Slot.finish
  dsimp only
  split
  · exact ⟨h.present⟩
  · exact Slot.startsWaits_id rfl

/-- A slot that is completed and starts nothing of its own. -/
theorem Slot.finish_startsWaits_id {c : Nat} {sl : Slot} {e : Env} {ops : List Opnd} {psn : List (W64 × Nat)} (h : sl.present = id) :
    (sl.finish e ops psn).StartsWaits c := Slot.finish_startsWaits (Slot.startsWaits_id h)

/-- CWAIT waits for the word at its address. -/
theorem slotCwait_startsWaits (o : AB) (s : State) : (slotCwait o s).StartsWaits s.cur := by
  refine Slot.finish_startsWaits ⟨fun t => ?_⟩
  dsimp only
  split
  · exact .refl ..
  · split
    · exact .refl ..
    · refine WaitsOnly.modCtx (fun x => ?_) t
      split
      · split <;> exact ⟨_, _, _, rfl⟩
      · exact ⟨_, _, _, rfl⟩

/-- FENCER counts its cycles on a deterministic queue. -/
theorem slotFencer_startsWaits (o : AB) (v : BitVec 4) (s : State) : (slotFencer o v s).StartsWaits s.cur := by
  refine Slot.finish_startsWaits ⟨fun t => ?_⟩
  dsimp only
  refine WaitsOnly.modCtx (fun x => ?_) t
  split <;> exact ⟨_, _, _, rfl⟩

/-- WFE waits for its event. -/
theorem slotWfe_startsWaits (o : R3) (v : BitVec 4) (s : State) : (slotWfe o v s).StartsWaits s.cur := by
  refine Slot.finish_startsWaits ⟨fun t => ?_⟩
  dsimp only
  refine WaitsOnly.modCtx (fun x => ?_) t
  split <;> exact ⟨_, _, _, rfl⟩

theorem vArithSlot_startsWaits {c : Nat} (e : Env) (legal : Bool) (op : Nat) (o : R3) (v : BitVec 4) : (vArithSlot e legal op o v).StartsWaits c := by
  unfold vArithSlot vVVV
  dsimp only
  split
  all_goals exact Slot.finish_startsWaits_id (by rfl)

theorem agreedSlot_startsWaits {c : Nat} (e : Env) (rm ra : BitVec 5) (ofs : BitVec 11) (predict : Option Bool) :
    (agreedSlot e rm ra ofs predict).StartsWaits c := by
  unfold agreedSlot
  dsimp only
  repeat' split
  all_goals exact Slot.finish_startsWaits_id (by rfl)

theorem slotMovx_startsWaits {c : Nat} (o : R2) (v : BitVec 4) (s : State) : (slotMovx o v s).StartsWaits c := by
  unfold slotMovx
  dsimp only
  split
  · exact ⟨(Slot.finish_startsWaits_id (by rfl)).present⟩
  · exact Slot.finish_startsWaits_id (by rfl)

theorem slotVbcast_startsWaits {c : Nat} (o : R3) (lane : Bool) (s : State) : (slotVbcast o lane s).StartsWaits c := by
  unfold slotVbcast
  dsimp only
  split
  all_goals exact Slot.finish_startsWaits_id (by rfl)

theorem slotLdg_startsWaits {c : Nat} (o : R3) (v : BitVec 4) (s : State) : (slotLdg o v s).StartsWaits c := by
  unfold slotLdg Env.loadSlot
  dsimp only
  split
  all_goals exact Slot.finish_startsWaits_id (by rfl)

theorem slotStv_startsWaits {c : Nat} (o : MO) (s : State) : (slotStv o s).StartsWaits c := by
  unfold slotStv Env.storeSlot
  dsimp only
  split
  · exact ⟨(Slot.finish_startsWaits_id (by rfl)).present⟩
  · exact Slot.finish_startsWaits_id (by rfl)

theorem slotMcall_startsWaits {c : Nat} (o : AB) (bank : BitVec 2) (s : State) : (slotMcall o bank s).StartsWaits c := by
  unfold slotMcall
  exact ⟨(Slot.finish_startsWaits_id (by rfl)).present⟩

/-- The presentation of a slot starts no more than a wait in the current context: CWAIT, FENCER and WFE alone start anything. -/
theorem slotOf_startsWaits {i : Instr} (h : isSlot i = true) (s : State) : (slotOf i s).StartsWaits s.cur := by
  cases i
  case cwait => exact slotCwait_startsWaits ..
  case fencer => exact slotFencer_startsWaits ..
  case wfe => exact slotWfe_startsWaits ..
  case vadd | vsub | vmul => exact vArithSlot_startsWaits ..
  case mcall => exact slotMcall_startsWaits ..
  case abr m a ofs => exact agreedSlot_startsWaits s.env m a ofs none
  case abrp p m a ofs => exact agreedSlot_startsWaits s.env (m.setWidth 5) a ofs (some p)
  case movx => exact slotMovx_startsWaits ..
  case vbcast => exact slotVbcast_startsWaits ..
  case ldg => exact slotLdg_startsWaits ..
  case stv => exact slotStv_startsWaits ..
  case nop | pfxi | pfxp => exact Slot.startsWaits_id rfl
  all_goals cases h
  all_goals
    apply Slot.finish_startsWaits_id
    rfl

/-- The verdict on one slot that holds, of a context with nothing in flight and no prediction. -/
theorem verdict_hold (x : Ctx) (now : Nat) (sl : Slot) (hi : x.inflight = []) (hp : x.preds = []) (hl : sl.legal = true) (hg : sl.illVal = none)
    (hq : sl.priv = false) (hv : sl.privVal = false) (hh : sl.hold ≠ .none) : verdict x now [sl] false = .hold sl.hold := by
  have noLock (rs : List (File × Nat)) : x.ilock rs = false := by simp [Ctx.ilock, hi]
  have known : x.knows sl = true := by simp [Ctx.knows, noLock]
  cases hk : sl.hold with
  | none => exact absurd hk hh
  | abr | engine | interlock => simp [verdict, Slot.illegal, noLock, known, hp, hl, hg, hq, hv, hk]

/-- A rebase keeps what a held slot keeps: the results in flight change no more than their cycles. -/
theorem Ctx.rebase_keeps (x : Ctx) (now : Nat) : (x.rebase now).pc = x.pc ∧ (x.rebase now).r = x.r ∧ (x.rebase now).lsq = x.lsq ∧
    (x.rebase now).phase = x.phase ∧ (x.inflight = [] → (x.rebase now).inflight = []) := by
  unfold Ctx.rebase
  split
  · exact ⟨rfl, rfl, rfl, rfl, fun h => by rw [h]; rfl⟩
  · exact ⟨rfl, rfl, rfl, rfl, id⟩

/-- A hold of one slot that starts no more than a wait: the context is held, and keeps its program counter, its registers and its queues (R43, R74). -/
theorem State.stopFor_hold {s : State} {c : Nat} {sl : Slot} (h : sl.StartsWaits c) (hi : (s.ctx c).inflight = []) (k : HoldKind) :
    let t := s.stopFor c (.hold k) [sl]
    (t.ctx c).held = k ∧ (t.ctx c).pc = (s.ctx c).pc ∧ (t.ctx c).r = (s.ctx c).r ∧ (t.ctx c).inflight = [] ∧ t.mem = s.mem ∧
      (t.ctx c).lsq = (s.ctx c).lsq ∧ (t.ctx c).phase = (s.ctx c).phase := by
  intro t
  simp only [t, State.stopFor, List.foldl_cons, List.foldl_nil, State.ctx_modCtx_self, State.modCtx_mem]
  generalize hu : (if ((s.ctx c).ilock sl.reads || sl.calm && _) = true then s else sl.present s) = u
  have waits : WaitsOnly c s u := by
    rw [← hu]
    split
    · exact .refl c s
    · exact h.present s
  obtain ⟨mem, w, v, f, ctx⟩ := waits
  rw [mem, ctx]
  split
  · obtain ⟨pc, r, lsq, phase, inflight⟩ := Ctx.rebase_keeps ({ s.ctx c with wait := w, wfe := v, fence := f } : Ctx) s.now
    exact ⟨trivial, pc, r, inflight hi, rfl, lsq, phase⟩
  · exact ⟨trivial, rfl, rfl, hi, rfl, rfl, rfl⟩

/-! A slot that stands alone as a bundle is placed there by `iss` alone. -/

@[simp] theorem State.alone_cur (s : State) : s.alone.cur = s.cur := by unfold State.alone; split <;> rfl
@[simp] theorem State.alone_ctx (s : State) (c : Nat) : s.alone.ctx c = s.ctx c := by unfold State.alone; split <;> rfl
@[simp] theorem State.alone_mem (s : State) : s.alone.mem = s.mem := by unfold State.alone; split <;> rfl

end Sys2Proof.Machine
end

section
open Sys2Proof Sys2Proof.Machine

/-- Settles O12: the verdict on the one slot is its hold, by `verdict_hold`, and the presentation of a held slot starts no more than a wait. -/
theorem loneSlotHeld : Obligations.LoneSlotHeld := by
  intro i s hslot hi hp checked pfxi pfxp bad inflight preds sl hsl legal ill priv privVal hold
  subst hsl
  have noPfx : ((slotOf i s.alone).prefixBad s.alone.env || s.alone.iss.pfxiBad) = false := by
    simp [Slot.prefixBad, State.env, State.alone, checked, pfxi, pfxp, bad]
  have stop : verdict (s.alone.ctx s.alone.cur) s.alone.now [slotOf i s.alone]
      ((slotOf i s.alone).prefixBad s.alone.env || s.alone.iss.pfxiBad) = .hold (slotOf i s.alone).hold := by
    rw [noPfx]
    exact verdict_hold _ _ _ (by simpa using inflight) (by simpa using preds) legal ill priv privVal hold
  refine ⟨_, (exec_slot hslot hi hp s).trans (issue_stop (slotOf i) s checked stop (by simp)), ?_⟩
  simpa using State.stopFor_hold (s := s.alone) (slotOf_startsWaits hslot s.alone) (by simpa using inflight) (slotOf i s.alone).hold
end

section
/-! SUPPORT. The operations that store bytes, for a record, a field or a tile: nothing but memory, its poison and what a write tells to waiting contexts
differs after them (R168, R320, R412). -/

namespace Sys2Proof.Machine

/-- Memory, poison and contexts may differ, and nothing else. -/
def Stores (s t : State) : Prop := ∃ (m : Memory) (p : List Nat) (x : Table Ctx), t = { s with mem := m, poison := p, ctxs := x }

theorem Stores.refl (s : State) : Stores s s := ⟨_, _, _, rfl⟩

theorem Stores.trans {s t u : State} (h : Stores s t) (k : Stores t u) : Stores s u := by
  obtain ⟨_, _, _, rfl⟩ := h
  obtain ⟨_, _, _, rfl⟩ := k
  exact ⟨_, _, _, rfl⟩

theorem Stores.foldl {β : Type} {f : State → β → State} (h : ∀ s b, Stores s (f s b)) (l : List β) (s : State) : Stores s (l.foldl f s) :=
  List.foldlRecOn l f (.refl s) fun t ht b _ => ht.trans (h t b)

theorem State.wr_stores (s : State) (l n v : Nat) : Stores s (s.wr l n v) := ⟨_, _, _, rfl⟩

theorem State.recWrite_stores (s : State) (vf a i v : Nat) : Stores s (s.recWrite vf a i v) := by
  unfold State.recWrite
  split
  · exact ⟨_, _, _, rfl⟩
  · exact .refl s

theorem State.copyTile_stores (s : State) (src dst : Nat) : Stores s (s.copyTile src dst) :=
  (Stores.foldl (fun _ _ => ⟨_, _, _, rfl⟩) _ s : Stores s (s.copyRange src dst 4096)).trans ⟨_, _, _, rfl⟩

theorem State.writeArea_stores (s : State) (c : Nat) (sv : SaveRef) : Stores s (s.writeArea c sv) := by
  unfold State.writeArea State.wrFields
  refine Stores.trans ?_ (Stores.foldl (fun t p => t.copyTile_stores ..) ..)
  exact Stores.trans ⟨_, _, _, rfl⟩ (Stores.foldl (fun t f => t.wr_stores ..) ..)

theorem Stores.cluster {s t : State} (h : Stores s t) (cl : Nat) : t.cluster cl = s.cluster cl := by
  obtain ⟨_, _, _, rfl⟩ := h
  rfl

end Sys2Proof.Machine
end

section
/-! SUPPORT. Who runs: what the scheduling events of a sequencer and the selector of a core do, one lemma for each outcome (R44, R49, R52 to R54, R489). -/

namespace Sys2Proof.Machine

/-! ### Pre-emption -/

theorem State.preemptTeam_alone {s : State} {c : Nat} (h : s.mates c = [c]) (p : Nat) : s.preemptTeam c p = s.preempt c p := by
  simp [State.preemptTeam, h]

/-- A running context that is pre-empted stops with the plan, and no trap register is written (R47, R313). -/
theorem State.preempt_run {s : State} {c : Nat} (h : (s.ctx c).phase = .run) (p : Nat) :
    ((s.preempt c p).ctx c).phase = .stopping ∧ ((s.preempt c p).ctx c).plan = some p ∧ ((s.preempt c p).ctx c).trapCause = (s.ctx c).trapCause := by
  simp [State.preempt, h, takeTrap, Ctx.plan]

section
variable {s : State} {cl : Nat} {r : RecRef} {v : Nat × Nat × Nat} (hq : s.queue cl = [r]) (hp : s.pressing cl r = true)
  (hv : s.victims cl r.vf = [v]) (hlt : v.2.1 < r.prio)
include hq hp hv hlt

/-- The one record of the queue presses on the one victim, whose PRIO is lower. -/
theorem State.presses_of_one : ((s.queue cl).find? fun (r : RecRef) =>
    s.pressing cl r && !((s.victims cl r.vf).filter fun v => decide (v.2.1 < r.prio)).isEmpty) = some r := by
  simp [hq, hp, hv, hlt]

/-- With no idle context and no eviction under way, the team of the one victim gives way (R52). -/
theorem execPriorityPreemption_gives_way (hb : (s.ctx v.1).barred = none)
    (hc : ∀ c ∈ ((clusterCores cl).filter fun k => (s.core k).exposed).flatMap fun k => [0, 1, 2, 3].map fun i => k * 4 + i,
      (s.ctx c).phase ≠ .idle ∧ (s.ctx c).plan ≠ some 1) :
    execPriorityPreemption cl s = .next (s.preemptTeam v.1 1) := by
  have free (p : Nat → Bool) (h : ∀ c, (s.ctx c).phase ≠ .idle ∧ (s.ctx c).plan ≠ some 1 → p c = false) :
      (((clusterCores cl).filter fun k => (s.core k).exposed).flatMap fun k => [0, 1, 2, 3].map fun i => k * 4 + i).any p = false :=
    List.any_eq_false.2 fun c hm => by simp [h c (hc c hm)]
  unfold execPriorityPreemption
  rw [State.presses_of_one hq hp hv hlt]
  simp only [free (fun c => decide ((s.ctx c).phase = .idle)) fun c h => by simpa using h.1,
    free (fun c => decide ((s.ctx c).plan = some 1)) fun c h => by simpa using h.2, hv]
  simp [hb]

/-- With an idle context nobody gives way (R52). -/
theorem execPriorityPreemption_idle
    (hc : ∃ c ∈ ((clusterCores cl).filter fun k => (s.core k).exposed).flatMap fun k => [0, 1, 2, 3].map fun i => k * 4 + i,
      (s.ctx c).phase = .idle) :
    execPriorityPreemption cl s = .next s := by
  have idle : (((clusterCores cl).filter fun k => (s.core k).exposed).flatMap fun k => [0, 1, 2, 3].map fun i => k * 4 + i).any
      (fun c => decide ((s.ctx c).phase = .idle)) = true :=
    List.any_eq_true.2 (hc.imp fun c h => ⟨h.1, by simpa using h.2⟩)
  unfold execPriorityPreemption
  rw [State.presses_of_one hq hp hv hlt]
  simp only [idle, Bool.true_or, if_true]
end

/-! ### Quanta -/

section
variable {s : State} {c : Nat} (hp : (s.ctx c).phase = .run) (hs : isSeq (coreOf c) = false) (hm : s.mates c = [c]) (hg : (s.ctx c).goingOut = false)
include hp hs hm hg

/-- Before the end of its quantum a team that no failed eviction has barred runs on (R53). -/
theorem execTeamQuantumExpiry_early (hb : (s.ctx c).barred = none) (h : s.now < (s.ctx c).quantum + s.quantumOf (s.ctx c).part) :
    execTeamQuantumExpiry c s = .next s := by
  simp [execTeamQuantumExpiry, hp, hs, hm, hg, State.runFreed, hb, Nat.not_le.2 h]

/-- At the end of its quantum, with no record ready, a team begins a new one (R53). -/
theorem execTeamQuantumExpiry_renews (h : (s.ctx c).quantum + s.quantumOf (s.ctx c).part ≤ s.now)
    (hr : (s.cluster (clusterOf (coreOf c))).ready = []) :
    execTeamQuantumExpiry c s = .next (s.modCtx c fun y => { y with quantum := s.now, promoted := false, barred := none }) := by
  simp [execTeamQuantumExpiry, hp, hs, hm, hg, h, hr]

/-- At the end of its quantum a team gives way to another that awaits pick-up (R53). -/
theorem execTeamQuantumExpiry_gives_way {r : RecRef} (h : (s.ctx c).quantum + s.quantumOf (s.ctx c).part ≤ s.now)
    (hr : (s.cluster (clusterOf (coreOf c))).ready = [r]) (ha : s.awaits (clusterOf (coreOf c)) r = true)
    (ht : ¬(r.team = (s.ctx c).team ∧ r.vf = (s.ctx c).vf ∧ 1 < r.tsize)) : execTeamQuantumExpiry c s = .next (s.preempt c 1) := by
  have other : (s.cluster (clusterOf (coreOf c))).ready.any (fun (r : RecRef) => s.awaits (clusterOf (coreOf c)) r &&
      !(decide (r.team = (s.ctx c).team) && decide (r.vf = (s.ctx c).vf) && decide (1 < r.tsize))) = true := by
    simp only [hr, List.any_cons, List.any_nil, ha, Bool.or_false, Bool.true_and, Bool.not_eq_true', ← Bool.decide_and, decide_eq_false_iff_not, and_assoc]
    exact ht
  rw [← State.preemptTeam_alone hm 1]
  unfold execTeamQuantumExpiry
  dsimp only
  rw [if_pos other, if_pos ⟨hp, by simp [hs], by simp [h], by simp [hm, hg]⟩]
end

/-! ### Promotion -/

section
variable {s : State} {cl : Nat} {r : RecRef} (hr : (s.cluster cl).ready = [r])
include hr

/-- After 16 quanta the one waiting record is promoted (R54). -/
theorem execTeamPromotion_due (ha : s.awaits cl r = true) (ht : r.tsize = 1) (h : (s.rank cl r).2.2 + 16 * s.quantumOf r.part ≤ s.now) :
    execTeamPromotion cl 0 s = .next (s.modCluster cl fun q => { q with ready := [{ r with promoted := true }] }) := by
  simp [execTeamPromotion, hr, ha, h, ht, State.modCluster]

/-- Before that it is not, and there is no other (R54). -/
theorem execTeamPromotion_early (h : s.now < (s.rank cl r).2.2 + 16 * s.quantumOf r.part) (i : Nat) : execTeamPromotion cl i s = .next s := by
  cases i with
  | zero => simp [execTeamPromotion, hr, Nat.not_le.2 h]
  | succ i => simp [execTeamPromotion, hr]
end

/-! ### Eviction -/

/-- A context that gives up its record is free, and the clusters and the save areas stay. -/
@[simp] theorem State.vacate_phase (s : State) (c : Nat) : ((s.vacate c).ctx c).phase = .idle := by
  simp only [State.vacate, State.ctx_modCore, State.ctx_modCtx_self]
@[simp] theorem State.vacate_cluster (s : State) (c cl : Nat) : (s.vacate c).cluster cl = s.cluster cl := rfl
@[simp] theorem State.vacate_saved (s : State) (c : Nat) : (s.vacate c).saved = s.saved := rfl

/-- What a save stores: the save area, and words 6 and 7 of the record (R49, R368). -/
def State.saveWrites (s : State) (c : Nat) (sv : SaveRef) : State :=
  ((s.writeArea c sv).recWrite (s.ctx c).vf (s.ctx c).rcd 6 (15 * 2 ^ 60 + sv.unit * 4096)).recWrite (s.ctx c).vf (s.ctx c).rcd 7
    (withState ((s.ctx c).words.toList.getD 7 0).toNat 6 0)

theorem State.saveWrites_stores (s : State) (c : Nat) (sv : SaveRef) : Stores s (s.saveWrites c sv) :=
  ((s.writeArea_stores c sv).trans (State.recWrite_stores ..)).trans (State.recWrite_stores ..)

theorem State.evictOne_cluster (s : State) (c : Nat) (sv : SaveRef) : (s.evictOne c sv).cluster (clusterOf (coreOf c)) =
    { (s.saveWrites c sv).cluster (clusterOf (coreOf c)) with
      ready := ((s.saveWrites c sv).cluster (clusterOf (coreOf c))).ready ++ [{ s.recRef c with evicted := some sv }] } := by
  unfold State.evictOne
  dsimp only
  rw [State.vacate_cluster, State.cluster_modCluster, if_pos rfl]
  rfl

/-- The saved context is free; its record awaits pick-up as EVICTED, last of its cluster, and its save area is listed (R49). -/
theorem State.evictOne_saves (s : State) (c : Nat) (sv : SaveRef) : let t := s.evictOne c sv
    (t.ctx c).phase = .idle ∧
      (t.cluster (clusterOf (coreOf c))).ready = (s.cluster (clusterOf (coreOf c))).ready ++ [{ s.recRef c with evicted := some sv }] ∧
      (t.saved.find sv.unit).isSome = true := by
  refine ⟨State.vacate_phase .., ?_, by simp [State.evictOne]⟩
  rw [State.evictOne_cluster, (s.saveWrites_stores c sv).cluster]

theorem evictAll_one {s : State} {c u : Nat} (h : s.freeRun (s.ctx c).part (s.saveUnits c) = some u) :
    evictAll [c] s = some (s.evictOne c ⟨coreOf c, u, s.saveUnits c⟩) := by
  simp only [evictAll, h]

/-- A team of one member that may be saved is saved where a run of the save pool is free, once its NEXTT results have landed (R49, R273). -/
theorem execEviction_saves {s t : State} {c u : Nat} (ht : t = s.modCtx c fun x => x.landAllNextt s.now) (hm : s.mates c = [c])
    (he : s.mayEvict c = true) (hu : t.freeRun (t.ctx c).part (t.saveUnits c) = some u) :
    execEviction c s = .next (t.evictOne c ⟨coreOf c, u, t.saveUnits c⟩) := by
  simp only [execEviction, hm, he, List.all_cons, List.all_nil, Bool.and_true, if_true, List.foldl_cons, List.foldl_nil, ← ht, evictAll_one hu]

/-! ### The selector -/

section
variable {s : State} {k : Nat} (hs : (s.core k).switching = none)
include hs

/-- A context held on an engine wait gives issue to the next ready one (R44). -/
theorem execContextSwitch_held {i c : Nat} (hi : (s.core k).issuing = some i) (hp : (s.ctx (k * 4 + i)).phase = .run)
    (hh : (s.ctx (k * 4 + i)).held = .engine ∨ (s.ctx (k * 4 + i)).held = .abr) (hg : s.goes (k * 4 + i) = false) (hn : s.nextReady k i = some c) :
    execContextSwitch k s = .next (s.modCore k fun q => { q with issuing := none, lastIssue := some i, switching := some (c, s.now + 2) }) := by
  simp [execContextSwitch, hs, hi, hp, Phase.gone, hh, hg, hn]

/-- With no holder the next ready context after the last one takes issue, the last one itself a cycle sooner (R44). -/
theorem execContextSwitch_none {c : Nat} (hi : (s.core k).issuing = none) (hn : s.nextReady k ((s.core k).lastIssue.getD 3) = some c) :
    execContextSwitch k s = .next (s.modCore k fun q => { q with
      issuing := none, switching := some (c, if (s.core k).lastIssue = some (c % 4) then s.now + 1 else s.now + 2) }) := by
  simp [execContextSwitch, hs, hi, hn, State.modCore]

/-- A holder whose record is gone, or frozen, gives issue to the next ready context, itself among them (R44). -/
theorem execContextSwitch_gone {i c : Nat} (hi : (s.core k).issuing = some i) (hp : (s.ctx (k * 4 + i)).phase ∈ [Phase.idle, .loading, .frozen])
    (hn : s.nextReady k i = some c) :
    execContextSwitch k s = .next (s.modCore k fun q => { q with
      issuing := none, lastIssue := some i, switching := some (c, if i = c % 4 then s.now + 1 else s.now + 2) }) := by
  have gone : (s.ctx (k * 4 + i)).phase.gone = true := by
    simp only [List.mem_cons, List.not_mem_nil, or_false] at hp
    rcases hp with hp | hp | hp <;> simp [hp, Phase.gone]
  simp [execContextSwitch, hs, hi, gone, hn]

/-- A holder that stops, or leaves, keeps issue until it is frozen or written back (R44). -/
theorem execContextSwitch_keeps {i : Nat} (hi : (s.core k).issuing = some i) (hp : (s.ctx (k * 4 + i)).phase ∈ [Phase.stopping, .leaving])
    (hh : (s.ctx (k * 4 + i)).held = .none) : execContextSwitch k s = .next s := by
  have stays : (s.ctx (k * 4 + i)).phase.gone = false := by
    simp only [List.mem_cons, List.not_mem_nil, or_false] at hp
    rcases hp with hp | hp <;> simp [hp, Phase.gone]
  simp [execContextSwitch, hs, hi, stays, hh]
end

/-- A switch ends in the cycle that it names (R44). -/
theorem execContextSwitch_ends {s : State} {k c t : Nat} (hs : (s.core k).switching = some (c, t)) (ht : t ≤ s.now) (hp : (s.ctx c).phase = .run) :
    execContextSwitch k s = .next (s.modCore k fun q => { q with switching := none, issuing := some (c % 4) }) := by
  simp [execContextSwitch, hs, ht, hp]

/-- A WFE whose bundle goes is released, and one whose bundle does not is not (R489). -/
theorem execWfeDeadline_wait {s : State} {c : Nat} (hw : (s.ctx c).wfe ≠ none) :
    (s.goes c = true → execWfeDeadline c s = .next (s.modCtx c fun x => { x with held := .none })) ∧
      (s.goes c = false → execWfeDeadline c s = .next s) := by
  have waits := Option.isSome_iff_ne_none.2 hw
  exact ⟨fun h => by simp [execWfeDeadline, waits, h], fun h => by simp [execWfeDeadline, h]⟩

end Sys2Proof.Machine
end

section
open Sys2Proof Sys2Proof.Machine

/-- Settles O50: each clause is one outcome of a scheduling event or of the selector. -/
theorem sequencerSchedules : Obligations.SequencerSchedules := by
  refine ⟨fun s cl r v hq hp hv hlt => ⟨fun hc hb => ?_, fun hc => ?_⟩, fun s c hp hs hm hb hg => ⟨fun h => ?_, fun h hr => ?_, fun r h hr ha ht => ?_⟩,
    fun s c p hp => State.preempt_run hp p, fun s cl i r hr ha ht => ⟨fun h => ?_, fun h => ?_⟩, fun s c u => ?_, fun s k i c hs hi hp hh hg hn => ?_,
    fun s k c hs hi hn => ?_, fun s k i c hs hi hp hn => ?_, fun s k i hs hi hp hh => ?_, fun s k c t hs ht hp => ?_, fun s c hw => ?_⟩
  · exact execPriorityPreemption_gives_way hq hp hv hlt hb hc
  · exact execPriorityPreemption_idle hq hp hv hlt hc
  · exact execTeamQuantumExpiry_early hp hs hm hg hb h
  · exact execTeamQuantumExpiry_renews hp hs hm hg h hr
  · exact execTeamQuantumExpiry_gives_way hp hs hm hg h hr ha ht
  · exact execTeamPromotion_due hr ha ht h
  · exact execTeamPromotion_early hr h i
  · intro t hm he hu
    exact ⟨_, _, execEviction_saves rfl hm he hu, rfl, State.evictOne_saves t c _⟩
  · exact execContextSwitch_held hs hi hp hh hg hn
  · exact execContextSwitch_none hs hi hn
  · exact execContextSwitch_gone hs hi hp hn
  · exact execContextSwitch_keeps hs hi hp hh
  · exact execContextSwitch_ends hs ht hp
  · exact execWfeDeadline_wait hw
end

section
/-! SUPPORT. How work enters a cluster and starts: requests, admission, pick-up and waits, one lemma for each outcome (R28, R31 to R33, R258 to R269). -/

namespace Sys2Proof.Machine

/-! ### Requests -/

/-- What a taken request leaves of the list. -/
def State.reqTaken (s : State) (cl : Nat) (q : List LaunchReq) : State := s.modCluster cl fun c => { c with reqs := q }

/-- A request that was looked at: its descriptor was read, and its status goes to the register that waits for it (R266). -/
def State.reqAnswered (s : State) (cl : Nat) (q : List LaunchReq) (r : LaunchReq) (st : Nat) : State :=
  ((s.reqTaken cl q).seenAt r.vf r.desc).deliver r.ctx r.seq (wide64 (BitVec.ofNat 64 st)) 0

/-- The partition that a request is for: HS's requests are for the partition of their core. -/
def State.reqPart (s : State) (r : LaunchReq) : Nat := (if r.vf = 0x7F then s.corePart r.core else s.partOf r.vf).getD 0

theorem State.seenAt_cluster (s : State) (vf va cl : Nat) : (s.seenAt vf va).cluster cl = s.cluster cl := by
  obtain ⟨m, h⟩ := s.seenAt_eq vf va
  rw [h]; rfl

theorem State.reqAnswered_cluster (s : State) (cl : Nat) (q : List LaunchReq) (r : LaunchReq) (st : Nat) :
    (s.reqAnswered cl q r st).cluster cl = { s.cluster cl with reqs := q } := by
  show ((s.reqTaken cl q).seenAt r.vf r.desc).cluster cl = _
  rw [State.seenAt_cluster, State.reqTaken, State.cluster_modCluster, if_pos rfl]

theorem State.reqTaken_eq {s : State} {cl : Nat} {r : LaunchReq} {q : List LaunchReq} (hq : (s.cluster cl).reqs = r :: q) :
    (s.modCluster cl fun c => { c with reqs := c.reqs.eraseIdx 0 }) = s.reqTaken cl q := by
  simp [State.reqTaken, State.modCluster, hq]

section
variable {s : State} {cl : Nat} {r : LaunchReq} {q : List LaunchReq} (hq : (s.cluster cl).reqs = r :: q) (hr : s.reqReady r = true)
include hq hr

theorem State.findIdx_reqReady : (s.cluster cl).reqs.findIdx? s.reqReady = some 0 := by simp [hq, List.findIdx?_cons, hr]

/-- A request whose context no longer runs its record is dropped as GONE and counted (R268, R269). -/
theorem execLaunchRequestArrival_gone (h : (s.ctx r.ctx).phase = .idle ∨ (s.ctx r.ctx).rcd ≠ r.rcd) :
    execLaunchRequestArrival cl s = .next (((s.reqTaken cl q).modCluster cl fun c => { c with errLaunch := satAdd c.errLaunch 1 }).postRec cl
      (s.mkRec stGONE 4 r.ctx 0 1 r.desc r.xb.toNat r.vf)) := by
  have head : (s.cluster cl).reqs[0]? = some r := by rw [hq]; rfl
  unfold execLaunchRequestArrival
  rw [State.findIdx_reqReady hq hr]
  dsimp only
  rw [head]
  dsimp only
  rw [if_pos h, State.reqTaken_eq hq]

/-- A request that is looked at is refused with its status and a record, or entered (R266). -/
theorem execLaunchRequestArrival_status (hp : (s.ctx r.ctx).phase ≠ .idle) (hc : (s.ctx r.ctx).rcd = r.rcd) {st : Nat} {ds : List W64}
    (h : s.launchStatus cl r = (st, ds)) :
    execLaunchRequestArrival cl s = .next (if st = stOK then
        (s.reqAnswered cl q r st).modCluster cl fun c => { c with dep := c.dep ++ [⟨ds, r.desc, r.xb.toNat % 2 ^ 32, r.xb.toNat / 2 ^ 32, r.vf,
          s.reqPart r, r.core, r.ctx, [], [], s.now⟩] }
      else (s.reqAnswered cl q r st).postRec cl (s.mkRec st 4 r.ctx 0 1 r.desc r.xb.toNat r.vf)) := by
  have head : (s.cluster cl).reqs[0]? = some r := by rw [hq]; rfl
  unfold execLaunchRequestArrival
  rw [State.findIdx_reqReady hq hr]
  dsimp only
  rw [head]
  dsimp only
  rw [if_neg (not_or.2 ⟨hp, not_not.2 hc⟩), h, State.reqTaken_eq hq]
  rfl
end

/-- A request of count 0 is refused with FAULT (R261). -/
theorem State.launchStatus_none {s : State} (cl : Nat) {r : LaunchReq} (h : r.xb.toNat / 2 ^ 32 = 0) : (s.launchStatus cl r).1 = stFAULT := by
  unfold State.launchStatus
  dsimp only
  split
  · rfl
  · rw [if_pos (.inr (.inr (.inr (.inl h))))]

/-! ### Admission -/

theorem State.scan_dep (s : State) (cl : Nat) : ((s.scan cl).cluster cl).dep = (s.cluster cl).dep.map s.look := by
  obtain ⟨m, h⟩ := State.foldl_mem State.inputsSeen (fun s d => s.inputsSeen_eq d) (s.cluster cl).dep s
  unfold State.scan
  rw [State.cluster_modCluster, if_pos rfl, h]
  rfl

/-- Record i of an entry is admitted when it is admissible and first (R260). -/
theorem execAdmission_admits {s t : State} {cl e i : Nat} {d : DepEntry} (ht : s.scan cl = t) (hd : (t.cluster cl).dep[e]? = some d)
    (ha : t.admissible cl d i = true) (hf : t.admitFirst cl e i d = true) :
    execAdmission cl e i s = .next ((t.setDep cl e { d with done := d.done ++ [i] }).takeIn cl d i) := by
  simp [execAdmission, ht, hd, ha, hf]

/-- A record whose inputs were not all found ready, behind a shut gate, just entered, or done with, is not admissible (R260, R265, R269). -/
theorem State.not_admissible {s : State} {cl i : Nat} {d : DepEntry} (h : d.mask i ≠ 7 ∨ s.gateOpen d.vf (cl / 8) = false ∨ s.now ≤ d.born ∨
    d.done.contains i = true) : s.admissible cl d i = false := by
  unfold State.admissible
  rcases h with h | h | h | h
  · simp only [decide_eq_false h, Bool.and_false, Bool.false_and]
  · simp [h]
  · simp [Nat.not_lt.2 h]
  · have shut : d.open.contains i = false := by
      rw [DepEntry.open, Bool.eq_false_iff]
      intro hi
      have := (List.mem_filter.1 (List.contains_iff_mem.1 hi)).2
      simp only [h, Bool.not_true, Bool.false_eq_true] at this
    rw [shut, Bool.false_and, Bool.false_and, Bool.false_and]

/-- A record that is not, waits (R260). -/
theorem execAdmission_waits {s t : State} {cl e i : Nat} {d : DepEntry} (ht : s.scan cl = t) (hd : (t.cluster cl).dep[e]? = some d)
    (h : t.admissible cl d i = false ∨ t.admitFirst cl e i d = false) : execAdmission cl e i s = .next t := by
  have : (t.admissible cl d i && t.admitFirst cl e i d) = false := Bool.and_eq_false_iff.2 h
  simp [execAdmission, ht, hd, this]

/-- The first record of the one entry of a table goes first when no other of the entry was found ready before it (R260). -/
theorem State.admitFirst_one {s : State} {cl : Nat} {d : DepEntry} (hd : (s.cluster cl).dep = [d])
    (h : ∀ j ∈ d.open, d.since d.first ≤ d.since j) : s.admitFirst cl 0 d.first d = true := by
  simp only [State.admitFirst, hd, List.mapIdx_cons, List.mapIdx_nil, List.all_cons, List.all_nil, Bool.and_true, id, List.all_eq_true]
  intro j hj
  have le : d.first ≤ j := by
    obtain ⟨n, _, rfl⟩ := List.mem_map.1 (List.mem_filter.1 hj).1
    exact Nat.le_add_right ..
  rcases Nat.lt_or_eq_of_le (h j hj) with lt | eq
  · simp [lt]
  · simp [eq, le]

/-- A record does not go first where another admissible one of its entry was found ready before it (R260). -/
theorem State.admitFirst_later {s : State} {cl e i j : Nat} {d : DepEntry} (hd : (s.cluster cl).dep[e]? = some d) (ha : s.admissible cl d j = true)
    (hlt : d.since j < d.since i) : s.admitFirst cl e i d = false := by
  have hj : j ∈ d.open := by
    simp only [State.admissible, Bool.and_eq_true] at ha
    exact List.contains_iff_mem.1 ha.1.1.1
  unfold State.admitFirst
  rw [List.all_eq_false]
  refine ⟨_, List.mem_iff_getElem?.2 ⟨e, by rw [List.getElem?_mapIdx, hd]; rfl⟩, ?_⟩
  simp only [id, List.all_eq_true, not_forall]
  refine ⟨j, hj, ?_⟩
  have h1 : ¬ d.since i < d.since j := by omega
  have h2 : ¬ d.since i = d.since j := by omega
  simp [ha, h1, h2]

/-! ### What a look at a table finds -/

/-- A look at the inputs of record j of an entry. -/
def State.lookAt (s : State) (d : DepEntry) (l : List (Nat × BitVec 3 × Nat)) (j : Nat) : List (Nat × BitVec 3 × Nat) :=
  if s.inputs d j = d.mask j then l else (j, s.inputs d j, s.now) :: l.filter fun (p : Nat × BitVec 3 × Nat) => decide (p.1 ≠ j)

/-- A look at record j notes what was found ready since, and touches no note of another record (R258). -/
theorem State.find_lookAt (s : State) (d : DepEntry) (l : List (Nat × BitVec 3 × Nat)) (i j : Nat) :
    (s.lookAt d l j).find? (fun p => decide (p.1 = i)) =
      if j = i ∧ s.inputs d i ≠ d.mask i then some (i, s.inputs d i, s.now) else l.find? fun p => decide (p.1 = i) := by
  by_cases hji : j = i
  · subst hji
    by_cases hm : s.inputs d j = d.mask j <;> simp [State.lookAt, hm]
  · have kept : (l.filter fun (p : Nat × BitVec 3 × Nat) => decide (p.1 ≠ j)).find? (fun p => decide (p.1 = i)) = l.find? fun p => decide (p.1 = i) := by
      rw [List.find?_filter]
      congr 1
      funext p
      by_cases hp : p.1 = i
      · simp [hp, Ne.symm hji]
      · simp [hp]
    by_cases hm : s.inputs d j = d.mask j
    · simp [State.lookAt, hm, hji]
    · simp only [State.lookAt, hm, if_false, hji, false_and, List.find?_cons, decide_false, kept]

/-- Looks at a list of records note each of them that has an input found ready since (R258). -/
theorem State.find_looks (s : State) (d : DepEntry) (is : List Nat) (l : List (Nat × BitVec 3 × Nat)) (i : Nat) :
    (is.foldl (s.lookAt d) l).find? (fun p => decide (p.1 = i)) =
      if i ∈ is ∧ s.inputs d i ≠ d.mask i then some (i, s.inputs d i, s.now) else l.find? fun p => decide (p.1 = i) := by
  induction is generalizing l with
  | nil => simp
  | cons j is ih =>
    rw [List.foldl_cons, ih, State.find_lookAt]
    by_cases hm : s.inputs d i = d.mask i
    · simp [hm]
    · by_cases hj : j = i
      · simp [hj, hm]
      · simp [hj, Ne.symm hj, hm]

/-- After a look a record that is not done with has the inputs that are ready, and the cycle in which the last of them was found (R258, R260). -/
theorem State.look_open {s : State} {d : DepEntry} {i : Nat} (h : d.open.contains i = true) : (s.look d).mask i = s.inputs d i ∧
    (s.look d).since i = if s.inputs d i = d.mask i then d.since i else s.now := by
  have mem : i ∈ d.open := List.contains_iff_mem.1 h
  have mask : (s.look d).mask i = (((d.open.foldl (s.lookAt d) d.found).find? fun p => decide (p.1 = i)).map (·.2.1)).getD 0 := rfl
  have since : (s.look d).since i = (((d.open.foldl (s.lookAt d) d.found).find? fun p => decide (p.1 = i)).map (·.2.2)).getD 0 := rfl
  rw [mask, since, State.find_looks]
  by_cases hm : s.inputs d i = d.mask i
  · rw [if_neg fun h => h.2 hm, if_pos hm, hm]
    exact ⟨rfl, rfl⟩
  · rw [if_pos ⟨mem, hm⟩, if_neg hm]
    exact ⟨rfl, rfl⟩

/-! ### Records that are taken in -/

/-- The address of record i of an entry (R257). -/
def DepEntry.recAddr (d : DepEntry) (i : Nat) : Nat := ((d.desc.getD 1 0).toNat % 2 ^ 48 * 64 + 64 * i) % 2 ^ 64

/-- A record that is NEW, well formed, and of its cluster's kind becomes READY, last of its cluster (R260). -/
theorem State.takeIn_ready {s : State} {cl : Nat} {d : DepEntry} {i : Nat} {r : Vector W64 8} (hr : s.recWords d.vf (d.recAddr i) = some r)
    (hn : r[7].toNat / 2 ^ 56 = 0) (hm : malformed r = false) (hd : r[0].getLsbD 61 = s.detCluster d.part cl) : ∃ ref : RecRef,
    ((s.takeIn cl d i).cluster cl).ready = (s.cluster cl).ready ++ [ref] ∧ ref.vf = d.vf ∧ ref.stamp = s.now ∧
      ref.prio = (r[0].extractLsb' 56 4).toNat ∧ ref.addr = d.recAddr i := by
  have kind : (malformed r || decide (r[0].getLsbD 61 ≠ s.detCluster d.part cl)) = false := by
    rw [hm, Bool.false_or]
    exact decide_eq_false (not_not.2 hd)
  unfold DepEntry.recAddr at hr
  unfold State.takeIn
  dsimp only
  rw [hr]
  dsimp only
  rw [if_neg (not_not.2 hn), kind, if_neg Bool.false_ne_true, State.cluster_modCluster, if_pos rfl, (State.recWrite_stores ..).cluster]
  exact ⟨_, rfl, rfl, rfl, rfl, rfl⟩

/-! ### Pick-up -/

/-- A record alone in the queue, of a team of one, that can be placed in context c is picked up there (R32, R33). -/
theorem execPickUp_one {s t : State} {c cl : Nat} {r : RecRef} (hcl : cl = clusterOf (coreOf c)) (ht : t = s.teamsSeen cl) (hs : isSeq (coreOf c) = false)
    (hr : r.tsize = 1) (hq : t.queue cl = [r]) (hp : t.placeable cl [] r = true) (hc : t.placement cl c [] r = some [(r, c)]) :
    execPickUp c s = .next (t.pickOne cl r c none) := by
  subst hcl ht
  simp [execPickUp, hs, hq, State.nextPick, hp, hc, hr]

/-- The context that has picked up a READY record holds the record's words (R33). -/
theorem State.pickOne_ctx {s : State} {cl c : Nat} {r : RecRef} {w : Vector W64 8} (hw : s.recWords r.vf r.addr = some w) (hm : malformed w = false)
    (he : r.evicted = none) : (s.pickOne cl r c none).ctx c = (Ctx.fresh w r.lquo).taken (s.ctx c) r c none w s.now := by
  unfold State.pickOne
  rw [hw]
  dsimp only
  rw [hm, if_neg Bool.false_ne_true, he]
  dsimp only
  rw [State.ctx_setCtx, if_pos rfl]

/-! ### The end of a load -/

theorem Table.mem_setL {β : Type} {l : List (Nat × β)} {k : Nat} {v : β} {p : Nat × β} (h : p ∈ Table.setL l k v) : p = (k, v) ∨ p ∈ l := by
  induction l with
  | nil => exact .inl (List.mem_singleton.1 h)
  | cons q r ih =>
    unfold Table.setL at h
    split at h
    · exact List.mem_cons.1 h
    · split at h
      · exact (List.mem_cons.1 h).imp id fun hr => List.mem_cons_of_mem _ hr
      · rcases List.mem_cons.1 h with rfl | hr
        · exact .inr List.mem_cons_self
        · exact (ih hr).imp id fun hr => List.mem_cons_of_mem _ hr

/-- A change of a context that keeps its team, its team's size and its function gives it no new mates. -/
theorem State.mates_modCtx {s : State} {c n : Nat} {f : Ctx → Ctx} (hs : (f (s.ctx c)).tsize = (s.ctx c).tsize) (ht : (f (s.ctx c)).team = (s.ctx c).team)
    (hv : (f (s.ctx c)).vf = (s.ctx c).vf) (h : n ∈ (s.modCtx c f).mates c) : n = c ∨ n ∈ s.mates c := by
  unfold State.mates at h ⊢
  dsimp only at h ⊢
  rw [State.ctx_modCtx_self, hs, ht, hv] at h
  obtain ⟨p, hp, rfl⟩ := List.mem_map.1 h
  obtain ⟨hl, hc⟩ := List.mem_filter.1 hp
  rcases Table.mem_setL hl with rfl | hl
  · exact .inl rfl
  · exact .inr (List.mem_map_of_mem (List.mem_filter.2 ⟨hl, hc⟩))

/-- A context whose load is complete: it runs, with no stop. -/
def Ctx.loaded (x : Ctx) (n k : Nat) : Ctx :=
  { x with phase := .run, stop := none, replay := true, held := .none, nextIssue := n
           gang := x.gang.map fun (g : GangItem) => { g with cyc := g.cyc + k } }

theorem State.resumeAll_loading {s : State} {c : Nat} (h : (s.ctx c).phase = .loading) : ∃ n k, s.resumeAll [c] = s.modCtx c fun x => x.loaded n k := by
  simp only [State.resumeAll, List.foldl_cons, List.foldl_nil, h, reduceCtorEq, if_false, State.resume, State.modCtx_modCtx]
  exact ⟨_, _, rfl⟩

theorem State.settlePreds_nil {s : State} {c : Nat} (h : (s.ctx c).preds = []) (n : Nat) : s.settlePreds c n = s := by
  cases n with
  | zero => rfl
  | succ n => simp [State.settlePreds, h]

/-- The load of a context that is no member of a gang is complete, with no pre-emption of its team under way: it runs (R33). -/
theorem execPickUpLoadComplete_one {s : State} {c : Nat} (hg : s.gang (s.leaderOf c) = [c]) (hp : (s.ctx c).phase = .loading)
    (hr : (s.ctx c).preds = []) (hm : ∀ m ∈ c :: s.mates c, (s.ctx m).goingOut = false) : ∃ n k,
    execPickUpLoadComplete c s = .next (s.modCtx c fun x => { x.loaded n k with replay := x.save.isSome, save := none }) := by
  obtain ⟨n, k, hl⟩ := State.resumeAll_loading hp
  refine ⟨n, k, ?_⟩
  have stays : ((s.modCtx c fun x => x.loaded n k).mates c).any (fun m => ((s.modCtx c fun x => x.loaded n k).ctx m).goingOut) = false := by
    refine List.any_eq_false.2 fun m hmem => ?_
    rw [State.ctx_modCtx]
    split
    · simp [Ctx.loaded, Ctx.goingOut, Ctx.plan]
    · next hne => simp [hm m (List.mem_cons_of_mem _ ((State.mates_modCtx rfl rfl rfl hmem).resolve_left hne))]
  unfold execPickUpLoadComplete
  rw [hg]
  simp only [List.contains_cons, beq_self_eq_true, Bool.true_or, List.all_cons, hp, decide_true, List.all_nil, Bool.and_self, if_true, List.foldl_cons,
    List.foldl_nil, hl, stays, Bool.false_eq_true, if_false]
  rw [State.settlePreds_nil (by simpa [Ctx.loaded] using hr), State.modCtx_modCtx]
  rfl

/-! ### Waits -/

section
variable {s : State} {cl i : Nat} {r : RecRef} {w : Vector W64 8} (hi : (s.cluster cl).waiting[i]? = some r) (hw : s.recWords r.vf r.addr = some w)
  (hm : malformed w = false)
include hi hw hm

/-- A waiting record that is well formed becomes READY when its condition holds, waits on while it does not, and faults where its wait word fails
translation (R28, R31). -/
theorem execWaitConditionMet_wellFormed :
    let seen := s.seenAt r.vf r.addr
    let gone (u : State) : State := u.modCluster cl fun q => { q with waiting := q.waiting.eraseIdx i }
    execWaitConditionMet cl i s = .next (match s.waitMet r.vf w[6] w[5] with
      | none => (gone seen).faultRecord cl (cl / 8 * 64 * 4 + cl % 8 * 8 * 4) r.vf r.addr cXLAT false
      | some false => seen.waitSeen r.vf w[6]
      | some true => ((gone (seen.waitSeen r.vf w[6])).recWrite r.vf r.addr 7 (withState w[7].toNat 1 0)).modCluster cl fun q =>
          { q with ready := q.ready ++ [{ r with stamp := s.now }] }) := by
  unfold execWaitConditionMet
  rw [hi]
  dsimp only
  rw [hw]
  dsimp only
  rw [hm]
  rfl
end

end Sys2Proof.Machine
end

section
open Sys2Proof Sys2Proof.Machine

/-- Settles O49: each clause is one outcome of a request, an admission, a pick-up or a wait. -/
theorem sequencerTakesWork : Obligations.SequencerTakesWork := by
  refine ⟨?_, fun s cl r h => State.launchStatus_none cl h, ?_, ?_, fun s d i h => State.look_open h,
    fun s cl d i r hr hn hm hd => State.takeIn_ready hr hn hm hd, ?_, ?_, ?_, ?_, ?_, ?_⟩
  · intro s cl r q hq hr s1
    refine ⟨fun h => execLaunchRequestArrival_gone hq hr h, fun st ds hp hc h => ?_⟩
    have outcome : exec (.launchRequestArrival cl) s = _ := execLaunchRequestArrival_status hq hr hp hc h
    refine ⟨fun hst => ?_, fun hst => ?_⟩
    · rw [outcome, if_neg hst]
      rfl
    · rw [outcome, if_pos hst]
      refine ⟨_, s.reqPart r, rfl, rfl, rfl, ?_, ?_⟩
      · rw [State.cluster_modCluster, if_pos rfl, State.reqAnswered_cluster]
      · rw [State.cluster_modCluster, if_pos rfl, State.reqAnswered_cluster]
  · intro s cl d t hd hcount hdone hmask hgate hborn hmin
    have isOpen : d.first ∈ d.open := by
      refine List.mem_filter.2 ⟨List.mem_map.2 ⟨0, List.mem_range.2 hcount, rfl⟩, ?_⟩
      rw [hdone]
      rfl
    have admissible : t.admissible cl d d.first = true := by simp [State.admissible, isOpen, hmask, hgate, hborn]
    have admitted := execAdmission_admits (e := 0) rfl (by rw [hd]; rfl) admissible (State.admitFirst_one hd hmin)
    rwa [hdone] at admitted
  · intro s cl e i d t hd h
    refine execAdmission_waits rfl hd ?_
    rcases h with h | h | h | h | ⟨j, ha, hlt⟩
    · exact .inl (State.not_admissible (.inl h))
    · exact .inl (State.not_admissible (.inr (.inl h)))
    · exact .inl (State.not_admissible (.inr (.inr (.inl h))))
    · exact .inl (State.not_admissible (.inr (.inr (.inr h))))
    · exact .inr (State.admitFirst_later hd ha hlt)
  · intro s c r cl t hs hr hq hp hc
    exact execPickUp_one rfl rfl hs hr hq hp hc
  · intro s cl
    refine ⟨s.scan_dep cl, fun h => ?_, rfl⟩
    rw [State.scanAll, h]
    rfl
  · intro s cl c r w hw hm he x
    have hx : x = (Ctx.fresh w r.lquo).taken (s.ctx c) r c none w s.now := State.pickOne_ctx hw hm he
    rw [hx]
    exact ⟨rfl, rfl, rfl, rfl, rfl, rfl, rfl, rfl, rfl, rfl, rfl, rfl⟩
  · intro s c hg hp hr _ hm
    obtain ⟨n, k, h⟩ := execPickUpLoadComplete_one hg hp hr hm
    refine ⟨_, h, ?_⟩
    rw [State.ctx_modCtx_self]
    exact ⟨rfl, rfl, rfl, rfl⟩
  · intro s cl i r w hi hw hm seen looked gone
    have outcome : exec (.waitConditionMet cl i) s = _ := execWaitConditionMet_wellFormed hi hw hm
    refine ⟨fun h => ?_, fun h => ?_, fun h => ?_⟩
    all_goals rw [outcome, h]
  · intro s vf w6 a h
    simp only [State.waitMet, h]
    rfl
end

section
/-! SUPPORT. Every instruction is read back from its word (R56 to R58, R219). -/

namespace Sys2Proof.Laws.RoundTrip

/-- Decoding undoes encoding, by the row of each instruction; an event has no word. -/
theorem decode_encode (i : Instr) : Statement i := by
  cases i with
  | nop => exact nop
  | add => exact add _
  | sub => exact sub _
  | addr => exact addr _ _
  | and => exact and _
  | or => exact or _
  | xor => exact xor _
  | shl => exact shl _ _
  | shr => exact shr _ _
  | sra => exact sra _ _
  | mul => exact mul _
  | mulh => exact mulh _ _
  | min => exact min _ _
  | max => exact max _ _
  | cmp => exact cmp _ _
  | sel => exact sel _ _
  | clz => exact clz _ _
  | popc => exact popc _ _
  | movx => exact movx _ _
  | addi => exact addi _
  | andi => exact andi _
  | ori => exact ori _
  | xori => exact xori _
  | shli => exact shli _ _ _
  | shri => exact shri _ _ _
  | srai => exact srai _ _ _
  | cmpi => exact cmpi _
  | li => exact li _ _
  | lih => exact lih _ _
  | div => exact div _ _
  | fadd => exact fadd _ _
  | fsub => exact fsub _ _
  | fmul => exact fmul _ _
  | fma => exact fma _ _ _
  | fdiv => exact fdiv _ _
  | fsqrt => exact fsqrt _ _
  | frsq => exact frsq _ _
  | fcmp => exact fcmp _ _
  | fmin => exact fmin _
  | fmax => exact fmax _
  | fcvt => exact fcvt _ _
  | fclass => exact fclass _
  | brc => exact brc _ _ _
  | vadd => exact vadd _ _
  | vsub => exact vsub _ _
  | vmul => exact vmul _ _
  | vfma => exact vfma _ _
  | vmin => exact vmin _ _
  | vmax => exact vmax _ _
  | vand => exact vand _
  | vor => exact vor _
  | vxor => exact vxor _
  | vshl => exact vshl _
  | vshr => exact vshr _ _
  | vcmp => exact vcmp _ _
  | vsel => exact vsel _ _
  | vcvt => exact vcvt _ _
  | vred => exact vred _ _
  | vperm => exact vperm _
  | vbcast => exact vbcast _ _
  | vexp2 => exact vexp2 _
  | vlog2 => exact vlog2 _
  | vrcp => exact vrcp _
  | vrsq => exact vrsq _
  | vquant => exact vquant _ _
  | vdeq => exact vdeq _ _
  | qop => exact qop _ _
  | gset => exact gset _ _
  | gseed => exact gseed _
  | ggen => exact ggen _ _ _
  | cpy => exact cpy _
  | cpys => exact cpys _
  | cpyg => exact cpyg _
  | cpyr => exact cpyr _
  | cpyw => exact cpyw _
  | ld => exact ld _ _
  | st => exact st _ _
  | ldv => exact ldv _
  | stv => exact stv _
  | ldg => exact ldg _ _
  | stg => exact stg _ _
  | probe => exact probe _ _
  | lock => exact lock _ _
  | unlock => exact unlock _
  | pref => exact pref _ _ _ _
  | drain => exact drain
  | fenceo => exact fenceo
  | fencer => exact fencer _ _
  | atom => exact atom _ _
  | ratom => exact ratom _ _
  | rld => exact rld _ _
  | rst => exact rst _ _
  | stver => exact stver _
  | owne => exact owne _
  | ownt => exact ownt _
  | barm => exact barm _
  | cwait => exact cwait _
  | mcall => exact mcall _ _
  | mwait => exact mwait _ _
  | mver => exact mver _ _
  | mpwr => exact mpwr _
  | mprd => exact mprd _
  | br => exact br _
  | brl => exact brl _
  | jr => exact jr _
  | ret => exact ret
  | jrL => exact jrL _
  | loop => exact loop _ _ _
  | bucket => exact bucket _
  | nextt => exact nextt _
  | suspend => exact suspend _ _
  | tend => exact tend
  | launch => exact launch _
  | raise => exact raise _
  | post => exact post _
  | qpop => exact qpop _
  | dispatch => exact dispatch _
  | agree => exact agree _ _
  | abr => exact abr _ _ _
  | abrp => exact abrp _ _ _ _
  | ares => exact ares _ _
  | coll => exact coll _
  | trap => exact trap _
  | rte => exact rte _ _
  | wfe => exact wfe _ _
  | dbrk => exact dbrk _
  | srd => exact srd _ _
  | swr => exact swr _ _
  | pfxi => exact pfxi _
  | pfxp => exact pfxp _ _
  | mend => exact mend
  | wload => exact wload _ _ _ _ _
  | wgen => exact wgen _ _ _
  | astream => exact astream _ _ _ _ _ _
  | agen => exact agen _ _ _ _ _ _ _
  | asel => exact asel _
  | aclr => exact aclr _ _
  | adrain => exact adrain _ _ _ _ _ _ _ _
  | ragg => exact ragg _ _
  | zskip => exact zskip _
  | loopm => exact loopm _ _ _ _
  | mbr => exact mbr _ _ _
  | padd => exact padd _ _ _ _
  | _ => exact eventRow _ rfl rfl

end Sys2Proof.Laws.RoundTrip
end

section
open Sys2Proof Sys2Proof.Machine

/-- Settles O1, row by row of the encoding tables. -/
theorem encodeDecodeAgree : Obligations.EncodeDecodeAgree := fun i => Laws.RoundTrip.decode_encode i

/-- Settles O2: the decoder evaluates on each word. -/
theorem wordsDecode : Obligations.WordsDecode := by
  unfold Obligations.WordsDecode
  decide
end

section
/-! SUPPORT. What every slot keeps to: a false condition leaves it no effect (R65), it makes one result at most, and it takes one branch at most (R78, R314). -/

namespace Sys2Proof.Machine

/-- What the slots of the instructions have in common, whatever they do. -/
structure Slot.Frugal (e : Env) (sl : Slot) : Prop where
  idle : e.cond = false → sl.eff = id
  nres : sl.nres ≤ 1
  branch : sl.takenK = none ∨ sl.takenY = none

theorem Env.padded_le (e : Env) : e.padded ≤ 1 := by
  unfold Env.padded
  split <;> omega

/-- A completed slot is frugal where the slot that it completes makes one result and takes one branch at most. -/
theorem Slot.finish_frugal {sl : Slot} {e : Env} {ops : List Opnd} {psn : List (W64 × Nat)} (hn : sl.nres ≤ 1) (hb : sl.takenK = none ∨ sl.takenY = none) :
    (sl.finish e ops psn).Frugal e := by
  refine ⟨fun h => finish_eff_false sl e ops psn h, ?_, ?_⟩
  all_goals
    unfold Slot.finish
    dsimp only
    split
  · exact hn
  · exact Nat.zero_le 1
  · exact hb
  · exact .inl rfl

/-- Beside its reads and its latches, nothing of a slot counts here. -/
theorem Slot.Frugal.congr {e : Env} {sl tl : Slot} (h : sl.Frugal e) (he : tl.eff = sl.eff) (hn : tl.nres = sl.nres) (hk : tl.takenK = sl.takenK)
    (hy : tl.takenY = sl.takenY) : tl.Frugal e :=
  ⟨fun hc => he.trans (h.idle hc), hn ▸ h.nres, by rw [hk, hy]; exact h.branch⟩

theorem Slot.frugal_plain {e : Env} {sl : Slot} (he : sl.eff = id) (hn : sl.nres = 0) (hk : sl.takenK = none) : sl.Frugal e :=
  ⟨fun _ => he, hn ▸ Nat.zero_le 1, .inl hk⟩

theorem vArithSlot_frugal (e : Env) (legal : Bool) (op : Nat) (o : R3) (v : BitVec 4) : (vArithSlot e legal op o v).Frugal e := by
  unfold vArithSlot vVVV
  dsimp only
  split
  all_goals exact Slot.finish_frugal (Nat.le_refl 1) (.inl rfl)

theorem agreedSlot_frugal (e : Env) (rm ra : BitVec 5) (ofs : BitVec 11) (predict : Option Bool) : (agreedSlot e rm ra ofs predict).Frugal e := by
  unfold agreedSlot
  dsimp only
  repeat' split
  all_goals exact Slot.finish_frugal (Nat.zero_le 1) (.inr rfl)

theorem Env.loadSlot_frugal (e : Env) {sl : Slot} (h : sl.takenK = none) (ops : List Opnd) (psn : List (W64 × Nat)) (f : File) (d : BitVec 5) (els : List Elem)
    (lat : Nat) (own : Bool) : (e.loadSlot sl ops psn f d els lat own).Frugal e := by
  refine Slot.finish_frugal ?_ (.inl h)
  dsimp only
  split
  · exact Nat.le_refl 1
  · exact e.padded_le

theorem slotMovx_frugal (o : R2) (v : BitVec 4) (s : State) : (slotMovx o v s).Frugal s.env := by
  unfold slotMovx
  dsimp only
  split
  · exact (Slot.finish_frugal (Nat.le_refl 1) (.inl rfl)).congr rfl rfl rfl rfl
  · exact Slot.finish_frugal (Nat.le_refl 1) (.inl rfl)

theorem slotVbcast_frugal (o : R3) (ln : Bool) (s : State) : (slotVbcast o ln s).Frugal s.env := by
  unfold slotVbcast
  dsimp only
  split
  all_goals exact Slot.finish_frugal (Nat.le_refl 1) (.inl rfl)

theorem slotLdg_frugal (o : R3) (v : BitVec 4) (s : State) : (slotLdg o v s).Frugal s.env := by
  unfold slotLdg
  dsimp only
  split
  · exact Slot.finish_frugal (Nat.zero_le 1) (.inl rfl)
  · exact Env.loadSlot_frugal s.env rfl ..

/-- A remote STV sends its lines under a true condition alone. -/
theorem slotStv_frugal (o : MO) (s : State) : (slotStv o s).Frugal s.env := by
  unfold slotStv
  dsimp only
  split
  · next h =>
    refine ⟨fun hc => ?_, (Slot.finish_frugal (Nat.zero_le 1) (.inl rfl)).nres, (Slot.finish_frugal (Nat.zero_le 1) (.inl rfl)).branch⟩
    simp [hc] at h
  · exact Slot.finish_frugal (Nat.zero_le 1) (.inl rfl)

/-- Every slot is frugal: by its own form, or as one that makes no result, one, or one where a deterministic queue pads it (R276). -/
theorem slotOf_frugal {i : Instr} (h : isSlot i = true) (s : State) : (slotOf i s).Frugal s.env := by
  cases i
  case movx => exact slotMovx_frugal ..
  case vadd | vsub | vmul => exact vArithSlot_frugal ..
  case vbcast => exact slotVbcast_frugal ..
  case ld | ldv => exact Env.loadSlot_frugal s.env rfl ..
  case ldg => exact slotLdg_frugal ..
  case stv => exact slotStv_frugal ..
  case mcall => exact (Slot.finish_frugal (Nat.zero_le 1) (.inl rfl)).congr rfl rfl rfl rfl
  case abr m a ofs => exact agreedSlot_frugal s.env m a ofs none
  case abrp p m a ofs => exact agreedSlot_frugal s.env (m.setWidth 5) a ofs (some p)
  case brc => exact Slot.finish_frugal (Nat.zero_le 1) (.inl rfl)
  case barm | br | cpy | cpys | cpyg | cpyr | cpyw | cwait | dbrk | drain | fenceo | fencer | jr | loop | mpwr | mwait | nextt | owne | ownt | pref | ret | rst | st |
      stg | suspend | swr | tend | trap | unlock => exact Slot.finish_frugal (Nat.zero_le 1) (.inr rfl)
  case atom | coll | dispatch | launch | lock | post | probe | qpop | raise | ratom | rld | rte | stver =>
    exact Slot.finish_frugal s.env.padded_le (.inr rfl)
  case nop | pfxi | pfxp => exact Slot.frugal_plain rfl rfl rfl
  all_goals cases h
  all_goals exact Slot.finish_frugal (Nat.le_refl 1) (.inr rfl)

/-! ### The bundle of one slot (log 6) -/

/-- On its own, without a prefix, the prefixes of a slot are in order. -/
theorem State.alone_noPrefix {s : State} (checked : s.iss.checked = false) (pfxi : s.iss.pfxi = none) (pfxp : s.iss.pfxp = none)
    (bad : s.iss.pfxiBad = false) (sl : Slot) : (sl.prefixBad s.alone.env || s.alone.iss.pfxiBad) = false := by
  simp [Slot.prefixBad, State.env, State.alone, checked, pfxi, pfxp, bad]

@[simp] theorem State.alone_pfxiBad (s : State) : s.alone.iss.pfxiBad = s.iss.pfxiBad := by unfold State.alone; split <;> rfl

/-- ILLEGAL_PREFIX comes after ILLEGAL_INSTR alone (R67, R68). -/
theorem verdict_prefix (x : Ctx) (now : Nat) {sl : Slot} (hl : sl.legal = true) (hv : sl.illVal = none) : verdict x now [sl] true = .trap cPREFIX 0 := by
  have legal : sl.illegal x = none := by simp [Slot.illegal, hl, hv]
  simp [verdict, legal]

section
variable {x : Ctx} {now : Nat} {sl : Slot} {bad : Bool} (hi : x.inflight = []) (hp : x.preds = [])
include hi

theorem Ctx.ilock_none (rs : List (File × Nat)) : x.ilock rs = false := by simp [Ctx.ilock, hi]

/-- ILLEGAL_INSTR comes first, by the word of the slot or by an operand's value (R67, R68). -/
theorem verdict_illegal {a : W64} (h : sl.legal = false ∧ a = 0 ∨ sl.legal = true ∧ sl.illVal = some a) :
    verdict x now [sl] bad = .trap cILLEGAL a := by
  have found : sl.illegal x = some a := by
    rcases h with ⟨hl, rfl⟩ | ⟨hl, hv⟩
    · simp [Slot.illegal, hl]
    · simp [Slot.illegal, hl, hv, Ctx.ilock_none hi]
  simp [verdict, found]

/-- PRIV comes third, before any hold (R68, R94). -/
theorem verdict_priv (hl : sl.legal = true) (hv : sl.illVal = none) (h : sl.priv = true ∨ sl.privVal = true) :
    verdict x now [sl] false = .trap cPRIV 0 := by
  have legal : sl.illegal x = none := by simp [Slot.illegal, hl, hv]
  have fails : (sl.priv || (sl.privVal && !x.ilock sl.reads)) = true := by
    rw [Ctx.ilock_none hi]
    simpa using h
  simp [verdict, legal, fails]

include hp

/-- With no hold the lowest of a slot's causes stops it, before a kill (R68). -/
theorem verdict_cause {e : Env} {u : Nat × W64} (hf : sl.Frugal e) (hl : sl.legal = true) (hv : sl.illVal = none) (hq : sl.priv = false)
    (hw : sl.privVal = false) (hh : sl.hold = .none) (he : sl.ecc = none) (hu : lowest sl.traps = some u) :
    verdict x now [sl] false = .trap u.1 u.2 := by
  have legal : sl.illegal x = none := by simp [Slot.illegal, hl, hv]
  have early : x.early now sl.reads = false := by simp [Ctx.early, hi]
  have late : x.lateParts now = false := by simp [Ctx.lateParts, hi]
  have room : ¬48 < sl.nres := by have := hf.nres; omega
  rcases hf.branch with hb | hb <;>
    simp [verdict, legal, hq, hw, hh, he, hu, hb, hi, hp, early, late, room, Ctx.ilock_none hi]

end

/-- The cause below all others of a list is the lowest one. -/
theorem lowest_of_below {l : List (Nat × W64)} {u : Nat × W64} (hu : u ∈ l) (h : ∀ t ∈ l, t ≠ u → u.1 < t.1) : lowest l = some u := by
  cases hl : lowest l with
  | none =>
    cases l with
    | nil => cases hu
    | cons t r =>
      unfold lowest at hl
      split at hl
      · cases hl
      · split at hl <;> cases hl
  | some w =>
    obtain ⟨hw, hle⟩ := lowest_le l w hl
    by_cases hwu : w = u
    · rw [hwu]
    · exact absurd (hle u hu) (Nat.not_le.2 (h w hw hwu))

/-- A trap of one slot in a context with no prediction is taken at once, at the program counter (R311). -/
theorem State.stopFor_trap {s : State} {c cause : Nat} (hp : (s.ctx c).preds = []) (hc : cause ≠ cMULTI) (a : W64) (sls : List Slot) :
    s.stopFor c (.trap cause a) sls = takeTrap c cause a (s.ctx c).pc s := by
  simp [State.stopFor, trapOrWait, hp, hc]

/-- The bundle of one slot that traps. -/
theorem exec_alone_trap {i : Instr} {s : State} (h : isSlot i = true) (hi : ∀ p, i ≠ .pfxi p) (hm : ∀ m r, i ≠ .pfxp m r)
    (checked : s.iss.checked = false) (hp : (s.ctx s.cur).preds = []) {cause : Nat} {a : W64} (hc : cause ≠ cMULTI)
    (hv : verdict (s.ctx s.cur) s.alone.now [slotOf i s.alone] ((slotOf i s.alone).prefixBad s.alone.env || s.iss.pfxiBad) = .trap cause a) :
    exec i s = .next (takeTrap s.cur cause a (s.ctx s.cur).pc s.alone) := by
  have verd : verdict (s.alone.ctx s.alone.cur) s.alone.now [slotOf i s.alone]
      ((slotOf i s.alone).prefixBad s.alone.env || s.alone.iss.pfxiBad) = .trap cause a := by simpa using hv
  rw [exec_slot h hi hm, issue_stop (slotOf i) s checked verd (by simp), State.stopFor_trap (by simpa using hp) hc]
  simp

end Sys2Proof.Machine
end

section
open Sys2Proof Sys2Proof.Machine

/-- Settles O10: nothing speaks against the one slot, so that its verdict is to go. -/
theorem loneSlotIssues : Obligations.LoneSlotIssues := by
  intro i s hslot hi hm checked pfxi pfxp bad inflight preds sl hsl legal ill priv privVal hold traps ecc kill
  subst hsl
  have frugal := slotOf_frugal hslot s.alone
  have go : verdict (s.alone.ctx s.alone.cur) s.alone.now [slotOf i s.alone]
      ((slotOf i s.alone).prefixBad s.alone.env || s.alone.iss.pfxiBad) = .go := by
    rw [State.alone_noPrefix checked pfxi pfxp bad]
    exact verdict_one _ _ _ (by simpa using inflight) (by simpa using preds) legal ill priv privVal hold traps ecc kill
      (frugal.nres.trans (by decide)) frugal.branch
  rw [exec_slot hslot hi hm, issue_go (slotOf i) s checked go]

/-- Settles O11: the verdicts on one slot, in the order of their causes. -/
theorem loneSlotTraps : Obligations.LoneSlotTraps := by
  intro i s hslot hi hm checked inflight preds sl hsl
  subst hsl
  have trap {cause : Nat} {a : W64} := exec_alone_trap (cause := cause) (a := a) hslot hi hm checked preds
  refine ⟨fun legal => ?_, fun a legal ill => ?_, fun legal ill bad => ?_, fun legal ill pre bad priv => ?_,
    fun u legal ill pre bad priv privVal hold hu ecc below multi => ?_⟩
  · exact trap (by decide) (verdict_illegal inflight (.inl ⟨legal, rfl⟩))
  · exact trap (by decide) (verdict_illegal inflight (.inr ⟨legal, ill⟩))
  · refine trap (by decide) ?_
    rw [show ((slotOf i s.alone).prefixBad s.alone.env || s.iss.pfxiBad) = true by simpa using bad]
    exact verdict_prefix _ _ legal ill
  · refine trap (by decide) ?_
    rw [pre, bad]
    exact verdict_priv inflight legal ill priv
  · refine trap multi ?_
    rw [pre, bad]
    exact verdict_cause inflight preds (slotOf_frugal hslot s.alone) legal ill priv privVal hold ecc (lowest_of_below hu below)
end

section
/-! SUPPORT. How a bundle is grouped into items, presented, judged and run (R56, R60, R64 to R68, R76, R182). -/

namespace Sys2Proof.Machine

/-! ### The step that presents a bundle -/

/-- An empty agenda, and the turn of a context without a gang: the step presents its bundle (log 6). -/
theorem step_turn {s : State} {c : Nat} (ha : s.agenda = []) (ht : s.turn = some c) (hg : (s.gang c).length ≤ 1) : step s = issueBundle exec c s := by
  simp only [step, ha, freeStep, ht, takeTurn, if_pos hg]

/-- The fetch of a bundle marks leaf entries in memory, and does nothing else; a follower of a gang fetches nothing (R168, R275). -/
theorem State.fetched_eq (s : State) (c : Nat) : ∃ m, s.fetched c = { s with mem := m } ∧ ((s.ctx c).leader.isSome = true → m = s.mem) := by
  unfold State.fetched
  split
  · exact ⟨s.mem, rfl, fun _ => rfl⟩
  · next h => exact ⟨_, rfl, fun hl => absurd hl h⟩

@[simp] theorem State.fetched_ctx (s : State) (c d : Nat) : (s.fetched c).ctx d = s.ctx d := by
  obtain ⟨m, h, -⟩ := s.fetched_eq c
  rw [h]
  rfl

@[simp] theorem State.fetched_now (s : State) (c : Nat) : (s.fetched c).now = s.now := by
  obtain ⟨m, h, -⟩ := s.fetched_eq c
  rw [h]

/-- A bundle of a context without a leader whose verdict is to go runs with the words at its program counter (R56, R76). -/
theorem issueBundle_go {ex : Instr → State → Host.Outcome State Fault Refusal} {s : State} {c : Nat} {p : Presented} {ws : List (Nat × W32)}
    (ho : (s.fetched c).outlook c = some p) (hv : p.v = .go) (hl : (s.ctx c).leader = none) (hf : (s.fetched c).fetch c (s.ctx c).pc = .ok ws) :
    issueBundle ex c s = runBundle ex p ws := by
  have words : (s.fetched c).nextWords c = ws := by rw [State.nextWords, State.fetched_ctx, hf]
  unfold issueBundle
  dsimp only
  rw [ho]
  dsimp only
  rw [hv]
  dsimp only
  rw [State.fetched_ctx, hl, words]

/-- A bundle that presents a trap takes it, in a context with no prediction; a context that goes on running presents again in the next cycle (R67, R311). -/
theorem issueBundle_trap {ex : Instr → State → Host.Outcome State Fault Refusal} {s : State} {c cause : Nat} {p : Presented} {v : W64}
    (ho : (s.fetched c).outlook c = some p) (hv : p.v = .trap cause v) (hc : cause ≠ cMULTI) (hp : (p.s.ctx c).preds = []) :
    let t := { (takeTrap c cause v (p.s.ctx c).pc p.s) with iss := Issue.none }
    issueBundle ex c s = .next (if (t.ctx c).phase = .run then t.modCtx c fun x => { x with nextIssue := max x.nextIssue (s.now + 1) } else t) := by
  unfold issueBundle
  dsimp only
  rw [ho]
  dsimp only
  rw [hv]
  dsimp only
  rw [State.stopFor_trap hp hc, State.fetched_now]

/-- A context without a leader presents the words that its fetch gives. -/
theorem State.presentNext_fetched {s : State} {ws : List (Nat × W32)} (hl : (s.ctx s.cur).leader = none) (hf : s.fetch s.cur (s.ctx s.cur).pc = .ok ws) :
    s.presentNext = s.presentWords ws none := by
  simp only [State.presentNext, hl, hf]

/-! ### Items -/

/-- The items of a presented bundle are those of its words. -/
theorem State.presentWords_items (s : State) (ws : List (Nat × W32)) (lead : Option (Option Nat × Option Nat)) :
    ((s.presentWords ws lead).items.map fun q => q.1) = (itemsOf ws [] 0).1 := by
  simp [State.presentWords, List.map_map, Function.comp_def]

/-- What the decoder answers, as the grouping of items asks it. -/
theorem itemsOf_pfxi {w : W32} {p : BitVec 21} (h : decodeSlot w = some (.pfxi p)) (a : Nat) (r : List (Nat × W32)) (pre : List Instr) (n : Nat) :
    itemsOf ((a, w) :: r) pre n = itemsOf r (pre ++ [.pfxi p]) n := by
  rw [itemsOf, h]

theorem itemsOf_pfxp {w : W32} {m : BitVec 3} {g : BitVec 5} (h : decodeSlot w = some (.pfxp m g)) (a : Nat) (r : List (Nat × W32)) (pre : List Instr)
    (n : Nat) : itemsOf ((a, w) :: r) pre n = itemsOf r (pre ++ [.pfxp m g]) n := by
  rw [itemsOf, h]

/-- A word that is no prefix ends an item, with the prefixes before it. -/
theorem itemsOf_slot {w : W32} (hi : ∀ p, decodeSlot w ≠ some (.pfxi p)) (hp : ∀ m g, decodeSlot w ≠ some (.pfxp m g)) (a : Nat) (r : List (Nat × W32))
    (pre : List Instr) (n : Nat) : itemsOf ((a, w) :: r) pre n =
      (⟨a, pre, decodeSlot w, n⟩ :: (itemsOf r [] (if clsOf w = .vec then n + 1 else n)).1,
        (itemsOf r [] (if clsOf w = .vec then n + 1 else n)).2 || twice pre) := by
  rw [itemsOf]
  split
  · next h => exact absurd h (hi _)
  · next h => exact absurd h (hp _ _)
  · rfl

/-- A word is a prefix of one of the two kinds, or none. -/
theorem decodeSlot_prefix (w : W32) : (∃ p, decodeSlot w = some (.pfxi p)) ∨ (∃ m g, decodeSlot w = some (.pfxp m g)) ∨
    ((∀ p, decodeSlot w ≠ some (.pfxi p)) ∧ ∀ m g, decodeSlot w ≠ some (.pfxp m g)) := by
  by_cases hi : ∃ p, decodeSlot w = some (.pfxi p)
  · exact .inl hi
  · by_cases hp : ∃ m g, decodeSlot w = some (.pfxp m g)
    · exact .inr (.inl hp)
    · exact .inr (.inr ⟨fun p h => hi ⟨p, h⟩, fun m g h => hp ⟨m, g, h⟩⟩)

/-- What makes a list of words bad from some place on makes it bad from the start: the words before it take no fault away. -/
theorem itemsOf_bad_append {tl : List (Nat × W32)} (h : ∀ pre n, (itemsOf tl pre n).2 = true) (ws : List (Nat × W32)) (pre : List Instr) (n : Nat) :
    (itemsOf (ws ++ tl) pre n).2 = true := by
  induction ws generalizing pre n with
  | nil => exact h pre n
  | cons q r ih =>
    obtain ⟨a, w⟩ := q
    rw [List.cons_append]
    rcases decodeSlot_prefix w with ⟨p, hw⟩ | ⟨m, g, hw⟩ | ⟨hi, hp⟩
    · rw [itemsOf_pfxi hw]
      exact ih ..
    · rw [itemsOf_pfxp hw]
      exact ih ..
    · rw [itemsOf_slot hi hp]
      dsimp only
      rw [ih, Bool.true_or]

/-- A prefix that ends its bundle is misplaced (R67). -/
theorem itemsOf_prefix_last {w : W32} (h : (∃ p, decodeSlot w = some (.pfxi p)) ∨ ∃ m r, decodeSlot w = some (.pfxp m r)) (a : Nat) (pre : List Instr)
    (n : Nat) : (itemsOf [(a, w)] pre n).2 = true := by
  rcases h with ⟨p, hw⟩ | ⟨m, r, hw⟩
  · rw [itemsOf_pfxi hw]
    simp [itemsOf]
  · rw [itemsOf_pfxp hw]
    simp [itemsOf]

/-- More prefixes leave two of one kind two of one kind. -/
theorem twice_append {pre : List Instr} (h : twice pre = true) (more : List Instr) : twice (pre ++ more) = true := by
  unfold twice at h ⊢
  simp only [Bool.or_eq_true, decide_eq_true_eq, List.filter_append, List.length_append] at h ⊢
  omega

/-- Two prefixes of one kind before one slot stay wrong whatever follows (R67). -/
theorem itemsOf_twice {pre : List Instr} (h : twice pre = true) (ws : List (Nat × W32)) (n : Nat) : (itemsOf ws pre n).2 = true := by
  induction ws generalizing pre n with
  | nil => simp [itemsOf, h]
  | cons q r ih =>
    obtain ⟨a, w⟩ := q
    rcases decodeSlot_prefix w with ⟨p, hw⟩ | ⟨m, g, hw⟩ | ⟨hi, hp⟩
    · rw [itemsOf_pfxi hw]
      exact ih (twice_append h _) _
    · rw [itemsOf_pfxp hw]
      exact ih (twice_append h _) _
    · rw [itemsOf_slot hi hp]
      dsimp only
      rw [h, Bool.or_true]

/-- A list of prefixes that ends with two of one kind holds two of one kind. -/
theorem twice_pair (pre : List Instr) {i j : Instr} (h : ((∃ p, i = .pfxi p) ∧ ∃ p, j = .pfxi p) ∨ ((∃ m g, i = .pfxp m g) ∧ ∃ m g, j = .pfxp m g)) :
    twice (pre ++ [i] ++ [j]) = true := by
  unfold twice
  rcases h with ⟨⟨p, rfl⟩, q, rfl⟩ | ⟨⟨m, g, rfl⟩, n, k, rfl⟩
  · simp
  · simp

/-- Two prefixes of one kind one after the other are one too many (R67). -/
theorem itemsOf_pair {w u : W32} (h : ((∃ p, decodeSlot w = some (.pfxi p)) ∧ ∃ p, decodeSlot u = some (.pfxi p)) ∨
    ((∃ m g, decodeSlot w = some (.pfxp m g)) ∧ ∃ m g, decodeSlot u = some (.pfxp m g))) (a b : Nat) (r : List (Nat × W32)) (pre : List Instr) (n : Nat) :
    (itemsOf ((a, w) :: (b, u) :: r) pre n).2 = true := by
  rcases h with ⟨⟨p, hw⟩, q, hu⟩ | ⟨⟨m, g, hw⟩, k, l, hu⟩
  · rw [itemsOf_pfxi hw, itemsOf_pfxi hu]
    exact itemsOf_twice (twice_pair pre (.inl ⟨⟨p, rfl⟩, q, rfl⟩)) ..
  · rw [itemsOf_pfxp hw, itemsOf_pfxp hu]
    exact itemsOf_twice (twice_pair pre (.inr ⟨⟨m, g, rfl⟩, k, l, rfl⟩)) ..

/-- A word that decodes to no instruction stands as an item without one. -/
theorem itemsOf_undecoded {a : Nat} {w : W32} (hw : decodeSlot w = none) {ws : List (Nat × W32)} (h : (a, w) ∈ ws) (pre : List Instr) (n : Nat) :
    ∃ t ∈ (itemsOf ws pre n).1, t.ins = none := by
  induction ws generalizing pre n with
  | nil => cases h
  | cons q r ih =>
    obtain ⟨b, u⟩ := q
    rcases List.mem_cons.1 h with heq | hr
    · obtain ⟨rfl, rfl⟩ := Prod.mk.inj heq
      rw [itemsOf_slot (by simp [hw]) (by simp [hw])]
      exact ⟨_, List.mem_cons_self, hw⟩
    · rcases decodeSlot_prefix u with ⟨p, hu⟩ | ⟨m, g, hu⟩ | ⟨hi, hp⟩
      · rw [itemsOf_pfxi hu]
        exact ih hr ..
      · rw [itemsOf_pfxp hu]
        exact ih hr ..
      · rw [itemsOf_slot hi hp]
        obtain ⟨t, ht, hn⟩ := ih hr [] (if clsOf u = .vec then n + 1 else n)
        exact ⟨t, List.mem_cons_of_mem _ ht, hn⟩

/-! ### Outcomes in a row -/

@[simp] theorem andThen_next (o : Host.Outcome State Fault Refusal) : (andThen o fun s => .next s) = o := by cases o <;> rfl

/-- A slot of another phase waits for its own (R182). -/
theorem runPhase_other (ex : Instr → State → Host.Outcome State Fault Refusal) {ph : Nat} {sl : Slot} (h : sl.phase ≠ ph) (base j : Nat) (t : Item)
    (r : List (Item × Slot)) (s : State) : runPhase ex ph base j ((t, sl) :: r) s = runPhase ex ph base (j + 1) r s := by
  rw [runPhase, if_pos h]

/-- A slot of the phase runs at its place, and the others follow (R182). -/
theorem runPhase_slot (ex : Instr → State → Host.Outcome State Fault Refusal) {ph : Nat} {t : Item} {sl : Slot} {i : Instr} (h : sl.phase = ph)
    (hp : t.pre = []) (hi : t.ins = some i) (base j : Nat) (r : List (Item × Slot)) (s : State) :
    runPhase ex ph base j ((t, sl) :: r) s =
      andThen (ex i (State.modCtx { s with iss := { s.iss with slot := t.addr, vec := t.vec, pfxi := none, pfxp := none } } s.cur
        fun x => { x with nextSeq := base + 256 * j })) (runPhase ex ph base (j + 1) r) := by
  rw [runPhase, if_neg (not_not.2 h), hp, hi]
  have one (u : State) : runAll ex [i] u = ex i u := andThen_next _
  simp only [List.nil_append, Option.toList_some, one]

end Sys2Proof.Machine
end

section
open Sys2Proof Sys2Proof.Machine

/-- Settles O8: the step presents, the bundle goes, and its phases run slot by slot. -/
theorem stepRunsDecodedBundle : Obligations.StepRunsDecodedBundle := by
  refine ⟨fun s c p ws ha ht hg ho hv hl hf => (step_turn ha ht hg).trans (issueBundle_go ho hv hl hf), State.fetched_eq,
    fun s ws hl hf => State.presentNext_fetched hl hf, State.presentWords_items, fun a w r v i hw hi hp => ?_,
    fun ph base j t sl i r s hs hp hi => runPhase_slot exec hs hp hi base j r s, fun ph base j t sl r s hs => runPhase_other exec hs base j t r s⟩
  rw [itemsOf_slot (fun p h => hi p (Option.some.inj (hw.symm.trans h))) (fun m g h => hp m g (Option.some.inj (hw.symm.trans h))), hw]
end

section
/-! SUPPORT. The verdict on a presented bundle: the slots that it judges, and ILLEGAL_INSTR and ILLEGAL_PREFIX among its causes (R59, R64 to R68). -/

namespace Sys2Proof.Machine

/-! ### The first causes of a verdict -/

/-- A slot that is no instruction stops its bundle; with no operand to blame TRAP_ADDR is 0 (R59, R68). -/
theorem verdict_unlawful {x : Ctx} {sls : List Slot} (h : ∃ sl ∈ sls, sl.legal = false) (now : Nat) (bad : Bool) :
    ∃ a, verdict x now sls bad = .trap cILLEGAL a ∧ ((∀ sl ∈ sls, sl.illVal = none) → a = 0) := by
  obtain ⟨sl, hsl, hl⟩ := h
  obtain ⟨a, ha⟩ : ∃ a, sls.findSome? (·.illegal x) = some a := by
    refine Option.isSome_iff_exists.1 (List.findSome?_isSome_iff.2 ⟨sl, hsl, ?_⟩)
    simp [Slot.illegal, hl]
  refine ⟨a, by simp [verdict, ha], fun hv => ?_⟩
  obtain ⟨tl, htl, hta⟩ := List.exists_of_findSome?_eq_some ha
  rw [Slot.illegal, hv tl htl] at hta
  repeat' split at hta
  all_goals simp_all

/-- With every slot an instruction and every operand in order, a prefix out of order comes first (R67, R68). -/
theorem verdict_misplaced {x : Ctx} {sls : List Slot} (h : ∀ sl ∈ sls, sl.legal = true ∧ sl.illVal = none) (now : Nat) :
    verdict x now sls true = .trap cPREFIX 0 := by
  have legal : sls.findSome? (·.illegal x) = none := by
    refine List.findSome?_eq_none_iff.2 fun sl hsl => ?_
    obtain ⟨hl, hv⟩ := h sl hsl
    simp [Slot.illegal, hl, hv]
  simp [verdict, legal]

/-! ### What a presentation judges -/

/-- The slots that a presentation judges: those of its items, for a follower with member 0's branches beside them, and one for each prefix (R65, R275). -/
def judgedOf (items : List (Item × Slot)) (lead : Option (Option Nat × Option Nat)) : List Slot :=
  (match lead with
    | none => items.map fun q => q.2
    | some (k, y) => ((items.map fun q => q.2).map fun (sl : Slot) => { sl with takenK := none, takenY := none }) ++ [{ takenK := k, takenY := y }]) ++
  items.flatMap fun q => q.1.pre.map fun p => { legal := wellFormed p }

/-- Of what ILLEGAL_INSTR asks, a judged slot has what the slot of an item has, or what a prefix has, or nothing to object to. -/
theorem mem_judgedOf {items : List (Item × Slot)} {lead : Option (Option Nat × Option Nat)} {sl : Slot} (h : sl ∈ judgedOf items lead) :
    (∃ q ∈ items, sl.legal = q.2.legal ∧ sl.illVal = q.2.illVal) ∨ (∃ q ∈ items, ∃ p ∈ q.1.pre, sl = { legal := wellFormed p }) ∨
      (sl.legal = true ∧ sl.illVal = none) := by
  rcases List.mem_append.1 h with h | h
  · cases lead with
    | none =>
      obtain ⟨q, hq, rfl⟩ := List.mem_map.1 h
      exact .inl ⟨q, hq, rfl, rfl⟩
    | some ky =>
      rcases List.mem_append.1 h with h | h
      · obtain ⟨tl, ht, rfl⟩ := List.mem_map.1 h
        obtain ⟨q, hq, rfl⟩ := List.mem_map.1 ht
        exact .inl ⟨q, hq, rfl, rfl⟩
      · rw [List.mem_singleton.1 h]
        exact .inr (.inr ⟨rfl, rfl⟩)
  · obtain ⟨q, hq, h⟩ := List.mem_flatMap.1 h
    obtain ⟨p, hp, rfl⟩ := List.mem_map.1 h
    exact .inr (.inl ⟨q, hq, p, hp, rfl⟩)

/-- An item that is no instruction is judged as one. -/
theorem judgedOf_unlawful {items : List (Item × Slot)} {q : Item × Slot} (hq : q ∈ items) (h : q.2.legal = false)
    (lead : Option (Option Nat × Option Nat)) : ∃ sl ∈ judgedOf items lead, sl.legal = false := by
  have slot : q.2 ∈ items.map fun q => q.2 := List.mem_map_of_mem hq
  cases lead with
  | none => exact ⟨q.2, List.mem_append_left _ slot, h⟩
  | some ky => exact ⟨_, List.mem_append_left _ (List.mem_append_left _ (List.mem_map_of_mem slot)), h⟩

/-- A bundle whose form is in order is judged by its slots, and a misplaced prefix counts among them (R60, R62, R67). -/
theorem State.presentWords_v {s : State} {ws : List (Nat × W32)} (hf : formBad (ws.map fun q => q.2) = false) (hr : readsBad (s.bundleReads ws) = false)
    (lead : Option (Option Nat × Option Nat)) : ∃ bad, (s.presentWords ws lead).v =
      verdict ((s.viewOf ws).ctx s.cur) s.now (judgedOf (s.presentWords ws lead).items lead) bad ∧ ((itemsOf ws [] 0).2 = true → bad = true) := by
  refine ⟨(itemsOf ws [] 0).2 || (s.presentWords ws lead).items.any fun q => q.2.prefixBad ((s.atWords ws).atItem q.1).env, ?_,
    fun h => by rw [h, Bool.true_or]⟩
  unfold State.presentWords judgedOf
  dsimp only
  rw [hf, hr, Bool.or_false, if_neg Bool.false_ne_true, List.flatMap_map] <;> cases lead <;> rfl

/-- The item of a word that is no instruction is illegal (R59). -/
theorem State.presentWords_undecoded {s : State} {ws : List (Nat × W32)} {a : Nat} {w : W32} (h : (a, w) ∈ ws) (hw : decodeSlot w = none)
    (lead : Option (Option Nat × Option Nat)) : ∃ q ∈ (s.presentWords ws lead).items, q.2.legal = false := by
  obtain ⟨t, ht, hn⟩ := itemsOf_undecoded hw h [] 0
  have illegal (u : State) : (u.slotAt t).legal = false := by rw [State.slotAt, hn]
  refine ⟨_, List.mem_map_of_mem ht, ?_⟩
  dsimp only
  split <;> exact illegal _

end Sys2Proof.Machine
end

section
open Sys2Proof Sys2Proof.Machine

/-- Settles O9: a slot without its condition is idle, the prefixes are noted or trap, and the verdict on a presented bundle is taken. -/
theorem prefixesAndConditions : Obligations.PrefixesAndConditions := by
  refine ⟨fun i s hslot hi hp checked cond => ?_, fun p s => rfl, fun m r s h => ?_, fun m r s h preds => ?_, fun s ws lead a w h hw hf hr => ?_,
    fun ws a w pre n h => itemsOf_bad_append (itemsOf_prefix_last h a) ws pre n,
    fun ws r a b w u pre n h => itemsOf_bad_append (itemsOf_pair h a b r) ws pre n, fun s ws lead hf hr hq hbad => ?_,
    fun s c p cause v ha ht hg ho hv hc hp => (step_turn ha ht hg).trans (issueBundle_trap ho hv hc hp)⟩
  · rw [exec_slot hslot hi hp, issue_checked _ s checked, (slotOf_frugal hslot s).idle cond]
    rfl
  · have hwf : wellFormed (.pfxp m r) = true := by simpa [wellFormed, inFile] using h
    exact if_pos hwf
  · have hwf : ¬wellFormed (.pfxp m r) = true := by simpa [wellFormed, inFile] using h
    refine (if_neg hwf).trans ?_
    rw [State.stopFor_trap preds (by decide)]
  · obtain ⟨bad, hv, -⟩ := State.presentWords_v hf hr lead
    obtain ⟨q, hq, hl⟩ := State.presentWords_undecoded (s := s) h hw lead
    obtain ⟨v, hverdict, hzero⟩ := verdict_unlawful (x := (s.viewOf ws).ctx s.cur) (judgedOf_unlawful hq hl lead) s.now bad
    refine ⟨v, hv.trans hverdict, fun hill => hzero fun sl hsl => ?_⟩
    rcases mem_judgedOf hsl with ⟨q, hq, -, h⟩ | ⟨q, -, p, -, rfl⟩ | ⟨-, h⟩
    · rw [h, hill q hq]
    · rfl
    · exact h
  · obtain ⟨bad, hv, hb⟩ := State.presentWords_v hf hr lead
    rw [hv, hb hbad]
    refine verdict_misplaced (fun sl hsl => ?_) s.now
    rcases mem_judgedOf hsl with ⟨q, hmem, hl, hi⟩ | ⟨q, hmem, p, hp, rfl⟩ | h
    · exact ⟨hl.trans (hq q hmem).1, hi.trans (hq q hmem).2.1⟩
    · exact ⟨(hq q hmem).2.2 p hp, rfl⟩
    · exact h
end

section
/-! SUPPORT. What the completion of a slot leaves as it was, and the privilege checks (R59, R94, R235). -/

namespace Sys2Proof.Machine

section
variable (sl : Slot) (e : Env) (ops : List Opnd) (psn : List (W64 × Nat))

@[simp] theorem Slot.finish_legal : (sl.finish e ops psn).legal = sl.legal := by
  unfold Slot.finish
  dsimp only
  split <;> rfl

@[simp] theorem Slot.finish_priv : (sl.finish e ops psn).priv = sl.priv := by
  unfold Slot.finish
  dsimp only
  split <;> rfl

@[simp] theorem Slot.finish_privVal : (sl.finish e ops psn).privVal = sl.privVal := by
  unfold Slot.finish
  dsimp only
  split <;> rfl

theorem Slot.finish_hold (h : e.cond = true) : (sl.finish e ops psn).hold = sl.hold := by
  unfold Slot.finish
  simp only [h, if_true]

end

/-- The window of a core's routine words leaves out the routine table (R235). -/
theorem State.inWindow_iff (s : State) (k i : Nat) :
    s.inWindow k i = true ↔ max (s.core k).mpwBase.toNat 64 ≤ i ∧ i < min (s.core k).mpwLimit.toNat 4096 := by
  simp only [State.inWindow, Bool.and_eq_true, decide_eq_true_eq]

/-- MPWR may write a word of the window, and a word of the table that names no routine outside the window, before or after (R235). -/
theorem State.mpwrOk_iff (s : State) (k : Nat) (i w : W64) : s.mpwrOk k i w = true ↔
    (s.inWindow k i.toNat = true ∨ (i.toNat < 64 ∧
      ((s.storeWord k i.toNat).getLsbD 63 = true → s.inWindow k ((s.storeWord k i.toNat).toNat % 4096) = true) ∧
      (w.getLsbD 63 = true → s.inWindow k (w.toNat % 4096) = true))) := by
  have own (v : W64) : (!v.getLsbD 63 || s.inWindow k (v.toNat % 4096)) = true ↔ (v.getLsbD 63 = true → s.inWindow k (v.toNat % 4096) = true) := by
    cases v.getLsbD 63 <;> simp
  simp only [State.mpwrOk, Bool.or_eq_true (s.inWindow k i.toNat), Bool.and_eq_true, decide_eq_true_eq, own, and_assoc]

/-- A slot that fails its privilege check stops its bundle, before any slot executes (R68, R94). -/
theorem verdict_unprivileged {x : Ctx} {sls : List Slot} (h : ∀ sl ∈ sls, sl.legal = true ∧ sl.illVal = none)
    (hp : ∃ sl ∈ sls, sl.priv = true ∨ (sl.privVal = true ∧ x.ilock sl.reads = false)) (now : Nat) : verdict x now sls false = .trap cPRIV 0 := by
  have legal : sls.findSome? (·.illegal x) = none := by
    refine List.findSome?_eq_none_iff.2 fun sl hsl => ?_
    obtain ⟨hl, hv⟩ := h sl hsl
    simp [Slot.illegal, hl, hv]
  have fails : (sls.any fun sl => sl.priv || (sl.privVal && !x.ilock sl.reads)) = true := by
    obtain ⟨sl, hsl, hf⟩ := hp
    exact List.any_eq_true.2 ⟨sl, hsl, by simpa using hf⟩
  simp [verdict, legal, fails]

end Sys2Proof.Machine
end

section
open Sys2Proof Sys2Proof.Machine

/-- Settles O14: completing a slot keeps its checks, whatever its condition. -/
theorem privilegeChecks : Obligations.PrivilegeChecks :=
  ⟨fun _ _ _ => Slot.finish_priv .., fun _ _ => Slot.finish_priv .., fun _ _ => Slot.finish_priv .., fun _ _ => Slot.finish_privVal .., State.mpwrOk_iff,
    State.inWindow_iff, fun _ now _ h hp => verdict_unprivileged h hp now⟩
end

section
/-! SUPPORT. The scalar X slots with an immediate (R64, R383, R388, R402, R429, R444, R463, R492). -/

namespace Sys2Proof.Machine

/-- A scalar X slot with an immediate puts its value on its way (R64, R71). -/
theorem issue_xRI {s : State} (h : s.Issuing) (o : RI) (f : W64 → W64 → W64) :
    issue (fun t => xRI t.env o f) s = .next (s.gives [s.xA o.a false] (s.xRes o.d (f (s.xA o.a false).d (s.env.imm11 o.imm)) 1)) := by
  rw [issue_finish _ h rfl]
  rfl

/-- A shift by an immediate puts its value on its way (R463). -/
theorem issue_xShift {s : State} (h : s.Issuing) (d r : BitVec 5) (f : W64 → W64) :
    issue (fun t => xShift t.env d r f) s = .next (s.gives [s.xA r false] (s.xRes d (f (s.xA r false).d) 1)) := by
  rw [issue_finish _ h rfl]
  rfl

/-- An 11-bit immediate is extended by its sign, alone or behind the payload of a PFXI (R64). -/
theorem State.imm11_eq {s : State} {imm : BitVec 11} {i : W64} (h : (s.iss.pfxi = none ∧ i = imm.signExtend 64) ∨
    (∃ p, s.iss.pfxi = some p ∧ i = (p ++ imm : BitVec 32).signExtend 64)) : s.env.imm11 imm = i := by
  rcases h with ⟨hp, rfl⟩ | ⟨p, hp, rfl⟩ <;> simp only [Env.imm11, State.env, hp]

/-- The same for an immediate of 16 bits (R64, R429). -/
theorem State.imm16_eq {s : State} {imm : BitVec 16} {i : W64} (h : (s.iss.pfxi = none ∧ i = imm.signExtend 64) ∨
    (∃ p, s.iss.pfxi = some p ∧ i = (p ++ imm : BitVec 37).signExtend 64)) : s.env.imm16 imm = i := by
  rcases h with ⟨hp, rfl⟩ | ⟨p, hp, rfl⟩ <;> simp only [Env.imm16, State.env, hp]

/-- A truth value as the statements write it. -/
theorem bit64_slt (a i : W64) : bit64 (BitVec.slt a i) = if a.toInt < i.toInt then 1 else 0 := by
  simp only [bit64, BitVec.slt, decide_eq_true_eq]

/-- The mask of the low word. -/
theorem low_word_mask (i : Nat) : (0xFFFFFFFF : W64).getLsbD i = decide (i < 32) := by
  rw [show (0xFFFFFFFF : W64) = (BitVec.allOnes 32).setWidth 64 from rfl, BitVec.getLsbD_setWidth, BitVec.getLsbD_allOnes]
  by_cases h : i < 32
  · simp [h]; omega
  · simp [h]

/-- LIH puts the low word of its immediate above the low word of D (R429). -/
theorem high_word_over_low (v d : W64) : (v <<< 32) ||| (d &&& 0xFFFFFFFF) = (v.setWidth 32 ++ d.setWidth 32 : W64) := by
  refine BitVec.eq_of_getLsbD_eq fun i hi => ?_
  rw [BitVec.getLsbD_or, BitVec.getLsbD_and, BitVec.getLsbD_shiftLeft, low_word_mask]
  refine Eq.trans ?_ (BitVec.getLsbD_append).symm
  rw [BitVec.getLsbD_setWidth, BitVec.getLsbD_setWidth]
  by_cases h : i < 32
  · simp [h]
  · have hv : i - 32 < 32 := by omega
    simp [h, hi, hv]

end Sys2Proof.Machine
end

section
open Sys2Proof Sys2Proof.Machine

/-- Settles O18: each slot is one of the forms above, with its operation. -/
theorem immediateForms : Obligations.ImmediateForms := by
  refine ⟨fun s o h => ?_, fun s d r n h => ⟨issue_xShift h d r _, issue_xShift h d r _, issue_xShift h d r _⟩, fun s d imm h v hv => ⟨?_, ?_⟩⟩
  · intro a ans i hi
    rw [← State.imm11_eq hi, ← bit64_slt]
    exact ⟨issue_xRI h o _, issue_xRI h o _, issue_xRI h o _, issue_xRI h o _, issue_xRI h o _⟩
  · rw [← State.imm16_eq hv]
    exact (issue_finish (slotLi d imm) h rfl).trans rfl
  · rw [← State.imm16_eq hv, ← high_word_over_low]
    exact (issue_finish (slotLih d imm) h rfl).trans rfl
end

section
/-! SUPPORT. MOVX between the register files (R84, R437). -/

namespace Sys2Proof.Machine

/-- The hold latches are all that a filling changes (R69). -/
theorem Ctx.fill_changes (x : Ctx) (fs : List (Nat × Wide × W64)) :
    ∃ l p, x.fill fs = { x with r := { x.r with latch := l, latchp := p } } := by
  induction fs generalizing x with
  | nil => exact ⟨_, _, rfl⟩
  | cons f r ih =>
    obtain ⟨l, p, h⟩ := ih (x.fill [f])
    exact ⟨l, p, h⟩

/-- MOVX from any file but n reads its source at issue and sends it on, with its poison where x or y takes it (R437). -/
theorem issue_movx {s : State} (h : s.Issuing) (o : R2) {v : BitVec 4} (hv : v ≠ 2) :
    let a := s.env.opnd (movxFiles v.toNat).1 o.a o.ha (if v = 1 then 2 else 0)
    issue (slotMovx o v) s = .next (s.gives [a] { mkRes (movxFiles v.toNat).2 o.d.toNat (wide64 a.d) (s.now + 2) with
      psn := if (movxFiles v.toNat).2 = .x ∨ (movxFiles v.toNat).2 = .y then a.psn &&& 1 else 0 }) := by
  intro a
  rw [issue_checked _ s h.checked]
  simp only [slotMovx, hv, decide_false, Bool.false_and, Bool.false_eq_true, if_false, finish_eff _ _ _ _ h.cond, Bool.or_eq_true, decide_eq_true_eq]
  rfl

/-- A second change of a context that leaves what the first one made leaves the state. -/
theorem State.modCtx_idle {s : State} {c : Nat} {f g : Ctx → Ctx} (h : g (f (s.ctx c)) = f (s.ctx c)) : (s.modCtx c f).modCtx c g = s.modCtx c f :=
  (State.modCtx_modCtx ..).trans (congrArg (s.setCtx c) h)

/-- MOVX from an n register with no request left in flight (R273, R437). -/
theorem issue_movx_nx {s : State} (h : s.Issuing) (o : R2) (hn : (s.ctx s.cur).nextts o.a.toNat = []) :
    let a := s.env.opnd .n o.a o.ha 0
    issue (slotMovx o 2) s = .next (s.gives [a] { mkRes .x o.d.toNat (wide64 a.d) (s.now + 2) with psn := a.psn &&& 1 }) := by
  intro a
  have files : movxFiles (2 : BitVec 4).toNat = (.n, .x) := rfl
  have lt : (if decide ((2 : BitVec 4) = 1) = true then 2 else 0) = 0 := rfl
  have view : ({ s.env with x := s.env.x } : Env) = s.env := rfl
  rw [issue_checked _ s h.checked]
  obtain ⟨d, r, ha⟩ := o
  cases ha with
  | true =>
    simp only [slotMovx, files, lt, Bool.not_true, Bool.and_false, Bool.false_and, Bool.false_eq_true, if_false, finish_eff _ _ _ _ h.cond, view,
      decide_true, Bool.true_or, if_true]
    rfl
  | false =>
    have here : s.env.x.nextts r.toNat = [] := hn
    have landed : ((s.filled [a]).modCtx s.cur fun x => ((x.nextts r.toNat).filter fun t => t.back s.now).foldl (fun y t => y.land s.now t) x) =
        s.filled [a] := by
      refine State.modCtx_idle ?_
      obtain ⟨l, p, hx⟩ := (s.ctx s.cur).fill_changes ([a].flatMap fun o => o.fill)
      have none : ((s.ctx s.cur).fill ([a].flatMap fun o => o.fill)).nextts r.toNat = [] := by
        rw [hx]
        exact hn
      rw [none]
      rfl
    simp only [slotMovx, files, lt, here, decide_true, Bool.not_false, Bool.and_true, if_true, finish_eff _ _ _ _ h.cond, List.getLast?_nil,
      List.filter_nil, List.foldl_nil, Bool.and_false, ite_self, view, Bool.true_or]
    exact congrArg (fun u : State => Host.Outcome.next (u.sends { mkRes .x d.toNat (wide64 a.d) (s.now + 2) with psn := a.psn &&& 1 })) landed

end Sys2Proof.Machine
end

section
open Sys2Proof Sys2Proof.Machine

/-- Settles O19: variant by variant, with the n registers apart. -/
theorem moveBetweenFiles : Obligations.MoveBetweenFiles := by
  intro s o h
  exact ⟨issue_movx h o (v := 0) (by decide), issue_movx h o (v := 1) (by decide), issue_movx h o (v := 3) (by decide), issue_movx h o (v := 4) (by decide),
    issue_movx h o (v := 5) (by decide), issue_movx h o (v := 6) (by decide), fun hn => issue_movx_nx h o hn⟩
end

section
/-! SUPPORT. The branches: where they go, and the link (R76, R78, R395, R396, R398, R425). -/

namespace Sys2Proof.Machine

section
variable {s : State} (h : s.Issuing)
include h

/-- BR is the taken branch of the control slot (R395). -/
theorem exec_br (ofs : BitVec 21) : exec (.br ofs) s = .next (s.env.takeK (some (s.env.target21 ofs)) (s.filled [])) :=
  issue_finish (slotBr ofs) h rfl

/-- BRL links as well (R398). -/
theorem exec_brl (ofs : BitVec 21) : exec (.brl ofs) s =
    .next ((s.env.takeK (some (s.env.target21 ofs)) (s.filled [])).sends (mkRes .x 31 (BitVec.ofNat 2048 s.env.link) (s.now + 2))) :=
  issue_finish (slotBrl ofs) h rfl

/-- A jump takes the address of its register, the low two bits zero (R425). -/
theorem issue_jump {f : State → Slot} {a : Opnd} (hf : f s = jumpSlot s.env a none) :
    issue f s = .next (s.env.takeK (some (a.d.toNat % 2 ^ 54 / 4 * 4)) (s.filled [a])) := by
  rw [issue_finish f h hf]

/-- JR.L links as well (R425). -/
theorem exec_jrL (o : R2) : exec (.jrL o) s =
    .next ((s.env.takeK (some ((s.kA o.a o.ha).d.toNat % 2 ^ 54 / 4 * 4)) (s.filled [s.kA o.a o.ha])).sends
      (mkRes .x o.d.toNat (BitVec.ofNat 2048 s.env.link) (s.now + 2))) :=
  issue_finish (slotJrL o) h rfl

/-- BRC is taken exactly where its condition holds (R396). -/
theorem exec_brc {c : BitVec 5} {a : BitVec 5} {p : Prop} (hp : brcCond c.toNat (s.yA a false).d = true ↔ p) (ofs : BitVec 11) :
    (p → exec (.brc c a ofs) s = .next { s.filled [s.yA a false] with iss := { s.iss with takenY := some (s.env.target11 ofs) } }) ∧
    (¬p → exec (.brc c a ofs) s = .next { s.filled [s.yA a false] with iss := { s.iss with takenY := none } }) := by
  have outcome : exec (.brc c a ofs) s = .next { s.filled [s.yA a false] with
      iss := { s.iss with takenY := if brcCond c.toNat (s.yA a false).d then some (s.env.target11 ofs) else none } } :=
    issue_finish (slotBrc c a ofs) h rfl
  refine ⟨fun hc => ?_, fun hc => ?_⟩
  · rw [outcome, if_pos (hp.2 hc)]
  · rw [outcome, if_neg (mt hp.1 hc)]

end

/-- The link is the address behind the delay bundle, whose stop slot is looked for in eight slots (R398, log 40). -/
theorem Env.link_eq (s : State) (ws : List (Nat × W32)) : let b := (s.ctx s.cur).pending.getD s.iss.after
    (s.fetch s.cur b = .ok ws → s.env.link = b + 4 * ws.length) ∧ ((∀ ws, s.fetch s.cur b ≠ .ok ws) → s.env.link = b + 32) := by
  intro b
  have link : s.env.link = s.afterBundle s.cur b := rfl
  refine ⟨fun hf => ?_, fun hf => ?_⟩
  · rw [link, State.afterBundle, hf]
  · rw [link, State.afterBundle]
    split
    · next hw => exact absurd hw (hf _)
    · rfl

end Sys2Proof.Machine
end

section
open Sys2Proof Sys2Proof.Machine

/-- Settles O34: the outcome of each branch, and the conditions of BRC one by one. -/
theorem branchSlots : Obligations.BranchSlots := by
  refine ⟨fun s h => ⟨fun ofs => ⟨exec_br h ofs, exec_brl h ofs⟩, fun o => issue_jump h rfl, issue_jump h rfl, fun o => exec_jrL h o⟩,
    fun s a ofs h => ⟨?_, ?_, ?_, ?_, ?_, ?_, ?_, ?_, ?_, ?_, ?_⟩, Env.link_eq⟩
  all_goals
    refine exec_brc h ?_ ofs
    simp [brcCond]
end

section
/-! SUPPORT. The next program counter, and the end of a bundle that stops nothing (R70, R76 to R78). -/

namespace Sys2Proof.Machine

section
variable {x : Ctx} {b : Nat} (a : Nat) (taken : Option Nat)

/-- What follows a bundle changes the program counter, the pending target and the loop registers of its context, and nothing else (R77). -/
theorem Ctx.next_changes (x : Ctx) (b a : Nat) (taken : Option Nat) : ∃ pc r, x.next b a taken = { x with pc := pc, pending := taken, r := r } := by
  unfold Ctx.next
  dsimp only
  split
  · split <;> exact ⟨_, _, rfl⟩
  · exact ⟨_, _, rfl⟩

theorem Ctx.next_pending (x : Ctx) (b a : Nat) (taken : Option Nat) : (x.next b a taken).pending = taken := by
  obtain ⟨pc, r, h⟩ := x.next_changes b a taken
  rw [h]

theorem Ctx.next_phase (x : Ctx) (b a : Nat) (taken : Option Nat) : (x.next b a taken).phase = x.phase := by
  obtain ⟨pc, r, h⟩ := x.next_changes b a taken
  rw [h]

theorem Ctx.next_stepMode (x : Ctx) (b a : Nat) (taken : Option Nat) : (x.next b a taken).stepMode = x.stepMode := by
  obtain ⟨pc, r, h⟩ := x.next_changes b a taken
  rw [h]

/-- The loop goes back to its start while it has passes left, and no branch is taken or pending (R77). -/
theorem Ctx.next_again (hd : x.r.loopCnt ≠ 0 ∧ b = x.r.loopEnd.toNat) (h : x.pending = none ∧ taken = none ∧ 1 < x.r.loopCnt.toNat) :
    (x.next b a taken).pc = x.r.loopBegin.toNat ∧ (x.next b a taken).r = { x.r with loopCnt := x.r.loopCnt - 1 } := by
  simp only [Ctx.next, if_pos hd, if_pos h, and_self]

/-- The loop ends where it falls due otherwise (R77). -/
theorem Ctx.next_ends (hd : x.r.loopCnt ≠ 0 ∧ b = x.r.loopEnd.toNat) (h : ¬(x.pending = none ∧ taken = none ∧ 1 < x.r.loopCnt.toNat)) :
    (x.next b a taken).pc = x.pending.getD a ∧ (x.next b a taken).r = { x.r with loopCnt := 0 } := by
  simp only [Ctx.next, if_pos hd, if_neg h]
  cases x.pending <;> exact ⟨rfl, trivial⟩

/-- With no loop due the pending target comes next, else the bundle behind (R77). -/
theorem Ctx.next_plain (hd : ¬(x.r.loopCnt ≠ 0 ∧ b = x.r.loopEnd.toNat)) :
    (x.next b a taken).pc = x.pending.getD a ∧ (x.next b a taken).r = x.r := by
  simp only [Ctx.next, if_neg hd]
  cases x.pending <;> exact ⟨rfl, trivial⟩

end

/-- A bundle that ends without a stop and goes on: the context takes its next program counter, and the cycle of its next bundle (R70, R77). -/
theorem State.endBundle_goes {s : State} (w : Nat) (hl : s.iss.leave = none) (hs : s.iss.stopAfter = none) (hm : (s.ctx s.cur).stepMode = false) :
    let x := (s.endBundle w).ctx s.cur
    let y := (s.ctx s.cur).next s.iss.bundle s.iss.after (takenOf s.iss)
    x.pc = y.pc ∧ x.pending = y.pending ∧ x.r = y.r ∧ x.nextIssue = s.now + 1 + w ∧ x.phase = y.phase := by
  intro x y
  unfold x State.endBundle
  extract_lets c i x0 both regs z counted x1 placed s1 single cause
  have hz : z = y := by
    unfold z i
    rw [hl]
  have hcounted : counted.stepMode = z.stepMode ∧ counted.pc = z.pc ∧ counted.pending = z.pending ∧ counted.r = z.r ∧ counted.phase = z.phase := by
    unfold counted
    split <;> exact ⟨rfl, rfl, rfl, rfl, rfl⟩
  obtain ⟨mode, pc, pending, r, phase⟩ := hz ▸ hcounted
  have noStep : single = none := by
    have : x1.stepMode = false := mode.trans ((Ctx.next_stepMode ..).trans hm)
    simp [single, this]
  have goesOn : cause = none := by
    unfold cause i
    rw [hs, noStep]
  have outcome : s1.ctx c = x1 := (State.ctx_setCtx s c c x1).trans (if_pos rfl)
  unfold i
  rw [hl, goesOn]
  exact ⟨outcome ▸ pc, outcome ▸ pending, outcome ▸ r, outcome ▸ rfl, outcome ▸ phase⟩

end Sys2Proof.Machine
end

section
open Sys2Proof Sys2Proof.Machine

/-- Settles O35: the three outcomes of `Ctx.next`, and the end of a bundle that goes on. -/
theorem nextBundleAddress : Obligations.NextBundleAddress := by
  refine ⟨fun x b a taken => ⟨x.next_pending b a taken, fun hd h => Ctx.next_again a taken hd h, fun hd h => Ctx.next_ends a taken hd h,
    fun hd => Ctx.next_plain a taken hd⟩, fun i => ⟨fun t h => by rw [takenOf, h], fun h => by rw [takenOf, h]⟩, fun s w hl hs hm => ?_⟩
  obtain ⟨pc, pending, r, issue, phase⟩ := State.endBundle_goes w hl hs hm
  exact ⟨pc, pending, r, issue, phase.trans (Ctx.next_phase ..)⟩
end

section
/-! SUPPORT. SRD and SWR, and the counters between the issue of an SWR and its landing (R85 to R91, R464, R472). -/

namespace Sys2Proof.Machine

@[simp] theorem State.clearCounter_cur (s : State) (c num : Nat) : (s.clearCounter c num).cur = s.cur := by
  unfold State.clearCounter
  split <;> rfl

section
variable {s : State} (h : s.Issuing) (d : BitVec 5) (num : BitVec 12)
include h

/-- SRD sends the register's value on its way (R464). -/
theorem exec_srd : exec (.srd d num) s = .next (s.gives [] (s.xRes d (s.readSr s.cur num.toNat) 2)) :=
  issue_finish (slotSrd d num) h rfl

/-- SWR sends the value to the register, and a counter counts on for it (R85, R472). -/
theorem exec_swr (hw : writableSr num.toNat = true) : exec (.swr d num) s =
    .next (((s.filled [s.env.reg .x d]).clearCounter s.cur num.toNat).sends (mkRes .sr num.toNat (wide64 (s.env.reg .x d).d) (s.now + 1))) := by
  refine (issue_finish (slotSwr d num) h rfl).trans ?_
  dsimp only
  rw [if_pos hw, State.sends, State.clearCounter_cur]
  rfl

/-- A register that software may not write keeps its value (R86). -/
theorem exec_swr_readOnly (hw : writableSr num.toNat = false) : exec (.swr d num) s = .next (s.filled [s.env.reg .x d]) :=
  (issue_finish (slotSwr d num) h rfl).trans (congrArg Host.Outcome.next (if_neg (by rw [hw]; exact Bool.false_ne_true)))

end

/-- A number that no register has is no instruction (R86). -/
theorem slotSr_legal {num : BitVec 12} (hn : num.toNat ∉ statusNumbers) (d : BitVec 5) (s : State) :
    (slotOf (.srd d num) s).legal = false ∧ (slotOf (.swr d num) s).legal = false := by
  have no : statusNumbers.contains num.toNat = false := by simpa using hn
  have srd : (slotSrd d num s).legal = (statusNumbers.contains num.toNat && s.env.zeroPfxi) := Slot.finish_legal ..
  have swr : (slotSwr d num s).legal = (statusNumbers.contains num.toNat && s.env.zeroPfxi) := Slot.finish_legal ..
  exact ⟨srd.trans (by rw [no]; rfl), swr.trans (by rw [no]; rfl)⟩

/-- A write to a privileged register needs PRV (R86, R94). -/
theorem slotSwr_priv (d : BitVec 5) (num : BitVec 12) (s : State) : (slotOf (.swr d num) s).priv = true ↔
    num.toNat ∈ [0x050, 0x051, 0x052, 0x053, 0x070, 0x078, 0x079] ∧ (s.ctx s.cur).prv = false := by
  have priv : (slotSwr d num s).priv = (privSr num.toNat && !(s.ctx s.cur).prv) := Slot.finish_priv ..
  show (slotSwr d num s).priv = true ↔ _
  rw [priv, privSr, Bool.and_eq_true, List.contains_iff_mem, Bool.not_eq_true']

/-! ### What a write leaves in a register -/

/-- RM takes a value that names a rounding mode, in its three bits (R90). -/
theorem Ctx.writeSr_rm (x : Ctx) (v : W64) : (x.writeSr 0x009 v).r.rm = if v.toNat % 8 ≤ 4 then v.setWidth 3 else x.r.rm := by
  have low : (v &&& 7).toNat = v.toNat % 8 := Nat.and_two_pow_sub_one_eq_mod v.toNat 3
  have bits : (v &&& 7).setWidth 3 = v.setWidth 3 := by
    refine BitVec.eq_of_toNat_eq ?_
    rw [BitVec.toNat_setWidth, BitVec.toNat_setWidth, low, Nat.mod_mod]
  simp only [Ctx.writeSr, maskOf, low, bits]
  split <;> rfl

/-- FPFLAGS takes its five bits (R89). -/
theorem Ctx.writeSr_fpflags (x : Ctx) (v : W64) : (x.writeSr 0x00A v).r.fpflags = v.setWidth 5 := by
  have low : (v &&& 31).toNat = v.toNat % 32 := Nat.and_two_pow_sub_one_eq_mod v.toNat 5
  refine BitVec.eq_of_toNat_eq ?_
  show ((v &&& 31).setWidth 5).toNat = _
  rw [BitVec.toNat_setWidth, BitVec.toNat_setWidth, low, Nat.mod_mod]

/-- SRSTREAM takes all of its bits (R90). -/
theorem Ctx.writeSr_srstream (x : Ctx) (v : W64) : (x.writeSr 0x00B v).r.srstream = v := by
  show v &&& BitVec.allOnes 64 = v
  exact BitVec.and_allOnes

/-- SCHK takes bit 0 (R90). -/
theorem Ctx.writeSr_schk (x : Ctx) (v : W64) : (x.writeSr 0x008 v).r.schk = v.getLsbD 0 := by
  show (v &&& 1).getLsbD 0 = v.getLsbD 0
  rw [BitVec.getLsbD_and]
  exact Bool.and_true _

/-- What is counted later in a cycle is counted on top of what was (R85). -/
theorem Ctx.tallyAt_cyc (x : Ctx) (now : Nat) : (x.tallyAt now).cyc = now := by
  unfold Ctx.tallyAt
  split
  · assumption
  · rfl

theorem Ctx.tallyAt_stale {x : Ctx} {now : Nat} (h : x.tally.cyc ≠ now) : (x.tallyAt now).raise = 0 := by
  rw [Ctx.tallyAt, if_neg h]

theorem Ctx.countRaise_tally (x : Ctx) (now : Nat) : ((x.countRaise now).tallyAt now).raise = satAdd (x.tallyAt now).raise 1 := by
  unfold Ctx.countRaise
  rw [Ctx.tallyAt, if_pos (x.tallyAt_cyc now)]

end Sys2Proof.Machine
end

section
open Sys2Proof Sys2Proof.Machine

/-- Settles O37: the two slots, their checks, and what the registers and the counters hold. -/
theorem statusRegisters : Obligations.StatusRegisters := by
  refine ⟨fun s d num h => ⟨exec_srd h d num, exec_swr h d num, exec_swr_readOnly h d num⟩, fun s c => ⟨rfl, rfl, rfl, rfl, rfl, rfl, rfl, rfl, rfl, rfl⟩,
    fun x v => ⟨x.writeSr_schk v, x.writeSr_rm v, x.writeSr_fpflags v, x.writeSr_srstream v, rfl, rfl⟩,
    fun s d num _ => ⟨fun hn => slotSr_legal hn d s, slotSwr_priv d num s, Slot.finish_priv ..⟩, fun s c v => ⟨?_, Ctx.tallyAt_stale,
      Ctx.countRaise_tally .., rfl, rfl, fun x => ⟨rfl, rfl, rfl, rfl, rfl⟩⟩⟩
  exact State.ctx_modCtx_self ..
end

section
/-! SUPPORT. NEXTT: the register that it takes, and its request (R83, R272, R273, R442). -/

namespace Sys2Proof.Machine

/-- NEXTT takes the next n register in turn, as context y tells it, and its request is in flight: the count and the value are to return (R83, R273). -/
def State.nexttTaken (s : State) (o : AB) (y : Ctx) : State :=
  (s.filled [s.kA o.a o.ha, s.kB o.b o.hb]).modCtx s.cur fun x => x.takeN.push
    { mkRes .n y.nrot.toNat 0 (s.now + if (s.ctx s.cur).det then 1600 else 0) with fixed := false, need := 2, bun := y.bundles + 6 }

/-- The read-modify-write that NEXTT asks for (R272). -/
def State.nexttOp (s : State) (o : AB) : Rmw := .nextt ((s.kB o.b o.hb).d.toNat % 2 ^ 32) ((s.kB o.b o.hb).d.toNat / 2 ^ 32)

/-- Filling the hold latches of the running context changes them alone (R69). -/
theorem State.filled_ctx (s : State) (ops : List Opnd) :
    ∃ l p, (s.filled ops).ctx s.cur = { s.ctx s.cur with r := { (s.ctx s.cur).r with latch := l, latchp := p } } := by
  obtain ⟨l, p, h⟩ := (s.ctx s.cur).fill_changes (ops.flatMap fun o => o.fill)
  exact ⟨l, p, (State.ctx_modCtx_self ..).trans h⟩

theorem State.filled_nextSeq (s : State) (ops : List Opnd) : ((s.filled ops).ctx s.cur).nextSeq = (s.ctx s.cur).nextSeq := by
  obtain ⟨l, p, h⟩ := s.filled_ctx ops
  rw [h]

theorem State.nexttTaken_filled (s : State) (o : AB) (ops : List Opnd) :
    s.nexttTaken o ((s.filled ops).ctx s.cur) = s.nexttTaken o (s.ctx s.cur) := by
  obtain ⟨l, p, h⟩ := s.filled_ctx ops
  rw [h]
  rfl

section
variable {s : State} (h : s.Issuing) (o : AB)
include h

/-- A request that is not local goes to ROUT (R185, R272). -/
theorem exec_nextt_far (hl : s.isLocal (coreOf s.cur) (s.kA o.a o.ha).d.toNat = false) : exec (.nextt o) s =
    .next ((s.nexttTaken o (s.ctx s.cur)).enterMem s.cur []
      [s.env.mkR (.rmw (s.kA o.a o.ha).d.toNat (s.nexttOp o)) (s.ctx s.cur).nextSeq]) := by
  have remote : s.env.isRemote (s.kA o.a o.ha).d.toNat = true := by simpa [Env.isRemote, State.env] using hl
  rw [← State.nexttTaken_filled s o [s.kA o.a o.ha, s.kB o.b o.hb], ← State.filled_nextSeq s [s.kA o.a o.ha, s.kB o.b o.hb]]
  exact (issue_finish (slotNextt o) h rfl).trans (congrArg Host.Outcome.next (if_pos remote))

/-- A request for a location of its own goes to LSQ (R182, R272). -/
theorem exec_nextt_home {l : Nat} {ps : List Nat} (hr : s.route s.cur (s.kA o.a o.ha).d.toNat .rw = .loc l ps) : exec (.nextt o) s =
    .next ((s.nexttTaken o (s.ctx s.cur)).enterMem s.cur [mkL (.rmw l (s.nexttOp o)) (s.ctx s.cur).nextSeq ps] []) := by
  have here : ¬s.env.isRemote (s.kA o.a o.ha).d.toNat = true := by simpa [Env.isRemote, State.env] using State.isLocal_of_route hr
  have route : s.env.s.route s.env.c (s.env.opnd .x o.a o.ha 14).d.toNat .rw = .loc l ps := hr
  rw [← State.nexttTaken_filled s o [s.kA o.a o.ha, s.kB o.b o.hb], ← State.filled_nextSeq s [s.kA o.a o.ha, s.kB o.b o.hb]]
  refine (issue_finish (slotNextt o) h rfl).trans (congrArg Host.Outcome.next ((if_neg here).trans ?_))
  dsimp only
  rw [route]
  rfl

/-- With four requests in flight the next one waits (R272). -/
theorem slotNextt_hold (hp : (s.ctx s.cur).preds = []) (hn : 4 ≤ (s.ctx s.cur).nexttOut s.now) : (slotNextt o s).hold = .interlock := by
  have none : s.env.x.preds.isEmpty = true := List.isEmpty_iff.2 hp
  have four : decide (4 ≤ s.env.x.nexttOut s.env.s.now) = true := decide_eq_true hn
  unfold slotNextt
  dsimp only
  rw [Slot.finish_hold _ _ _ _ h.cond, none, four]
  rfl

end

end Sys2Proof.Machine
end

section
open Sys2Proof Sys2Proof.Machine

/-- Settles O38: the request goes by its location, and the hold counts the requests in flight. -/
theorem nexttTakesTurns : Obligations.NexttTakesTurns :=
  fun _ o h => ⟨fun _ _ hr => exec_nextt_home h o hr, fun hl => exec_nextt_far h o hl, fun hp hn => slotNextt_hold h o hp hn⟩
end

section
/-! SUPPORT. The slots that send one register result (R69, R71, R74). -/

namespace Sys2Proof.Machine

/-- A context whose hold latches and stream count alone are others. -/
def Ctx.drawn (x : Ctx) (l : Vector Wide 16) (p : Vector W64 16) (n : W64) : Ctx := { x with r := { x.r with latch := l, latchp := p, srstream := n } }

/-- One result of fixed latency is sent: of the running context the hold latches and the stream count change, and the results in flight take it. -/
def State.Sends (s u : State) : Prop :=
  ∃ l p n t, t.fixed = true ∧ t.need = 0 ∧ s.now < t.due ∧ u = s.setCtx s.cur (((s.ctx s.cur).drawn l p n).push t)

/-- What the sending of a result changes. -/
theorem State.Sends.frame {s t : State} (h : s.Sends t) :
    t.mem = s.mem ∧ t.poison = s.poison ∧ t.slots = s.slots ∧ t.hub = s.hub ∧ t.cores = s.cores ∧ t.clusters = s.clusters ∧ t.dies = s.dies ∧
    t.contribs = s.contribs ∧ t.msgs = s.msgs ∧ t.saved = s.saved ∧ t.now = s.now ∧ t.agenda = s.agenda ∧ t.iss = s.iss ∧ t.cur = s.cur ∧
    (∀ c, c ≠ s.cur → t.ctx c = s.ctx c) ∧
    let x := s.ctx s.cur
    let y := t.ctx s.cur
    y = { x with
          r := { x.r with srstream := y.r.srstream, latch := y.r.latch, latchp := y.r.latchp }
          inflight := y.inflight, nextSeq := x.nextSeq + 1 } ∧
      ∃ r : Res, y.inflight = x.inflight ++ [r] ∧ r.iss = x.bundles ∧ r.fixed = true ∧ r.need = 0 ∧ s.now < r.due := by
  obtain ⟨l, p, n, r, fixed, need, due, rfl⟩ := h
  have here : (s.setCtx s.cur (((s.ctx s.cur).drawn l p n).push r)).ctx s.cur = ((s.ctx s.cur).drawn l p n).push r := by simp
  refine ⟨rfl, rfl, rfl, rfl, rfl, rfl, rfl, rfl, rfl, rfl, rfl, rfl, rfl, rfl, fun c hc => by simp [hc], ?_⟩
  rw [here]
  exact ⟨rfl, { r with seq := (s.ctx s.cur).nextSeq, iss := (s.ctx s.cur).bundles }, rfl, rfl, fixed, need, due⟩

section
variable {s : State} {t : Res} {lat : Nat}

theorem State.gives_sends (ops : List Opnd) (fixed : t.fixed = true) (need : t.need = 0) (due : s.now < t.due) : s.Sends (s.gives ops t) := by
  obtain ⟨l, p, filled⟩ := (s.ctx s.cur).fill_changes (ops.flatMap fun o => o.fill)
  have sent : s.gives ops t = s.setCtx s.cur (((s.ctx s.cur).fill (ops.flatMap fun o => o.fill)).push t) :=
    State.modCtx_modCtx s s.cur (fun x => x.fill _) fun x => x.push t
  refine ⟨l, p, (s.ctx s.cur).r.srstream, t, fixed, need, due, ?_⟩
  rw [sent, filled]
  rfl

theorem State.rounds_sends (ops : List Opnd) (rm : Rm) (n : Nat) (fixed : t.fixed = true) (need : t.need = 0) (due : s.now < t.due) :
    s.Sends (s.rounds ops rm n t) := by
  obtain ⟨l, p, filled⟩ := (s.ctx s.cur).fill_changes (ops.flatMap fun o => o.fill)
  have sent : s.rounds ops rm n t = s.setCtx s.cur ((((s.ctx s.cur).fill (ops.flatMap fun o => o.fill)).consume rm n).push t) :=
    (congrArg (fun u : State => u.sends t) (State.modCtx_modCtx ..)).trans (State.modCtx_modCtx ..)
  rw [sent, filled]
  unfold Ctx.consume
  split
  · exact ⟨l, p, _, t, fixed, need, due, rfl⟩
  · exact ⟨l, p, (s.ctx s.cur).r.srstream, t, fixed, need, due, rfl⟩

section
variable {sl : Slot} {ops : List Opnd} {psn : List (W64 × Nat)} (h : s.Issuing)
include h

/-- A slot whose effect is one result of some latency sends it. -/
theorem Slot.finish_sends (he : sl.eff = fun u => u.modCtx s.cur fun x => x.push t) (hd : t.due = s.now + lat) (fixed : t.fixed = true) (need : t.need = 0)
    (pos : 0 < lat) : s.Sends ((sl.finish s.env ops psn).eff s) := by
  rw [finish_eff sl s.env ops psn h.cond, he]
  exact State.gives_sends ops fixed need (by omega)

/-- A slot whose effect is some draws and one result of some latency sends it. -/
theorem Slot.finish_rounds_sends {rm : Rm} {n : Nat} (he : sl.eff = fun u => (u.modCtx s.cur fun x => x.consume rm n).modCtx s.cur fun x => x.push t)
    (hd : t.due = s.now + lat) (fixed : t.fixed = true) (need : t.need = 0) (pos : 0 < lat) : s.Sends ((sl.finish s.env ops psn).eff s) := by
  rw [finish_eff sl s.env ops psn h.cond, he]
  exact State.rounds_sends ops rm n fixed need (by omega)

end
end

section
variable {s : State} (h : s.Issuing)
include h

/-- VADD, VSUB and VMUL, of integers and of FP32 (R476). -/
theorem vArithSlot_sends (legal : Bool) (op : Nat) (o : R3) (v : BitVec 4) : s.Sends ((vArithSlot s.env legal op o v).eff s) := by
  unfold vArithSlot
  dsimp only
  split
  · exact Slot.finish_rounds_sends h rfl rfl rfl rfl (by decide)
  · exact Slot.finish_rounds_sends h rfl rfl rfl rfl (by decide)

/-- VBCAST of a lane and of an x register (R478). -/
theorem slotVbcast_sends (o : R3) (ln : Bool) : s.Sends ((slotVbcast o ln s).eff s) := by
  cases ln with
  | true => exact Slot.finish_sends h rfl rfl rfl rfl (by decide)
  | false => exact Slot.finish_sends h rfl rfl rfl rfl (by decide)

theorem slotMovx_sends (o : R2) {v : BitVec 4} (hv : v ≠ 2) : s.Sends ((slotMovx o v s).eff s) := by
  have moved := issue_movx h o hv
  rw [issue_checked _ s h.checked] at moved
  rw [Host.Outcome.next.inj moved]
  exact State.gives_sends _ rfl rfl (Nat.lt_add_of_pos_right (by decide))

/-- Every slot that sends one result: by its own form, with draws, or without. -/
theorem slotOf_sends {i : Instr} (hi : sendsOne i = true) : s.Sends ((slotOf i s).eff s) := by
  cases i
  case movx o v => exact slotMovx_sends h o (bne_iff_ne.1 hi)
  case vadd | vsub | vmul => exact vArithSlot_sends h ..
  case vbcast => exact slotVbcast_sends h ..
  case fadd | fsub | fmul | fma | fdiv | fsqrt | frsq | fcvt | vfma | vmin | vmax | vand | vor | vxor | vshl | vshr | vcvt | vred | vexp2 | vlog2 | vrcp |
      vrsq => exact Slot.finish_rounds_sends h rfl rfl rfl rfl (by decide)
  all_goals cases hi
  all_goals exact Slot.finish_sends h rfl rfl rfl rfl (by decide)

end

/-- A slot of a bundle that issues goes on to its effect. -/
theorem exec_sendsOne {i : Instr} {s : State} (hi : sendsOne i = true) (h : s.Issuing) : exec i s = .next ((slotOf i s).eff s) := by
  cases i
  case movx o v => exact issue_checked _ s h.checked
  all_goals cases hi
  all_goals exact issue_checked _ s h.checked

end Sys2Proof.Machine
end

section
open Sys2Proof Sys2Proof.Machine

/-- Settles O44: each of the slots sends one result, and a sending has this frame. -/
theorem registerSlotFrame : Obligations.RegisterSlotFrame := by
  intro i s t hi h ht
  rw [exec_sendsOne hi h] at ht
  rw [← Host.Outcome.next.inj ht]
  exact (slotOf_sends h hi).frame
end

section
/-! SUPPORT. Results that land: which ones, in which lanes, and what they leave as it was (R65, R71 to R75, R83, R89, R273, R313). -/

namespace Sys2Proof.Machine

/-! ### Lanes -/

/-- The digits of 32 bits of a fold, bit by bit. -/
theorem testBit_foldr_digits (f : Nat → W32) (xs : List Nat) (j : Nat) :
    (xs.foldr (fun l (acc : Nat) => (f l).toNat + 2 ^ 32 * acc) 0).testBit j = (xs[j / 32]?.any fun l => (f l).getLsbD (j % 32)) := by
  induction xs generalizing j with
  | nil => simp
  | cons l r ih =>
    rw [List.foldr_cons, Nat.add_comm, Nat.testBit_two_pow_mul_add _ (f l).isLt]
    split
    · next h => simp [Nat.div_eq_of_lt h, Nat.mod_eq_of_lt h, BitVec.getLsbD]
    · next h =>
      obtain ⟨k, rfl⟩ := Nat.exists_eq_add_of_le (Nat.not_lt.1 h)
      rw [ih]
      simp [Nat.add_comm 32 k]

theorem getLsbD_ofLanes (f : Nat → W32) {l i : Nat} (hl : l < 64) (hi : i < 32) : (ofLanes f).getLsbD (32 * l + i) = (f l).getLsbD i := by
  have digit : (32 * l + i) / 32 = l := by omega
  have place : (32 * l + i) % 32 = i := by omega
  have bound : 32 * l + i < 2048 := by omega
  rw [ofLanes, BitVec.getLsbD_ofNat, testBit_foldr_digits, digit, place]
  simp [bound, hl]

theorem getLsbD_mixBits {w : Nat} (m new old : BitVec w) {l : Nat} (hl : l < w) :
    (mixBits m new old).getLsbD l = if m.getLsbD l then new.getLsbD l else old.getLsbD l := by
  cases h : m.getLsbD l <;> simp [mixBits, h, hl, -BitVec.getLsbD_eq_getElem]

/-- A lane of the mix of two values under a mask of lanes. -/
theorem lane_mixBits (m : W64) (new old : Wide) {l : Nat} (hl : l < 64) :
    lane (mixBits (laneBits m) new old) l = if m.getLsbD l then lane new l else lane old l := by
  refine BitVec.eq_of_getLsbD_eq fun i hi => ?_
  have ones : (0xFFFFFFFF : W32).getLsbD i = true := (BitVec.getLsbD_allOnes (v := 32)).trans (decide_eq_true hi)
  have mask : (laneBits m).getLsbD (32 * l + i) = m.getLsbD l := by
    rw [laneBits, getLsbD_ofLanes _ hl hi]
    cases m.getLsbD l
    · exact BitVec.getLsbD_zero
    · exact ones
  rw [lane, BitVec.getLsbD_extractLsb', getLsbD_mixBits _ _ _ (by omega), mask]
  cases m.getLsbD l
  · exact (BitVec.getLsbD_extractLsb' ..).symm
  · exact (BitVec.getLsbD_extractLsb' ..).symm

/-! ### What a landing leaves as it was -/

/-- The program counter, the queues, the results in flight and the stop of a context are as they were. -/
structure Ctx.Steady (x y : Ctx) : Prop where
  pc : y.pc = x.pc
  lsq : y.lsq = x.lsq
  rout : y.rout = x.rout
  inflight : y.inflight = x.inflight
  stop : y.stop = x.stop

theorem Ctx.writeSr_steady (x : Ctx) (n : Nat) (v : W64) : x.Steady (x.writeSr n v) := by
  unfold Ctx.writeSr
  split
  case h_2 =>
    dsimp only
    split <;> exact ⟨rfl, rfl, rfl, rfl, rfl⟩
  all_goals exact ⟨rfl, rfl, rfl, rfl, rfl⟩

theorem Ctx.landSr_steady (x : Ctx) (n : Nat) (v : W64) : x.Steady (x.landSr n v) := by
  unfold Ctx.landSr
  split
  case h_5 => exact Ctx.writeSr_steady ..
  all_goals exact ⟨rfl, rfl, rfl, rfl, rfl⟩

theorem Ctx.landReg_steady (x : Ctx) (t : Res) : x.Steady (x.landReg t) := by
  unfold Ctx.landReg
  cases t.file
  case sr =>
    obtain ⟨hp, hl, hr, hi, hs⟩ := x.landSr_steady t.idx (t.val.setWidth 64)
    exact ⟨hp, hl, hr, hi, hs⟩
  case x | y =>
    dsimp only
    split <;> exact ⟨rfl, rfl, rfl, rfl, rfl⟩
  all_goals exact ⟨rfl, rfl, rfl, rfl, rfl⟩

/-- The context that a result lands in: its register file but for the flags of a discarded result, or with what is left of the result. -/
def Ctx.takes (x : Ctx) (n : Nat) (t : Res) : Ctx :=
  if t.hidden n || decide (t.sup ≠ 0) then x.modR fun r => { r with fpflags := r.fpflags ||| t.flags } else x.landReg (t.beside n)

/-- The results in flight once a result has landed. -/
def Ctx.yielded (x : Ctx) (n : Nat) (t : Res) : List Res := (x.inflight.filter fun u => u.seq != t.seq).map fun u => u.yield t n

theorem Ctx.takes_steady (x : Ctx) (n : Nat) (t : Res) : x.Steady (x.takes n t) := by
  unfold Ctx.takes
  split
  · exact ⟨rfl, rfl, rfl, rfl, rfl⟩
  · exact Ctx.landReg_steady ..

theorem Ctx.land_steady (x : Ctx) (n : Nat) (t : Res) : ({ x with inflight := x.yielded n t } : Ctx).Steady (x.land n t) := by
  obtain ⟨hp, hl, hr, hi, hs⟩ := ({ x with inflight := x.yielded n t } : Ctx).takes_steady n t
  exact ⟨hp, hl, hr, hi, hs⟩

@[simp] theorem Ctx.land_inflight (x : Ctx) (n : Nat) (t : Res) : (x.land n t).inflight = x.yielded n t := (x.land_steady n t).inflight

/-! ### Which results land -/

/-- A fixed result, or one that has returned, whose cycle has come (R71). -/
def Res.isDue (t : Res) (now : Nat) : Prop := t.fixed = true ∧ t.need = 0 ∧ t.due ≤ now

theorem pickDue_mem {now : Nat} {l : List Res} {t : Res} (h : pickDue now l = some t) : t ∈ l := by
  induction l with
  | nil => cases h
  | cons u r ih =>
    unfold pickDue at h
    split at h
    · split at h
      · exact Option.some.inj h ▸ List.mem_cons_self
      · cases h
    · next hw =>
      split at h
      · exact Option.some.inj h ▸ List.mem_cons_self
      · exact List.mem_cons_of_mem _ (ih (hw.trans h))

theorem pickDue_none {now : Nat} {l : List Res} (h : pickDue now l = none) : ∀ t ∈ l, ¬t.isDue now := by
  induction l with
  | nil => simp
  | cons u r ih =>
    unfold pickDue at h
    split at h
    · next hr =>
      split at h
      · cases h
      · next hu =>
        rintro t (_ | ⟨_, ht⟩)
        · simpa [Res.isDue] using hu
        · exact ih hr t ht
    · split at h <;> cases h

/-- The result that lands leaves the results in flight. -/
theorem Ctx.yielded_length {x : Ctx} {t : Res} (h : t ∈ x.inflight) (n : Nat) : (x.yielded n t).length < x.inflight.length := by
  rw [Ctx.yielded, List.length_map]
  exact List.length_filter_lt_length_iff_exists.2 ⟨t, h, by simp⟩

/-- No result that is due stays in flight (R71). -/
theorem landDueL_rest (now n : Nat) (x : Ctx) (h : x.inflight.length ≤ n) : ∀ t ∈ (landDueL now n x).inflight, ¬t.isDue now := by
  induction n generalizing x with
  | zero =>
    have none : x.inflight = [] := List.length_eq_zero_iff.1 (Nat.le_zero.1 h)
    simp [landDueL, none]
  | succ n ih =>
    unfold landDueL
    split
    · next hp => exact pickDue_none hp
    · next t hp =>
      have := x.yielded_length (pickDue_mem hp) t.due
      exact ih _ (by rw [Ctx.land_inflight]; omega)

/-- The one result in flight lands when it is due. -/
theorem Ctx.landDue_single {x : Ctx} {t : Res} (hx : x.inflight = [t]) {now : Nat} (h : t.isDue now) : x.landDue now = x.land t.due t := by
  obtain ⟨fixed, need, due⟩ := h
  have pick : pickDue now x.inflight = some t := by simp [hx, pickDue, fixed, need, due]
  unfold Ctx.landDue
  rw [hx]
  simp only [List.length_singleton, landDueL, pick]

/-! ### The fixed results of a context -/

/-- A landing touches the core alone, beside the context. -/
theorem State.landCore_same (s : State) (k : Nat) (t : Res) :
    (s.landCore k t).mem = s.mem ∧ (s.landCore k t).ctxs = s.ctxs := by
  unfold State.landCore
  split
  · exact ⟨rfl, rfl⟩
  · split <;> exact ⟨rfl, rfl⟩

theorem State.landCores_same (s : State) (k : Nat) (l : List Res) :
    (l.foldl (fun s t => s.landCore k t) s).mem = s.mem ∧ (l.foldl (fun s t => s.landCore k t) s).ctxs = s.ctxs := by
  induction l generalizing s with
  | nil => exact ⟨rfl, rfl⟩
  | cons t r ih =>
    obtain ⟨hm, hc⟩ := s.landCore_same k t
    obtain ⟨hm', hc'⟩ := ih (s.landCore k t)
    exact ⟨hm'.trans hm, hc'.trans hc⟩

/-- The fixed results of a context land up to its horizon. -/
theorem State.landCtx_ctx (s : State) (c : Nat) : (s.landCtx c).mem = s.mem ∧ (∀ d, d ≠ c → (s.landCtx c).ctx d = s.ctx d) ∧
    ∀ h, (s.ctx c).horizon s.now = some h → (s.landCtx c).ctx c = (s.ctx c).landDue h := by
  unfold State.landCtx
  dsimp only
  split
  · next none => exact ⟨rfl, fun _ _ => rfl, fun h hs => by rw [none] at hs; cases hs⟩
  · next h hh =>
    obtain ⟨mem, ctxs⟩ := s.landCores_same (coreOf c) ((s.ctx c).inflight.filter fun t => t.fixed && decide (t.need = 0) && decide (t.due ≤ h))
    have ctx (d : Nat) : State.ctx (((s.ctx c).inflight.filter fun t => t.fixed && decide (t.need = 0) && decide (t.due ≤ h)).foldl
      (fun s t => s.landCore (coreOf c) t) s) d = s.ctx d := congrArg (fun m => Table.get m d _) ctxs
    refine ⟨mem, fun d hd => ?_, fun h' hs => ?_⟩
    · rw [State.ctx_modCtx, if_neg hd, ctx]
    · rw [hh] at hs
      cases hs
      rw [State.ctx_modCtx_self, ctx]

/-- A context that runs lands what is due in the present cycle (R71). -/
theorem Ctx.horizon_run {x : Ctx} (hp : x.phase = .run) (hr : x.replay = false) (now : Nat) : x.horizon now = some now := by
  unfold Ctx.horizon
  simp [hp, hr]

/-! ### The register that a result writes -/

section
variable (x : Ctx) {t : Res}

theorem Ctx.landReg_zero (hf : t.file = .x ∨ t.file = .y) (hi : t.idx = 0) : (x.landReg t).r = { x.r with fpflags := x.r.fpflags ||| t.flags } := by
  unfold Ctx.landReg
  rcases hf with hf | hf <;> simp [hf, hi, Ctx.modR]

variable {i : BitVec 5} (hi : t.idx = i.toNat)
include hi

theorem Ctx.landReg_x (hf : t.file = .x) (h0 : i ≠ 0) : (x.landReg t).r =
    { x.r with x := x.r.x.set i.toNat (t.val.setWidth 64) i.isLt, xp := putBit x.r.xp i.toNat (t.psn.getLsbD 0), fpflags := x.r.fpflags ||| t.flags } := by
  have pos : i.toNat ≠ 0 := fun h => h0 (BitVec.eq_of_toNat_eq h)
  unfold Ctx.landReg
  simp [hf, hi, Nat.mod_eq_of_lt i.isLt, pos, Ctx.modR]

theorem Ctx.landReg_y (hf : t.file = .y) (h0 : i ≠ 0) : (x.landReg t).r =
    { x.r with y := x.r.y.set i.toNat (t.val.setWidth 64) i.isLt, yp := putBit x.r.yp i.toNat (t.psn.getLsbD 0), fpflags := x.r.fpflags ||| t.flags } := by
  have pos : i.toNat ≠ 0 := fun h => h0 (BitVec.eq_of_toNat_eq h)
  unfold Ctx.landReg
  simp [hf, hi, Nat.mod_eq_of_lt i.isLt, pos, Ctx.modR]

theorem Ctx.landReg_v (hf : t.file = .v) : (x.landReg t).r =
    { x.r with
      v := x.r.v.set i.toNat (mixBits (laneBits t.cover) t.val (x.getV i)) i.isLt
      vp := x.r.vp.set i.toNat (mixBits t.cover t.psn (x.r.vp[i.toNat]'i.isLt)) i.isLt
      fpflags := x.r.fpflags ||| t.flags } := by
  unfold Ctx.landReg
  simp [hf, hi, Nat.mod_eq_of_lt i.isLt, Ctx.modR, Ctx.getV, Res.cover]

end

theorem Ctx.landReg_q (x : Ctx) {t : Res} {i : BitVec 3} (hi : t.idx = i.toNat) (hf : t.file = .q) : (x.landReg t).r =
    { x.r with q := x.r.q.set i.toNat (mixBits t.cover (t.val.setWidth 64) (x.getQ (i.setWidth 5))) i.isLt, fpflags := x.r.fpflags ||| t.flags } := by
  have wide : i.toNat % 32 % 8 = i.toNat := by omega
  unfold Ctx.landReg
  simp [hf, hi, Nat.mod_eq_of_lt i.isLt, Ctx.modR, Ctx.getQ, Res.cover, wide]

/-! ### What of a result is written -/

section
variable (x : Ctx) (n : Nat) {t : Res}

theorem Res.cover_eq (t : Res) : t.cover = if t.lm then t.lanes else BitVec.allOnes 64 := rfl

/-- A result that is neither superseded nor hidden is written, but for the lanes of later slots of its bundle (R75). -/
theorem Ctx.land_shown (hs : t.sup = 0) (hh : t.hidden n = false) :
    (x.land n t).r = (({ x with inflight := x.yielded n t } : Ctx).landReg (t.beside n)).r := by
  change (({ x with inflight := x.yielded n t } : Ctx).takes n t).r = _
  rw [Ctx.takes, if_neg (by simp [hs, hh])]

/-- A result that none supersedes, beside no later slot's of its cycle, lands whole (R75). -/
theorem Ctx.land_whole (hs : t.sup = 0) (ht : t.tie = 0 ∨ t.tie ≠ n) :
    (x.land n t).r = (({ x with inflight := x.yielded n t } : Ctx).landReg t).r := by
  have alone : ¬(t.tie ≠ 0 ∧ t.tie = n) := fun h => ht.elim h.1 fun k => k h.2
  have shown : t.hidden n = false := by rcases ht with h | h <;> simp [Res.hidden, h]
  rw [x.land_shown n hs shown, Res.beside, if_neg alone]

/-- Of a result that later slots of its bundle cover in part, the rest lands (R75). -/
theorem Ctx.land_rest (hs : t.sup = 0) (ht : t.tie ≠ 0) (hn : t.tie = n) (hr : t.cover &&& ~~~t.tied ≠ 0) :
    (x.land n t).r = (({ x with inflight := x.yielded n t } : Ctx).landReg { t with lm := true, lanes := t.cover &&& ~~~t.tied }).r := by
  have shown : t.hidden n = false := by rw [Res.hidden, decide_eq_false hr, Bool.and_false]
  rw [x.land_shown n hs shown, Res.beside, if_pos ⟨ht, hn⟩]

/-- A result that is superseded, or that later slots of its bundle cover, leaves its flags alone (R75, R89). -/
theorem Ctx.land_discarded (h : t.sup ≠ 0 ∨ (t.tie ≠ 0 ∧ t.tie = n ∧ t.cover &&& ~~~t.tied = 0)) :
    (x.land n t).r = { x.r with fpflags := x.r.fpflags ||| t.flags } := by
  have gone : (t.hidden n || decide (t.sup ≠ 0)) = true := by
    rcases h with h | ⟨h0, hn, hc⟩
    · simp [h]
    · simp [Res.hidden, hc, hn, hn ▸ h0]
  change (({ x with inflight := x.yielded n t } : Ctx).takes n t).r = _
  rw [Ctx.takes, if_pos gone]
  rfl

end

/-! ### The events of a result -/

/-- That a variable result has returned does not bear on how it lands. -/
theorem Ctx.land_returned {x : Ctx} {t : Res} (hx : x.inflight = [t]) (now : Nat) :
    (x.returns now t.seq).land now { t with fixed := true, due := now } = x.land now t := by
  have beside : ({ t with fixed := true, due := now } : Res).beside now = { t.beside now with fixed := true, due := now } := by
    unfold Res.beside
    split <;> rfl
  have write (y : Ctx) : y.landReg (({ t with fixed := true, due := now } : Res).beside now) = y.landReg (t.beside now) := by
    rw [beside]
    rfl
  have hidden : ({ t with fixed := true, due := now } : Res).hidden now = t.hidden now := rfl
  unfold Ctx.land
  simp only [write, hidden]
  simp [Ctx.returns, hx]

section
variable {s : State} {c : Nat} {t : Res} (hx : (s.ctx c).inflight = [t])
include hx

/-- The one result in flight, once it has returned, lands as a fixed result that is due now does (R74). -/
theorem State.landCtx_returns (hf : t.file ≠ .sr) (need : t.need = 0) (hh : (s.ctx c).horizon s.now = some s.now) :
    (s.modCtx c fun x => x.returns s.now t.seq).landCtx c = s.modCtx c fun x => x.land s.now t := by
  have back : ((s.ctx c).returns s.now t.seq).inflight = [{ t with fixed := true, due := s.now }] := by simp [Ctx.returns, hx]
  have horizon : (((s.modCtx c fun x => x.returns s.now t.seq)).ctx c).horizon s.now = some s.now := by
    rw [State.ctx_modCtx_self]
    exact hh
  unfold State.landCtx
  dsimp only
  rw [State.modCtx_now, horizon]
  dsimp only
  rw [State.ctx_modCtx_self, back]
  simp only [List.filter_cons, need, le_refl, decide_true, Bool.and_self, if_true, List.filter_nil, List.foldl_cons, List.foldl_nil]
  rw [State.landCore, if_pos hf, State.modCtx_modCtx]
  have landed := Ctx.landDue_single back (now := s.now) ⟨rfl, need, Nat.le_refl _⟩
  exact congrArg (s.setCtx c) (landed.trans (Ctx.land_returned hx s.now))

/-- VARIABLE_RESULT_LAND before the result has returned. -/
theorem exec_variableResultLand_early (h : t.returned s.now = false) : exec (.variableResultLand c t.seq) s = .next s := by
  change execVariableResultLand c t.seq s = _
  have none : ((s.ctx c).inflight.find? fun u => decide (u.seq = t.seq) && u.returned s.now) = none := by simp [hx, h]
  rw [execVariableResultLand, none]

/-- VARIABLE_RESULT_LAND of the one result in flight, whether it lands among the fixed results or beside a snapshot (R74, R313). -/
theorem exec_variableResultLand_returned (h : t.returned s.now = true) (hf : t.file ≠ .sr)
    (hh : ((s.moveF c t).ctx c).horizon s.now = some s.now ∨ ((s.moveF c t).ctx c).horizon s.now = none) :
    exec (.variableResultLand c t.seq) s = .next ((s.moveF c t).modCtx c fun x => x.land s.now t) := by
  have found : ((s.ctx c).inflight.find? fun u => decide (u.seq = t.seq) && u.returned s.now) = some t := by simp [hx, h]
  have need : t.need = 0 := by simp only [Res.returned, Bool.and_eq_true, decide_eq_true_eq] at h; exact h.1.2
  have now : (s.moveF c t).now = s.now := by unfold State.moveF; split <;> rfl
  have flight : ((s.moveF c t).ctx c).inflight = [t] := by
    unfold State.moveF
    split
    · rw [State.ctx_modCtx_self]
      exact hx
    · exact hx
  change execVariableResultLand c t.seq s = _
  rw [execVariableResultLand, found]
  dsimp only
  rcases hh with hh | hh
  · rw [if_pos hh]
    rw [← now] at hh
    exact congrArg Host.Outcome.next (by simpa only [now] using State.landCtx_returns flight hf need hh)
  · rw [if_neg (by simp [hh])]
    rw [← now] at hh
    have still : (s.moveF c t).landCtx c = s.moveF c t := by
      unfold State.landCtx
      dsimp only
      rw [hh]
    rw [still]

end

/-- FIXED_RESULT_LAND lands what is due, in the context and its core alone (R71). -/
theorem exec_fixedResultLand (s : State) (c : Nat) : ∃ t, exec (.fixedResultLand c) s = .next t ∧ t.mem = s.mem ∧
    (∀ d, d ≠ c → t.ctx d = s.ctx d) ∧
    ((s.ctx c).phase = .run → (s.ctx c).replay = false → t.ctx c = (s.ctx c).landDue s.now) := by
  obtain ⟨mem, other, here⟩ := s.landCtx_ctx c
  exact ⟨_, rfl, mem, other, fun run replay => here _ (Ctx.horizon_run run replay _)⟩

section
variable {s : State} {c : Nat} {t : Res} (hx : (s.ctx c).inflight = [t])
include hx

/-- A context that runs takes a result that has returned in the present cycle (R74). -/
theorem exec_variableResultLand_run (h : t.returned s.now = true) (hf : t.file ≠ .sr) (run : (s.ctx c).phase = .run) :
    exec (.variableResultLand c t.seq) s = .next (s.modCtx c fun x => x.land s.now t) := by
  have still : s.moveF c t = s := by simp [State.moveF, State.holdsFor, run]
  have landed := exec_variableResultLand_returned hx h hf
  rw [still] at landed
  refine landed ?_
  cases replay : (s.ctx c).replay with
  | false => exact .inl (Ctx.horizon_run run replay _)
  | true => exact .inr (by simp [Ctx.horizon, replay])

/-- F of a context that stops moves to a result for which its next bundle would have been held, and the result lands (R313). -/
theorem exec_variableResultLand_stopping (h : t.returned s.now = true) (hf : t.file ≠ .sr) {st : Stop} (hst : (s.ctx c).stop = some st)
    (hold : s.holdsFor c t = true) : exec (.variableResultLand c t.seq) s =
      .next (s.modCtx c fun x => ({ x with stop := x.stop.map fun st => { st with f := max st.f s.now } } : Ctx).land s.now t) := by
  have stopping : (s.ctx c).phase = .stopping := by
    unfold State.holdsFor at hold
    exact of_decide_eq_true (Bool.and_eq_true_iff.1 hold).1
  have moved : s.moveF c t = s.modCtx c fun x => { x with stop := x.stop.map fun st => { st with f := max st.f s.now } } := if_pos hold
  have landed := exec_variableResultLand_returned hx h hf
  rw [moved, State.modCtx_modCtx, State.ctx_modCtx_self] at landed
  refine landed ?_
  unfold Ctx.horizon
  cases replay : (s.ctx c).replay with
  | false => exact .inl (by simp [stopping, hst])
  | true => exact .inr (by simp)

/-- The count of a NEXTT request returns beside its value (R273). -/
theorem exec_nexttReply (hf : t.file = .n) (need : t.need = 1) : exec (.nexttReply c 0) s =
    .next (s.modCtx c fun x => { x with inflight := [{ t with need := 0 }] }) := by
  change execNexttReply c 0 s = _
  have found : ((s.ctx c).inflight.filter fun u => decide (u.file = .n))[0]? = some t := by simp [hx, hf]
  rw [execNexttReply, found]
  dsimp only
  rw [if_pos need]
  exact congrArg (fun x => Host.Outcome.next (s.setCtx c x)) (by simp [Ctx.deliver, hx, need])

end

/-! ### The register after a landing -/

section
variable (v : Vector W64 32) (a : W64) {i : BitVec 5}

/-- A register but the zero register reads what was written to it, and the others as before (R83). -/
theorem scalar_set (h0 : i ≠ 0) : (if i = 0 then 0 else (v.set i.toNat a i.isLt)[i.toNat]'i.isLt) = a ∧
    ∀ j : BitVec 5, j ≠ i → (if j = 0 then 0 else (v.set i.toNat a i.isLt)[j.toNat]'j.isLt) = if j = 0 then 0 else v[j.toNat]'j.isLt := by
  refine ⟨(if_neg h0).trans (Vector.getElem_set_self ..), fun j hj => ?_⟩
  rw [Vector.getElem_set_ne _ _ fun h => hj (BitVec.eq_of_toNat_eq h.symm)]

end

theorem Res.cover_bit (t : Res) {l : Nat} (hl : l < 64) : t.cover.getLsbD l = (!t.lm || t.lanes.getLsbD l) := by
  rw [Res.cover_eq]
  cases t.lm with
  | false => exact BitVec.getLsbD_allOnes.trans (decide_eq_true hl)
  | true => rfl

section
variable (x : Ctx) {n : Nat} {t : Res} {i : BitVec 5} (hi : t.idx = i.toNat)
include hi

/-- The lanes that a landing v result writes, and no others. -/
theorem Ctx.landReg_lane (hf : t.file = .v) {l : Nat} (hl : l < 64) :
    lane ((x.landReg t).getV i) l = if t.cover.getLsbD l then lane t.val l else lane (x.getV i) l := by
  rw [Ctx.getV, Ctx.landReg_v x hi hf]
  exact (congrArg (lane · l) (Vector.getElem_set_self ..)).trans (lane_mixBits _ _ _ hl)

variable (hs : t.sup = 0)
include hs

section
variable (ht : t.tie = 0 ∨ t.tie ≠ n)
include ht

theorem Ctx.land_x (hf : t.file = .x) (h0 : i ≠ 0) : (x.land n t).getX i = t.val.setWidth 64 ∧ (∀ j : BitVec 5, j ≠ i → (x.land n t).getX j = x.getX j) ∧
    (x.land n t).r.y = x.r.y ∧ (x.land n t).r.v = x.r.v ∧ (x.land n t).r.q = x.r.q ∧ (x.land n t).r.g = x.r.g ∧ (x.land n t).r.m = x.r.m ∧
    (x.land n t).r.fpflags = x.r.fpflags ||| t.flags := by
  obtain ⟨self, other⟩ := scalar_set x.r.x (t.val.setWidth 64) h0
  unfold Ctx.getX
  rw [x.land_whole n hs ht, Ctx.landReg_x _ hi hf h0]
  exact ⟨self, other, rfl, rfl, rfl, rfl, rfl, rfl⟩

theorem Ctx.land_y (hf : t.file = .y) (h0 : i ≠ 0) : (x.land n t).getY i = t.val.setWidth 64 ∧ (∀ j : BitVec 5, j ≠ i → (x.land n t).getY j = x.getY j) ∧
    (x.land n t).r.x = x.r.x ∧ (x.land n t).r.v = x.r.v ∧ (x.land n t).r.q = x.r.q ∧ (x.land n t).r.g = x.r.g ∧ (x.land n t).r.m = x.r.m ∧
    (x.land n t).r.fpflags = x.r.fpflags ||| t.flags := by
  obtain ⟨self, other⟩ := scalar_set x.r.y (t.val.setWidth 64) h0
  unfold Ctx.getY
  rw [x.land_whole n hs ht, Ctx.landReg_y _ hi hf h0]
  exact ⟨self, other, rfl, rfl, rfl, rfl, rfl, rfl⟩

theorem Ctx.land_v (hf : t.file = .v) {l : Nat} (hl : l < 64) :
    lane ((x.land n t).getV i) l = (if t.lm = true ∧ t.lanes.getLsbD l = false then lane (x.getV i) l else lane t.val l) ∧
    (∀ j : BitVec 5, j ≠ i → (x.land n t).getV j = x.getV j) ∧ (x.land n t).r.x = x.r.x ∧ (x.land n t).r.y = x.r.y ∧ (x.land n t).r.q = x.r.q := by
  have written := Ctx.landReg_lane { x with inflight := x.yielded n t } hi hf hl
  unfold Ctx.getV at written ⊢
  rw [x.land_whole n hs ht]
  refine ⟨written.trans ?_, ?_⟩
  · rw [t.cover_bit hl]
    cases t.lm <;> cases t.lanes.getLsbD l <;> rfl
  · rw [Ctx.landReg_v { x with inflight := x.yielded n t } hi hf]
    exact ⟨fun j hj => Vector.getElem_set_ne i.isLt j.isLt fun h => hj (BitVec.eq_of_toNat_eq h.symm), rfl, rfl, rfl⟩

end

/-- Beside later slots of its bundle a v result writes what they leave of its lanes (R75). -/
theorem Ctx.land_beside (ht : t.tie ≠ 0) (hn : t.tie = n) (hr : t.cover &&& ~~~t.tied ≠ 0) (hf : t.file = .v) {l : Nat} (hl : l < 64) :
    lane ((x.land n t).getV i) l = if (t.cover &&& ~~~t.tied).getLsbD l then lane t.val l else lane (x.getV i) l := by
  have written := Ctx.landReg_lane { x with inflight := x.yielded n t } (t := { t with lm := true, lanes := t.cover &&& ~~~t.tied }) hi hf hl
  unfold Ctx.getV at written ⊢
  rw [x.land_rest n hs ht hn hr]
  exact written

end

theorem Ctx.land_q (x : Ctx) {n : Nat} {t : Res} {i : BitVec 3} (hi : t.idx = i.toNat) (hs : t.sup = 0) (ht : t.tie = 0 ∨ t.tie ≠ n) (hf : t.file = .q)
    {l : Nat} (hl : l < 64) :
    ((x.land n t).getQ (i.setWidth 5)).getLsbD l =
      (if t.lm = true ∧ t.lanes.getLsbD l = false then (x.getQ (i.setWidth 5)).getLsbD l else t.val.getLsbD l) ∧
    (x.land n t).r.x = x.r.x ∧ (x.land n t).r.y = x.r.y ∧ (x.land n t).r.v = x.r.v := by
  have index : (i.setWidth 5).toNat % 8 = i.toNat := by simp; omega
  unfold Ctx.getQ
  rw [x.land_whole n hs ht, Ctx.landReg_q _ hi hf]
  refine ⟨?_, rfl, rfl, rfl⟩
  simp only [index, Vector.getElem_set_self, getLsbD_mixBits _ _ _ hl, t.cover_bit hl, Ctx.getQ]
  cases t.lm <;> cases t.lanes.getLsbD l <;> simp [hl, -BitVec.getLsbD_eq_getElem]

/-- The results of the same register that are in flight while one lands (R75). -/
theorem Ctx.yielded_single {x : Ctx} {t u : Res} (hx : x.inflight = [u]) (h : u.seq < t.seq) (n : Nat) : x.yielded n t = [u.yield t n] := by
  have ne : (u.seq != t.seq) = true := bne_iff_ne.2 (Nat.ne_of_lt h)
  simp [Ctx.yielded, hx, ne]

end Sys2Proof.Machine
end

section
open Sys2Proof Sys2Proof.Machine

/-- Settles O45: the events by what lands, and a landing by the file of its result. -/
theorem resultsLand : Obligations.ResultsLand := by
  refine ⟨fun s c => ?_, fun s c r hx hv hn hsr need => ⟨fun run due => ?_, fun st hst due hold => ?_, fun early => ?_⟩,
    fun s c r hx hf need => ⟨_, exec_nexttReply hx hf need, ?_⟩,
    fun x n r hs ht hp => ⟨fun i hf hi h0 => x.land_x hi hs ht hf h0, fun i hf hi h0 => x.land_y hi hs ht hf h0, fun hf h0 => ?_,
      fun i l hf hi hl => x.land_v hi hs ht hf hl, fun i l hf hi hl => x.land_q hi hs ht hf hl, ?_⟩,
    fun x n r => ⟨fun h hp => x.land_discarded n h, fun i l hs ht hn hr hp hf hi hl => x.land_beside hi hs ht hn hr hf hl⟩,
    fun x n r u hx hseq hf hi => ⟨fun iss => ?_, fun iss => ?_⟩, fun x => ⟨rfl, rfl⟩⟩
  · obtain ⟨t, ht, mem, other, here⟩ := exec_fixedResultLand s c
    refine ⟨t, ht, mem, other, fun run replay _ => ?_, fun r run replay hx fixed need due => ?_⟩
    · rw [here run replay]
      exact landDueL_rest _ _ _ (Nat.le_refl _)
    · rw [here run replay]
      exact Ctx.landDue_single hx ⟨fixed, need, due⟩
  · exact exec_variableResultLand_run hx (by simp [Res.returned, hv, hn, need, due]) hsr run
  · refine ⟨_, exec_variableResultLand_stopping hx (by simp [Res.returned, hv, hn, need, due]) hsr hst hold, rfl, ?_⟩
    rw [State.ctx_modCtx_self, Ctx.land_inflight, (Ctx.land_steady ..).stop]
    exact ⟨congrArg (Option.map _) hst, by simp [Ctx.yielded, hx]⟩
  · exact exec_variableResultLand_early hx (by simp [Res.returned, early])
  · rw [State.ctx_modCtx_self]
    exact ⟨rfl, rfl, rfl⟩
  · rw [x.land_whole n hs ht]
    exact Ctx.landReg_zero _ hf h0
  · obtain ⟨pc, lsq, rout, _, _⟩ := x.land_steady n r
    exact ⟨pc, lsq, rout⟩
  · rw [Ctx.land_inflight, Ctx.yielded_single hx hseq, Res.yield, if_pos ⟨hf, hi, iss⟩]
  · have same : ¬(u.file = r.file ∧ u.idx = r.idx ∧ u.iss < r.iss) := fun h => by omega
    rw [Ctx.land_inflight, Ctx.yielded_single hx hseq, Res.yield, if_neg same, if_pos ⟨hf, hi, iss, hseq⟩, Res.cover_eq]
end

section
/-! SUPPORT. The slots of FP32 arithmetic on scalar Y (R135, R138, R417 to R420, R422, R423). -/

namespace Sys2Proof.Machine

/-- Lane 0 of an operand is the low word of its low dword. -/
theorem Opnd.d_low_word (o : Opnd) : o.d.setWidth 32 = o.w := BitVec.setWidth_setWidth_of_le _ (by decide)

section
variable {s : State} (h : s.Issuing) (legal : Bool)
include h

/-- A slot of scalar Y under a rounding mode puts its result on its way, after its draw (R138, R417). -/
theorem issue_yRound (o : R3) (r : BitVec 3) (lat : Nat) (f : W32 → W32 → Rm → W32 → W32 × BitVec 5) :
    let a := s.yA o.a o.ha
    let b := s.yB o.b o.hb
    let m := rmSel (s.ctx s.cur) r
    issue (fun t => yRound t.env legal o r lat f) s = .next (s.rounds [a, b] m 1 (s.fRes o.d (f a.w b.w m (s.draw1 s.cur m)) lat)) := by
  intro a b m
  rw [issue_finish _ h rfl]
  rfl

/-- The same with one operand (R417, R420). -/
theorem issue_yRound1 (o : R2) (r : BitVec 3) (lat : Nat) (f : W64 → Rm → W32 → W64 × BitVec 5) :
    let a := s.yA o.a o.ha
    let m := rmSel (s.ctx s.cur) r
    let v := f a.d m (s.draw1 s.cur m)
    issue (fun t => yRound1 t.env legal o r lat f) s = .next (s.rounds [a] m 1 (s.yRes o.d v.1 lat v.2)) := by
  intro a m v
  rw [issue_finish _ h rfl]
  rfl

/-- A slot of scalar Y that does not round puts its value and its flags on their way. -/
theorem issue_yRRR (o : R3) (lat : Nat) (f : W64 → W64 → W64 × BitVec 5) :
    let a := s.yA o.a o.ha
    let b := s.yB o.b o.hb
    issue (fun t => yRRR t.env legal o lat f) s = .next (s.gives [a, b] (s.yRes o.d (f a.d b.d).1 lat (f a.d b.d).2)) := by
  intro a b
  rw [issue_finish _ h rfl]
  rfl

/-- A square root, or its inverse: a function of the low word (R417, R423). -/
theorem issue_root (o : R2) (r : BitVec 3) (lat : Nat) (f : W32 → Rm → W32 → W32 × BitVec 5) :
    let a := s.yA o.a o.ha
    let m := rmSel (s.ctx s.cur) r
    issue (fun t => yRound1 t.env legal o r lat fun a m d => ((f (a.setWidth 32) m d).1.setWidth 64, (f (a.setWidth 32) m d).2)) s =
      .next (s.rounds [a] m 1 (s.fRes o.d (f a.w m (s.draw1 s.cur m)) lat)) := by
  intro a m
  rw [issue_yRound1 h, Opnd.d_low_word]
  rfl

/-- A minimum or a maximum (R422). -/
theorem issue_pick (o : R3) (lat : Nat) (f : W32 → W32 → W32 × BitVec 5) :
    let a := s.yA o.a o.ha
    let b := s.yB o.b o.hb
    issue (fun t => yRRR t.env legal o lat fun a b => ((f (a.setWidth 32) (b.setWidth 32)).1.setWidth 64, (f (a.setWidth 32) (b.setWidth 32)).2)) s =
      .next (s.gives [a, b] (s.fRes o.d (f a.w b.w) lat)) := by
  intro a b
  rw [issue_yRRR h, Opnd.d_low_word, Opnd.d_low_word]
  rfl

end

/-- A conversion to FP32 is the rounding of the integer that its variant reads (R420). -/
theorem fcvtY_fromInt (v : Nat) (o : Opnd) (m : Rm) (u : W32) {z : Int}
    (hz : (v, z) ∈ [(0, o.w.toInt), (1, (o.w.toNat : Int)), (2, o.d.toInt), (3, (o.d.toNat : Int))]) :
    fcvtY v o.d m u = ((toF32 (numOfInt z) m u).1.setWidth 64, (toF32 (numOfInt z) m u).2) := by
  rw [← o.d_low_word] at hz
  simp only [List.mem_cons, Prod.mk.injEq, List.not_mem_nil, or_false] at hz
  obtain ⟨rfl, rfl⟩ | ⟨rfl, rfl⟩ | ⟨rfl, rfl⟩ | ⟨rfl, rfl⟩ := hz <;> rfl

/-- A conversion from FP32 is the integer of its variant's range (R420). -/
theorem fcvtY_toInt (v : Nat) (o : Opnd) (m : Rm) (u : W32) {lo hi : Int}
    (hv : (v, lo, hi) ∈ [(4, -(2 ^ 31), 2 ^ 31 - 1), (5, 0, 2 ^ 32 - 1), (6, -(2 ^ 63), 2 ^ 63 - 1), (7, 0, 2 ^ 64 - 1)]) :
    fcvtY v o.d m u = (BitVec.ofInt 64 (toInt o.w lo hi m u).1, (toInt o.w lo hi m u).2) := by
  rw [← o.d_low_word]
  simp only [List.mem_cons, Prod.mk.injEq, List.not_mem_nil, or_false] at hv
  obtain ⟨rfl, rfl, rfl⟩ | ⟨rfl, rfl, rfl⟩ | ⟨rfl, rfl, rfl⟩ | ⟨rfl, rfl, rfl⟩ := hv <;> rfl

section
variable {s : State} (h : s.Issuing) (o : R2) (v : BitVec 4)
include h

theorem issue_fcvt : let a := s.yA o.a o.ha
    let m := rmOfBits (s.ctx s.cur).r.rm
    let r := fcvtY v.toNat a.d m (s.draw1 s.cur m)
    exec (.fcvt o v) s = .next (s.rounds [a] m 1 (s.yRes o.d r.1 3 r.2)) := issue_yRound1 h _ o 0 3 _

theorem issue_fcvt_fromInt {z : Int} (hz : let a := s.yA o.a o.ha
      (v.toNat, z) ∈ [(0, a.w.toInt), (1, (a.w.toNat : Int)), (2, a.d.toInt), (3, (a.d.toNat : Int))]) :
    let m := rmOfBits (s.ctx s.cur).r.rm
    exec (.fcvt o v) s = .next (s.rounds [s.yA o.a o.ha] m 1 (s.fRes o.d (toF32 (numOfInt z) m (s.draw1 s.cur m)) 3)) := by
  intro m
  rw [issue_fcvt h, fcvtY_fromInt _ _ _ _ hz]
  rfl

theorem issue_fcvt_toInt {lo hi : Int}
    (hv : (v.toNat, lo, hi) ∈ [(4, -(2 ^ 31), 2 ^ 31 - 1), (5, 0, 2 ^ 32 - 1), (6, -(2 ^ 63), 2 ^ 63 - 1), (7, 0, 2 ^ 64 - 1)]) :
    let a := s.yA o.a o.ha
    let m := rmOfBits (s.ctx s.cur).r.rm
    let r := toInt a.w lo hi m (s.draw1 s.cur m)
    exec (.fcvt o v) s = .next (s.rounds [a] m 1 (s.yRes o.d (BitVec.ofInt 64 r.1) 3 r.2)) := by
  intro a m r
  rw [issue_fcvt h, fcvtY_toInt _ _ _ _ hv]

end

end Sys2Proof.Machine
end

section
open Sys2Proof Sys2Proof.Machine

/-- Settles O21: each slot is one of the forms above, with its operation. -/
theorem scalarFloat : Obligations.ScalarFloat := by
  refine ⟨fun s o r h => ⟨issue_yRound h _ o r 4 fAdd, issue_yRound h _ o r 4 fSub, issue_yRound h _ o r 4 fMul, issue_yRound h _ o r 14 fDiv,
      fun neg => (issue_finish (slotFma o neg r) h rfl).trans rfl, fun v => ?_, issue_pick h _ o 2 (fMinMax false), issue_pick h _ o 2 (fMinMax true)⟩,
    fun s o r h => ⟨issue_root h _ o r 14 fSqrt, issue_root h _ o r 8 fRsq, (issue_finish (slotFclass o) h rfl).trans rfl⟩, fun s o h => ?_⟩
  · refine (issue_yRRR h _ o 2 _).trans ?_
    rw [Opnd.d_low_word, Opnd.d_low_word]
  · intro a m u toF toI
    exact ⟨issue_fcvt_fromInt h o 0 (by simp [a]), issue_fcvt_fromInt h o 1 (by simp [a]), issue_fcvt_fromInt h o 2 (by simp [a]), issue_fcvt_fromInt h o 3 (by simp [a]),
      issue_fcvt_toInt h o 4 (by simp), issue_fcvt_toInt h o 5 (by simp), issue_fcvt_toInt h o 6 (by simp), issue_fcvt_toInt h o 7 (by simp)⟩
end

section
/-! SUPPORT. FP32 arithmetic on special values, and the exact value of a sum and a product of finite numbers (R132, R134, R417). -/

namespace Sys2Proof.Machine

/-! ### A NaN among the operands -/

/-- A NaN as one operand makes the result the canonical NaN, and a signalling one raises NV (R132, R417). -/
theorem nan_operand {a b : W32} {q : Bool} (ha : f32 a = .nan q) (hb : ∀ r, f32 b ≠ .nan r) (m : Rm) (u : W32) :
    let ans : W32 × BitVec 5 := (nan32, if q then 0x10 else 0)
    fAdd a b m u = ans ∧ fAdd b a m u = ans ∧ fSub a b m u = ans ∧ fMul a b m u = ans ∧ fMul b a m u = ans ∧ fDiv a b m u = ans ∧
      fDiv b a m u = ans ∧ fMinMax false a b = ans ∧ fMinMax true b a = ans ∧ fSqrt a m u = ans ∧ fRsq a m u = ans := by
  obtain ⟨nan, snan⟩ : (f32 b).isNan = false ∧ (f32 b).isSnan = false := by
    cases hx : f32 b with
    | fin | inf => exact ⟨rfl, rfl⟩
    | nan r => exact absurd hx (hb r)
  have nan' : (f32 a).isNan = true := by rw [ha]; rfl
  have snan' : (f32 a).isSnan = q := by rw [ha]; rfl
  refine ⟨?add, ?add', ?sub, ?mul, ?mul', ?div, ?div', ?min, ?max, ?sqrt, ?rsq⟩
  case add | add' | sub | mul | mul' =>
    simp only [fAdd, fSub, fMul, nan, snan, nan', snan', Bool.or_false, Bool.false_or, finish32, if_true, flNV]
  case min | max => simp only [fMinMax, nan, snan, nan', snan', Bool.or_false, Bool.false_or, if_true, flNV]
  case sqrt | rsq => simp only [fSqrt, fRsq, ha, flNV]
  case div | div' =>
    cases hx : f32 b with
    | fin | inf => simp only [fDiv, ha, hx, flNV]
    | nan r => exact absurd hx (hb r)

/-! ### Finite operands -/

/-- An integer with the sign of a value. -/
def signed (s : Bool) (z : Nat) : Int := (if s then -1 else 1) * (z : Int)

theorem Num.intAt_eq_signed (s : Bool) (m : Nat) (e e0 : Int) : Num.intAt s m e e0 = signed s (m * 2 ^ (e - e0).toNat) := by
  cases s <;> simp [Num.intAt, signed]

theorem signed_not (s : Bool) (z : Nat) : signed (!s) z = -signed s z := by
  cases s <;> simp [signed]

/-- A sum of finite values that is not zero is the sum at the lower of the two exponents (R417). -/
theorem Num.add_fin {s t : Bool} {n k : Nat} {e q z : Int} (m : Rm)
    (hz : signed s (n * 2 ^ (e - min e q).toNat) + signed t (k * 2 ^ (q - min e q).toNat) = z) (h : z ≠ 0) :
    (Num.fin s n e).add (.fin t k q) m = .fin (decide (z < 0)) z.natAbs (min e q) := by
  have lower : (if e < q then e else q) = min e q := by split <;> omega
  simp only [Num.add, lower, Num.intAt_eq_signed, hz, h, if_false]

/-- Opposite values have the sum +0, and -0 under RDN (R134). -/
theorem Num.add_opposite (s : Bool) (n : Nat) (e : Int) (m : Rm) : (Num.fin s n e).add (.fin (!s) n e) m = .fin (decide (m = .rdn)) 0 0 := by
  have unlike : (s = !s) = False := by cases s <;> simp
  simp [Num.add, Num.intAt_eq_signed, signed_not, unlike]

theorem toF32_zero (s : Bool) (m : Rm) (u : W32) : toF32 (.fin s 0 0) m u = (if s then 0x80000000 else 0, 0) := by
  cases s <;> rfl

theorem toF32_inf (s : Bool) (m : Rm) (u : W32) : toF32 (.inf s) m u = (if s then 0xFF800000 else 0x7F800000, 0) := by
  cases s <;> rfl

section
variable {a b c : W32} {s t w : Bool} {n k j : Nat} {e q x : Int} (ha : f32 a = .fin s n e) (m : Rm) (u : W32)
include ha

theorem fSub_self : fSub a a m u = (if m = .rdn then 0x80000000 else 0, 0) := by
  simp only [fSub, ha, Num.flip, Num.add_opposite, Num.isNan, Num.isSnan, finish32, Bool.or_false, Bool.false_eq_true, if_false, toF32_zero,
    decide_eq_true_eq]

/-- A zero divides a finite number to an infinity, and a zero to the invalid NaN (R417). -/
theorem fDiv_zero (hb : f32 b = .fin t 0 q) :
    fDiv a b m u = if n = 0 then (nan32, 0x10) else if s = t then (0x7F800000, 8) else (0xFF800000, 8) := by
  simp only [fDiv, ha, hb, if_true, toF32_inf, flNV, flDZ, bne_iff_ne]
  split
  · rfl
  · by_cases hs : s = t <;> simp [hs]

variable (hb : f32 b = .fin t k q)
include hb

theorem fAdd_fin (h : signed s (n * 2 ^ (e - min e q).toNat) + signed t (k * 2 ^ (q - min e q).toNat) ≠ 0) :
    let z := signed s (n * 2 ^ (e - min e q).toNat) + signed t (k * 2 ^ (q - min e q).toNat)
    fAdd a b m u = toF32 (.fin (decide (z < 0)) z.natAbs (min e q)) m u := by
  simp only [fAdd, ha, hb, Num.add_fin m rfl h, Num.isNan, Num.isSnan, finish32, Bool.or_false, Bool.false_eq_true, if_false]

theorem fSub_fin (h : signed s (n * 2 ^ (e - min e q).toNat) - signed t (k * 2 ^ (q - min e q).toNat) ≠ 0) :
    let z := signed s (n * 2 ^ (e - min e q).toNat) - signed t (k * 2 ^ (q - min e q).toNat)
    fSub a b m u = toF32 (.fin (decide (z < 0)) z.natAbs (min e q)) m u := by
  intro z
  have sum : signed s (n * 2 ^ (e - min e q).toNat) + signed (!t) (k * 2 ^ (q - min e q).toNat) = z := by rw [signed_not, ← Int.sub_eq_add_neg]
  simp only [fSub, ha, hb, Num.flip, Num.add_fin m sum h, Num.isNan, Num.isSnan, finish32, Bool.or_false, Bool.false_eq_true, if_false]

theorem fMul_fin : fMul a b m u = toF32 (.fin (s != t) (n * k) (e + q)) m u := by
  simp only [fMul, ha, hb, Num.mul, Num.isNan, Num.isSnan, finish32, Bool.or_false, Bool.false_eq_true, if_false]

theorem fFma_fin (hc : f32 c = .fin w j x) (neg : Bool)
    (h : signed w (j * 2 ^ (x - min x (e + q)).toNat) + signed (s == (t == neg)) (n * k * 2 ^ (e + q - min x (e + q)).toNat) ≠ 0) :
    let z := signed w (j * 2 ^ (x - min x (e + q)).toNat) + signed (s == (t == neg)) (n * k * 2 ^ (e + q - min x (e + q)).toNat)
    fFma neg a b c m u = toF32 (.fin (decide (z < 0)) z.natAbs (min x (e + q))) m u := by
  have product : (if neg then (Num.fin (s != t) (n * k) (e + q)).flip else .fin (s != t) (n * k) (e + q)) =
      .fin (s == (t == neg)) (n * k) (e + q) := by
    cases neg <;> cases s <;> cases t <;> rfl
  simp only [fFma, ha, hb, hc, Num.mul, product, Num.add_fin m rfl h, Num.isNan, Num.isSnan, finish32, Bool.or_false, Bool.false_eq_true, if_false]

end

end Sys2Proof.Machine
end

section
/-! SUPPORT. Values that a floating-point format holds: how a code is read, and that the rounding of such a value is its own code, exactly (R117, R118, R136). -/

namespace Sys2Proof.Machine

/-! ### The numbers of a format -/

/-- Exponent bits of a floating-point format. -/
def fpE (f : Nat) : Nat := (fpParams f).1
/-- Fraction bits. -/
def fpM (f : Nat) : Nat := (fpParams f).2.1
/-- Bias. -/
def fpBias (f : Nat) : Int := (fpParams f).2.2
/-- Lowest exponent of a unit in the last place: that of the subnormal numbers. -/
def fpLow (f : Nat) : Int := 1 - fpBias f - fpM f
/-- Highest exponent of a unit in the last place. -/
def fpHigh (f : Nat) : Int := (if fmtIeee f then ((2 ^ fpE f - 2 : Nat) : Int) - fpBias f else ((2 ^ fpE f - 1 : Nat) : Int) - fpBias f) - fpM f
/-- Largest significand at the highest exponent. -/
def fpMost (f : Nat) : Nat := if f = 3 then 2 ^ (fpM f + 1) - 2 else 2 ^ (fpM f + 1) - 1

/-- Format f holds the value k * 2^q, and k is its significand there: normal, or subnormal at the lowest exponent (R117, R118). -/
structure OnGrid (f k : Nat) (q : Int) : Prop where
  pos : k ≠ 0
  lt : k < 2 ^ (fpM f + 1)
  low : fpLow f ≤ q
  normal : 2 ^ fpM f ≤ k ∨ q = fpLow f
  high : q ≤ fpHigh f
  most : q = fpHigh f → k ≤ fpMost f

/-- The code of k * 2^q without its sign: exponent field and fraction. -/
def fpCode (f k : Nat) (q : Int) : Nat := if k < 2 ^ fpM f then k else (q + fpM f + fpBias f).toNat * 2 ^ fpM f + (k - 2 ^ fpM f)

/-- The sign bit of a code. -/
def fpSignBit (f : Nat) (s : Bool) : Nat := if s then 2 ^ (fpE f + fpM f) else 0

/-! ### Rounding -/

theorem log2_mul_two_pow {m : Nat} (h : m ≠ 0) (a : Nat) : Nat.log2 (m * 2 ^ a) = Nat.log2 m + a := by
  induction a with
  | zero => simp
  | succ a ih =>
    have ne : m * 2 ^ a ≠ 0 := by positivity
    rw [Nat.pow_succ, ← Nat.mul_assoc, Nat.mul_comm _ 2, Nat.log2_two_mul ne, ih, Nat.add_assoc]

/-- Two ways to write one value have the same exponent of their leading bit. -/
theorem log2_of_value_eq {m k : Nat} {e q : Int} (hm : m ≠ 0) (hk : k ≠ 0) (h : m * 2 ^ (e - q).toNat = k * 2 ^ (q - e).toNat) :
    (log2 m : Int) + e = log2 k + q := by
  have lead := congrArg Nat.log2 h
  rw [log2_mul_two_pow hm, log2_mul_two_pow hk] at lead
  unfold log2
  omega

theorem ne_zero_of_value_eq {m k : Nat} {e q : Int} (hk : k ≠ 0) (h : m * 2 ^ (e - q).toNat = k * 2 ^ (q - e).toNat) : m ≠ 0 := by
  rintro rfl
  have : k * 2 ^ (q - e).toNat ≠ 0 := by positivity
  omega

/-- The exponent that the rounding of a value chooses, where the format holds the value. -/
theorem OnGrid.exponent {f k : Nat} {q : Int} (g : OnGrid f k q) :
    (if (log2 k : Int) + q < 1 - fpBias f then 1 - fpBias f else (log2 k : Int) + q) - fpM f = q := by
  have low := g.low
  have upper : Nat.log2 k < fpM f + 1 := (Nat.log2_lt g.pos).2 g.lt
  unfold fpLow at low
  rcases g.normal with normal | sub
  · have lower : fpM f ≤ Nat.log2 k := (Nat.le_log2 g.pos).2 normal
    unfold log2
    split <;> omega
  · unfold fpLow at sub
    unfold log2
    split <;> omega

/-- The grid point below a value that the format holds is the value. -/
theorem gridPoint_of_value_eq {m k : Nat} {e q : Int} (h : m * 2 ^ (e - q).toNat = k * 2 ^ (q - e).toNat) :
    ∃ whole, (if e ≥ q then (m * 2 ^ (e - q).toNat, 0, 1) else (m / 2 ^ (q - e).toNat, m % 2 ^ (q - e).toNat, 2 ^ (q - e).toNat)) = (k, 0, whole) := by
  split
  · next above =>
    rw [Int.toNat_of_nonpos (z := q - e) (by omega), Nat.pow_zero, Nat.mul_one] at h
    exact ⟨1, by rw [h]⟩
  · next below =>
    rw [Int.toNat_of_nonpos (z := e - q) (by omega), Nat.pow_zero, Nat.mul_one] at h
    exact ⟨_, by rw [h, Nat.mul_div_cancel _ (by positivity), Nat.mul_mod_left]⟩

/-- The rounding of a value that the format holds is its own code, with no flag, under every mode (R136). -/
theorem encodeFp_onGrid {f k m : Nat} {q e : Int} (g : OnGrid f k q) (h : m * 2 ^ (e - q).toNat = k * 2 ^ (q - e).toNat) (s : Bool) (rm : Rm) (sat : Bool)
    (u : W32) : encodeFp f s m e rm sat u = (fpSignBit f s + fpCode f k q, 0) := by
  have exponent : (if (log2 m : Int) + e < 1 - fpBias f then 1 - fpBias f else (log2 m : Int) + e) - fpM f = q := by
    rw [log2_of_value_eq (ne_zero_of_value_eq g.pos h) g.pos h]
    exact g.exponent
  obtain ⟨whole, point⟩ := gridPoint_of_value_eq h
  have notAbove : ¬q > fpHigh f := Int.not_lt.2 g.high
  have notBeyond : q = fpHigh f → ¬fpMost f < k := fun hq => Nat.not_lt.2 (g.most hq)
  have notNext : q = fpHigh f → k ≠ fpMost f + 1 := fun hq hk => notBeyond hq (hk ▸ Nat.lt_succ_self _)
  have notDouble : k ≠ 2 ^ (fpM f + 1) := Nat.ne_of_lt g.lt
  unfold encodeFp
  dsimp only
  simp only [← fpE.eq_1, ← fpM.eq_1, ← fpBias.eq_1, exponent, point, roundUp?, ← fpHigh.eq_1, ← fpMost.eq_1]
  by_cases hq : q = fpHigh f
  · simp [hq, notBeyond hq, notNext hq, notDouble, fpSignBit, fpCode]
  · simp [hq, notAbove, notDouble, fpSignBit, fpCode]

/-! ### Reading a code -/

/-- Exponent field of a code. -/
def fpExp (f c : Nat) : Nat := c / 2 ^ fpM f % 2 ^ fpE f
/-- Fraction of a code. -/
def fpFrac (f c : Nat) : Nat := c % 2 ^ fpM f

/-- A code of a floating-point format, read by its fields (R118). -/
theorem decodeFmt_fp {f : Nat} (hf : f ≤ 7) (c : Nat) :
    decodeFmt f c = let s := decide (c / 2 ^ (fpE f + fpM f) % 2 = 1)
      if fmtIeee f && fpExp f c = 2 ^ fpE f - 1 then (if fpFrac f c = 0 then .inf s else .nan (decide (fpFrac f c / 2 ^ (fpM f - 1) = 0)))
      else if f = 3 && c % 128 = 0x7F then .nan false
      else if fpExp f c = 0 then .fin s (fpFrac f c) (fpLow f)
      else .fin s (2 ^ fpM f + fpFrac f c) (fpExp f c - fpBias f - fpM f) := by
  unfold decodeFmt
  split
  case h_9 => rfl
  all_goals omega

/-- What the fields of a code say where its value is finite (R118). -/
theorem fields_of_decodeFmt {f c n : Nat} {s : Bool} {e : Int} (hf : f ≤ 7) (h : decodeFmt f c = .fin s n e) :
    s = decide (c / 2 ^ (fpE f + fpM f) % 2 = 1) ∧ ¬(fmtIeee f = true ∧ fpExp f c = 2 ^ fpE f - 1) ∧ ¬(f = 3 ∧ c % 128 = 0x7F) ∧
      ((fpExp f c = 0 ∧ n = fpFrac f c ∧ e = fpLow f) ∨ (fpExp f c ≠ 0 ∧ n = 2 ^ fpM f + fpFrac f c ∧ e = fpExp f c - fpBias f - fpM f)) := by
  rw [decodeFmt_fp hf] at h
  dsimp only at h
  split at h
  · split at h <;> cases h
  · next ieee =>
    split at h
    · cases h
    · next most =>
      simp only [Bool.and_eq_true, decide_eq_true_eq] at ieee most
      split at h
      · next sub => cases h; exact ⟨rfl, ieee, most, .inl ⟨sub, rfl, rfl⟩⟩
      · next normal => cases h; exact ⟨rfl, ieee, most, .inr ⟨normal, rfl, rfl⟩⟩

theorem fpLow_lt_fpHigh {f : Nat} (hf : f ≤ 7) : fpLow f < fpHigh f := by
  interval_cases f <;> decide

/-- An exponent field that no infinity and no NaN takes is not beyond the highest exponent. -/
theorem exp_le_fpHigh {f c : Nat} (h : ¬(fmtIeee f = true ∧ fpExp f c = 2 ^ fpE f - 1)) : (fpExp f c : Int) - fpBias f - fpM f ≤ fpHigh f := by
  have exp : fpExp f c < 2 ^ fpE f := Nat.mod_lt _ (by positivity)
  unfold fpHigh
  split
  · next ieee =>
    have free : fpExp f c ≠ 2 ^ fpE f - 1 := fun h' => h ⟨ieee, h'⟩
    omega
  · omega

/-- At the highest exponent only FP8 E4M3 gives up a significand, for its NaN (R117). -/
theorem frac_le_fpMost {f c : Nat} (h : ¬(f = 3 ∧ c % 128 = 0x7F)) (high : (fpExp f c : Int) - fpBias f - fpM f = fpHigh f) :
    2 ^ fpM f + fpFrac f c ≤ fpMost f := by
  unfold fpMost
  split
  · next three =>
    subst three
    have exp : (c / 8 % 16 : Nat) - (7 : Int) - 3 = 5 := high
    have rest : c % 128 ≠ 0x7F := fun h' => h ⟨rfl, h'⟩
    show 8 + c % 8 ≤ 14
    omega
  · have frac : fpFrac f c < 2 ^ fpM f := Nat.mod_lt _ (by positivity)
    rw [Nat.pow_succ]
    omega

/-- A finite value that a format holds is on its grid. -/
theorem onGrid_of_decodeFmt {f c n : Nat} {s : Bool} {e : Int} (hf : f ≤ 7) (h : decodeFmt f c = .fin s n e) (hn : n ≠ 0) : OnGrid f n e := by
  obtain ⟨-, ieee, most, fields⟩ := fields_of_decodeFmt hf h
  have frac : fpFrac f c < 2 ^ fpM f := Nat.mod_lt _ (by positivity)
  have twice : 2 ^ (fpM f + 1) = 2 ^ fpM f * 2 := Nat.pow_succ ..
  obtain ⟨_, rfl, rfl⟩ | ⟨normal, rfl, rfl⟩ := fields
  · have room := fpLow_lt_fpHigh hf
    exact ⟨hn, by omega, Int.le_refl _, .inr rfl, Int.le_of_lt room, fun h => absurd h (Int.ne_of_lt room)⟩
  · exact ⟨hn, by omega, by unfold fpLow; omega, .inl (Nat.le_add_right ..), exp_le_fpHigh ieee, frac_le_fpMost most⟩

theorem fmtWidth_fp {f : Nat} (hf : f ≤ 7) : fmtWidth f = fpM f + fpE f + 1 := by
  interval_cases f <;> rfl

/-- A code is its sign bit, its exponent field and its fraction. -/
theorem code_of_fields {f c : Nat} (hf : f ≤ 7) (hc : c < 2 ^ fmtWidth f) :
    fpSignBit f (decide (c / 2 ^ (fpE f + fpM f) % 2 = 1)) + (fpExp f c * 2 ^ fpM f + fpFrac f c) = c := by
  have low : fpExp f c * 2 ^ fpM f + fpFrac f c = c % 2 ^ (fpE f + fpM f) := by
    rw [Nat.add_comm (fpE f), Nat.pow_add, Nat.mod_mul, fpExp, fpFrac]
    ring
  have top : c / 2 ^ (fpE f + fpM f) < 2 := by
    rw [fmtWidth_fp hf, Nat.add_comm (fpM f), Nat.pow_succ] at hc
    exact Nat.div_lt_of_lt_mul hc
  have sign : fpSignBit f (decide (c / 2 ^ (fpE f + fpM f) % 2 = 1)) = 2 ^ (fpE f + fpM f) * (c / 2 ^ (fpE f + fpM f)) := by
    generalize c / 2 ^ (fpE f + fpM f) = d at top
    unfold fpSignBit
    interval_cases d <;> simp
  rw [low, sign, Nat.div_add_mod]

/-- The code of a finite value is the one it was read from. -/
theorem code_of_decodeFmt {f c n : Nat} {s : Bool} {e : Int} (hf : f ≤ 7) (hc : c < 2 ^ fmtWidth f) (h : decodeFmt f c = .fin s n e) :
    fpSignBit f s + fpCode f n e = c := by
  have frac : fpFrac f c < 2 ^ fpM f := Nat.mod_lt _ (by positivity)
  obtain ⟨rfl, -, -, fields⟩ := fields_of_decodeFmt hf h
  have field : fpCode f n e = fpExp f c * 2 ^ fpM f + fpFrac f c := by
    obtain ⟨sub, rfl, rfl⟩ | ⟨normal, rfl, rfl⟩ := fields
    · simp [fpCode, frac, sub]
    · simp [fpCode]
  rw [field, code_of_fields hf hc]

/-- A value that a floating-point format holds is its own rounding, with no flag (R136). -/
theorem encodeFmt_decodeFmt {f c n : Nat} {s : Bool} {e : Int} (hf : f ≤ 7) (hc : c < 2 ^ fmtWidth f) (h : decodeFmt f c = .fin s n e) (m : Rm) (sat : Bool)
    (u : W32) : encodeFmt f (.fin s n e) m sat u = (c, 0) := by
  have code := code_of_decodeFmt hf hc h
  have fp : f ≠ 14 ∧ f ≠ 15 ∧ f ≠ 13 ∧ ¬8 ≤ f := by omega
  obtain ⟨h14, h15, h13, h8⟩ := fp
  unfold encodeFmt
  by_cases hn : n = 0
  · subst hn
    have sign : fpSignBit f s = c := by simpa [fpCode] using code
    rw [← sign]
    simp only [h14, h15, hf, if_false, if_true, fpSignBit]
    rfl
  · simp only [h14, h15, h13, h8, hn, if_false]
    rw [encodeFp_onGrid (onGrid_of_decodeFmt hf h hn) rfl, code]

/-! ### FP32 -/

theorem toF32_eq (x : Machine.Num) (m : Rm) (u : W32) : toF32 x m u = (BitVec.ofNat 32 (encodeFmt 0 x m false u).1, (encodeFmt 0 x m false u).2) := rfl

theorem fp32_params : fpE 0 = 8 ∧ fpM 0 = 23 ∧ fpBias 0 = 127 := ⟨rfl, rfl, rfl⟩

/-- A normal significand at an exponent of FP32. -/
theorem onGrid32 {k : Nat} {q : Int} (lower : 2 ^ 23 ≤ k) (upper : k < 2 ^ 24) (low : -149 ≤ q) (high : q ≤ 104) : OnGrid 0 k q := by
  obtain ⟨-, bits, -⟩ := fp32_params
  have bottom : fpLow 0 = -149 := by decide
  have top : fpHigh 0 = 104 := by decide
  have most : fpMost 0 = 2 ^ 24 - 1 := by decide
  exact ⟨by omega, by rw [bits]; exact upper, by rw [bottom]; exact low, .inl (by rw [bits]; exact lower), by rw [top]; exact high,
    fun _ => by rw [most]; omega⟩

theorem toF32_onGrid {k m : Nat} {q e : Int} (g : OnGrid 0 k q) (h : m * 2 ^ (e - q).toNat = k * 2 ^ (q - e).toNat) (s : Bool) (rm : Rm) (u : W32) :
    toF32 (.fin s m e) rm u = (BitVec.ofNat 32 (fpSignBit 0 s + fpCode 0 k q), 0) := by
  have ne := ne_zero_of_value_eq g.pos h
  rw [toF32_eq, show encodeFmt 0 (.fin s m e) rm false u = encodeFp 0 s m e rm false u by simp [encodeFmt, ne], encodeFp_onGrid g h]

/-- Sign, exponent field and fraction of an FP32 code (R118). -/
theorem f32_fields {z x y : Nat} (hz : z < 2) (hx : 0 < x) (hx' : x < 255) (hy : y < 2 ^ 23) :
    f32 (BitVec.ofNat 32 (z * 2 ^ 31 + (x * 2 ^ 23 + y))) = .fin (decide (z = 1)) (2 ^ 23 + y) (x - 150) := by
  obtain ⟨exps, bits, bias⟩ := fp32_params
  have value : (BitVec.ofNat 32 (z * 2 ^ 31 + (x * 2 ^ 23 + y))).toNat = z * 2 ^ 31 + (x * 2 ^ 23 + y) := by
    rw [BitVec.toNat_ofNat]
    omega
  have exp : fpExp 0 (z * 2 ^ 31 + (x * 2 ^ 23 + y)) = x := by
    rw [fpExp, bits, exps]
    omega
  have frac : fpFrac 0 (z * 2 ^ 31 + (x * 2 ^ 23 + y)) = y := by
    rw [fpFrac, bits]
    omega
  have sign : (z * 2 ^ 31 + (x * 2 ^ 23 + y)) / 2 ^ (8 + 23) % 2 = z := by omega
  have finite : ¬x = 255 := by omega
  have normal : ¬x = 0 := by omega
  have ulp : (x : Int) - 127 - (23 : Nat) = x - 150 := by omega
  rw [f32, decodeFmt_fp (by decide), value, exp, frac, exps, bits, bias, sign, ulp]
  simp [finite, normal]

/-- The code of a normal FP32 number is read as the number. -/
theorem f32_code {k : Nat} {q : Int} (lower : 2 ^ 23 ≤ k) (upper : k < 2 ^ 24) (low : -149 ≤ q) (high : q ≤ 104) (s : Bool) :
    f32 (BitVec.ofNat 32 (fpSignBit 0 s + fpCode 0 k q)) = .fin s k q := by
  obtain ⟨exps, bits, bias⟩ := fp32_params
  have code : fpCode 0 k q = (q + 150).toNat * 2 ^ 23 + (k - 2 ^ 23) := by
    rw [fpCode, bits, bias, if_neg (Nat.not_lt.2 lower), show q + (23 : Nat) + 127 = q + 150 by omega]
  have sign : fpSignBit 0 s = s.toNat * 2 ^ 31 := by
    rw [fpSignBit, exps, bits]
    cases s <;> rfl
  rw [sign, code, f32_fields s.toNat_lt (by omega) (by omega) (by omega), show 2 ^ 23 + (k - 2 ^ 23) = k by omega,
    show ((q + 150).toNat : Int) - 150 = q by omega]
  cases s <;> rfl

/-! ### Powers of two, and integers -/

/-- The FP32 code of 2^i. -/
def twoPow (i : Int) : W32 := BitVec.ofNat 32 ((i + 127).toNat * 2 ^ 23)

theorem twoPow_eq_code {i : Int} : twoPow i = BitVec.ofNat 32 (fpSignBit 0 false + fpCode 0 (2 ^ 23) (i - 23)) := by
  obtain ⟨-, bits, bias⟩ := fp32_params
  rw [twoPow, fpCode, bits, bias, if_neg (Nat.lt_irrefl _), show i - 23 + (23 : Nat) + 127 = i + 127 by omega]
  simp [fpSignBit]

section
variable {i : Int} (low : -126 ≤ i) (high : i ≤ 127)
include low high

theorem f32_twoPow : f32 (twoPow i) = .fin false (2 ^ 23) (i - 23) := by
  rw [twoPow_eq_code, f32_code (Nat.le_refl _) (by decide) (by omega) (by omega)]

/-- A power of two, however it is written, is its own rounding. -/
theorem toF32_twoPow {j : Nat} {e : Int} (h : j + e = i) (rm : Rm) (u : W32) : toF32 (.fin false (2 ^ j) e) rm u = (twoPow i, 0) := by
  have value : 2 ^ j * 2 ^ (e - (i - 23)).toNat = 2 ^ 23 * 2 ^ (i - 23 - e).toNat := by
    rw [← Nat.pow_add, ← Nat.pow_add]
    congr 1
    omega
  rw [toF32_onGrid (onGrid32 (Nat.le_refl _) (by decide) (by omega) (by omega)) value, twoPow_eq_code]

end

/-- The significand of an integer below 2^24. -/
def intMant (n : Nat) : Nat := n * 2 ^ (23 - Nat.log2 n)

theorem intMant_bounds {n : Nat} (h0 : n ≠ 0) (h : n < 2 ^ 24) : 2 ^ 23 ≤ intMant n ∧ intMant n < 2 ^ 24 := by
  have lead : Nat.log2 n < 24 := (Nat.log2_lt h0).2 h
  have power : Nat.log2 (intMant n) = 23 := by
    rw [intMant, log2_mul_two_pow h0]
    omega
  exact (Nat.log2_eq_iff (by unfold intMant; positivity)).1 power

/-- An integer below 2^24 is an FP32 number. -/
theorem f32_toF32_int {n : Nat} (h0 : n ≠ 0) (h : n < 2 ^ 24) (s : Bool) (rm : Rm) (u : W32) :
    f32 (toF32 (.fin s n 0) rm u).1 = .fin s (intMant n) (Nat.log2 n - 23) := by
  have lead : Nat.log2 n < 24 := (Nat.log2_lt h0).2 h
  obtain ⟨lower, upper⟩ := intMant_bounds h0 h
  have value : n * 2 ^ (0 - ((Nat.log2 n : Int) - 23)).toNat = intMant n * 2 ^ ((Nat.log2 n : Int) - 23 - 0).toNat := by
    rw [intMant, show (0 - ((Nat.log2 n : Int) - 23)).toNat = 23 - Nat.log2 n by omega, show ((Nat.log2 n : Int) - 23 - 0).toNat = 0 by omega,
      Nat.pow_zero, Nat.mul_one]
  rw [toF32_onGrid (onGrid32 lower upper (by omega) (by omega)) value, f32_code lower upper (by omega) (by omega)]

/-! ### Roots, reciprocals, logarithms and exponentials of the powers of two (R417, R423, R482) -/

section
variable {a : W32} {m : Nat} {e : Int} (h : f32 a = .fin false m e) (hm : m ≠ 0)
include h

theorem fLog2_of_pow {t : Nat} (ht : m = 2 ^ t) : fLog2 a = toF32 (numOfInt (t + e)) .rne 0 := by
  have lead : log2 m = t := ht ▸ Nat.log2_two_pow
  have ne : m ≠ 0 := ht ▸ (by positivity)
  simp only [fLog2, h, ne, if_false, Bool.false_eq_true, lead, if_pos ht]

include hm

theorem fRcp_pos : fRcp a = toF32 (.fin false (divSticky 1 m).1 ((divSticky 1 m).2 - e)) .rne 0 := by
  simp only [fRcp, h, hm, if_false]

theorem fSqrt_pos (rm : Rm) (u : W32) : fSqrt a rm u = toF32 (.fin false (sqrtSticky m e).1 (sqrtSticky m e).2) rm u := by
  simp only [fSqrt, h, hm, if_false, Bool.false_eq_true]

/-- The inverse root at an odd exponent, where the division and the root come out exactly. -/
theorem fRsq_odd {r : Nat} (odd : ¬e % 2 = 0) (hr : isqrt (2 ^ 400 / (2 * m)) = r) (exact : r * r * (2 * m) = 2 ^ 400) (rm : Rm) (u : W32) :
    fRsq a rm u = toF32 (.fin false (2 * r) (-201 - (e - 1) / 2)) rm u := by
  simp only [fRsq, h, hm, odd, if_false, Bool.false_eq_true, hr, exact, decide_true, if_true, Nat.add_zero]

end

/-- A root at an odd exponent that comes out exactly. -/
theorem sqrtSticky_odd {m r : Nat} {e : Int} (odd : ¬e % 2 = 0) (hr : isqrt (2 * m * 2 ^ 256) = r) (exact : r * r = 2 * m * 2 ^ 256) :
    sqrtSticky m e = (2 * r, (e - 1) / 2 - 128 - 1) := by
  simp only [sqrtSticky, odd, if_false, hr, exact, if_true, Nat.add_zero]

section
variable {k : Int} (low : -126 ≤ k) (high : k ≤ 126)
include low high

theorem fRcp_twoPow : fRcp (twoPow k) = (twoPow (-k), 0) := by
  have quotient : divSticky 1 (2 ^ 23) = (2 ^ 234, -257) := by decide +kernel
  rw [fRcp_pos (f32_twoPow low (by omega)) (by decide), quotient]
  exact toF32_twoPow (by omega) (by omega) (by omega) _ _

theorem fLog2_twoPow : fLog2 (twoPow k) = toF32 (numOfInt k) .rne 0 := by
  rw [fLog2_of_pow (f32_twoPow low (by omega)) rfl, show ((23 : Nat) : Int) + (k - 23) = k by omega]

end

section
variable {k : Int} (low : -63 ≤ k) (high : k ≤ 63)
include low high

theorem f32_evenPow : f32 (twoPow (2 * k)) = .fin false (2 ^ 23) (2 * k - 23) := f32_twoPow (by omega) (by omega)

theorem fSqrt_twoPow : fSqrt (twoPow (2 * k)) .rne 0 = (twoPow k, 0) := by
  have root : isqrt (2 * 2 ^ 23 * 2 ^ 256) = 2 ^ 140 := by decide +kernel
  rw [fSqrt_pos (f32_evenPow low high) (by decide), sqrtSticky_odd (by omega) root (by decide +kernel)]
  exact toF32_twoPow (j := 141) (by omega) (by omega) (by omega) _ _

theorem fRsq_twoPow : fRsq (twoPow (2 * k)) .rne 0 = (twoPow (-k), 0) := by
  have root : isqrt (2 ^ 400 / (2 * 2 ^ 23)) = 2 ^ 188 := by decide +kernel
  rw [fRsq_odd (f32_evenPow low high) (by decide) (by omega) root (by decide +kernel)]
  exact toF32_twoPow (j := 189) (by omega) (by omega) (by omega) _ _

end

/-- 2 to a value that is an integer, and not far outside the exponent range (R482). -/
theorem fExp2_of_int {a : W32} {s : Bool} {m : Nat} {e k : Int} (h : f32 a = .fin s m e) (hm : m ≠ 0) (near : magLe 512 0 m e = false)
    (int : Num.intAt s m (e + 160) 0 = k * 2 ^ 160) : fExp2 a = toF32 (.fin false 1 k) .rne 0 := by
  have floor : (k * 2 ^ 160).fdiv (2 ^ 160) = k := Int.mul_fdiv_cancel _ (by decide)
  simp only [fExp2, h, hm, near, int, floor, Int.sub_self, Int.toNat_zero, if_true, if_false, Bool.false_eq_true]

/-- An integer of at most 126 is far below 512. -/
theorem magLe_intMant {n : Nat} (h0 : n ≠ 0) (h : n ≤ 126) : magLe 512 0 (intMant n) (Nat.log2 n - 23) = false := by
  have lead : Nat.log2 n < 7 := (Nat.log2_lt h0).2 (by omega)
  obtain ⟨-, upper⟩ := intMant_bounds h0 (by omega)
  have scale : 2 ^ 17 ≤ 2 ^ (23 - Nat.log2 n) := Nat.pow_le_pow_right (by decide) (by omega)
  have units : ((0 : Int) - ((Nat.log2 n : Int) - 23)).toNat = 23 - Nat.log2 n := by omega
  have lower : ¬(0 : Int) < (Nat.log2 n : Int) - 23 := by omega
  simp only [magLe, lower, if_false, units, Int.sub_self, Int.toNat_zero, Nat.pow_zero, Nat.mul_one, decide_eq_false_iff_not]
  omega

theorem intAt_intMant {k : Int} (h0 : k ≠ 0) (small : k.natAbs ≤ 126) :
    Num.intAt (decide (k < 0)) (intMant k.natAbs) ((Nat.log2 k.natAbs : Int) - 23 + 160) 0 = k * 2 ^ 160 := by
  have ne : k.natAbs ≠ 0 := by omega
  have lead : Nat.log2 k.natAbs < 7 := (Nat.log2_lt ne).2 (by omega)
  have shift : ((Nat.log2 k.natAbs : Int) - 23 + 160 - 0).toNat = Nat.log2 k.natAbs + 137 := by omega
  have whole : intMant k.natAbs * 2 ^ (Nat.log2 k.natAbs + 137) = k.natAbs * 2 ^ 160 := by
    rw [intMant, Nat.mul_assoc, ← Nat.pow_add, show 23 - Nat.log2 k.natAbs + (Nat.log2 k.natAbs + 137) = 160 by omega]
  simp only [Num.intAt, shift, whole, decide_eq_true_eq]
  push_cast
  split
  · next neg => rw [abs_of_neg neg, neg_mul, neg_neg]
  · next pos => rw [abs_of_nonneg (Int.not_lt.1 pos)]

/-- 2 to an integer is a power of two. -/
theorem fExp2_toF32_int {k : Int} (low : -126 ≤ k) (high : k ≤ 126) : fExp2 (toF32 (numOfInt k) .rne 0).1 = (twoPow k, 0) := by
  by_cases h0 : k = 0
  · subst h0
    rfl
  · have ne : k.natAbs ≠ 0 := by omega
    rw [numOfInt, fExp2_of_int (f32_toF32_int ne (by omega) _ _ _) (by unfold intMant; positivity) (magLe_intMant ne (by omega)) (intAt_intMant h0 (by omega))]
    exact toF32_twoPow (j := 0) (by omega) (by omega) (by omega) _ _

end Sys2Proof.Machine
end

section
open Sys2Proof Sys2Proof.Machine

/-- Settles O22: the special cases by the operands, the exact values by their sums and products, and the values that a format holds by its grid. -/
theorem floatSpecialCases : Obligations.FloatSpecialCases := by
  refine ⟨fun a b m u q ha hb ans h => h ▸ nan_operand ha hb m u, fun a s n e m u ha => fSub_self ha m u,
    fun a b s t n e e' m u ha hb => fDiv_zero ha m u hb,
    fun a b s t n k e q m u ha hb => ⟨fAdd_fin ha m u hb, fSub_fin ha m u hb, fMul_fin ha m u hb⟩,
    fun a b c s t w n k j e q x m u neg ha hb hc => fFma_fin ha m u hb hc neg,
    fun f c s n e m sat u hf hc h => encodeFmt_decodeFmt hf hc h m sat u, toF32_eq, fun k low high => ?_⟩
  intro two
  exact ⟨fRcp_twoPow low high, fLog2_twoPow low high, fExp2_toF32_int low high,
    fun low' high' => ⟨fSqrt_twoPow low' high', fRsq_twoPow low' high'⟩⟩
end

section
/-! SUPPORT. The vector slots with one source: conversion, reduction, the elementary functions, quantisation (R138, R141, R480 to R482, R485, R486). -/

namespace Sys2Proof.Machine

theorem Ctx.consume_zero (x : Ctx) (rm : Rm) : x.consume rm 0 = x := by
  unfold Ctx.consume
  split
  · simp [Ctx.modR]
  · rfl

/-- Without a draw a rounding form sends its result as any other (R138). -/
theorem State.rounds_zero (s : State) (ops : List Opnd) (rm : Rm) (t : Res) : s.rounds ops rm 0 t = s.gives ops t := by
  have same : ((s.filled ops).modCtx s.cur fun x => x.consume rm 0) = s.filled ops := State.modCtx_idle (Ctx.consume_zero ..)
  rw [State.rounds, same]
  rfl

section
variable {s : State} (h : s.Issuing)
include h

/-- A vector slot with one source puts its lanes on their way, after its draws (R138, R475). -/
theorem issue_vVV {sl : State → Slot} {legal : Bool} {o : R2} {lat : Nat} {rm : Rm} {draws : Nat} {f : W32 → W32 → W32 × BitVec 5}
    (hs : sl s = vVV s.env legal o lat rm draws f) :
    let a := s.vA .v o.a o.ha
    issue sl s =
      .next (s.rounds [a] rm draws (s.vRes o.d (fun l => f (a.lane l) (if draws = 0 then 0 else s.drawL s.cur rm l)) lat)) := by
  intro a
  rw [issue_finish sl h hs]
  simp only [Env.fixedL, Env.lanesOf]
  rfl

/-- A function of the lane alone takes no draw (R482). -/
theorem issue_vFun (legal : Bool) (o : R2) (lat : Nat) (f : W32 → W32 × BitVec 5) :
    let a := s.vA .v o.a o.ha
    issue (fun t => vVV t.env legal o lat .rne 0 fun a _ => f a) s = .next (s.gives [a] (s.vRes o.d (fun l => f (a.lane l)) lat)) := by
  intro a
  rw [issue_vVV h rfl, State.rounds_zero]

/-- The exact widenings take no draw, the other conversions one for each lane (R480). -/
theorem issue_vcvt (o : R2) (v : BitVec 4) :
    let a := s.vA .v o.a o.ha
    let m := rmOfBits (s.ctx s.cur).r.rm
    exec (.vcvt o v) s = .next (if v = 4 ∨ v = 6 then s.gives [a] (s.vRes o.d (fun l => vCvtLane v.toNat m (a.lane l) 0) 4)
      else s.rounds [a] m 64 (s.vRes o.d (fun l => vCvtLane v.toNat m (a.lane l) (s.drawL s.cur m l)) 4)) := by
  intro a m
  have slot := issue_vVV h (sl := slotVcvt o v) rfl
  have some : ¬64 = 0 := by decide
  by_cases wide : v = 4 ∨ v = 6
  · simp only [wide, if_true, State.rounds_zero] at slot ⊢
    exact slot
  · simp only [wide, some, if_false] at slot ⊢
    exact slot

theorem issue_vred (o : R2) (v : BitVec 4) :
    let a := s.vA .v o.a o.ha
    let m := rmSel (s.ctx s.cur) (if v.toNat ≤ 5 then v.setWidth 3 else 1)
    let r := reduce (vRedOp v.toNat m) (s.drawL s.cur m) ((List.range 64).map fun l => if s.env.on l then a.lane l else 0x80000000)
    exec (.vred o v) s = .next (s.rounds [a] m 64 { mkRes .v o.d.toNat (ofLanes fun _ => r.1) (s.now + 8) with flags := r.2 }) :=
  (issue_finish (slotVred o v) h rfl).trans rfl

theorem issue_vquant (o : R3) (int : Bool) :
    let a := s.vA .v o.a o.ha
    let b := s.vB .x o.b o.hb
    let r := vQuant int a.val b.d
    exec (.vquant o int) s = .next (s.gives [a, b] { mkRes .v o.d.toNat r.1 (s.now + 12) with flags := r.2 }) :=
  (issue_finish (slotVquant o int) h rfl).trans rfl

theorem issue_vdeq (o : R3) (fmt : BitVec 4) :
    let a := s.vA .v o.a o.ha
    let b := s.vB .x o.b o.hb
    let r := if b.d.getLsbD 16 && !mxFormat fmt then (0, flNV) else s.env.lanesOf (vDeqLane fmt.toNat a.val.toNat b.d)
    exec (.vdeq o fmt) s = .next (s.gives [a, b] { mkRes .v o.d.toNat r.1 (s.now + 6) with flags := r.2, lm := s.env.lm, lanes := s.env.lanes }) :=
  (issue_finish (slotVdeq o fmt) h rfl).trans rfl

end

end Sys2Proof.Machine
end

section
/-! SUPPORT. VCVT between FP32 and integers, and from and to the 16-bit formats (R420, R480). -/

namespace Sys2Proof.Machine

theorem roundIntMag_whole {e : Int} (he : 0 ≤ e) (s : Bool) (m : Nat) (rm : Rm) (u : W32) (b : Bool) : roundIntMag s m e rm u b = (m * 2 ^ e.toNat, true) := by
  simp only [roundIntMag, ge_iff_le, he, if_true]

/-- A value whose leading bit stands at 2^70 or above is that large. -/
theorem two_pow_70_le {n : Nat} {e : Int} (hn : n ≠ 0) (he : 0 ≤ e) (far : (log2 n : Int) + e ≥ 70) : 2 ^ 70 ≤ n * 2 ^ e.toNat := by
  have exp : 70 ≤ Nat.log2 n + e.toNat := by
    unfold log2 at far
    omega
  calc 2 ^ 70 ≤ 2 ^ (Nat.log2 n + e.toNat) := Nat.pow_le_pow_right (by decide) exp
    _ = 2 ^ Nat.log2 n * 2 ^ e.toNat := Nat.pow_add ..
    _ ≤ n * 2 ^ e.toNat := Nat.mul_le_mul_right _ (Nat.log2_self_le hn)

theorem signed_eq (s : Bool) (z : Nat) : signed s z = if s then -(z : Int) else z := by
  cases s <;> simp [signed]

theorem natAbs_signed (s : Bool) (z : Nat) : (signed s z).natAbs = z := by
  cases s <;> simp [signed]

section
variable {a : W32} {s : Bool} {n : Nat} {e lo hi : Int} (h : f32 a = .fin s n e) (he : 0 ≤ e) (m : Rm) (u : W32)
include h he

/-- The conversion of a whole number (R420). -/
theorem toInt_whole : let z := signed s (n * 2 ^ e.toNat)
    toInt a lo hi m u = if (n ≠ 0 ∧ (log2 n : Int) + e ≥ 70) ∨ z < lo ∨ hi < z then (if s then lo else hi, flNV) else (z, 0) := by
  intro z
  have hz : (if s then -((n * 2 ^ e.toNat : Nat) : Int) else ((n * 2 ^ e.toNat : Nat) : Int)) = z := (signed_eq ..).symm
  simp only [toInt, h, roundIntMag_whole he, hz, if_true]
  by_cases far : n ≠ 0 ∧ (log2 n : Int) + e ≥ 70
  · simp [far]
  · have near : (decide (n ≠ 0) && decide ((log2 n : Int) + e ≥ 70)) = false := by simpa using far
    simp only [near, far, Bool.false_eq_true, if_false, false_or, Bool.or_eq_true, decide_eq_true_eq, gt_iff_lt]

/-- A whole number in range is converted exactly (R420). -/
theorem toInt_inside (hlo : -(2 ^ 64) ≤ lo) (hhi : hi ≤ 2 ^ 64) (lower : lo ≤ signed s (n * 2 ^ e.toNat)) (upper : signed s (n * 2 ^ e.toNat) ≤ hi) :
    toInt a lo hi m u = (signed s (n * 2 ^ e.toNat), 0) := by
  have size := natAbs_signed s (n * 2 ^ e.toNat)
  have near : ¬(n ≠ 0 ∧ (log2 n : Int) + e ≥ 70) := by
    rintro ⟨hn, far⟩
    have large := two_pow_70_le hn he far
    omega
  rw [toInt_whole h he, if_neg (by omega)]

/-- A whole number out of range gives the bound on its side, with NV (R420). -/
theorem toInt_outside (out : signed s (n * 2 ^ e.toNat) < lo ∨ hi < signed s (n * 2 ^ e.toNat)) :
    toInt a lo hi m u = (if s then lo else hi, flNV) := by
  rw [toInt_whole h he, if_pos (.inr out)]

end

theorem sign_of_neg {s : Bool} {z : Nat} (h : signed s z < 0) : s = true := by
  cases s
  · simp [signed] at h
    omega
  · rfl

theorem sign_of_pos {s : Bool} {z : Nat} (h : 0 < signed s z) : s = false := by
  cases s
  · rfl
  · simp [signed] at h
    omega

section
variable {a : W32} {s : Bool} {n : Nat} {e : Int} (m : Rm) (u : W32)

theorem vCvtLane_toInt : vCvtLane 2 m a u = (BitVec.ofInt 32 (toInt a (-(2 ^ 31)) (2 ^ 31 - 1) m u).1, (toInt a (-(2 ^ 31)) (2 ^ 31 - 1) m u).2) ∧
    vCvtLane 3 m a u = (BitVec.ofInt 32 (toInt a 0 (2 ^ 32 - 1) m u).1, (toInt a 0 (2 ^ 32 - 1) m u).2) := ⟨rfl, rfl⟩

/-- FP32 to INT32 and UINT32, by value (R420, R480). -/
theorem vCvtLane_whole (h : f32 a = .fin s n e) (he : 0 ≤ e) : let z := signed s (n * 2 ^ e.toNat)
    (-(2 ^ 31) ≤ z → z < 2 ^ 31 → vCvtLane 2 m a u = (BitVec.ofInt 32 z, 0)) ∧ (0 ≤ z → z < 2 ^ 32 → vCvtLane 3 m a u = (BitVec.ofInt 32 z, 0)) ∧
      (2 ^ 31 ≤ z → vCvtLane 2 m a u = (0x7FFFFFFF, flNV)) ∧ (z < -(2 ^ 31) → vCvtLane 2 m a u = (0x80000000, flNV)) ∧
      (2 ^ 32 ≤ z → vCvtLane 3 m a u = (0xFFFFFFFF, flNV)) ∧ (z < 0 → vCvtLane 3 m a u = (0, flNV)) := by
  intro z
  obtain ⟨i32, u32⟩ := vCvtLane_toInt (a := a) m u
  refine ⟨fun lower upper => ?_, fun lower upper => ?_, fun above => ?_, fun below => ?_, fun above => ?_, fun below => ?_⟩
  · rw [i32, toInt_inside h he m u (by decide) (by decide) lower (by omega)]
  · rw [u32, toInt_inside h he m u (by decide) (by decide) lower (by omega)]
  · rw [i32, toInt_outside h he m u (.inr (by omega)), sign_of_pos (s := s) (z := n * 2 ^ e.toNat) (by omega)]
    rfl
  · rw [i32, toInt_outside h he m u (.inl below), sign_of_neg (s := s) (z := n * 2 ^ e.toNat) (by omega)]
    rfl
  · rw [u32, toInt_outside h he m u (.inr (by omega)), sign_of_pos (s := s) (z := n * 2 ^ e.toNat) (by omega)]
    rfl
  · rw [u32, toInt_outside h he m u (.inl below), sign_of_neg below]
    rfl

theorem vCvtLane_nan {q : Bool} (h : f32 a = .nan q) : vCvtLane 2 m a u = (0, flNV) ∧ vCvtLane 3 m a u = (0, flNV) := by
  obtain ⟨i32, u32⟩ := vCvtLane_toInt (a := a) m u
  have nan (lo hi : Int) : toInt a lo hi m u = (0, flNV) := by simp only [toInt, h]
  rw [i32, u32, nan, nan]
  exact ⟨rfl, rfl⟩

/-- A widening is exact (R480). -/
theorem widen_fin {f : Nat} (h : decodeFmt f (a.toNat % 2 ^ 16) = .fin s n e) : widen f a = (rne32 (.fin s n e), 0) := by
  have h' : decodeFmt f (a.toNat % 65536) = .fin s n e := h
  simp only [widen, h', Num.isNan, Bool.false_eq_true, if_false]

/-- A narrowing of a value that the format holds is its code (R480). -/
theorem narrow_fin {f : Nat} (hf : f ≤ 7) (hw : fmtWidth f = 16) (h : decodeFmt f (a.toNat % 2 ^ 16) = .fin s n e) {b : W32} (hb : f32 b = .fin s n e)
    (sat : Bool) : narrow f sat b m u = (BitVec.ofNat 32 (a.toNat % 2 ^ 16), 0) := by
  have code := encodeFmt_decodeFmt hf (c := a.toNat % 2 ^ 16) (by rw [hw]; exact Nat.mod_lt _ (by decide)) h m sat u
  simp only [narrow, hb, code]

end

end Sys2Proof.Machine
end

section
/-! SUPPORT. The reduction tree with addition for its step (R141). -/

namespace Sys2Proof.Machine

/-- The sum of the first n values of a list. -/
def sumTo (n : Nat) (xs : List W32) : W32 := ∑ i ∈ Finset.range n, xs.getD i 0

/-- The step of the tree that adds mod 2^32. -/
def addStep (a b _ : W32) : W32 × BitVec 5 := (a + b, 0)

/-- A level of the tree keeps the sum: the lower half of the values is combined with the upper half. -/
theorem redLevel_sum (u : Nat → W32) (w : Nat) (st : List W32 × BitVec 5 × Nat) : sumTo w (redLevel addStep u w st).1 = sumTo (w + w) st.1 := by
  obtain ⟨xs, fl, j⟩ := st
  have pairs : sumTo w (redLevel addStep u w (xs, fl, j)).1 = ∑ i ∈ Finset.range w, (xs.getD i 0 + xs.getD (i + w) 0) := by
    refine Finset.sum_congr rfl fun i hi => ?_
    simp [redLevel, addStep, Finset.mem_range.1 hi]
  rw [pairs, Finset.sum_add_distrib, sumTo, Finset.sum_range_add]
  exact congrArg _ (Finset.sum_congr rfl fun i _ => by rw [Nat.add_comm])

theorem foldl_add_range (f : Nat → W32) (n : Nat) : (List.range n).foldl (fun acc l => acc + f l) 0 = ∑ i ∈ Finset.range n, f i := by
  induction n with
  | zero => rfl
  | succ n ih => rw [List.range_succ, List.foldl_append, ih, Finset.sum_range_succ]; rfl

/-- With addition for its step the tree gives the sum of its 64 values. -/
theorem reduce_addStep (u : Nat → W32) (xs : List W32) : (reduce addStep u xs).1 = sumTo 64 xs := by
  have first (ys : List W32) : ys.getD 0 0 = sumTo 1 ys := (Finset.sum_range_one fun i => ys.getD i 0).symm
  simp only [reduce, List.foldl_cons, List.foldl_nil]
  rw [first, redLevel_sum, redLevel_sum, redLevel_sum, redLevel_sum, redLevel_sum, redLevel_sum]

end Sys2Proof.Machine
end

section
/-! SUPPORT. VQUANT: its planes, its exponents and what it refuses (R126, R129, R485). -/

namespace Sys2Proof.Machine

/-! ### Lanes and planes -/

theorem lane_ofLanes (f : Nat → W32) {l : Nat} (hl : l < 64) : lane (ofLanes f) l = f l := by
  refine BitVec.eq_of_getLsbD_eq fun i hi => ?_
  rw [lane, BitVec.getLsbD_extractLsb', getLsbD_ofLanes f hl hi]
  simp [hi]

/-- The bits of a fold, one for each element. -/
theorem testBit_foldr_bits {β : Type} (f : β → Bool) (xs : List β) (j : Nat) :
    (xs.foldr (fun z (acc : Nat) => (if f z then 1 else 0) + 2 * acc) 0).testBit j = xs[j]?.any f := by
  induction xs generalizing j with
  | nil => simp
  | cons z r ih =>
    have low : (if f z then 1 else 0) < 2 := by split <;> decide
    cases j with
    | zero => cases h : f z <;> simp [h, Nat.testBit_zero, Nat.add_mul_mod_self_left]
    | succ j =>
      rw [Nat.testBit_succ, List.foldr_cons, Nat.add_mul_div_left _ _ (by decide), Nat.div_eq_of_lt low, Nat.zero_add, ih]
      rfl

/-- Bit plane k of a list of integers. -/
def planeOf (xs : List Int) (k : Nat) : W32 :=
  BitVec.ofNat 32 (xs.foldr (fun z (acc : Nat) => (if (BitVec.ofInt 32 z).getLsbD k then 1 else 0) + 2 * acc) 0)

theorem getLsbD_planeOf (xs : List Int) (k : Nat) {i : Nat} (hi : i < 32) :
    (planeOf xs k).getLsbD i = xs[i]?.any fun z => (BitVec.ofInt 32 z).getLsbD k := by
  rw [planeOf, BitVec.getLsbD_ofNat, testBit_foldr_bits]
  simp [hi]

/-- A plane of zeros. -/
theorem planeOf_zeros {β : Type} (xs : List β) (k : Nat) : planeOf (xs.map fun _ => 0) k = 0 := by
  refine BitVec.eq_of_getLsbD_eq fun i hi => ?_
  rw [getLsbD_planeOf _ _ hi, List.getElem?_map]
  cases xs[i]? <;> simp

/-! ### The result -/

/-- The group g of a quantisation: exponent, flag for non-finite values, and integers (R129, R485). -/
def vGroup (int : Bool) (fmt p : Nat) (a : Wide) (g : Nat) : Int × Bool × List Int :=
  let ws := (List.range 32).map fun i => lane a (32 * g + i)
  if int then quantBlk fmt p [] (ws.map fun w => w.toInt) else quantBlk fmt p (ws.map f32) []

/-- The formats that a quantisation takes (R485). -/
def vQuantOk (int : Bool) (fmt : Nat) : Prop := if int = true then fmt ∈ [8, 9, 10, 11, 12, 14, 15] else fmt ∈ [0, 1, 2, 3, 4, 5, 6, 7, 13]

/-- The lanes of a quantisation (R485). -/
def vQuantLane (int : Bool) (a : Wide) (p h fmt l : Nat) : W32 :=
  let g0 := vGroup int fmt p a 0
  let g1 := vGroup int fmt p a 1
  if l < 48 then (if l / 2 < p then planeOf (if l % 2 = 0 then g0.2.2 else g1.2.2) (l / 2) else 0)
  else if l = 48 then BitVec.ofNat 32 (half g1.1 * 65536 + half g0.1)
  else if l = 49 then BitVec.ofNat 32 (fmt * 4096 + (p - 1) * 16 + ((if g1.2.1 then 2 else 0) + (if g0.2.1 then 1 else 0)) * 2 ^ (2 * h))
  else 0

section
variable (int : Bool) (a : Wide) (b : W64)

/-- The same as the unit tests it. -/
def vQuantTakes (int : Bool) (fmt : Nat) : Bool :=
  if int then decide (8 ≤ fmt ∧ fmt ≤ 12) || decide (fmt = 14) || decide (fmt = 15) else decide (fmt ≤ 7) || decide (fmt = 13)

theorem vQuantTakes_iff {fmt : Nat} (hf : fmt < 16) : vQuantTakes int fmt = true ↔ vQuantOk int fmt := by
  unfold vQuantOk vQuantTakes
  cases int <;> interval_cases fmt <;> simp

theorem vQuant_refuses (h : 24 < b.toNat % 32 + 1 ∨ ¬vQuantOk int (b.toNat / 4096 % 16)) : vQuant int a b = (0, flNV) := by
  have stop : (decide (24 < b.toNat % 32 + 1) || !vQuantTakes int (b.toNat / 4096 % 16)) = true := by
    rw [← vQuantTakes_iff int (Nat.mod_lt _ (by decide))] at h
    simpa using h
  exact if_pos stop

theorem vQuant_gives (hp : b.toNat % 32 + 1 ≤ 24) (ok : vQuantOk int (b.toNat / 4096 % 16)) :
    vQuant int a b = (ofLanes (vQuantLane int a (b.toNat % 32 + 1) (b.toNat / 256 % 2) (b.toNat / 4096 % 16)), 0) := by
  have go : ¬(decide (24 < b.toNat % 32 + 1) || !vQuantTakes int (b.toNat / 4096 % 16)) = true := by
    rw [(vQuantTakes_iff int (Nat.mod_lt _ (by decide))).2 ok]
    simpa using hp
  exact (if_neg go).trans rfl

end

section
variable (int : Bool) (a : Wide) {p : Nat} (h fmt : Nat)

theorem vQuantLane_plane (hp : p ≤ 24) {g k : Nat} (hg : g < 2) (hk : k < p) :
    vQuantLane int a p h fmt (2 * k + g) = planeOf (vGroup int fmt p a g).2.2 k := by
  have index : (2 * k + g) / 2 = k := by omega
  have low : 2 * k + g < 48 := by omega
  have parity : (2 * k + g) % 2 = g := by omega
  rw [vQuantLane, if_pos low, index, if_pos hk, parity]
  interval_cases g <;> rfl

/-- Planes beyond the width are zero. -/
theorem vQuantLane_rest {l : Nat} (hl : 2 * p ≤ l) (low : l < 48) : vQuantLane int a p h fmt l = 0 := by
  rw [vQuantLane, if_pos low, if_neg (by omega)]

theorem vQuantLane_high {l : Nat} (hl : 50 ≤ l) : vQuantLane int a p h fmt l = 0 := by
  rw [vQuantLane, if_neg (by omega), if_neg (by omega), if_neg (by omega)]

theorem vQuantLane_48 : vQuantLane int a p h fmt 48 = BitVec.ofNat 32 (half (vGroup int fmt p a 1).1 * 65536 + half (vGroup int fmt p a 0).1) := rfl

theorem vQuantLane_49 : vQuantLane int a p h fmt 49 = BitVec.ofNat 32 (fmt * 4096 + (p - 1) * 16 +
    ((if (vGroup int fmt p a 1).2.1 then 2 else 0) + (if (vGroup int fmt p a 0).2.1 then 1 else 0)) * 2 ^ (2 * h)) := rfl

theorem half_lt (e : Int) : half e < 2 ^ 16 := (BitVec.ofInt 16 e).isLt

/-- The exponent field of group g. -/
theorem vQuantLane_exp {g : Nat} (hg : g < 2) :
    (vQuantLane int a p h fmt 48).extractLsb' (16 * g) 16 = BitVec.ofInt 16 (vGroup int fmt p a g).1 := by
  have low := half_lt (vGroup int fmt p a 0).1
  have high := half_lt (vGroup int fmt p a 1).1
  refine BitVec.eq_of_toNat_eq ?_
  rw [vQuantLane_48, BitVec.extractLsb'_toNat, BitVec.toNat_ofNat, Nat.shiftRight_eq_div_pow]
  interval_cases g
  · show _ = half (vGroup int fmt p a 0).1
    omega
  · show _ = half (vGroup int fmt p a 1).1
    omega

/-- The flag of group g for values that are not finite. -/
theorem vQuantLane_flag {g : Nat} (hh : h < 2) (hg : g < 2) :
    (vQuantLane int a p h fmt 49).getLsbD (2 * h + g) = (vGroup int fmt p a g).2.1 := by
  rw [vQuantLane_49, BitVec.getLsbD_ofNat, Nat.testBit_eq_decide_div_mod_eq]
  interval_cases g <;> interval_cases h <;> cases (vGroup int fmt p a 0).2.1 <;> cases (vGroup int fmt p a 1).2.1 <;> simp <;> omega

end

/-! ### Integers (R129) -/

/-- An integer clamped to p bits. -/
def clampBits (p : Nat) (z : Int) : Int := max (-(2 ^ (p - 1) : Nat)) (min ((2 ^ (p - 1) : Nat) - 1) z)

theorem clampInt_bits (p : Nat) (z : Int) : clampInt z (-(2 ^ (p - 1) : Nat)) ((2 ^ (p - 1) : Nat) - 1) = clampBits p z := by
  have pos : 1 ≤ 2 ^ (p - 1) := Nat.one_le_two_pow
  unfold clampInt clampBits
  generalize 2 ^ (p - 1) = w at pos
  omega

/-- A group of integers: each one clamped to p bits, at the exponent p - 2. -/
theorem vGroup_int {fmt : Nat} (ok : vQuantOk true fmt) (p : Nat) (a : Wide) (g : Nat) :
    vGroup true fmt p a g = ((p : Int) - 2, false, (List.range 32).map fun i => clampBits p (lane a (32 * g + i)).toInt) := by
  have path : (fmt ≥ 8 && fmt ≠ 13) = true := (by decide : ∀ f ∈ [8, 9, 10, 11, 12, 14, 15], (f ≥ 8 && f ≠ 13) = true) fmt ok
  rw [vGroup, if_pos rfl, quantBlk, if_pos path, List.map_map, List.map_map]
  simp only [Function.comp_def, clampInt_bits]

/-! ### FP32 values (R126, R129) -/

/-- An integer below the clamp of p bits, on either side of zero, is not clamped. -/
theorem clampInt_small {p z : Nat} (h : z < 2 ^ (p - 1)) (s : Bool) :
    clampInt (if s then -(z : Int) else z) (-((2 ^ (p - 1) : Nat) - 1)) ((2 ^ (p - 1) : Nat) - 1) = if s then -(z : Int) else z := by
  unfold clampInt
  generalize 2 ^ (p - 1) = w at h
  split <;> omega

/-- A value that is an integer is rounded to itself. -/
theorem roundIntMag_exact {m z : Nat} {e : Int} (h : z * 2 ^ (-e).toNat = m * 2 ^ e.toNat) (s : Bool) (rm : Rm) (u : W32) (b : Bool) :
    (roundIntMag s m e rm u b).1 = z := by
  by_cases he : 0 ≤ e
  · rw [roundIntMag_whole he, ← h, Int.toNat_of_nonpos (z := -e) (by omega), Nat.pow_zero, Nat.mul_one]
  · rw [Int.toNat_of_nonpos (z := e) (by omega), Nat.pow_zero, Nat.mul_one] at h
    have below : ¬e ≥ 0 := he
    simp only [roundIntMag, below, if_false, ← h, Nat.mul_mod_left, roundUp?, if_true, Bool.false_eq_true]
    exact Nat.mul_div_cancel _ (by positivity)

theorem maxLog_fin (s : Bool) (n : Nat) (e : Int) (r : List Num) :
    maxLog (.fin s n e :: r) = if n = 0 then maxLog r else some ((maxLog r).elim ((log2 n : Int) + e) (max ((log2 n : Int) + e))) := by
  cases h : maxLog r <;> simp [maxLog, h]

section
variable {s : Nat → Bool} {n : Nat → Nat} {e : Nat → Int} {x : Int} (is : List Nat) (bound : ∀ i ∈ is, n i = 0 ∨ (Nat.log2 (n i) : Int) + e i ≤ x)
include bound

/-- The exponent of the largest of some finite values is within their bound. -/
theorem maxLog_le : ∀ b ∈ maxLog (is.map fun i => .fin (s i) (n i) (e i)), b ≤ x := by
  induction is with
  | nil => exact fun b hb => nomatch hb
  | cons i r ih =>
    have rest := ih fun j hj => bound j (List.mem_cons_of_mem _ hj)
    rw [List.map_cons, maxLog_fin]
    split
    · exact rest
    · next hn =>
      have here : (log2 (n i) : Int) + e i ≤ x := (bound i List.mem_cons_self).resolve_left hn
      intro b hb
      obtain rfl := Option.mem_some.1 hb
      cases hr : maxLog (r.map fun i => .fin (s i) (n i) (e i)) with
      | none => exact here
      | some c => exact max_le here (rest c hr)

/-- The exponent of the largest of some finite values is the one that bounds them all and that one of them has (R126). -/
theorem maxLog_eq (attained : ∃ i ∈ is, n i ≠ 0 ∧ (Nat.log2 (n i) : Int) + e i = x) : maxLog (is.map fun i => .fin (s i) (n i) (e i)) = some x := by
  induction is with
  | nil => obtain ⟨_, h, _⟩ := attained; cases h
  | cons i r ih =>
    have others : ∀ j ∈ r, n j = 0 ∨ (Nat.log2 (n j) : Int) + e j ≤ x := fun j hj => bound j (List.mem_cons_of_mem _ hj)
    have rest := maxLog_le (s := s) r others
    obtain ⟨j, hj, nj, top⟩ := attained
    rw [List.map_cons, maxLog_fin]
    rcases List.mem_cons.1 hj with rfl | hj
    · rw [if_neg nj]
      refine congrArg some ?_
      cases hr : maxLog (r.map fun i => .fin (s i) (n i) (e i)) with
      | none => exact top
      | some c => exact (max_eq_left ((rest c hr).trans top.ge)).trans top
    · rw [ih others ⟨j, hj, nj, top⟩]
      split
      · rfl
      · next hn => exact congrArg some (max_eq_right ((bound i List.mem_cons_self).resolve_left hn))

end

section
variable {fmt : Nat} (ok : vQuantOk false fmt) (p : Nat) (a : Wide) (g : Nat)
include ok

theorem vGroup_fp : vGroup false fmt p a g = quantBlk fmt p ((List.range 32).map fun i => f32 (lane a (32 * g + i))) [] ∧
    (fmt ≥ 8 && fmt ≠ 13) = false :=
  ⟨congrArg (quantBlk fmt p · []) (List.map_map ..), (by decide : ∀ f ∈ [0, 1, 2, 3, 4, 5, 6, 7, 13], (f ≥ 8 && f ≠ 13) = false) fmt ok⟩

/-- A group with a value that is not finite: zeros, and the flag (R129). -/
theorem vGroup_nonFin (h : ∃ i, i < 32 ∧ ∀ s n e, f32 (lane a (32 * g + i)) ≠ .fin s n e) :
    vGroup false fmt p a g = (0, true, ((List.range 32).map fun i => f32 (lane a (32 * g + i))).map fun _ => 0) := by
  obtain ⟨i, hi, other⟩ := h
  obtain ⟨group, path⟩ := vGroup_fp ok p a g
  rw [group, quantBlk, if_neg (Bool.not_eq_true _ ▸ path), if_pos]
  refine List.any_eq_true.2 ⟨_, List.mem_map.2 ⟨i, List.mem_range.2 hi, rfl⟩, ?_⟩
  split
  · next s n e hx => exact absurd hx (other s n e)
  · rfl

/-- A group of finite values: the exponent of the largest, and each value rounded at it (R126, R129). -/
theorem vGroup_fin {s : Nat → Bool} {n : Nat → Nat} {e : Nat → Int} {x : Int} (fin : ∀ i, i < 32 → f32 (lane a (32 * g + i)) = .fin (s i) (n i) (e i))
    (bound : ∀ i, i < 32 → n i = 0 ∨ (Nat.log2 (n i) : Int) + e i ≤ x) (attained : ∃ i, i < 32 ∧ n i ≠ 0 ∧ (Nat.log2 (n i) : Int) + e i = x) :
    vGroup false fmt p a g = (x, false, (List.range 32).map fun i =>
      clampInt (if s i then -((roundIntMag (s i) (n i) (e i + p - 2 - x) .rne 0 true).1 : Int) else (roundIntMag (s i) (n i) (e i + p - 2 - x) .rne 0 true).1)
        (-((2 ^ (p - 1) : Nat) - 1)) ((2 ^ (p - 1) : Nat) - 1)) := by
  obtain ⟨group, path⟩ := vGroup_fp ok p a g
  have values : ((List.range 32).map fun i => f32 (lane a (32 * g + i))) = (List.range 32).map fun i => .fin (s i) (n i) (e i) :=
    List.map_congr_left fun i hi => fin i (List.mem_range.1 hi)
  have largest : maxLog ((List.range 32).map fun i => .fin (s i) (n i) (e i)) = some x :=
    maxLog_eq _ (fun i hi => bound i (List.mem_range.1 hi)) (attained.imp fun i h => ⟨List.mem_range.2 h.1, h.2⟩)
  rw [group, values, quantBlk, if_neg (Bool.not_eq_true _ ▸ path), if_neg (by simp), largest]
  simp only [List.map_map, Function.comp_def]

end

/-! ### What VQUANT gives -/

section
variable {a : Wide} {b : W64} (hp : b.toNat % 32 + 1 ≤ 24)
include hp

theorem lane_vQuant {int : Bool} (ok : vQuantOk int (b.toNat / 4096 % 16)) {l : Nat} (hl : l < 64) :
    lane (vQuant int a b).1 l = vQuantLane int a (b.toNat % 32 + 1) (b.toNat / 256 % 2) (b.toNat / 4096 % 16) l := by
  rw [vQuant_gives int a b hp ok]
  exact lane_ofLanes _ hl

theorem lane_vQuant_plane {int : Bool} (ok : vQuantOk int (b.toNat / 4096 % 16)) {g k : Nat} (hg : g < 2) (hk : k < b.toNat % 32 + 1) :
    lane (vQuant int a b).1 (2 * k + g) = planeOf (vGroup int (b.toNat / 4096 % 16) (b.toNat % 32 + 1) a g).2.2 k := by
  rw [lane_vQuant hp ok (by omega), vQuantLane_plane _ _ _ _ hp hg hk]

/-- A bit of a plane is a bit of the value of its lane. -/
theorem lane_vQuant_bit {int : Bool} (ok : vQuantOk int (b.toNat / 4096 % 16)) {g k i : Nat} (hg : g < 2) (hk : k < b.toNat % 32 + 1) (hi : i < 32)
    {e : Int} {nf : Bool} {z : Nat → Int} (group : vGroup int (b.toNat / 4096 % 16) (b.toNat % 32 + 1) a g = (e, nf, (List.range 32).map z)) :
    (lane (vQuant int a b).1 (2 * k + g)).getLsbD i = (BitVec.ofInt 32 (z i)).getLsbD k := by
  rw [lane_vQuant_plane hp ok hg hk, getLsbD_planeOf _ _ hi, group]
  simp [hi]

/-- VQUANT of integers: each clamped to p bits, at the exponent p - 2 (R485). -/
theorem vQuant_int (ok : vQuantOk true (b.toNat / 4096 % 16)) : let p := b.toNat % 32 + 1
    let r := (vQuant true a b).1
    lane r 48 = BitVec.ofNat 32 ((BitVec.ofInt 16 ((p : Int) - 2)).toNat * 65537) ∧ lane r 49 = BitVec.ofNat 32 (b.toNat / 4096 % 16 * 4096 + (p - 1) * 16) ∧
      ∀ g i k, g < 2 → i < 32 → k < p → (lane r (2 * k + g)).getLsbD i = (BitVec.ofInt 32 (clampBits p (lane a (32 * g + i)).toInt)).getLsbD k := by
  intro p r
  have group := vGroup_int ok p a
  have double (e : Int) : half e * 65536 + half e = (BitVec.ofInt 16 e).toNat * 65537 := by
    unfold half
    omega
  refine ⟨?_, ?_, fun g i k hg hi hk => ?_⟩
  · rw [lane_vQuant hp ok (by decide), vQuantLane_48, group 0, group 1, double]
  · rw [lane_vQuant hp ok (by decide), vQuantLane_49, group 0, group 1]
    simp [p]
  · rw [lane_vQuant_bit hp ok hg hk hi (group g)]

/-- VQUANT of FP32 values, with one that is not finite: the flag of the group, and planes of zeros (R485). -/
theorem vQuant_nonFin (ok : vQuantOk false (b.toNat / 4096 % 16)) {g : Nat} (hg : g < 2)
    (h : ∃ i, i < 32 ∧ ∀ s n e, f32 (lane a (32 * g + i)) ≠ .fin s n e) : let r := (vQuant false a b).1
    (lane r 49).getLsbD (2 * (b.toNat / 256 % 2) + g) = true ∧ ∀ k, k < b.toNat % 32 + 1 → lane r (2 * k + g) = 0 := by
  have group := vGroup_nonFin ok (b.toNat % 32 + 1) a g h
  refine ⟨?_, fun k hk => ?_⟩
  · rw [lane_vQuant hp ok (by decide), vQuantLane_flag _ _ _ _ (Nat.mod_lt _ (by decide)) hg, group]
  · rw [lane_vQuant_plane hp ok hg hk, group]
    exact planeOf_zeros ..

/-- VQUANT of finite FP32 values: the exponent of the largest, and each value that is an integer at it (R485). -/
theorem vQuant_fin (ok : vQuantOk false (b.toNat / 4096 % 16)) {g : Nat} (hg : g < 2) {s : Nat → Bool} {n : Nat → Nat} {e : Nat → Int} {x : Int}
    (fin : ∀ i, i < 32 → f32 (lane a (32 * g + i)) = .fin (s i) (n i) (e i))
    (bound : ∀ i, i < 32 → n i = 0 ∨ (Nat.log2 (n i) : Int) + e i ≤ x) (attained : ∃ i, i < 32 ∧ n i ≠ 0 ∧ (Nat.log2 (n i) : Int) + e i = x) :
    let p := b.toNat % 32 + 1
    let r := (vQuant false a b).1
    (lane r 49).getLsbD (2 * (b.toNat / 256 % 2) + g) = false ∧ (lane r 48).extractLsb' (16 * g) 16 = BitVec.ofInt 16 x ∧
      ∀ i z k, i < 32 → k < p → z * 2 ^ (x - p + 2 - e i).toNat = n i * 2 ^ (e i + p - 2 - x).toNat → z < 2 ^ (p - 1) →
        (lane r (2 * k + g)).getLsbD i = (BitVec.ofInt 32 (if s i then -(z : Int) else z)).getLsbD k := by
  intro p r
  have group := vGroup_fin ok p a g fin bound attained
  refine ⟨?_, ?_, fun i z k hi hk value small => ?_⟩
  · rw [lane_vQuant hp ok (by decide), vQuantLane_flag _ _ _ _ (Nat.mod_lt _ (by decide)) hg, group]
  · rw [lane_vQuant hp ok (by decide), vQuantLane_exp _ _ _ _ hg, group]
  · have int : (roundIntMag (s i) (n i) (e i + p - 2 - x) .rne 0 true).1 = z :=
      roundIntMag_exact (by rw [← value]; congr 2; omega) _ _ _ _
    rw [lane_vQuant_bit hp ok hg hk hi group, int, clampInt_small small]

end

end Sys2Proof.Machine
end

section
open Sys2Proof Sys2Proof.Machine

/-- Settles O24: each slot is one of the forms above; VCVT by value, VQUANT by its lanes, and the tree level by level. -/
theorem vectorFunctions : Obligations.VectorFunctions := by
  refine ⟨fun s o h => ⟨issue_vcvt h o, issue_vred h o, issue_vFun h _ o 8 fExp2, issue_vFun h _ o 8 fLog2, issue_vFun h _ o 8 fRcp,
      issue_vFun h _ o 8 fun w => fRsq w .rne 0⟩, fun s o h => ⟨issue_vquant h o, fun fmt good => ?_, fun fmt mx bad => ?_⟩,
    fun m a u => ⟨rfl, rfl, fun s n e h he => vCvtLane_whole m u h he, fun q h => vCvtLane_nan m u h, ?_⟩,
    fun int a b => ?_, fun f u => ?_⟩
  · have takes : ((s.vB .x o.b o.hb).d.getLsbD 16 && !mxFormat fmt) = false := by
      rcases good with plain | mx
      · rw [plain, Bool.false_and]
      · rw [mx, Bool.not_true, Bool.and_false]
    rw [issue_vdeq h, takes]
    rfl
  · have refuses : ((s.vB .x o.b o.hb).d.getLsbD 16 && !mxFormat fmt) = true := by rw [mx, bad]; rfl
    rw [issue_vdeq h, refuses]
    rfl
  · simp only [List.mem_cons, List.not_mem_nil, or_false]
    rintro f (rfl | rfl) s n e h
    · exact ⟨widen_fin h, fun b hb => ⟨narrow_fin m u (by decide) rfl h hb false, narrow_fin m u (by decide) rfl h hb true⟩⟩
    · exact ⟨widen_fin h, fun b hb => ⟨narrow_fin m u (by decide) rfl h hb false, narrow_fin m u (by decide) rfl h hb true⟩⟩
  · intro p h fmt ok r
    refine ⟨vQuant_refuses int a b, fun hp hok => ⟨?_, fun l lower upper => ?_, fun l lower upper => ?_, fun hint => ?_, fun hint g hg => ⟨?_, ?_⟩⟩⟩
    · rw [vQuant_gives int a b hp hok]
    · rw [lane_vQuant hp hok upper, vQuantLane_high _ _ _ _ lower]
    · rw [lane_vQuant hp hok (by omega), vQuantLane_rest _ _ _ _ lower upper]
    · subst hint
      exact vQuant_int hp hok
    · subst hint
      exact vQuant_nonFin hp hok hg
    · subst hint
      exact fun s n e x => vQuant_fin hp hok hg
  · refine (reduce_addStep u _).trans ?_
    rw [foldl_add_range, sumTo]
    exact Finset.sum_congr rfl fun i hi => by simp [Finset.mem_range.1 hi]
end

section
/-! SUPPORT. A number written over bytes is read back (R14, R320). -/

namespace Sys2Proof.Machine

theorem Memory.writeNat_other {m : Memory} (h : m.wf = true) {l n v a : Nat} (ha : a < l ∨ l + n ≤ a) : (m.writeNat l n v).read a = m.read a := by
  induction n generalizing m l v with
  | zero => rfl
  | succ n ih =>
    rw [Memory.writeNat, ih (Memory.write_wf h ..) (by omega), Memory.read_write h, if_neg (by omega)]

theorem Memory.readNat_writeNat {m : Memory} (h : m.wf = true) (l n v : Nat) : (m.writeNat l n v).readNat l n = v % 256 ^ n := by
  induction n generalizing m l v with
  | zero => rw [Nat.pow_zero, Nat.mod_one]; rfl
  | succ n ih =>
    have here : ((m.write l (BitVec.ofNat 8 v)).writeNat (l + 1) n (v / 256)).read l = BitVec.ofNat 8 v := by
      rw [Memory.writeNat_other (Memory.write_wf h ..) (.inl (Nat.lt_succ_self l)), Memory.read_write h, if_pos rfl]
    rw [Memory.writeNat, Memory.readNat, here, ih (Memory.write_wf h ..), Nat.pow_succ', Nat.mod_mul, BitVec.toNat_ofNat]

theorem bytesAt_succ (l n v : Nat) : bytesAt l (n + 1) v = (l, BitVec.ofNat 8 v) :: bytesAt (l + 1) n (v / 256) := by
  simp only [bytesAt, bytesOfNat, List.range_succ_eq_map, List.zip_cons_cons, List.map_cons, List.zip_map_left, List.map_map, Nat.add_zero]
  refine congrArg _ (List.map_congr_left fun p _ => ?_)
  simp [Prod.map, Nat.add_comm, Nat.add_left_comm]

theorem foldl_write_bytesAt (m : Memory) (l n v : Nat) : (bytesAt l n v).foldl (fun m p => m.write p.1 p.2) m = m.writeNat l n v := by
  induction n generalizing m l v with
  | zero => rfl
  | succ n ih => rw [bytesAt_succ, List.foldl_cons, ih]; rfl

/-- Without poison a number is stored over its bytes. -/
theorem State.wr_mem {s : State} (hp : s.poison = []) (l n v : Nat) : (s.wr l n v).mem = s.mem.writeNat l n v := by
  rw [← foldl_write_bytesAt]
  refine congrArg (List.foldl _ s.mem) (List.filter_eq_self.2 fun p _ => ?_)
  simp [hp]

theorem State.rd_wr {s : State} (hp : s.poison = []) (h : s.mem.wf = true) (l n v : Nat) : (s.wr l n v).rd l n = v % 2 ^ (8 * n) := by
  rw [State.rd, State.wr_mem hp, Memory.readNat_writeNat h, Nat.pow_mul]

theorem State.wr_other {s : State} (hp : s.poison = []) (h : s.mem.wf = true) {l n v a : Nat} (ha : a < l ∨ l + n ≤ a) :
    (s.wr l n v).mem.read a = s.mem.read a := by
  rw [State.wr_mem hp, Memory.writeNat_other h ha]

end Sys2Proof.Machine
end

section
/-! SUPPORT. What the end of a step of a routine leaves as it was (R228, R230, R238). -/

namespace Sys2Proof.Machine

/-- On core k the routine's run alone is another, and memory is as it was. -/
structure State.Reruns (k : Nat) (s t : State) : Prop where
  mem : t.mem = s.mem
  core : ∃ r, t.core k = { s.core k with mrun := r }

theorem State.Reruns.refl (k : Nat) (s : State) : State.Reruns k s s := ⟨rfl, _, rfl⟩

theorem State.Reruns.trans {k : Nat} {s t u : State} (h : State.Reruns k s t) (g : State.Reruns k t u) : State.Reruns k s u := by
  obtain ⟨mem, r, core⟩ := h
  obtain ⟨mem', r', core'⟩ := g
  exact ⟨mem'.trans mem, r', by rw [core', core]⟩

theorem State.modRun_reruns (s : State) (k : Nat) (f : MatRun → MatRun) : State.Reruns k s (s.modRun k f) :=
  ⟨rfl, _, (State.core_modCore ..).trans (if_pos rfl)⟩

theorem State.modRun_ite_reruns (s : State) (k : Nat) (f : MatRun → MatRun) (p : Prop) [Decidable p] : State.Reruns k s (if p then s.modRun k f else s) := by
  split
  · exact State.modRun_reruns ..
  · exact .refl ..

theorem State.stepOn_reruns (s : State) (e : RunEnv) (c : MClass) (n : Nat) : State.Reruns e.k s (s.stepOn e c n) := State.modRun_reruns ..

/-- A routine that runs on a core: its command heads the queue, and its run has not ended. -/
theorem State.routine_some {s : State} {k : Nat} {e : RunEnv} (h : s.routine k = some e) : e.k = k ∧ (s.core k).mrun = some e.r := by
  unfold State.routine at h
  split at h
  · next c q r hq hr =>
    split at h
    · cases h
      exact ⟨rfl, hr⟩
    · cases h
  · cases h

/-- A step runs in the routine of the core whose engine steps. -/
theorem microStep_routine {s : State} {e : RunEnv} (h : s.routine s.eng = some e) (f : RunEnv → State → State) : microStep f s = .next (f e s) := by
  rw [microStep, h]

end Sys2Proof.Machine
end

section
/-! SUPPORT. Tables and rows of the banks. -/

namespace Sys2Proof.Machine

/-- A table listed from a function reads as the function. -/
theorem Table.get_list {β : Type} (f : Nat → β) (d : β) {is : List Nat} {i : Nat} (h : i ∈ is) : (Table.mk (is.map fun i => (i, f i))).get i d = f i := by
  induction is with
  | nil => cases h
  | cons j r ih =>
    unfold Table.get Table.find at ih ⊢
    by_cases hj : j = i
    · simp [Table.findL, hj]
    · simpa [Table.findL, hj] using ih ((List.mem_cons.1 h).resolve_left (Ne.symm hj))

/-- A table without some of its keys. -/
theorem Table.get_filter {β : Type} (p : Nat → Bool) (l : List (Nat × β)) (i : Nat) (d : β) :
    (Table.mk (l.filter fun q => p q.1)).get i d = if p i then (Table.mk l).get i d else d := by
  unfold Table.get Table.find
  induction l with
  | nil => simp [Table.findL]
  | cons q r ih =>
    obtain ⟨k, v⟩ := q
    by_cases hk : p k = true
    · by_cases hi : k = i
      · simp [Table.findL, hk, ← hi]
      · simpa [Table.findL, hk, hi] using ih
    · by_cases hi : k = i
      · simpa [Table.findL, hk, ← hi] using ih
      · simpa [Table.findL, hk, hi] using ih

/-- Each key of a list of different keys is updated from its own value, and the others stay. -/
theorem Table.get_foldl_set {β : Type} (key : Nat → Nat) (inj : Function.Injective key) (f : Nat → β → β) (d : β) {js : List Nat} (nodup : js.Nodup)
    (t : Table β) : let u := js.foldl (fun t j => t.set (key j) (f j (t.get (key j) d))) t
    (∀ j ∈ js, u.get (key j) d = f j (t.get (key j) d)) ∧ ∀ n, (∀ j ∈ js, n ≠ key j) → u.get n d = t.get n d := by
  induction js generalizing t with
  | nil => exact ⟨fun j hj => (nomatch hj), fun n _ => rfl⟩
  | cons i r ih =>
    obtain ⟨fresh, rest⟩ := List.nodup_cons.1 nodup
    obtain ⟨updated, others⟩ := ih rest (t.set (key i) (f i (t.get (key i) d)))
    refine ⟨fun j hj => ?_, fun n hn => ?_⟩
    · rw [List.foldl_cons]
      rcases List.mem_cons.1 hj with rfl | hj
      · rw [others _ fun i' hi same => fresh (by rwa [inj same]), Table.get_set, if_pos rfl]
      · rw [updated j hj, Table.get_set, if_neg fun same => fresh (by rwa [← inj same])]
    · rw [List.foldl_cons, others n fun j hj => hn j (List.mem_cons_of_mem _ hj), Table.get_set, if_neg (hn i List.mem_cons_self)]

theorem bankKey_injective (b row : Nat) : Function.Injective (bankKey b row) := fun _ _ h => Nat.add_left_cancel h

theorem bankKey_row (b row : Nat) {j : Nat} (hj : j < 128) : bankKey b row j / 128 = b * 256 + row := by
  unfold bankKey
  omega

/-! ### Streams (R142, R223) -/

/-- What one element of a bank row takes in from a row: the four groups in ascending order (R142). -/
def CoreSt.takeIn (x : CoreSt) (p : Nat) (r : ActRow) (j : Nat) (acc : W32) : W32 :=
  [0, 1, 2, 3].foldl (fun (acc : W32) g =>
    accAdd acc (kgroup ((List.range 32).map fun k => let w := decodeFmt (x.latch.getD 0) (x.cells.get ((32 * g + k) * 128 + j) 0)
        if x.mxOn = true ∧ x.latch = some 9 then w.scale (-6) else w)
      (if x.mxOn then x.scales.get (128 * g + j) 127 else 127) (r.es.getD g 0) (r.nf.getLsbD g) ((r.a.drop (32 * g)).take 32) p)) acc

theorem CoreSt.stream_banks (x : CoreSt) (b row p : Nat) (r : ActRow) : (x.stream b row p r).banks =
    (List.range 128).foldl (fun t j => t.set (bankKey b row j) (x.takeIn p r j (t.get (bankKey b row j) 0))) x.banks := by
  have scaled (w : Num) : (if x.mxOn && decide (x.latch.getD 0 = 9) then w.scale (-6) else w) =
      if x.mxOn = true ∧ x.latch = some 9 then w.scale (-6) else w := by
    cases hl : x.latch <;> simp
  simp only [CoreSt.stream, CoreSt.takeIn, scaled]

theorem CoreSt.stream_rest (x : CoreSt) (b row p : Nat) (r : ActRow) : (x.stream b row p r).cells = x.cells ∧ (x.stream b row p r).ver = x.ver := by
  unfold CoreSt.stream
  exact ⟨rfl, rfl⟩

theorem CoreSt.stream_get (x : CoreSt) (b row p : Nat) (r : ActRow) :
    (∀ j, j < 128 → (x.stream b row p r).banks.get (bankKey b row j) 0 = x.takeIn p r j (x.banks.get (bankKey b row j) 0)) ∧
    ∀ n, (∀ j, j < 128 → n ≠ bankKey b row j) → (x.stream b row p r).banks.get n 0 = x.banks.get n 0 := by
  obtain ⟨updated, others⟩ := Table.get_foldl_set (bankKey b row) (bankKey_injective b row) (x.takeIn p r) 0 (List.nodup_range (n := 128)) x.banks
  rw [CoreSt.stream_banks]
  exact ⟨fun j hj => updated j (List.mem_range.2 hj), fun n hn => others n fun j hj => hn j (List.mem_range.1 hj)⟩

/-! ### Rows that are cleared (R224, R381) -/

theorem CoreSt.clearRow_get (x : CoreSt) (b row n : Nat) :
    (x.clearRow b row).banks.get n 0 = if n / 128 = b * 256 + row then 0 else x.banks.get n 0 := by
  refine (Table.get_filter (fun k => decide (k / 128 ≠ b * 256 + row)) ..).trans ?_
  by_cases h : n / 128 = b * 256 + row <;> simp [h]

theorem CoreSt.mem_clearRow (x : CoreSt) (b row n : Nat) : n ∈ (x.clearRow b row).bankPsn ↔ n ∈ x.bankPsn ∧ n ≠ b * 256 + row := by
  simp [CoreSt.clearRow]

/-- n rows of a bank, from a row on. -/
def CoreSt.clearRows (x : CoreSt) (b row n : Nat) : CoreSt := (List.range n).foldl (fun x i => x.clearRow b (row + i)) x

theorem CoreSt.clearRows_succ (x : CoreSt) (b row n : Nat) : x.clearRows b row (n + 1) = (x.clearRows b row n).clearRow b (row + n) := by
  rw [CoreSt.clearRows, List.range_succ, List.foldl_append]
  rfl

theorem CoreSt.clearRows_get (x : CoreSt) (b row n m : Nat) :
    (x.clearRows b row n).banks.get m 0 = if b * 256 + row ≤ m / 128 ∧ m / 128 < b * 256 + row + n then 0 else x.banks.get m 0 := by
  induction n with
  | zero => rw [if_neg (by omega)]; rfl
  | succ n ih =>
    rw [CoreSt.clearRows_succ, CoreSt.clearRow_get, ih]
    by_cases last : m / 128 = b * 256 + (row + n)
    · rw [if_pos last, if_pos (by omega)]
    · rw [if_neg last]
      congr 1
      exact propext (by omega)

theorem CoreSt.mem_clearRows (x : CoreSt) (b row n m : Nat) :
    m ∈ (x.clearRows b row n).bankPsn ↔ m ∈ x.bankPsn ∧ ¬(b * 256 + row ≤ m ∧ m < b * 256 + row + n) := by
  induction n with
  | zero => exact ⟨fun h => ⟨h, by omega⟩, fun h => h.1⟩
  | succ n ih =>
    rw [CoreSt.clearRows_succ, CoreSt.mem_clearRow, ih]
    constructor
    · rintro ⟨⟨listed, out⟩, last⟩
      exact ⟨listed, by omega⟩
    · rintro ⟨listed, out⟩
      exact ⟨⟨listed, by omega⟩, by omega⟩

end Sys2Proof.Machine
end

section
/-! SUPPORT. The data steps of a routine: what each leaves on its core and in memory (R222 to R225, R381). -/

namespace Sys2Proof.Machine

/-! ### Weights -/

section
variable {s : State} {e : RunEnv}

/-- What the core holds once weights without scales are in the array (R210, R222). -/
theorem State.core_loadArray (fmt : Nat) (code scale : Nat → Nat) (psn : Option Nat) :
    ∃ sc nf u, (s.loadArray e fmt false code scale psn).core e.k = { s.core e.k with
      cells := ⟨(List.range 16384).map fun i => (i, code i)⟩, scales := sc, latch := some fmt, mxOn := false, wpsn := psn, wuser := u, wnf := nf } :=
  ⟨_, _, _, (State.core_modCore ..).trans (if_pos rfl)⟩

/-- A step that ends with weights in the array. -/
theorem State.Reruns.loaded {t : State} {fmt : Nat} {code scale : Nat → Nat} {psn : Option Nat}
    (h : State.Reruns e.k (s.loadArray e fmt false code scale psn) t) :
    t.mem = s.mem ∧ (t.core e.k).latch = some fmt ∧ (t.core e.k).mxOn = false ∧ (∀ i, i < 16384 → (t.core e.k).cells.get i 0 = code i) ∧
      (t.core e.k).wpsn = psn ∧ (t.core e.k).banks = (s.core e.k).banks := by
  obtain ⟨mem, r, core⟩ := h
  obtain ⟨sc, nf, u, loaded⟩ := State.core_loadArray (s := s) (e := e) fmt code scale psn
  rw [core, loaded]
  exact ⟨mem, rfl, rfl, fun i hi => Table.get_list code 0 (List.mem_range.2 hi), rfl, rfl⟩

/-- Cell i of the weights that a generator gives for a tile descriptor (R217, R490). -/
def genCell (v : GenEnv) (g : BitVec 128) (tr : Bool) (d : W64) (i : Nat) : Nat :=
  let i0 : W32 := BitVec.ofNat 32 (gRow g + descRow d)
  let j0 : W32 := BitVec.ofNat 32 (gCol g + descCol d)
  let k : W32 := BitVec.ofNat 32 (i / 128)
  let j : W32 := BitVec.ofNat 32 (i % 128)
  if tr then genCode v g (j0 + j) (i0 + k) else genCode v g (i0 + k) (j0 + j)

/-- WGEN fills the array from its generator (R217, R490). -/
theorem State.loadGen_reruns {g : BitVec 128} (hf : gFmt g ≠ 0) (hv : gValid g = true) (tr : Bool) (d : W64) :
    State.Reruns e.k (s.loadArray e (gFmt g) false (genCell (s.runGen e) g tr d) (fun _ => 127) none) (s.loadGen e g tr d) := by
  have go : ¬(decide (gFmt g = 0) || !gValid g) = true := by simp [hf, hv]
  rw [State.loadGen, if_neg go]
  exact State.Reruns.trans (State.modRun_ite_reruns ..) (State.stepOn_reruns ..)

section
variable {ma : BitVec 3} {fmt : BitVec 4} {ps : List (Nat × Nat)} {pt : List Nat} (good : descBad (e.m ma) = false) (tile : (e.m ma).getLsbD 63 = false)
  (aligned : (e.m ma).toNat % 16 = 0)
include good tile aligned

/-- WLOAD of planed codes without scales (R213, R222). -/
theorem runWload_reruns (hf : fmt ≠ 0) (acc : s.runAcc e .rd ((e.m ma).toNat % 2 ^ 54) (2048 * fmtWidth fmt.toNat) = .ok ps pt) :
    ∃ scale, State.Reruns e.k ((s.touch pt false).loadArray e fmt.toNat false
      (fun i => planed (s.rdPieces ps) (fmtWidth fmt.toNat) (i / 128) (i % 128)) scale (s.psnPieces ((e.m ma).toNat % 2 ^ 54) ps))
      (runWload fmt false ma false 0 e s) := by
  have form : fmt.toNat ≠ 0 := fun h => hf (BitVec.eq_of_toNat_eq h)
  have base : (e.m ma).toNat % 2 ^ 54 % 16 = 0 := by omega
  simp only [runWload, good, tile, form, base, acc, Bool.false_eq_true, if_false, decide_false, Bool.false_and, Bool.or_false, ne_eq,
    not_true_eq_false, Nat.add_zero, Bool.and_false]
  refine ⟨fun i => s.rdPieces ps / 2 ^ (8 * (2048 * fmtWidth fmt.toNat + i)) % 256, .trans ?_ (State.stepOn_reruns ..)⟩
  split
  · exact State.modRun_reruns ..
  · exact .refl ..

end
end

/-! ### Streams (R215, R223, R386) -/

section
variable {s : State} {e : RunEnv} (run : (s.core e.k).mrun = some e.r) (latch : (s.core e.k).latch ≠ none) (first : e.r.row = 0)
include run latch first

/-- A stream of one row, of memory or of a generator, goes on to that row (R223). -/
theorem State.streamStep_one {p brow addr fmt : Nat} (hb : brow < 256) (hp : p ≤ 24) {gen : Option (BitVec 128 × Bool × W64)}
    (aligned : gen = none → addr % 16 = 0) (valid : ∀ g t d, gen = some (g, t, d) → gValid g = true) :
    s.streamStep e fmt p brow 1 addr false gen = streamRows e p brow fmt addr 0 gen 1 0 e.r.cyc s := by
  have loaded : (s.core e.k).latch.isNone = false := Option.isNone_eq_false_iff.2 (Option.isSome_iff_ne_none.2 latch)
  have env : ({ e with r := ((s.core e.k).mrun).getD e.r } : RunEnv) = e := by rw [run]; rfl
  have rows : ¬256 < brow + 1 := by omega
  have width : ¬24 < p := by omega
  cases gen with
  | none => simp [State.streamStep, loaded, rows, width, aligned, env, first]
  | some x =>
    obtain ⟨g, t, d⟩ := x
    simp [State.streamStep, loaded, rows, width, valid g t d rfl, env, first]

end

section
variable (s : State) (e : RunEnv) (p brow fmt addr cyc : Nat)

/-- The one row of a generator operand (R217, R386). -/
theorem streamRows_gen (g : BitVec 128) (t : Bool) (d : W64) :
    State.Reruns e.k (s.modCore e.k fun c => c.stream e.r.sel brow p (genActRow (s.runGen e) g t d p 0))
      (streamRows e p brow fmt addr 0 (some (g, t, d)) 1 0 cyc s) := by
  simp only [streamRows]
  exact .trans (.trans (State.modRun_reruns ..) (State.modRun_ite_reruns ..)) (State.stepOn_reruns ..)

/-- The one row of an operand in memory (R214, R391). -/
theorem streamRows_mem {ps : List (Nat × Nat)} (acc : s.runAcc e .rd addr (16 * (p + 1)) = .ok ps []) :
    State.Reruns e.k (s.modCore e.k fun c => c.stream e.r.sel brow p (actRow (s.rdPieces ps) p fmt (s.psnPieces addr ps)))
      (streamRows e p brow fmt addr 0 none 1 0 cyc s) := by
  simp only [streamRows, Nat.mul_zero, Nat.add_zero, acc]
  exact .trans (State.modRun_reruns ..) (State.stepOn_reruns ..)

/-- A step that ends with one row streamed in. -/
theorem State.Reruns.streamed {s t : State} {k : Nat} {f : CoreSt → CoreSt} (h : State.Reruns k (s.modCore k f) t) :
    t.mem = s.mem ∧ (t.core k).banks = (f (s.core k)).banks ∧ (t.core k).cells = (f (s.core k)).cells := by
  obtain ⟨mem, r, core⟩ := h
  rw [core, State.core_modCore, if_pos rfl]
  exact ⟨mem, rfl, rfl⟩

end

/-! ### Banks (R224, R225, R381) -/

/-- ACLR clears its rows (R381). -/
theorem runAclr_reruns (e : RunEnv) (s : State) {row nm1 : BitVec 8} (h : row.toNat + nm1.toNat + 1 ≤ 256) :
    State.Reruns e.k (s.modCore e.k fun x => x.clearRows e.r.sel row.toNat (nm1.toNat + 1)) (runAclr row nm1 e s) := by
  have rows : ¬256 < row.toNat + (nm1.toNat + 1) := by omega
  simp only [runAclr, rows, if_false]
  exact State.stepOn_reruns ..

theorem runAclr_fault (e : RunEnv) (s : State) {row nm1 : BitVec 8} (h : 256 < row.toNat + nm1.toNat + 1) : runAclr row nm1 e s = s.stepFault e :=
  if_pos h

/-- The codes of a bank row, one after another (R225). -/
def rowCodes (x : CoreSt) (fmt : Nat) (rm : Rm) (sat : Bool) (b row : Nat) : Nat :=
  (List.range 128).foldr (fun j (acc : Nat) => (encodeFmt fmt (f32 (x.banks.get (bankKey b row j) 0)) rm sat 0).1 + 2 ^ fmtWidth fmt * acc) 0

/-- ADRAIN of one row without poison writes its codes, and clears it where it is asked to (R225). -/
theorem drainRows_one {e : RunEnv} {s : State} {fmt addr brow cyc l : Nat} {rm : Rm} {sat clr : Bool} {pos : W64} (hr : rm ≠ .sr)
    (acc : s.runAcc e .wr addr (16 * fmtWidth fmt) = .ok [(l, 16 * fmtWidth fmt)] []) (clean : (s.core e.k).bankPsn = []) :
    let v := rowCodes (s.core e.k) fmt rm sat e.r.sel brow
    let t := drainRows e fmt rm sat addr brow cyc pos clr 1 0 s
    t.mem = (s.wr l (16 * fmtWidth fmt) (v % 2 ^ (8 * (16 * fmtWidth fmt)))).mem ∧
      ∃ r, t.core e.k = { (if clr then (s.core e.k).clearRow e.r.sel brow else s.core e.k) with mrun := r } := by
  intro v t
  have ends (u : State) (f : MatRun → MatRun) (c : MClass) (n : Nat) : State.Reruns e.k u ((u.modRun e.k f).stepOn e c n) :=
    .trans (State.modRun_reruns ..) (State.stepOn_reruns ..)
  simp only [t, drainRows, Nat.mul_zero, Nat.add_zero, acc, clean, hr, if_false, List.contains_nil, Bool.false_eq_true]
  cases clr with
  | false =>
    obtain ⟨mem, r, core⟩ := ends (s.wr l (16 * fmtWidth fmt) (v % 2 ^ (8 * (16 * fmtWidth fmt)))) (fun r => { r with row := 1, tries := 0 }) .compute cyc
    exact ⟨mem, r, core⟩
  | true =>
    obtain ⟨mem, r, core⟩ := ends ((s.wr l (16 * fmtWidth fmt) (v % 2 ^ (8 * (16 * fmtWidth fmt)))).modCore e.k fun x => x.clearRow e.r.sel brow)
      (fun r => { r with row := 1, tries := 0 }) .compute cyc
    rw [State.core_modCore, if_pos rfl] at core
    exact ⟨mem, r, core⟩

theorem rmOfBits_ne_sr {rm : BitVec 3} (h : rm.toNat < 4) : rmOfBits rm ≠ .sr := by
  unfold rmOfBits
  interval_cases rm.toNat <;> decide

/-- ADRAIN of one row goes on to that row (R385). -/
theorem runAdrain_one {fmt : BitVec 4} {rm ma : BitVec 3} {sf clr : Bool} {row : BitVec 8} {e : RunEnv} {s : State} (good : descBad (e.m ma) = false)
    (tile : (e.m ma).getLsbD 63 = false) (aligned : (e.m ma).toNat % 16 = 0) (hr : rm.toNat < 4) (hf : fmt.toNat < 14) (sat : fmt = 0 → sf = false)
    (first : e.r.row = 0) : runAdrain fmt rm sf ma row 0 clr 0 e s =
      drainRows e fmt.toNat (rmOfBits rm) sf ((e.m ma).toNat % 2 ^ 54) row.toNat (4 + 1 * ((fmtWidth fmt.toNat + 15) / 16)) (if rm = 4 then e.m 0 else 0)
        clr 1 0 s := by
  have hr4 : ¬4 < rm.toNat := by omega
  have hf14 : ¬14 ≤ fmt.toNat := by omega
  have plain : (decide (fmt.toNat = 0) && sf) = false := by
    by_cases h : fmt = 0
    · rw [sat h, Bool.and_false]
    · have ne : fmt.toNat ≠ 0 := fun h' => h (BitVec.eq_of_toNat_eq h')
      rw [decide_eq_false ne, Bool.false_and]
  have base : (e.m ma).toNat % 2 ^ 54 % 16 = 0 := by omega
  have rows : ¬256 < row.toNat + 1 := by omega
  have one : (0 : BitVec 8).toNat = 0 := rfl
  simp only [runAdrain, good, tile, hr4, hf14, plain, base, rows, first, one, Nat.zero_add, ne_eq, not_true_eq_false, decide_false,
    Bool.and_false, Bool.or_false, Bool.false_eq_true, if_false, Nat.sub_zero]

/-- ASTREAM of one row in memory (R391). -/
theorem runAstream_one {fmt : BitVec 4} {pm1 : BitVec 5} {ma : BitVec 3} {row : BitVec 8} {e : RunEnv} {s : State} (good : descBad (e.m ma) = false)
    (tile : (e.m ma).getLsbD 63 = false) : runAstream fmt pm1 ma row 0 false e s =
      s.streamStep e fmt.toNat (pm1.toNat + 1) row.toNat 1 ((e.m ma).toNat % 2 ^ 54) false none := by
  simp only [runAstream, good, tile, Bool.false_eq_true, if_false]
  rfl

theorem State.rdPieces_one (s : State) (l n : Nat) : s.rdPieces [(l, n)] = s.rd l n := by simp [State.rdPieces]

/-- What ADRAIN of one row leaves in memory and in the banks (R225). -/
theorem row_drained {s t : State} {k l w v b row : Nat} {clr : Bool} (mem : t.mem = (s.wr l (16 * w) (v % 2 ^ (8 * (16 * w)))).mem)
    (core : ∃ r, t.core k = { (if clr then (s.core k).clearRow b row else s.core k) with mrun := r }) (hp : s.poison = []) (wf : s.mem.wf = true)
    (hrow : row < 256) :
    t.rd l (16 * w) = v % 2 ^ (128 * w) ∧ (∀ a, (a < l ∨ l + 16 * w ≤ a) → t.mem.read a = s.mem.read a) ∧
      (∀ j, j < 128 → (t.core k).banks.get (bankKey b row j) 0 = if clr then 0 else (s.core k).banks.get (bankKey b row j) 0) ∧
      (∀ n r j, j < 128 → r < 256 → (n ≠ b ∨ r ≠ row) → (t.core k).banks.get (bankKey n r j) 0 = (s.core k).banks.get (bankKey n r j) 0) := by
  obtain ⟨r, core⟩ := core
  have bits : 8 * (16 * w) = 128 * w := by omega
  have bank (n : Nat) : (t.core k).banks.get n 0 = if clr = true ∧ n / 128 = b * 256 + row then 0 else (s.core k).banks.get n 0 := by
    rw [core]
    cases clr with
    | false => simp
    | true => simpa using (s.core k).clearRow_get b row n
  refine ⟨?_, fun a ha => ?_, fun j hj => ?_, fun n r j hj hr other => ?_⟩
  · rw [State.rd, mem, ← State.rd, State.rd_wr hp wf, Nat.mod_mod, bits]
  · rw [mem, State.wr_other hp wf ha]
  · rw [bank, bankKey_row b row hj]
    simp
  · rw [bank, bankKey_row n r hj, if_neg (by omega)]

end Sys2Proof.Machine
end

section
open Sys2Proof Sys2Proof.Machine

/-- Settles O56: each step by what it leaves on its core and in memory. -/
theorem routineData : Obligations.RoutineData := by
  refine ⟨fun s e fmt ma ps pt h good tile hf aligned acc => ?_, fun s e gn ma tr h hf hv => ?_,
    fun s e fmt pm1 ma row l h latch good tile aligned width first acc => ?_, fun s e gn ma tr pm1 row h latch hv width first => ?_,
    fun x b row p r => ?_, fun s e row nm1 h => ⟨fun far => ?_, fun near => ?_⟩,
    fun s e fmt rm ma sf clr row l h good tile aligned hr hf sat first acc hp wf clean => ?_⟩
  · obtain ⟨core, -⟩ := State.routine_some h
    obtain ⟨scale, ends⟩ := runWload_reruns good tile aligned hf acc
    obtain ⟨-, latch, mx, cells, psn, banks⟩ := ends.loaded
    rw [core] at latch mx cells psn banks
    exact ⟨_, microStep_routine h _, latch, mx, cells, psn, banks⟩
  · obtain ⟨core, -⟩ := State.routine_some h
    obtain ⟨mem, latch, mx, cells, -, -⟩ := (State.loadGen_reruns (s := s) (e := e) hf hv tr (e.m ma)).loaded
    rw [core] at latch mx cells
    exact ⟨_, microStep_routine h _, latch, mx, mem, cells⟩
  · obtain ⟨core, run⟩ := State.routine_some h
    rw [← core] at latch run ⊢
    have row1 := State.streamStep_one (fmt := fmt.toNat) (addr := (e.m ma).toNat % 2 ^ 54) run latch first row.isLt (p := pm1.toNat + 1) (by omega)
      (gen := none) (fun _ => by omega) (fun _ _ _ h => nomatch h)
    obtain ⟨mem, banks, cells⟩ := (streamRows_mem s e (pm1.toNat + 1) row.toNat fmt.toNat _ e.r.cyc acc).streamed
    rw [State.rdPieces_one] at banks
    rw [(CoreSt.stream_rest ..).1] at cells
    rw [← row1, ← runAstream_one good tile] at mem banks cells
    exact ⟨_, microStep_routine h _, banks, cells, mem⟩
  · obtain ⟨core, run⟩ := State.routine_some h
    rw [← core] at latch run ⊢
    have row1 := State.streamStep_one (fmt := 0) (addr := 0) run latch first row.isLt (p := pm1.toNat + 1) (by omega)
      (gen := some (e.g gn, tr, e.m ma)) (fun h => nomatch h) (fun _ _ _ same => by cases same; exact hv)
    obtain ⟨mem, banks, -⟩ := (streamRows_gen s e (pm1.toNat + 1) row.toNat 0 0 e.r.cyc (e.g gn) tr (e.m ma)).streamed
    rw [← row1] at mem banks
    exact ⟨_, microStep_routine h _, mem, banks⟩
  · obtain ⟨streamed, others⟩ := x.stream_get b row p r
    exact ⟨streamed, others, x.stream_rest b row p r⟩
  · exact (microStep_routine h _).trans (congrArg _ (runAclr_fault e s far))
  · obtain ⟨core, -⟩ := State.routine_some h
    obtain ⟨mem, run, here⟩ := runAclr_reruns e s near
    rw [State.core_modCore, if_pos rfl, core] at here
    have bank (n : Nat) := (s.core s.eng).clearRows_get e.r.sel row.toNat (nm1.toNat + 1) n
    refine ⟨_, microStep_routine h _, mem, fun r j lower upper hj => ?_, fun b r j hj hr other => ?_⟩
    · rw [here]
      refine ⟨(bank _).trans (if_pos ?_), fun listed => ((CoreSt.mem_clearRows ..).1 listed).2 (by omega)⟩
      rw [bankKey_row _ _ hj]
      omega
    · rw [here]
      refine (bank _).trans (if_neg ?_)
      rw [bankKey_row _ _ hj]
      omega
  · obtain ⟨core, -⟩ := State.routine_some h
    have one := runAdrain_one (s := s) (clr := clr) (row := row) good tile aligned hr hf sat first
    rw [← core] at clean ⊢
    obtain ⟨mem, here⟩ := drainRows_one (sat := sf) (clr := clr) (brow := row.toNat) (rmOfBits_ne_sr hr) acc clean
    rw [← one] at mem here
    exact ⟨_, microStep_routine h _, row_drained mem here hp wf row.isLt⟩
end

section
/-! SUPPORT. MISALIGNED among the causes of a memory access (R164, R193, R205). -/

namespace Sys2Proof.Machine

/-! ### Where the checks of an access name it -/

section
variable (e : Env) (va q : W64) (n : Nat)

theorem Env.mem_chk : (cALIGN, q) ∈ e.chk va n ↔ q = va ∧ va.toNat % n ≠ 0 := by
  unfold Env.chk
  split <;> split <;> simp [cALIGN, cOWNER, *]

theorem Env.mem_chkMem : (cALIGN, q) ∈ e.chkMem va n ↔ q = va ∧ va.toNat % n ≠ 0 := by
  unfold Env.chkMem
  split <;> split <;> simp [cALIGN, cOWNER, *]

theorem Env.not_mem_watchTrap (vas : List Nat) : (cALIGN, q) ∉ e.watchTrap vas := by
  unfold Env.watchTrap
  split
  · simp
  · split <;> simp [cALIGN, cWATCH]

theorem Env.mem_elemTraps (els : List Elem) :
    (cALIGN, q) ∈ e.elemTraps els ↔ ∃ l ∈ els, q = BitVec.ofNat 64 l.va ∧ q.toNat % l.len ≠ 0 := by
  simp only [Env.elemTraps, List.mem_flatMap, Env.mem_chk]
  refine exists_congr fun l => and_congr_right fun _ => and_congr_right fun same => ?_
  rw [same]

theorem Env.mem_chk_or_watch (vas : List Nat) : (cALIGN, q) ∈ e.chk va n ++ e.watchTrap vas ↔ q = va ∧ va.toNat % n ≠ 0 := by
  rw [List.mem_append, or_iff_left (e.not_mem_watchTrap q vas), Env.mem_chk]

theorem Env.mem_chkMem_or_watch (vas : List Nat) : (cALIGN, q) ∈ e.chkMem va n ++ e.watchTrap vas ↔ q = va ∧ va.toNat % n ≠ 0 := by
  rw [List.mem_append, or_iff_left (e.not_mem_watchTrap q vas), Env.mem_chkMem]

theorem Env.mem_elemTraps_or_watch (els : List Elem) (vas : List Nat) :
    (cALIGN, q) ∈ e.elemTraps els ++ e.watchTrap vas ↔ (cALIGN, q) ∈ e.elemTraps els := by
  rw [List.mem_append, or_iff_left (e.not_mem_watchTrap q vas)]

/-- The elements of a gather or scatter by lane: MISALIGNED is named for the address of an enabled lane (R428, R466). -/
theorem Env.mem_elemTraps_lanes {v len unit : Nat} (form : gatherForm v = (len, unit, false)) (b : Opnd) :
    (cALIGN, q) ∈ e.elemTraps (e.gElems v va b) ↔
      ∃ l, l < 64 ∧ e.on l = true ∧ q = va + BitVec.ofNat 64 unit * (b.lane l).setWidth 64 ∧ q.toNat % len ≠ 0 := by
  simp only [Env.mem_elemTraps, Env.gElems, form, Bool.false_eq_true, if_false, List.mem_map, List.mem_filter, List.mem_range]
  constructor
  · rintro ⟨_, ⟨l, ⟨lt, on⟩, rfl⟩, at_, off⟩
    exact ⟨l, lt, on, by rw [at_, BitVec.ofNat_toNat, BitVec.setWidth_eq], off⟩
  · rintro ⟨l, lt, on, at_, off⟩
    exact ⟨_, ⟨l, ⟨lt, on⟩, rfl⟩, by rw [at_, BitVec.ofNat_toNat, BitVec.setWidth_eq], off⟩

/-- The one element of a y form, which lane 0 enables (R428, R466). -/
theorem Env.mem_elemTraps_one {v len unit : Nat} (form : gatherForm v = (len, unit, true)) (b : Opnd) :
    (cALIGN, q) ∈ e.elemTraps (e.gElems v va b) ↔ e.on 0 = true ∧ q = va + b.d ∧ q.toNat % len ≠ 0 := by
  simp only [Env.mem_elemTraps, Env.gElems, form, if_true]
  by_cases on : e.on 0 = true
  · simp only [on, if_true, List.mem_singleton, exists_eq_left, BitVec.ofNat_toNat, BitVec.setWidth_eq, true_and]
  · simp [on]
end

/-! ### The causes of a slot under a true condition -/

section
variable {sl : Slot} {e : Env} {ops : List Opnd} {psn : List (W64 × Nat)} (h : e.cond = true)
include h

theorem Slot.finish_traps : (sl.finish e ops psn).traps = sl.traps := by
  unfold Slot.finish
  simp only [h, if_true]

theorem Env.loadSlot_traps (f : File) (d : BitVec 5) (els : List Elem) (lat : Nat) (own : Bool) :
    (e.loadSlot sl ops psn f d els lat own).traps = sl.traps := Slot.finish_traps h

theorem Env.storeSlot_traps (v : Wide) (els rels : List Elem) (merge : Bool) (keys : List (File × Nat)) :
    (e.storeSlot sl ops psn v els rels merge keys).traps = sl.traps := Slot.finish_traps h

theorem Env.rmwSlot_traps (addr : Opnd) (va : W64) (op : Rmw) (d : BitVec 5) (pad : Nat) (res always : Bool) :
    (e.rmwSlot sl addr ops psn va op d pad res always).traps = sl.traps := Slot.finish_traps h
end

section
variable {s : State} (h : s.env.cond = true)
include h

theorem slotStv_traps (o : MO) (lanes : s.env.lanes ≠ 0) : ∃ vas, (slotStv o s).traps =
    s.env.chk ((s.mA o.base o.ha).d + s.env.ofs8 o.ofs * 256) 256 ++ s.env.watchTrap vas := by
  unfold slotStv
  extract_lets e a d ea els lines sl
  refine ⟨byteVas els, Eq.trans (b := sl.traps) ?_ ((Env.storeSlot_traps h ..).trans (if_neg lanes))⟩
  split <;> rfl

theorem slotLdg_traps (o : R3) (v : BitVec 4) : (slotLdg o v s).traps =
    s.env.elemTraps (s.env.gElems v.toNat (s.mA o.a o.ha).d (s.mB (if (gatherForm v.toNat).2.2 then .x else .v) o.b o.hb)) := by
  unfold slotLdg
  dsimp only
  split
  · exact Slot.finish_traps h
  · exact Env.loadSlot_traps h ..

theorem slotStg_traps (o : R3) (v : BitVec 4) : ∃ vas, (slotStg o v s).traps =
    s.env.elemTraps (s.env.gElems v.toNat (s.mA o.a o.ha).d (s.mB (if (gatherForm v.toNat).2.2 then .x else .v) o.b o.hb)) ++ s.env.watchTrap vas :=
  ⟨_, Env.storeSlot_traps h ..⟩

/-- A gather and a scatter name the same lanes or the same one element. -/
theorem mem_gather_traps (o : R3) (v : BitVec 4) (q : W64) :
    let named := (cALIGN, q) ∈ s.env.elemTraps (s.env.gElems v.toNat (s.mA o.a o.ha).d (s.mB (if (gatherForm v.toNat).2.2 then .x else .v) o.b o.hb))
    ((cALIGN, q) ∈ (slotOf (.ldg o v) s).traps ↔ named) ∧ ((cALIGN, q) ∈ (slotOf (.stg o v) s).traps ↔ named) := by
  intro named
  obtain ⟨vas, stg⟩ := slotStg_traps h o v
  constructor
  · rw [show slotOf (.ldg o v) s = slotLdg o v s from rfl, slotLdg_traps h]
  · rw [show slotOf (.stg o v) s = slotStg o v s from rfl, stg, Env.mem_elemTraps_or_watch]

/-- RST names its data address and its flag address (R193, R459). -/
theorem mem_slotRst_traps (o : R3) (v : BitVec 4) (q : W64) : (cALIGN, q) ∈ (slotRst o v s).traps ↔
    (q = (s.mA o.a o.ha).d ∧ q.toNat % (if v = 4 then 256 else 2 ^ v.toNat) ≠ 0) ∨ (q = (s.mB .x o.b o.hb).d ∧ q.toNat % 8 ≠ 0) := by
  unfold slotRst
  rw [Slot.finish_traps h]
  have owner (p : Prop) [Decidable p] (b : W64) : (cALIGN, q) ∈ (if p then [(cOWNER, b)] else []) ↔ False := by
    split <;> simp [cALIGN, cOWNER]
  have flag (b : W64) : (cALIGN, q) ∈ (if b.toNat % 8 ≠ 0 then [(cALIGN, b)] else []) ↔ q = b ∧ b.toNat % 8 ≠ 0 := by
    split <;> simp [*]
  simp only [List.mem_append, Env.mem_chkMem, Env.not_mem_watchTrap, or_false, decide_eq_true_eq, owner, flag]
  exact or_congr (and_congr_right fun same => by rw [same]) (and_congr_right fun same => by rw [same])
end

end Sys2Proof.Machine
end

section
open Sys2Proof Sys2Proof.Machine

/-- Settles O15: the causes of each slot are its checks, which name MISALIGNED for its address alone, and a watch, which does not name it. -/
theorem misalignmentTraps : Obligations.MisalignmentTraps := by
  intro s h
  refine ⟨fun o z ea hea => ?_, fun o ea lanes hea => ?_, fun o v a ha => ?_, fun o v n u q form => ?_, fun o v n q form => ?_, fun o a ha => ?_,
    fun o => ?_, fun o => ?_, fun o v q => mem_slotRst_traps h o v q⟩
  · have ld : (slotOf (.ld o z) s).traps = s.env.chk _ _ := Env.loadSlot_traps h ..
    have st : (slotOf (.st o z) s).traps = s.env.chk _ _ ++ s.env.watchTrap _ := Env.storeSlot_traps h ..
    have rld : (slotOf (.rld o z) s).traps = s.env.chkMem _ _ := Slot.finish_traps h
    rw [ld, st, rld, Env.mem_chk, Env.mem_chk_or_watch, Env.mem_chkMem, hea]
    exact ⟨and_iff_right rfl, and_iff_right rfl, and_iff_right rfl⟩
  · have ldv : (slotOf (.ldv o) s).traps = s.env.chk _ _ := (Env.loadSlot_traps h ..).trans (if_neg lanes)
    obtain ⟨vas, stv⟩ := slotStv_traps h o lanes
    have stv : (slotOf (.stv o) s).traps = _ := stv
    rw [ldv, stv, Env.mem_chk, Env.mem_chk_or_watch, hea]
    exact ⟨and_iff_right rfl, and_iff_right rfl⟩
  · have atom : (slotOf (.atom o v) s).traps = s.env.chk _ _ ++ s.env.watchTrap _ := Env.rmwSlot_traps h ..
    have ratom : (slotOf (.ratom o v) s).traps = s.env.chkMem _ _ ++ s.env.watchTrap _ := Env.rmwSlot_traps h ..
    rw [atom, ratom, Env.mem_chk_or_watch, Env.mem_chkMem_or_watch, ha]
    exact ⟨and_iff_right rfl, and_iff_right rfl⟩
  · have gather : gatherForm v.toNat = (n, u, false) := by
      simp only [List.mem_cons, List.not_mem_nil, or_false, Prod.mk.injEq] at form
      rcases form with ⟨hv, rfl, rfl⟩ | ⟨hv, rfl, rfl⟩ | ⟨hv, rfl, rfl⟩ | ⟨hv, rfl, rfl⟩ <;> rw [hv] <;> rfl
    have named := mem_gather_traps h o v q
    rw [Env.mem_elemTraps_lanes _ _ _ gather, gather] at named
    exact named
  · have gather : gatherForm v.toNat = (n, 1, true) := by
      simp only [List.mem_cons, List.not_mem_nil, or_false, Prod.mk.injEq] at form
      rcases form with ⟨hv, rfl⟩ | ⟨hv, rfl⟩ <;> rw [hv] <;> rfl
    have named := mem_gather_traps h o v q
    rw [Env.mem_elemTraps_one _ _ _ gather, gather] at named
    exact named
  · have stver : (slotOf (.stver o) s).traps = s.env.chk _ _ ++ s.env.watchTrap _ := Env.rmwSlot_traps h ..
    rw [stver, Env.mem_chk_or_watch, ha]
    exact and_iff_right rfl
  · have barm : (slotOf (.barm o) s).traps = s.env.chkMem _ _ ++ s.env.watchTrap _ := Env.rmwSlot_traps h ..
    have cwait : (slotOf (.cwait o) s).traps = s.env.chkMem _ _ := Slot.finish_traps h
    dsimp only
    rw [barm, cwait, Env.mem_chkMem_or_watch, Env.mem_chkMem]
    exact ⟨and_iff_right rfl, and_iff_right rfl⟩
  · have nextt : (slotOf (.nextt o) s).traps = s.env.chk _ _ := Slot.finish_traps h
    dsimp only
    rw [nextt, Env.mem_chk]
    exact and_iff_right rfl
end

section
/-! SUPPORT. Owner flips, pins and probes (R152, R156 to R158, R174, R199, R430, R445, R451). -/

namespace Sys2Proof.Machine

/-! ### Owner flips -/

theorem State.flip_succ (s : State) (k first n : Nat) (o : Bool) : s.flip k first (n + 1) o =
    (s.flip k first n o).setSlot k (first + n) (((s.flip k first n o).slotOf k (first + n)).1, o, ((s.flip k first n o).slotOf k (first + n)).2.2) := by
  rw [State.flip, List.range_succ, List.foldl_append]
  rfl

/-- A flip sets O of its own slots and leaves the others of the core (R152). -/
theorem State.slotOf_flip (s : State) (k first n j : Nat) (o : Bool) : (s.flip k first n o).slotOf k j =
    if first ≤ j ∧ j < first + n then ((s.slotOf k j).1, o, (s.slotOf k j).2.2) else s.slotOf k j := by
  induction n with
  | zero => rw [if_neg (by omega)]; rfl
  | succ n ih =>
    rw [State.flip_succ, State.slotOf_setSlot]
    by_cases last : j = first + n
    · subst last
      rw [if_pos rfl, if_pos (by omega), ih, if_neg (by omega)]
    · rw [if_neg last, ih]
      congr 1
      exact propext (by omega)

/-- A flip changes the owner map alone. -/
theorem State.flip_slots (s : State) (k first n : Nat) (o : Bool) : ∃ m, s.flip k first n o = { s with slots := m } := by
  induction n with
  | zero => exact ⟨_, rfl⟩
  | succ n ih =>
    obtain ⟨m, h⟩ := ih
    exact ⟨_, by rw [State.flip_succ, h]; rfl⟩

section
variable {s : State} (h : s.Issuing) (o : AB)
include h

theorem issue_flip (eng : Bool) : exec (if eng then .owne o else .ownt o) s = .next ((s.filled [s.mA o.a o.ha, s.mB .x o.b o.hb]).flip (coreOf s.cur)
    ((s.mA o.a o.ha).d.toNat % 2 ^ 23 / 4096) (min (s.mB .x o.b o.hb).d.toNat 1536) eng) := by
  cases eng
  · exact issue_finish (slotOwnt o) h rfl
  · exact issue_finish (slotOwne o) h rfl

theorem flip_traps {i : Instr} (hi : i = .owne o ∨ i = .ownt o) : (slotOf i s).traps = s.env.flipTrap (s.mA o.a o.ha).d (s.mB .x o.b o.hb).d := by
  rcases hi with rfl | rfl <;> exact Slot.finish_traps h.cond

theorem flip_hold (clean : s.env.flipTrap (s.mA o.a o.ha).d (s.mB .x o.b o.hb).d = []) (hp : (s.ctx s.cur).preds = []) :
    (slotOf (.ownt o) s).hold = .none ∧ ((slotOf (.owne o) s).hold = .interlock ↔
      s.env.lsqTouches ((s.mA o.a o.ha).d.toNat % 2 ^ 23 / 4096) (s.mB .x o.b o.hb).d.toNat = true) := by
  have preds : (!s.env.x.preds.isEmpty) = false := by simp [State.env, hp]
  have own : (slotOf (.owne o) s).hold = if s.env.lsqTouches ((s.mA o.a o.ha).d.toNat % 2 ^ 23 / 4096) (s.mB .x o.b o.hb).d.toNat then .interlock else .none := by
    refine (Slot.finish_hold _ _ _ _ h.cond).trans ?_
    rw [preds, if_neg (by decide)]
    show (if (true && (s.env.flipTrap (s.mA o.a o.ha).d (s.mB .x o.b o.hb).d).isEmpty && _) = true then _ else _) = _
    rw [clean]
    rfl
  refine ⟨(Slot.finish_hold _ _ _ _ h.cond).trans ?_, ?_⟩
  · rw [preds, if_neg (by decide)]
    rfl
  · rw [own]
    have interlock_iff (b : Bool) : (if b = true then HoldKind.interlock else .none) = .interlock ↔ b = true := by cases b <;> simp
    exact interlock_iff _

end

/-- The causes of a flip, by the first check that its range fails (R152). -/
theorem Env.flipTrap_cases (e : Env) (a b : W64) :
    (a.toNat / 2 ^ 23 ≠ 0x7FF8_0000 → e.flipTrap a b = [(cOWNER, a)]) ∧
    (a.toNat / 2 ^ 23 = 0x7FF8_0000 → a.toNat % 4096 ≠ 0 → e.flipTrap a b = [(cALIGN, a)]) ∧
    (a.toNat / 2 ^ 23 = 0x7FF8_0000 → a.toNat % 4096 = 0 → e.s.spSize e.k < (a.toNat % 2 ^ 23 / 4096 + b.toNat) * 4096 →
      e.flipTrap a b = [(cOWNER, a)]) := by
  have window : (a.toNat / 2 ^ 54 ≠ 0 ∨ a.toNat / 2 ^ 42 % 2 ^ 12 ≠ 0xFFF ∨ a.toNat / 2 ^ 23 % 2 ^ 19 ≠ 0) ↔ a.toNat / 2 ^ 23 ≠ 0x7FF8_0000 := by omega
  refine ⟨fun far => ?_, fun own off => ?_, fun own aligned long => ?_⟩
  · exact if_pos (window.2 far)
  · exact (if_neg fun out => window.1 out own).trans (if_pos off)
  · exact (if_neg fun out => window.1 out own).trans ((if_neg (by omega)).trans (if_pos (.inr long)))

/-! ### Pins -/

section
variable {s : State} (h : s.Issuing)
include h

/-- What LOCK does where its range translates: new pins under OK alone, and its status with their number (R156, R430). -/
theorem issue_lock (o : R3) (l1 : Bool) {st : Nat} {new : List Pin} (out : s.env.lockOut (s.mA o.a o.ha).d (s.mB .x o.b o.hb).d l1 = (none, st, new)) :
    ∃ t, ∃ lines : List Nat, exec (.lock o l1) s = .next t ∧
      (t.ctx s.cur).pins = (if st = stOK then
        ((s.ctx s.cur).pins.map fun (p : Pin) => if l1 && p.live && lines.contains p.line then { p with l1 := true } else p) ++ new
        else (s.ctx s.cur).pins) ∧
      (t.ctx s.cur).inflight = (s.ctx s.cur).inflight ++ [{ s.later o.d 12 1600 0 (BitVec.ofNat 64 ((if st = stOK then new.length else 0) * 2 ^ 32 + st))
        with seq := (s.ctx s.cur).nextSeq, iss := (s.ctx s.cur).bundles }] := by
  have slot : exec (.lock o l1) s = .next ((slotLock o l1 s).eff s) := issue_checked (slotLock o l1) s h.checked
  refine ⟨_, runLines (s.env.lockXlat (s.mA o.a o.ha).d (s.mB .x o.b o.hb).d).runs, slot, ?_⟩
  change s.env.lockOut (s.env.opnd .x o.a o.ha 8).d (s.env.opnd .x o.b o.hb 9).d l1 = (none, st, new) at out
  obtain ⟨l, p, filled⟩ := s.filled_ctx [s.env.opnd .x o.a o.ha 8, s.env.opnd .x o.b o.hb 9]
  simp only [slotLock, out, finish_eff _ _ _ _ h.cond]
  rw [show s.env.lockXlat (s.mA o.a o.ha).d (s.mB .x o.b o.hb).d = s.env.lockXlat (s.env.opnd .x o.a o.ha 8).d (s.env.opnd .x o.b o.hb 9).d from rfl]
  generalize s.env.lockXlat _ _ = X
  have touched (u : State) (pt : List Nat) (p : Prop) [Decidable p] : (if p then u.touch pt false else u).ctx s.cur = u.ctx s.cur := by
    split <;> rfl
  rw [show s.env.c = s.cur from rfl, State.ctx_modCtx_self, touched]
  change (s.modCtx s.cur fun x => x.fill ([s.env.opnd .x o.a o.ha 8, s.env.opnd .x o.b o.hb 9].flatMap fun o => o.fill)).ctx s.cur = _ at filled
  simp only [Ctx.push, filled]
  exact ⟨trivial, rfl⟩

end

theorem Env.lockOut_long (e : Env) (a b : W64) (l1 : Bool) (long : 2 ^ 32 < b.toNat) : e.lockOut a b l1 = (none, stFAULT, []) := by
  have there : e.lockHere a b = false := by
    rw [Env.lockHere, decide_eq_true long]
    rfl
  simp [Env.lockOut, there]

theorem slotUnlock_unlockRuns_none (s : State) (c fuel line : Nat) : slotUnlock.unlockRuns s c fuel line 0 = [] := by
  cases fuel <;> simp [slotUnlock.unlockRuns]

/-- The pins that UNLOCK of a range keeps (R156, R158). -/
def State.unlockKeeps (s : State) (a b : W64) (p : Pin) : Bool :=
  !(!decide (2 ^ 32 < b.toNat) && decide ((lineRange a b).1 ≤ p.va ∧ p.va < (lineRange a b).1 + (lineRange a b).2)) &&
    !(p.live && (if decide (2 ^ 32 < b.toNat) then [] else slotUnlock.unlockRuns s s.cur 65540 (lineRange a b).1 (lineRange a b).2).any
      fun (r : Nat × Nat) => decide (r.1 ≤ p.line ∧ p.line < r.1 + r.2))

theorem issue_unlock {s : State} (h : s.Issuing) (o : AB) : exec (.unlock o) s = .next ((s.filled [s.mA o.a o.ha, s.mB .x o.b o.hb]).modCtx s.cur fun x =>
    { x with pins := x.pins.filter (s.unlockKeeps (s.mA o.a o.ha).d (s.mB .x o.b o.hb).d) }) := issue_finish (slotUnlock o) h rfl

/-- No pin of a line of the range stays. -/
theorem State.unlockKeeps_outside {s : State} {a b : W64} {p : Pin} (pos : b ≠ 0) (short : b.toNat ≤ 2 ^ 32) (keeps : s.unlockKeeps a b p = true) :
    ¬(a.toNat / 64 ≤ p.va ∧ p.va ≤ (a.toNat + b.toNat - 1) / 64) := by
  intro inside
  have range : lineRange a b = (a.toNat / 64, (a.toNat + b.toNat - 1) / 64 + 1 - a.toNat / 64) := by rw [lineRange, if_neg pos]
  rw [State.unlockKeeps, range, decide_eq_false (show ¬2 ^ 32 < b.toNat by omega), decide_eq_true (show _ ≤ p.va ∧ p.va < _ by dsimp only; omega)] at keeps
  exact absurd keeps (by simp)

/-- A range of no byte has no line. -/
theorem State.unlockKeeps_none (s : State) (a : W64) (p : Pin) : s.unlockKeeps a 0 p = true := by
  have range : lineRange a 0 = (a.toNat / 64, 0) := rfl
  rw [State.unlockKeeps, range, slotUnlock_unlockRuns_none, decide_eq_false (show ¬(_ ≤ p.va ∧ p.va < _) by dsimp only; omega)]
  simp

/-! ### Probes -/

theorem probeFail_none (s : State) (c : Nat) (a : Acc) (fuel va : Nat) : probeFail s c a fuel va 0 = none := by
  cases fuel <;> simp [probeFail]

theorem probeFail_first {s : State} {c va n f ofs fuel : Nat} {a : Acc} (hn : 0 < n) (hp : s.place va = .mem f ofs)
    (ht : s.translate (s.ctx c).vf f ofs a = none) : probeFail s c a (fuel + 1) va n = some (cPROBE, va) := by
  have pos : n ≠ 0 := by omega
  simp [probeFail, pos, hp, ht]

section
variable {s : State} (h : s.Issuing) (o : R3) (w : Bool)
include h

theorem issue_probe : exec (.probe o w) s = .next (s.gives [s.mA o.a o.ha, s.mB .x o.b o.hb]
    { s.later o.d 12 1600 0 (BitVec.ofNat 64 (if decide (2 ^ 32 < (s.mB .x o.b o.hb).d.toNat) then stFAULT else stOK)) with fixed := (s.ctx s.cur).det }) :=
  issue_finish (slotProbe o w) h rfl

/-- Is an end of the range off the package, on a deterministic queue (R174)? -/
def State.probeOff (s : State) (a b : W64) : Bool :=
  (s.ctx s.cur).det && !decide (2 ^ 32 < b.toNat) && decide (b ≠ 0) && (s.offPackage a.toNat || s.offPackage (a.toNat + b.toNat - 1))

omit h in
theorem State.probeOff_iff {a b : W64} : s.probeOff a b = true ↔
    (s.ctx s.cur).det = true ∧ b.toNat ≤ 2 ^ 32 ∧ 0 < b.toNat ∧ (s.offPackage a.toNat = true ∨ s.offPackage (a.toNat + b.toNat - 1) = true) := by
  have pos : b ≠ 0 ↔ 0 < b.toNat := by
    rw [Nat.pos_iff_ne_zero, ne_eq, ne_eq, ← BitVec.toNat_inj]
    rfl
  simp only [State.probeOff, Bool.and_eq_true, Bool.or_eq_true, Bool.not_eq_true', decide_eq_true_eq, decide_eq_false_iff_not, Nat.not_lt, pos, and_assoc]

theorem probe_traps : (slotOf (.probe o w) s).traps =
    match (if decide (2 ^ 32 < (s.mB .x o.b o.hb).d.toNat) then none
      else probeFail s s.cur (if w then .rw else .rd) 1050000 (s.mA o.a o.ha).d.toNat (s.mB .x o.b o.hb).d.toNat) with
    | some (c, va) => if s.probeOff (s.mA o.a o.ha).d (s.mB .x o.b o.hb).d then [] else [(c, BitVec.ofNat 64 va)]
    | none => [] := Slot.finish_traps h.cond

theorem probe_kill : (slotOf (.probe o w) s).kill =
    if s.probeOff (s.mA o.a o.ha).d (s.mB .x o.b o.hb).d then some (s.mA o.a o.ha).d else none := by
  show (Slot.finish _ _ _ _).kill = _
  unfold Slot.finish
  simp only [h.cond, if_true]
  rfl

end

end Sys2Proof.Machine
end

section
open Sys2Proof Sys2Proof.Machine

/-- Settles O32: each slot by its effect, its causes and its hold. -/
theorem ownersPinsProbes : Obligations.OwnersPinsProbes := by
  refine ⟨fun s o h => ⟨fun short eng => ?_, fun i hi => ?_, flip_hold h o⟩,
    fun s h => ⟨fun o l1 => ⟨fun st out bad => ?_, fun new out hl => ?_, Env.lockOut_long s.env _ _ l1⟩, fun o => ?_,
      fun base ofs l2 ha => issue_finish (slotPref base ofs l2 ha) h rfl, fun o w => ⟨fun short => ?_, fun long => ?_, fun zero => ?_, ?_⟩⟩⟩
  · have count : min (s.mB .x o.b o.hb).d.toNat 1536 = (s.mB .x o.b o.hb).d.toNat := Nat.min_eq_left short
    refine ⟨_, issue_flip h o eng, ?_⟩
    rw [count]
    obtain ⟨m, flipped⟩ := (s.filled [s.mA o.a o.ha, s.mB .x o.b o.hb]).flip_slots (coreOf s.cur) ((s.mA o.a o.ha).d.toNat % 2 ^ 23 / 4096)
      (s.mB .x o.b o.hb).d.toNat eng
    refine ⟨by rw [flipped]; rfl, by rw [flipped]; rfl, fun i hi => ?_, fun i hi => ?_⟩
    · exact (State.slotOf_flip ..).trans (if_pos (by omega))
    · exact (State.slotOf_flip ..).trans (if_neg (by omega))
  · rw [flip_traps h o hi]
    exact Env.flipTrap_cases ..
  · obtain ⟨t, lines, step, pins, inflight⟩ := issue_lock h o l1 out
    simp only [bad, if_false, Nat.zero_mul, Nat.zero_add] at pins inflight
    exact ⟨t, step, pins, inflight⟩
  · subst hl
    obtain ⟨t, lines, step, pins, inflight⟩ := issue_lock h o false out
    simp only [stOK, if_true, Bool.false_and, Bool.false_eq_true, if_false, List.map_id', Nat.add_zero] at pins inflight
    exact ⟨t, step, pins, inflight⟩
  · obtain ⟨l, p, filled⟩ := s.filled_ctx [s.mA o.a o.ha, s.mB .x o.b o.hb]
    refine ⟨_, issue_unlock h o, rfl, ?_⟩
    rw [State.ctx_modCtx_self, filled]
    refine ⟨fun p hp => (List.mem_filter.1 hp).1, fun pos short p hp => ?_, fun zero => ?_⟩
    · exact State.unlockKeeps_outside pos short (List.mem_filter.1 hp).2
    · exact List.filter_eq_self.2 fun p _ => by rw [zero]; exact State.unlockKeeps_none ..
  · exact (issue_probe h o w).trans (by rw [decide_eq_false (Nat.not_lt.2 short)]; rfl)
  · exact (issue_probe h o w).trans (by rw [decide_eq_true long]; rfl)
  · rw [probe_traps h o w, zero]
    simp [probeFail_none]
  · refine ⟨fun pos short det off => ?_, fun f ofs pos short here place fails => ?_⟩
    · have off : s.probeOff (s.mA o.a o.ha).d (s.mB .x o.b o.hb).d = true := State.probeOff_iff.2 ⟨det, short, pos, off⟩
      rw [probe_traps h o w, probe_kill h o w, off]
      refine ⟨?_, if_pos rfl⟩
      split <;> rfl
    · have here : s.probeOff (s.mA o.a o.ha).d (s.mB .x o.b o.hb).d = false := by
        refine Bool.eq_false_iff.2 fun yes => ?_
        obtain ⟨det, -, -, off⟩ := State.probeOff_iff.1 yes
        rcases here with free | on
        · rw [free] at det
          cases det
        · exact on off
      rw [probe_traps h o w, here, decide_eq_false (Nat.not_lt.2 short), if_neg (by decide), probeFail_first pos place fails]
      simp
end

section
/-! SUPPORT. Completion records, and what is left of a core when one enters its event queue (R161, R189). -/

namespace Sys2Proof.Machine

theorem Stores.core {s t : State} (h : Stores s t) (k : Nat) : t.core k = s.core k := by
  obtain ⟨_, _, _, rfl⟩ := h
  rfl

/-- A record that finds room enters its event queue last (R161). -/
theorem State.postRec_room {s : State} {cl : Nat} (room : s.evRoom cl = true) (r : CRec) :
    (s.postRec cl r).mem = s.mem ∧ (s.postRec cl r).cores = s.cores ∧ ((s.postRec cl r).cluster cl).evq = (s.cluster cl).evq ++ [r] := by
  have entered : ((s.modCluster cl fun q => { q with evq := q.evq ++ [r] }).cluster cl).evq = (s.cluster cl).evq ++ [r] := by
    rw [State.cluster_modCluster, if_pos rfl]
  rw [State.postRec, if_pos room, State.enterRec]
  split <;> exact ⟨rfl, rfl, entered⟩

/-- The end of a command: its record enters the event queue, and its core drops it (R189). -/
theorem State.completes {s : State} {k : Nat} (room : s.evRoom (clusterOf k) = true) (r : CRec) (f : CoreSt → CoreSt) :
    let t := ((s.postRec (clusterOf k) r).modCore k f).endDrain k
    t.core k = f (s.core k) ∧ t.mem = s.mem ∧ (t.cluster (clusterOf k)).evq = (s.cluster (clusterOf k)).evq ++ [r] := by
  obtain ⟨mem, cores, evq⟩ := State.postRec_room room r
  refine ⟨?_, mem, evq⟩
  show ((s.postRec (clusterOf k) r).modCore k f).core k = _
  rw [State.core_modCore, if_pos rfl, State.core, cores]
  rfl

end Sys2Proof.Machine
end

section
/-! SUPPORT. The start and the end of a routine of the matrix engine (R188, R229, R232, R235). -/

namespace Sys2Proof.Machine

/-- After a list of writes a table holds the last one of each key. -/
theorem Table.find_foldl_set {β : Type} (l : List (Nat × Nat × β)) (t : Table β) (i : Nat) :
    (l.foldl (fun (t : Table β) p => t.set p.2.1 p.2.2) t).find i =
      match (l.filter fun p => decide (p.2.1 = i)).getLast? with
      | some p => some p.2.2
      | none => t.find i := by
  induction l using List.reverseRecOn with
  | nil => rfl
  | append_singleton l p ih =>
    rw [List.foldl_append, List.filter_append]
    by_cases h : p.2.1 = i
    · simp [h]
    · have h' : ¬i = p.2.1 := fun same => h same.symm
      simp [h, h', ih]

/-- The writes that have taken effect move into the store: its words read as before (R235, R438). -/
theorem State.storeWord_settleStore (s : State) (k i : Nat) : (s.settleStore k).storeWord k i = s.storeWord k i := by
  have none_due (l : List (Nat × Nat × W64)) : ((l.filter fun p => decide (s.now < p.1)).filter fun p => decide (p.1 ≤ s.now) && decide (p.2.1 = i)) = [] := by
    rw [List.filter_filter, List.filter_eq_nil_iff]
    intro p _ both
    simp only [Bool.and_eq_true, decide_eq_true_eq] at both
    omega
  have due (l : List (Nat × Nat × W64)) : ((l.filter fun p => decide (p.1 ≤ s.now)).filter fun p => decide (p.2.1 = i)) =
      l.filter fun p => decide (p.1 ≤ s.now) && decide (p.2.1 = i) := by
    rw [List.filter_filter]
    exact List.filter_congr fun p _ => Bool.and_comm ..
  unfold State.storeWord
  rw [State.settleStore, State.core_modCore, if_pos rfl]
  dsimp only
  rw [State.modCore_now, none_due, Table.find_foldl_set, due, List.getLast?_nil]
  cases (List.filter (fun (p : Nat × Nat × W64) => decide (p.1 ≤ s.now) && decide (p.2.1 = i)) (s.core k).mpw).getLast? <;> rfl

/-- A table word that starts no routine (R232). -/
def entryBad (w : W64) : Bool := !w.getLsbD 63 || decide (w.toNat / 2 ^ 12 % 2 ^ 51 ≠ 0) || decide (w.toNat % 4096 < 64)

theorem entryBad_iff {w : W64} : entryBad w = true ↔ w.getLsbD 63 = false ∨ w.toNat / 2 ^ 12 % 2 ^ 51 ≠ 0 ∨ w.toNat % 4096 < 64 := by
  simp only [entryBad, Bool.or_eq_true, Bool.not_eq_true', decide_eq_true_eq, or_assoc]

theorem getLsbD_one_shift {b : Nat} (hb : b < 4) (n : Nat) : (1#4 <<< n).getLsbD b = decide (b = n) := by
  rw [BitVec.getLsbD_shiftLeft, decide_eq_true hb, Bool.true_and, BitVec.getLsbD_one]
  by_cases h : b = n
  · simp [h]
  · rcases Nat.lt_or_gt_of_ne h with less | more
    · simp [less, h]
    · have off : ¬b - n = 0 := by omega
      simp [h, off]

/-- The end of a routine without clipped rows: its run ends, and the versions of its banks advance (R229, R230). -/
theorem State.endRun_core {s : State} {e : RunEnv} {r : MatRun} (run : (s.core e.k).mrun = some r) (clip : e.r.clip = 0) (st addr : Nat) :
    (s.endRun e st addr).mem = s.mem ∧
      (∃ u, ((s.endRun e st addr).core e.k).mrun = some u ∧ u.ended = some (st, addr)) ∧
      ∀ b, b < 4 → (s.endRun e st addr).version e.k b = if e.r.banks.getLsbD b then s.version e.k b + 1 else s.version e.k b := by
  unfold State.endRun
  simp only [clip, ne_eq, not_true_eq_false, false_and, if_false]
  refine ⟨rfl, ⟨_, by rw [State.core_modCore, if_pos rfl, run]; rfl, rfl⟩, fun b hb => ?_⟩
  unfold State.version
  rw [State.core_modCore, if_pos rfl]
  simp [hb]

/-- The run with which a routine begins (R221, R232). -/
def MatRun.first (entry bank now : Nat) : MatRun :=
  ⟨entry, bank, 1#4 <<< bank, false, 0, 0, 0, false, false, 0, [], 0, 0, 0, 0, 0, false, false, 0, 0, none, 0, now, 0, 0, 0, 0⟩

section
variable {s : State} {k : Nat} {c : MatCmd} {q : List MatCmd} (hq : (s.core k).mq = c :: q) (hr : (s.core k).mrun = none)
include hq hr

/-- A routine waits for the memory operations before its MCALL (R188). -/
theorem State.matrixStart_waits (h : (s.ctx c.ctx).lsqDone < c.mark) : s.matrixStart k = s := by
  simp only [State.matrixStart, hq, hr]
  exact if_pos h

/-- What an MCALL starts: its table word names the first step, or the command aborts (R230, R232). -/
theorem State.matrixStart_eq (h : c.mark ≤ (s.ctx c.ctx).lsqDone) : s.matrixStart k =
    let w := s.storeWord k c.routine
    let r := MatRun.first (w.toNat % 4096) c.bank s.now
    let t := (s.settleStore k).modCore k fun x => { x with mrun := some r }
    if entryBad w then (t.modRun k fun r => { r with errs := 1 }).abortRun ⟨k, c, { r with errs := 1 }⟩ stFAULT c.routine else t := by
  simp only [State.matrixStart, hq, hr]
  rw [if_neg (Nat.not_lt.2 h), State.storeWord_settleStore]
  rfl

/-- A valid table word starts its routine (R232). -/
theorem State.matrixStart_valid (h : c.mark ≤ (s.ctx c.ctx).lsqDone) (valid : entryBad (s.storeWord k c.routine) = false) :
    ∃ st mp, (s.matrixStart k).core k = { s.core k with
        store := st, mpw := mp, mrun := some (MatRun.first ((s.storeWord k c.routine).toNat % 4096) c.bank s.now) } ∧
      (s.matrixStart k).mem = s.mem := by
  have started := State.matrixStart_eq hq hr h
  simp only [valid, Bool.false_eq_true, if_false] at started
  rw [started, State.core_modCore, if_pos rfl, State.settleStore, State.core_modCore, if_pos rfl]
  exact ⟨_, _, rfl, rfl⟩

/-- Another one ends the command FAULT, and the version of its bank advances (R230, R232). -/
theorem State.matrixStart_invalid (h : c.mark ≤ (s.ctx c.ctx).lsqDone) (invalid : entryBad (s.storeWord k c.routine) = true) :
    (s.matrixStart k).mem = s.mem ∧
      (∃ u, ((s.matrixStart k).core k).mrun = some u ∧ u.ended = some (stFAULT, c.routine)) ∧
      ∀ b, b < 4 → (s.matrixStart k).version k b = if b = c.bank then s.version k b + 1 else s.version k b := by
  have started := State.matrixStart_eq hq hr h
  simp only [invalid, if_true] at started
  rw [started]
  generalize hu : MatRun.first ((s.storeWord k c.routine).toNat % 4096) c.bank s.now = u
  have core : (((s.settleStore k).modCore k fun x => { x with mrun := some u }).modRun k fun r => { r with errs := 1 }).core k =
      { (s.settleStore k).core k with mrun := some { u with errs := 1 } } := by
    rw [State.modRun, State.core_modCore, if_pos rfl, State.core_modCore, if_pos rfl]
    rfl
  have ver : ((s.settleStore k).core k).ver = (s.core k).ver := by rw [State.settleStore, State.core_modCore, if_pos rfl]
  obtain ⟨mem, ended, versions⟩ := State.endRun_core (e := ⟨k, c, { u with errs := 1 }⟩) (congrArg CoreSt.mrun core) (by rw [← hu]; rfl) stFAULT c.routine
  refine ⟨mem, ended, fun b hb => (versions b hb).trans ?_⟩
  have bank : u.banks.getLsbD b = decide (b = c.bank) := by
    rw [← hu]
    exact getLsbD_one_shift hb c.bank
  rw [State.version, core, ver, bank]
  simp only [decide_eq_true_eq]
  rfl

end

/-- The record of a routine that has ended, where its event queue has room (R229). -/
theorem State.matrixComplete_room {s : State} {k : Nat} {c : MatCmd} {q : List MatCmd} {r : MatRun} {st a : Nat} (hq : (s.core k).mq = c :: q)
    (hr : (s.core k).mrun = some r) (ended : r.ended = some (st, a)) (cost : r.cost ≤ s.now) : s.matrixComplete k =
      if s.evRoom (clusterOf k) then ((s.postRec (clusterOf k) (s.mkRec st 1 c.ctx r.done r.errs a c.tag.toNat c.vf)).modCore k fun x =>
        { x with mq := x.mq.drop 1, mrun := none }).endDrain k else s := by
  have due : decide (s.now < r.cost) = false := decide_eq_false (Nat.not_lt.2 cost)
  simp only [State.matrixComplete, hq, hr, ended, due, Bool.or_false]
  cases s.evRoom (clusterOf k) <;> rfl

end Sys2Proof.Machine
end

section
/-! SUPPORT. Bytes that are copied, with their poison (R320, R322). -/

namespace Sys2Proof.Machine

/-! ### Reading back what is stored -/

/-- Of places that differ the one byte that is stored to each is read there. -/
theorem State.storeBytes_read_mem {s : State} (wf : s.mem.wf = true) (clean : s.poison = []) {bs : List (Nat × Byte)} (nodup : (bs.map (·.1)).Nodup)
    {p : Nat × Byte} (hp : p ∈ bs) : (s.storeBytes bs).mem.read p.1 = p.2 := by
  rw [State.storeBytes_read wf bs p.1 fun q _ => by rw [clean]; rfl]
  cases found : bs.reverse.find? fun (q : Nat × Byte) => decide (q.1 = p.1) with
  | none => exact absurd rfl (of_decide_eq_false (Bool.eq_false_iff.2 (List.find?_eq_none.1 found p (List.mem_reverse.2 hp))))
  | some q =>
    have same : q.1 = p.1 := of_decide_eq_true (List.find?_some (p := fun (q : Nat × Byte) => decide (q.1 = p.1)) found)
    have listed : q ∈ bs := List.mem_reverse.1 (List.mem_of_find?_eq_some found)
    rw [List.inj_on_of_nodup_map nodup listed hp same]

theorem mem_insertSorted {l : List Nat} {a x : Nat} : x ∈ insertSorted l a ↔ x = a ∨ x ∈ l := by
  induction l with
  | nil => simp [insertSorted]
  | cons k r ih =>
    unfold insertSorted
    split
    · simp
    · split
      · next same => simp [same]
      · simp only [List.mem_cons, ih]
        exact or_left_comm

theorem State.mem_addPoison_dword {s : State} {d x : Nat} : x ∈ (s.addPoison (8 * d) 8).poison ↔ x = d ∨ x ∈ s.poison := by
  have one : (8 * d + 8 + 7) / 8 - 8 * d / 8 = 1 := by omega
  have first : 8 * d / 8 = d := by omega
  rw [State.addPoison, one, first]
  exact mem_insertSorted

theorem State.mem_foldl_addPoison {l : List Nat} {s : State} {x : Nat} :
    x ∈ (l.foldl (fun (s : State) d => s.addPoison (8 * d) 8) s).poison ↔ x ∈ l ∨ x ∈ s.poison := by
  induction l generalizing s with
  | nil => simp
  | cons d r ih =>
    rw [List.foldl_cons, ih, State.mem_addPoison_dword, List.mem_cons]
    tauto

theorem State.foldl_addPoison_mem (l : List Nat) (s : State) : (l.foldl (fun (s : State) d => s.addPoison (8 * d) 8) s).mem = s.mem := by
  induction l generalizing s with
  | nil => rfl
  | cons d r ih => exact ih (s.addPoison (8 * d) 8)

theorem State.storeBytes_stores (s : State) (bs : List (Nat × Byte)) : Stores s (s.storeBytes bs) := ⟨_, _, _, rfl⟩

theorem State.addPoison_dword_stores (s : State) (d : Nat) : Stores s (s.addPoison (8 * d) 8) := ⟨_, _, _, rfl⟩

/-! ### Copied bytes -/

/-- The destination dwords that a poisoned byte feeds (R322). -/
def poisonedDwords (ps : List ((Byte × Bool) × Nat)) : List Nat :=
  (ps.filterMap fun p => if p.1.2 then some (p.2 / 8) else none).eraseDups
/-- The bytes that are stored: those of the other dwords. -/
def cleanBytes (ps : List ((Byte × Bool) × Nat)) : List (Nat × Byte) :=
  ps.filterMap fun p => if (poisonedDwords ps).contains (p.2 / 8) then none else some (p.2, p.1.1)

theorem mem_poisonedDwords {ps : List ((Byte × Bool) × Nat)} {d : Nat} : d ∈ poisonedDwords ps ↔ ∃ p ∈ ps, p.1.2 = true ∧ p.2 / 8 = d := by
  simp [poisonedDwords, List.mem_eraseDups]

theorem poisonedDwords_clean {ps : List ((Byte × Bool) × Nat)} (h : ∀ p ∈ ps, p.1.2 = false) : poisonedDwords ps = [] :=
  List.eq_nil_iff_forall_not_mem.2 fun d hd => by
    obtain ⟨p, hp, poisoned, -⟩ := mem_poisonedDwords.1 hd
    rw [h p hp] at poisoned
    cases poisoned

theorem cleanBytes_clean {ps : List ((Byte × Bool) × Nat)} (h : ∀ p ∈ ps, p.1.2 = false) : cleanBytes ps = ps.map fun p => (p.2, p.1.1) := by
  simp [cleanBytes, poisonedDwords_clean h]

theorem mem_cleanBytes {ps : List ((Byte × Bool) × Nat)} {p : Nat × Byte} (h : p ∈ cleanBytes ps) : ∃ q ∈ ps, q.2 = p.1 := by
  obtain ⟨q, hq, same⟩ := List.mem_filterMap.1 h
  split at same
  · cases same
  · cases same
    exact ⟨q, hq, rfl⟩

section
variable (s : State) (data : List (Byte × Bool)) (dst : List Nat)

theorem State.copyBytes_bad : (s.copyBytes data dst).2 = poisonedDwords (data.zip dst) := rfl

theorem State.copyBytes_mem : (s.copyBytes data dst).1.mem = (s.storeBytes (cleanBytes (data.zip dst))).mem := State.foldl_addPoison_mem ..

theorem State.copyBytes_stores : Stores s (s.copyBytes data dst).1 :=
  ((s.storeBytes_stores (cleanBytes (data.zip dst))).trans (Stores.foldl State.addPoison_dword_stores _ _)).trans ⟨_, _, _, rfl⟩

/-- A dword that a poisoned byte feeds is poison afterwards (R322). -/
theorem State.copyBytes_poisoned {l : Nat} (h : l / 8 ∈ poisonedDwords (data.zip dst)) : (s.copyBytes data dst).1.poisoned l = true :=
  List.contains_iff_mem.2 (State.mem_foldl_addPoison.2 (.inl h))

end

section
variable {s : State} {data : List (Byte × Bool)} {dst : List Nat} (wf : s.mem.wf = true)
include wf

/-- A place that is no destination reads as before. -/
theorem State.copyBytes_other {l : Nat} (h : l ∉ dst) : (s.copyBytes data dst).1.mem.read l = s.mem.read l := by
  rw [State.copyBytes_mem]
  refine State.storeBytes_other wf _ l fun p hp same => h ?_
  obtain ⟨q, hq, at_⟩ := mem_cleanBytes hp
  rw [← same, ← at_]
  exact (List.of_mem_zip hq).2

/-- Bytes without poison are read at their destinations. -/
theorem State.copyBytes_read (clean : s.poison = []) (sound : ∀ b ∈ data, b.2 = false) (len : data.length = dst.length) (nodup : dst.Nodup) {i : Nat}
    (h : i < data.length) (g : i < dst.length) : (s.copyBytes data dst).1.mem.read dst[i] = data[i].1 := by
  have places : (cleanBytes (data.zip dst)) = (data.zip dst).map fun p => (p.2, p.1.1) := cleanBytes_clean fun p hp => sound _ (List.of_mem_zip hp).1
  have keys : ((data.zip dst).map fun p => (p.2, p.1.1)).map (·.1) = dst := by
    rw [List.map_map]
    exact List.map_snd_zip (by omega)
  have at_ : (dst[i], data[i].1) ∈ (data.zip dst).map fun p => (p.2, p.1.1) :=
    List.mem_map.2 ⟨(data[i], dst[i]), List.mem_iff_getElem.2 ⟨i, by simp; omega, by simp⟩, rfl⟩
  rw [State.copyBytes_mem, places]
  exact State.storeBytes_read_mem wf clean (by rw [keys]; exact nodup) at_

end

theorem byteLocs_one (l n : Nat) : byteLocs [(l, n)] = (List.range n).map (l + ·) := by simp [byteLocs]

theorem byteLocs_one_length (l n : Nat) : (byteLocs [(l, n)]).length = n := by simp [byteLocs_one]

theorem byteLocs_one_getElem {l n i : Nat} (h : i < (byteLocs [(l, n)]).length) : (byteLocs [(l, n)])[i] = l + i := by simp [byteLocs_one]

theorem mem_byteLocs_one {l n a : Nat} : a ∈ byteLocs [(l, n)] ↔ l ≤ a ∧ a < l + n := by
  rw [byteLocs_one, List.mem_map]
  constructor
  · rintro ⟨i, hi, rfl⟩
    have := List.mem_range.1 hi
    omega
  · rintro ⟨lower, upper⟩
    exact ⟨a - l, List.mem_range.2 (by omega), by omega⟩

theorem byteLocs_one_nodup (l n : Nat) : (byteLocs [(l, n)]).Nodup := by
  rw [byteLocs_one]
  exact List.nodup_range.map fun _ _ same => Nat.add_left_cancel same

end Sys2Proof.Machine
end

section
/-! SUPPORT. The steps of a copy engine, one lemma for each outcome (R175, R188, R300, R405, R406). -/

namespace Sys2Proof.Machine

theorem State.core_setRun (s : State) (k : Nat) (r : CopyRun) : (s.setRun k false r).core k = { s.core k with crun := some r } :=
  (State.core_modCore ..).trans (if_pos rfl)

theorem State.touch_none (s : State) (w : Bool) : s.touch [] w = s := rfl

theorem State.hint_bounds (s : State) : 1 ≤ s.hint ∧ s.hint ≤ 65535 := by
  unfold State.hint
  omega

theorem State.watchEngine_stores (s : State) (k : Nat) (c : CopyCmd) (dst n : Nat) : Stores s (s.watchEngine k c dst n) := by
  unfold State.watchEngine
  dsimp only
  split
  · exact ⟨_, _, _, rfl⟩
  · exact ⟨_, _, _, rfl⟩
  · exact ⟨_, _, _, rfl⟩
  · exact .refl s

theorem State.watchEngine_mem (s : State) (k : Nat) (c : CopyCmd) (dst n : Nat) : (s.watchEngine k c dst n).mem = s.mem := by
  unfold State.watchEngine
  dsimp only
  split <;> rfl

/-! ### The descriptor -/

theorem Memory.readNat_lt (m : Memory) (l n : Nat) : m.readNat l n < 256 ^ n := by
  induction n generalizing l with
  | zero => exact Nat.one_pos
  | succ n ih =>
    have low := (m.read l).isLt
    have rest := ih (l + 1)
    rw [Memory.readNat, Nat.pow_succ]
    omega

theorem Memory.readNat_add (m : Memory) (l a b : Nat) : m.readNat l (a + b) = m.readNat l a + 256 ^ a * m.readNat (l + a) b := by
  induction a generalizing l with
  | zero => simp [Memory.readNat]
  | succ a ih =>
    rw [Nat.succ_add, Memory.readNat, Memory.readNat, ih, Nat.pow_succ', Nat.mul_add, Nat.mul_assoc, ← Nat.add_assoc, Nat.add_comm a 1,
      ← Nat.add_assoc]

/-- Part of a number in memory is the number in part of its bytes (R14). -/
theorem Memory.readNat_part (m : Memory) (l a n b : Nat) : m.readNat l (a + n + b) / 256 ^ a % 256 ^ n = m.readNat (l + a) n := by
  have low := m.readNat_lt l a
  have here := m.readNat_lt (l + a) n
  rw [Nat.add_assoc, Memory.readNat_add, Nat.add_mul_div_left _ _ (Nat.pow_pos (by decide)), Nat.div_eq_of_lt low, Nat.zero_add, Memory.readNat_add,
    Nat.add_mul_mod_self_left, Nat.mod_eq_of_lt here]

/-- The dwords of a descriptor of 32 bytes (R406). -/
theorem State.descriptor_dwords (s : State) (l : Nat) :
    (List.range 4).map (fun i => BitVec.ofNat 64 (s.rd l 32 / 2 ^ (64 * i))) = (List.range 4).map fun i => s.rd64 (l + 8 * i) := by
  refine List.map_congr_left fun i hi => BitVec.eq_of_toNat_eq ?_
  have bound := List.mem_range.1 hi
  have part := s.mem.readNat_part l (8 * i) 8 (24 - 8 * i)
  have small := s.mem.readNat_lt (l + 8 * i) 8
  have bytes : (256 : Nat) ^ (8 * i) = 2 ^ (64 * i) := by
    rw [show (256 : Nat) = 2 ^ 8 from rfl, ← Nat.pow_mul]
    congr 1
    omega
  rw [show 8 * i + 8 + (24 - 8 * i) = 32 by omega, bytes, show (256 : Nat) ^ 8 = 2 ^ 64 from rfl] at part
  rw [show (256 : Nat) ^ 8 = 2 ^ 64 from rfl] at small
  rw [BitVec.toNat_ofNat, State.rd64, BitVec.toNat_ofNat, State.rd, State.rd, Nat.mod_eq_of_lt small]
  exact part

section
variable {s : State} {k : Nat} {c : CopyCmd} {q : List CopyCmd} (hq : (s.core k).cq = c :: q) (hr : (s.core k).crun = none)
  (mark : c.mark ≤ (s.ctx c.ctx).lsqDone) (kind : c.kind = 0)
include hq hr mark

theorem State.copyStart_reads : s.copyStart k false = s.copyRead k false c (CopyRun.first [] s.now) := by
  simp only [State.copyStart, CoreSt.copyHead, CoreSt.copyRun, hq, hr, List.head?_cons, Bool.false_eq_true, if_false]
  exact if_neg (Nat.not_lt.2 mark)

include kind

/-- A descriptor that is read without poison begins the transfer, or ends it at once (R406). -/
theorem State.copyStart_ok {l : Nat} {pt : List Nat} (acc : s.engAcc k c.vf .rd c.desc 32 = .ok [(l, 32)] pt) (clean : (s.psnPieces c.desc [(l, 32)]).isSome = false) :
    let r := CopyRun.first ((List.range 4).map fun i => s.rd64 (l + 8 * i)) s.now
    s.copyStart k false = if s.copyRefused c r then (s.touch pt false).setRun k false (copyFault r.d c.desc s.now)
      else if r.bytes = 0 then (s.touch pt false).copyDone k false c r else (s.touch pt false).setRun k false r := by
  have dwords := s.descriptor_dwords l
  rw [State.copyStart_reads hq hr mark]
  simp only [State.copyRead, kind, if_true, acc, clean, Bool.false_or, State.rdPieces_one, CopyRun.total, CopyRun.rows, Nat.mul_one]
  rw [show 32 / 8 = 4 from rfl, dwords]

/-- A descriptor whose page is being moved is read again, after a hint (R175). -/
theorem State.copyStart_moving {va : Nat} (acc : s.engAcc k c.vf .rd c.desc 32 = .moving va) : s.copyStart k false =
    s.bump.setRun k false { CopyRun.first [] s.now with phase := 3, tries := 1, wait := s.ftb + s.hint } := by
  rw [State.copyStart_reads hq hr mark]
  simp only [State.copyRead, kind, if_true, acc]
  rfl

end

/-! ### Accesses -/

section
variable {s : State} {k : Nat} {c : CopyCmd} {q : List CopyCmd} {r : CopyRun} (hq : (s.core k).cq = c :: q) (hr : (s.core k).crun = some r)
include hr

theorem execEngineAccess_copy (tries : r.tries = 0) : exec (.engineAccess k .copy) s = .next (s.copyNext k false) := by
  show execEngineAccess k .copy s = _
  simp only [execEngineAccess, State.pendingTry, hr, Option.map_some, tries, State.engineStep]

include hq

/-- A transfer of one row goes on at its present byte (R188). -/
theorem State.copyNext_row (phase : r.phase = 0) (kind : c.kind = 0) (more : r.pos < r.bytes) : s.copyNext k false =
    s.copyMove k false c r (r.w 0 + r.pos) (r.w 1 + r.pos) (min (64 - (r.w 1 + r.pos) % 64) (r.bytes - r.pos)) false := by
  have word (i : Nat) : r.w i % 2 ^ 64 = r.w i := Nat.mod_eq_of_lt (BitVec.isLt _)
  have row : r.pos % r.bytes = r.pos := Nat.mod_eq_of_lt more
  have first : ¬0 = 1 := by decide
  simp only [State.copyNext, CoreSt.copyHead, CoreSt.copyRun, hq, hr, List.head?_cons, Bool.false_eq_true, if_false, phase, kind, row, first, Nat.add_zero, word]
  rfl

end

section
variable {s : State} {k : Nat} {c : CopyCmd} {r : CopyRun} {src dst n : Nat}

/-- The read of an access (R188). -/
theorem State.copyMove_read {a : Nat} (buf : r.buf = none) (there : s.transferLost k c.vf src = false) (here : s.transferLost k c.vf dst = false)
    (acc : s.engAcc k c.vf .rd src n = .ok [(a, n)] []) : s.copyMove k false c r src dst n false =
      s.setRun k false { r with buf := some ((List.range n).map fun i => (s.mem.read (a + i), s.poisoned (a + i))), tries := 0 } := by
  have bytes : s.bytesOf (byteLocs [(a, n)]) = (List.range n).map fun i => (s.mem.read (a + i), s.poisoned (a + i)) := by
    rw [State.bytesOf, byteLocs_one, List.map_map]
    rfl
  simp only [State.copyMove, buf, there, here, acc, Option.isNone_none, Bool.and_false, Bool.false_eq_true, if_false, bytes, State.touch_none]

/-- A read over a lost path ends the transfer (R300). -/
theorem State.copyMove_lost_src (buf : r.buf = none) (kind : c.kind = 0) (lost : s.transferLost k c.vf src = true) :
    s.copyMove k false c r src dst n false = s.copyAbort k false r stFAULT src := by
  have plain : ¬(0 : Nat) = 3 := by decide
  simp only [State.copyMove, buf, lost, Option.isNone_none, Bool.not_false, Bool.and_true, if_true, kind, plain, if_false]

/-- A write over a lost path ends the transfer (R300). -/
theorem State.copyMove_lost_dst (there : s.transferLost k c.vf src = false) (lost : s.transferLost k c.vf dst = true) :
    s.copyMove k false c r src dst n false = s.copyAbort k false r stFAULT dst := by
  simp only [State.copyMove, there, lost, Bool.and_false, Bool.false_eq_true, if_false, if_true]

/-- The write of bytes that were read without poison (R188). -/
theorem State.copyMove_write {data : List (Byte × Bool)} {b : Nat} (buf : r.buf = some data) (sound : ∀ x ∈ data, x.2 = false) (kind : c.kind = 0)
    (here : s.transferLost k c.vf dst = false) (acc : s.engAcc k c.vf .wr dst n = .ok [(b, n)] []) :
    ∃ t, Stores s t ∧ t.mem = (s.copyBytes data (byteLocs [(b, n)])).1.mem ∧ s.copyMove k false c r src dst n false =
      t.setRun k false { r with pos := r.pos + n, done := r.done + n, tries := 0, idx := none, buf := none,
                                phase := if r.bytes ≤ r.pos + n then 2 else r.phase } := by
  have bad : (s.copyBytes data (byteLocs [(b, n)])).2 = [] :=
    (State.copyBytes_bad ..).trans (poisonedDwords_clean fun p hp => sound _ (List.of_mem_zip hp).1)
  have plain : ¬(0 : Nat) = 3 := by decide
  have total (u : CopyRun) : u.total 0 = u.bytes := Nat.mul_one _
  refine ⟨(s.copyBytes data (byteLocs [(b, n)])).1.watchEngine k c dst n, (State.copyBytes_stores ..).trans (State.watchEngine_stores ..),
    State.watchEngine_mem .., ?_⟩
  have wrote : s.copyMove k false c r src dst n false = s.copyWrite k false c r src dst n data := by
    simp only [State.copyMove, buf, here, Option.isNone_some, Bool.and_false, Bool.false_and, Bool.false_eq_true, if_false]
  rw [wrote]
  simp only [State.copyWrite, acc, State.touch_none, bad, List.filter_nil, List.length_nil, Nat.add_zero, List.append_nil, List.isEmpty_nil, if_true, true_or, kind, total]
  by_cases last : r.bytes ≤ r.pos + n
  · refine (if_pos last).trans ?_
    simp only [last, if_true, State.copyDone, kind, plain, if_false]
  · refine (if_neg last).trans ?_
    simp only [last, if_false]

end

/-! ### The end of a command -/

/-- The record of a transfer that is over, where its event queue has room (R189). -/
theorem State.copyComplete_over {s : State} {k : Nat} {g : Bool} {c : CopyCmd} {r : CopyRun} (hc : (s.core k).copyHead g = some c)
    (hr : (s.core k).copyRun g = some r) (phase : r.phase = 2) (pad : copyPad c r ≤ s.now) : s.copyComplete k g =
      if s.evRoom (clusterOf k) then ((s.postRec (clusterOf k) (s.mkRec r.status (if g then 2 else 0) c.ctx r.done r.errs r.addr (r.w 3) c.vf)).modCore k fun x =>
        if g then { x with gq := x.gq.drop 1, grun := none } else { x with cq := x.cq.drop 1, crun := none }).endDrain k else s := by
  have due : ¬s.now < copyPad c r := Nat.not_lt.2 pad
  simp only [State.copyComplete, hc, hr, phase, due, ne_eq, not_true_eq_false, false_or]
  cases s.evRoom (clusterOf k) <;> rfl

end Sys2Proof.Machine
end

section
open Sys2Proof Sys2Proof.Machine

/-- Settles O53: each clause is one outcome of a start, an access or an end of an engine. -/
theorem enginesRun : Obligations.EnginesRun := by
  refine ⟨fun s k c q hq hr => ⟨fun early => ?_, fun mark => ⟨fun valid zero entry => ?_, fun invalid => ?_⟩⟩,
    fun s k c q r st a hq hr ended cost => ⟨fun full => ?_, fun room => ?_⟩, fun s k c q r hq hr tries cost => ?_,
    fun s k c q l pt hq hr mark kind acc clean => ⟨fun taken more => ?_, fun refused => ?_⟩, fun s k c q va hq hr mark kind acc => ?_,
    fun s k c q r a b hq hr phase tries kind more => ?_, fun s data dst wf len nodup => ⟨fun clean sound => ?_, fun i h g poisoned => ?_, fun l other => ?_⟩,
    fun s k c q r phase pad => ⟨fun hq hr => ⟨fun full => ?_, fun room => ?_⟩, fun hq hr room => ?_⟩, fun s k e n w pending => ⟨?_, fun due => ?_, fun early => ?_⟩,
    fun s k g r va => ?_, fun s k vf ofs n va o c f a => ⟨fun own => ?_, fun lost place => ?_⟩⟩
  · exact congrArg Host.Outcome.next (State.matrixStart_waits hq hr early)
  · have good : entryBad (s.storeWord k c.routine) = false := by
      rw [entryBad, valid, decide_eq_false (not_not_intro zero), decide_eq_false (Nat.not_lt.2 entry)]
      rfl
    obtain ⟨st, mp, core, mem⟩ := State.matrixStart_valid hq hr mark good
    exact ⟨_, _, rfl, by rw [core], rfl, rfl, rfl, rfl, rfl, rfl, rfl, rfl, by rw [core], by rw [core], mem⟩
  · obtain ⟨mem, ⟨u, run, ended⟩, versions⟩ := State.matrixStart_invalid hq hr mark (entryBad_iff.2 invalid)
    exact ⟨_, u, rfl, run, ended, versions, mem⟩
  · refine congrArg Host.Outcome.next ((State.matrixComplete_room hq hr ended cost).trans ?_)
    rw [full]
    rfl
  · obtain ⟨core, mem, evq⟩ := State.completes room (s.mkRec st 1 c.ctx r.done r.errs a c.tag.toNat c.vf) fun x => { x with mq := x.mq.drop 1, mrun := none }
    exact ⟨_, congrArg Host.Outcome.next ((State.matrixComplete_room hq hr ended cost).trans (if_pos room)), by rw [core, hq]; rfl, by rw [core], by rw [core], mem, evq⟩
  · have pending : s.pendingTry k .matrix = some (0, r.wait) := by simp only [State.pendingTry, hr, Option.map_some, tries]
    show execEngineAccess k .matrix s = _
    simp only [execEngineAccess, pending, State.engineStep, hr, cost, if_true]
  · have begun := (State.copyStart_ok hq hr mark kind acc clean).trans ((if_neg (Bool.eq_false_iff.1 taken)).trans (if_neg more))
    have core := State.core_setRun (s.touch pt false) k (CopyRun.first ((List.range 4).map fun i => s.rd64 (l + 8 * i)) s.now)
    exact ⟨_, congrArg Host.Outcome.next begun, by rw [core]; rfl, by rw [core]; exact hq⟩
  · have begun := (State.copyStart_ok hq hr mark kind acc clean).trans (if_pos refused)
    exact ⟨_, _, congrArg Host.Outcome.next begun, congrArg CoreSt.crun (State.core_setRun ..), rfl, rfl, rfl, rfl⟩
  · exact ⟨_, _, congrArg Host.Outcome.next (State.copyStart_moving hq hr mark kind acc), congrArg CoreSt.crun (State.core_setRun ..), rfl, rfl, rfl⟩
  · have step := (execEngineAccess_copy hr tries).trans (congrArg Host.Outcome.next (State.copyNext_row hq hr phase kind more))
    refine ⟨fun buf there here acc => ?_, fun data buf len sound here acc clean wf => ?_, fun buf lost => ?_, fun there lost => ?_⟩
    · exact step.trans (congrArg Host.Outcome.next (State.copyMove_read buf there here acc))
    · obtain ⟨t, stores, mem, wrote⟩ := State.copyMove_write (src := r.w 0 + r.pos) buf sound kind here acc
      refine ⟨_, _, step.trans (congrArg _ wrote), fun i h => ?_, fun l out => ?_, congrArg CoreSt.crun (State.core_setRun ..), rfl, rfl, rfl, rfl, ?_⟩
      · have place : i < (byteLocs [(b, min (64 - (r.w 1 + r.pos) % 64) (r.bytes - r.pos))]).length := by rw [byteLocs_one_length, ← len]; exact h
        have read := State.copyBytes_read wf clean sound (by rw [byteLocs_one_length, ← len]) (byteLocs_one_nodup ..) h place
        rw [byteLocs_one_getElem] at read
        exact (congrArg (Memory.read · (b + i)) mem).trans read
      · refine (congrArg (Memory.read · l) mem).trans (State.copyBytes_other wf fun listed => ?_)
        have inside := mem_byteLocs_one.1 listed
        omega
      · show (if _ then _ else _) = _
        rw [phase]
    · exact step.trans (congrArg Host.Outcome.next (State.copyMove_lost_src buf kind lost))
    · exact step.trans (congrArg Host.Outcome.next (State.copyMove_lost_dst there lost))
  · refine ⟨poisonedDwords_clean fun p hp => sound _ (List.of_mem_zip hp).1, fun i h g => State.copyBytes_read wf clean sound len nodup h g⟩
  · have fed : dst[i] / 8 ∈ poisonedDwords (data.zip dst) :=
      mem_poisonedDwords.2 ⟨(data[i], dst[i]), List.mem_iff_getElem.2 ⟨i, by simp; omega, by simp⟩, poisoned, rfl⟩
    exact ⟨fed, State.copyBytes_poisoned s data dst fed⟩
  · exact State.copyBytes_other wf other
  · have closed := State.copyComplete_over (g := false) (congrArg List.head? hq) hr phase pad
    exact congrArg Host.Outcome.next (closed.trans (by rw [full]; rfl))
  · have closed := State.copyComplete_over (g := false) (congrArg List.head? hq) hr phase pad
    simp only [Bool.false_eq_true, if_false] at closed
    obtain ⟨core, mem, evq⟩ := State.completes room (s.mkRec r.status 0 c.ctx r.done r.errs r.addr (r.w 3) c.vf) fun x => { x with cq := x.cq.drop 1, crun := none }
    exact ⟨_, congrArg Host.Outcome.next (closed.trans (if_pos room)), by rw [core, hq]; rfl, by rw [core], mem, evq⟩
  · have closed := State.copyComplete_over (g := true) (congrArg List.head? hq) hr phase pad
    simp only [if_true] at closed
    obtain ⟨core, mem, evq⟩ := State.completes room (s.mkRec r.status 2 c.ctx r.done r.errs r.addr (r.w 3) c.vf) fun x => { x with gq := x.gq.drop 1, grun := none }
    exact ⟨_, congrArg Host.Outcome.next (closed.trans (if_pos room)), by rw [core, hq]; rfl, by rw [core], mem, evq⟩
  · show execEngineAccess k e s = _
    simp only [execEngineAccess, pending]
  · show execRetryAfterExpiry k e s = _
    simp only [execRetryAfterExpiry, pending, due, if_true]
  · show execRetryAfterExpiry k e s = _
    simp only [execRetryAfterExpiry, pending, Nat.not_le.2 early, if_false]
  · obtain ⟨lower, upper⟩ := s.hint_bounds
    exact ⟨lower, upper, fun few => if_neg (Nat.not_le.2 few), fun many => if_pos many, rfl, rfl, rfl, rfl⟩
  · simp only [State.engPiece, own]
  · rcases place with place | place <;> simp only [State.engPiece, place, lost, if_true]
end

section
/-! SUPPORT. The entry of a schedule that a participant runs next (R303 to R306). -/

namespace Sys2Proof.Machine

theorem State.modCore_modCore (s : State) (k : Nat) (f g : CoreSt → CoreSt) : (s.modCore k f).modCore k g = s.modCore k fun x => g (f x) := by
  rw [State.modCore, State.core_modCore, if_pos rfl]
  simp only [State.modCore, State.setCore, Table.set_set]

theorem State.modColl_krun (s : State) (k : Nat) (f : CollRun → CollRun) : ((s.modColl k f).core k).krun = (s.core k).krun.map f := by
  rw [State.modColl, State.core_modCore, if_pos rfl]

/-- A change that changes nothing after another one. -/
theorem State.modColl_same (s : State) (k : Nat) (g : CollRun → CollRun) {f : CollRun → CollRun} (same : ∀ r, f r = r) :
    (s.modColl k g).modColl k f = s.modColl k g := by
  have run (o : Option CollRun) : o.map f = o := by cases o <;> simp [same]
  rw [State.modColl, State.modColl, State.modCore_modCore]
  simp only [run]

/-- The entry that runs next belongs to the run of its participant. -/
theorem State.collEnv_some {s : State} {k : Nat} {e : CollEnv} (h : s.collEnv k = some e) : e.k = k ∧ (s.core k).krun = some e.r := by
  unfold State.collEnv at h
  split at h
  · next c q r hq hr =>
    split at h
    · cases h
    · cases h
      exact ⟨rfl, hr⟩
  · cases h

theorem State.collDue_spec {s : State} {e : CollEnv} (h : s.collDue e = true) : e.c.t0 + e.slot ≤ s.ftb ∧ e.r.phase = 0 ∧ e.r.ended = false := by
  simp only [State.collDue, Bool.and_eq_true, Bool.not_eq_true', decide_eq_true_eq] at h
  obtain ⟨⟨⟨⟨running, phase⟩, _⟩, due⟩, _⟩ := h
  exact ⟨due, phase, running⟩

/-- What a due and sound entry does, by its operation (R304, R305). -/
def State.collStep (s : State) (e : CollEnv) (data : List Byte) (psn : List Nat) : State :=
  match e.opc with
  | 0 => s.collSend e
  | 1 => s.collReceive e data psn true
  | 2 => s.collReceive e data psn false
  | _ => s.collFlag e

section
variable {s : State} {k : Nat} {e : CollEnv} {data : List Byte} {psn : List Nat} (env : s.collEnv k = some e)
include env

theorem State.collEntry_early (op : Nat → Bool) (due : s.collDue e = false) : s.collEntry k op data psn = s := by
  simp only [State.collEntry, env, due, Bool.not_false, if_true]

theorem State.collEntry_faults (op : Nat → Bool) (due : s.collDue e = true) (bad : (s.collBad e || s.collLost e) = true) :
    s.collEntry k op data psn = s.collAbort e stFAULT (e.table + 64 + 16 * e.r.entry) := by
  simp only [State.collEntry, env, due, bad, Bool.not_true, Bool.false_eq_true, if_false, if_true]
  rfl

variable (due : s.collDue e = true) (sound : s.collBad e = false) (linked : s.collLost e = false)
include due sound linked

/-- A step of another operation waits. -/
theorem State.collEntry_other {op : Nat → Bool} (not_op : op e.opc = false) : s.collEntry k op data psn = s := by
  simp only [State.collEntry, env, due, sound, linked, not_op, Bool.not_true, Bool.not_false, Bool.or_self, Bool.false_eq_true, if_false, if_true]

theorem State.collEntry_runs {op : Nat → Bool} (is_op : op e.opc = true) : s.collEntry k op data psn = s.collStep e data psn := by
  simp only [State.collEntry, env, due, sound, linked, is_op, Bool.not_true, Bool.or_self, Bool.false_eq_true, if_false]
  rfl

end

/-! ### The data of a transfer -/

theorem State.psnDwords_clean {s : State} (clean : s.poison = []) (ps : List (Nat × Nat)) : s.psnDwords ps = [] := by
  simp [State.psnDwords, State.poisoned, clean]

theorem CollRun.poison_zero (r : CollRun) (a : Nat) : r.poison 0 a = r := rfl

/-- SEND without poison (R304). -/
theorem State.collSend_ok {s : State} {e : CollEnv} {l : Nat} (plain : e.scaled = false) (link : e.link ≤ 4) (clean : s.poison = [])
    (acc : s.engAcc e.k e.c.vf .rd ((s.collHead e.table).2.1 + e.lofs) e.bytes = .ok [(l, e.bytes)] []) :
    s.collSend e = (s.modHub fun h => { h with payloads := h.payloads ++ [⟨linkSide e.k, e.link, e.c.idx, e.chunk, e.fmt,
      (List.range (e.bytes / 4)).map fun i => (encodeFmt e.fmt (f32 (wordAt (s.rd l e.bytes) i)) .rne true 0).1, [], []⟩] }).collNext e.k e.bytes := by
  simp only [State.collSend, acc, requantise, plain, Bool.false_eq_true, if_false, link, if_true, State.psnDwords_clean clean, State.touch_none, State.rdPieces_one,
    List.length_nil, CollRun.poison_zero]
  exact State.modColl_same _ _ _ fun _ => rfl

/-- FP32 words as one little-endian number (R14). -/
def packWords (f : Nat → W32) (n : Nat) : Nat := (List.range n).foldr (fun i (acc : Nat) => (f i).toNat + 2 ^ 32 * acc) 0

theorem packWords_succ (f : Nat → W32) (n : Nat) : packWords f (n + 1) = (f 0).toNat + 2 ^ 32 * packWords (fun i => f (i + 1)) n := by
  rw [packWords, packWords, List.range_succ_eq_map, List.foldr_cons, List.foldr_map]

theorem packWords_lt (f : Nat → W32) (n : Nat) : packWords f n < 2 ^ (32 * n) := by
  induction n generalizing f with
  | zero => exact Nat.one_pos
  | succ n ih =>
    have first := (f 0).isLt
    have rest := ih fun i => f (i + 1)
    rw [packWords_succ, Nat.mul_succ, Nat.pow_add]
    nlinarith

theorem wordAt_packWords (f : Nat → W32) {n i : Nat} (h : i < n) : wordAt (packWords f n) i = f i := by
  induction n generalizing f i with
  | zero => exact absurd h (Nat.not_lt_zero i)
  | succ n ih =>
    have first := (f 0).isLt
    rw [packWords_succ]
    cases i with
    | zero =>
      rw [wordAt, Nat.mul_zero, Nat.pow_zero, Nat.div_one, Nat.add_mul_mod_self_left, Nat.mod_eq_of_lt first, BitVec.ofNat_toNat, BitVec.setWidth_eq]
    | succ i =>
      rw [← ih (fun i => f (i + 1)) (Nat.lt_of_succ_lt_succ h), wordAt, wordAt, Nat.mul_succ, Nat.add_comm (32 * i), Nat.pow_add, ← Nat.div_div_eq_div_mul,
        Nat.add_mul_div_left _ _ (by decide : 0 < 2 ^ 32), Nat.div_eq_of_lt first, Nat.zero_add]

/-- The received data in the buffer (R304). -/
def State.arrived (s : State) (p : Payload) (l n : Nat) (add : Bool) (i : Nat) : W32 :=
  if add then accAdd (wordAt (s.rd l n) i) (widenPart p i) else widenPart p i

theorem zip_byteLocs_one (l n v : Nat) : (byteLocs [(l, n)]).zip (bytesOfNat n v) = bytesAt l n v := by
  rw [byteLocs_one, List.zip_map_left]
  rfl

/-- RADD and RSTORE of a payload that waits on the link, without poison (R304). -/
theorem State.collReceive_ok {s : State} {e : CollEnv} {p : Payload} {l : Nat} {add : Bool} (link : e.link ≤ 4) (one : s.hub.payloads = [p])
    (src : p.src = e.link) (dst : p.dst = linkSide e.k) (idx : p.idx = e.c.idx) (chunk : p.chunk = e.chunk) (sound : p.psn = []) (clean : s.poison = [])
    (acc : s.engAcc e.k e.c.vf (if add then .rw else .wr) ((s.collHead e.table).2.1 + e.lofs) e.bytes = .ok [(l, e.bytes)] []) :
    s.collReceive e [] [] add = ((s.modHub fun h => { h with payloads := [] }).wr l e.bytes (packWords (s.arrived p l e.bytes add) (e.bytes / 4))).collNext e.k e.bytes := by
  have inside : ¬0x10 ≤ e.link := by omega
  have hit : (decide (p.src = e.link) && decide (p.dst = linkSide e.k) && decide (p.idx = e.c.idx) && decide (p.chunk = e.chunk)) = true := by
    simp [src, dst, idx, chunk]
  have arrived : s.collIn e [] [] = some (p, s.modHub fun h => { h with payloads := [] }) := by
    have erased : s.hub.payloads.eraseP (fun p => decide (p.src = e.link) && decide (p.dst = linkSide e.k) && decide (p.idx = e.c.idx)
        && decide (p.chunk = e.chunk)) = [] := by
      rw [one, List.eraseP_cons, hit]
      rfl
    have found : s.hub.payloads.find? (fun p => decide (p.src = e.link) && decide (p.dst = linkSide e.k) && decide (p.idx = e.c.idx)
        && decide (p.chunk = e.chunk)) = some p := by rw [one, List.find?_cons, hit]
    simp only [State.collIn, inside, if_false, found, State.modHub, erased]
  have bad : ([] ++ if add then s.psnDwords [(l, e.bytes)] else []).eraseDups = [] := by
    rw [State.psnDwords_clean clean]
    cases add <;> rfl
  have all (bs : List (Nat × Byte)) : (bs.filter fun _ => true) = bs := List.filter_eq_self.2 fun _ _ => rfl
  simp only [State.collReceive, arrived, acc, sound, bad, State.touch_none, State.rdPieces_one, List.any_nil, Bool.not_false, all, zip_byteLocs_one, List.foldl_nil,
    List.length_nil, CollRun.poison_zero]
  exact State.modColl_same _ _ _ fun _ => rfl

/-! ### Start and end -/

section
variable {s : State} {k : Nat} {c : CollCmd} {q : List CollCmd} (hq : (s.core k).kq = c :: q)
include hq

/-- The run of a collective that has started. -/
def CollRun.first : CollRun := ⟨0, 0, 0, 0, 0, 0, 0, 0, false⟩

theorem State.collStart_waits (idle : (s.core k).krun = none) (die : k < 512) (early : (s.ctx c.ctx).lsqDone < c.mark) : s.collStart k = s := by
  simp only [State.collStart, hq, idle]
  exact if_pos ⟨early, Nat.ne_of_lt die⟩

/-- What a start does: the hub reducer's table of the index may join (R188). -/
theorem State.collStart_runs (idle : (s.core k).krun = none) (mark : c.mark ≤ (s.ctx c.ctx).lsqDone) :
    let t := s.modCore k fun x => { x with krun := some CollRun.first }
    (s.collStart k = t ∨ s.collStart k = t.modCore 512 fun x => { x with kq := x.kq ++ [c] }) ∧
      (s.hub.scheds.find (schedKey (s.collPart c) 512 c.idx) = none → s.collStart k = t) := by
  have due : ¬((s.ctx c.ctx).lsqDone < c.mark ∧ k ≠ 512) := fun h => absurd h.1 (Nat.not_lt.2 mark)
  simp only [State.collStart, hq, idle, due, if_false]
  constructor
  · split
    · exact .inr rfl
    · exact .inl rfl
  · intro absent
    rw [absent]
    rfl

/-- A collective whose entries are over completes with its record (R189). -/
theorem State.collComplete_ended {r : CollRun} (run : (s.core k).krun = some r) (ended : r.ended = true) (die : k < 512) : s.collComplete k =
    if s.evRoom (clusterOf k) then ((s.postRec (clusterOf k) (s.mkRec r.status 3 c.ctx r.done r.errs r.addr 0 c.vf)).modCore k fun x =>
      { x with kq := x.kq.drop 1, krun := none }).endDrain k else s := by
  simp only [State.collComplete, hq, run, ended, Bool.true_or, Bool.not_true, Bool.false_eq_true, if_false, Nat.ne_of_lt die]
  cases s.evRoom (clusterOf k) <;> rfl

end

end Sys2Proof.Machine
end

section
open Sys2Proof Sys2Proof.Machine

/-- Settles O54: each clause is one outcome of an entry, of its data, or of the start and the end of a collective. -/
theorem collectivesRun : Obligations.CollectivesRun := by
  refine ⟨fun s k e data psn env => ?_, fun s e l run plain link acc clean => State.collSend_ok plain link clean acc,
    fun s e p l add run link one src dst idx chunk sound clean wf acc words => ?_, fun s e data psn add absent => ?_, fun s e va => ?_, fun r n a some_ => ?_,
    fun p i plain => ?_, fun s k c q hq idle die => ⟨fun early => ?_, fun mark => ?_⟩, fun s k c q r hq run ended die => ⟨fun full => ?_, fun room => ?_⟩,
    fun s k c q r hq run tries => ?_⟩
  · obtain ⟨same, run⟩ := State.collEnv_some env
    subst same
    refine ⟨fun early => ?_, fun due bad => ?_, fun due sound linked => ?_, run, rfl, State.collDue_spec⟩
    · exact ⟨congrArg Host.Outcome.next (State.collEntry_early env _ early), congrArg Host.Outcome.next (State.collEntry_early env _ early),
        congrArg Host.Outcome.next (State.collEntry_early env _ early), congrArg Host.Outcome.next (State.collEntry_early env _ early)⟩
    · exact ⟨congrArg Host.Outcome.next (State.collEntry_faults env _ due bad), congrArg Host.Outcome.next (State.collEntry_faults env _ due bad)⟩
    · have runs {op : Nat → Bool} {data : List Byte} {psn : List Nat} (is_op : op e.opc = true) := State.collEntry_runs (data := data) (psn := psn) env due sound linked is_op
      have waits {op : Nat → Bool} (not_op : op e.opc = false) := State.collEntry_other (data := []) (psn := []) env due sound linked not_op
      refine ⟨fun opc => ?_, fun opc => ?_, fun opc => ?_, fun opc => ?_, fun opc => ?_, fun opc => ?_⟩
      · exact congrArg Host.Outcome.next ((runs (decide_eq_true opc)).trans (by rw [State.collStep, opc]; rfl))
      · exact congrArg Host.Outcome.next ((runs (decide_eq_true opc)).trans (by rw [State.collStep, opc]; rfl))
      · exact congrArg Host.Outcome.next ((runs (decide_eq_true opc)).trans (by rw [State.collStep, opc]; rfl))
      · exact congrArg Host.Outcome.next ((runs (decide_eq_true opc)).trans (by rw [State.collStep, opc]; rfl))
      · exact congrArg Host.Outcome.next (waits (decide_eq_false opc))
      · exact congrArg Host.Outcome.next (waits (decide_eq_false opc))
  · have four : e.bytes / 4 * 4 = e.bytes := Nat.div_mul_cancel words
    have received := State.collReceive_ok link one src dst idx chunk sound clean acc
    have small : packWords (s.arrived p l e.bytes add) (e.bytes / 4) < 2 ^ (8 * e.bytes) := by
      have bound := packWords_lt (s.arrived p l e.bytes add) (e.bytes / 4)
      rwa [show 32 * (e.bytes / 4) = 8 * e.bytes by omega] at bound
    simp only [received]
    refine ⟨fun i h => ?_, fun j out => ?_, rfl, ?_⟩
    · have read := State.rd_wr (s := s.modHub fun h => { h with payloads := [] }) clean wf l e.bytes (packWords (s.arrived p l e.bytes add) (e.bytes / 4))
      rw [Nat.mod_eq_of_lt small] at read
      exact (congrArg (wordAt · i) read).trans (wordAt_packWords _ h)
    · exact State.wr_other (s := s.modHub fun h => { h with payloads := [] }) clean wf out
    · refine (State.modColl_krun ..).trans ?_
      show Option.map _ (s.core e.k).krun = _
      rw [run]
      rfl
  · simp only [State.collReceive, absent]
  · refine ⟨rfl, rfl, rfl, fun data die foreign => ?_, fun last => if_pos last⟩
    have outside : s.bufBad e.k (s.rd (hsLoc (e.table + 8)) 8) e.lofs e.bytes = true := by
      have buffer : decide (s.rd (hsLoc (e.table + 8)) 8 / 2 ^ 42 ≠ s.owner e.k) = true := decide_eq_true foreign
      rw [State.bufBad, decide_eq_true die, buffer]
      rfl
    simp only [State.collBad, outside, decide_eq_true data, Bool.and_self, Bool.or_true]
  · simp only [CollRun.poison, some_, if_false, true_and]
    exact fun fresh => if_pos fresh
  · simp only [widenPart, plain, List.isEmpty_nil, if_true]
  · exact congrArg Host.Outcome.next (State.collStart_waits hq idle die early)
  · obtain ⟨joins, alone⟩ := State.collStart_runs hq idle mark
    refine ⟨_, CollRun.first, rfl, ?_, rfl, rfl, rfl, alone⟩
    have started : ((s.modCore k fun x => { x with krun := some CollRun.first }).core k).krun = some CollRun.first := by
      rw [State.core_modCore, if_pos rfl]
    rcases joins with eq | eq
    · exact (congrArg (fun t : State => (t.core k).krun) eq).trans started
    · refine (congrArg (fun t : State => (t.core k).krun) eq).trans (Eq.trans ?_ started)
      rw [State.core_modCore, if_neg (Nat.ne_of_lt die)]
  · refine congrArg Host.Outcome.next ((State.collComplete_ended hq run ended die).trans ?_)
    rw [full]
    rfl
  · obtain ⟨core, mem, evq⟩ := State.completes room (s.mkRec r.status 3 c.ctx r.done r.errs r.addr 0 c.vf) fun x => { x with kq := x.kq.drop 1, krun := none }
    exact ⟨_, congrArg Host.Outcome.next ((State.collComplete_ended hq run ended die).trans (if_pos room)), by rw [core, hq]; rfl, by rw [core], mem, evq⟩
  · show execEngineAccess k .coll s = _
    simp only [execEngineAccess, State.pendingTry, run, Option.map_some, tries, State.engineStep]
end

section
/-! SUPPORT. Partitions, and the graph positions that a die saves and takes up again (R51, R352). -/

namespace Sys2Proof.Machine

/-! ### Folds over states -/

/-- What every step keeps, the whole fold keeps. -/
theorem foldl_keeps {α β γ : Type} (g : α → γ) {f : α → β → α} (h : ∀ s b, g (f s b) = g s) (l : List β) (s : α) : g (l.foldl f s) = g s :=
  List.foldlRecOn l f (motive := fun t => g t = g s) rfl fun t ht b _ => (h t b).trans ht

/-- What the step of one element brings about, and every step keeps, holds at the end, under what every step keeps. -/
theorem foldl_reaches {α β : Type} {I P : α → Prop} {f : α → β → α} (inv : ∀ s b, I s → I (f s b)) {b : β} (here : ∀ s, I s → P (f s b))
    (keeps : ∀ s c, I s → P s → P (f s c)) {l : List β} (hb : b ∈ l) {s : α} (hs : I s) : P (l.foldl f s) := by
  induction l generalizing s with
  | nil => cases hb
  | cons c r ih =>
    rcases List.mem_cons.1 hb with same | later
    · subst same
      exact (List.foldlRecOn r f (motive := fun t => I t ∧ P t) ⟨inv _ _ hs, here _ hs⟩ fun t ht d _ => ⟨inv _ _ ht.1, keeps _ _ ht.1 ht.2⟩).2
    · exact ih later (inv _ _ hs)

/-! ### Partitions -/

/-- Put a partition in its place. -/
def State.setPart (s : State) (p : Nat) (q : Part) : State := s.modHub fun h => { h with parts := h.parts.set p q }

theorem State.modPart_found {s : State} {p : Nat} {q : Part} (h : s.hub.parts.find p = some q) (f : Part → Part) : s.modPart p f = s.setPart p (f q) := by
  simp only [State.modPart, h]
  rfl

theorem State.setPart_find (s : State) (p : Nat) (q : Part) : (s.setPart p q).hub.parts.find p = some q :=
  (Table.find_set ..).trans (if_pos rfl)

theorem State.setPart_setPart (s : State) (p : Nat) (q r : Part) : (s.setPart p q).setPart p r = s.setPart p r := by
  simp only [State.setPart, State.modHub, Table.set_set]

/-! ### Graph positions -/

theorem clustersOf_nodup (d : Nat) : (clustersOf d).Nodup := List.nodup_range.map fun _ _ same => Nat.add_left_cancel same

theorem State.modVf_found {s : State} {vf : Nat} {v : VfSt} (h : s.hub.vfs.find vf = some v) (f : VfSt → VfSt) :
    s.modVf vf f = s.modHub fun h => { h with vfs := h.vfs.set vf (f v) } := by
  simp only [State.modVf, h]

/-- Of the hub the installed functions may differ, of the rest the clusters, and nothing else. -/
def Positions (s t : State) : Prop := ∃ g c, t = { s with hub := { s.hub with vfs := g }, clusters := c }

theorem Positions.refl (s : State) : Positions s s := ⟨_, _, rfl⟩

theorem Positions.trans {s t u : State} (h : Positions s t) (k : Positions t u) : Positions s u := by
  obtain ⟨_, _, rfl⟩ := h
  obtain ⟨_, _, rfl⟩ := k
  exact ⟨_, _, rfl⟩

theorem Positions.foldl {β : Type} {f : State → β → State} (h : ∀ s b, Positions s (f s b)) (l : List β) (s : State) : Positions s (l.foldl f s) :=
  List.foldlRecOn l f (.refl s) fun t ht b _ => ht.trans (h t b)

theorem Positions.parts {s t : State} (h : Positions s t) : t.hub.parts = s.hub.parts := by
  obtain ⟨_, _, rfl⟩ := h
  rfl

theorem Positions.mem {s t : State} (h : Positions s t) : t.mem = s.mem := by
  obtain ⟨_, _, rfl⟩ := h
  rfl

theorem Positions.ctxs {s t : State} (h : Positions s t) : t.ctxs = s.ctxs := by
  obtain ⟨_, _, rfl⟩ := h
  rfl

theorem Positions.cmdCi {s t : State} (h : Positions s t) : t.hub.cmdCi = s.hub.cmdCi := by
  obtain ⟨_, _, rfl⟩ := h
  rfl

theorem State.modVf_positions (s : State) (vf : Nat) (f : VfSt → VfSt) : Positions s (s.modVf vf f) := by
  unfold State.modVf
  split
  · exact .refl s
  · exact ⟨_, _, rfl⟩

/-- One cluster's part of a save (R352). -/
def State.saveCluster (p vf : Nat) (s : State) (cl : Nat) : State :=
  (s.modVf vf fun v => { v with graph := v.graph.set cl ((s.cluster cl).position p vf) }).modCluster cl fun q => q.without p vf

theorem State.saveCluster_positions (p vf : Nat) (s : State) (cl : Nat) : Positions s (s.saveCluster p vf cl) :=
  (s.modVf_positions vf _).trans ⟨_, _, rfl⟩

theorem State.savePosition_found {s : State} {vf : Nat} {v : VfSt} (h : s.hub.vfs.find vf = some v) (p d : Nat) :
    s.savePosition p vf d = (clustersOf d).foldl (State.saveCluster p vf) s := by
  simp only [State.savePosition, h, Option.isNone_some, Bool.false_eq_true, if_false]
  rfl

theorem State.savePosition_positions (s : State) (p vf d : Nat) : Positions s (s.savePosition p vf d) := by
  cases h : s.hub.vfs.find vf with
  | none =>
    simp only [State.savePosition, h, Option.isNone_none, if_true]
    exact .refl s
  | some v =>
    rw [State.savePosition_found h]
    exact Positions.foldl (State.saveCluster_positions p vf) _ s

/-- Each cluster of the list gives its position to the function's state, and the others stay (R352). -/
theorem State.saveCluster_foldl {vf p cl : Nat} {cls : List Nat} (nodup : cls.Nodup) {s : State} {v : VfSt} (h : s.hub.vfs.find vf = some v) :
    let t := cls.foldl (State.saveCluster p vf) s
    (∃ u, t.hub.vfs.find vf = some u ∧ u.d = v.d ∧ u.graph.find cl = if cl ∈ cls then some ((s.cluster cl).position p vf) else v.graph.find cl) ∧
      t.cluster cl = if cl ∈ cls then (s.cluster cl).without p vf else s.cluster cl := by
  induction cls generalizing s v with
  | nil => exact ⟨⟨v, h, rfl, rfl⟩, rfl⟩
  | cons a r ih =>
    have found : (s.saveCluster p vf a).hub.vfs.find vf = some { v with graph := v.graph.set a ((s.cluster a).position p vf) } := by
      rw [State.saveCluster, State.modVf_found h]
      exact (Table.find_set ..).trans (if_pos rfl)
    have cluster : (s.saveCluster p vf a).cluster cl = if cl = a then (s.cluster a).without p vf else s.cluster cl := by
      rw [State.saveCluster, State.modVf_found h]
      exact State.cluster_modCluster ..
    obtain ⟨other, rest⟩ := List.nodup_cons.1 nodup
    obtain ⟨⟨u, hu, hd, graph⟩, left⟩ := ih rest found
    refine ⟨⟨u, hu, hd, graph.trans ?_⟩, left.trans ?_⟩
    · by_cases same : cl = a
      · subst same
        simp [other]
      · simp [same, cluster]
    · by_cases same : cl = a
      · subst same
        simp [other, cluster]
      · simp [same, cluster]

/-- One cluster's part of a resumption (R352). -/
def State.restoreCluster (v : VfSt) (s : State) (cl : Nat) : State :=
  match v.graph.find cl with
  | none => s
  | some g => s.modCluster cl fun q => { q with dep := g.dep ++ q.dep, ready := g.ready ++ q.ready, waiting := g.waiting ++ q.waiting }

theorem State.restoreCluster_positions (v : VfSt) (s : State) (cl : Nat) : Positions s (s.restoreCluster v cl) := by
  unfold State.restoreCluster
  split
  · exact .refl s
  · exact ⟨_, _, rfl⟩

theorem State.restorePosition_found {s : State} {vf : Nat} {v : VfSt} (h : s.hub.vfs.find vf = some v) (d : Nat) :
    s.restorePosition vf d = ((clustersOf d).foldl (State.restoreCluster v) s).modVf vf fun v => { v with graph := (clustersOf d).foldl Table.del v.graph } := by
  simp only [State.restorePosition, h]
  rfl

theorem State.restorePosition_positions (s : State) (vf d : Nat) : Positions s (s.restorePosition vf d) := by
  cases h : s.hub.vfs.find vf with
  | none =>
    simp only [State.restorePosition, h]
    exact .refl s
  | some v =>
    rw [State.restorePosition_found h]
    exact (Positions.foldl (State.restoreCluster_positions v) _ s).trans (State.modVf_positions ..)

/-- Each cluster of the list takes its entries up once, before its own (R352). -/
theorem State.restoreCluster_foldl {v : VfSt} {cl : Nat} {g : Graph} (saved : v.graph.find cl = some g) {cls : List Nat} (nodup : cls.Nodup) (s : State) :
    (cls.foldl (State.restoreCluster v) s).cluster cl =
      if cl ∈ cls then { s.cluster cl with dep := g.dep ++ (s.cluster cl).dep, ready := g.ready ++ (s.cluster cl).ready, waiting := g.waiting ++ (s.cluster cl).waiting }
      else s.cluster cl := by
  induction cls generalizing s with
  | nil => rfl
  | cons a r ih =>
    obtain ⟨other, rest⟩ := List.nodup_cons.1 nodup
    rw [List.foldl_cons, ih rest]
    by_cases same : cl = a
    · subst same
      simp [other, State.restoreCluster, saved]
    · have kept : (s.restoreCluster v a).cluster cl = s.cluster cl := by
        unfold State.restoreCluster
        split
        · rfl
        · rw [State.cluster_modCluster, if_neg same]
      simp [same, kept]

theorem State.modVf_cluster (s : State) (vf : Nat) (f : VfSt → VfSt) (cl : Nat) : (s.modVf vf f).cluster cl = s.cluster cl := by
  unfold State.modVf
  split <;> rfl

end Sys2Proof.Machine
end

section
/-! SUPPORT. A switch that proceeds: no routine in the window can be called, and banks and arrays are in their first state (R218, R236, R352). -/

namespace Sys2Proof.Machine

/-! ### Routine tables -/

section
variable {s t : State} {k : Nat}

theorem State.inWindow_congr (base : (t.core k).mpwBase = (s.core k).mpwBase) (limit : (t.core k).mpwLimit = (s.core k).mpwLimit) (i : Nat) :
    t.inWindow k i = s.inWindow k i := by
  simp only [State.inWindow, base, limit]

/-- A word depends on its place in the core's store, on its library and on the writes on their way. -/
theorem State.storeWord_congr {i : Nat} (now : t.now = s.now) (store : (t.core k).store.find i = (s.core k).store.find i)
    (library : (t.core k).library = (s.core k).library) (mpw : (t.core k).mpw = (s.core k).mpw) : t.storeWord k i = s.storeWord k i := by
  simp only [State.storeWord, now, store, library, mpw]

/-- A write that has taken effect, or the store, gives a word (R235). -/
theorem State.storeWord_cases (s : State) (k i : Nat) :
    (∃ m ∈ (s.core k).mpw, m.2.1 = i ∧ s.storeWord k i = m.2.2) ∨
      (s.core k).mpw.filter (fun (p : Nat × Nat × W64) => decide (p.1 ≤ s.now) && decide (p.2.1 = i)) = [] := by
  rcases List.eq_nil_or_concat ((s.core k).mpw.filter fun (p : Nat × Nat × W64) => decide (p.1 ≤ s.now) && decide (p.2.1 = i)) with empty | ⟨l, m, listed⟩
  · exact .inr empty
  · have mem : m ∈ (s.core k).mpw.filter fun (p : Nat × Nat × W64) => decide (p.1 ≤ s.now) && decide (p.2.1 = i) := by simp [listed]
    obtain ⟨queued, due⟩ := List.mem_filter.1 mem
    simp only [Bool.and_eq_true, decide_eq_true_eq] at due
    refine .inl ⟨m, queued, due.2, ?_⟩
    simp [State.storeWord, listed]

/-- A table word that names no routine in the core's window (R218). -/
def State.Barred (s : State) (k : Nat) (w : W64) : Prop := w.getLsbD 63 = true → s.inWindow k (w.toNat % 4096) = false

theorem State.Barred.congr {w : W64} (h : s.Barred k w) (base : (t.core k).mpwBase = (s.core k).mpwBase) (limit : (t.core k).mpwLimit = (s.core k).mpwLimit) :
    t.Barred k w := fun valid => (State.inWindow_congr base limit _).trans (h valid)

theorem State.revoked_barred (s : State) (k : Nat) (w : W64) : s.Barred k (s.revoked k w) := by
  intro valid
  unfold State.revoked at valid ⊢
  split at valid
  · simp at valid
  · next h =>
    rw [if_neg h]
    simpa [valid] using h

theorem State.revoked_eq {w : W64} (h : s.Barred k w) : s.revoked k w = w := by
  refine if_neg fun both => ?_
  obtain ⟨valid, inside⟩ := Bool.and_eq_true_iff.1 both
  rw [h valid] at inside
  cases inside

theorem State.barred_of_revoked_eq {w : W64} (h : s.revoked k w = w) : s.Barred k w := h ▸ s.revoked_barred k w

/-- No write on its way to the table names a routine in the window. -/
def State.QueueBarred (s : State) (k : Nat) : Prop := ∀ m ∈ (s.core k).mpw, m.2.1 < 64 → s.Barred k m.2.2

/-- The writes on their way lose VALID first (R218, log 54). -/
def State.revokeQueue (s : State) (k : Nat) : State :=
  s.modCore k fun q => { q with mpw := q.mpw.map fun (m : Nat × Nat × W64) => if m.2.1 < 64 then (m.1, m.2.1, s.revoked k m.2.2) else m }
/-- Then each word of the table (R218). -/
def State.revokeWord (k : Nat) (s : State) (i : Nat) : State :=
  if s.revoked k (s.storeWord k i) = s.storeWord k i then s else s.modCore k fun q => { q with store := q.store.set i (s.revoked k (s.storeWord k i)) }

theorem State.revokeTable_eq (s : State) (k : Nat) : s.revokeTable k = (List.range 64).foldl (State.revokeWord k) (s.revokeQueue k) := rfl

end

section
variable (s : State) (k : Nat)

theorem State.revokeQueue_core : ∃ m, (s.revokeQueue k).core k = { s.core k with mpw := m } := ⟨_, (State.core_modCore ..).trans (if_pos rfl)⟩

theorem State.revokeQueue_barred : (s.revokeQueue k).QueueBarred k := by
  intro m hm low
  obtain ⟨q, core⟩ := s.revokeQueue_core k
  have queue : ((s.revokeQueue k).core k).mpw = (s.core k).mpw.map fun (m : Nat × Nat × W64) => if m.2.1 < 64 then (m.1, m.2.1, s.revoked k m.2.2) else m := by
    rw [State.revokeQueue, State.core_modCore, if_pos rfl]
  rw [queue] at hm
  obtain ⟨n, -, rfl⟩ := List.mem_map.1 hm
  by_cases h : n.2.1 < 64
  · rw [if_pos h]
    exact (s.revoked_barred k n.2.2).congr (by rw [core]) (by rw [core])
  · rw [if_neg h] at low
    exact absurd low h

theorem State.revokeWord_core (i : Nat) : ∃ t, (s.revokeWord k i).core k = { s.core k with store := t } := by
  unfold State.revokeWord
  split
  · exact ⟨_, rfl⟩
  · exact ⟨_, (State.core_modCore ..).trans (if_pos rfl)⟩

theorem State.revokeWord_now (i : Nat) : (s.revokeWord k i).now = s.now := by
  unfold State.revokeWord
  split <;> rfl

theorem State.revokeWord_queue {i : Nat} (h : s.QueueBarred k) : (s.revokeWord k i).QueueBarred k := by
  obtain ⟨t, core⟩ := s.revokeWord_core k i
  intro m hm low
  rw [core] at hm
  exact (h m hm low).congr (by rw [core]) (by rw [core])

/-- A word that has been revoked names no routine in the window. -/
theorem State.revokeWord_here {i : Nat} (low : i < 64) (h : s.QueueBarred k) : (s.revokeWord k i).Barred k ((s.revokeWord k i).storeWord k i) := by
  by_cases same : s.revoked k (s.storeWord k i) = s.storeWord k i
  · rw [State.revokeWord, if_pos same]
    exact State.barred_of_revoked_eq same
  · obtain ⟨t, core⟩ := s.revokeWord_core k i
    have none_due : (s.core k).mpw.filter (fun (p : Nat × Nat × W64) => decide (p.1 ≤ s.now) && decide (p.2.1 = i)) = [] := by
      refine (s.storeWord_cases k i).resolve_left fun ⟨m, hm, place, word⟩ => same ?_
      rw [word]
      exact State.revoked_eq (h m hm (place ▸ low))
    have stored : (s.revokeWord k i).storeWord k i = s.revoked k (s.storeWord k i) := by
      have now := s.revokeWord_now k i
      have store : ((s.revokeWord k i).core k).store = (s.core k).store.set i (s.revoked k (s.storeWord k i)) := by
        rw [State.revokeWord, if_neg same, State.core_modCore, if_pos rfl]
      have mpw : ((s.revokeWord k i).core k).mpw = (s.core k).mpw := by rw [core]
      simp only [State.storeWord, now, mpw, none_due, store, List.getLast?_nil, Table.find_set, if_true, Option.getD_some]
    rw [stored]
    exact (s.revoked_barred k _).congr (by rw [core]) (by rw [core])

theorem State.revokeWord_keeps {i j : Nat} (low : i < 64) (h : s.QueueBarred k) (barred : s.Barred k (s.storeWord k i)) :
    (s.revokeWord k j).Barred k ((s.revokeWord k j).storeWord k i) := by
  by_cases same : i = j
  · subst same
    exact s.revokeWord_here k low h
  · obtain ⟨t, core⟩ := s.revokeWord_core k j
    have place : ((s.revokeWord k j).core k).store.find i = (s.core k).store.find i := by
      unfold State.revokeWord
      split
      · rfl
      · rw [State.core_modCore, if_pos rfl, Table.find_set, if_neg same]
    rw [State.storeWord_congr (s.revokeWord_now k j) place (by rw [core]) (by rw [core])]
    exact barred.congr (by rw [core]) (by rw [core])

/-- After its revocation a core's table names no routine in its window (R218). -/
theorem State.revokeTable_barred {i : Nat} (low : i < 64) : (s.revokeTable k).Barred k ((s.revokeTable k).storeWord k i) := by
  have reached := foldl_reaches (f := State.revokeWord k) (l := List.range 64) (s := s.revokeQueue k) (I := fun t : State => t.QueueBarred k)
    (P := fun t : State => t.Barred k (t.storeWord k i)) (fun t j h => t.revokeWord_queue k h) (fun t h => t.revokeWord_here k low h)
    (fun t j h barred => t.revokeWord_keeps k low h barred) (List.mem_range.2 low) (s.revokeQueue_barred k)
  exact reached

/-- A step of a switch that proceeds, for one core. -/
def State.proceedCore (s : State) (k : Nat) : State := (s.revokeTable k).modCore k CoreSt.clearArray

/-- What such a step leaves alone. -/
theorem State.proceedCore_cores : ∃ x, s.proceedCore k = { s with cores := x } := by
  have words : ∃ x, s.revokeTable k = { s with cores := x } := by
    rw [State.revokeTable_eq]
    refine List.foldlRecOn _ _ (motive := fun t : State => ∃ x, t = { s with cores := x }) ⟨_, rfl⟩ ?_
    rintro t ⟨x, rfl⟩ i -
    unfold State.revokeWord
    split
    · exact ⟨_, rfl⟩
    · exact ⟨_, rfl⟩
  obtain ⟨x, h⟩ := words
  rw [State.proceedCore, h]
  exact ⟨_, rfl⟩

theorem State.proceedCore_other {j : Nat} (h : j ≠ k) : (s.proceedCore k).core j = s.core j := by
  rw [State.proceedCore, State.core_modCore, if_neg h, State.revokeTable_eq]
  refine (foldl_keeps (fun t : State => t.core j) (fun t i => ?_) _ _).trans ((State.core_modCore ..).trans (if_neg h))
  unfold State.revokeWord
  split
  · rfl
  · exact (State.core_modCore ..).trans (if_neg h)

theorem State.revokeWord_spk (i : Nat) : ((s.revokeWord k i).core k).spk = (s.core k).spk := by
  obtain ⟨x, core⟩ := s.revokeWord_core k i
  rw [core]

theorem State.revokeQueue_spk : ((s.revokeQueue k).core k).spk = (s.core k).spk := by
  obtain ⟨x, core⟩ := s.revokeQueue_core k
  rw [core]

theorem State.revokeTable_spk : ((s.revokeTable k).core k).spk = (s.core k).spk :=
  (foldl_keeps (fun t : State => (t.core k).spk) (fun t i => t.revokeWord_spk k i) (List.range 64) (s.revokeQueue k)).trans (s.revokeQueue_spk k)

theorem State.clearArray_spk (j : Nat) : ((s.modCore k CoreSt.clearArray).core j).spk = (s.core j).spk := by
  rw [State.core_modCore]
  split
  · next h =>
    subst h
    rfl
  · rfl

theorem State.proceedCore_spk (j : Nat) : ((s.proceedCore k).core j).spk = (s.core j).spk := by
  by_cases h : j = k
  · subst h
    exact (State.clearArray_spk ..).trans (s.revokeTable_spk j)
  · rw [s.proceedCore_other k h]

/-- A core as a switch that proceeds leaves it (R218, R236). -/
structure State.Cleared (s : State) (k : Nat) : Prop where
  barred : ∀ i, i < 64 → s.Barred k (s.storeWord k i)
  banks : (s.core k).banks = Table.empty
  latch : (s.core k).latch = none
  versions : ∀ b, b < 4 → s.version k b = 0

theorem State.clearArray_cleared (h : ∀ i, i < 64 → s.Barred k (s.storeWord k i)) : (s.modCore k CoreSt.clearArray).Cleared k := by
  have core : (s.modCore k CoreSt.clearArray).core k = (s.core k).clearArray := (State.core_modCore ..).trans (if_pos rfl)
  have zero : ∀ b, b < 4 → (Vector.replicate 4 (0 : BitVec 16)).toList.getD b 0 = 0 := by decide
  refine ⟨fun i low => ?_, by rw [core]; rfl, by rw [core]; rfl, fun b hb => ?_⟩
  · have word : (s.modCore k CoreSt.clearArray).storeWord k i = s.storeWord k i :=
      State.storeWord_congr rfl (by rw [core]; rfl) (by rw [core]; rfl) (by rw [core]; rfl)
    rw [word]
    exact (h i low).congr (by rw [core]; rfl) (by rw [core]; rfl)
  · rw [State.version, core]
    exact zero b hb

theorem State.proceedCore_cleared : (s.proceedCore k).Cleared k := State.clearArray_cleared _ k fun _ low => s.revokeTable_barred k low

theorem State.proceedCore_keeps {j : Nat} (h : s.Cleared j) : (s.proceedCore k).Cleared j := by
  by_cases same : j = k
  · subst same
    exact s.proceedCore_cleared j
  · have core := s.proceedCore_other k same
    have now : (s.proceedCore k).now = s.now := by
      obtain ⟨x, eq⟩ := s.proceedCore_cores k
      rw [eq]
    refine ⟨fun i low => ?_, by rw [core]; exact h.banks, by rw [core]; exact h.latch, fun b hb => ?_⟩
    · rw [State.storeWord_congr now (by rw [core]) (by rw [core]) (by rw [core])]
      exact (h.barred i low).congr (by rw [core]) (by rw [core])
    · rw [State.version, core]
      exact h.versions b hb

end

/-! ### The switch -/

/-- A partition as a switch that proceeds leaves it (R352). -/
def Part.switched (q : Part) : Part :=
  { q with tick := none, saved := 0, cmiss := 0, gates := 0, swapping := true, noted := 0, upDone := 0, outgoing := q.tenant,
           tenant := if q.incoming.isSome then q.incoming else q.tenant, incoming := none }

/-- The cores of a partition, one after another. -/
def State.proceedCores (s : State) (p : Nat) : State := (s.coresOf p).foldl State.proceedCore s

section
variable (s : State) (p : Nat)

theorem State.proceedCores_cores : ∃ x, s.proceedCores p = { s with cores := x } := by
  refine List.foldlRecOn _ _ (motive := fun t : State => ∃ x, t = { s with cores := x }) ⟨_, rfl⟩ ?_
  rintro t ⟨x, rfl⟩ k -
  exact State.proceedCore_cores ..

theorem State.proceedCores_spk (k : Nat) : ((s.proceedCores p).core k).spk = (s.core k).spk :=
  foldl_keeps (fun t : State => (t.core k).spk) (fun t j => t.proceedCore_spk j k) _ s

theorem State.proceedCores_cleared {k : Nat} (die : k < 256) (held : s.partHolds p k = true) : (s.proceedCores p).Cleared k :=
  foldl_reaches (I := fun _ => True) (P := fun t : State => t.Cleared k) (fun _ _ _ => trivial) (fun t _ => t.proceedCore_cleared k)
    (fun t j _ h => t.proceedCore_keeps j h) (List.mem_filter.2 ⟨List.mem_range.2 die, held⟩) trivial

end

theorem State.applyDesc_hub (s : State) (d : Vector W64 8) : (s.applyDesc d).hub = s.hub := by
  refine foldl_keeps State.hub (fun t k => ?_) _ s
  dsimp only
  split <;> rfl

section
variable {s : State} {p : Nat} {q : Part} (found : s.hub.parts.find p = some q)
include found

theorem State.proceedCores_find : (s.proceedCores p).hub.parts.find p = some q := by
  obtain ⟨x, eq⟩ := s.proceedCores_cores p
  rw [eq]
  exact found

/-- With no description to take effect (R352). -/
theorem State.proceed_same (next : q.next = none) : s.proceed p = (s.proceedCores p).setPart p q.switched := by
  have switched := State.modPart_found (State.proceedCores_find found) Part.switched
  rw [← switched]
  simp only [State.proceed, found, next]
  rfl

/-- The partition after a switch that proceeds is swapping and has no miss (R352, R353). -/
theorem State.proceed_swapping : ∃ v, (s.proceed p).hub.parts.find p = some v ∧ v.swapping = true ∧ v.cmiss = 0 := by
  cases next : q.next with
  | none =>
    rw [State.proceed_same found next]
    exact ⟨_, State.setPart_find .., rfl, rfl⟩
  | some d =>
    have switched := State.modPart_found (State.proceedCores_find found) Part.switched
    have described := State.modPart_found (State.setPart_find (s.proceedCores p) p q.switched) fun q => { q with desc := d, next := none }
    have eq : s.proceed p = (((s.proceedCores p).modPart p Part.switched).modPart p fun q => { q with desc := d, next := none }).applyDesc d := by
      simp only [State.proceed, found, next]
      rfl
    rw [eq, State.applyDesc_hub, switched, described]
    exact ⟨_, State.setPart_find .., rfl, rfl⟩

end

end Sys2Proof.Machine
end

section
/-! SUPPORT. Pages that move between the tiers, and working sets that are noted (R176, R354). -/

namespace Sys2Proof.Machine

/-! ### Memory without a range, and a range copied over it -/

/-- Memory without some of its places. -/
theorem Memory.readL_filter (p : Nat → Bool) {l : List Host.Cell} {lo : Nat} (h : Memory.wfL lo l = true) (a : Nat) :
    Memory.readL (l.filter fun c => p c.1) a = if p a then Memory.readL l a else Memory.unlisted := by
  induction l generalizing lo with
  | nil => simp [Memory.readL]
  | cons c r ih =>
    obtain ⟨k, b⟩ := c
    have wf := h
    simp only [Memory.wfL, Bool.and_eq_true, decide_eq_true_eq] at h
    obtain ⟨⟨_, _⟩, rest⟩ := h
    have below : a ≤ k → Memory.readL r a = Memory.unlisted := fun le => Memory.readL_below rest (Nat.lt_succ_of_le le)
    by_cases kept : p k = true
    · simp only [List.filter_cons, kept, if_true, Memory.readL, ih rest]
      by_cases here : k = a
      · subst here
        simp [kept]
      · by_cases low : a < k <;> simp [here, low]
    · simp only [List.filter_cons, kept, Bool.false_eq_true, if_false, ih rest, Memory.readL]
      by_cases here : k = a
      · subst here
        simp [kept]
      · by_cases low : a < k
        · simp [here, low, below (Nat.le_of_lt low)]
        · simp [here, low]

/-- A range that becomes zero reads as no byte, and the rest of memory as before (R14). -/
theorem State.zeroRange_read {s : State} (wf : s.mem.wf = true) (l n a : Nat) :
    (s.zeroRange l n).mem.read a = if a < l ∨ l + n ≤ a then s.mem.read a else Memory.unlisted := by
  have read := Memory.readL_filter (fun a => decide (a < l) || decide (l + n ≤ a)) wf a
  rw [Memory.read, State.zeroRange, read, Memory.read]
  by_cases out : a < l ∨ l + n ≤ a <;> simp [out]

/-- The cells of a range, copied. -/
def copyCells (src dst n : Nat) (l : List Host.Cell) (m : Memory) : Memory :=
  (l.filter fun c => decide (src ≤ c.1) && decide (c.1 < src + n)).foldl (fun (m : Memory) (c : Host.Cell) => m.write (dst + (c.1 - src)) c.2) m

theorem State.copyRange_eq (s : State) (src dst n : Nat) : s.copyRange src dst n = { s with mem := copyCells src dst n s.mem.cells s.mem } := by
  have fold (l : List Host.Cell) (s : State) : l.foldl (fun (s : State) c => { s with mem := s.mem.write (dst + (c.1 - src)) c.2 }) s =
      { s with mem := l.foldl (fun (m : Memory) c => m.write (dst + (c.1 - src)) c.2) s.mem } := by
    induction l generalizing s with
    | nil => rfl
    | cons c r ih => exact ih _
  exact fold _ s

theorem copyCells_wf {m : Memory} (wf : m.wf = true) (src dst n : Nat) (l : List Host.Cell) : (copyCells src dst n l m).wf = true :=
  Memory.foldl_write_wf _ (fun _ _ h => Memory.write_wf h ..) _ wf

/-- A byte of the copy: the source's, where it has one (R14). -/
theorem copyCells_read {l : List Host.Cell} {lo : Nat} (h : Memory.wfL lo l = true) {m : Memory} (wf : m.wf = true) (src dst : Nat) {n i : Nat} (hi : i < n) :
    (copyCells src dst n l m).read (dst + i) =
      if Memory.readL l (src + i) = Memory.unlisted then m.read (dst + i) else Memory.readL l (src + i) := by
  induction l generalizing lo m with
  | nil => rfl
  | cons c r ih =>
    obtain ⟨k, b⟩ := c
    simp only [Memory.wfL, Bool.and_eq_true, decide_eq_true_eq, bne_iff_ne, ne_eq] at h
    obtain ⟨⟨_, byte⟩, rest⟩ := h
    have below : src + i ≤ k → Memory.readL r (src + i) = Memory.unlisted := fun le => Memory.readL_below rest (Nat.lt_succ_of_le le)
    by_cases inside : src ≤ k ∧ k < src + n
    · have step : copyCells src dst n ((k, b) :: r) m = copyCells src dst n r (m.write (dst + (k - src)) b) := by
        simp only [copyCells, List.filter_cons, inside, decide_true, Bool.and_self, if_true, List.foldl_cons]
      rw [step, ih rest (Memory.write_wf wf ..), Memory.read_write wf, Memory.readL]
      by_cases here : k = src + i
      · simp [below (Nat.le_of_eq here.symm), here, byte]
      · have place : ¬i = k - src := by omega
        by_cases low : src + i < k
        · simp [here, low, place, below (Nat.le_of_lt low)]
        · simp [here, low, place]
    · have step : copyCells src dst n ((k, b) :: r) m = copyCells src dst n r m := by
        have out : (decide (src ≤ k) && decide (k < src + n)) = false := by simpa using inside
        simp only [copyCells, List.filter_cons, out, Bool.false_eq_true, if_false]
      have here : ¬k = src + i := fun same => inside ⟨by omega, by omega⟩
      rw [step, ih rest wf, Memory.readL, if_neg here]
      by_cases low : src + i < k
      · simp [low, below (Nat.le_of_lt low)]
      · simp [low]

theorem copyCells_other (src : Nat) {dst n a : Nat} (l : List Host.Cell) {m : Memory} (wf : m.wf = true) (out : a < dst ∨ dst + n ≤ a) :
    (copyCells src dst n l m).read a = m.read a := by
  refine List.foldlRecOn _ _ (motive := fun t : Memory => t.wf = true ∧ t.read a = m.read a) ⟨wf, rfl⟩ ?_ |>.2
  rintro t ⟨twf, read⟩ c hc
  have place := (List.mem_filter.1 hc).2
  simp only [Bool.and_eq_true, decide_eq_true_eq] at place
  exact ⟨Memory.write_wf twf .., by rw [Memory.read_write twf, if_neg (by omega), read]⟩

/-- A page copied to a place apart from it. -/
def State.movePage (s : State) (src dst n : Nat) : State := (s.zeroRange dst n).copyRange src dst n

section
variable {s : State} (wf : s.mem.wf = true) {src dst n : Nat} (apart : src + n ≤ dst ∨ dst + n ≤ src)
include wf

theorem State.movePage_wf : (s.movePage src dst n).mem.wf = true := by
  rw [State.movePage, State.copyRange_eq]
  exact copyCells_wf (State.zeroRange_wf wf ..) ..

theorem State.movePage_other {a : Nat} (out : a < dst ∨ dst + n ≤ a) : (s.movePage src dst n).mem.read a = s.mem.read a := by
  rw [State.movePage, State.copyRange_eq]
  exact (copyCells_other src _ (State.zeroRange_wf wf ..) out).trans ((State.zeroRange_read wf ..).trans (if_pos out))

include apart

theorem State.movePage_read {i : Nat} (hi : i < n) : (s.movePage src dst n).mem.read (dst + i) = s.mem.read (src + i) := by
  have zero : (s.zeroRange dst n).mem.read (dst + i) = Memory.unlisted := (State.zeroRange_read wf ..).trans (if_neg (by omega))
  have source : Memory.readL (s.zeroRange dst n).mem.cells (src + i) = s.mem.read (src + i) := (State.zeroRange_read wf ..).trans (if_pos (by omega))
  have copied := copyCells_read (State.zeroRange_wf wf dst n) (State.zeroRange_wf wf dst n) src dst hi
  rw [zero, source] at copied
  rw [State.movePage, State.copyRange_eq]
  refine copied.trans ?_
  split
  · next h => exact h.symm
  · rfl

end

theorem State.movePage_clean {s : State} (clean : s.poison = []) (src dst n : Nat) : (s.movePage src dst n).poison = [] := by
  rw [State.movePage, State.copyRange_eq]
  show s.poison.filter _ = []
  rw [clean]
  rfl

theorem State.movePage_dies (s : State) (src dst n : Nat) : (s.movePage src dst n).dies = s.dies := by
  rw [State.movePage, State.copyRange_eq]
  rfl

/-- The leaf entry of a page that has moved up (R354). -/
def movedEntry (e dst : Nat) : Nat := e / 2 ^ 54 * 2 ^ 54 + dst + e % 2 ^ 16 - e / 512 % 2 * 512

/-- It names the new place, and MV is clear. -/
theorem movedEntry_eq {e dst : Nat} (he : e < 2 ^ 64) (hd : dst < 2 ^ 42) :
    movedEntry e dst % 2 ^ 64 = e / 2 ^ 54 * 2 ^ 54 + dst + e % 2 ^ 9 + e / 2 ^ 10 % 2 ^ 6 * 2 ^ 10 := by
  unfold movedEntry
  omega

/-- What keeps locations follows a page that has moved (R176). -/
def State.followMove (s : State) (d : Nat) (f : Nat → Nat) : State :=
  ({ s with ctxs := ⟨s.ctxs.l.map fun (p : Nat × Ctx) => (p.1, p.2.moved f)⟩
            saved := ⟨s.saved.l.map fun (p : Nat × Saved) => (p.1, { p.2 with ctx := p.2.ctx.moved f })⟩ } : State).modDie d fun x =>
    { x with flags := x.flags.map fun (i : Incr) => if i.va.isNone then { i with loc := f i.loc } else i }

theorem State.followMove_moves (s : State) (d : Nat) (f : Nat → Nat) : ((s.followMove d f).die d).moves = (s.die d).moves := by
  rw [State.followMove, State.die_modDie, if_pos rfl]
  rfl

theorem State.poison_none {s : State} (clean : s.poison = []) : { s with poison := [] } = s := by
  obtain ⟨⟩ := s
  cases clean
  rfl

/-- The state after a page has moved up. -/
def State.movedUp (s : State) (d : Nat) (m : Move) (r : List Move) : State :=
  let src := memLoc (s.hub.home * 4 + d) m.src
  let dst := memLoc (s.hub.home * 4 + d) m.dst
  (((s.modDie d fun x => { x with moves := r }).movePage src dst m.size).wr m.pte 8 (movedEntry (s.rd m.pte 8) m.dst)).followMove d (movedLoc src dst m.size)

/-- A page that moves up is copied, and its entry names the copy (R176, R354). -/
theorem execPageMoveComplete_up {s : State} {d : Nat} {m : Move} {r : List Move} (queued : (s.die d).moves = m :: r) (up : m.up = true) (clean : s.poison = []) :
    execPageMoveComplete d s = .next (s.movedUp d m r) := by
  have copied : ((s.modDie d fun x => { x with moves := r }).movePage (memLoc (s.hub.home * 4 + d) m.src) (memLoc (s.hub.home * 4 + d) m.dst) m.size).poison = [] :=
    State.movePage_clean (s := s.modDie d fun x => { x with moves := r }) clean ..
  have same := State.poison_none copied
  simp only [State.movePage] at copied same
  simp only [execPageMoveComplete, queued, up, Bool.true_or, if_true, copied, List.filter_nil, List.map_nil, List.foldl_nil, same]
  rfl

theorem State.movedUp_moves (s : State) (d : Nat) (m : Move) (r : List Move) : ((s.movedUp d m r).die d).moves = r := by
  rw [State.movedUp, State.followMove_moves, State.die, State.wr_dies, State.movePage_dies]
  exact congrArg DieSt.moves ((State.die_modDie ..).trans (if_pos rfl))

section
variable {s : State} (clean : s.poison = []) (wf : s.mem.wf = true) {d : Nat} {m : Move} (r : List Move)
include clean wf

theorem State.movedUp_entry (low : m.dst < 2 ^ 42) : (s.movedUp d m r).rd m.pte 8 =
    s.rd m.pte 8 / 2 ^ 54 * 2 ^ 54 + m.dst + s.rd m.pte 8 % 2 ^ 9 + s.rd m.pte 8 / 2 ^ 10 % 2 ^ 6 * 2 ^ 10 :=
  (State.rd_wr (State.movePage_clean (s := s.modDie d fun x => { x with moves := r }) clean ..)
    (State.movePage_wf (s := s.modDie d fun x => { x with moves := r }) wf ..) ..).trans (movedEntry_eq (Memory.readNat_lt ..) low)

/-- Outside the entry memory is as the copy leaves it. -/
theorem State.movedUp_read {l : Nat} (out : l < m.pte ∨ m.pte + 8 ≤ l) : (s.movedUp d m r).mem.read l =
    ((s.modDie d fun x => { x with moves := r }).movePage (memLoc (s.hub.home * 4 + d) m.src) (memLoc (s.hub.home * 4 + d) m.dst) m.size).mem.read l :=
  State.wr_other (State.movePage_clean (s := s.modDie d fun x => { x with moves := r }) clean ..)
    (State.movePage_wf (s := s.modDie d fun x => { x with moves := r }) wf ..) out

theorem State.movedUp_other {l : Nat} (page : l < memLoc (s.hub.home * 4 + d) m.dst ∨ memLoc (s.hub.home * 4 + d) m.dst + m.size ≤ l)
    (entry : l < m.pte ∨ m.pte + 8 ≤ l) : (s.movedUp d m r).mem.read l = s.mem.read l :=
  (State.movedUp_read clean wf r entry).trans (State.movePage_other (s := s.modDie d fun x => { x with moves := r }) wf page)

theorem State.movedUp_page (apart : memLoc (s.hub.home * 4 + d) m.src + m.size ≤ memLoc (s.hub.home * 4 + d) m.dst ∨
      memLoc (s.hub.home * 4 + d) m.dst + m.size ≤ memLoc (s.hub.home * 4 + d) m.src)
    (pte : m.pte + 8 ≤ memLoc (s.hub.home * 4 + d) m.dst ∨ memLoc (s.hub.home * 4 + d) m.dst + m.size ≤ m.pte) {i : Nat} (hi : i < m.size) :
    (s.movedUp d m r).mem.read (memLoc (s.hub.home * 4 + d) m.dst + i) = s.mem.read (memLoc (s.hub.home * 4 + d) m.src + i) :=
  (State.movedUp_read clean wf r (by omega)).trans (State.movePage_read (s := s.modDie d fun x => { x with moves := r }) wf apart hi)

end

/-! ### Working sets -/

theorem State.noteSet_mem (s : State) (vf d : Nat) : ∃ m p, s.noteSet vf d = { s with mem := m, poison := p } := by
  unfold State.noteSet
  refine List.foldlRecOn _ _ (motive := fun t : State => ∃ m p, t = { s with mem := m, poison := p }) ?_ ?_
  · refine List.foldlRecOn _ _ (motive := fun t : State => ∃ m p, t = { s with mem := m, poison := p }) ⟨_, _, rfl⟩ ?_
    rintro t ⟨m, p, rfl⟩ b -
    exact ⟨_, _, rfl⟩
  · rintro t ⟨m, p, rfl⟩ b -
    exact ⟨_, _, rfl⟩

/-- The working sets of several dies (R354). -/
def State.noteSets (s : State) (vf : Nat) (ds : List Nat) : State := ds.foldl (fun (s : State) d => s.noteSet vf d) s

theorem State.noteSets_mem (s : State) (vf : Nat) (ds : List Nat) : ∃ m p, s.noteSets vf ds = { s with mem := m, poison := p } := by
  refine List.foldlRecOn _ _ (motive := fun t : State => ∃ m p, t = { s with mem := m, poison := p }) ⟨_, _, rfl⟩ ?_
  rintro t ⟨m, p, rfl⟩ d -
  obtain ⟨m', p', eq⟩ := State.noteSet_mem { s with mem := m, poison := p } vf d
  rw [eq]
  exact ⟨_, _, rfl⟩

end Sys2Proof.Machine
end

section
/-! SUPPORT. The end of an overrunning operator: every context of the tenant gives its record up, and none takes one (R208, R353). -/

namespace Sys2Proof.Machine

/-- The partitions are as they were, and a context without a record stays without one. -/
def Calm (s t : State) : Prop := t.hub.parts = s.hub.parts ∧ ∀ c, (s.ctx c).phase = .idle → (t.ctx c).phase = .idle

theorem Calm.refl (s : State) : Calm s s := ⟨rfl, fun _ h => h⟩

theorem Calm.trans {s t u : State} (h : Calm s t) (k : Calm t u) : Calm s u := ⟨k.1.trans h.1, fun c idle => k.2 c (h.2 c idle)⟩

theorem Calm.foldl {β : Type} {f : State → β → State} (h : ∀ s b, Calm s (f s b)) (l : List β) (s : State) : Calm s (l.foldl f s) :=
  List.foldlRecOn l f (.refl s) fun t ht b _ => ht.trans (h t b)

/-- A step that leaves the partitions and the contexts alone. -/
theorem Calm.apart {s t : State} (parts : t.hub.parts = s.hub.parts) (ctxs : t.ctxs = s.ctxs) : Calm s t :=
  ⟨parts, fun c h => by rwa [State.ctx, ctxs]⟩

theorem Calm.ite {s t u : State} (p : Prop) [Decidable p] (h : Calm s t) (k : Calm s u) : Calm s (if p then t else u) := by
  split
  · exact h
  · exact k

/-! ### Contexts -/

theorem State.modCtx_calm (s : State) (c : Nat) {f : Ctx → Ctx} (h : ∀ x, (f x).phase = x.phase) : Calm s (s.modCtx c f) := by
  refine ⟨rfl, fun d idle => ?_⟩
  rw [State.ctx_modCtx]
  split
  · next same =>
    rw [h, ← same]
    exact idle
  · exact idle

/-- Contexts that are each changed in place, but for their phases. -/
theorem Calm.map {s t : State} (parts : t.hub.parts = s.hub.parts) {f : Nat × Ctx → Nat × Ctx} (key : ∀ p, (f p).1 = p.1) (phase : ∀ p, (f p).2.phase = p.2.phase)
    (ctxs : t.ctxs = ⟨s.ctxs.l.map f⟩) : Calm s t := by
  have same (l : List (Nat × Ctx)) (c : Nat) : ((Table.mk (l.map f)).get c Ctx.idle).phase = ((Table.mk l).get c Ctx.idle).phase := by
    unfold Table.get Table.find
    induction l with
    | nil => rfl
    | cons p r ih =>
      by_cases here : p.1 = c
      · simp [Table.findL, key, here, phase]
      · simpa [Table.findL, key, here] using ih
  refine ⟨parts, fun c idle => ?_⟩
  rw [State.ctx, ctxs, same]
  exact idle

theorem State.storeBytes_calm (s : State) (bs : List (Nat × Byte)) : Calm s (s.storeBytes bs) := Calm.map rfl (fun _ => by rfl) (fun _ => by rfl) rfl

theorem State.wr_calm (s : State) (l n v : Nat) : Calm s (s.wr l n v) := State.storeBytes_calm ..

theorem State.touch_calm (s : State) (ptes : List Nat) (w : Bool) : Calm s (s.touch ptes w) := .apart rfl rfl

theorem State.watchHome_calm (s : State) (bit vf owner : Nat) (own : Option (Nat × List Nat)) (vas : List Nat) (src : W64) :
    Calm s (s.watchHome bit vf owner own vas src) := by
  have note (x : Ctx) (a : Nat) : (x.noteWatch s.now a src).phase = x.phase := by
    unfold Ctx.noteWatch
    split <;> rfl
  refine Calm.map rfl (fun p => ?_) (fun p => ?_) rfl
  · dsimp only
    split
    · split <;> rfl
    · rfl
  · dsimp only
    split
    · split
      · exact note ..
      · rfl
    · rfl

theorem State.deliver_calm (s : State) (c seq : Nat) (val : Wide) (psn : W64) : Calm s (s.deliver c seq val psn) := s.modCtx_calm c fun _ => by rfl

/-! ### Records that end -/

theorem State.recWrite_calm (s : State) (vf addr i v : Nat) : Calm s (s.recWrite vf addr i v) := by
  unfold State.recWrite
  split
  · exact (s.touch_calm ..).trans (State.wr_calm ..)
  · exact .refl s

theorem State.recFault_calm (s : State) (vf addr cause : Nat) : Calm s (s.recFault vf addr cause) := State.recWrite_calm ..

theorem State.pushIncr_calm (s : State) (va vf : Nat) (ctx : Option (Nat × Nat)) (copy : Option Nat) : Calm s (s.pushIncr va vf ctx copy) := .apart rfl rfl

theorem State.pushIncrAt_calm (s : State) (loc vf : Nat) (ctx : Nat × Nat) : Calm s (s.pushIncrAt loc vf ctx) := .apart rfl rfl

theorem State.jcbCount_calm (s : State) (l vf : Nat) (fault : Bool) : Calm s (s.jcbCount l vf fault) := by
  have counted (e d : Nat) : Calm s (if fault then (s.wr l 8 e).wr (l + 8) 8 d else s.wr l 8 e) :=
    .ite _ ((State.wr_calm ..).trans (State.wr_calm ..)) (State.wr_calm ..)
  unfold State.jcbCount
  dsimp only
  refine .ite _ (.ite _ ?_ ?_) (counted ..)
  · exact ((counted ..).trans (State.wr_calm ..)).trans (State.pushIncr_calm ..)
  · exact (counted ..).trans (State.wr_calm ..)

theorem State.jcbDrop_calm (s : State) (l : Nat) : Calm s (s.jcbDrop l) := State.wr_calm ..

theorem State.jcbFaultOnly_calm (s : State) (l : Nat) : Calm s (s.jcbFaultOnly l) := State.wr_calm ..

theorem State.countFault_calm (s : State) (vf : Nat) (jcb : BitVec 48) (posted : Bool) : Calm s (s.countFault vf jcb posted) := by
  unfold State.countFault
  split
  · exact .refl s
  · split
    · exact .refl s
    · exact .ite _ (.refl s) (.ite _ ((s.touch_calm ..).trans (State.jcbFaultOnly_calm ..)) ((s.touch_calm ..).trans (State.jcbCount_calm ..)))

theorem State.postRec_calm (s : State) (cl : Nat) (r : CRec) : Calm s (s.postRec cl r) := by
  unfold State.postRec State.enterRec
  exact .ite _ (.ite _ (.apart rfl rfl) (.apart rfl rfl)) (.apart rfl rfl)

theorem State.postFault_calm (s : State) (cl ctx addr vf : Nat) : Calm s (s.postFault cl ctx addr vf) := State.postRec_calm ..

theorem State.vacate_calm (s : State) (c : Nat) : Calm s (s.vacate c) := by
  refine ⟨rfl, fun d idle => ?_⟩
  by_cases same : d = c
  · subst same
    exact s.vacate_phase d
  · have kept : (s.vacate c).ctx d = s.ctx d := by
      simp only [State.vacate, State.ctx_modCore, State.ctx_modCtx, if_neg same]
      rfl
    rw [kept]
    exact idle

/-- A record that ends before its context gives it up. -/
def State.endRecord (s : State) (c cause : Nat) (post : Bool) : State :=
  let x := s.ctx c
  let t := (s.recWrite x.vf x.rcd 7 (withState (x.words.toList.getD 7 0).toNat 5 cause)).countFault x.vf x.jcb x.posted
  if post then t.postFault (clusterOf (coreOf c)) c x.rcd x.vf else t

theorem State.endFault_eq (s : State) (c cause : Nat) (post : Bool) : s.endFault c cause post = (s.endRecord c cause post).vacate c := rfl

theorem State.endRecord_calm (s : State) (c cause : Nat) (post : Bool) : Calm s (s.endRecord c cause post) := by
  unfold State.endRecord
  dsimp only
  have counted (v : Nat) (b : Bool) : Calm s ((s.recWrite (s.ctx c).vf (s.ctx c).rcd 7 v).countFault (s.ctx c).vf (s.ctx c).jcb b) :=
    (s.recWrite_calm ..).trans (State.countFault_calm ..)
  split
  · exact (counted ..).trans (State.postFault_calm ..)
  · exact counted ..

theorem State.endFault_calm (s : State) (c cause : Nat) (post : Bool) : Calm s (s.endFault c cause post) := by
  rw [State.endFault_eq]
  exact (s.endRecord_calm c cause post).trans (State.vacate_calm ..)

theorem State.endFault_idle (s : State) (c cause : Nat) (post : Bool) : ((s.endFault c cause post).ctx c).phase = .idle := State.vacate_phase ..

/-- An EVICTED record that ends before its run returns to the pool. -/
def State.evictedFault (s : State) (cl : Nat) (r : RecRef) (sv : SaveRef) (cause : Nat) (post : Bool) : State :=
  let posted := match s.saved.find sv.unit with
    | some v => v.ctx.posted
    | none => false
  let t := (s.recFault r.vf r.addr cause).countFault r.vf (BitVec.ofNat 48 ((s.recRead r.vf r.addr 1).getD 0)) posted
  if post then t.postFault cl (sv.core * 4) r.addr r.vf else t

theorem State.evictedFault_calm (s : State) (cl : Nat) (r : RecRef) (sv : SaveRef) (cause : Nat) (post : Bool) : Calm s (s.evictedFault cl r sv cause post) := by
  unfold State.evictedFault
  dsimp only
  have counted (j : BitVec 48) (b : Bool) : Calm s ((s.recFault r.vf r.addr cause).countFault r.vf j b) := (s.recFault_calm ..).trans (State.countFault_calm ..)
  split
  · exact (counted ..).trans (State.postFault_calm ..)
  · exact counted ..

theorem State.endEvicted_calm (s : State) (cl : Nat) (r : RecRef) (cause : Nat) (post : Bool) : Calm s (s.endEvicted cl r cause post) := by
  cases evicted : r.evicted with
  | none =>
    simp only [State.endEvicted, evicted]
    exact .refl s
  | some sv =>
    have ended : s.endEvicted cl r cause post = { (s.evictedFault cl r sv cause post).modCluster cl fun q => { q with ready := q.ready.erase r } with
        saved := (s.evictedFault cl r sv cause post).saved.del sv.unit } := by
      simp only [State.endEvicted, evicted]
      rfl
    rw [ended]
    exact (s.evictedFault_calm cl r sv cause post).trans (.apart rfl rfl)

/-! ### Queues that perform -/

theorem State.doRmw_calm (s : State) (c l : Nat) (op : Rmw) : Calm s (s.doRmw c l op).1 := by
  cases op with
  | atom v b =>
    simp only [State.doRmw]
    split
    · exact .refl s
    · exact State.wr_calm ..
  | stver e d =>
    simp only [State.doRmw]
    split
    · exact .refl s
    · dsimp only
      split
      · exact (State.wr_calm ..).trans (State.wr_calm ..)
      · exact .refl s
  | barm n =>
    simp only [State.doRmw]
    split
    · exact .refl s
    · exact State.wr_calm ..
  | nextt n wd =>
    simp only [State.doRmw]
    split
    · exact .refl s
    · exact State.wr_calm ..
  | post own =>
    simp only [State.doRmw]
    split
    · exact .refl s
    · split
      · exact State.jcbDrop_calm ..
      · exact .ite _ ((State.jcbCount_calm ..).trans (State.modCtx_calm _ _ fun _ => by rfl)) (State.jcbCount_calm ..)
  | raise own k =>
    simp only [State.doRmw]
    split
    · exact .refl s
    · split
      · exact (State.jcbDrop_calm ..).trans (State.modCtx_calm _ _ fun _ => by rfl)
      · exact State.wr_calm ..

theorem State.performHead_calm (s : State) (c : Nat) : Calm s (s.performHead c) := by
  unfold State.performHead
  split
  · exact .refl s
  · next e rest _ =>
    have taken : Calm s (s.modCtx c fun x => { x with lsq := rest, lsqDone := x.lsqDone + 1 }) := s.modCtx_calm c fun _ => by rfl
    dsimp only
    split
    · split
      · exact taken
      · exact taken.trans (State.deliver_calm ..)
    · split
      · exact (taken.trans (State.touch_calm ..)).trans (State.storeBytes_calm ..)
      · exact ((taken.trans (State.touch_calm ..)).trans (State.doRmw_calm ..)).trans (State.deliver_calm ..)

theorem drainLsqL_calm (c n : Nat) (s : State) : Calm s (drainLsqL c n s) := by
  induction n generalizing s with
  | zero => exact .refl s
  | succ n ih => exact (s.performHead_calm c).trans (ih _)

theorem State.serialise_calm (s : State) (k : Nat) : Calm s (s.serialise k) := Calm.foldl (fun _ _ => drainLsqL_calm ..) _ s

theorem State.modRout_calm (s : State) (c id : Nat) (f : REntry → REntry) : Calm s (s.modRout c id f) := s.modCtx_calm c fun _ => by rfl

theorem State.remoteDone_calm (s : State) (c id : Nat) (v : Wide × W64) : Calm s (s.remoteDone c id v) := State.modRout_calm ..

theorem State.remoteFail_calm (s : State) (c id va arm : Nat) : Calm s (s.remoteFail c id va arm) :=
  (Calm.ite _ (.refl s) (s.modCtx_calm c fun _ => by rfl)).trans (State.remoteDone_calm ..)

theorem State.remotePerform_calm (s : State) (c : Nat) (r : REntry) (l : Nat) (ptes : List Nat) : Calm s (s.remotePerform c r l ptes) := by
  have touched := s.touch_calm ptes (decide (r.op.acc ≠ .rd))
  unfold State.remotePerform
  dsimp only
  split
  · exact touched.trans (State.remoteDone_calm ..)
  · exact (touched.trans (State.storeBytes_calm ..)).trans (State.remoteDone_calm ..)
  · split
    · exact touched
    · exact (((touched.trans (State.storeBytes_calm ..)).trans (State.touch_calm ..)).trans (State.pushIncrAt_calm ..)).trans (State.modRout_calm ..)
  · refine Calm.trans ?_ (State.remoteDone_calm ..)
    split
    · exact .ite _ ((touched.trans (State.doRmw_calm ..)).trans (State.watchHome_calm ..)) (touched.trans (State.doRmw_calm ..))
    · exact touched.trans (State.doRmw_calm ..)

theorem State.sendEntry_calm (s : State) (c : Nat) (r : REntry) : Calm s (s.sendEntry c r) := by
  unfold State.sendEntry
  dsimp only
  refine .ite _ (.refl s) (.ite _ (State.remoteFail_calm ..) (.ite _ (State.remoteDone_calm ..) (.ite _ ?_ ?_)))
  · exact (s.modCtx_calm c fun _ => by rfl).trans (State.remoteDone_calm ..)
  · split
    · exact State.remoteFail_calm ..
    · exact .ite _ (.refl s) (.ite _ (State.remoteFail_calm ..) (State.remotePerform_calm ..))

theorem State.flushRout_calm (s : State) (c : Nat) : Calm s (s.flushRout c) :=
  (Calm.foldl (fun t _ => t.sendEntry_calm c _) _ s).trans (State.modCtx_calm _ c fun _ => by rfl)

theorem Positions.calm {s t : State} (h : Positions s t) : Calm s t := .apart h.parts h.ctxs

/-! ### The operator -/

/-- The tenant's contexts of a partition that hold records. -/
def State.tenantCtxs (s : State) (p : Nat) (q : Part) : List Nat := (s.partCtxs p).filter fun c => decide (q.tenant = some (s.ctx c).vf)

/-- After the records of the tenant's contexts have ended, all that follows is calm (R353). -/
theorem State.endOperator_calm (s : State) (p : Nat) (q : Part) :
    Calm ((s.tenantCtxs p q).foldl (fun (s : State) c => s.endFault c cPREEMPT true) s) (s.endOperator p q) := by
  unfold State.endOperator
  dsimp only
  have evicted (t : State) (l : List (Nat × RecRef)) := Calm.foldl (fun (s : State) (r : Nat × RecRef) => s.endEvicted_calm r.1 r.2 cPREEMPT true) l t
  have core (t : State) (k : Nat) : Calm t ([0, 1, 2, 3].foldl (fun (s : State) i => s.flushRout (k * 4 + i)) (t.serialise k)) :=
    (t.serialise_calm k).trans (Calm.foldl (fun (s : State) i => s.flushRout_calm (k * 4 + i)) _ _)
  split
  · exact ((evicted _ _).trans (Calm.foldl core _ _)).trans (Calm.foldl (fun (s : State) d => (s.savePosition_positions p _ d).calm) _ _)
  · exact (evicted _ _).trans (Calm.foldl core _ _)

theorem State.endOperator_parts (s : State) (p : Nat) (q : Part) : (s.endOperator p q).hub.parts = s.hub.parts :=
  (s.endOperator_calm p q).1.trans (Calm.foldl (fun (t : State) c => t.endFault_calm c cPREEMPT true) _ s).1

/-- A context that holds a record is listed. -/
theorem State.mem_partCtxs {s : State} {p c : Nat} (die : coreOf c < 256) (held : s.partHolds p (coreOf c) = true) (busy : (s.ctx c).phase ≠ .idle) : c ∈ s.partCtxs p := by
  have listed (l : List (Nat × Ctx)) (h : ((Table.mk l).get c Ctx.idle).phase ≠ .idle) : ∃ x, (c, x) ∈ l ∧ x.phase ≠ .idle := by
    unfold Table.get Table.find at h
    induction l with
    | nil => exact absurd rfl h
    | cons a r ih =>
      obtain ⟨k, x⟩ := a
      by_cases here : k = c
      · subst here
        exact ⟨x, by simp, by simpa [Table.findL] using h⟩
      · obtain ⟨y, hy, phase⟩ := ih (by simpa [Table.findL, here] using h)
        exact ⟨y, List.mem_cons_of_mem _ hy, phase⟩
  have compute : isSeq (coreOf c) = false := by
    rw [isSeq]
    exact decide_eq_false (Nat.not_le.2 die)
  obtain ⟨x, hx, phase⟩ := listed s.ctxs.l busy
  exact List.mem_map.2 ⟨(c, x), List.mem_filter.2 ⟨hx, by simp [phase, compute, held]⟩, rfl⟩

/-- No context of the tenant holds a record any more (R353). -/
theorem State.endOperator_idle {s : State} {p c : Nat} {q : Part} (die : coreOf c < 256) (held : s.partHolds p (coreOf c) = true)
    (tenant : q.tenant = some (s.ctx c).vf) : ((s.endOperator p q).ctx c).phase = .idle := by
  refine (s.endOperator_calm p q).2 c ?_
  by_cases idle : (s.ctx c).phase = .idle
  · exact (Calm.foldl (fun (t : State) d => t.endFault_calm d cPREEMPT true) _ s).2 c idle
  · have listed : c ∈ s.tenantCtxs p q := List.mem_filter.2 ⟨State.mem_partCtxs die held idle, decide_eq_true tenant⟩
    exact foldl_reaches (f := fun (t : State) d => t.endFault d cPREEMPT true) (I := fun _ => True) (P := fun t : State => (t.ctx c).phase = .idle)
      (fun _ _ _ => trivial) (fun t _ => t.endFault_idle c cPREEMPT true)
      (fun t d _ h => (t.endFault_calm d cPREEMPT true).2 c h) listed trivial

end Sys2Proof.Machine
end

section
/-! SUPPORT. The events of a switch, one lemma for each outcome (R349, R352 to R356). -/

namespace Sys2Proof.Machine

/-- The working set of the tenant, where there is one (R354). -/
def State.noteTenant (s : State) (p : Nat) (q : Part) : State :=
  match q.tenant with
  | some vf => s.noteSets vf (s.diesOf p)
  | none => s

theorem State.noteTenant_mem (s : State) (p : Nat) (q : Part) : ∃ m ps, s.noteTenant p q = { s with mem := m, poison := ps } := by
  unfold State.noteTenant
  split
  · exact State.noteSets_mem ..
  · exact ⟨_, _, rfl⟩

/-- The working set of the outgoing tenant, where there is one (R354). -/
def State.noteOutgoing (s : State) (d : Nat) (q : Part) : State :=
  match q.outgoing with
  | some vf => s.noteSet vf d
  | none => s

section
variable {s : State} {p : Nat} {q : Part} (found : s.hub.parts.find p = some q)
include found

/-! ### Ticks -/

section
variable (quiet : q.tick = none) (still : q.swapping = false) (runs : s.ringRuns = true)
include quiet still runs

theorem execSwitchTick_early (early : s.ftb < q.sliceStart + ticksOf (q.desc[0].toNat % 2 ^ 32)) : execSwitchTick p s = .next s := by
  simp only [execSwitchTick, found, quiet, still, runs, Option.isSome_none, Bool.not_true, Bool.or_self, Bool.false_or]
  rw [decide_eq_true early]
  rfl

variable (due : q.sliceStart + ticksOf (q.desc[0].toNat % 2 ^ 32) ≤ s.ftb)
include due

theorem execSwitchTick_due : execSwitchTick p s = .next (if q.incoming.isSome || q.next.isSome then s.modPart p fun q => { q with tick := some s.ftb, saved := 0 }
    else (s.noteTenant p q).modPart p fun q => { q with sliceStart := s.ftb }) := by
  simp only [execSwitchTick, found, quiet, still, runs, Option.isSome_none, Bool.not_true, Bool.or_self, Bool.false_or]
  rw [decide_eq_false (Nat.not_lt.2 due)]
  rfl

/-- With a switch or a replacement asked for, admission and pick-up stop (R352). -/
theorem execSwitchTick_stops (asked : q.incoming ≠ none ∨ q.next ≠ none) : execSwitchTick p s = .next (s.setPart p { q with tick := some s.ftb, saved := 0 }) := by
  have either : (q.incoming.isSome || q.next.isSome) = true := by
    simpa [Option.isSome_iff_ne_none] using asked
  rw [execSwitchTick_due found quiet still runs due, if_pos either, State.modPart_found found]

/-- With nothing asked for the tenant keeps its place (R354). -/
theorem execSwitchTick_notes (incoming : q.incoming = none) (next : q.next = none) :
    execSwitchTick p s = .next ((s.noteTenant p q).setPart p { q with sliceStart := s.ftb }) := by
  have none_asked : ¬(q.incoming.isSome || q.next.isSome) = true := by simp [incoming, next]
  have kept : (s.noteTenant p q).hub.parts.find p = some q := by
    obtain ⟨m, ps, noted⟩ := s.noteTenant_mem p q
    rw [noted]
    exact found
  rw [execSwitchTick_due found quiet still runs due, if_neg none_asked, State.modPart_found kept]

end

theorem execSwitchTick_held (held : s.ringRuns = false) : execSwitchTick p s = .next s := by
  simp only [execSwitchTick, found, held, Bool.not_false, Bool.or_true, Bool.true_or, if_true]

/-! ### Boundaries -/

section
variable {t d : Nat} (tick : q.tick = some t)
include tick

theorem execOperatorBoundarySave_waits (waits : s.atBoundary p d = false ∨ s.ringRuns = false) : execOperatorBoundarySave p d s = .next s := by
  simp only [execOperatorBoundarySave, found, tick]
  rcases waits with h | h <;> simp only [h, Bool.not_false, Bool.or_true, Bool.true_or, if_true]

/-- The position of the tenant, where there is one (R352). -/
def State.saveTenant (s : State) (p d : Nat) (q : Part) : State :=
  match q.tenant with
  | some vf => s.savePosition p vf d
  | none => s

omit found tick in
theorem State.saveTenant_positions (s : State) (p d : Nat) (q : Part) : Positions s (s.saveTenant p d q) := by
  unfold State.saveTenant
  split
  · exact State.savePosition_positions ..
  · exact .refl s

/-- A die that stands at its boundary saves, and the last one in time lets the switch proceed (R352). -/
theorem execOperatorBoundarySave_saves (die : d < 4) (fresh : q.saved.getLsbD d = false) (at_ : s.atBoundary p d = true) (runs : s.ringRuns = true) :
    let saved := (s.saveTenant p d q).setPart p { q with saved := putBit q.saved d true }
    execOperatorBoundarySave p d s = .next (if (s.diesOf p).all (fun e => (putBit q.saved d true).getLsbD e) && decide (s.ftb ≤ t + ticksOf (q.desc[1].toNat / 2 ^ 32))
      then saved.proceed p else saved) := by
  have kept : (s.saveTenant p d q).hub.parts.find p = some q := by rw [(s.saveTenant_positions p d q).parts, found]
  rw [← State.modPart_found kept fun q' => { q' with saved := putBit q.saved d true }]
  simp only [execOperatorBoundarySave, found, tick, fresh, at_, runs, Nat.not_le.2 die, decide_false, Bool.not_true, Bool.or_self, Bool.false_eq_true, if_false]
  rfl

/-! ### Deadlines -/

/-- A switch that is abandoned: the tenant takes its saved positions up again (R352). -/
def State.resumeTenant (s : State) (q : Part) : State :=
  match q.tenant with
  | some vf => ((List.range 4).filter fun d => q.saved.getLsbD d).foldl (fun (s : State) d => s.restorePosition vf d) s
  | none => s

omit found tick in
theorem State.resumeTenant_positions (s : State) (q : Part) : Positions s (s.resumeTenant q) := by
  unfold State.resumeTenant
  split
  · exact Positions.foldl (fun t d => t.restorePosition_positions _ d) _ s
  · exact .refl s

omit found tick in
/-- No die has saved. -/
theorem State.resumeTenant_none (s : State) {q : Part} (none_saved : q.saved = 0) : s.resumeTenant q = s := by
  unfold State.resumeTenant
  split
  · rw [none_saved]
    rfl
  · rfl

omit tick in
theorem State.resumeTenant_find : (s.resumeTenant q).hub.parts.find p = some q := by rw [(s.resumeTenant_positions q).parts, found]

omit tick in
theorem State.abandon_eq (t : Nat) : s.abandon p t q = (s.resumeTenant q).setPart p { q with tick := none, saved := 0, sliceStart := t } :=
  State.modPart_found (State.resumeTenant_find found) fun q => { q with tick := none, saved := 0, sliceStart := t }

theorem execSaveDeadlineExpiry_early (early : s.ftb < t + ticksOf (q.desc[1].toNat / 2 ^ 32)) : execSaveDeadlineExpiry p s = .next s := by
  simp only [execSaveDeadlineExpiry, found, tick]
  rw [if_pos early]

variable (late : t + ticksOf (q.desc[1].toNat / 2 ^ 32) ≤ s.ftb)
include late

/-- While a hart is in reset no overrun counts (R349). -/
theorem execSaveDeadlineExpiry_held (held : s.ringRuns = false) :
    execSaveDeadlineExpiry p s = .next ((s.resumeTenant q).setPart p { q with tick := none, saved := 0, sliceStart := t }) := by
  simp only [execSaveDeadlineExpiry, found, tick, held, Bool.not_false, if_true]
  rw [if_neg (Nat.not_lt.2 late), State.abandon_eq found]

variable (runs : s.ringRuns = true)
include runs

theorem execSaveDeadlineExpiry_misses (few : q.cmiss < 2) : execSaveDeadlineExpiry p s =
    .next ((s.resumeTenant q).setPart p { q with tick := none, saved := 0, overrun := q.overrun + 1, cmiss := q.cmiss + 1, sliceStart := t }) := by
  simp only [execSaveDeadlineExpiry, found, tick, runs, few, Bool.not_true, Bool.false_eq_true, if_false, if_true]
  rw [if_neg (Nat.not_lt.2 late), State.abandon_eq found, State.modPart_found (State.setPart_find ..), State.setPart_setPart]

theorem execSaveDeadlineExpiry_ends (many : 2 ≤ q.cmiss) : execSaveDeadlineExpiry p s = .next ((s.endOperator p q).proceed p) := by
  simp only [execSaveDeadlineExpiry, found, tick, runs, Nat.not_lt.2 many, Bool.not_true, Bool.false_eq_true, if_false]
  rw [if_neg (Nat.not_lt.2 late)]

end

/-! ### The tier engine -/

theorem execTierSwap_still (still : q.swapping = false) (d : Nat) : execTierSwap p d s = .next s := by
  simp only [execTierSwap, found, still, Bool.not_false, Bool.true_or, if_true]

section
variable {d : Nat} (swaps : q.swapping = true) (die : d < 4) (going : q.upDone.getLsbD d = false)
include swaps die going

theorem execTierSwap_notes (fresh : q.noted.getLsbD d = false) : execTierSwap p d s =
    .next ((s.setPart p { q with noted := putBit q.noted d true }).noteOutgoing d q) := by
  simp only [execTierSwap, found, swaps, going, fresh, Nat.not_le.2 die, decide_false, Bool.not_true, Bool.not_false, Bool.or_self, Bool.false_eq_true, if_false, if_true,
    State.modPart_found found]
  rfl

/-- A tenant that stays has no page to move (R354). -/
theorem execTierSwap_stays (noted : q.noted.getLsbD d = true) (same : q.outgoing = q.tenant) (idle : (s.die d).moves = []) :
    execTierSwap p d s = .next (s.setPart p { q with upDone := putBit q.upDone d true }) := by
  rw [← State.modPart_found found fun q => { q with upDone := putBit q.upDone d true }]
  simp only [execTierSwap, found, swaps, going, noted, same, Nat.not_le.2 die, decide_false, decide_true, Bool.not_true, Bool.or_self, Bool.false_eq_true, if_false, if_true]
  cases q.tenant <;> simp [idle]

end

/-! ### Gates -/

theorem execResidencyGateOpen_waits (waits : q.swapping = false ∨ s.ringRuns = false) (d : Nat) : execResidencyGateOpen p d s = .next s := by
  simp only [execResidencyGateOpen, found]
  rcases waits with h | h <;> simp only [h, Bool.not_false, Bool.or_true, Bool.true_or, if_true]

section
variable (swaps : q.swapping = true) (runs : s.ringRuns = true)
include swaps runs

/-- Every gate is open and every up-swap has ended: the switch is over (R352). -/
theorem execResidencyGateOpen_ends (over_ : ∀ e ∈ s.diesOf p, q.gates.getLsbD e = true ∧ q.upDone.getLsbD e = true) (d : Nat) :
    execResidencyGateOpen p d s = .next (s.setPart p { q with swapping := false, outgoing := none }) := by
  have done : (s.diesOf p).all (fun e => q.gates.getLsbD e && q.upDone.getLsbD e) = true :=
    List.all_eq_true.2 fun e he => Bool.and_eq_true_iff.2 (over_ e he)
  simp only [execResidencyGateOpen, found, swaps, runs, done, Bool.not_true, Bool.or_self, Bool.false_eq_true, if_false, if_true]
  rw [State.modPart_found found]

variable {vf d : Nat} (die : d < 4) (held : d ∈ s.diesOf p) (closed : q.gates.getLsbD d = false) (noted : q.noted.getLsbD d = true)
  (going : q.upDone.getLsbD d = false) (tenant : q.tenant = some vf)
include die held closed noted going tenant

theorem execResidencyGateOpen_far (far : s.resident vf d = false) : execResidencyGateOpen p d s = .next s := by
  have under_way : (s.diesOf p).all (fun e => q.gates.getLsbD e && q.upDone.getLsbD e) = false :=
    List.all_eq_false.2 ⟨d, held, by simp [closed]⟩
  simp only [execResidencyGateOpen, found, swaps, runs, under_way, closed, noted, going, tenant, far, Nat.not_le.2 die, decide_false, Bool.not_true, Bool.not_false, Bool.or_self,
    Bool.false_eq_true, if_false, if_true]

variable (near : s.resident vf d = true)
include near

/-- A gate opens, the positions restored; the last one starts the slice (R352, R356). -/
theorem execResidencyGateOpen_opens :
    let opened := (s.restorePosition vf d).setPart p { q with gates := putBit q.gates d true }
    let last := (s.diesOf p).all fun e => (putBit q.gates d true).getLsbD e
    execResidencyGateOpen p d s = .next (if last && q.cmdWaits
      then (opened.setPart p { q with gates := putBit q.gates d true, sliceStart := s.ftb, cmdWaits := false }).completeCmd stOK
      else if last then opened.setPart p { q with gates := putBit q.gates d true, sliceStart := s.ftb } else opened) := by
  intro opened last
  have under_way : (s.diesOf p).all (fun e => q.gates.getLsbD e && q.upDone.getLsbD e) = false :=
    List.all_eq_false.2 ⟨d, held, by simp [closed]⟩
  have kept : (s.restorePosition vf d).hub.parts.find p = some q := (congrArg (Table.find · p) (s.restorePosition_positions vf d).parts).trans found
  have there : opened.hub.parts.find p = some { q with gates := putBit q.gates d true } := State.setPart_find ..
  rw [← State.modPart_found there fun r => { r with sliceStart := s.ftb }, ← State.modPart_found there fun r => { r with sliceStart := s.ftb, cmdWaits := false }]
  simp only [opened]
  rw [← State.modPart_found kept fun r => { r with gates := putBit q.gates d true }]
  simp only [execResidencyGateOpen, found, swaps, runs, under_way, closed, noted, going, tenant, near, last, Nat.not_le.2 die, decide_false, Bool.not_true, Bool.or_self, Bool.or_true,
    Bool.false_eq_true, if_false]

end

end

end Sys2Proof.Machine
end

section
open Sys2Proof Sys2Proof.Machine

/-- Settles O60: each clause is one outcome of an event of a switch. -/
theorem tenancyEvents : Obligations.TenancyEvents := by
  refine ⟨fun s p q found quiet still runs => ⟨fun early => ?_, fun due asked => ?_, fun due incoming next => ?_⟩, fun s p q found held => ?_,
    fun s p d t q found tick die fresh => ⟨fun waits => ?_, fun at_ runs => ⟨fun all in_time => ?_, fun some_ => ?_⟩⟩, fun s p vf d cl v vfs listed => ?_,
    fun s vf d cl v g vfs listed graph => ?_, fun s p q found next => ?_,
    fun s p t q found tick => ⟨fun early => ?_, fun late runs few => ?_, fun late held => ?_, fun late runs many => ?_⟩,
    fun s p d q found => ⟨fun still => ?_, fun swaps die going fresh => ⟨fun absent => ?_, fun vf outgoing => ?_⟩, fun swaps die going noted same idle => ?_⟩,
    fun s d idle => ?_, fun s d m r queued up clean wf apart pte _ _ => ?_,
    fun s p d q found => ⟨fun waits => ?_, fun swaps runs ends => ?_, fun vf swaps runs die held closed noted going tenant => ⟨fun far => ?_, fun near some_ => ?_, fun near all => ?_⟩⟩⟩
  -- ticks
  · exact execSwitchTick_early found quiet still runs early
  · exact execSwitchTick_stops found quiet still runs due asked
  · obtain ⟨m, ps, noted⟩ := s.noteTenant_mem p q
    refine ⟨_, execSwitchTick_notes found quiet still runs due incoming next, State.setPart_find .., ?_, fun absent => ?_, fun vf tenant => ?_⟩
    · show (s.noteTenant p q).ctxs = s.ctxs
      rw [noted]
    · show (s.noteTenant p q).mem = s.mem
      rw [State.noteTenant, absent]
    · show (s.noteTenant p q).mem = (s.noteSets vf (s.diesOf p)).mem
      rw [State.noteTenant, tenant]
  · exact execSwitchTick_held found held
  -- boundaries
  · exact execOperatorBoundarySave_waits found tick waits
  · have every : (s.diesOf p).all (fun e => (putBit q.saved d true).getLsbD e) = true := List.all_eq_true.2 all
    refine (execOperatorBoundarySave_saves found tick die fresh at_ runs).trans ?_
    rw [every, decide_eq_true in_time]
    rfl
  · obtain ⟨e, he, unsaved⟩ := some_
    have not_every : (s.diesOf p).all (fun e => (putBit q.saved d true).getLsbD e) = false := List.all_eq_false.2 ⟨e, he, by simp [unsaved]⟩
    refine (execOperatorBoundarySave_saves found tick die fresh at_ runs).trans ?_
    rw [not_every]
    rfl
  -- positions
  · have kept := s.savePosition_positions p vf d
    obtain ⟨⟨u, hu, desc, saved⟩, left⟩ := State.saveCluster_foldl (p := p) (cl := cl) (clustersOf_nodup d) vfs
    rw [if_pos listed] at saved left
    rw [← State.savePosition_found vfs] at hu left
    exact ⟨⟨u, hu, desc, saved⟩, left, kept.mem, kept.ctxs⟩
  · have taken : (s.restorePosition vf d).cluster cl =
        { s.cluster cl with dep := g.dep ++ (s.cluster cl).dep, ready := g.ready ++ (s.cluster cl).ready, waiting := g.waiting ++ (s.cluster cl).waiting } := by
      rw [State.restorePosition_found vfs, State.modVf_cluster, State.restoreCluster_foldl graph (clustersOf_nodup d), if_pos listed]
    exact ⟨congrArg ClusterSt.dep taken, congrArg ClusterSt.ready taken, congrArg ClusterSt.waiting taken⟩
  -- the switch
  · obtain ⟨x, cores⟩ := s.proceedCores_cores p
    rw [State.proceed_same found next]
    refine ⟨fun k i die held low => ?_, fun k die held => ?_, State.setPart_find .., ?_, ?_⟩
    · exact (s.proceedCores_cleared p die held).barred i low
    · have cleared := s.proceedCores_cleared p die held
      exact ⟨cleared.banks, cleared.latch, cleared.versions, s.proceedCores_spk p k⟩
    · show (s.proceedCores p).mem = s.mem
      rw [cores]
    · show (s.proceedCores p).ctxs = s.ctxs
      rw [cores]
  -- deadlines
  · exact execSaveDeadlineExpiry_early found tick early
  · have kept := s.resumeTenant_positions q
    refine ⟨_, execSaveDeadlineExpiry_misses found tick late runs few, kept.mem, kept.ctxs, fun none_saved => ?_, State.setPart_find ..⟩
    show (s.resumeTenant q).clusters = s.clusters
    rw [s.resumeTenant_none none_saved]
  · have kept := s.resumeTenant_positions q
    exact ⟨_, execSaveDeadlineExpiry_held found tick late held, kept.mem, kept.ctxs, State.setPart_find ..⟩
  · have kept : (s.endOperator p q).hub.parts.find p = some q := by rw [s.endOperator_parts p q, found]
    refine ⟨_, execSaveDeadlineExpiry_ends found tick late runs many, State.proceed_swapping kept, fun c die held tenant next => ?_⟩
    obtain ⟨x, cores⟩ := (s.endOperator p q).proceedCores_cores p
    have ctxs : ((s.endOperator p q).proceed p).ctx c = (s.endOperator p q).ctx c := by
      rw [State.proceed_same kept next, cores]
      rfl
    rw [ctxs]
    exact State.endOperator_idle die held tenant
  -- tiers
  · exact execTierSwap_still found still d
  · refine (execTierSwap_notes found swaps die going fresh).trans ?_
    rw [State.noteOutgoing, absent]
    rfl
  · refine (execTierSwap_notes found swaps die going fresh).trans ?_
    rw [State.noteOutgoing, outgoing]
    rfl
  · exact execTierSwap_stays found swaps die going noted same idle
  · show execPageMoveComplete d s = _
    simp only [execPageMoveComplete, idle]
  · exact ⟨_, execPageMoveComplete_up queued up clean, s.movedUp_moves d m r, fun i hi => State.movedUp_page clean wf r apart pte hi,
      fun l page entry => State.movedUp_other clean wf r page entry, fun low _ => State.movedUp_entry clean wf r low⟩
  -- gates
  · exact execResidencyGateOpen_waits found waits d
  · exact execResidencyGateOpen_ends found swaps runs ends d
  · exact execResidencyGateOpen_far found swaps runs die held closed noted going tenant far
  · obtain ⟨e, he, shut⟩ := some_
    have not_last : (s.diesOf p).all (fun e => (putBit q.gates d true).getLsbD e) = false := List.all_eq_false.2 ⟨e, he, by simp [shut]⟩
    refine (execResidencyGateOpen_opens found swaps runs die held closed noted going tenant near).trans ?_
    rw [not_last]
    rfl
  · have last : (s.diesOf p).all (fun e => (putBit q.gates d true).getLsbD e) = true := List.all_eq_true.2 all
    have kept := s.restorePosition_positions vf d
    have step := execResidencyGateOpen_opens found swaps runs die held closed noted going tenant near
    rw [last] at step
    cases waits : q.cmdWaits with
    | true =>
      rw [waits] at step
      refine ⟨_, step, ⟨_, State.setPart_find .., rfl, rfl, tenant⟩, fun _ => ⟨congrArg (· + 1) kept.cmdCi, rfl⟩, fun other => nomatch other⟩
    | false =>
      rw [waits] at step
      refine ⟨_, step, ⟨_, State.setPart_find .., rfl, rfl, tenant⟩, fun other => (nomatch other), fun _ => kept.cmdCi⟩
end

section
/-! SUPPORT. The slots that load: their elements, and what their issue leaves (R182, R185, R427, R428, R457). -/

namespace Sys2Proof.Machine

/-! ### Elements -/

/-- A 256-byte access has its lanes for elements where it is local, and its lines where it is remote (R427). -/
theorem State.vElems_eq (s : State) (ea : Nat) : s.env.vElems ea = if s.isLocal (coreOf s.cur) ea then
    ((List.range 64).filter fun l => s.env.on l).map fun l => (⟨ea + 4 * l, 4, 4 * l⟩ : Elem)
    else ((List.range 4).filter fun i => (List.range 16).any fun l => s.env.on (16 * i + l)).map fun i => (⟨ea + 64 * i, 64, 64 * i⟩ : Elem) := by
  have remote : s.env.isRemote ea = !s.isLocal (coreOf s.cur) ea := rfl
  rw [Env.vElems, remote]
  cases s.isLocal (coreOf s.cur) ea <;> rfl

/-- The forms of a gather by lane: their element sizes, and the unit of their indices (R428). -/
theorem gatherForm_lanes : ∀ v : BitVec 4, v.toNat < 4 → gatherForm v.toNat = ([4, 4, 2, 1].getD v.toNat 4, if v = 1 then 4 else 1, false) := by
  decide

/-- The two y forms of a gather (R428). -/
theorem gatherForm_y {v : BitVec 4} (hv : v = 8 ∨ v = 9) : gatherForm v.toNat = (if v = 8 then 8 else 4, 1, true) := by
  rcases hv with rfl | rfl <;> rfl

section
variable (e : Env) {v n u : Nat} (a : W64) (b : Opnd)

theorem Env.gElems_lanes (form : gatherForm v = (n, u, false)) : e.gElems v a b =
    ((List.range 64).filter fun l => e.on l).map fun l => ⟨(a + BitVec.ofNat 64 u * (b.lane l).setWidth 64).toNat, n, 4 * l⟩ := by
  rw [Env.gElems, form]
  rfl

theorem Env.gElems_y (form : gatherForm v = (n, u, true)) : e.gElems v a b = if e.on 0 then [⟨(a + b.d).toNat, n, 0⟩] else [] := by
  rw [Env.gElems, form]
  rfl

end

/-! ### Gathers -/

section
variable {s : State} (h : s.Issuing) (o : R3) {v : BitVec 4} {n u : Nat}
include h

/-- LDG by lane (R428). -/
theorem issue_ldg_lanes (form : gatherForm v.toNat = (n, u, false)) : exec (.ldg o v) s = .next (s.env.load .v o.d
    (s.env.gElems v.toNat (s.mA o.a o.ha).d (s.mB .v o.b o.hb)) 10 false false (s.filled [s.mA o.a o.ha, s.mB .v o.b o.hb])) := by
  have y : (gatherForm v.toNat).2.2 = false := by rw [form]
  refine (issue_checked (slotLdg o v) s h.checked).trans ?_
  simp only [slotLdg, y, Bool.false_and, Bool.false_eq_true, if_false, Env.loadSlot, finish_eff _ _ _ _ h.cond]
  rfl

/-- The y form of LDG, by lane 0 (R428). -/
theorem issue_ldg_y (form : gatherForm v.toNat = (n, u, true)) : exec (.ldg o v) s = .next (if s.env.on 0 then s.env.load .y o.d
    (s.env.gElems v.toNat (s.mA o.a o.ha).d (s.mB .x o.b o.hb)) 10 false false (s.filled [s.mA o.a o.ha, s.mB .x o.b o.hb])
    else s.filled [s.mA o.a o.ha, s.mB .x o.b o.hb]) := by
  have y : (gatherForm v.toNat).2.2 = true := by rw [form]
  refine (issue_checked (slotLdg o v) s h.checked).trans ?_
  simp only [slotLdg, y, Bool.true_and, if_true]
  cases s.env.on 0
  · simp only [Bool.not_false, if_true, finish_eff _ _ _ _ h.cond]
    rfl
  · simp only [Bool.not_true, Bool.false_eq_true, if_false, if_true, Env.loadSlot, finish_eff _ _ _ _ h.cond]
    rfl

end

end Sys2Proof.Machine
end

section
open Sys2Proof Sys2Proof.Machine

/-- Settles O28: each load by its elements, and a gather by its form. -/
theorem loadsIssue : Obligations.LoadsIssue := by
  refine fun s h => ⟨fun o z => ⟨issue_finish (slotLd o z) h rfl, issue_finish (slotRld o z) h rfl⟩, fun o => ?_,
    fun o v => ⟨fun lanes => ?_, fun y on => ?_, fun y off => ?_⟩⟩
  · refine (issue_finish (slotLdv o) h rfl).trans ?_
    rw [State.vElems_eq]
    rfl
  · rw [issue_ldg_lanes h o (gatherForm_lanes v lanes), Env.gElems_lanes _ _ _ (gatherForm_lanes v lanes)]
  · rw [issue_ldg_y h o (gatherForm_y y), if_pos on, Env.gElems_y _ _ _ (gatherForm_y y), if_pos on]
  · rw [issue_ldg_y h o (gatherForm_y y), off, if_neg Bool.false_ne_true]
end

section
/-! SUPPORT. The slots that store: the entries that they put in the queues (R182, R193, R207, R294, R459, R465, R466). -/

namespace Sys2Proof.Machine

/-! ### Elements in the queues -/

/-- The entry of LSQ(c) that stores an element of a register at its home location; none where the element is not at home. -/
def State.homeStore (s : State) (v : Wide) (l : Elem) : Option LEntry :=
  match s.route s.cur l.va .wr with
  | .loc a p => some (mkL (.store (regBytes v l a)) 0 p)
  | _ => none

/-- The entry of ROUT(c) that stores an element of a register at its address. -/
def State.farStore (s : State) (v : Wide) (l : Elem) : REntry := s.env.mkR (.store (regBytes v l l.va)) 0

/-- An element that is not local has no home location of its own (R181). -/
theorem State.homeStore_far {s : State} {l : Elem} (far : s.env.isRemote l.va = true) (v : Wide) : s.homeStore v l = none := by
  unfold State.homeStore
  split
  · next a p home =>
    have near : s.isLocal (coreOf s.cur) l.va = true := State.isLocal_of_route home
    rw [Env.isRemote, Bool.not_eq_true', show s.env.s.isLocal s.env.k l.va = true from near] at far
    cases far
  · rfl

/-- The elements with a home location are among the local ones. -/
theorem State.filterMap_homeStore (s : State) (v : Wide) (els : List Elem) :
    (els.filter fun l => !s.env.isRemote l.va).filterMap (s.homeStore v) = els.filterMap (s.homeStore v) := by
  rw [List.filterMap_filter]
  refine List.filterMap_congr fun l _ => ?_
  cases far : s.env.isRemote l.va
  · rfl
  · exact (State.homeStore_far far v).symm

/-- The bytes that an entry of LSQ(c) stores. -/
def LEntry.bytes (n : LEntry) : List (Nat × Byte) :=
  match n.op with
  | .store bs => bs
  | _ => []

section
variable {s : State} {sl : Slot} {ops : List Opnd} {psn : List (W64 × Nat)} {v : Wide} {els : List Elem} {keys : List (File × Nat)} (h : s.Issuing)
include h

/-- A slot that stores elements puts the local ones in LSQ(c) and the remote ones in ROUT(c), each in an entry of its own (R465, R466). -/
theorem issue_store (i : State → Slot) (hi : i s = s.env.storeSlot sl ops psn v els els false keys) : issue i s =
    .next ((s.filled ops).enterMem s.cur (els.filterMap (s.homeStore v)) ((els.filter fun l => !s.isLocal (coreOf s.cur) l.va).map (s.farStore v))) := by
  refine (issue_finish i h hi).trans ?_
  rw [← State.filterMap_homeStore]
  rfl

/-- Elements at home that enter LSQ(c) as one entry (R465). -/
theorem issue_store_merged (i : State → Slot) (hi : i s = s.env.storeSlot sl ops psn v els els true keys) {home : Elem → Nat} {ps : List Nat}
    (route : ∀ l ∈ els, s.route s.cur l.va .wr = .loc (home l) ps) : issue i s = .next ((s.filled ops).enterMem s.cur
      (if els.isEmpty then [] else [mkL (.store (els.flatMap fun l => regBytes v l (home l))) 0 (els.flatMap fun _ => ps)]) []) := by
  have near : ∀ l ∈ els, s.env.isRemote l.va = false := fun l hl => by
    simpa [Env.isRemote, State.env] using State.isLocal_of_route (route l hl)
  have loc : (els.filter fun l => !s.env.isRemote l.va) = els := List.filter_eq_self.2 fun l hl => by rw [near l hl]; rfl
  have rem : (els.filter fun l => s.env.isRemote l.va) = [] := List.filter_eq_nil_iff.2 fun l hl => by rw [near l hl]; decide
  have entries : els.filterMap (s.homeStore v) = els.map fun l => mkL (.store (regBytes v l (home l))) 0 ps := by
    rw [← List.filterMap_eq_map]
    exact List.filterMap_congr fun l hl => by rw [State.homeStore, route l hl]; rfl
  have ptes : s.env.ptesOf .wr els = els.flatMap fun _ => ps := List.flatMap_congr fun l hl => by
    rw [show s.env.s.route s.env.c l.va .wr = .loc (home l) ps from route l hl]
  refine (issue_finish i h hi).trans ?_
  show Host.Outcome.next ((s.filled ops).enterMem s.cur
    (if ((els.filter fun l => !s.env.isRemote l.va).filterMap (s.homeStore v)).isEmpty then [] else
      [mkL (.store (((els.filter fun l => !s.env.isRemote l.va).filterMap (s.homeStore v)).flatMap LEntry.bytes)) 0
        (s.env.ptesOf .wr (els.filter fun l => !s.env.isRemote l.va))])
    ((els.filter fun l => s.env.isRemote l.va).map (s.farStore v))) = _
  rw [loc, rem, entries, ptes, List.isEmpty_map, List.flatMap_map]
  rfl

end

/-! ### STV -/

/-- The enabled lanes of a 256-byte access. -/
def State.lanesOn (s : State) : List Nat := (List.range 64).filter fun i => s.env.on i

/-- A lane of a 256-byte access. -/
def vLane (ea i : Nat) : Elem := ⟨ea + 4 * i, 4, 4 * i⟩

/-- The remote stores of STV, one for each line with an enabled lane (R465). -/
def State.lineStores (s : State) (v : Wide) (ea : Nat) : List REntry :=
  ((List.range 4).map fun j => ((s.lanesOn.map (vLane ea)).filter fun l => decide (l.off / 64 = j)).flatMap fun l => regBytes v l l.va).filterMap
    fun bs => if bs.isEmpty then none else some (s.env.mkR (.store bs) 0)

/-- The same by the numbers of the lanes. -/
theorem State.lineStores_eq (s : State) (v : Wide) (ea : Nat) : s.lineStores v ea =
    ((List.range 4).map fun j => (s.lanesOn.filter fun i => decide (4 * i / 64 = j)).flatMap fun i => regBytes v (vLane ea i) (ea + 4 * i)).filterMap
      fun bs => if bs.isEmpty then none else some (s.env.mkR (.store bs) 0) := by
  simp only [State.lineStores, List.filter_map, List.flatMap_map]
  rfl

/-- With a lane enabled there is a line to store. -/
theorem State.lineStores_ne_nil {s : State} {i : Nat} (hi : i < 64) (on : s.env.on i = true) (v : Wide) (ea : Nat) : s.lineStores v ea ≠ [] := by
  rw [State.lineStores_eq]
  intro none
  have line := List.filterMap_eq_nil_iff.1 none _ (List.mem_map.2 ⟨4 * i / 64, List.mem_range.2 (by omega), rfl⟩)
  have byte : (ea + 4 * i + 0, v.extractLsb' (8 * (4 * i + 0)) 8) ∈
      (s.lanesOn.filter fun k => decide (4 * k / 64 = 4 * i / 64)).flatMap fun k => regBytes v (vLane ea k) (ea + 4 * k) :=
    List.mem_flatMap.2 ⟨i, List.mem_filter.2 ⟨List.mem_filter.2 ⟨List.mem_range.2 hi, on⟩, decide_eq_true rfl⟩,
      List.mem_map.2 ⟨0, List.mem_range.2 (by decide : 0 < 4), rfl⟩⟩
  have filled := List.isEmpty_eq_false_iff.2 (List.ne_nil_of_mem byte)
  rw [filled] at line
  cases line

/-- The address of a 256-byte store. -/
def State.stvVa (s : State) (o : MO) : Nat := ((s.mA o.base o.ha).d + s.env.ofs8 o.ofs * 256).toNat

section
variable {s : State} (h : s.Issuing) (o : MO)
include h

/-- STV at home is one entry (R465). -/
theorem issue_stv_home {l : Nat} {ps : List Nat} (route : ∀ i, i < 64 → s.route s.cur (s.stvVa o + 4 * i) .wr = .loc (l + 4 * i) ps) :
    exec (.stv o) s = .next ((s.filled [s.mA o.base o.ha, s.env.reg .v o.d]).enterMem s.cur (if s.lanesOn.isEmpty then [] else
      [mkL (.store (s.lanesOn.flatMap fun i => regBytes (s.env.reg .v o.d).val (vLane (s.stvVa o) i) (l + 4 * i))) 0 (s.lanesOn.flatMap fun _ => ps)]) []) := by
  have near : s.env.isRemote (s.stvVa o) = false := by
    simpa [Env.isRemote, State.env] using State.isLocal_of_route (route 0 (by decide))
  have lanes : ∀ e ∈ s.lanesOn.map (vLane (s.stvVa o)), s.route s.cur e.va .wr = .loc (l + e.off) ps := by
    intro e he
    obtain ⟨i, hi, rfl⟩ := List.mem_map.1 he
    exact route i (List.mem_range.1 (List.mem_of_mem_filter hi))
  refine (issue_store_merged h (slotStv o) ((if_neg ?_).trans rfl) lanes).trans ?_
  · change ¬(s.env.isRemote (s.stvVa o) && _ && _) = true
    rw [near, Bool.false_and, Bool.false_and]
    exact Bool.false_ne_true
  · rw [List.isEmpty_map, List.flatMap_map, List.flatMap_map]
    rfl

/-- STV from afar is one remote store a line (R465). -/
theorem issue_stv_far (far : s.isLocal (coreOf s.cur) (s.stvVa o) = false) (some_ : s.lineStores (s.env.reg .v o.d).val (s.stvVa o) ≠ []) :
    exec (.stv o) s = .next ((s.filled [s.mA o.base o.ha]).enterMem s.cur [] (s.lineStores (s.env.reg .v o.d).val (s.stvVa o))) := by
  have remote : s.env.isRemote (s.stvVa o) = true := by simpa [Env.isRemote, State.env] using far
  have lines : (s.env.isRemote (s.stvVa o) && s.env.cond && !(s.lineStores (s.env.reg .v o.d).val (s.stvVa o)).isEmpty) = true := by
    rw [remote, h.cond, List.isEmpty_eq_false_iff.2 some_]
    rfl
  refine (issue_checked (slotStv o) s h.checked).trans ?_
  rw [State.filled, List.flatMap_singleton]
  exact congrArg (fun sl : Slot => Host.Outcome.next (sl.eff s)) (if_pos lines)

end

/-! ### RST -/

/-- RST is one remote store with its flag (R193, R459). -/
theorem issue_rst {s : State} (h : s.Issuing) (o : R3) (v : BitVec 4) :
    let a := s.mA o.a o.ha
    let b := s.mB .x o.b o.hb
    let d := s.env.reg (if v = 4 then .v else .x) o.d
    exec (.rst o v) s = .next ((s.filled [a, b, d]).enterMem s.cur [] [s.env.mkR (.rst (regBytes d.val ⟨a.d.toNat, if v = 4 then 256 else 2 ^ v.toNat, 0⟩ a.d.toNat)
      ((a.d &&& 0x003FFC0000000000) ||| (b.d &&& 0xFFC003FFFFFFFFFF)).toNat) 0]) := by
  intro a b d
  refine (issue_finish (slotRst o v) h rfl).trans ?_
  simp only [decide_eq_true_eq]
  rfl

/-! ### The queues -/

section
variable (s : State) (c : Nat)

theorem State.enterMem_local {ls : List LEntry} (some_ : ls ≠ []) (sure : (s.ctx c).preds = []) :
    s.enterMem c ls [] = s.modCtx c fun x => { x with lsq := x.lsq ++ ls } := by
  simp only [State.enterMem, State.modCtx, List.isEmpty_eq_false_iff.2 some_, sure, List.isEmpty_nil, Bool.false_and, Bool.false_eq_true, if_false, if_true]
  rfl

theorem State.enterMem_remote (r : REntry) (sure : (s.ctx c).preds = []) :
    s.enterMem c [] [r] = s.modCtx c fun x => { x with rout := x.rout ++ [{ r with id := x.nextSeq }], nextSeq := x.nextSeq + 1 } := by
  simp only [State.enterMem, State.modCtx, sure, List.isEmpty_nil, List.isEmpty_cons, Bool.and_false, Bool.false_eq_true, if_false, if_true, List.append_nil]
  rfl

theorem State.enterMem_predicted {ls : List LEntry} {rs : List REntry} (some_ : ls ≠ [] ∨ rs ≠ []) (open_ : (s.ctx c).preds ≠ []) :
    s.enterMem c ls rs = s.modCtx c fun x => { x with basket := x.basket ++ [(x.preds.length, .mem ls rs)] } := by
  have not_none : (ls.isEmpty && rs.isEmpty) = false := by
    rcases some_ with l | r
    · rw [List.isEmpty_eq_false_iff.2 l, Bool.false_and]
    · rw [List.isEmpty_eq_false_iff.2 r, Bool.and_false]
  simp only [State.enterMem, State.modCtx, not_none, List.isEmpty_eq_false_iff.2 open_, Bool.false_eq_true, if_false]

end

end Sys2Proof.Machine
end

section
open Sys2Proof Sys2Proof.Machine

/-- Settles O30: each store by its elements and their entries, and the queues by what enters them. -/
theorem storesIssue : Obligations.StoresIssue := by
  refine ⟨fun s h => ⟨fun o z => issue_store h (slotSt o z) rfl, fun o v => issue_store h (slotStg o v) rfl, fun o l ps => ?_, fun o => ?_, fun o v => ?_⟩,
    fun s c ls some_ sure => s.enterMem_local c some_ sure, fun s c r sure => s.enterMem_remote c r sure,
    fun s c ls rs some_ open_ => s.enterMem_predicted c some_ open_, fun s c => rfl⟩
  · intro a d ea on route
    have stv := issue_stv_home h o route
    refine ⟨fun none => ?_, fun some_ => ?_⟩
    · rw [stv, show s.lanesOn = [] from none]
      rfl
    · rw [stv, List.isEmpty_eq_false_iff.2 (show s.lanesOn ≠ [] from some_)]
      rfl
  · rintro a d ea line far ⟨i, hi, on⟩
    rw [issue_stv_far h o far (State.lineStores_ne_nil hi on _ _), State.lineStores_eq]
    rfl
  · intro a b d fl
    rw [issue_rst h o v]
    simp only [regBytes, Nat.zero_add]
    rfl
end

section
/-! SUPPORT. The slots that read, modify and write: the result that they put in flight and the entry that they put in a queue (R181, R183, R185, R392 to
R394, R456, R467). -/

namespace Sys2Proof.Machine

theorem wide64_zero : wide64 0 = 0 := BitVec.setWidth_zero ..

/-- A result of variable latency that holds nothing yet. -/
theorem State.later_zero (s : State) (d : BitVec 5) (lat pad need : Nat) : s.later d lat pad need 0 = s.env.varRes .x d lat pad need := by
  rw [State.later, wide64_zero]
  rfl

section
variable (s : State) (ops : List Opnd) (d : BitVec 5) (pad : Nat)

/-- Where a read-modify-write begins: its operands are taken, and its result, should it have one, is in flight with one part to return (R74, R276). -/
def State.rmwBegun (res : Bool) : State := if res then s.gives ops (s.later d 12 pad 1 0) else s.filled ops

/-- The number under which a read-modify-write returns its value; 0 when it returns none. -/
def State.rmwSeq (res : Bool) : Nat := if res then (s.ctx s.cur).nextSeq else 0

theorem State.rmwBegun_eq (res : Bool) : s.rmwBegun ops d pad res =
    if res then (s.filled ops).modCtx s.cur fun x => x.push (s.env.varRes .x d 12 pad 1) else s.filled ops := by
  rw [State.rmwBegun, State.later_zero]
  rfl

end

section
variable {s : State} {sl : Slot} {addr : Opnd} {ops : List Opnd} {psn : List (W64 × Nat)} {va : W64} {op : Rmw} {d : BitVec 5} {pad : Nat} {res always : Bool}
  (h : s.Issuing) (i : State → Slot) (hi : i s = s.env.rmwSlot sl addr ops psn va op d pad res always)
include h hi

/-- A remote read-modify-write enters ROUT(c) (R185). -/
theorem issue_rmw_far (far : always = true ∨ s.isLocal (coreOf s.cur) va.toNat = false) : issue i s =
    .next ((s.rmwBegun ops d 1600 res).enterMem s.cur [] [s.env.mkR (.rmw va.toNat op) (s.rmwSeq res)]) := by
  have remote : (always || s.env.isRemote va.toNat) = true := by
    rcases far with rfl | far
    · rfl
    · rw [Env.isRemote, show s.env.s.isLocal s.env.k va.toNat = false from far]
      exact Bool.or_true _
  refine (issue_finish i h hi).trans ?_
  simp only [remote, if_true, State.rmwBegun_eq, State.rmwSeq, ← State.filled_nextSeq s ops]
  rfl

/-- A read-modify-write at a home location of its own enters LSQ(c) (R183). -/
theorem issue_rmw_home {l : Nat} {ps : List Nat} (may : always = false) (route : s.route s.cur va.toNat .rw = .loc l ps) : issue i s =
    .next ((s.rmwBegun ops d pad res).enterMem s.cur [mkL (.rmw l op) (s.rmwSeq res) ps] []) := by
  have here : (always || s.env.isRemote va.toNat) = false := by
    rw [may, Bool.false_or]
    simpa [Env.isRemote, State.env] using State.isLocal_of_route route
  refine (issue_finish i h hi).trans ?_
  simp only [here, Bool.false_eq_true, if_false, show s.env.s.route s.env.c va.toNat .rw = .loc l ps from route, State.rmwBegun_eq, State.rmwSeq,
    ← State.filled_nextSeq s ops]
  rfl

end

end Sys2Proof.Machine
end

section
open Sys2Proof Sys2Proof.Machine

/-- Settles O31: each of the slots by where its location lies. -/
theorem atomicsIssue : Obligations.AtomicsIssue := by
  intro s o h a b d seq r far
  exact ⟨fun v => ⟨fun l ps home => issue_rmw_home h (slotAtom o v) rfl rfl home, fun away => issue_rmw_far h (slotAtom o v) rfl (.inr away),
      issue_rmw_far h (slotRatom o v) rfl (.inl rfl)⟩,
    fun l ps home => issue_rmw_home h (slotStver o) rfl rfl home, fun away => issue_rmw_far h (slotStver o) rfl (.inr away),
    fun l ps home => issue_rmw_home h (slotBarm ⟨o.a, o.b, o.ha, o.hb⟩) rfl rfl home,
    fun away => issue_rmw_far h (slotBarm ⟨o.a, o.b, o.ha, o.hb⟩) rfl (.inr away)⟩
end

section
/-! SUPPORT. What holds DRAIN, FENCER and CWAIT, and what they leave (R195 to R198, R412, R416, R421). -/

namespace Sys2Proof.Machine

theorem Slot.finish_kill {sl : Slot} {e : Env} {ops : List Opnd} {psn : List (W64 × Nat)} (h : e.cond = true) : (sl.finish e ops psn).kill = sl.kill := by
  unfold Slot.finish
  simp only [h, if_true]

/-- A hold of its own stands exactly while what it waits for is not there. -/
theorem ite_hold_none {b : Bool} {k : HoldKind} (hk : k ≠ .none) : (if b then HoldKind.none else k) = .none ↔ b = true := by
  cases b <;> simp [hk]

section
variable {s : State} (h : s.Issuing) (sure : (s.ctx s.cur).preds = [])
include h sure

/-- DRAIN waits for ROUT(c) (R196). -/
theorem slotDrain_hold : (slotDrain s).hold = if (s.ctx s.cur).rout.isEmpty then .none else .interlock := by
  have preds : (!s.env.x.preds.isEmpty) = false := by simp [State.env, sure]
  refine (Slot.finish_hold _ _ _ _ h.cond).trans ?_
  rw [preds]
  rfl

/-! ### FENCER -/

/-- Does FENCER name a die or a package of the job? -/
def State.fenceJob (s : State) (v : BitVec 4) (owner : Nat) : Bool :=
  if v = 4 then s.hub.membership.any fun m => decide (m / 4 = owner / 4) else s.hub.membership.contains owner

/-- Has the padding of FENCER on a deterministic queue passed (R421)? -/
def State.fencePadded (s : State) : Bool :=
  !(s.ctx s.cur).det || match (s.ctx s.cur).fence with
    | some t => decide (t + 1600 ≤ s.now)
    | none => false

omit h sure in
theorem State.fencePadded_iff (det : (s.ctx s.cur).det = true) : s.fencePadded = true ↔ ∃ t, (s.ctx s.cur).fence = some t ∧ t + 1600 ≤ s.now := by
  unfold State.fencePadded
  rw [det]
  cases (s.ctx s.cur).fence <;> simp

/-- FENCER out of the job, or off the package on a deterministic queue (R421). -/
def State.fenceBad (s : State) (v : BitVec 4) (owner : Nat) : Bool :=
  !s.fenceJob v owner || ((s.ctx s.cur).det && !decide (owner / 4 = s.hub.pkg))

omit h sure in
theorem State.fenceBad_iff (v : BitVec 4) (owner : Nat) : s.fenceBad v owner = true ↔
    s.fenceJob v owner = false ∨ ((s.ctx s.cur).det = true ∧ owner / 4 ≠ s.hub.pkg) := by
  simp only [State.fenceBad, Bool.or_eq_true, Bool.not_eq_true', Bool.and_eq_true, decide_eq_false_iff_not, ne_eq]

variable (o : AB) (v : BitVec 4)

theorem slotFencer_hold : (slotFencer o v s).hold = if s.fenceBad v ((s.mA o.a o.ha).d.toNat / 2 ^ 42 % 2 ^ 12) then .none
    else if (s.ctx s.cur).lsq.isEmpty && (s.ctx s.cur).rout.isEmpty && s.fencePadded then .none else .interlock := by
  have preds : (!s.env.x.preds.isEmpty) = false := by simp [State.env, sure]
  refine (Slot.finish_hold _ _ _ _ h.cond).trans ?_
  rw [preds]
  rfl

/-- FENCER waits for both queues, and for its padding (R198, R421). -/
theorem slotFencer_hold_iff (good : ¬s.fenceBad v ((s.mA o.a o.ha).d.toNat / 2 ^ 42 % 2 ^ 12) = true) : (slotFencer o v s).hold = .none ↔
    (s.ctx s.cur).lsq = [] ∧ (s.ctx s.cur).rout = [] ∧ s.fencePadded = true := by
  rw [slotFencer_hold h sure, if_neg good, ite_hold_none (by decide), Bool.and_eq_true, Bool.and_eq_true, List.isEmpty_iff, List.isEmpty_iff, and_assoc]

omit sure in
theorem slotFencer_kill : (slotFencer o v s).kill =
    if s.fenceBad v ((s.mA o.a o.ha).d.toNat / 2 ^ 42 % 2 ^ 12) then some (s.mA o.a o.ha).d else none :=
  Slot.finish_kill h.cond

omit sure in
/-- FENCER performs what the LSQs of the named cores of this package hold (R198). -/
theorem issue_fencer : exec (.fencer o v) s =
    let a := s.mA o.a o.ha
    let b := if v.toNat ≤ 2 then s.mB .x o.b o.hb else Opnd.none
    .next (if a.d.toNat / 2 ^ 42 % 2 ^ 12 / 4 = s.hub.pkg then (s.env.fenced v.toNat a.d b.d).foldl State.serialise (s.filled [a, b]) else s.filled [a, b]) := by
  refine (issue_finish (slotFencer o v) h rfl).trans ?_
  simp only [decide_eq_true_eq]
  rfl

/-! ### CWAIT -/

omit sure in
/-- CWAIT sets the A bits of its translation (R195, R412). -/
theorem issue_cwait (o : AB) {y : Xlat} (path : s.xlatVa (s.ctx s.cur).vf (s.mA o.a o.ha).d.toNat .rd = some y) :
    exec (.cwait o) s = .next ((s.filled [s.mA o.a o.ha, s.mB .x o.b o.hb]).touch y.ptes false) := by
  refine (issue_finish (slotCwait o) h rfl).trans ?_
  rw [show s.env.s.xlatVa s.env.x.vf (s.env.opnd .x o.a o.ha 8).d.toNat .rd = some y from path]
  rfl

omit sure in
/-- A CWAIT that nothing has woken waits for its word (R412). -/
theorem slotCwait_hold (o : AB) {y : Xlat} (path : s.xlatVa (s.ctx s.cur).vf (s.mA o.a o.ha).d.toNat .rd = some y)
    (aligned : (s.mA o.a o.ha).d.toNat % 8 = 0) (mem : s.inScratch (s.mA o.a o.ha).d.toNat = false) (free : (s.ctx s.cur).det = false) (still : y.mv = false)
    (new : (s.ctx s.cur).wait = none) :
    (slotCwait o s).hold = if s.wordReached y.loc (s.mB .x o.b o.hb).d then .none else .engine := by
  have sound : s.env.chkMem (s.env.opnd .x o.a o.ha 8).d 8 = [] := by
    rw [Env.chkMem, show s.env.s.inScratch (s.env.opnd .x o.a o.ha 8).d.toNat = false from mem, if_neg (not_not.2 (show (s.env.opnd .x o.a o.ha 8).d.toNat % 8 = 0 from aligned))]
    rfl
  refine (Slot.finish_hold _ _ _ _ h.cond).trans ?_
  dsimp only
  rw [sound, show s.env.x.det = false from free, show s.env.s.xlatVa s.env.x.vf (s.env.opnd .x o.a o.ha 8).d.toNat .rd = some y from path]
  dsimp only
  rw [still, show s.env.x.wait = none from new]
  rfl

omit h sure in
theorem State.wordReached_iff (l : Nat) (t : W64) : s.wordReached l t = true ↔ s.poisoned l = false ∧ (s.rd64 l - t).toNat < 2 ^ 63 := by
  simp only [State.wordReached, reached, Bool.and_eq_true, Bool.not_eq_true', decide_eq_true_eq]

end

end Sys2Proof.Machine
end

section
open Sys2Proof Sys2Proof.Machine

/-- Settles O33: each slot by its effect and by what it waits for. -/
theorem orderingSlots : Obligations.OrderingSlots := by
  intro s h sure
  refine ⟨issue_finish slotDrain h rfl, issue_finish slotFenceo h rfl, ?_, Slot.finish_hold _ _ _ _ h.cond, fun o v => ?_, fun o y => ?_⟩
  · rw [show (slotOf .drain s).hold = _ from slotDrain_hold h sure]
    cases (s.ctx s.cur).rout <;> simp
  · intro a b owner
    refine ⟨fun here => (issue_fencer h o v).trans (congrArg _ (if_pos here)), fun away => (issue_fencer h o v).trans (congrArg _ (if_neg away)), ?_⟩
    intro inJob
    refine ⟨fun job free => ?_, fun job det here => ?_, fun out => ?_⟩
    · have good : ¬s.fenceBad v owner = true := by
        rw [State.fenceBad_iff, show s.fenceJob v owner = true from job, free]
        simp
      refine (slotFencer_hold_iff h sure o v good).trans ?_
      rw [State.fencePadded, free]
      simp
    · have good : ¬s.fenceBad v owner = true := by
        rw [State.fenceBad_iff, show s.fenceJob v owner = true from job, here]
        simp
      refine (slotFencer_hold_iff h sure o v good).trans ?_
      rw [State.fencePadded_iff det]
    · have bad : s.fenceBad v owner = true := State.fenceBad_iff v owner |>.2 out
      exact ⟨(slotFencer_hold h sure o v).trans (if_pos bad), (slotFencer_kill h o v).trans (if_pos bad)⟩
  · intro a b path
    refine ⟨issue_cwait h o path, fun aligned mem free still new => ?_⟩
    rw [← State.wordReached_iff, show (slotOf (.cwait o) s).hold = _ from slotCwait_hold h o path aligned mem free still new]
    exact ite_hold_none (by decide)
end

section
/-! SUPPORT. Remote operations: sent, performed and completed, and the flag increments (R185 to R187, R193, R300, R332, R409, R458, R459). -/

namespace Sys2Proof.Machine

/-! ### SEND_REMOTE -/

theorem execSendRemote_entry {s : State} {c i : Nat} {r : REntry} (listed : (s.ctx c).rout[i]? = some r) : exec (.sendRemote c i) s = .next (s.sendEntry c r) := by
  show execSendRemote c i s = _
  rw [execSendRemote, listed]

/-- An entry that may be sent: it has not performed, nothing older holds it, and its address is one of the job. -/
structure State.Sendable (s : State) (c : Nat) (r : REntry) : Prop where
  fresh : r.phase = 0
  free : (s.ctx c).mustWait r = false
  inside : s.place r.op.va ≠ .outside

section
variable {s : State} {c : Nat} {r : REntry} (ready : s.Sendable c r)
include ready

/-- An operation on a lost path completes without performing (R300). -/
theorem State.sendEntry_lost (lost : s.pathLost (coreOf c) r.op.va = true) : s.sendEntry c r = s.remoteDone c r.id (deadValue r.op) := by
  have dead (l : Option Nat) : s.deadPath (coreOf c) r.op.va l = true := by simp only [State.deadPath, lost, Bool.true_or]
  simp only [State.sendEntry, ready.fresh, ready.free, ready.inside, dead, ne_eq, not_true_eq_false, decide_false, Bool.or_self, Bool.false_eq_true, if_false, if_true]

/-- An operation whose address does not translate is reported (R458). -/
theorem State.sendEntry_fails (up : s.deadPath (coreOf c) r.op.va none = false) (able : s.lacksCap r.op r.op.va = false)
    (path : s.xlatVa (s.ctx c).vf r.op.va r.op.acc = none) : s.sendEntry c r = s.remoteFail c r.id r.op.va r.arm := by
  simp only [State.sendEntry, ready.fresh, ready.free, ready.inside, path, Option.map_none, up, able, ne_eq, not_true_eq_false, decide_false, Bool.or_self,
    Bool.false_eq_true, if_false]

/-- An operation performs at the home of its address (R185). -/
theorem State.sendEntry_performs {y : Xlat} (up : s.deadPath (coreOf c) r.op.va (some y.loc) = false) (able : s.lacksCap r.op r.op.va = false)
    (path : s.xlatVa (s.ctx c).vf r.op.va r.op.acc = some y) (still : y.mv = false)
    (flag : ∀ bs f, r.op = .rst bs f → ∃ z, s.xlatVa (s.ctx c).vf f .rw = some z ∧ z.mv = false) : s.sendEntry c r = s.remotePerform c r y.loc y.ptes := by
  simp only [State.sendEntry, ready.fresh, ready.free, ready.inside, path, Option.map_some, up, able, still, ne_eq, not_true_eq_false, decide_false, Bool.or_self,
    Bool.false_or, Bool.false_eq_true, if_false]
  cases op : r.op with
  | rst bs f =>
    obtain ⟨z, there, rests⟩ := flag bs f op
    simp only [there, rests, Option.isNone_some, Bool.false_eq_true, if_false]
  | _ => simp only [Bool.false_eq_true, if_false]

end

/-- What a failed translation leaves: memory as it was, and the report of its context, should it hang on fewer predictions than one that is there
(R297, R458). -/
theorem State.remoteFail_reports {s : State} {c id va arm : Nat} (kept : arm < armDropped) : (s.remoteFail c id va arm).mem = s.mem ∧
    ((s.remoteFail c id va arm).ctx c).killReport = match (s.ctx c).killReport with
      | some k => if arm < k.2.1 then some (va, arm, false) else some k
      | none => some (va, arm, false) := by
  rw [State.remoteFail, if_neg (Nat.not_le.2 kept), State.remoteDone, State.modRout, State.modCtx_modCtx, State.ctx_modCtx_self]
  exact ⟨rfl, rfl⟩

/-! ### Read-modify-writes -/

section
variable {s : State} (c : Nat) {l : Nat}

theorem State.doRmw_barm (n : W64) (clean : s.poisoned l = false) : s.doRmw c l (.barm n) = (s.wr l 8 (s.rd64 l - n).toNat, 0, false) := by
  simp only [State.doRmw, clean, Bool.false_eq_true, if_false]

/-- NEXTT raises its counter (R272). -/
theorem State.doRmw_nextt (n w : Nat) (clean : s.poisoned l = false) : (s.doRmw c l (.nextt n w)).1 = s.wr l 8 ((s.rd l 8 + 1) % 2 ^ 64) := by
  simp only [State.doRmw, clean, Bool.false_eq_true, if_false]

/-- STVER stores its data and the next version, if the version is the one expected (R205). -/
theorem State.doRmw_stver (e d : W64) (clean : s.anyPoison l 16 = false) :
    (s.doRmw c l (.stver e d)).1 = if s.rd64 l = e then (s.wr (l + 8) 8 d.toNat).wr l 8 (e + 1).toNat else s := by
  simp only [State.doRmw, clean, Bool.false_eq_true, if_false, decide_eq_true_eq]

end

/-! ### What an operation does at its home -/

section
variable (s : State) (c : Nat) (r : REntry) (l : Nat) (ps : List Nat)

theorem State.remotePerform_load {va n off : Nat} {ov : List (Nat × Byte)} (op : r.op = .load va n off ov) :
    s.remotePerform c r l ps = (s.touch ps (decide (r.op.acc ≠ .rd))).remoteDone c r.id ((s.touch ps (decide (r.op.acc ≠ .rd))).remoteLoad l n off ov) := by
  simp only [State.remotePerform, op]

theorem State.remotePerform_store {bs : List (Nat × Byte)} (op : r.op = .store bs) : s.remotePerform c r l ps =
    ((s.touch ps (decide (r.op.acc ≠ .rd))).storeBytes (bs.map fun (p : Nat × Byte) => (l + (p.1 - r.op.va), p.2))).remoteDone c r.id (0, 0) := by
  simp only [State.remotePerform, op]

theorem State.remotePerform_rst {bs : List (Nat × Byte)} {f : Nat} {z : Xlat} (op : r.op = .rst bs f)
    (flag : (s.touch ps (decide (r.op.acc ≠ .rd))).xlatVa (s.ctx c).vf f .rw = some z) : s.remotePerform c r l ps =
    ((((s.touch ps (decide (r.op.acc ≠ .rd))).storeBytes (bs.map fun (p : Nat × Byte) => (l + (p.1 - r.op.va), p.2))).touch z.ptes true).pushIncrAt
      z.loc (s.ctx c).vf (c, r.id)).modRout c r.id fun q => { q with phase := 1 } := by
  rw [op] at flag
  simp only [State.remotePerform, op, flag]

/-- A read-modify-write but an atomic returns what `doRmw` says, and nothing watches it. -/
theorem State.remotePerform_rmw {va : Nat} {op : Rmw} (h : r.op = .rmw va op) (plain : ∀ v b, op ≠ .atom v b) : s.remotePerform c r l ps =
    ((s.touch ps (decide (r.op.acc ≠ .rd))).doRmw c l op).1.remoteDone c r.id
      (wide64 ((s.touch ps (decide (r.op.acc ≠ .rd))).doRmw c l op).2.1, if ((s.touch ps (decide (r.op.acc ≠ .rd))).doRmw c l op).2.2 then 1 else 0) := by
  cases op with
  | atom v b => exact absurd rfl (plain v b)
  | _ => simp only [State.remotePerform, h]

/-- An atomic at a home that is not poisoned writes the new word, returns the old one and is compared with the watches (R185, R202, R324). -/
theorem State.remotePerform_atom {va v : Nat} {b : W64} (h : r.op = .rmw va (.atom v b)) (clean : (s.touch ps (decide (r.op.acc ≠ .rd))).poisoned l = false) :
    let t := s.touch ps (decide (r.op.acc ≠ .rd))
    let u := t.wr l 4 (atomOp v (BitVec.ofNat 32 (t.rd l 4)) b).toNat
    s.remotePerform c r l ps = (u.watchHome 2 (s.ctx c).vf (va / 2 ^ 42 % 2 ^ 12) none [va, va + 1, va + 2, va + 3] (u.watchSrc 2 c 0)).remoteDone c r.id
      (wide64 ((BitVec.ofNat 32 (t.rd l 4)).setWidth 64), 0) := by
  simp only [State.remotePerform, State.doRmw, h] at clean ⊢
  simp only [clean, Bool.not_false, Bool.false_eq_true, if_false, if_true]
  rfl

/-- An atomic at a poisoned home writes nothing (R202, R320). -/
theorem State.remotePerform_atom_poisoned {va v : Nat} {b : W64} (h : r.op = .rmw va (.atom v b))
    (poisoned : (s.touch ps (decide (r.op.acc ≠ .rd))).poisoned l = true) : s.remotePerform c r l ps =
    (s.touch ps (decide (r.op.acc ≠ .rd))).remoteDone c r.id (wide64 (BitVec.ofNat 64 (stPOISONED * 2 ^ 32)), 0) := by
  simp only [State.remotePerform, State.doRmw, h] at poisoned ⊢
  simp only [poisoned, Bool.not_true, Bool.false_eq_true, if_false, if_true]

end

/-! ### Contexts that are told of a write -/

/-- What of the contexts no change in place touches. -/
theorem State.ctx_map {β : Type} {s t : State} {f : Nat × Ctx → Nat × Ctx} (ctxs : t.ctxs = ⟨s.ctxs.l.map f⟩) (key : ∀ p, (f p).1 = p.1) {g : Ctx → β}
    (same : ∀ p, g (f p).2 = g p.2) (c : Nat) : g (t.ctx c) = g (s.ctx c) := by
  have get (l : List (Nat × Ctx)) : g ((Table.mk (l.map f)).get c Ctx.idle) = g ((Table.mk l).get c Ctx.idle) := by
    unfold Table.get Table.find
    induction l with
    | nil => rfl
    | cons p r ih =>
      by_cases here : p.1 = c
      · simp [Table.findL, key, here, same]
      · simpa [Table.findL, key, here] using ih
  rw [State.ctx, ctxs, get]
  rfl

theorem State.wr_r (s : State) (l n v c : Nat) : ((s.wr l n v).ctx c).r = (s.ctx c).r := by
  refine State.ctx_map rfl (fun p => ?_) (g := fun x => x.r) (fun p => ?_) c <;> rfl

theorem Ctx.noteWatch_r (x : Ctx) (now addr : Nat) (src : W64) : (x.noteWatch now addr src).r = x.r := by
  unfold Ctx.noteWatch
  split <;> rfl

theorem State.watchHome_r (s : State) (bit vf owner : Nat) (own : Option (Nat × List Nat)) (vas : List Nat) (src : W64) (c : Nat) :
    ((s.watchHome bit vf owner own vas src).ctx c).r = (s.ctx c).r := by
  refine State.ctx_map rfl (fun p => ?_) (g := fun x => x.r) (fun p => ?_) c
  · dsimp only
    split
    · split <;> rfl
    · rfl
  · dsimp only
    split
    · split
      · exact Ctx.noteWatch_r ..
      · rfl
    · rfl

/-! ### FLAG -/

/-- A flag unit that has taken one of its increments. -/
def State.flagTaken (s : State) (u i : Nat) : State := s.modDie u fun d => { d with flags := d.flags.eraseIdx i }

section
variable {s : State} {u i : Nat} {n : Incr} (listed : (s.die u).flags[i]? = some n)
include listed

/-- The increment of a flag whose home is known (R186). -/
theorem execFlag_home (known : n.va = none) (up : s.flagLost n (s.ownerVa n.loc) = false) (stays : s.flagResets n n.loc = false)
    (clean : s.poisoned n.loc = false) : exec (.flag ⟨u, i⟩) s = .next (((s.flagTaken u i).wr n.loc 8 (s.rd64 n.loc + 1).toNat).flagDone n false) := by
  show execFlag ⟨u, i⟩ s = _
  have clean' : (s.flagTaken u i).poisoned n.loc = false := clean
  simp only [State.flagTaken] at clean' ⊢
  simp only [execFlag, listed, known, up, stays, clean', Bool.or_self, Bool.false_eq_true, if_false]
  rfl

/-- The increment of a flag by its address (R186, R409). -/
theorem execFlag_translates {va : Nat} {y : Xlat} (addressed : n.va = some va) (up : s.flagLost n va = false) (path : s.xlatVa n.vf va .rw = some y)
    (stays : s.flagResets n y.loc = false) (still : y.mv = false) (clean : s.poisoned y.loc = false) :
    let z := (s.flagTaken u i).touch y.ptes true
    exec (.flag ⟨u, i⟩) s = .next ((z.wr y.loc 8 (z.rd64 y.loc + 1).toNat).flagDone n false) := by
  intro z
  show execFlag ⟨u, i⟩ s = _
  have clean' : z.poisoned y.loc = false := clean
  simp only [z, State.flagTaken] at clean' ⊢
  simp only [execFlag, listed, addressed, up, path, stays, still, clean', Bool.false_eq_true, if_false]

/-- An increment on a lost path, or of an address that does not translate, is given up, and who waits is told (R300, R409). -/
theorem execFlag_fails {va : Nat} (addressed : n.va = some va) (fails : s.flagLost n va = true ∨ s.xlatVa n.vf va .rw = none) :
    exec (.flag ⟨u, i⟩) s = .next ((s.flagTaken u i).flagDone n true) := by
  show execFlag ⟨u, i⟩ s = _
  cases lost : s.flagLost n va
  · have path := fails.resolve_left (by rw [lost]; exact Bool.false_ne_true)
    simp only [execFlag, listed, addressed, lost, path, Bool.false_eq_true, if_false]
    rfl
  · simp only [execFlag, listed, addressed, lost, if_true]
    rfl

end

theorem State.flagLost_core {s : State} {n : Incr} {k : Nat} (core : n.core = some k) (a : Nat) : s.flagLost n a = s.pathLost k a := by
  rw [State.flagLost, core]

theorem State.flagLost_none {s : State} {n : Incr} (core : n.core = none) (a : Nat) : s.flagLost n a = s.ownerLost a := by
  rw [State.flagLost, core]

section
variable (s : State) {n : Incr} (b : Bool)

/-- An operation that waits for its flag is done (R193, R459). -/
theorem State.flagDone_operation {c id : Nat} (waits : n.ctx = some (c, id)) (alone : n.copy = none) :
    s.flagDone n b = s.modRout c id fun r => { r with phase := 2 } := by
  rw [State.flagDone, waits, alone]

theorem State.flagDone_nobody (nobody : n.ctx = none) (alone : n.copy = none) : s.flagDone n b = s := by
  rw [State.flagDone, nobody, alone]

/-- A copy that waits for its flag goes on, with FAULT when it could not be incremented (R409). -/
theorem State.flagDone_copy {k : Nat} (nobody : n.ctx = none) (waits : n.copy = some k) (core : k < 1024) : ((s.flagDone n b).core k).crun = (s.core k).crun.map fun r =>
    if b then { r with phase := 2, status := stFAULT, errs := r.errs + 1, addr := n.va.getD 0 } else { r with phase := 2 } := by
  rw [State.flagDone, nobody, waits]
  dsimp only
  rw [if_pos core, State.core_modCore, if_pos rfl]

end

/-! ### COMPLETE_REMOTE -/

section
variable {s : State} {c i : Nat} {r : REntry} (listed : (s.ctx c).rout[i]? = some r)
include listed

theorem execCompleteRemote_done (done : r.phase = 2) : exec (.completeRemote c i) s = .next (s.modCtx c fun x =>
    ({ x with rout := x.rout.filter fun (q : REntry) => decide (q.id ≠ r.id) } : Ctx).deliver r.seq r.val r.psn) := by
  show execCompleteRemote c i s = _
  rw [execCompleteRemote, listed]
  dsimp only
  rw [if_neg (not_not.2 done), State.deliver, State.modCtx_modCtx]

theorem execCompleteRemote_waits (waits : r.phase ≠ 2) : exec (.completeRemote c i) s = .next s := by
  show execCompleteRemote c i s = _
  rw [execCompleteRemote, listed]
  exact congrArg _ (if_pos waits)

end

end Sys2Proof.Machine
end

section
open Sys2Proof Sys2Proof.Machine

/-- Settles O47: each clause is one outcome of a step of the ordering machine. -/
theorem remoteOperations : Obligations.RemoteOperations := by
  refine ⟨fun s c i r y listed fresh free inside up able path still flag => ?_, fun s c r l ps => ?_, fun s c i r listed fresh free kept inside up able path => ?_,
    fun s c i r listed fresh free inside lost => ?_, fun s u i n listed => ⟨?_, ?_, ?_, fun a => ⟨fun k core => State.flagLost_core core a, fun none => State.flagLost_none none a⟩⟩,
    fun s n b => ⟨fun c id waits alone => s.flagDone_operation b waits alone, fun nobody alone => s.flagDone_nobody b nobody alone,
      fun k nobody waits core => ⟨s.flagDone_copy false nobody waits core, s.flagDone_copy true nobody waits core⟩⟩,
    fun s c i r listed => ⟨fun done => ?_, fun waits => execCompleteRemote_waits listed waits⟩⟩
  -- an entry that performs
  · exact (execSendRemote_entry listed).trans (congrArg _ (State.sendEntry_performs ⟨fresh, free, inside⟩ up able path still flag))
  -- what it does at its home
  · intro t put
    refine ⟨fun va n off ov op => s.remotePerform_load c r l ps op, fun bs op => s.remotePerform_store c r l ps op, fun bs f z op flag => ?_, fun va n op clean => ?_,
      fun va v b op clean => ?_, fun va v b op poisoned => s.remotePerform_atom_poisoned c r l ps op poisoned, fun va op h kind => ?_, fun va e d op clean => ?_,
      fun va n w op clean => ?_⟩
    · exact s.remotePerform_rst c r l ps op flag
    · have home : t.doRmw c l (.barm n) = _ := State.doRmw_barm c n clean
      rw [s.remotePerform_rmw c r l ps op (by simp), home, wide64_zero]
      rfl
    · exact ⟨_, s.remotePerform_atom c r l ps op clean, rfl, rfl, rfl, fun d => (State.watchHome_r ..).trans (State.wr_r ..)⟩
    · refine s.remotePerform_rmw c r l ps h ?_
      rintro v b rfl
      simp at kind
    · rw [State.doRmw_stver c e d clean]
      exact ⟨fun same => if_pos same, fun differ => if_neg differ⟩
    · exact State.doRmw_nextt c n w clean
  -- an entry whose address does not translate
  · obtain ⟨mem, report⟩ := State.remoteFail_reports (s := s) (c := c) (id := r.id) (va := r.op.va) kept
    refine ⟨_, (execSendRemote_entry listed).trans (congrArg _ (State.sendEntry_fails ⟨fresh, free, inside⟩ up able path)), mem, fun none => ?_, fun a n h some_ => ?_⟩
    · rw [report, none]
    · rw [report, some_]
  -- an entry on a lost path
  · exact (execSendRemote_entry listed).trans (congrArg _ (State.sendEntry_lost ⟨fresh, free, inside⟩ lost))
  -- flag increments
  · exact execFlag_home listed
  · exact fun va y addressed up path stays still clean => execFlag_translates listed addressed up path stays still clean
  · exact fun va addressed fails => execFlag_fails listed addressed fails
  -- an entry that has performed
  · refine ⟨_, execCompleteRemote_done listed done, ?_, rfl, fun d other => ?_, ?_⟩
    · rw [State.ctx_modCtx_self]
      rfl
    · rw [State.ctx_modCtx, if_neg other]
    · rw [State.ctx_modCtx_self]
      rfl
end

section
open Sys2Proof Sys2Proof.Machine

/-- Settles O6: no table of the reset state lists anything, and the hub's registers are written out in `HubSt.zero`. -/
theorem resetState : Obligations.ResetState := by
  have version (k b : Nat) : State.reset.version k b = 0 := by
    have ver : (State.reset.core k).ver = Vector.replicate 4 0 := rfl
    rw [State.version, ver, Vector.toList_replicate, List.getD_eq_getElem?_getD, List.getElem?_replicate]
    split <;> rfl
  exact ⟨fun c => rfl, fun k => ⟨rfl, rfl, rfl, rfl, version k, rfl⟩, rfl, rfl, rfl, rfl, rfl, rfl, rfl, rfl, rfl, by decide, by decide⟩
end

section
/-! SUPPORT. An MCALL whose operand A is still to be returned by a load (R43, R74, R232). -/

namespace Sys2Proof.Machine

/-- Context 0 of core 0 issues a bundle. Register x1 names version 1 of a bank, and a load that is in flight will write it. -/
def mcallInterlocked : State :=
  ({ State.reset with iss := { Issue.none with checked := true } } : State).modCtx 0 fun x =>
    { x with r := { x.r with x := x.r.x.set 1 0x10000 }, inflight := [{ mkRes .x 1 0 0 with fixed := false, need := 1 }] }

theorem mcallInterlocked_issuing : mcallInterlocked.Issuing := ⟨rfl, rfl⟩

/-- Operand A in x1, and operand B in x0. -/
def mcallOpnds : AB := ⟨1, 0, false, false⟩

/-- The version that x1 names is one ahead of the bank's, and yet the slot has no hold of its own: x1 is not known before the load returns. -/
theorem mcallInterlocked_hold : (((mcallInterlocked.tA 1 false).d.extractLsb' 16 16 - mcallInterlocked.version 0 0).toNat = 1) ∧
    (slotOf (.mcall mcallOpnds 0) mcallInterlocked).hold = .none := by decide +kernel

end Sys2Proof.Machine
end

section
open Sys2Proof Sys2Proof.Machine

/-- Refutes O27: the statement gives every MCALL whose version is ahead the engine wait, with no premise that operand A is known. While a load that writes
it is in flight the bundle is interlocked (R74) and the slot has no engine wait (log 62), as in `mcallInterlocked`. -/
theorem not_matrixSlots : ¬ Obligations.MatrixSlots := by
  intro slots
  obtain ⟨mcall, -⟩ := slots mcallInterlocked mcallInterlocked_issuing
  obtain ⟨-, held, -⟩ := mcall mcallOpnds 0 rfl
  obtain ⟨ahead, free⟩ := mcallInterlocked_hold
  have wait : (slotOf (.mcall mcallOpnds 0) mcallInterlocked).hold = .engine := held ahead.ge (ahead.trans_lt (by decide))
  rw [free] at wait
  exact absurd wait (by decide)
end

section
/-! SUPPORT. The control steps of a routine: where each goes on, what it leaves on its core, and how it ends (R224, R226 to R230, R390, R432, R434, R436, R446,
R454, R493). -/

namespace Sys2Proof.Machine

/-- The bits of a word in which one bit is set. -/
theorem getLsbD_putBit_true {w : Nat} (v : BitVec w) (n : Nat) {i : Nat} (hi : i < w) : (putBit v n true).getLsbD i = (v.getLsbD i || decide (i = n)) := by
  have one : (1#w <<< n).getLsbD i = decide (i = n) := by
    rw [BitVec.getLsbD_shiftLeft, decide_eq_true hi, Bool.true_and, BitVec.getLsbD_one, decide_eq_true (Nat.zero_lt_of_lt hi), Bool.true_and]
    by_cases lower : i < n
    · simp [lower, lower.ne]
    · have same : i - n = 0 ↔ i = n := by omega
      simp [lower, same]
  rw [putBit, if_pos rfl, BitVec.getLsbD_or, one]

/-! ### The end of a run -/

section
variable {s : State} {e : RunEnv}

/-- The end of a routine changes its run and the versions of its banks, beside a count of the context that called it (R223, R229, R230). -/
theorem State.endRun_changes (s : State) (e : RunEnv) (st addr : Nat) : (s.endRun e st addr).mem = s.mem ∧
    ∃ cost cls, (s.endRun e st addr).core e.k = { s.core e.k with
      ver := (s.core e.k).ver.mapIdx fun i x => if e.r.banks.getLsbD i then x + 1 else x
      mrun := (s.core e.k).mrun.map fun r => { r with ended := some (st, addr), cost := cost, tail := 0, cls := cls } } := by
  unfold State.endRun
  dsimp only
  split
  · exact ⟨rfl, _, _, (State.core_modCtx ..).trans ((State.core_modCore ..).trans (if_pos rfl))⟩
  · exact ⟨rfl, _, _, (State.core_modCore ..).trans (if_pos rfl)⟩

theorem State.endRun_version (s : State) (e : RunEnv) (st addr : Nat) {b : Nat} (hb : b < 4) :
    (s.endRun e st addr).version e.k b = if e.r.banks.getLsbD b then s.version e.k b + 1 else s.version e.k b := by
  obtain ⟨-, _, _, core⟩ := s.endRun_changes e st addr
  rw [State.version, core, State.version]
  simp [hb]

/-- MEND ends the routine with the first of POISONED, RAGGED_CLIP and OK that applies (R230, R436). -/
theorem runMend_ends (run : (s.core e.k).mrun = some e.r) :
    (((runMend e s).core e.k).mrun.bind fun r => r.ended) =
        some (if e.r.poisoned then stPOISONED else if e.r.clipped then stRAGGED else stOK, if e.r.errs = 0 then 0 else e.r.addr - 1) ∧
      (runMend e s).mem = s.mem ∧ ((runMend e s).core e.k).banks = (s.core e.k).banks := by
  unfold runMend
  obtain ⟨mem, _, _, core⟩ := s.endRun_changes e (if e.r.poisoned then stPOISONED else if e.r.clipped then stRAGGED else stOK)
    (if e.r.errs = 0 then 0 else e.r.addr - 1)
  rw [core, run]
  exact ⟨rfl, mem, rfl⟩

/-- The routine of a core has ended FAULT at its word, ERRS counts it, and the versions of its banks have advanced (R229, R230). -/
def State.Faulted (e : RunEnv) (s t : State) : Prop :=
  ((t.core e.k).mrun.map fun r => (r.ended, r.errs)) = some (some (stFAULT, e.r.word), e.r.errs + 1) ∧
    (∀ b, b < 4 → t.version e.k b = if e.r.banks.getLsbD b then s.version e.k b + 1 else s.version e.k b) ∧ t.mem = s.mem

theorem State.stepFault_faulted (run : (s.core e.k).mrun = some e.r) : State.Faulted e s (s.stepFault e) := by
  have counted : (s.modRun e.k fun r => { r with errs := r.errs + 1 }).core e.k = { s.core e.k with mrun := some { e.r with errs := e.r.errs + 1 } } := by
    rw [State.modRun, State.core_modCore, if_pos rfl, run]
    rfl
  have versions := fun b (hb : b < 4) => (s.modRun e.k fun r => { r with errs := r.errs + 1 }).endRun_version e stFAULT e.r.word hb
  obtain ⟨mem, _, _, core⟩ := (s.modRun e.k fun r => { r with errs := r.errs + 1 }).endRun_changes e stFAULT e.r.word
  unfold State.stepFault State.abortAt State.abortRun
  refine ⟨?_, fun b hb => ?_, mem⟩
  · rw [core, counted]
    rfl
  · rw [versions b hb, State.version, counted, State.version]

end

/-! ### Steps that go on -/

/-- A run whose step has completed, at the next word (R228, R238). -/
def MatRun.onTo (r : MatRun) (c : MClass) (cost : Nat) (loops : List (Nat × Nat × Nat)) (next : Nat) : MatRun :=
  { r with word := next, loops := loops, steps := r.steps + 1, tries := 0, row := 0, cost := cost + r.genWait, cls := c.num, cyc := 0, genWait := 0, tail := r.genWait }

section
variable {s : State} {e : RunEnv} {r : MatRun} (run : (s.core e.k).mrun = some r)
include run

theorem State.modRun_core (f : MatRun → MatRun) : (s.modRun e.k f).core e.k = { s.core e.k with mrun := some (f r) } := by
  rw [State.modRun, State.core_modCore, if_pos rfl, run]
  rfl

theorem State.stepTo_core (c : MClass) (n : Nat) (loops : List (Nat × Nat × Nat)) (next : Nat) :
    (s.stepTo e.k c n loops next).core e.k = { s.core e.k with mrun := some (r.onTo c (s.now + n) loops next) } := State.modRun_core run _

theorem State.stepOn_core (c : MClass) (n : Nat) : (s.stepOn e c n).core e.k =
    { s.core e.k with mrun := some (r.onTo c (s.now + n) (loopAfter e.r.word e.r.loops).1 (loopAfter e.r.word e.r.loops).2) } := State.stepTo_core run ..

/-- A step that changes its run, and goes on. -/
theorem State.stepOn_modRun_core (f : MatRun → MatRun) (c : MClass) (n : Nat) : ((s.modRun e.k f).stepOn e c n).core e.k =
    { s.core e.k with mrun := some ((f r).onTo c (s.now + n) (loopAfter e.r.word e.r.loops).1 (loopAfter e.r.word e.r.loops).2) } := by
  have changed := State.modRun_core run f
  rw [State.stepOn_core (congrArg CoreSt.mrun changed), changed]
  rfl

end

/-- Outside loops the next word follows (R228). -/
theorem loopAfter_outside (w : Nat) {loops : List (Nat × Nat × Nat)} (h : loops = []) : (loopAfter w loops).2 = w + 1 := by
  rw [h]
  rfl

theorem leaveLoops_eq (t : Nat) (loops : List (Nat × Nat × Nat)) : leaveLoops t loops = loops.filter fun l => decide (l.1 ≤ t ∧ t ≤ l.2.1) :=
  List.filter_congr fun _ _ => (Bool.decide_and ..).symm

section
variable {s : State} {e : RunEnv}

/-! ### ASEL (R390) -/

/-- The bank is busy for a command in a basket, or for one that waits in the queue (R232, R390). -/
theorem aselBusy_iff {q : List MatCmd} (queue : (s.core e.k).mq = e.c :: q) (b : Nat) :
    (s.bankInBasket e.k b || ((s.core e.k).mq.drop 1).any fun (c : MatCmd) => decide (c.bank = b)) = true ↔ s.bankInBasket e.k b = true ∨ ∃ c ∈ q, c.bank = b := by
  rw [queue, List.drop_one, List.tail_cons, Bool.or_eq_true, List.any_eq_true]
  simp only [decide_eq_true_eq]

theorem runAsel_busy {q : List MatCmd} (queue : (s.core e.k).mq = e.c :: q) {b : BitVec 2} (busy : s.bankInBasket e.k b.toNat = true ∨ ∃ c ∈ q, c.bank = b.toNat) :
    runAsel b e s = s.stepFault e := if_pos ((aselBusy_iff queue _).2 busy)

theorem runAsel_free {q : List MatCmd} (queue : (s.core e.k).mq = e.c :: q) {b : BitVec 2} (free : ¬(s.bankInBasket e.k b.toNat = true ∨ ∃ c ∈ q, c.bank = b.toNat)) :
    runAsel b e s = (s.modRun e.k fun r => { r with sel := b.toNat, banks := putBit r.banks b.toNat true }).stepOn e .compute 1 :=
  if_neg fun busy => free ((aselBusy_iff queue _).1 busy)

/-! ### Loops and branches (R432, R434) -/

theorem runLoopm_nests {cm1 endw : BitVec 12} (ahead : e.r.word < endw.toNat) (room : e.r.loops.length < 4) : runLoopm false 0 cm1 endw e s =
    s.stepTo e.k .compute 1 ((e.r.word + 1, endw.toNat, cm1.toNat + 1) :: e.r.loops) (e.r.word + 1) := by
  simp [runLoopm, Nat.not_le.2 ahead, Nat.not_le.2 room]

theorem runLoopm_skips {ms : BitVec 3} {endw : BitVec 12} (ahead : e.r.word < endw.toNat) (none : (e.m ms).toNat % 2 ^ 16 = 0) : runLoopm true ms 0 endw e s =
    s.stepTo e.k .compute 1 e.r.loops (endw.toNat + 1) := by
  simp only [runLoopm, none, if_true, Bool.not_true, Bool.false_and, Bool.true_and, ne_eq, not_true_eq_false, decide_false, Bool.or_false,
    Nat.not_le.2 ahead, Bool.false_eq_true, if_false]

theorem runLoopm_faults {cm1 endw : BitVec 12} (bad : 4 ≤ e.r.loops.length ∨ endw.toNat ≤ e.r.word) : runLoopm false 0 cm1 endw e s = s.stepFault e := by
  have test : (decide (endw.toNat ≤ e.r.word) || decide (4 ≤ e.r.loops.length)) = true := by
    rw [Bool.or_eq_true, decide_eq_true_eq, decide_eq_true_eq]
    exact bad.symm
  simpa [runLoopm] using fun h h' => absurd test (by simp [h, h'])

/-- The condition of an MBR (R434). -/
def mbrTaken (e : RunEnv) (cond ms : BitVec 3) : Bool :=
  match cond.toNat with
  | 0 => true
  | 1 => e.r.re
  | 2 => !e.r.re
  | 3 => e.m ms == 0
  | _ => e.m ms != 0

theorem runMbr_goes {cond ms tgt} (valid : cond.toNat ≤ 4) (unused : cond.toNat ≤ 2 → ms = 0) : runMbr cond ms tgt e s =
    if mbrTaken e cond ms then s.stepTo e.k .compute 1 (leaveLoops tgt.toNat e.r.loops) tgt.toNat else s.stepOn e .compute 1 :=
  if_neg fun bad => bad.elim (Nat.not_lt.2 valid) fun h => h.2 (unused h.1)

theorem runMbr_faults {cond ms tgt} (bad : 4 < cond.toNat) : runMbr cond ms tgt e s = s.stepFault e := if_pos (.inl bad)

/-! ### PADD and RAGG (R446, R454) -/

/-- The command of a routine with another m register. -/
def MatCmd.setM (c : MatCmd) (i : BitVec 3) (v : W64) : MatCmd := { c with m := c.m.set i.toNat v i.isLt }

/-- A step that puts another command in the place of its own, and goes on. -/
theorem State.stepOn_command {q : List MatCmd} {r : MatRun} (run : (s.core e.k).mrun = some r) (queue : (s.core e.k).mq = e.c :: q) (f : MatCmd → MatCmd)
    (c : MClass) (n : Nat) : ((s.modCore e.k fun x => { x with mq := modifyAt x.mq 0 f }).stepOn e c n).core e.k = { s.core e.k with
      mq := f e.c :: q
      mrun := some (r.onTo c (s.now + n) (loopAfter e.r.word e.r.loops).1 (loopAfter e.r.word e.r.loops).2) } := by
  have changed : (s.modCore e.k fun x => { x with mq := modifyAt x.mq 0 f }).core e.k = { s.core e.k with mq := f e.c :: q } := by
    rw [State.core_modCore, if_pos rfl, queue]
    rfl
  rw [State.stepOn_core (r := r) (by rw [changed]; exact run), changed]
  rfl

theorem runPadd_adds {md ms : BitVec 3} {src : Bool} {imm : W32} (unused : if src then imm = 0 else ms = 0) : runPadd md ms src imm e s =
    (s.modCore e.k fun x => { x with mq := modifyAt x.mq 0 fun q => q.setM md (e.m md + if src then e.m ms else imm.signExtend 64) }).stepOn e .compute 1 := by
  cases src with
  | false => exact if_neg (by simpa using unused)
  | true => exact if_neg (by simpa using unused)

/-- With no records left RAGG says so (R226). -/
theorem runRagg_empty {ma mc : BitVec 3} (differ : ma ≠ mc) (base : (e.m ma).toNat / 2 ^ 54 = 0) (aligned : (e.m ma).toNat % 16 = 0)
    (none : (e.m mc).toNat % 2 ^ 32 = 0) : runRagg ma mc e s = (s.modRun e.k fun r => { r with re := true, rgv := false }).stepOn e .await 4 := by
  have good : ¬((e.m ma).toNat / 2 ^ 54 ≠ 0 ∨ (e.m ma).toNat % 16 ≠ 0) :=
    not_or.2 ⟨not_not.2 base, not_not.2 aligned⟩
  simp only [runRagg, if_neg differ, if_neg good, if_pos none]

/-- The command after a ragged record: the address is past it, and one record less is left (R226). -/
def MatCmd.raggedNext (c : MatCmd) (ma mc : BitVec 3) (d n : W64) : MatCmd :=
  (c.setM ma (d + 16)).setM mc ((n &&& 0xFFFFFFFF00000000) ||| ((n - 1) &&& 0xFFFFFFFF))

/-- The run after a record that is not poison (R226). -/
def MatRun.record (r : MatRun) (a t : Nat) : MatRun :=
  { r with re := false, rgv := true, rga := a, rgf := t / 2 ^ 32 % 2 ^ 32, rgc := t / 2 ^ 64 % 2 ^ 32, rgw := t / 2 ^ 96 % 2 ^ 32 }

theorem State.psnPieces_clean (clean : s.poison = []) (va l n : Nat) : s.psnPieces va [(l, n)] = none := by
  have nothing : ((List.range ((l + n + 7) / 8 - l / 8)).find? fun i => s.poison.contains (l / 8 + i)) = none := by simp [clean]
  rw [State.psnPieces, nothing]
  rfl

/-- RAGG takes the next record (R226). -/
theorem runRagg_takes {ma mc : BitVec 3} {l : Nat} (differ : ma ≠ mc) (base : (e.m ma).toNat / 2 ^ 54 = 0) (aligned : (e.m ma).toNat % 16 = 0)
    (some : (e.m mc).toNat % 2 ^ 32 ≠ 0) (acc : s.runAcc e .rd (e.m ma).toNat 16 = .ok [(l, 16)] []) (clean : s.poison = []) : runRagg ma mc e s =
      (((s.touch [] false).modRun e.k fun r => r.record (e.m ma).toNat (s.rd l 16)).modCore e.k fun x =>
        { x with mq := modifyAt x.mq 0 fun q => q.raggedNext ma mc (e.m ma) (e.m mc) }).stepOn e .await 4 := by
  have good : ¬((e.m ma).toNat / 2 ^ 54 ≠ 0 ∨ (e.m ma).toNat % 16 ≠ 0) :=
    not_or.2 ⟨not_not.2 base, not_not.2 aligned⟩
  simp only [runRagg, if_neg differ, if_neg good, if_neg some, acc, State.psnPieces_clean clean, Option.isSome_none, Bool.false_eq_true, if_false,
    State.rdPieces_one]
  rfl

end

end Sys2Proof.Machine
end

section
open Sys2Proof Sys2Proof.Machine

/-- Settles O55: each step goes on to a word, or it ends the routine, and it leaves on its core what the lemma about it says. -/
theorem routineControl : Obligations.RoutineControl := by
  intro s e q running queue k faults
  obtain ⟨core, run⟩ := State.routine_some running
  rw [← core] at run queue
  have step {f : RunEnv → State → State} : microStep f s = .next (f e s) := microStep_routine running f
  have faulted {i : Instr} (h : exec i s = .next (s.stepFault e)) : faults i := by
    have ends := State.stepFault_faulted run
    rw [State.Faulted, core] at ends
    exact ⟨_, h, ends⟩
  have here : k = e.k := core.symm
  rw [here]
  refine ⟨?_, fun b idle other => ?_, fun b busy => ?_, fun z => ?_, fun ms md imm => ?_, fun cm1 endw ahead room => ?_, fun ms endw ahead none => ?_,
    fun cm1 endw bad => ?_, fun cond ms tgt valid unused => ?_, fun cond ms tgt bad => ?_, fun ma mc differ base aligned => ⟨fun none => ?_, fun l some acc clean => ?_⟩⟩
  · obtain ⟨ended, mem, banks⟩ := runMend_ends run
    exact ⟨_, step, fun b hb => s.endRun_version e _ _ hb, ended, mem, banks⟩
  · have free : ¬(s.bankInBasket e.k b.toNat = true ∨ ∃ c ∈ q, c.bank = b.toNat) := by
      rintro (held | ⟨c, hc, same⟩)
      · exact absurd (idle.symm.trans held) Bool.false_ne_true
      · exact other c hc same
    have next := State.stepOn_modRun_core run (fun r => { r with sel := b.toNat, banks := putBit r.banks b.toNat true }) .compute 1
    exact ⟨_, _, step.trans (congrArg _ (runAsel_free queue free)), congrArg CoreSt.mrun next, rfl, fun i hi => getLsbD_putBit_true _ _ hi,
      loopAfter_outside _, rfl, rfl, (congrArg CoreSt.banks next :)⟩
  · exact faulted (step.trans (congrArg _ (runAsel_busy queue busy)))
  · have next := State.stepOn_modRun_core run (fun r => { r with zs := z }) .compute 1
    exact ⟨_, _, step, congrArg CoreSt.mrun next, rfl, rfl, loopAfter_outside _, rfl⟩
  · have added (f : MatCmd → MatCmd) := State.stepOn_command run queue f .compute 1
    have immediate := runPadd_adds (s := s) (e := e) (md := md) (ms := 0) (src := false) (imm := imm) rfl
    have register := runPadd_adds (s := s) (e := e) (md := md) (ms := ms) (src := true) (imm := 0) rfl
    exact ⟨_, _, _, step.trans (congrArg _ immediate), congrArg CoreSt.mq (added _), rfl, congrArg CoreSt.mrun (added _), loopAfter_outside _, rfl,
      _, _, step.trans (congrArg _ register), congrArg CoreSt.mq (added _), rfl⟩
  · exact ⟨_, _, step.trans (congrArg _ (runLoopm_nests ahead room)), congrArg CoreSt.mrun (State.stepTo_core run ..), rfl, rfl⟩
  · exact ⟨_, _, step.trans (congrArg _ (runLoopm_skips ahead none)), congrArg CoreSt.mrun (State.stepTo_core run ..), rfl, rfl⟩
  · exact faulted (step.trans (congrArg _ (runLoopm_faults bad)))
  · intro c
    have goes := runMbr_goes (s := s) (e := e) (tgt := tgt) valid unused
    have same : mbrTaken e cond ms = c := rfl
    rw [same] at goes
    cases hc : c with
    | true =>
      rw [hc, if_pos rfl] at goes
      have next := State.stepTo_core run .compute 1 (leaveLoops tgt.toNat e.r.loops) tgt.toNat
      exact ⟨_, _, step.trans (congrArg _ goes), congrArg CoreSt.mrun next, fun _ => ⟨rfl, leaveLoops_eq ..⟩, fun h => absurd h Bool.noConfusion,
        (congrArg CoreSt.mq next :), rfl⟩
    | false =>
      rw [hc, if_neg Bool.false_ne_true] at goes
      have next := State.stepOn_core run .compute 1
      exact ⟨_, _, step.trans (congrArg _ goes), congrArg CoreSt.mrun next, fun h => absurd h Bool.false_ne_true, fun _ => loopAfter_outside _,
        (congrArg CoreSt.mq next :), rfl⟩
  · exact faulted (step.trans (congrArg _ (runMbr_faults bad)))
  · have next := State.stepOn_modRun_core run (fun r => { r with re := true, rgv := false }) .await 4
    exact ⟨_, _, step.trans (congrArg _ (runRagg_empty differ base aligned none)), congrArg CoreSt.mrun next, rfl, rfl, (congrArg CoreSt.mq next :), rfl⟩
  · have taken := State.modRun_core (s := s.touch [] false) run fun r => r.record (e.m ma).toNat (s.rd l 16)
    have next := State.stepOn_command (congrArg CoreSt.mrun taken) ((congrArg CoreSt.mq taken).trans queue)
      (fun c => c.raggedNext ma mc (e.m ma) (e.m mc)) .await 4
    exact ⟨_, _, _, step.trans (congrArg _ (runRagg_takes differ base aligned some acc clean)), congrArg CoreSt.mrun next, rfl, rfl, rfl, rfl, rfl,
      congrArg CoreSt.mq next, rfl, rfl⟩
end

section
/-! SUPPORT. What the end of a partition's reset leaves alone: the cores that retire, and the groups that resolve without what is lost (R285, R298 to R300, R333,
R360, R361). -/

namespace Sys2Proof.Machine

/-! ### Steps that leave cores, clusters and partitions alone -/

/-- A context without a record stays without one, and cores, clusters and partitions are as they were. -/
structure Quiet (s t : State) : Prop where
  calm : Calm s t
  cores : t.cores = s.cores
  clusters : t.clusters = s.clusters

theorem Quiet.refl (s : State) : Quiet s s := ⟨.refl s, rfl, rfl⟩

theorem Quiet.trans {s t u : State} (h : Quiet s t) (k : Quiet t u) : Quiet s u := ⟨h.calm.trans k.calm, k.cores.trans h.cores, k.clusters.trans h.clusters⟩

theorem Quiet.foldl {β : Type} {f : State → β → State} (h : ∀ s b, Quiet s (f s b)) (l : List β) (s : State) : Quiet s (l.foldl f s) :=
  List.foldlRecOn l f (.refl s) fun t ht b _ => ht.trans (h t b)

theorem Quiet.ite {s t u : State} (p : Prop) [Decidable p] (h : Quiet s t) (k : Quiet s u) : Quiet s (if p then t else u) := by
  split
  · exact h
  · exact k

/-- A step that leaves the contexts alone too. -/
theorem Quiet.apart {s t : State} (parts : t.hub.parts = s.hub.parts) (ctxs : t.ctxs = s.ctxs) (cores : t.cores = s.cores) (clusters : t.clusters = s.clusters) :
    Quiet s t := ⟨.apart parts ctxs, cores, clusters⟩

theorem State.wr_quiet (s : State) (l n v : Nat) : Quiet s (s.wr l n v) := ⟨s.wr_calm l n v, rfl, rfl⟩

theorem State.touch_quiet (s : State) (ptes : List Nat) (w : Bool) : Quiet s (s.touch ptes w) := .apart rfl rfl rfl rfl

theorem State.recWrite_quiet (s : State) (vf addr i v : Nat) : Quiet s (s.recWrite vf addr i v) := by
  unfold State.recWrite
  split
  · exact (s.touch_quiet ..).trans (State.wr_quiet ..)
  · exact .refl s

theorem State.pushIncr_quiet (s : State) (va vf : Nat) (ctx : Option (Nat × Nat)) (copy : Option Nat) : Quiet s (s.pushIncr va vf ctx copy) :=
  .apart rfl rfl rfl rfl

theorem State.modDie_quiet (s : State) (d : Nat) (f : DieSt → DieSt) : Quiet s (s.modDie d f) := .apart rfl rfl rfl rfl

theorem State.jcbCount_quiet (s : State) (l vf : Nat) (fault : Bool) : Quiet s (s.jcbCount l vf fault) := by
  have counted (e d : Nat) : Quiet s (if fault then (s.wr l 8 e).wr (l + 8) 8 d else s.wr l 8 e) :=
    .ite _ ((State.wr_quiet ..).trans (State.wr_quiet ..)) (State.wr_quiet ..)
  unfold State.jcbCount
  dsimp only
  refine .ite _ (.ite _ ?_ ?_) (counted ..)
  · exact ((counted ..).trans (State.wr_quiet ..)).trans (State.pushIncr_quiet ..)
  · exact (counted ..).trans (State.wr_quiet ..)

theorem State.countFault_quiet (s : State) (vf : Nat) (jcb : BitVec 48) (posted : Bool) : Quiet s (s.countFault vf jcb posted) := by
  unfold State.countFault
  split
  · exact .refl s
  · split
    · exact .refl s
    · exact .ite _ (.refl s) (.ite _ ((s.touch_quiet ..).trans (State.wr_quiet ..)) ((s.touch_quiet ..).trans (State.jcbCount_quiet ..)))

theorem State.completeCmd_quiet (s : State) (st : Nat) : Quiet s (s.completeCmd st) := (s.wr_quiet ..).trans (.apart rfl rfl rfl rfl)

/-! ### Groups -/

theorem State.tell_quiet (s : State) (c : Contribution) (r : AgrRes) : Quiet s (s.tell c r) := by
  unfold State.tell
  split
  · exact .refl s
  · exact .apart rfl rfl rfl rfl

theorem State.modGroup_quiet (s : State) (key : Nat) (f : Group → Group) : Quiet s (s.modGroup key f) := by
  unfold State.modGroup
  split
  · exact .refl s
  · exact .apart rfl rfl rfl rfl

theorem State.cutGroup_quiet (s : State) (key : Nat) (g : Group) : Quiet s (s.cutGroup key g) :=
  (s.modGroup_quiet ..).trans (Quiet.foldl (fun t (i : Inst) => Quiet.foldl (fun u c => u.tell_quiet c _) i.got t) ..)

theorem State.resolveInst_quiet (s : State) (key : Nat) (g : Group) (i : Inst) : Quiet s (s.resolveInst key g i) := by
  unfold State.resolveInst
  extract_lets p gone ref mis status drop gen ok
  obtain ⟨v, dec⟩ := combine g.op g.k p
  dsimp -zeta only
  extract_lets r s1 s2 s3
  have resolved : Quiet s s1 := s.modGroup_quiet ..
  have written : Quiet s1 s2 := .ite _ ((s1.wr_quiet ..).trans (Quiet.foldl (fun t m => t.wr_quiet ..) ..)) (.refl s1)
  have told : Quiet s s3 := (resolved.trans written).trans (Quiet.foldl (fun t c => t.tell_quiet c _) ..)
  split
  · exact .ite _ (told.trans (State.cutGroup_quiet ..)) told
  · exact told

theorem State.settleGroup_quiet (key n : Nat) (s : State) : Quiet s (State.settleGroup key n s) := by
  induction n generalizing s with
  | zero => exact .refl s
  | succ n ih =>
    unfold State.settleGroup
    split
    · exact .refl s
    · split
      · exact .refl s
      · exact (s.resolveInst_quiet ..).trans (ih _)

theorem State.tryResolve_quiet (s : State) (key seq : Nat) : Quiet s (s.tryResolve key seq) := by
  unfold State.tryResolve
  split
  · exact .refl s
  · split
    · exact .refl s
    · exact .ite _ ((s.resolveInst_quiet ..).trans (State.settleGroup_quiet ..)) (.refl s)

theorem State.groupLoss_quiet (s : State) (root : Option Nat) (key : Nat) : Quiet s (s.groupLoss root key) := by
  unfold State.groupLoss
  split
  · exact .refl s
  · exact .ite _ (s.cutGroup_quiet ..) ((s.modGroup_quiet ..).trans (Quiet.foldl (fun t (i : Inst) => t.tryResolve_quiet key i.seq) ..))

theorem State.groupsLoss_quiet (s before : State) : Quiet s (s.groupsLoss before) := Quiet.foldl (fun t key => t.groupLoss_quiet _ key) _ s

/-! ### Steps that put nothing back -/

/-- Nothing that a reset has taken away comes back: a context without a record stays without one, a core keeps all but its place, the sequencers take in no
entry, and a partition in reset stays in it. -/
structure Fades (s t : State) : Prop where
  idle : ∀ c, (s.ctx c).phase = .idle → (t.ctx c).phase = .idle
  core : ∀ k, ∃ phys exposed retiring, t.core k = { s.core k with phys := phys, exposed := exposed, retiring := retiring }
  ready : ∀ cl, (t.cluster cl).ready ⊆ (s.cluster cl).ready
  waiting : ∀ cl, (t.cluster cl).waiting ⊆ (s.cluster cl).waiting
  dep : ∀ cl, (t.cluster cl).dep ⊆ (s.cluster cl).dep
  parts : ∀ p q, s.hub.parts.find p = some q → ∃ u, t.hub.parts.find p = some u ∧ u.reset = q.reset

theorem Fades.refl (s : State) : Fades s s :=
  ⟨fun _ h => h, fun _ => ⟨_, _, _, rfl⟩, fun _ => List.Subset.refl _, fun _ => List.Subset.refl _, fun _ => List.Subset.refl _, fun _ q h => ⟨q, h, rfl⟩⟩

theorem Fades.trans {s t u : State} (h : Fades s t) (g : Fades t u) : Fades s u where
  idle c rests := g.idle c (h.idle c rests)
  core k := by
    obtain ⟨_, _, _, first⟩ := h.core k
    obtain ⟨_, _, _, second⟩ := g.core k
    exact ⟨_, _, _, by rw [second, first]⟩
  ready cl := List.Subset.trans (g.ready cl) (h.ready cl)
  waiting cl := List.Subset.trans (g.waiting cl) (h.waiting cl)
  dep cl := List.Subset.trans (g.dep cl) (h.dep cl)
  parts p q found := by
    obtain ⟨r, foundR, sameR⟩ := h.parts p q found
    obtain ⟨u, foundU, sameU⟩ := g.parts p r foundR
    exact ⟨u, foundU, sameU.trans sameR⟩

theorem Fades.foldl {β : Type} {f : State → β → State} (h : ∀ s b, Fades s (f s b)) (l : List β) (s : State) : Fades s (l.foldl f s) :=
  List.foldlRecOn l f (.refl s) fun t ht b _ => ht.trans (h t b)

theorem Quiet.fades {s t : State} (h : Quiet s t) : Fades s t := by
  have cluster (cl : Nat) : t.cluster cl = s.cluster cl := by rw [State.cluster, h.clusters]; rfl
  refine ⟨h.calm.2, fun k => ⟨_, _, _, by rw [State.core, h.cores]; rfl⟩, fun cl => ?_, fun cl => ?_, fun cl => ?_, fun p q found => ⟨q, ?_, rfl⟩⟩
  · rw [cluster]; exact List.Subset.refl _
  · rw [cluster]; exact List.Subset.refl _
  · rw [cluster]; exact List.Subset.refl _
  · rw [h.calm.1]; exact found

/-- A cluster that takes in no entry. -/
theorem State.modCluster_fades (s : State) (cl : Nat) {f : ClusterSt → ClusterSt} (ready : ∀ q, (f q).ready ⊆ q.ready) (waiting : ∀ q, (f q).waiting ⊆ q.waiting)
    (dep : ∀ q, (f q).dep ⊆ q.dep) : Fades s (s.modCluster cl f) := by
  refine ⟨fun _ h => h, fun _ => ⟨_, _, _, rfl⟩, fun j => ?_, fun j => ?_, fun j => ?_, fun _ q h => ⟨q, h, rfl⟩⟩
  all_goals
    rw [State.cluster_modCluster]
    split
  · next same => rw [same]; exact ready _
  · exact List.Subset.refl _
  · next same => rw [same]; exact waiting _
  · exact List.Subset.refl _
  · next same => rw [same]; exact dep _
  · exact List.Subset.refl _

/-- A core that takes another place. -/
theorem State.modCore_fades (s : State) (k : Nat) {f : CoreSt → CoreSt}
    (place : ∀ x, ∃ phys exposed retiring, f x = { x with phys := phys, exposed := exposed, retiring := retiring }) : Fades s (s.modCore k f) := by
  refine ⟨fun _ h => h, fun j => ?_, fun _ => List.Subset.refl _, fun _ => List.Subset.refl _, fun _ => List.Subset.refl _, fun _ q h => ⟨q, h, rfl⟩⟩
  rw [State.core_modCore]
  split
  · next same => rw [same]; exact place _
  · exact ⟨_, _, _, rfl⟩

/-- A cluster that keeps its entries. -/
theorem State.modCluster_fades_same (s : State) (cl : Nat) {f : ClusterSt → ClusterSt}
    (same : ∀ q, (f q).ready = q.ready ∧ (f q).waiting = q.waiting ∧ (f q).dep = q.dep) : Fades s (s.modCluster cl f) :=
  s.modCluster_fades cl (fun q => (same q).1 ▸ List.Subset.refl _) (fun q => (same q).2.1 ▸ List.Subset.refl _) fun q => (same q).2.2 ▸ List.Subset.refl _

theorem State.enterRec_fades (s : State) (cl : Nat) (r : CRec) : Fades s (s.enterRec cl r) := by
  have entered : Fades s (s.modCluster cl fun q => { q with evq := q.evq ++ [r] }) := s.modCluster_fades_same cl fun _ => ⟨rfl, rfl, rfl⟩
  unfold State.enterRec
  dsimp only
  split
  · exact entered.trans (State.pushIncr_quiet ..).fades
  · exact entered

theorem State.postRec_fades (s : State) (cl : Nat) (r : CRec) : Fades s (s.postRec cl r) := by
  unfold State.postRec
  split
  · exact s.enterRec_fades cl r
  · exact s.modCluster_fades_same cl fun _ => ⟨rfl, rfl, rfl⟩

theorem State.evictedFault_fades (s : State) (cl : Nat) (r : RecRef) (sv : SaveRef) (cause : Nat) (post : Bool) : Fades s (s.evictedFault cl r sv cause post) := by
  unfold State.evictedFault
  dsimp only
  have counted (j : BitVec 48) (b : Bool) : Fades s ((s.recFault r.vf r.addr cause).countFault r.vf j b) :=
    ((s.recWrite_quiet ..).trans (State.countFault_quiet ..)).fades
  split
  · exact (counted ..).trans (State.postRec_fades ..)
  · exact counted ..

theorem State.endEvicted_fades (s : State) (cl : Nat) (r : RecRef) (cause : Nat) (post : Bool) : Fades s (s.endEvicted cl r cause post) := by
  cases evicted : r.evicted with
  | none =>
    simp only [State.endEvicted, evicted]
    exact .refl s
  | some sv =>
    let t := s.evictedFault cl r sv cause post
    have erased : Fades t (t.modCluster cl fun q => { q with ready := q.ready.erase r }) :=
      t.modCluster_fades cl (fun _ => List.erase_subset) (fun _ => List.Subset.refl _) fun _ => List.Subset.refl _
    have ended : s.endEvicted cl r cause post =
        { t.modCluster cl fun q => { q with ready := q.ready.erase r } with saved := t.saved.del sv.unit } := by
      simp only [State.endEvicted, evicted]
      rfl
    have freed : Quiet (t.modCluster cl fun q => { q with ready := q.ready.erase r }) (s.endEvicted cl r cause post) := by
      rw [ended]
      exact .apart rfl rfl rfl rfl
    exact ((s.evictedFault_fades cl r sv cause post).trans erased).trans freed.fades

/-- A table whose entries each change in place. -/
theorem Table.find_map {β : Type} {f : Nat × β → Nat × β} (key : ∀ p, (f p).1 = p.1) (t : Table β) (k : Nat) :
    (Table.mk (t.l.map f)).find k = (t.find k).map fun v => (f (k, v)).2 := by
  unfold Table.find
  induction t.l with
  | nil => rfl
  | cons p r ih =>
    by_cases here : p.1 = k
    · subst here
      simp [Table.findL, key]
    · simpa [Table.findL, key, here] using ih

/-- Partitions that each change in place, but for their resets. -/
theorem State.mapParts_fades (s : State) {f : Nat × Part → Nat × Part} (key : ∀ p, (f p).1 = p.1) (reset : ∀ p, (f p).2.reset = p.2.reset) :
    Fades s (s.modHub fun h => { h with parts := ⟨h.parts.l.map f⟩ }) := by
  refine ⟨fun _ h => h, fun _ => ⟨_, _, _, rfl⟩, fun _ => List.Subset.refl _, fun _ => List.Subset.refl _, fun _ => List.Subset.refl _, fun p q found =>
    ⟨(f (p, q)).2, (Table.find_map key s.hub.parts p).trans ?_, reset (p, q)⟩⟩
  rw [found]
  rfl

theorem State.retireMap_fades (s : State) (k : Nat) : Fades s (s.retireMap k) := by
  unfold State.retireMap
  dsimp only
  split
  · exact (s.modDie_quiet ..).fades.trans (State.modCore_fades _ k fun _ => ⟨_, _, _, rfl⟩)
  · refine Fades.trans (Fades.trans (Fades.trans ?_ (State.modDie_quiet ..).fades) (State.modCore_fades _ k fun _ => ⟨_, _, _, rfl⟩))
      (State.mapParts_fades _ (fun _ => by rfl) fun _ => by rfl)
    exact Fades.foldl (fun (t : State) (r : Nat × RecRef) => t.endEvicted_fades r.1 r.2 cRESET true) ..

end Sys2Proof.Machine
end

section
/-! SUPPORT. The reset of a partition in stages: its records end, its cores return to their first state, and what follows puts nothing back (R210, R236, R331 to
R333). -/

namespace Sys2Proof.Machine

/-! ### What comes before the cores -/

theorem State.enterRec_calm (s : State) (cl : Nat) (r : CRec) : Calm s (s.enterRec cl r) := by
  unfold State.enterRec
  exact .ite _ (.apart rfl rfl) (.apart rfl rfl)

theorem refillL_calm (cl n : Nat) (s : State) : Calm s (refillL cl n s) := by
  induction n generalizing s with
  | zero => exact .refl s
  | succ n ih =>
    unfold refillL
    split
    · exact .refl s
    · refine .ite _ (Calm.trans ?_ (ih _)) (.refl s)
      exact (Calm.apart rfl rfl : Calm s (s.modCluster cl _)).trans (State.enterRec_calm ..)

theorem State.dropLaunches_calm (s : State) (c : Nat) : Calm s (s.dropLaunches c) := by
  unfold State.dropLaunches
  exact Calm.foldl (fun t _ => (Calm.apart rfl rfl : Calm t (t.modCluster _ _)).trans (State.postRec_calm ..)) _ s

/-- The records of the partition have ended, in contexts and EVICTED (R333). -/
def State.resetRuns (s : State) (p : Nat) : State :=
  let s1 := (s.partCtxs p).foldl (fun (s : State) c => s.endFault c cRESET false) s
  (s1.evictedRefs fun (r : RecRef) => decide (r.part = p)).foldl (fun (s : State) (q : Nat × RecRef) => s.endEvicted q.1 q.2 cRESET false) s1

/-- A cluster without the entries of partition p. -/
def ClusterSt.expel (q : ClusterSt) (p : Nat) : ClusterSt :=
  { q with
    ready := q.ready.filter fun (r : RecRef) => decide (r.part ≠ p)
    waiting := q.waiting.filter fun (r : RecRef) => decide (r.part ≠ p)
    dep := q.dep.filter fun (d : DepEntry) => decide (d.part ≠ p) }

/-- The sequencers keep no entry of the partition, and no completion record of its cores (R333). -/
def State.resetQueues (s : State) (p : Nat) : State :=
  let s2 := s.resetRuns p
  let others (l : List CRec) : List CRec := l.filter fun (r : CRec) => match s2.recCore r with
    | some k => !(s2.coresOf p).contains k
    | none => true
  let sa := { s2 with clusters := ⟨s2.clusters.l.map fun (q : Nat × ClusterSt) => (q.1, { q.2 with evq := others q.2.evq, late := others q.2.late })⟩ }
  let sb := sa.clusters.keys.foldl (fun (s : State) cl => refillL cl (s.cluster cl).late.length s) sa
  let sc := (s.partCtxs p).foldl State.dropLaunches sb
  { sc with clusters := ⟨sc.clusters.l.map fun (q : Nat × ClusterSt) => (q.1, q.2.expel p)⟩ }

/-- The cores of the partition are in their first state, and it is marked as in reset (R236, R331). -/
def State.resetCores (s : State) (p : Nat) : State :=
  (((s.resetRuns p).coresOf p).foldl State.resetCore (s.resetQueues p)).modPart p fun q => { q with reset := true, tick := none, saved := 0 }

theorem State.resetPartition_eq (s : State) (p : Nat) : s.resetPartition p =
    ((((s.resetRuns p).coresOf p).filter fun k => ((s.resetCores p).core k).retiring).foldl (fun (s : State) k => (s.retireMap k).completeCmd stOK)
      (s.resetCores p)).groupsLoss s := rfl

/-- After the cores are reset nothing comes back. -/
theorem State.resetPartition_fades (s : State) (p : Nat) : Fades (s.resetCores p) (s.resetPartition p) := by
  rw [State.resetPartition_eq]
  exact (Fades.foldl (fun (t : State) k => (t.retireMap_fades k).trans (State.completeCmd_quiet ..).fades) _ _).trans (State.groupsLoss_quiet ..).fades

/-! ### Contexts and partitions -/

theorem State.resetRuns_calm (s : State) (p : Nat) : Calm ((s.partCtxs p).foldl (fun (s : State) c => s.endFault c cRESET false) s) (s.resetRuns p) :=
  Calm.foldl (fun (t : State) (r : Nat × RecRef) => t.endEvicted_calm r.1 r.2 cRESET false) _ _

theorem State.resetQueues_calm (s : State) (p : Nat) : Calm (s.resetRuns p) (s.resetQueues p) := by
  unfold State.resetQueues
  extract_lets s2 others sa sb sc
  have kept : Calm s2 sa := .apart rfl rfl
  have refilled : Calm sa sb := Calm.foldl (fun t cl => refillL_calm cl _ t) _ sa
  have dropped : Calm sb sc := Calm.foldl State.dropLaunches_calm _ sb
  exact ((kept.trans refilled).trans dropped).trans (.apart rfl rfl)

theorem State.resetCore_calm (s : State) (k : Nat) : Calm s (s.resetCore k) := .apart rfl rfl

/-- All that precedes the mark leaves the partitions as they were. -/
theorem State.resetQueues_parts (s : State) (p : Nat) : (s.resetQueues p).hub.parts = s.hub.parts ∧ (s.resetRuns p).hub.parts = s.hub.parts := by
  have ended := (Calm.foldl (fun (t : State) c => t.endFault_calm c cRESET false) (s.partCtxs p) s).1
  have runs := (s.resetRuns_calm p).1.trans ended
  exact ⟨(s.resetQueues_calm p).1.trans runs, runs⟩

theorem State.partHolds_congr {s t : State} (h : t.hub.parts = s.hub.parts) (p k : Nat) : t.partHolds p k = s.partHolds p k := by
  unfold State.partHolds State.partWord
  rw [h]

theorem State.mem_resetCores {s : State} {p k : Nat} (die : k < 256) (held : s.partHolds p k = true) : k ∈ (s.resetRuns p).coresOf p :=
  List.mem_filter.2 ⟨List.mem_range.2 die, (State.partHolds_congr (s.resetQueues_parts p).2 p k).trans held⟩

section
variable {s : State} {p : Nat} {q : Part} (found : s.hub.parts.find p = some q)
include found

/-- The mark is the last of it (R331). -/
theorem State.resetCores_eq : s.resetCores p =
    (((s.resetRuns p).coresOf p).foldl State.resetCore (s.resetQueues p)).setPart p { q with reset := true, tick := none, saved := 0 } := by
  have parts := (Calm.foldl State.resetCore_calm ((s.resetRuns p).coresOf p) (s.resetQueues p)).1.trans (s.resetQueues_parts p).1
  exact State.modPart_found (by rw [parts, found]) _

theorem State.resetCores_marked : (s.resetCores p).hub.parts.find p = some { q with reset := true, tick := none, saved := 0 } := by
  rw [State.resetCores_eq found]
  exact State.setPart_find ..

/-- No context of the partition's cores holds a record any longer (R333). -/
theorem State.resetCores_idle {c : Nat} (die : coreOf c < 256) (held : s.partHolds p (coreOf c) = true) : ((s.resetCores p).ctx c).phase = .idle := by
  have ended : (((s.partCtxs p).foldl (fun (s : State) c => s.endFault c cRESET false) s).ctx c).phase = .idle := by
    by_cases idle : (s.ctx c).phase = .idle
    · exact (Calm.foldl (fun (t : State) d => t.endFault_calm d cRESET false) _ s).2 c idle
    · exact foldl_reaches (f := fun (t : State) d => t.endFault d cRESET false) (I := fun _ => True) (P := fun t : State => (t.ctx c).phase = .idle)
        (fun _ _ _ => trivial) (fun t _ => t.endFault_idle c cRESET false) (fun t d _ h => (t.endFault_calm d cRESET false).2 c h)
        (State.mem_partCtxs die held idle) trivial
  rw [State.resetCores_eq found]
  exact (((s.resetRuns_calm p).trans (s.resetQueues_calm p)).trans (Calm.foldl State.resetCore_calm _ _)).2 c ended

end

/-! ### Cores -/

/-- A core with its engines and its array in their first state (R210, R236). -/
structure CoreSt.Cleared (x : CoreSt) : Prop where
  mq : x.mq = []
  mrun : x.mrun = none
  cq : x.cq = []
  crun : x.crun = none
  gq : x.gq = []
  grun : x.grun = none
  kq : x.kq = []
  krun : x.krun = none
  latch : x.latch = none
  banks : x.banks = Table.empty
  cells : x.cells = Table.empty
  ver : x.ver = Vector.replicate 4 0

theorem State.resetCore_core (s : State) (k j : Nat) : (s.resetCore k).core j = if j = k then { (s.core k).clearArray with
    mq := [], mrun := none, cq := [], crun := none, gq := [], grun := none, kq := [], krun := none, origin := s.now } else s.core j := State.core_modCore ..

theorem State.resetCore_cleared (s : State) (k : Nat) : ((s.resetCore k).core k).Cleared := by
  rw [State.resetCore_core, if_pos rfl]
  exact ⟨rfl, rfl, rfl, rfl, rfl, rfl, rfl, rfl, rfl, rfl, rfl, rfl⟩

theorem State.resetCore_keeps_cleared (s : State) (j : Nat) {k : Nat} (h : (s.core k).Cleared) : ((s.resetCore j).core k).Cleared := by
  by_cases same : k = j
  · rw [same]
    exact s.resetCore_cleared j
  · rw [State.resetCore_core, if_neg same]
    exact h

theorem State.resetCores_cleared {s : State} {p k : Nat} {q : Part} (found : s.hub.parts.find p = some q) (die : k < 256) (held : s.partHolds p k = true) :
    ((s.resetCores p).core k).Cleared := by
  rw [State.resetCores_eq found]
  exact foldl_reaches (f := State.resetCore) (I := fun _ => True) (P := fun t : State => (t.core k).Cleared) (fun _ _ _ => trivial)
    (fun t _ => t.resetCore_cleared k) (fun t j _ => t.resetCore_keeps_cleared j) (State.mem_resetCores die held) trivial

theorem Fades.cleared {s t : State} (h : Fades s t) {k : Nat} (cleared : (s.core k).Cleared) : (t.core k).Cleared := by
  obtain ⟨_, _, _, core⟩ := h.core k
  obtain ⟨mq, mrun, cq, crun, gq, grun, kq, krun, latch, banks, cells, ver⟩ := cleared
  rw [core]
  exact ⟨mq, mrun, cq, crun, gq, grun, kq, krun, latch, banks, cells, ver⟩

theorem CoreSt.Cleared.version {s : State} {k : Nat} (h : (s.core k).Cleared) (b : Nat) : s.version k b = 0 := by
  rw [State.version, h.ver, Vector.toList_replicate, List.getD_eq_getElem?_getD, List.getElem?_replicate]
  split <;> rfl

/-! ### Clusters -/

/-- Each cluster of the queues is one without the partition's entries (R333). -/
theorem State.resetCores_cluster {s : State} {p : Nat} {q : Part} (found : s.hub.parts.find p = some q) (cl : Nat) :
    ∃ x : ClusterSt, (s.resetCores p).cluster cl = x.expel p := by
  have expelled (t : Table ClusterSt) : ∃ x : ClusterSt, (Table.mk (t.l.map fun (q : Nat × ClusterSt) => (q.1, q.2.expel p))).get cl ClusterSt.zero = x.expel p := by
    rw [Table.get, Table.find_map fun _ => by rfl]
    cases t.find cl with
    | none => exact ⟨ClusterSt.zero, rfl⟩
    | some x => exact ⟨x, rfl⟩
  have clusters : (s.resetCores p).clusters = (s.resetQueues p).clusters := by
    rw [State.resetCores_eq found]
    exact foldl_keeps State.clusters (f := State.resetCore) (fun _ _ => rfl) _ _
  rw [State.cluster, clusters]
  exact expelled _

theorem ClusterSt.expel_part (x : ClusterSt) (p : Nat) :
    (∀ r ∈ (x.expel p).ready, r.part ≠ p) ∧ (∀ r ∈ (x.expel p).waiting, r.part ≠ p) ∧ ∀ r ∈ (x.expel p).dep, r.part ≠ p :=
  ⟨fun _ h => of_decide_eq_true (List.mem_filter.1 h).2, fun _ h => of_decide_eq_true (List.mem_filter.1 h).2, fun _ h => of_decide_eq_true (List.mem_filter.1 h).2⟩

/-! ### Uncorrectable errors (R320, R331, R373) -/

theorem State.countErr_rest (s : State) (die i : Nat) : (s.countErr die i).mem = s.mem ∧ (s.countErr die i).poison = s.poison := by
  unfold State.countErr
  split <;> exact ⟨rfl, rfl⟩

theorem State.countTier_rest (s : State) (loc : Nat) (bad : Bool) : (s.countTier loc bad).mem = s.mem ∧ (s.countTier loc bad).poison = s.poison := by
  unfold State.countTier
  dsimp only
  split
  · exact ⟨rfl, rfl⟩
  · split
    · exact ⟨rfl, rfl⟩
    · split
      · exact s.countErr_rest ..
      · split
        · exact s.countErr_rest ..
        · exact s.countErr_rest ..

/-- A dword with an uncorrectable error is poison, beside those that are (R320). -/
theorem State.strikeDword (s : State) (l m : Nat) : ((s.addPoison (l / 8 * 8) 8).countTier l true).poisoned m = true ↔ m / 8 = l / 8 ∨ s.poisoned m = true := by
  unfold State.poisoned
  rw [(State.countTier_rest ..).2, Nat.mul_comm, List.contains_iff_mem, State.mem_addPoison_dword, List.contains_iff_mem]

/-- A register with an uncorrectable error is poison, and keeps its value (R320, R321). -/
theorem Ctx.strike_x (x : Ctx) (fresh l : Nat) {n : Nat} (pos : 0 < n) (h : n < 32) :
    (x.strike fresh 0 n l).r.xp.getLsbD n = true ∧ (x.strike fresh 0 n l).r.x = x.r.x := by
  have struck : x.strike fresh 0 n l = x.modR fun r => { r with xp := putBit r.xp n true } := by
    simp only [Ctx.strike, Nat.mod_eq_of_lt h, if_neg (Nat.pos_iff_ne_zero.1 pos)]
  rw [struck]
  exact ⟨(getLsbD_putBit_true _ _ h).trans (by simp), rfl⟩

theorem Ctx.strike_y (x : Ctx) (fresh l : Nat) {n : Nat} (pos : 0 < n) (h : n < 32) :
    (x.strike fresh 1 n l).r.yp.getLsbD n = true ∧ (x.strike fresh 1 n l).r.y = x.r.y := by
  have struck : x.strike fresh 1 n l = x.modR fun r => { r with yp := putBit r.yp n true } := by
    simp only [Ctx.strike, Nat.mod_eq_of_lt h, if_neg (Nat.pos_iff_ne_zero.1 pos)]
  rw [struck]
  exact ⟨(getLsbD_putBit_true _ _ h).trans (by simp), rfl⟩

end Sys2Proof.Machine
end

section
open Sys2Proof Sys2Proof.Machine

/-- Settles O58: the cores' reset by its stages, after which nothing comes back, and each error by what it strikes. -/
theorem partitionResets : Obligations.PartitionResets := by
  refine ⟨fun s p q found => ?_, fun s p n => ⟨rfl, rfl, rfl, rfl⟩, fun s k b row hb hrow => ?_, fun s k => ?_, fun s l => ?_, fun s c n l pos hn => ?_⟩
  · intro t
    have fades : Fades (s.resetCores p) t := s.resetPartition_fades p
    refine ⟨fun c die held => fades.idle c (State.resetCores_idle found die held), fun k die held => ?_, fun cl => ?_, ?_⟩
    · have cleared := fades.cleared (State.resetCores_cleared found die held)
      exact ⟨cleared.mq, cleared.mrun, cleared.cq, cleared.crun, cleared.gq, cleared.grun, cleared.kq, cleared.krun, cleared.latch, cleared.banks, cleared.cells,
        fun b _ => cleared.version b⟩
    · obtain ⟨x, cluster⟩ := State.resetCores_cluster found cl
      obtain ⟨ready, waiting, dep⟩ := x.expel_part p
      rw [← cluster] at ready waiting dep
      exact ⟨fun r h => ready r (fades.ready cl h), fun r h => waiting r (fades.waiting cl h), fun r h => dep r (fades.dep cl h)⟩
    · exact fades.parts p _ (State.resetCores_marked found)
  · refine ⟨_, rfl, ?_, ?_, rfl⟩
    · rw [State.core_modCore, if_pos rfl]
      exact mem_insertSorted.2 (.inl (by rw [Nat.mod_eq_of_lt hb, Nat.mod_eq_of_lt hrow]))
    · rw [State.core_modCore, if_pos rfl]
  · refine ⟨_, rfl, ?_, ?_, rfl⟩
    · rw [State.core_modCore, if_pos rfl]
      exact Option.some_ne_none _
    · rw [State.core_modCore, if_pos rfl]
  · exact ⟨_, rfl, (s.strikeDword l l).2 (.inl rfl), (State.countTier_rest ..).1, fun m poisoned => (s.strikeDword l m).2 (.inr poisoned)⟩
  · obtain ⟨xp, x⟩ := (s.ctx c).strike_x s.fresh l pos hn
    obtain ⟨yp, y⟩ := (s.ctx c).strike_y s.fresh l pos hn
    have here (f : Ctx → Ctx) : (s.modCtx c f).bump.ctx c = f (s.ctx c) := State.ctx_modCtx_self ..
    refine ⟨⟨_, rfl, ?_, ?_, rfl⟩, _, rfl, ?_, ?_⟩
    · rw [here]; exact xp
    · rw [here]; exact x
    · rw [here]; exact yp
    · rw [here]; exact y
end

section
/-! SUPPORT. The generator slots: GSET, GSEED and GGEN (R249 to R251, R424). -/

namespace Sys2Proof.Machine

section
variable {s : State} (h : s.Issuing)
include h

/-- GSET puts its descriptor on its way, with the bytes that it writes (R249). -/
theorem issue_gset (o : R3) (ofs : Bool) :
    let a := s.cA .x o.a o.ha
    let b := s.cB o.b o.hb
    let v : BitVec 128 := if ofs then (a.d.setWidth 24 ++ b.d.setWidth 24 : BitVec 48).setWidth 128 else b.d ++ a.d
    exec (.gset o ofs) s = .next (s.gives [a, b]
      { mkRes .g o.d.toNat (v.setWidth 2048) (s.now + 1) with lm := true, lanes := if ofs then 0x3F else 0xFFFF }) :=
  (issue_finish (slotGset o ofs) h rfl).trans rfl

/-- GSEED puts a seed, the sum of its word and its immediate, on its way to the four bytes of SEED (R249). -/
theorem issue_gseed (o : RI) :
    let a := s.cA .x o.a false
    let seed : W32 := a.w + (s.env.imm11 o.imm).setWidth 32
    exec (.gseed o) s = .next (s.gives [a]
      { mkRes .g o.d.toNat ((seed.setWidth 128 <<< 64 : BitVec 128).setWidth 2048) (s.now + 1) with lm := true, lanes := 0xF00 }) :=
  (issue_finish (slotGseed o) h rfl).trans rfl

end

/-- What a lane of GGEN holds for the code of its element: the code itself where `c` is set, and its FP32 value otherwise (R250). -/
def genLane (c : Bool) (fmt code : Nat) : W32 :=
  if c then BitVec.ofNat 32 code else if (decodeFmt fmt code).isNan then nan32 else rne32 (decodeFmt fmt code)

/-- The code that GGEN generates for lane l: the offsets of descriptor `d` and the indices in `b` name its first element, and the lanes go on along the
row, or down the column where `t` is set (R250). -/
def State.genLaneCode (s : State) (d : BitVec 128) (b : W64) (t : Bool) (l : Nat) : Nat :=
  let n : W32 := BitVec.ofNat 32 (gRow d) + b.setWidth 32
  let m : W32 := BitVec.ofNat 32 (gCol d) + b.extractLsb' 32 32 + BitVec.ofNat 32 l
  if t then genCode (s.ctxGen s.cur) d m n else genCode (s.ctxGen s.cur) d n m

section
variable {s : State} (h : s.Issuing)
include h

/-- GGEN puts its lanes on their way: those of the descriptor where it is valid, and +0 with NV where it is not (R250). -/
theorem issue_ggen (o : R3) (t c : Bool) :
    let a := s.cA .g o.a o.ha
    let b := s.cB o.b o.hb
    let d : BitVec 128 := a.val.setWidth 128
    let v : Wide := if gValid d then ofLanes fun l => if s.env.on l then genLane c (gFmt d) (s.genLaneCode d b.d t l) else 0 else 0
    exec (.ggen o t c) s = .next (s.gives [a, b]
      { mkRes .v o.d.toNat v (s.now + 8) with flags := if gValid d then 0 else flNV, lm := s.env.lm, lanes := s.env.lanes }) :=
  (issue_finish (slotGgen o t c) h rfl).trans rfl

/-- A valid descriptor gives its elements to the enabled lanes, and no flag. -/
theorem issue_ggen_valid (o : R3) (t c : Bool) :
    let a := s.cA .g o.a o.ha
    let b := s.cB o.b o.hb
    let d : BitVec 128 := a.val.setWidth 128
    gValid d = true → exec (.ggen o t c) s = .next (s.gives [a, b]
      { mkRes .v o.d.toNat (ofLanes fun l => if s.env.on l then genLane c (gFmt d) (s.genLaneCode d b.d t l) else 0) (s.now + 8) with
        lm := s.env.lm, lanes := s.env.lanes }) := by
  intro a b d valid
  rw [issue_ggen h, if_pos valid, if_pos valid]
  rfl

/-- An invalid descriptor gives +0 and NV. -/
theorem issue_ggen_invalid (o : R3) (t c : Bool) :
    let a := s.cA .g o.a o.ha
    gValid (a.val.setWidth 128) = false → exec (.ggen o t c) s = .next (s.gives [a, s.cB o.b o.hb]
      { mkRes .v o.d.toNat 0 (s.now + 8) with flags := flNV, lm := s.env.lm, lanes := s.env.lanes }) := by
  intro a invalid
  have bad : ¬gValid (a.val.setWidth 128) = true := Bool.eq_false_iff.1 invalid
  rw [issue_ggen h, if_neg bad, if_neg bad]

end

/-- Without a PFXI the low word of an 11-bit immediate is its own extension to 32 bits (R64). -/
theorem State.imm11_low_word {s : State} (hp : s.iss.pfxi = none) (imm : BitVec 11) : (s.env.imm11 imm).setWidth 32 = imm.signExtend 32 := by
  rw [State.imm11_eq (.inl ⟨hp, rfl⟩)]
  refine BitVec.eq_of_getLsbD_eq fun i hi => ?_
  have low : i < 64 := by omega
  simp only [BitVec.getLsbD_setWidth, BitVec.getLsbD_signExtend, hi, low, decide_true, Bool.true_and]

end Sys2Proof.Machine
end

section
open Sys2Proof Sys2Proof.Machine

/-- Settles O25: each slot is one of the forms above, GGEN by whether its descriptor is valid and by what it gives. -/
theorem generatorSlots : Obligations.GeneratorSlots := by
  refine ⟨fun s o h => ⟨issue_gset h o false, issue_gset h o true⟩, fun s o h hp => ?_, fun s o t c h => ?_⟩
  · rw [← State.imm11_low_word hp]
    exact issue_gseed h o
  · refine ⟨fun valid codes => ?_, fun valid values => ?_, issue_ggen_invalid h o t c⟩
    · subst codes
      exact issue_ggen_valid h o t true valid
    · subst values
      exact issue_ggen_valid h o t false valid
end

section
/-! SUPPORT. LAUNCH and DISPATCH: the request that they send or hold back, and what they wait for (R264, R266 to R268, R294, R414, R426). -/

namespace Sys2Proof.Machine

/-- A context with an entry in LSQ(c) or in ROUT(c) is not quiet (R264). -/
theorem Ctx.quiet_false {x : Ctx} (busy : x.lsq ≠ [] ∨ x.rout ≠ []) : x.quiet = false := by
  rcases busy with lsq | rout
  · rw [Ctx.quiet, List.isEmpty_eq_false_iff.2 lsq, Bool.false_and]
  · rw [Ctx.quiet, List.isEmpty_eq_false_iff.2 rout, Bool.and_false]

/-- The third operand of the slot: DISPATCH alone has one, the function (R414). -/
def State.launchD (s : State) (o : R3) (dispatch : Bool) : Opnd := if dispatch then s.env.reg .x o.d else Opnd.none

/-- The request to the sequencer: the function is the context's own, or the one that DISPATCH names (R266, R414, R426). -/
def State.launchReq (s : State) (o : R3) (dispatch : Bool) : LaunchReq :=
  ⟨dispatch, (s.kA o.a o.ha).d.toNat, (s.kB o.b o.hb).d, if dispatch then (s.launchD o dispatch).d.toNat % 128 else (s.ctx s.cur).vf, coreOf s.cur, s.cur,
    (s.ctx s.cur).rcd, (s.ctx s.cur).nextSeq, !dispatch && s.iss.don, false⟩

/-- The operands are taken, and the status is in flight, one part to return (R95, R276). -/
def State.launchBegun (s : State) (o : R3) (dispatch : Bool) : State :=
  s.gives [s.kA o.a o.ha, s.kB o.b o.hb, s.launchD o dispatch] (s.later o.d 8 1600 1 0)

section
variable {s : State} (h : s.Issuing) (o : R3) {dispatch : Bool} (i : State → Slot) (hi : i s = launchSlot s.env o dispatch)
include h hi

/-- With no prediction outstanding the request goes to the sequencer of the core's cluster (R266). -/
theorem issue_launchSlot_sends (sure : (s.ctx s.cur).preds = []) :
    issue i s = .next ((s.launchBegun o dispatch).sendReq (s.launchReq o dispatch)) := by
  have closed : (!s.env.x.preds.isEmpty) = false := by simp [State.env, sure]
  refine (issue_finish i h hi).trans (congrArg Host.Outcome.next ?_)
  simp only [closed, Bool.false_eq_true, if_false, State.launchReq, ← State.filled_nextSeq s [s.kA o.a o.ha, s.kB o.b o.hb, s.launchD o dispatch]]
  rfl

/-- Under a prediction it is held back in the basket (R294). -/
theorem issue_launchSlot_held (open_ : (s.ctx s.cur).preds ≠ []) : issue i s = .next ((s.launchBegun o dispatch).modCtx s.cur fun y =>
    { y with basket := y.basket ++ [(y.preds.length, .launch { s.launchReq o dispatch with held := true })] }) := by
  have pred : (!s.env.x.preds.isEmpty) = true := by simp [State.env, open_]
  refine (issue_finish i h hi).trans (congrArg Host.Outcome.next ?_)
  simp only [pred, if_true, State.launchReq, ← State.filled_nextSeq s [s.kA o.a o.ha, s.kB o.b o.hb, s.launchD o dispatch]]
  rfl

/-- With no prediction outstanding the slot waits until LSQ(c) and ROUT(c) are empty (R264). -/
theorem launchSlot_hold (sure : (s.ctx s.cur).preds = []) (busy : (s.ctx s.cur).lsq ≠ [] ∨ (s.ctx s.cur).rout ≠ []) : (i s).hold = .interlock := by
  have closed : (!s.env.x.preds.isEmpty) = false := by simp [State.env, sure]
  rw [hi]
  refine (Slot.finish_hold _ _ _ _ h.cond).trans ?_
  rw [closed, show s.env.x.quiet = false from Ctx.quiet_false busy]
  rfl

/-- An address that is no multiple of 64 is the one cause of the slot (R414, R426). -/
theorem launchSlot_traps (off : (s.kA o.a o.ha).d.toNat % 64 ≠ 0) : (i s).traps = [(cALIGN, (s.kA o.a o.ha).d)] := by
  rw [hi]
  exact (Slot.finish_traps h.cond).trans (if_pos off)

end

end Sys2Proof.Machine
end

section
open Sys2Proof Sys2Proof.Machine

/-- Settles O39: the one slot of LAUNCH and DISPATCH by whether a prediction is outstanding, and its checks. -/
theorem launchRequests : Obligations.LaunchRequests := by
  intro s o h x k a b d req
  exact ⟨fun sure => ⟨(issue_launchSlot_sends h o (slotLaunch o) rfl sure).trans rfl, (issue_launchSlot_sends h o (slotDispatch o) rfl sure).trans rfl,
      fun busy => ⟨launchSlot_hold h o (slotLaunch o) rfl sure busy, launchSlot_hold h o (slotDispatch o) rfl sure busy⟩⟩,
    fun open_ => (issue_launchSlot_held h o (slotLaunch o) rfl open_).trans rfl, fun off => launchSlot_traps h o (slotLaunch o) rfl off⟩
end

section
/-! SUPPORT. POST and RAISE: the job control block that they name, and the read-modify-write of it (R264, R294, R449). -/

namespace Sys2Proof.Machine

/-- The address of the block: the record's own for an operand of 0 (R449). -/
def State.jcbVa (s : State) (a : Opnd) : W64 := if a.d = 0 then BitVec.ofNat 64 ((s.ctx s.cur).jcb.toNat * 64) else a.d

/-- Is the block the record's own (R264)? -/
def State.jcbOwn (s : State) (a : Opnd) : Bool := decide ((s.jcbVa a).toNat = (s.ctx s.cur).jcb.toNat * 64)

/-- The read-modify-write of the block: RAISE has the count of operand B (R264, R449). -/
def State.jcbOp (s : State) (raise : Bool) (a b : Opnd) : Rmw := if raise then .raise (s.jcbOwn a) (b.d.toNat % 2 ^ 32) else .post (s.jcbOwn a)

/-- A result on its way leaves the predictions as they were. -/
theorem State.gives_preds (s : State) (ops : List Opnd) (t : Res) : ((s.gives ops t).ctx s.cur).preds = (s.ctx s.cur).preds := by
  obtain ⟨l, p, filled⟩ := s.filled_ctx ops
  have sent : (s.gives ops t).ctx s.cur = ((s.filled ops).ctx s.cur).push t := State.ctx_modCtx_self ..
  rw [sent, filled]
  rfl

/-- What enters the queues under a prediction goes to the basket (R294). -/
theorem State.gives_enterMem_predicted {s : State} (open_ : (s.ctx s.cur).preds ≠ []) (ops : List Opnd) (t : Res) {ls : List LEntry} {rs : List REntry}
    (entries : ls ≠ [] ∨ rs ≠ []) :
    (s.gives ops t).enterMem s.cur ls rs = (s.gives ops t).modCtx s.cur fun y => { y with basket := y.basket ++ [(y.preds.length, .mem ls rs)] } :=
  State.enterMem_predicted _ _ entries (by rwa [State.gives_preds])

section
variable {s : State} (h : s.Issuing) {raise : Bool} {d : BitVec 5} {a b : Opnd} (i : State → Slot) (hi : i s = jcbSlot s.env raise d a b)
include h hi

/-- With no block at all the status is FAULT, and nothing is sent (R449). -/
theorem issue_jcbSlot_none (zero : a.d = 0) (none : (s.ctx s.cur).jcb = 0) :
    issue i s = .next (s.gives [a, b] (s.later d 8 1600 0 (BitVec.ofNat 64 stFAULT))) := by
  have none0 : (decide (a.d = 0) && decide (s.env.x.jcb = 0)) = true := by simp [State.env, zero, none]
  exact (issue_finish i h hi).trans (congrArg Host.Outcome.next (if_pos none0))

section
variable (some_ : ¬(a.d = 0 ∧ (s.ctx s.cur).jcb = 0))
include some_

/-- A block at a home location of its own: the read-modify-write enters LSQ(c), or the basket with the mark of a POST under a prediction (R183, R294). -/
theorem issue_jcbSlot_home {l : Nat} {ps : List Nat} (route : s.route s.cur (s.jcbVa a).toNat .rw = .loc l ps) :
    issue i s = .next ((s.gives [a, b] (s.later d 8 1600 1 0)).enterMem s.cur
      [{ mkL (.rmw l (s.jcbOp raise a b)) (s.ctx s.cur).nextSeq ps with alone := if !(s.ctx s.cur).preds.isEmpty then 1 else 0 }] []) := by
  have block : ¬(decide (a.d = 0) && decide (s.env.x.jcb = 0)) = true := by
    rwa [Bool.and_eq_true, decide_eq_true_eq, decide_eq_true_eq]
  have here : ¬s.env.isRemote (s.jcbVa a).toNat = true := by simpa [Env.isRemote, State.env] using State.isLocal_of_route route
  rw [← State.filled_nextSeq s [a, b]]
  refine (issue_finish i h hi).trans (congrArg Host.Outcome.next ((if_neg block).trans ((if_neg here).trans ?_)))
  have home : s.env.s.route s.env.c (if a.d = 0 then BitVec.ofNat 64 (s.env.x.jcb.toNat * 64) else a.d).toNat .rw = .loc l ps := route
  dsimp only
  rw [home]
  rfl

/-- A block that is not local: the read-modify-write enters ROUT(c), or the basket with the mark of a POST under a prediction (R185, R294). -/
theorem issue_jcbSlot_far (far : s.isLocal (coreOf s.cur) (s.jcbVa a).toNat = false) :
    issue i s = .next ((s.gives [a, b] (s.later d 8 1600 1 0)).enterMem s.cur []
      [{ s.env.mkR (.rmw (s.jcbVa a).toNat (s.jcbOp raise a b)) (s.ctx s.cur).nextSeq with alone := if !(s.ctx s.cur).preds.isEmpty then some 0 else none }]) := by
  have block : ¬(decide (a.d = 0) && decide (s.env.x.jcb = 0)) = true := by
    rwa [Bool.and_eq_true, decide_eq_true_eq, decide_eq_true_eq]
  have remote : s.env.isRemote (s.jcbVa a).toNat = true := by simpa [Env.isRemote, State.env] using far
  rw [← State.filled_nextSeq s [a, b]]
  exact (issue_finish i h hi).trans (congrArg Host.Outcome.next ((if_neg block).trans (if_pos remote)))

/-- With no prediction outstanding the entry of LSQ(c) has no mark. -/
theorem issue_jcbSlot_home_sure (sure : (s.ctx s.cur).preds = []) {l : Nat} {ps : List Nat} (route : s.route s.cur (s.jcbVa a).toNat .rw = .loc l ps) :
    issue i s = .next ((s.gives [a, b] (s.later d 8 1600 1 0)).enterMem s.cur [mkL (.rmw l (s.jcbOp raise a b)) (s.ctx s.cur).nextSeq ps] []) := by
  rw [issue_jcbSlot_home h i hi some_ route, sure]
  rfl

/-- With no prediction outstanding the entry of ROUT(c) has no mark and no arm. -/
theorem issue_jcbSlot_far_sure (sure : (s.ctx s.cur).preds = []) (far : s.isLocal (coreOf s.cur) (s.jcbVa a).toNat = false) :
    issue i s = .next ((s.gives [a, b] (s.later d 8 1600 1 0)).enterMem s.cur []
      [⟨0, .rmw (s.jcbVa a).toNat (s.jcbOp raise a b), (s.ctx s.cur).nextSeq, 0, none, 0, 0, 0⟩]) := by
  rw [issue_jcbSlot_far h i hi some_ far, Env.mkR, show s.env.x.preds = [] from sure, sure]
  rfl

section
variable (open_ : (s.ctx s.cur).preds ≠ [])
include open_

/-- Under a prediction the entry has the mark of the local class in the basket (R294). -/
theorem issue_jcbSlot_home_predicted {l : Nat} {ps : List Nat} (route : s.route s.cur (s.jcbVa a).toNat .rw = .loc l ps) :
    issue i s = .next ((s.gives [a, b] (s.later d 8 1600 1 0)).modCtx s.cur fun y =>
      { y with basket := y.basket ++ [(y.preds.length, .mem [⟨.rmw l (s.jcbOp raise a b), (s.ctx s.cur).nextSeq, ps, 1⟩] [])] }) := by
  rw [issue_jcbSlot_home h i hi some_ route, State.gives_enterMem_predicted open_ _ _ (.inl (List.cons_ne_nil _ _)), List.isEmpty_eq_false_iff.2 open_]
  rfl

/-- Under a prediction a remote entry has it as well, wherever the block lies (R294). -/
theorem issue_jcbSlot_far_predicted (far : s.isLocal (coreOf s.cur) (s.jcbVa a).toNat = false) :
    issue i s = .next ((s.gives [a, b] (s.later d 8 1600 1 0)).modCtx s.cur fun y =>
      { y with basket := y.basket ++ [(y.preds.length, .mem []
        [⟨0, .rmw (s.jcbVa a).toNat (s.jcbOp raise a b), (s.ctx s.cur).nextSeq, 0, some 0, (s.ctx s.cur).preds.length, 0, 0⟩])] }) := by
  rw [issue_jcbSlot_far h i hi some_ far, State.gives_enterMem_predicted open_ _ _ (.inr (List.cons_ne_nil _ _)), List.isEmpty_eq_false_iff.2 open_]
  rfl

end

end

/-- With no prediction outstanding the slot waits until LSQ(c) and ROUT(c) are empty (R264). -/
theorem jcbSlot_hold (sure : (s.ctx s.cur).preds = []) (busy : (s.ctx s.cur).lsq ≠ [] ∨ (s.ctx s.cur).rout ≠ []) : (i s).hold = .interlock := by
  have closed : (!s.env.x.preds.isEmpty) = false := by simp [State.env, sure]
  rw [hi]
  refine (Slot.finish_hold _ _ _ _ h.cond).trans ?_
  rw [closed, show s.env.x.quiet = false from Ctx.quiet_false busy]
  rfl

end

end Sys2Proof.Machine
end

section
open Sys2Proof Sys2Proof.Machine

/-- Settles O40: the one slot of POST and RAISE, by the block that it names and where the block lies. -/
theorem postAndRaise : Obligations.PostAndRaise := by
  intro s h x k va own far
  exact ⟨fun sure busy => ⟨fun o => jcbSlot_hold h (slotPost o) rfl sure busy, fun o => jcbSlot_hold h (slotRaise o) rfl sure busy⟩,
    fun open_ o some_ => ⟨fun l ps home => issue_jcbSlot_home_predicted h (slotPost o) rfl some_ open_ home,
      fun away => issue_jcbSlot_far_predicted h (slotPost o) rfl some_ open_ away⟩,
    fun sure => ⟨fun o => ⟨fun some_ => ⟨fun l ps home => issue_jcbSlot_home_sure h (slotPost o) rfl some_ sure home,
        fun away => issue_jcbSlot_far_sure h (slotPost o) rfl some_ sure away⟩, fun zero none => issue_jcbSlot_none h (slotPost o) rfl zero none⟩,
      fun o => ⟨fun some_ => ⟨fun l ps home => issue_jcbSlot_home_sure h (slotRaise o) rfl some_ sure home,
        fun away => issue_jcbSlot_far_sure h (slotRaise o) rfl some_ sure away⟩, fun zero none => issue_jcbSlot_none h (slotRaise o) rfl zero none⟩⟩⟩
end

section
/-! SUPPORT. QPOP: the record that leaves the event queue, its dwords on their way to memory, and the record that takes its place (R161, R271, R453). -/

namespace Sys2Proof.Machine

/-! ### The dwords of a record -/

/-- The four dwords of a record in a register of 256 bytes. -/
def CRec.wide (r : CRec) : Wide := ((r.w3 ++ r.w2 : BitVec 128) ++ (r.w1 ++ r.w0 : BitVec 128) : BitVec 256).setWidth 2048

/-- A byte of dword `i` of a value is a byte of that dword. -/
theorem extractLsb'_dword {v : Wide} {w : W64} {i : Nat} (dword : v.extractLsb' (64 * i) 64 = w) {j : Nat} (hj : j < 8) :
    v.extractLsb' (8 * (8 * i + j)) 8 = w.extractLsb' (8 * j) 8 := by
  subst dword
  refine BitVec.eq_of_getLsbD_eq fun b hb => ?_
  have inside : 8 * j + b < 64 := by omega
  have place : 8 * (8 * i + j) + b = 64 * i + (8 * j + b) := by omega
  simp only [BitVec.getLsbD_extractLsb', hb, inside, place, decide_true, Bool.true_and]

/-- Dword `i` of a record. -/
def CRec.dword (r : CRec) (i : Nat) : W64 :=
  match i with
  | 0 => r.w0
  | 1 => r.w1
  | 2 => r.w2
  | _ => r.w3

theorem CRec.wide_dword (r : CRec) {i : Nat} (hi : i < 4) : r.wide.extractLsb' (64 * i) 64 = r.dword i := by
  rw [CRec.wide, BitVec.extractLsb'_setWidth_of_le (by omega)]
  match i, hi with
  | 0, _ => exact (BitVec.extractLsb'_append_eq_of_add_le (by decide)).trans BitVec.extractLsb'_append_eq_right
  | 1, _ => exact (BitVec.extractLsb'_append_eq_of_add_le (by decide)).trans BitVec.extractLsb'_append_eq_left
  | 2, _ => exact (BitVec.extractLsb'_append_eq_of_le (by decide)).trans BitVec.extractLsb'_append_eq_right
  | 3, _ => exact (BitVec.extractLsb'_append_eq_of_le (by decide)).trans BitVec.extractLsb'_append_eq_left

/-! ### The event queue -/

section
variable {s : State} {cl : Nat} {r : CRec} {q : List CRec} (queue : (s.cluster cl).evq = r :: q)
include queue

/-- The oldest record leaves a queue for which no record waits (R271). -/
theorem State.dropRec_none_waits (late : (s.cluster cl).late = []) : s.dropRec cl = s.modCluster cl fun c => { c with evq := q } := by
  rw [State.dropRec, late]
  show s.modCluster cl _ = _
  simp only [State.modCluster, queue, List.drop_succ_cons, List.drop_zero]

/-- A record that waited takes the place that the oldest one leaves (R161). -/
theorem State.dropRec_one_waits {u : CRec} (late : (s.cluster cl).late = [u]) (room : q.length < 256) (plain : u.w3.getLsbD 63 = false) :
    ((s.dropRec cl).cluster cl).evq = q ++ [u] ∧ ((s.dropRec cl).cluster cl).late = [] := by
  have left : (s.modCluster cl fun c => { c with evq := c.evq.drop 1 }).cluster cl = { s.cluster cl with evq := q } := by
    rw [State.cluster_modCluster, if_pos rfl, queue]
    rfl
  have free : (s.modCluster cl fun c => { c with evq := c.evq.drop 1 }).evRoom cl = true := by
    rw [State.evRoom, left]
    exact decide_eq_true room
  have dropped : s.dropRec cl = ((s.modCluster cl fun c => { c with evq := c.evq.drop 1 }).modCluster cl fun c => { c with late := [] }).modCluster cl
      fun c => { c with evq := c.evq ++ [u] } := by
    rw [State.dropRec, late]
    simp only [List.length_singleton, refillL, left, late, free, if_true, State.enterRec, plain, Bool.false_and, Bool.false_eq_true, if_false]
  rw [dropped]
  simp [queue]

end

/-! ### The slot -/

/-- Filling no latch leaves nothing for the queues to tell apart. -/
theorem State.enterMem_fill_nil (s : State) (c : Nat) (ls : List LEntry) (rs : List REntry) :
    (s.modCtx c fun x => x.fill []).enterMem c ls rs = s.enterMem c ls rs := State.modCtx_modCtx ..

/-- A slot that stores elements and reads no operand puts them in the queues (R465). -/
theorem State.storeSlot_eff {s : State} (cond : s.env.cond = true) (sl : Slot) (psn : List (W64 × Nat)) (v : Wide) (els : List Elem) (keys : List (File × Nat))
    (u : State) : (s.env.storeSlot sl [] psn v els els false keys).eff u =
      u.enterMem s.cur (els.filterMap (s.homeStore v)) ((els.filter fun l => !s.isLocal (coreOf s.cur) l.va).map (s.farStore v)) := by
  rw [← State.filterMap_homeStore, ← State.enterMem_fill_nil]
  exact congrFun (finish_eff _ _ _ _ cond) u

/-- The dwords of the record at an address (R453). -/
def qpopElems (va : Nat) : List Elem := (List.range 4).map fun i => ⟨(va + 8 * i) % 2 ^ 64, 8, 8 * i⟩

/-- The entry of LSQ(c) that stores dword `i` of a record whose home is location `l`. -/
def dwordStore (l : Nat) (ps : List Nat) (i : Nat) (w : W64) : LEntry :=
  ⟨.store ((List.range 8).map fun j => (l + 8 * i + j, w.extractLsb' (8 * j) 8)), 0, ps, 0⟩

section
variable {s : State} {va l : Nat} {ps : List Nat} (route : ∀ i, i < 4 → s.route s.cur (va + 8 * i) .wr = .loc (l + 8 * i) ps) (top : va + 32 ≤ 2 ^ 64)
include route top

/-- Each dword of a record at home is an entry of LSQ(c). -/
theorem State.qpopElems_home (r : CRec) : (qpopElems va).filterMap (s.homeStore r.wide) = (List.range 4).map fun i => dwordStore l ps i (r.dword i) := by
  rw [qpopElems, List.filterMap_map, ← List.filterMap_eq_map]
  refine List.filterMap_congr fun i hi => ?_
  have low := List.mem_range.1 hi
  have inside : (va + 8 * i) % 2 ^ 64 = va + 8 * i := Nat.mod_eq_of_lt (by omega)
  rw [Function.comp_apply, Function.comp_apply, State.homeStore, inside, route i low]
  refine congrArg (fun bs => some (mkL (.store bs) 0 ps)) (List.map_congr_left fun j hj => ?_)
  exact congrArg (Prod.mk _) (extractLsb'_dword (r.wide_dword low) (List.mem_range.1 hj))

/-- None of them is remote. -/
theorem State.qpopElems_near : (qpopElems va).filter (fun e => !s.isLocal (coreOf s.cur) e.va) = [] := by
  refine List.filter_eq_nil_iff.2 fun e he => ?_
  obtain ⟨i, hi, rfl⟩ := List.mem_map.1 he
  have low := List.mem_range.1 hi
  have inside : (va + 8 * i) % 2 ^ 64 = va + 8 * i := Nat.mod_eq_of_lt (by omega)
  rw [inside, State.isLocal_of_route (route i low)]
  exact Bool.false_ne_true

end

section
variable {s : State} (h : s.Issuing) (o : R2)
include h

/-- QPOP from an empty queue answers 100H (R453). -/
theorem exec_qpop_empty (none : (s.cluster (clusterOf (coreOf s.cur))).evq = []) :
    exec (.qpop o) s = .next (s.gives [s.kA o.a o.ha] (s.later o.d 8 1600 0 0x100)) := by
  have empty : (s.env.s.cluster (clusterOf s.env.k)).evq = [] := none
  refine (issue_finish (slotQpop o) h rfl).trans (congrArg Host.Outcome.next ?_)
  dsimp only
  rw [empty]
  rfl

/-- QPOP takes the oldest record, stores it and answers how many are left (R271, R453). -/
theorem exec_qpop_record {r : CRec} {q : List CRec} (queue : (s.cluster (clusterOf (coreOf s.cur))).evq = r :: q) :
    exec (.qpop o) s = .next (((s.gives [s.kA o.a o.ha] (s.later o.d 8 1600 0 (BitVec.ofNat 64 (q.length * 2 ^ 16)))).dropRec (clusterOf (coreOf s.cur))).enterMem
      s.cur ((qpopElems (s.kA o.a o.ha).d.toNat).filterMap (s.homeStore r.wide))
      (((qpopElems (s.kA o.a o.ha).d.toNat).filter fun e => !s.isLocal (coreOf s.cur) e.va).map (s.farStore r.wide))) := by
  have record : (s.env.s.cluster (clusterOf s.env.k)).evq = r :: q := queue
  rw [← State.storeSlot_eff h.cond { okP := true } [] r.wide _ []]
  refine (issue_finish (slotQpop o) h rfl).trans (congrArg Host.Outcome.next ?_)
  dsimp only
  rw [record]
  rfl

end

end Sys2Proof.Machine
end

section
/-! SUPPORT. COLL: the schedule that it queues, and the record of one that it refuses (R302, R403). -/

namespace Sys2Proof.Machine

/-- The schedule is installed, and its start lies far enough ahead (R302, R403). -/
def State.collOk (s : State) (o : R3) : Bool :=
  (s.hub.scheds.find (schedKey (s.ctx s.cur).part (coreOf s.cur) ((s.kA o.a o.ha).d.toNat % 256))).isSome && decide (s.ftb + 256 ≤ (s.kB o.b o.hb).d.toNat)

/-- The mark in LSQ(c) is of what it holds, whatever the latches hold and whatever is on its way. -/
theorem State.gives_mark (s : State) (ops : List Opnd) (t : Res) : ((s.gives ops t).ctx s.cur).mark = (s.ctx s.cur).mark := by
  obtain ⟨l, p, filled⟩ := s.filled_ctx ops
  have sent : (s.gives ops t).ctx s.cur = ((s.filled ops).ctx s.cur).push t := State.ctx_modCtx_self ..
  rw [sent, filled]
  rfl

section
variable {s : State} (h : s.Issuing) (o : R3)
include h

/-- COLL answers with its status, and queues the schedule or posts a record (R403). -/
theorem exec_coll : exec (.coll o) s =
    let u := s.gives [s.kA o.a o.ha, s.kB o.b o.hb] (s.later o.d 8 1600 0 (BitVec.ofNat 64 (if s.collOk o then stOK else stFAULT)))
    .next (if s.collOk o then u.modCore (coreOf s.cur) fun q => { q with kq := q.kq ++
        [⟨(s.kA o.a o.ha).d.toNat % 256, (s.kB o.b o.hb).d.toNat, (s.ctx s.cur).vf, s.cur, (s.ctx s.cur).pc, (u.ctx s.cur).mark, (s.ctx s.cur).rcd⟩] }
      else u.postRec (clusterOf (coreOf s.cur)) (u.mkRec stFAULT 3 s.cur 0 0 0 0 (s.ctx s.cur).vf)) :=
  (issue_finish (slotColl o) h rfl).trans rfl

/-- A schedule that may run is queued on the core's collective engine (R403). -/
theorem exec_coll_queues (ok : s.collOk o = true) :
    exec (.coll o) s = .next ((s.gives [s.kA o.a o.ha, s.kB o.b o.hb] (s.later o.d 8 1600 0 0)).modCore (coreOf s.cur) fun q =>
      { q with kq := q.kq ++ [⟨(s.kA o.a o.ha).d.toNat % 256, (s.kB o.b o.hb).d.toNat, (s.ctx s.cur).vf, s.cur, (s.ctx s.cur).pc, (s.ctx s.cur).mark,
        (s.ctx s.cur).rcd⟩] }) := by
  rw [exec_coll h o, ok, ← State.gives_mark s [s.kA o.a o.ha, s.kB o.b o.hb] (s.later o.d 8 1600 0 0)]
  rfl

/-- Any other is refused with FAULT and a record (R302, R403). -/
theorem exec_coll_refuses (bad : s.collOk o = false) :
    let u := s.gives [s.kA o.a o.ha, s.kB o.b o.hb] (s.later o.d 8 1600 0 (BitVec.ofNat 64 stFAULT))
    exec (.coll o) s = .next (u.postRec (clusterOf (coreOf s.cur)) (u.mkRec stFAULT 3 s.cur 0 0 0 0 (s.ctx s.cur).vf)) := by
  rw [exec_coll h o, bad]
  rfl

end

end Sys2Proof.Machine
end

section
open Sys2Proof Sys2Proof.Machine

/-- Settles O41: QPOP by whether the queue holds a record, and COLL by whether it may run. -/
theorem queuePopAndCollective : Obligations.QueuePopAndCollective := by
  refine ⟨fun s o h => ⟨exec_qpop_empty h o, fun r q l ps queue top route => ⟨State.dropRec_none_waits queue,
    fun u late room plain => State.dropRec_one_waits queue late room plain, ?_⟩⟩, fun s o h => ?_⟩
  · refine (exec_qpop_record h o queue).trans (congrArg Host.Outcome.next ?_)
    rw [State.qpopElems_home route top, State.qpopElems_near route top]
    rfl
  · intro k x a b idx ok
    have ok_iff : s.collOk o = true ↔ ok := by
      rw [State.collOk, Bool.and_eq_true, decide_eq_true_eq]
      exact Iff.rfl
    refine ⟨fun good => exec_coll_queues h o (ok_iff.2 good), fun bad => ⟨_, rfl, exec_coll_refuses h o ?_⟩⟩
    rw [← Bool.not_eq_true, ok_iff]
    exact bad
end

section
/-! SUPPORT. LOOP, and the slots that end their bundle with a stop (R311, R413, R431, R474). -/

namespace Sys2Proof.Machine

/-! ### LOOP -/

/-- The loop registers of a count of n: the loop begins behind the delay bundle and ends at `last`; a count of 0 leaves no loop (R431). -/
def Regs.looped (r : Regs) (n link last : Nat) : Regs := if n = 0 then { r with loopCnt := 0 } else
  { r with loopCnt := BitVec.ofNat 64 n, loopEnd := BitVec.ofNat 64 last &&& maskOf 0x012, loopBegin := BitVec.ofNat 64 link &&& maskOf 0x011 }

/-- A context that has issued a LOOP: its bundle still reads the loop registers as they were (R431). -/
def Ctx.looped (x : Ctx) (n link last : Nat) : Ctx :=
  { x with loopOld := some (x.bundles, x.r.loopCnt, x.r.loopBegin, x.r.loopEnd), r := x.r.looped n link last }

/-- The target of LOOP: behind the loop, for a count of 0 (R431). -/
def loopTaken (n last len : Nat) : Option Nat := if n = 0 then some ((last + 4 * (len + 4)) % 2 ^ 64) else none

section
variable (s : State) (ls : BitVec 3) (r : BitVec 5) (ofs : BitVec 11)

/-- What LOOP leaves. -/
def State.loopIssued : State :=
  let n := (s.kA r false).d.toNat % 2 ^ 32
  let last := s.env.target11 ofs
  (s.env.takeK (loopTaken n last ls.toNat) (s.filled [s.kA r false])).modCtx s.cur fun x => x.looped n s.env.link last

theorem exec_loop (h : s.Issuing) : exec (.loop ls r ofs) s = .next (s.loopIssued ls r ofs) := (issue_finish (slotLoop ls r ofs) h rfl).trans rfl

theorem State.loopIssued_ctx : (s.loopIssued ls r ofs).ctx s.cur =
    ((s.filled [s.kA r false]).ctx s.cur).looped ((s.kA r false).d.toNat % 2 ^ 32) s.env.link (s.env.target11 ofs) := State.ctx_modCtx_self ..

end

/-! ### Stops of kind after -/

/-- A slot that asks for a stop where none has been asked for (R311). -/
theorem stopAfterBundle_first {s : State} (none : s.iss.stopAfter = none) (cause : Nat) :
    stopAfterBundle cause s = { s with iss := { s.iss with stopAfter := some cause } } := by
  rw [stopAfterBundle, none]

/-- What follows a bundle leaves the gang of its context as it was. -/
theorem Ctx.next_leader (x : Ctx) (b a : Nat) (taken : Option Nat) : (x.next b a taken).leader = x.leader := by
  obtain ⟨pc, r, h⟩ := x.next_changes b a taken
  rw [h]

/-- A bundle that ends with a stop of its own stops its context, once its next program counter is there (R77, R311). -/
theorem State.endBundle_stops {s : State} (w : Nat) {cause : Nat} (hl : s.iss.leave = none) (hs : s.iss.stopAfter = some cause)
    (hm : (s.ctx s.cur).stepMode = false) : ∃ u : State, s.endBundle w = u.stopAfter s.cur cause s.iss.bundle true ∧ u.mem = s.mem ∧
      (u.ctx s.cur).phase = (s.ctx s.cur).phase ∧ (u.ctx s.cur).leader = (s.ctx s.cur).leader := by
  unfold State.endBundle
  extract_lets c i x0 both regs z counted x1 placed s1 single stop
  have hz : z = x0.next i.bundle i.after (takenOf i) := by
    unfold z i
    rw [hl]
  have hcounted : counted.stepMode = z.stepMode ∧ counted.phase = z.phase ∧ counted.leader = z.leader := by
    unfold counted
    split <;> exact ⟨rfl, rfl, rfl⟩
  obtain ⟨mode, phase, leader⟩ := hz ▸ hcounted
  have noStep : single = none := by
    have : x1.stepMode = false := mode.trans ((Ctx.next_stepMode ..).trans hm)
    simp [single, this]
  have stops : stop = some cause := by
    unfold stop i
    rw [hs, noStep]
  have outcome : s1.ctx c = x1 := (State.ctx_setCtx s c c x1).trans (if_pos rfl)
  unfold i
  rw [hl, stops, hs]
  exact ⟨s1, rfl, rfl, (congrArg Ctx.phase outcome).trans (phase.trans (Ctx.next_phase ..)),
    (congrArg Ctx.leader outcome).trans (leader.trans (Ctx.next_leader ..))⟩

/-- A stop of its own traps a context without a leader, and freezes the follower of a gang as under PREEMPT (R413, R474). -/
theorem State.stopAfter_own (s : State) (c cause b : Nat) :
    s.stopAfter c cause b true = if (s.ctx c).leader = none then takeTrap c cause 0 b s else s.preempt c 3 := by
  unfold State.stopAfter
  cases (s.ctx c).leader <;> rfl

end Sys2Proof.Machine
end

section
/-! SUPPORT. BUCKET: what it reads of its table, the entry that it picks, and the branch (R274, R399). -/

namespace Sys2Proof.Machine

/-! ### What a word of the table says -/

/-- The count of entries in the head of a table: 1 to 64, else 0 (R274). -/
def Peek.count (p : Peek) : Nat :=
  match p with
  | .val v _ _ => if v % 256 = 0 ∨ 64 < v % 256 ∨ v / 256 ≠ 0 then 0 else v % 256
  | _ => 0

/-- The mask of the last lanes of a bucket: none for a count of 0 (R399). -/
def tailMask (n : Nat) : W64 := if n = 0 then 0 else BitVec.ofNat 64 (2 ^ ((n - 1) % 64 + 1) - 1)

/-- The target and the mask of an entry whose bound is not below n (R274, R399). -/
def Peek.choice (n : Nat) (p : Peek) : Option (Nat × W64) :=
  match p with
  | .val v _ _ => if v / 2 ^ 32 % 2 ^ 32 = 0 ∧ n ≤ v % 2 ^ 32 then some (v / 2 ^ 64 % 2 ^ 54 / 4 * 4, tailMask n) else none
  | _ => none

/-- The leaf entries that a read of the table reached (R168). -/
def Peek.leaves (p : Peek) : List Nat :=
  match p with
  | .val _ _ q => q
  | _ => []

section
variable (psn : Bool) (ps : List Nat)

theorem Peek.count_val {cnt : Nat} (low : 1 ≤ cnt) (high : cnt ≤ 64) : (Peek.val cnt psn ps).count = cnt := by
  have small : cnt % 256 = cnt := Nat.mod_eq_of_lt (by omega)
  rw [Peek.count, small, if_neg (by omega)]

theorem Peek.choice_val (n : Nat) {t m : Nat} (hm : m < 2 ^ 32) (aligned : t % 4 = 0) (ht : t < 2 ^ 54) :
    (Peek.val (t * 2 ^ 64 + m) psn ps).choice n = if n ≤ m then some (t, tailMask n) else none := by
  have zero : (t * 2 ^ 64 + m) / 2 ^ 32 % 2 ^ 32 = 0 := by omega
  have bound : (t * 2 ^ 64 + m) % 2 ^ 32 = m := by omega
  have target : (t * 2 ^ 64 + m) / 2 ^ 64 % 2 ^ 54 / 4 * 4 = t := by omega
  simp only [Peek.choice, zero, bound, target, true_and]

end

/-! ### The table -/

/-- The word of the table at an address. -/
def State.tableAt (s : State) (va : Nat) : Nat × Peek := (va, if s.ownerBad s.cur va then .fail else s.env.peek va)

/-- The words of a table of cnt entries: its head, and the entries behind it. -/
def State.table (s : State) (at0 cnt : Nat) : List (Nat × Peek) :=
  s.tableAt at0 :: ((List.range cnt).map fun i => (at0 + 16 + 16 * i) % 2 ^ 64).map s.tableAt

/-- The words that BUCKET reads. -/
def State.bucketWords (s : State) (o : R3) : List (Nat × Peek) := s.table (s.kB o.b o.hb).d.toNat (s.tableAt (s.kB o.b o.hb).d.toNat).2.count

/-- The entry that BUCKET picks (R274). -/
def State.bucketPick (s : State) (o : R3) : Option (Nat × W64) :=
  ((s.bucketWords o).drop 1).findSome? fun p => p.2.choice ((s.kA o.a o.ha).d.toNat % 2 ^ 32)

/-- BUCKET branches to the target of its pick and sends the mask, and the leaf entries of what it read take AC (R168, R399). -/
theorem exec_bucket {s : State} (h : s.Issuing) (o : R3) : exec (.bucket o) s =
    .next ((s.env.takeK ((s.bucketPick o).map (·.1)) ((s.filled [s.kA o.a o.ha, s.kB o.b o.hb]).touch ((s.bucketWords o).flatMap fun p => p.2.leaves) false)).sends
      (mkRes .q o.d.toNat (wide64 (((s.bucketPick o).map (·.2)).getD 0)) (s.now + 2))) :=
  (issue_finish (slotBucket o) h rfl).trans rfl

/-- A word at home that no write of the context is on its way to reads as memory holds it (R182, R184). -/
theorem State.tableAt_home {s : State} {va l : Nat} {ps : List Nat} (lsq : (s.ctx s.cur).lsq = []) (basket : (s.ctx s.cur).basket = [])
    (owned : s.ownerBad s.cur va = false) (route : s.route s.cur va .rd = .loc l ps) : ∃ psn, (s.tableAt va).2 = .val (s.mem.readNat l 16) psn ps := by
  have home : s.env.s.route s.env.c va .rd = .loc l ps := route
  have word : s.env.s.localRead s.env.c va l 16 = some (s.mem.readNat l 16) := State.localRead_of_no_writes lsq basket va l 16
  refine ⟨s.env.s.localPoison s.env.c va l 16 || s.env.s.resetting s.env.k l, ?_⟩
  rw [State.tableAt, owned, if_neg Bool.false_ne_true, Env.peek, home]
  dsimp only
  rw [word]

/-- A table below the top of the address space has its words one after another. -/
theorem State.table_eq (s : State) {at0 cnt : Nat} (top : at0 + 16 * (cnt + 1) < 2 ^ 64) :
    s.table at0 cnt = (List.range (cnt + 1)).map fun i => s.tableAt (at0 + 16 * i) := by
  rw [State.table, List.range_succ_eq_map, List.map_cons, List.map_map, List.map_map]
  refine congrArg _ (List.map_congr_left fun i hi => ?_)
  have low := List.mem_range.1 hi
  have inside : (at0 + 16 + 16 * i) % 2 ^ 64 = at0 + 16 * (i + 1) := by omega
  exact congrArg s.tableAt inside

/-- The first number below n for which f gives a value gives the value of the list (R274). -/
theorem findSome?_range_first {β : Type} {f : Nat → Option β} {b : β} {j n : Nat} (hj : j < n) (hit : f j = some b) (before : ∀ i, i < j → f i = none) :
    (List.range n).findSome? f = some b := by
  induction n with
  | zero => omega
  | succ n ih =>
    rw [List.range_succ, List.findSome?_append]
    rcases Nat.lt_or_ge j n with lt | ge
    · rw [ih lt]
      rfl
    · obtain rfl : j = n := by omega
      have none : (List.range j).findSome? f = none := List.findSome?_eq_none_iff.2 fun i hi => before i (List.mem_range.1 hi)
      rw [none, List.findSome?_singleton, hit]
      rfl

section
variable {s : State} {o : R3} {l cnt : Nat} {m tgt : Nat → Nat} {ps : List Nat} (lsq : (s.ctx s.cur).lsq = []) (basket : (s.ctx s.cur).basket = [])
  (low : 1 ≤ cnt) (high : cnt ≤ 64) (top : (s.kB o.b o.hb).d.toNat + 16 * (cnt + 1) < 2 ^ 64)
  (home : ∀ i, i ≤ cnt → s.ownerBad s.cur ((s.kB o.b o.hb).d.toNat + 16 * i) = false ∧
    s.route s.cur ((s.kB o.b o.hb).d.toNat + 16 * i) .rd = .loc (l + 16 * i) ps)
  (head : s.mem.readNat l 16 = cnt)
include lsq basket low high top home head

/-- BUCKET reads the head of its table and the entries that the head counts. -/
theorem State.bucketWords_eq : s.bucketWords o = (List.range (cnt + 1)).map fun i => s.tableAt ((s.kB o.b o.hb).d.toNat + 16 * i) := by
  obtain ⟨owned, route⟩ := home 0 (Nat.zero_le _)
  obtain ⟨psn, word⟩ := State.tableAt_home lsq basket owned route
  have count : (s.tableAt (s.kB o.b o.hb).d.toNat).2.count = cnt := by
    refine (congrArg Peek.count word).trans ?_
    rw [Nat.mul_zero, Nat.add_zero, head]
    exact Peek.count_val psn ps low high
  rw [State.bucketWords, count, State.table_eq s top]

/-- Every word of the table reached the same leaf entries. -/
theorem State.bucketWords_leaves : ((s.bucketWords o).flatMap fun p => p.2.leaves) = (List.range (cnt + 1)).flatMap fun _ => ps := by
  rw [State.bucketWords_eq lsq basket low high top home head, List.flatMap_map]
  refine List.flatMap_congr fun i hi => ?_
  obtain ⟨owned, route⟩ := home i (by have := List.mem_range.1 hi; omega)
  obtain ⟨psn, word⟩ := State.tableAt_home lsq basket owned route
  exact congrArg Peek.leaves word

variable (entries : ∀ i, i < cnt → s.mem.readNat (l + 16 * (i + 1)) 16 = tgt i * 2 ^ 64 + m i ∧ m i < 2 ^ 32 ∧ tgt i % 4 = 0 ∧ tgt i < 2 ^ 54)
include entries

/-- BUCKET picks among the entries by their bounds (R274). -/
theorem State.bucketPick_eq : s.bucketPick o = (List.range cnt).findSome? fun i =>
    if (s.kA o.a o.ha).d.toNat % 2 ^ 32 ≤ m i then some (tgt i, tailMask ((s.kA o.a o.ha).d.toNat % 2 ^ 32)) else none := by
  rw [State.bucketPick, State.bucketWords_eq lsq basket low high top home head, List.range_succ_eq_map, List.map_cons, List.drop_succ_cons, List.drop_zero,
    List.map_map, List.findSome?_map, ← List.head?_filterMap, ← List.head?_filterMap]
  refine congrArg _ (List.filterMap_congr fun i hi => ?_)
  have below := List.mem_range.1 hi
  obtain ⟨owned, route⟩ := home (i + 1) below
  obtain ⟨psn, word⟩ := State.tableAt_home lsq basket owned route
  obtain ⟨entry, bound, aligned, far⟩ := entries i below
  rw [entry] at word
  exact (congrArg (Peek.choice _) word).trans (Peek.choice_val psn ps _ bound aligned far)

end

end Sys2Proof.Machine
end

section
open Sys2Proof Sys2Proof.Machine

/-- Settles O36: LOOP by its count, BUCKET by its pick, and the two slots and the end of a bundle that stop. -/
theorem loopBucketTrap : Obligations.LoopBucketTrap := by
  refine ⟨fun s ls r ofs h => ?_, fun s o l n cnt m tgt ps h => ?_, fun s code h none => ⟨?_, ?_⟩, fun s w c hl hs hm => ?_⟩
  · intro a n last x
    refine ⟨s.loopIssued ls r ofs, exec_loop s ls r ofs h, rfl, ?_, ?_⟩ <;> rw [State.loopIssued_ctx]
    · rfl
    · exact ⟨fun some_ => ⟨if_neg (Nat.ne_of_gt some_), if_neg (Nat.ne_of_gt some_)⟩, fun zero => ⟨if_pos zero, if_pos zero⟩⟩
  · intro a b ans u lsq basket low high top home head entries hn
    have words := State.bucketWords_leaves lsq basket low high top home head
    have pick := State.bucketPick_eq lsq basket low high top home head entries
    have outcome := exec_bucket h o
    rw [words] at outcome
    refine ⟨fun j hj reach before => ?_, fun short => ?_⟩
    · have picked : s.bucketPick o = some (tgt j, tailMask n) := by
        subst hn
        exact pick.trans (findSome?_range_first hj (if_pos reach) fun i hi => if_neg (Nat.not_le.2 (before i hi)))
      rw [picked] at outcome
      exact outcome
    · have picked : s.bucketPick o = none := by
        subst hn
        exact pick.trans (List.findSome?_eq_none_iff.2 fun i hi => if_neg (Nat.not_le.2 (short i (List.mem_range.1 hi))))
      rw [picked] at outcome
      exact outcome
  · exact (issue_finish (slotTrap code) h rfl).trans (congrArg Host.Outcome.next (stopAfterBundle_first (s := s.filled []) none cTRAP))
  · exact (issue_finish (slotDbrk code) h rfl).trans (congrArg Host.Outcome.next (stopAfterBundle_first (s := s.filled []) none cDBRK))
  · obtain ⟨u, stops, mem, phase, leader⟩ := State.endBundle_stops w hl hs hm
    refine ⟨u, ?_, mem, phase⟩
    rw [stops, State.stopAfter_own, leader]
end

section
/-! SUPPORT. The holds of slots that issue behind an outstanding prediction (R294, R295). -/

namespace Sys2Proof.Machine

section
variable {s : State} (c : s.env.cond = true)
include c

/-- A completed slot whose hold is an ABR wait where `b` is true is held while `b` is. -/
theorem Slot.finish_hold_abr {sl : Slot} {ops : List Opnd} {psn : List (W64 × Nat)} {b : Bool} {k : HoldKind} (on : b = true)
    (hold : sl.hold = if b then .abr else k) : (sl.finish s.env ops psn).hold = .abr :=
  (Slot.finish_hold _ _ _ _ c).trans (hold.trans (if_pos on))

/-- A completed slot whose hold is one of two kinds, neither of them an ABR wait, is no ABR wait. -/
theorem Slot.finish_hold_ite {sl : Slot} {ops : List Opnd} {psn : List (W64 × Nat)} {p : Prop} [Decidable p] {k l : HoldKind} (hk : k ≠ .abr) (hl : l ≠ .abr)
    (hold : sl.hold = if p then k else l) : (sl.finish s.env ops psn).hold ≠ .abr := by
  rw [Slot.finish_hold _ _ _ _ c, hold]
  split
  · exact hk
  · exact hl

/-- A load waits for its page and for its own writes alone (R175, R184). -/
theorem Env.loadSlot_hold_ne_abr {sl : Slot} {ops : List Opnd} {psn : List (W64 × Nat)} {f : File} {d : BitVec 5} {els : List Elem} {lat : Nat} {own : Bool} :
    (s.env.loadSlot sl ops psn f d els lat own).hold ≠ .abr := Slot.finish_hold_ite c (by decide) (by decide) rfl

/-- A gather, and one of a y form that is disabled, waits for its page and for its own writes alone (R175, R184, R428). -/
theorem slotLdg_hold_ne_abr (o : R3) (v : BitVec 4) : (slotLdg o v s).hold ≠ .abr := by
  unfold slotLdg
  dsimp only
  split
  · rw [Slot.finish_hold _ _ _ _ c]
    show HoldKind.none ≠ .abr
    decide
  · exact Env.loadSlot_hold_ne_abr c

/-- CWAIT waits for its page, and for its word in an engine wait (R195, R412). -/
theorem slotCwait_hold_ne_abr (o : AB) : (slotCwait o s).hold ≠ .abr := by
  unfold slotCwait
  extract_lets e a b tr path off hold
  have waits : hold ≠ .abr := by
    unfold hold
    clear_value path
    cases path with
    | none => exact nofun
    | some y =>
      dsimp only
      split
      · decide
      · generalize (_ || e.s.wordReached y.loc b.d) = reached
        cases reached <;> decide
  rw [Slot.finish_hold _ _ _ _ c]
  dsimp only
  split
  · exact waits
  · decide

/-- WFE waits for its page, and for its event in an engine wait (R489). -/
theorem slotWfe_hold_ne_abr (o : R3) (v : BitVec 4) : (slotWfe o v s).hold ≠ .abr := by
  unfold slotWfe
  extract_lets e k a b line scratch loc moving hit filled event late reason off
  rw [Slot.finish_hold _ _ _ _ c]
  dsimp only
  split
  · decide
  · split <;> decide

end

end Sys2Proof.Machine
end

section
open Sys2Proof Sys2Proof.Machine

/-- Settles O13: each slot of the first list asks first for a prediction, and no hold of the second is an ABR wait. -/
theorem predictionHolds : Obligations.PredictionHolds := by
  intro s some_ c
  have predicted : (!s.env.x.preds.isEmpty) = true := by
    rw [Bool.not_eq_true', List.isEmpty_eq_false_iff]
    exact some_
  constructor
  · rintro i (⟨d, t, rfl⟩ | ⟨o, rfl⟩ | ⟨o, rfl⟩ | ⟨o, rfl⟩ | ⟨o, rfl⟩ | ⟨o, rfl⟩ | ⟨o, v, rfl⟩ | ⟨o, v, rfl⟩ | rfl | rfl)
    any_goals exact Slot.finish_hold_abr c predicted rfl
    -- AGREE asks the other way round, and RAISE beside what POST waits for
    · refine (Slot.finish_hold _ _ _ _ c).trans (if_neg fun none => ?_)
      exact some_ (List.isEmpty_iff.1 none)
    · exact Slot.finish_hold_abr c (by rw [predicted]; rfl) rfl
  · rintro i (⟨o, z, rfl⟩ | ⟨o, rfl⟩ | ⟨o, v, rfl⟩ | ⟨o, z, rfl⟩ | ⟨o, rfl⟩ | ⟨o, b, rfl⟩ | ⟨o, rfl⟩ | ⟨o, v, rfl⟩)
    · exact Env.loadSlot_hold_ne_abr c
    · exact Env.loadSlot_hold_ne_abr c
    · exact slotLdg_hold_ne_abr c o v
    · exact Slot.finish_hold_ite c (by decide) (by decide) rfl
    · exact slotCwait_hold_ne_abr c o
    · exact Slot.finish_hold_ite c (by decide) (by decide) rfl
    · exact Slot.finish_hold_ite c (by decide) (by decide) rfl
    · exact slotWfe_hold_ne_abr c o v
end

section
/-! SUPPORT. AGREE, ARES and the agreed branches (R288 to R293, R379, R380, R387, R389). -/

namespace Sys2Proof.Machine

theorem Slot.finish_illVal {sl : Slot} {e : Env} {ops : List Opnd} {psn : List (W64 × Nat)} (h : e.cond = true) : (sl.finish e ops psn).illVal = sl.illVal := by
  unfold Slot.finish
  simp only [h, if_true]

/-! ### AGREE -/

section
variable (s : State) (d : BitVec 5) (tag : BitVec 16)

/-- The sequence number of the running member's next instance (R288). -/
def State.agreeSeq : Nat := s.nextSeqOf (s.ctx s.cur).vf (s.ctx s.cur).r.agrGroup.toNat (coreOf s.cur)

/-- The ticket of the running member's next instance: sequence number, tag and group (R288). -/
def State.agreeTicket : W64 := ((BitVec.ofNat 32 s.agreeSeq ++ tag : BitVec 48) ++ (s.ctx s.cur).r.agrGroup : BitVec 64)

/-- A group whose member m has taken its next sequence number (R288). -/
def Group.counted (g : Group) (m : Nat) : Group := { g with members := modifyAt g.members m fun q => { q with next := (q.next + 1) % 2 ^ 64 } }

/-- A context that holds a new open result slot as its newest (R286, R290). -/
def Ctx.opened (x : Ctx) (tag : BitVec 16) (ticket : W64) (seq : Nat) : Ctx :=
  { x with ltag := tag, r := { x.r with slots := (⟨ticket, seq, none⟩ :: x.r.slots).take 4 } }

/-- What AGREE leaves where the running core is member m of group g. -/
def State.agreed (g : Group) (m : Nat) : State :=
  let x := s.ctx s.cur
  let gid := x.r.agrGroup
  let a := s.env.reg .x d
  ((({ s.filled [a] with contribs := s.contribs ++ [⟨x.vf, gid.toNat, s.agreeSeq, m, tag, a.d.setWidth 32, s.ftb, some s.cur⟩] } : State).modHub
    fun h => { h with groups := h.groups.set (groupKey x.vf gid.toNat) (g.counted m) }).modCtx s.cur
      fun x => x.opened tag (s.agreeTicket tag) s.agreeSeq).sends (s.xRes d (s.agreeTicket tag) 2)

variable {s}

/-- AGREE of a LIVE member (R288, R387). -/
theorem exec_agree (h : s.Issuing) {g : Group} {m : Nat} (found : s.hub.groups.find (groupKey (s.ctx s.cur).vf (s.ctx s.cur).r.agrGroup.toNat) = some g)
    (member : s.memberOf g (coreOf s.cur) = some m) : exec (.agree d tag) s = .next (s.agreed d tag g m) := by
  have who : ((s.env.s.hub.groups.find (groupKey s.env.x.vf s.env.x.r.agrGroup.toNat)).bind fun g => (s.env.s.memberOf g s.env.k).map fun m => (g, m)) =
      some (g, m) := by
    rw [show s.env.s.hub.groups.find (groupKey s.env.x.vf s.env.x.r.agrGroup.toNat) = some g from found, Option.bind_some,
      show s.env.s.memberOf g s.env.k = some m from member]
    rfl
  have same : (s.filled [s.env.reg .x d]).hub.groups.find (groupKey s.env.x.vf s.env.x.r.agrGroup.toNat) = some g := found
  refine (issue_finish (slotAgree d tag) h rfl).trans (congrArg Host.Outcome.next ?_)
  dsimp only
  rw [who]
  dsimp only [State.modHub]
  rw [same]
  rfl

theorem State.agreed_ctx (g : Group) (m : Nat) :
    (s.agreed d tag g m).ctx s.cur = ((s.ctx s.cur).opened tag (s.agreeTicket tag) s.agreeSeq).push (s.xRes d (s.agreeTicket tag) 2) := by
  have start : (s.filled [s.env.reg .x d]).ctx s.cur = s.ctx s.cur := State.ctx_modCtx_self ..
  refine Eq.trans ?_ (congrArg (fun x : Ctx => (x.opened tag (s.agreeTicket tag) s.agreeSeq).push (s.xRes d (s.agreeTicket tag) 2)) start)
  exact (State.ctx_modCtx_self ..).trans (congrArg (fun x : Ctx => x.push _) (State.ctx_modCtx_self ..))

/-- A core of no installed group is no member of it (R291). -/
theorem slotAgree_absent (c : s.env.cond = true) (none : s.hub.groups.find (groupKey (s.ctx s.cur).vf (s.ctx s.cur).r.agrGroup.toNat) = none) :
    (slotAgree d tag s).traps = [(cABSENT, BitVec.ofNat 64 (tag.toNat * 2 ^ 16 + (s.ctx s.cur).r.agrGroup.toNat))] := by
  refine (Slot.finish_traps c).trans ?_
  dsimp only
  rw [show s.env.s.hub.groups.find (groupKey s.env.x.vf s.env.x.r.agrGroup.toNat) = Option.none from none]
  rfl

end

/-! ### The agreed branches -/

section
variable {s : State} (rm ra : BitVec 5) (ofs : BitVec 11) (predict : Option Bool)

/-- The operand that field M names (R291). -/
def State.agrM (s : State) (rm : BitVec 5) : Opnd := if rm = 0 then Opnd.none else s.env.reg .x rm
/-- The target that a mismatch takes, where field M names one (R291). -/
def State.agrXm (s : State) (rm : BitVec 5) : Option Nat := if rm = 0 then none else some ((s.agrM rm).d.toNat % 2 ^ 54 / 4 * 4)

/-- What every agreed branch has in common: its class and its operands. -/
def State.agrFinish (s : State) (rm ra : BitVec 5) (sl : Slot) : Slot :=
  Slot.finish { sl with cls := .ctl, okI := true } s.env [s.kA ra false, s.agrM rm] [(s.kA ra false).sc, (s.agrM rm).sc]

/-- No slot holds the ticket: ILLEGAL_INSTR with the ticket (R291, log 87). -/
theorem agreedSlot_unknown (unknown : (s.ctx s.cur).agrSlot (s.kA ra false).d = none) :
    agreedSlot s.env rm ra ofs predict = s.agrFinish rm ra { illVal := some (s.kA ra false).d } := by
  unfold agreedSlot
  dsimp only
  rw [show s.env.x.agrSlot (s.env.opnd .x ra false 14).d = none from unknown]
  rfl

section
variable {q : AgrSlot} (known : (s.ctx s.cur).agrSlot (s.kA ra false).d = some q)
include known

/-- A resolved result that branches (R291). -/
theorem agreedSlot_branches {r : AgrRes} (resolved : q.res = some r) {b : Option Nat} (decides : r.decide (s.env.target11 ofs) (s.agrXm rm) = .branch b) :
    agreedSlot s.env rm ra ofs predict = s.agrFinish rm ra { takenK := b, eff := s.env.takeK b } := by
  unfold agreedSlot
  dsimp only
  rw [show s.env.x.agrSlot (s.env.opnd .x ra false 14).d = some q from known]
  dsimp only
  rw [resolved]
  dsimp only
  rw [show r.decide (s.env.target11 ofs) (if rm = 0 then none else some ((if rm = 0 then Opnd.none else s.env.reg .x rm).d.toNat % 2 ^ 54 / 4 * 4)) = _ from decides]
  rfl

/-- A resolved result that traps (R291). -/
theorem agreedSlot_traps {r : AgrRes} (resolved : q.res = some r) {c : Nat} (decides : r.decide (s.env.target11 ofs) (s.agrXm rm) = .trap c) :
    agreedSlot s.env rm ra ofs predict = s.agrFinish rm ra { traps := [(c, (s.kA ra false).d)] } := by
  unfold agreedSlot
  dsimp only
  rw [show s.env.x.agrSlot (s.env.opnd .x ra false 14).d = some q from known]
  dsimp only
  rw [resolved]
  dsimp only
  rw [show r.decide (s.env.target11 ofs) (if rm = 0 then none else some ((if rm = 0 then Opnd.none else s.env.reg .x rm).d.toNat % 2 ^ 54 / 4 * 4)) = _ from decides]
  rfl

/-- An ABR on an open ticket waits (R291). -/
theorem agreedSlot_waits (open_ : q.res = none) : agreedSlot s.env rm ra ofs none = s.agrFinish rm ra { hold := .abr } := by
  unfold agreedSlot
  dsimp only
  rw [show s.env.x.agrSlot (s.env.opnd .x ra false 14).d = some q from known]
  dsimp only
  rw [open_]
  rfl

/-- An ABRP on an open ticket waits behind two predictions (R292). -/
theorem agreedSlot_full (open_ : q.res = none) (full : 2 ≤ (s.ctx s.cur).preds.length) (p : Bool) :
    agreedSlot s.env rm ra ofs (some p) = s.agrFinish rm ra { hold := .abr } := by
  unfold agreedSlot
  dsimp only
  rw [show s.env.x.agrSlot (s.env.opnd .x ra false 14).d = some q from known]
  dsimp only
  rw [open_]
  exact if_pos full

/-- The checkpoint that an ABRP opens; the end of its bundle completes it (R293). -/
def State.agrPred (s : State) (rm ra : BitVec 5) (ofs : BitVec 11) (p : Bool) : Pred :=
  ⟨(s.ctx s.cur).r, 0, p, (s.kA ra false).d, s.env.target11 ofs, s.agrXm rm, 0, 0, none, none⟩

/-- An ABRP on an open ticket predicts (R292). -/
theorem agreedSlot_predicts (open_ : q.res = none) (room : (s.ctx s.cur).preds.length < 2) (p : Bool) :
    agreedSlot s.env rm ra ofs (some p) = s.agrFinish rm ra { takenK := if p then some (s.env.target11 ofs) else none
                                                              eff := fun u => s.env.takeK (if p then some (s.env.target11 ofs) else none)
                                                                { u with iss := { u.iss with pred := some (s.agrPred rm ra ofs p) } } } := by
  unfold agreedSlot
  dsimp only
  rw [show s.env.x.agrSlot (s.env.opnd .x ra false 14).d = some q from known]
  dsimp only
  rw [open_]
  exact if_neg (Nat.not_le.2 room)

end

/-- What an agreed branch leaves: its target and its prediction. -/
def State.agrIssued (s : State) (rm ra : BitVec 5) (taken : Option Nat) (pred : Option Pred) : State :=
  { s.filled [s.kA ra false, s.agrM rm] with iss := { s.iss with takenK := taken, pred := pred } }

section
variable (h : s.Issuing) {q : AgrSlot} (known : (s.ctx s.cur).agrSlot (s.kA ra false).d = some q)
include h known

theorem issue_agreed_branches {r : AgrRes} (resolved : q.res = some r) {b : Option Nat} (decides : r.decide (s.env.target11 ofs) (s.agrXm rm) = .branch b)
    (f : State → Slot) (hf : f s = agreedSlot s.env rm ra ofs predict) : issue f s = .next (s.agrIssued rm ra b s.iss.pred) :=
  issue_finish f h (hf.trans (agreedSlot_branches rm ra ofs predict known resolved decides))

theorem issue_agreed_predicts (open_ : q.res = none) (room : (s.ctx s.cur).preds.length < 2) (p : Bool) (f : State → Slot)
    (hf : f s = agreedSlot s.env rm ra ofs (some p)) :
    issue f s = .next (s.agrIssued rm ra (if p then some (s.env.target11 ofs) else none) (some (s.agrPred rm ra ofs p))) :=
  issue_finish f h (hf.trans (agreedSlot_predicts rm ra ofs known open_ room p))

end

section
variable (c : s.env.cond = true)
include c

theorem agreed_unknown (unknown : (s.ctx s.cur).agrSlot (s.kA ra false).d = none) :
    (agreedSlot s.env rm ra ofs predict).illVal = some (s.kA ra false).d ∧ (agreedSlot s.env rm ra ofs predict).traps = [] := by
  rw [agreedSlot_unknown rm ra ofs predict unknown]
  exact ⟨Slot.finish_illVal c, Slot.finish_traps c⟩

end
end

/-! ### How a result decides (R291) -/

section
variable (r : AgrRes) (t : Nat) (xm : Option Nat)

theorem AgrRes.decide_ok (ok : r.status = 0 ∨ r.status = 3) : r.decide t xm = .branch (if r.dec then some t else none) := if_pos ok

theorem AgrRes.decide_mismatch_target {u : Nat} (mismatch : r.status = 1) (mm : r.mm = true) (named : xm = some u) : r.decide t xm = .branch (some u) := by
  unfold AgrRes.decide
  rw [if_neg (by omega), if_pos mismatch, mm, named]

theorem AgrRes.decide_mismatch_traps (mismatch : r.status = 1) (unnamed : r.mm = false ∨ xm = none) : r.decide t xm = .trap cMISMATCH := by
  unfold AgrRes.decide
  rw [if_neg (by omega), if_pos mismatch]
  rcases unnamed with mm | none
  · rw [mm]
  · rw [none]
    cases r.mm <;> rfl

theorem AgrRes.decide_absent (absent : r.status = 2 ∨ 4 ≤ r.status) : r.decide t xm = .trap cABSENT := by
  unfold AgrRes.decide
  rw [if_neg (by omega), if_neg (by omega)]

end

/-! ### ARES (R290, R389) -/

/-- The value that ARES gives of a resolved result: its word, or 64 bits of a mask. -/
def AgrRes.part (r : AgrRes) (v : BitVec 4) (w : Nat) : W64 := if v = 0 then r.word else if v = 1 then maskWindow r.pres w else maskWindow r.mism w

/-- Operand B of ARES, which names the bits of a mask. -/
def State.aresB (s : State) (o : R3) (v : BitVec 4) : Opnd := if v = 0 then Opnd.none else s.kB o.b o.hb

section
variable {s : State} (h : s.Issuing) (o : R3) (v : BitVec 4)
include h

theorem exec_ares_unknown (unknown : (s.ctx s.cur).agrSlot (s.kA o.a o.ha).d = none) :
    exec (.ares o v) s = .next (s.gives [s.kA o.a o.ha, s.aresB o v] (s.xRes o.d (if v = 0 then 0xF0000000 else 0) 2)) := by
  refine (issue_finish (slotAres o v) h rfl).trans ?_
  dsimp only
  rw [show s.env.x.agrSlot (s.env.opnd .x o.a o.ha 14).d = none from unknown]
  rfl

theorem exec_ares_resolved (hv : v.toNat ≤ 2) {q : AgrSlot} (known : (s.ctx s.cur).agrSlot (s.kA o.a o.ha).d = some q) {r : AgrRes} (resolved : q.res = some r) :
    exec (.ares o v) s = .next (s.gives [s.kA o.a o.ha, s.aresB o v] (s.xRes o.d (r.part v ((s.aresB o v).d.toNat % 16)) 2)) := by
  refine (issue_finish (slotAres o v) h rfl).trans ?_
  dsimp only
  rw [show s.env.x.agrSlot (s.env.opnd .x o.a o.ha 14).d = some q from known]
  dsimp only
  rw [resolved]
  have form : v = 0 ∨ v = 1 ∨ v = 2 := by bv_omega
  rcases form with rfl | rfl | rfl <;> rfl

end

end Sys2Proof.Machine
end

section
open Sys2Proof Sys2Proof.Machine

/-- Settles O43: AGREE by what it leaves, the agreed branches by the slot that each state of their ticket gives, and the rule by which a result decides. -/
theorem agreementSlots : Obligations.AgreementSlots := by
  refine ⟨fun s d tag g m h => ?_, fun s d tag c none => slotAgree_absent d tag c none, fun s m r ofs c => ?_, fun r tgt xm => ⟨?_, ?_, ?_, ?_⟩, fun s o v h hv => ⟨?_, ?_⟩⟩
  · intro x k gid a found member seq ticket
    have ctx := State.agreed_ctx (s := s) d tag g m
    refine ⟨_, exec_agree d tag h found member, rfl, rfl, ?_, ?_, ?_, ?_⟩
    · exact (Table.find_set ..).trans (if_pos rfl)
    · rw [ctx]
      rfl
    · rw [ctx]
      rfl
    · rw [ctx]
      rfl
  · intro a x mo tgt xm ans
    refine ⟨fun unknown => agreed_unknown m r ofs none c unknown, fun q known open_ => ?_,
      fun q res b h known resolved decides => issue_agreed_branches m r ofs none h known resolved decides (slotAbr m r ofs) rfl, fun q res k known resolved decides => ?_,
      fun n p hm => ?_⟩
    · rw [show slotOf (.abr m r ofs) s = _ from agreedSlot_waits m r ofs known open_]
      exact Slot.finish_hold _ _ _ _ c
    · rw [show slotOf (.abr m r ofs) s = _ from agreedSlot_traps m r ofs none known resolved decides]
      exact Slot.finish_traps c
    · subst hm
      refine ⟨fun q h known open_ room => issue_agreed_predicts _ r ofs h known open_ room p (slotAbrp p n r ofs) rfl, fun q known open_ full => ?_,
        fun unknown => (agreed_unknown _ r ofs (some p) c unknown).1,
        fun q res b h known resolved decides => issue_agreed_branches _ r ofs (some p) h known resolved decides (slotAbrp p n r ofs) rfl⟩
      rw [show slotOf (.abrp p n r ofs) s = _ from agreedSlot_full _ r ofs known open_ full p]
      exact Slot.finish_hold _ _ _ _ c
  · exact r.decide_ok tgt xm
  · exact fun t mismatch mm named => r.decide_mismatch_target tgt xm mismatch mm named
  · exact r.decide_mismatch_traps tgt xm
  · exact r.decide_absent tgt xm
  · exact exec_ares_unknown h o v
  · exact fun q res known resolved => exec_ares_resolved h o v hv known resolved
end

section
/-! SUPPORT. What the operations of an agreement group make of its contributions (R283, R298): no order of arrival changes it. -/

namespace Sys2Proof.Machine

/-! ### The first element of the least key -/

section
variable {γ α : Type} (f : γ → α) (key : α → Int)

/-- Keep what is there unless what comes has a lower key. -/
def pickStep (b : Option α) (c : γ) : Option α :=
  match b with
  | none => some (f c)
  | some v => if key (f c) < key v then some (f c) else some v

/-- Of a list's values the first of those with the least key. -/
def pick (p : List γ) : Option α := p.foldl (pickStep f key) none

theorem foldl_pickStep (p : List γ) (v : α) : ∃ w, p.foldl (pickStep f key) (some v) = some w ∧ (w = v ∨ ∃ c ∈ p, f c = w) ∧ key w ≤ key v ∧
    ∀ c ∈ p, key w ≤ key (f c) := by
  induction p generalizing v with
  | nil => exact ⟨v, rfl, .inl rfl, Int.le_refl _, by simp⟩
  | cons c p ih =>
    obtain ⟨u, step, here, low, first⟩ : ∃ u, pickStep f key (some v) c = some u ∧ (u = v ∨ f c = u) ∧ key u ≤ key v ∧ key u ≤ key (f c) := by
      unfold pickStep
      dsimp only
      split
      · exact ⟨f c, rfl, .inr rfl, by omega, Int.le_refl _⟩
      · exact ⟨v, rfl, .inl rfl, Int.le_refl _, by omega⟩
    obtain ⟨w, fold, from_, le, all⟩ := ih u
    refine ⟨w, ?_, ?_, Int.le_trans le low, ?_⟩
    · rw [List.foldl_cons, step, fold]
    · rcases from_ with rfl | ⟨d, hd, hw⟩
      · rcases here with rfl | hc
        · exact .inl rfl
        · exact .inr ⟨c, List.mem_cons_self, hc⟩
      · exact .inr ⟨d, List.mem_cons_of_mem _ hd, hw⟩
    · rintro d hd
      rcases List.mem_cons.1 hd with rfl | hd
      · exact Int.le_trans le first
      · exact all d hd

/-- What is picked of a list is a value of it, with the least key. -/
theorem pick_spec {p : List γ} (some_ : p ≠ []) : ∃ w, pick f key p = some w ∧ (∃ c ∈ p, f c = w) ∧ ∀ c ∈ p, key w ≤ key (f c) := by
  cases p with
  | nil => exact absurd rfl some_
  | cons c p =>
    obtain ⟨w, fold, from_, le, all⟩ := foldl_pickStep f key p (f c)
    refine ⟨w, fold, ?_, List.forall_mem_cons.2 ⟨le, all⟩⟩
    rcases from_ with rfl | ⟨d, hd, hw⟩
    · exact ⟨c, List.mem_cons_self, rfl⟩
    · exact ⟨d, List.mem_cons_of_mem _ hd, hw⟩

/-- Where keys tell values apart, the order of a list does not matter. -/
theorem pick_perm (apart : ∀ a b, key a = key b → a = b) {p q : List γ} (h : p.Perm q) : pick f key p = pick f key q := by
  by_cases none : p = []
  · subst none
    rw [List.nil_perm.1 h]
  · obtain ⟨v, hv, ⟨c, hc, cv⟩, least⟩ := pick_spec f key none
    obtain ⟨w, hw, ⟨d, hd, dw⟩, least'⟩ := pick_spec f key (p := q) fun e => none (List.perm_nil.1 (e ▸ h))
    have le : key v ≤ key w := dw ▸ least d (h.mem_iff.2 hd)
    have ge : key w ≤ key v := cv ▸ least' c (h.mem_iff.1 hc)
    rw [hv, hw, apart v w (Int.le_antisymm le ge)]

end

/-! ### Combined values (R283) -/

/-- How many contributions are not 0. -/
def votes (p : List Contribution) : Nat := (p.filter fun (c : Contribution) => decide (c.value ≠ 0)).length

/-- A value decides where it is not 0. -/
def decided (v : W32) : W32 × Bool := (v, v != 0)

theorem combine_least (k : Nat) (p : List Contribution) : combine 4 k p = decided ((pick (·.value) (fun v : W32 => v.toInt) p).getD 0) := by
  have step : (fun (b : Option W32) (c : Contribution) => match b with
      | none => some c.value
      | some v => if decide (c.value.toInt < v.toInt) = true then some c.value else some v) = pickStep (·.value) (fun v : W32 => v.toInt) := by
    funext b c
    cases b with
    | none => rfl
    | some v => simp only [decide_eq_true_eq, pickStep]
  exact congrArg (fun f => decided ((p.foldl f none).getD 0)) step

theorem combine_greatest (k : Nat) (p : List Contribution) : combine 5 k p = decided ((pick (·.value) (fun v : W32 => -v.toInt) p).getD 0) := by
  have step : (fun (b : Option W32) (c : Contribution) => match b with
      | none => some c.value
      | some v => if decide (v.toInt < c.value.toInt) = true then some c.value else some v) = pickStep (·.value) (fun v : W32 => -v.toInt) := by
    funext b c
    cases b with
    | none => rfl
    | some v => simp only [decide_eq_true_eq, pickStep, Int.neg_lt_neg_iff]
  exact congrArg (fun f => decided ((p.foldl f none).getD 0)) step

theorem combine_sum (n k : Nat) (p : List Contribution) :
    combine (n + 6) k p = decided (p.foldl (fun (a : W32) (c : Contribution) => a + c.value) 0) := rfl

/-- No order of arrival changes what is combined (R298). -/
theorem combine_perm (op k : Nat) {p q : List Contribution} (h : p.Perm q) : combine op k p = combine op k q := by
  have count : votes p = votes q := (h.filter _).length_eq
  have all : p.length = q.length := h.length_eq
  match op with
  | 0 => exact congrArg₂ (fun a b => (BitVec.ofNat 32 a, decide (a = b))) count all
  | 1 => exact congrArg (fun a => (BitVec.ofNat 32 a, decide (1 ≤ a))) count
  | 2 => exact congrArg₂ (fun a b => (BitVec.ofNat 32 a, decide (b < 2 * a))) count all
  | 3 => exact congrArg (fun a => (BitVec.ofNat 32 a, decide (k ≤ a))) count
  | 4 => rw [combine_least, combine_least, pick_perm _ _ (fun _ _ => BitVec.eq_of_toInt_eq) h]
  | 5 => rw [combine_greatest, combine_greatest, pick_perm _ _ (fun _ _ same => BitVec.eq_of_toInt_eq (Int.neg_inj.1 same)) h]
  | n + 6 =>
    have order : RightCommutative fun (a : W32) (c : Contribution) => a + c.value := ⟨fun a c d => by ac_rfl⟩
    rw [combine_sum, combine_sum, h.foldl_eq (rcomm := order)]

theorem combine_least_le (k : Nat) {p : List Contribution} {c : Contribution} (hc : c ∈ p) : (combine 4 k p).1.toInt ≤ c.value.toInt := by
  obtain ⟨w, hw, -, least⟩ := pick_spec (·.value) (fun v : W32 => v.toInt) (List.ne_nil_of_mem hc)
  rw [combine_least, hw]
  exact least c hc

theorem combine_greatest_ge (k : Nat) {p : List Contribution} {c : Contribution} (hc : c ∈ p) : c.value.toInt ≤ (combine 5 k p).1.toInt := by
  obtain ⟨w, hw, -, least⟩ := pick_spec (·.value) (fun v : W32 => -v.toInt) (List.ne_nil_of_mem hc)
  rw [combine_greatest, hw]
  exact Int.neg_le_neg_iff.1 (least c hc)

theorem combine_least_mem (k : Nat) {p : List Contribution} (some_ : p ≠ []) : ∃ c ∈ p, c.value = (combine 4 k p).1 := by
  obtain ⟨w, hw, from_, -⟩ := pick_spec (·.value) (fun v : W32 => v.toInt) some_
  rw [combine_least, hw]
  exact from_

theorem combine_greatest_mem (k : Nat) {p : List Contribution} (some_ : p ≠ []) : ∃ c ∈ p, c.value = (combine 5 k p).1 := by
  obtain ⟨w, hw, from_, -⟩ := pick_spec (·.value) (fun v : W32 => -v.toInt) some_
  rw [combine_greatest, hw]
  exact from_

/-- From MIN on, an operation decides where its value is not 0. -/
theorem combine_dec {op : Nat} (h : 4 ≤ op) (k : Nat) (p : List Contribution) : (combine op k p).2 = ((combine op k p).1 != 0) :=
  match op, h with
  | 4, _ => by rw [combine_least]; rfl
  | 5, _ => by rw [combine_greatest]; rfl
  | _ + 6, _ => rfl

/-! ### The reference tag (R298) -/

/-- How many contributions hold a tag. -/
def tagCount (p : List Contribution) (t : BitVec 16) : Nat := (p.filter fun (c : Contribution) => decide (c.tag = t)).length

theorem refTag_eq (p : List Contribution) : refTag p = (pick (·.tag) (fun t => -(tagCount p t : Int)) p).getD 0 := by
  have step : (fun (b : Option (BitVec 16)) (c : Contribution) => match b with
      | none => some c.tag
      | some t => if tagCount p t < tagCount p c.tag then some c.tag else some t) = pickStep (·.tag) (fun t => -(tagCount p t : Int)) := by
    funext b c
    cases b with
    | none => rfl
    | some v => simp only [pickStep, Int.neg_lt_neg_iff, Int.ofNat_lt]
  exact congrArg (fun f => (p.foldl f none).getD 0) step

/-- No tag is held by more contributions than the reference tag. -/
theorem tagCount_le_refTag {p : List Contribution} {c : Contribution} (hc : c ∈ p) : tagCount p c.tag ≤ tagCount p (refTag p) := by
  obtain ⟨w, hw, -, least⟩ := pick_spec (·.tag) (fun t => -(tagCount p t : Int)) (List.ne_nil_of_mem hc)
  rw [refTag_eq, hw, Option.getD_some]
  have := least c hc
  omega

/-- Of two tags the one of the lower-numbered member is the reference. -/
theorem refTag_pair (a b : Contribution) : refTag [a, b] = a.tag := by
  have none_more : ¬tagCount [a, b] a.tag < tagCount [a, b] b.tag := by
    by_cases same : a.tag = b.tag
    · rw [same]
      exact Nat.lt_irrefl _
    · simp [tagCount, same, Ne.symm same]
  show Option.getD (if tagCount [a, b] a.tag < tagCount [a, b] b.tag then some b.tag else some a.tag) 0 = a.tag
  rw [if_neg none_more]
  rfl

end Sys2Proof.Machine
end

section
/-! SUPPORT. The agreement fabric: what a resolution leaves in its group and sends, and how contributions and losses lead to it (R283 to R286, R289, R298
to R300). -/

namespace Sys2Proof.Machine

/-! ### Result words (R289) -/

section
variable (v : W32) {st : Nat} (hst : st < 16) (d : Bool) (n : Nat) (gen : BitVec 32)
include hst

theorem resultWord_toNat : (resultWord v st d n gen).toNat =
    v.toNat * 2 ^ 32 + st * 2 ^ 28 + (if d then 2 ^ 27 else 0) + n % 2 ^ 11 * 2 ^ 16 + gen.toNat % 2 ^ 16 := by
  have hv := v.isLt
  rw [resultWord, BitVec.toNat_ofNat, Nat.mod_eq_of_lt]
  split <;> omega

theorem resultWord_value : (resultWord v st d n gen).toNat / 2 ^ 32 = v.toNat := by
  rw [resultWord_toNat v hst]
  split <;> omega

theorem resultWord_status : (resultWord v st d n gen).toNat / 2 ^ 28 % 16 = st := by
  rw [resultWord_toNat v hst]
  split <;> omega

theorem resultWord_dec : (resultWord v st d n gen).getLsbD 27 = d := by
  rw [BitVec.getLsbD, Nat.testBit_eq_decide_div_mod_eq, resultWord_toNat v hst]
  cases d
  · exact decide_eq_false (by simp only [Bool.false_eq_true, if_false]; omega)
  · exact decide_eq_true (by simp only [if_true]; omega)

theorem resultWord_present : (resultWord v st d n gen).toNat / 2 ^ 16 % 2 ^ 11 = n % 2 ^ 11 := by
  rw [resultWord_toNat v hst]
  split <;> omega

theorem resultWord_gen : (resultWord v st d n gen).toNat % 2 ^ 16 = gen.toNat % 2 ^ 16 := by
  rw [resultWord_toNat v hst]
  split <;> omega

end

theorem AgrRes.absent_status (r : AgrRes) : r.absent.status = 2 := resultWord_status 0 (by decide) ..

/-! ### The result of an instance -/

section
variable (g : Group) (i : Inst)

/-- The present members that hold another tag than the reference (R298). -/
def Group.mismatched : List Nat :=
  ((i.byMember g.members.length).filter fun (c : Contribution) => decide (c.tag ≠ refTag (i.byMember g.members.length))).map fun c => c.member

/-- STATUS (R289). -/
def Group.statusOf : Nat := if !(g.mismatched i).isEmpty then 1 else if (g.missing i).isEmpty then 0 else if g.excl then 3 else 2

/-- Does the resolution take members out of LIVE (R299)? -/
def Group.drops : Bool := g.excl && !(g.missing i).isEmpty

/-- GEN after the resolution (R299). -/
def Group.nextGen : BitVec 32 := if g.drops i then g.gen + 1 else g.gen

/-- The result of an instance (R289, R298). -/
def Group.result : AgrRes :=
  let p := i.byMember g.members.length
  let ok := decide (g.statusOf i = 0) || decide (g.statusOf i = 3)
  ⟨resultWord (if ok then (combine g.op g.k p).1 else 0) (g.statusOf i) (ok && (combine g.op g.k p).2) p.length (g.nextGen i), maskOf1024 (p.map (·.member)),
    maskOf1024 (g.mismatched i), g.mm⟩

/-- The members after a resolution: under EXCLUDE the missing ones are no longer LIVE (R299). -/
def Group.kept (members : List Member) : List Member :=
  if g.drops i then members.mapIdx fun m (q : Member) => if (g.missing i).contains m then { q with live := false } else q else members

/-- A group whose instance has resolved. -/
def Group.resolved : Group :=
  { g with gen := g.nextGen i, insts := g.insts.filter (fun (j : Inst) => decide (j.seq ≠ i.seq)), past := g.past ++ [(i.seq, g.result i)],
           members := g.kept i g.members }

/-- What a contributing context is told: a member that is taken out of LIVE gets ABSENT (R299). -/
def Group.answer (c : Contribution) : AgrRes := if g.drops i && (g.missing i).contains c.member then (g.result i).absent else g.result i

theorem Group.statusOf_eq : g.statusOf i = if g.mismatched i ≠ [] then 1 else if g.missing i = [] then 0 else if g.excl then 3 else 2 := by
  simp only [Group.statusOf, Bool.not_eq_true', List.isEmpty_eq_false_iff, List.isEmpty_iff]

theorem Group.statusOf_lt : g.statusOf i < 16 := by
  rw [Group.statusOf_eq]
  split
  · decide
  · split
    · decide
    · split <;> decide

theorem Group.result_status : (g.result i).status = g.statusOf i := resultWord_status _ (g.statusOf_lt i) ..

/-- A result that is OK or SHRUNK carries VALUE and DEC of the operation (R289). -/
theorem Group.result_ok (ok : (g.result i).status = 0 ∨ (g.result i).status = 3) :
    (g.result i).word.toNat / 2 ^ 32 = (combine g.op g.k (i.byMember g.members.length)).1.toNat ∧
    (g.result i).dec = (combine g.op g.k (i.byMember g.members.length)).2 := by
  rw [Group.result_status] at ok
  have good : (decide (g.statusOf i = 0) || decide (g.statusOf i = 3)) = true := by simpa using ok
  refine ⟨(resultWord_value _ (g.statusOf_lt i) ..).trans ?_, (resultWord_dec _ (g.statusOf_lt i) ..).trans ?_⟩
  · rw [good, if_pos rfl]
  · rw [good, Bool.true_and]

/-- A result that is MISMATCH or ABSENT carries VALUE 0 and DEC 0 (R289). -/
theorem Group.result_bad (bad : (g.result i).status = 1 ∨ (g.result i).status = 2) : (g.result i).word.toNat / 2 ^ 32 = 0 ∧ (g.result i).dec = false := by
  rw [Group.result_status] at bad
  have fails : (decide (g.statusOf i = 0) || decide (g.statusOf i = 3)) = false := by
    simp only [Bool.or_eq_false_iff, decide_eq_false_iff_not]
    omega
  refine ⟨(resultWord_value _ (g.statusOf_lt i) ..).trans ?_, (resultWord_dec _ (g.statusOf_lt i) ..).trans ?_⟩
  · rw [fails]
    rfl
  · rw [fails, Bool.false_and]

/-- No member is out of LIVE unless EXCLUDE finds one missing. -/
theorem Group.drops_false (all : g.excl = false ∨ g.missing i = []) : g.drops i = false := by
  rcases all with excl | none
  · rw [Group.drops, excl, Bool.false_and]
  · rw [Group.drops, none]
    exact Bool.and_false _

theorem Group.drops_true (excl : g.excl = true) (gone : g.missing i ≠ []) : g.drops i = true := by
  rw [Group.drops, excl, Bool.true_and, Bool.not_eq_true', List.isEmpty_eq_false_iff]
  exact gone

theorem Group.answer_eq (c : Contribution) :
    g.answer i c = if g.excl = true ∧ (g.missing i).contains c.member = true then (g.result i).absent else g.result i := by
  unfold Group.answer
  refine if_congr ?_ rfl rfl
  rw [Bool.and_eq_true, Group.drops, Bool.and_eq_true, and_assoc]
  refine and_congr_right fun _ => and_iff_right_of_imp fun has => ?_
  rw [Bool.not_eq_true', List.isEmpty_eq_false_iff]
  exact List.ne_nil_of_mem (List.contains_iff_mem.1 has)

theorem Group.kept_all (all : g.drops i = false) (members : List Member) : g.kept i members = members := if_neg (ne_true_of_eq_false all)

theorem Group.kept_getElem? (drops : g.drops i = true) {members : List Member} {m : Nat} {q : Member} (at_ : members[m]? = some q) :
    (g.kept i members)[m]? = some (if (g.missing i).contains m then { q with live := false } else q) := by
  rw [Group.kept, if_pos drops, List.getElem?_mapIdx, at_]
  rfl

/-- Nobody who was found absent counts as present (R298, R300). -/
theorem Inst.byMember_gone {m : Nat} (gone : m ∈ i.gone) (n : Nat) {c : Contribution} (hc : c ∈ i.byMember n) : c.member ≠ m := by
  rintro rfl
  obtain ⟨m, -, found⟩ := List.mem_filterMap.1 hc
  have not_gone : i.gone.contains m = false := by
    by_contra has
    rw [Bool.not_eq_false] at has
    rw [has] at found
    cases found
  rw [not_gone] at found
  have same : c.member = m := by simpa using List.find?_some found
  rw [same] at gone
  rw [List.contains_iff_mem.2 gone] at not_gone
  cases not_gone

/-- A LIVE member that was found absent is missing (R298). -/
theorem Group.missing_of_gone {m : Nat} (gone : m ∈ i.gone) (live : (g.members[m]?).map (fun q => q.live) = some true) : m ∈ g.missing i := by
  have lt : m < g.members.length := by
    by_contra out
    rw [List.getElem?_eq_none (Nat.not_lt.1 out)] at live
    cases live
  refine List.mem_filter.2 ⟨List.mem_range.2 lt, ?_⟩
  rw [live, List.contains_iff_mem.2 gone]
  rfl

end

/-! ### Telling, and changes of a group -/

section
variable (s : State)

/-- The message of a contribution's result, to a context of this package (R286). -/
def messageOf (c : Contribution) (r : AgrRes) : Option AgrMsg :=
  c.ctx.map fun x => (⟨x, ((BitVec.ofNat 32 c.seq ++ c.tag : BitVec 48) ++ BitVec.ofNat 16 c.gid : BitVec 64), c.seq, r⟩ : AgrMsg)

@[simp] theorem State.tell_hub (c : Contribution) (r : AgrRes) : (s.tell c r).hub = s.hub := by
  unfold State.tell
  split <;> rfl

theorem State.tell_msgs (c : Contribution) (r : AgrRes) : (s.tell c r).msgs = s.msgs ++ (messageOf c r).toList := by
  unfold State.tell messageOf
  cases c.ctx with
  | none => exact (List.append_nil _).symm
  | some x => rfl

/-- Contributions that are told their results, one after another. -/
theorem State.foldl_tell (f : Contribution → AgrRes) (l : List Contribution) :
    (l.foldl (fun (s : State) c => s.tell c (f c)) s).hub = s.hub ∧
    (l.foldl (fun (s : State) c => s.tell c (f c)) s).msgs = s.msgs ++ l.filterMap fun c => messageOf c (f c) := by
  induction l generalizing s with
  | nil => exact ⟨rfl, (List.append_nil _).symm⟩
  | cons c l ih =>
    obtain ⟨hub, msgs⟩ := ih (s.tell c (f c))
    refine ⟨hub.trans (s.tell_hub ..), msgs.trans ?_⟩
    rw [State.tell_msgs, List.append_assoc, List.filterMap_cons]
    cases messageOf c (f c) <;> rfl

/-- Writes leave the hub and the messages. -/
theorem State.foldl_wr {β : Type} (f : State → β → State) (writes : ∀ s b, ∃ l n v, f s b = s.wr l n v) (l : List β) :
    (l.foldl f s).hub = s.hub ∧ (l.foldl f s).msgs = s.msgs :=
  List.foldlRecOn l f (motive := fun t : State => t.hub = s.hub ∧ t.msgs = s.msgs) ⟨rfl, rfl⟩ fun t ht b _ => by
    obtain ⟨k, n, v, h⟩ := writes t b
    rw [h]
    exact ht

variable {s} {key : Nat} {g : Group} (found : s.hub.groups.find key = some g)
include found

theorem State.modGroup_eq (f : Group → Group) : s.modGroup key f = s.modHub fun h => { h with groups := h.groups.set key (f g) } := by
  rw [State.modGroup, found]

theorem State.find_modGroup (f : Group → Group) : (s.modGroup key f).hub.groups.find key = some (f g) := by
  rw [State.modGroup_eq found]
  exact (Table.find_set ..).trans (if_pos rfl)

theorem State.modGroup_msgs (f : Group → Group) : (s.modGroup key f).msgs = s.msgs := by
  rw [State.modGroup_eq found]
  rfl

/-- A group that is cut off resolves nothing more, and its members are told (R285). -/
theorem State.cutGroup_group (g' : Group) : (s.cutGroup key g').hub.groups.find key = some { g with cut := true, insts := [] } ∧
    ∃ later, (s.cutGroup key g').msgs = s.msgs ++ later := by
  have told : (s.cutGroup key g').hub = (s.modGroup key fun g => { g with cut := true, insts := [] }).hub ∧
      ∃ later, (s.cutGroup key g').msgs = (s.modGroup key fun g => { g with cut := true, insts := [] }).msgs ++ later := by
    refine List.foldlRecOn g'.insts _ (motive := fun t : State => t.hub = _ ∧ ∃ later, t.msgs = _ ++ later) ⟨rfl, [], (List.append_nil _).symm⟩ ?_
    rintro t ⟨hub, later, msgs⟩ i -
    obtain ⟨same, more⟩ := t.foldl_tell (fun _ => g'.noResult) i.got
    exact ⟨same.trans hub, _, by rw [more, msgs, List.append_assoc]⟩
  obtain ⟨hub, later, msgs⟩ := told
  refine ⟨?_, later, ?_⟩
  · rw [hub, State.find_modGroup found]
  · rw [msgs, State.modGroup_msgs found]

end

/-! ### Resolution (R298, R299) -/

section
variable (s : State) (key : Nat) (g : Group) (i : Inst)

/-- A state in which a group's instance has resolved and the descriptor is written (R282). -/
def State.recorded : State :=
  let s1 := s.modGroup key fun h =>
    { h with gen := g.nextGen i, insts := h.insts.filter (fun (j : Inst) => decide (j.seq ≠ i.seq)), past := h.past ++ [(i.seq, g.result i)],
             members := g.kept i h.members }
  if g.drops i then
    (g.missing i).foldl (fun (s : State) m => let l := hsLoc (g.addr + 64 + 4 * m); s.wr l 4 (s.rd l 4 % 2 ^ 31)) (s1.wr (hsLoc (g.addr + 8)) 4 (g.nextGen i).toNat)
  else s1

/-- A state in which the contributing contexts have been told (R286). -/
def State.announced : State := i.got.foldl (fun (s : State) (c : Contribution) => s.tell c (g.answer i c)) (s.recorded key g i)

/-- A root that reaches too few of the LIVE members after the resolution stops resolving (R285). -/
theorem State.resolveInst_eq : s.resolveInst key g i = match (s.announced key g i).hub.groups.find key with
    | some g' => if g.drops i && decide (s.rootOf g = some s.hub.pkg) && !(s.announced key g i).mayElect g' then (s.announced key g i).cutGroup key g'
        else s.announced key g i
    | none => s.announced key g i := rfl

variable {s key g} (found : s.hub.groups.find key = some g)
include found

theorem State.recorded_group : (s.recorded key g i).hub.groups.find key = some (g.resolved i) ∧ (s.recorded key g i).msgs = s.msgs := by
  unfold State.recorded
  extract_lets s1
  have group : s1.hub.groups.find key = some (g.resolved i) := State.find_modGroup found _
  have msgs : s1.msgs = s.msgs := State.modGroup_msgs found _
  split
  · obtain ⟨hub, same⟩ := State.foldl_wr (s1.wr (hsLoc (g.addr + 8)) 4 (g.nextGen i).toNat) (fun (s : State) m => let l := hsLoc (g.addr + 64 + 4 * m); s.wr l 4 (s.rd l 4 % 2 ^ 31))
      (fun t m => ⟨_, _, _, rfl⟩) (g.missing i)
    exact ⟨(congrArg (fun h : HubSt => h.groups.find key) hub).trans group, same.trans msgs⟩
  · exact ⟨group, msgs⟩

theorem State.announced_group : (s.announced key g i).hub.groups.find key = some (g.resolved i) ∧
    (s.announced key g i).msgs = s.msgs ++ i.got.filterMap fun c => messageOf c (g.answer i c) := by
  obtain ⟨group, msgs⟩ := State.recorded_group i found
  obtain ⟨hub, told⟩ := (s.recorded key g i).foldl_tell (g.answer i) i.got
  exact ⟨(congrArg (fun h : HubSt => h.groups.find key) hub).trans group, told.trans (congrArg (· ++ _) msgs)⟩

/-- What a resolution leaves of its group, and what it sends: the group goes on, or it is cut off from then on. -/
theorem State.resolveInst_group : ∃ h later, (s.resolveInst key g i).hub.groups.find key = some h ∧
    (s.resolveInst key g i).msgs = s.msgs ++ (i.got.filterMap fun c => messageOf c (g.answer i c)) ++ later ∧
    ((h = g.resolved i ∧ later = []) ∨ h = { g.resolved i with cut := true, insts := [] }) := by
  obtain ⟨group, msgs⟩ := State.announced_group i found
  rw [State.resolveInst_eq, group]
  dsimp only
  split
  · obtain ⟨cut, later, more⟩ := State.cutGroup_group group (g.resolved i)
    exact ⟨_, later, cut, by rw [more, msgs], .inr rfl⟩
  · exact ⟨_, [], group, by rw [msgs, List.append_nil], .inl ⟨rfl, rfl⟩⟩

/-- A resolution leaves no instance that was not there, and none of its own sequence number. -/
theorem State.resolveInst_insts : ∃ h, (s.resolveInst key g i).hub.groups.find key = some h ∧ ∀ j ∈ h.insts, j ∈ g.insts ∧ j.seq ≠ i.seq := by
  obtain ⟨h, later, group, -, form⟩ := State.resolveInst_group i found
  refine ⟨h, group, ?_⟩
  rcases form with ⟨rfl, -⟩ | rfl
  · intro j hj
    obtain ⟨old, other⟩ := List.mem_filter.1 hj
    exact ⟨old, of_decide_eq_true other⟩
  · exact fun j hj => absurd hj List.not_mem_nil

theorem State.resolveInst_fewer (listed : i ∈ g.insts) : ∃ h, (s.resolveInst key g i).hub.groups.find key = some h ∧ h.insts.length < g.insts.length := by
  obtain ⟨h, later, group, -, form⟩ := State.resolveInst_group i found
  refine ⟨h, group, ?_⟩
  rcases form with ⟨rfl, -⟩ | rfl
  · exact List.length_filter_lt_length_iff_exists.2 ⟨i, listed, by simp⟩
  · exact List.length_pos_of_mem listed

/-- A resolution leaves no more instances than there were, listed or not. -/
theorem State.resolveInst_length : ∃ h, (s.resolveInst key g i).hub.groups.find key = some h ∧ h.insts.length ≤ g.insts.length := by
  obtain ⟨h, later, group, -, form⟩ := State.resolveInst_group i found
  refine ⟨h, group, ?_⟩
  rcases form with ⟨rfl, -⟩ | rfl
  · exact List.length_filter_le ..
  · exact Nat.zero_le _

end

/-! ### Instances that wait for no member (R298) -/

/-- Every instance of a group satisfies p. -/
def State.AllInsts (s : State) (key : Nat) (p : Inst → Prop) : Prop := ∀ h, s.hub.groups.find key = some h → ∀ j ∈ h.insts, p j

section
variable {s : State} {key : Nat}

theorem State.resolvable_iff (s : State) (g : Group) (i : Inst) :
    s.resolvable g i = true ↔ ∀ m ∈ g.missing i, ∀ q, g.members[m]? = some q → m ∈ i.gone ∨ s.memberLost q = true := by
  unfold State.resolvable
  rw [List.all_eq_true]
  refine forall₂_congr fun m _ => ?_
  cases g.members[m]? with
  | none => simp
  | some q => simp

/-- With fuel for every instance, what is left waits for a member. -/
theorem State.settleGroup_settles (n : Nat) (fuel : ∀ h, s.hub.groups.find key = some h → h.insts.length ≤ n) :
    ∀ h, (State.settleGroup key n s).hub.groups.find key = some h → ∀ j ∈ h.insts, (State.settleGroup key n s).resolvable h j = false := by
  induction n generalizing s with
  | zero =>
    intro h group j hj
    rw [List.length_eq_zero_iff.1 (Nat.le_zero.1 (fuel h group))] at hj
    cases hj
  | succ n ih =>
    unfold State.settleGroup
    split
    · next none => exact fun h group => absurd (none.symm.trans group) (by simp)
    · next g found =>
      split
      · next waits =>
        intro h group j hj
        cases found.symm.trans group
        exact Bool.eq_false_iff.2 (List.find?_eq_none.1 waits j hj)
      · next i ready =>
        obtain ⟨h, group, fewer⟩ := State.resolveInst_fewer i found (List.mem_of_find?_eq_some ready)
        refine ih fun h' group' => ?_
        cases group.symm.trans group'
        exact Nat.le_of_lt_succ (Nat.lt_of_lt_of_le fewer (fuel g found))

/-- Where every instance waits for a member, nothing resolves. -/
theorem State.settleGroup_rests (waits : ∀ h, s.hub.groups.find key = some h → ∀ j ∈ h.insts, s.resolvable h j = false) (n : Nat) :
    State.settleGroup key n s = s := by
  cases n with
  | zero => rfl
  | succ n =>
    unfold State.settleGroup
    split
    · rfl
    · next g found =>
      rw [List.find?_eq_none.2 fun j hj => ne_true_of_eq_false (waits g found j hj)]

theorem State.AllInsts.resolveInst {p : Inst → Prop} (all : s.AllInsts key p) {g : Group} (found : s.hub.groups.find key = some g) (i : Inst) :
    (s.resolveInst key g i).AllInsts key p := by
  obtain ⟨h, group, old⟩ := State.resolveInst_insts i found
  intro h' group' j hj
  cases group.symm.trans group'
  exact all g found j (old j hj).1

theorem State.AllInsts.settleGroup {p : Inst → Prop} (all : s.AllInsts key p) (n : Nat) : (State.settleGroup key n s).AllInsts key p := by
  induction n generalizing s with
  | zero => exact all
  | succ n ih =>
    unfold State.settleGroup
    split
    · exact all
    · next g found =>
      split
      · exact all
      · next i _ => exact ih (all.resolveInst found i)

theorem State.AllInsts.tryResolve {p : Inst → Prop} (all : s.AllInsts key p) (seq : Nat) : (s.tryResolve key seq).AllInsts key p := by
  unfold State.tryResolve
  split
  · exact all
  · next g found =>
    split
    · exact all
    · next i _ =>
      split
      · exact (all.resolveInst found i).settleGroup _
      · exact all

variable {g : Group} (found : s.hub.groups.find key = some g)
include found

/-- After a resolution and what follows it, every instance waits for a member (R298). -/
theorem State.resolveFrom_settles (i : Inst) : ∀ h, (s.resolveFrom key g i).hub.groups.find key = some h → ∀ j ∈ h.insts,
    (s.resolveFrom key g i).resolvable h j = false := by
  obtain ⟨h, group, length⟩ := State.resolveInst_length i found
  refine State.settleGroup_settles _ fun h' group' => ?_
  cases group.symm.trans group'
  exact length

/-- The resolution of a group's one instance leaves nothing to follow it. -/
theorem State.resolveFrom_only {i : Inst} (only : g.insts = [i]) : s.resolveFrom key g i = s.resolveInst key g i := by
  obtain ⟨h, group, old⟩ := State.resolveInst_insts i found
  refine State.settleGroup_rests (fun h' group' j hj => ?_) _
  cases group.symm.trans group'
  obtain ⟨listed, other⟩ := old j hj
  rw [only, List.mem_singleton] at listed
  exact absurd (congrArg Inst.seq listed) other

end

/-! ### Contributions (R298, R299) -/

section
variable {s : State} {key : Nat} {g : Group} (found : s.hub.groups.find key = some g)
include found

/-- Nothing expires where no instance has the number. -/
theorem State.expire_none {seq : Nat} (none : ∀ i ∈ g.insts, i.seq ≠ seq) : s.expire key seq = s := by
  have search : (g.insts.find? fun (i : Inst) => decide (i.seq = seq)) = Option.none :=
    List.find?_eq_none.2 fun i hi => by simpa using none i hi
  rw [State.expire, found]
  dsimp only
  rw [search]

/-- An instance resolves LATE ticks after its first stamp, and not before (R298). -/
theorem State.expire_some {seq : Nat} {i : Inst} (search : (g.insts.find? fun (i : Inst) => decide (i.seq = seq)) = some i) :
    s.expire key seq = if g.late ≠ 0 ∧ i.first + g.late ≤ s.ftb then s.resolveFrom key g i else s := by
  rw [State.expire, found]
  dsimp only
  rw [search]
  refine if_congr ?_ rfl rfl
  rw [State.overdue, Bool.and_eq_true, decide_eq_true_eq, decide_eq_true_eq]

/-- A group's one instance resolves where it waits for no member. -/
theorem State.tryResolve_only {i : Inst} (only : g.insts = [i]) : s.tryResolve key i.seq = if s.resolvable g i then s.resolveInst key g i else s := by
  have search : (g.insts.find? fun (j : Inst) => decide (j.seq = i.seq)) = some i := by simp [only]
  rw [State.tryResolve, found]
  dsimp only
  rw [search]
  dsimp only
  rw [State.resolveFrom_only found only]

end

/-- A contribution to an instance that is over gets its result, or ABSENT where its member is no longer LIVE (R298, R299). -/
theorem State.enterInst_over {s : State} {c : Contribution} {g : Group} (found : s.hub.groups.find (groupKey c.vf c.gid) = some g) {r : AgrRes}
    (ended : (g.past.find? fun (q : Nat × AgrRes) => decide (q.1 = c.seq)) = some (c.seq, r)) :
    s.enterInst c = s.tell c (if (g.members[c.member]?).map (fun q => q.live) = some true then r else r.absent) := by
  unfold State.enterInst
  dsimp only
  rw [found]
  dsimp only
  rw [ended]
  dsimp only
  congr 1
  refine if_congr ?_ rfl rfl
  cases (g.members[c.member]?).map fun q => q.live <;> simp

/-- A contribution that opens an instance. -/
def State.opening (s : State) (g : Group) (c : Contribution) : Inst :=
  ⟨c.seq, c.stamp, [c], if (g.members[c.member]?).map s.memberLost = some true then [c.member] else []⟩

/-- The first contribution of an instance opens it, and resolves it where it waits for no other member (R298). -/
theorem State.enterInst_opens {s : State} {c : Contribution} {g : Group} (found : s.hub.groups.find (groupKey c.vf c.gid) = some g) (cut : g.cut = false)
    (new : g.insts = []) (past : ∀ q ∈ g.past, q.1 ≠ c.seq) (live : (g.members[c.member]?).map (fun q => q.live) = some true) :
    s.enterInst c = (s.modGroup (groupKey c.vf c.gid) fun g' => { g' with insts := [s.opening g c] }).tryResolve (groupKey c.vf c.gid) c.seq := by
  have ended : (g.past.find? fun (q : Nat × AgrRes) => decide (q.1 = c.seq)) = none := List.find?_eq_none.2 fun q hq => by simpa using past q hq
  have lost : ((g.members[c.member]?.map s.memberLost).getD false = true) = ((g.members[c.member]?).map s.memberLost = some true) := by
    cases (g.members[c.member]?).map s.memberLost <;> simp
  unfold State.enterInst
  dsimp only
  rw [found]
  dsimp only
  rw [ended]
  dsimp only
  rw [live, cut, if_neg (by simp), State.modGroup_eq found, State.modGroup_eq found, new]
  simp only [List.find?_nil, Option.getD_none, List.filter_nil, List.nil_append, Nat.min_self, lost, State.opening]

section
variable (s : State) {c : Contribution} {g : Group} (found : s.hub.groups.find (groupKey c.vf c.gid) = some g)

/-- The one contribution on its way has opened its instance. -/
def State.joined (s : State) (g : Group) (c : Contribution) : State :=
  ({ s with contribs := [] } : State).modGroup (groupKey c.vf c.gid) fun g' => { g' with insts := [s.opening g c] }

variable {s}
include found

/-- The one contribution on its way opens its instance, which resolves where it waits for no other member (R298). -/
theorem exec_contributionArrival_opens (only : s.contribs = [c]) (cut : g.cut = false) (new : g.insts = []) (past : ∀ q ∈ g.past, q.1 ≠ c.seq)
    (live : (g.members[c.member]?).map (fun q => q.live) = some true) : exec (.agreeContributionArrival 0 none) s =
      .next (if (s.joined g c).resolvable { g with insts := [s.opening g c] } (s.opening g c) then
        (s.joined g c).resolveInst (groupKey c.vf c.gid) { g with insts := [s.opening g c] } (s.opening g c) else s.joined g c) := by
  have arrives : exec (.agreeContributionArrival 0 none) s = .next (({ s with contribs := [] } : State).contribute c) := by
    show execAgreeContributionArrival 0 none s = _
    rw [execAgreeContributionArrival, only]
    rfl
  have opens : ({ s with contribs := [] } : State).contribute c = (s.joined g c).tryResolve (groupKey c.vf c.gid) (s.opening g c).seq := by
    rw [State.contribute, State.expire_none (s := { s with contribs := [] }) found (by simp [new]),
      State.enterInst_opens (s := { s with contribs := [] }) found cut new past live]
    rfl
  have group : (s.joined g c).hub.groups.find (groupKey c.vf c.gid) = some { g with insts := [s.opening g c] } :=
    State.find_modGroup (s := { s with contribs := [] }) found _
  rw [arrives, opens, State.tryResolve_only group rfl]

/-- A new instance waits for no member where every missing one is behind a lost path: the sender among them, if its path is lost too (R300). -/
theorem State.joined_resolvable : (s.joined g c).resolvable { g with insts := [s.opening g c] } (s.opening g c) = true ↔
    ∀ m ∈ g.missing (s.opening g c), ∀ q, g.members[m]? = some q → s.memberLost q = true := by
  have lost : (s.joined g c).memberLost = s.memberLost := by
    rw [State.joined, State.modGroup_eq (s := { s with contribs := [] }) found]
    rfl
  rw [State.resolvable_iff, lost]
  refine forall₄_congr fun m _ q at_ => or_iff_right_of_imp fun gone => ?_
  have gone : m ∈ if (g.members[c.member]?).map s.memberLost = some true then [c.member] else [] := gone
  split at gone
  · next sender =>
    rw [← List.mem_singleton.1 gone, show g.members[m]? = some q from at_] at sender
    exact Option.some.inj sender
  · cases gone

end

/-! ### Lost paths (R285, R300) -/

section
variable {s : State} {key : Nat} {g : Group} (found : s.hub.groups.find key = some g) (p : Nat)
include found

/-- A side that has lost its root, or held it, and may not elect one is cut off (R285). -/
theorem State.groupLoss_cut (votes : p = s.hub.pkg ∨ s.hub.lost.contains p = true) (few : s.mayElect g = false) :
    s.groupLoss (some p) key = s.cutGroup key g := by
  have asks : (decide (p = s.hub.pkg) || s.hub.lost.contains p) = true := by simpa using votes
  rw [State.groupLoss, found]
  dsimp only
  rw [asks, few]
  rfl

/-- A side that still reaches a root elsewhere goes on with it; with no instance open nothing resolves (R285). -/
theorem State.groupLoss_rests (elsewhere : p ≠ s.hub.pkg) (reached : s.hub.lost.contains p = false) (none : g.insts = []) :
    s.groupLoss (some p) key = s.modGroup key fun g => { g with insts := [] } := by
  have asks : (decide (p = s.hub.pkg) || s.hub.lost.contains p) = false := Bool.or_eq_false_iff.2 ⟨decide_eq_false elsewhere, reached⟩
  rw [State.groupLoss, found]
  dsimp only
  rw [asks, none, State.modGroup_eq found, State.modGroup_eq found, none]
  rfl

/-- Under a new root the members of lost packages are absent from every instance (R285). -/
theorem State.groupLoss_moved (lost : s.hub.lost.contains p = true) (most : s.mayElect g = true) :
    (s.groupLoss (some p) key).AllInsts key fun j => ∀ m q, g.members[m]? = some q → s.hub.lost.contains q.pkg = true → m ∈ j.gone := by
  rw [State.groupLoss, found]
  dsimp only
  rw [most, Bool.not_true, Bool.and_false, if_neg Bool.false_ne_true, lost, if_pos rfl]
  refine List.foldlRecOn g.insts _ (motive := fun t : State => t.AllInsts key _) ?_ fun t all i _ => all.tryResolve i.seq
  intro h group j hj m q at_ gone
  rw [State.find_modGroup found] at group
  cases group
  obtain ⟨i, -, rfl⟩ := List.mem_map.1 hj
  have lt : m < g.members.length := (List.getElem?_eq_some_iff.1 at_).1
  refine List.mem_eraseDups.2 (List.mem_append_right _ (List.mem_append_right _ (List.mem_filter.2 ⟨List.mem_range.2 lt, ?_⟩)))
  rw [at_]
  exact gone

end

end Sys2Proof.Machine
end

section
open Sys2Proof Sys2Proof.Machine

/-- Settles O51: a resolution by the group that it leaves and the messages that it sends, what leads to one by what a contribution finds, and the combined
value by the first element of the least key. -/
theorem agreementResolves : Obligations.AgreementResolves := by
  refine ⟨fun s key g i found => ?_, fun s c g only found cut new past live => ?_, fun s c g r found past none => ?_,
    fun s vf gid seq g i found search => ⟨fun late due => ?_, fun late due c hk hs => ?_, fun early => ?_⟩,
    fun s key g i found => ⟨State.resolveFrom_settles found i, fun h group waits => ?_, s.resolvable_iff g i⟩,
    fun g i m gone live => ⟨g.missing_of_gone i gone live, fun c hc => i.byMember_gone gone _ hc⟩, fun s key p g found => ⟨fun votes few => ?_, fun elsewhere reached none => ?_, ?_⟩,
    fun op k p q h => combine_perm op k h, fun k p => ⟨rfl, rfl, rfl, rfl, fun c hc => ⟨combine_least_le k hc, combine_greatest_ge k hc⟩,
      fun some_ => ⟨combine_least_mem k some_, combine_greatest_mem k some_⟩, fun op h => combine_dec h k p, fun c => ?_⟩, fun p c hc => tagCount_le_refTag hc, refTag_pair⟩
  -- a resolution
  · intro p gone mis t
    obtain ⟨h, later, group, msgs, form⟩ := State.resolveInst_group i found
    have told : (fun c : Contribution => messageOf c (g.answer i c)) = fun c => c.ctx.map fun x => (⟨x,
        ((BitVec.ofNat 32 c.seq ++ c.tag : BitVec 48) ++ BitVec.ofNat 16 c.gid : BitVec 64), c.seq,
        if g.excl = true ∧ gone.contains c.member = true then (g.result i).absent else g.result i⟩ : AgrMsg) := by
      funext c
      rw [Group.answer_eq]
      rfl
    have gen : h.gen = g.nextGen i := by rcases form with ⟨rfl, -⟩ | rfl <;> rfl
    have members : h.members = g.kept i g.members := by rcases form with ⟨rfl, -⟩ | rfl <;> rfl
    obtain ⟨h', group', old⟩ := State.resolveInst_insts i found
    cases group.symm.trans group'
    refine ⟨g.result i, h, later, group, by rw [msgs, told], ?_, ?_, (g.result_status i).trans (g.statusOf_eq i), g.result_ok i, g.result_bad i,
      resultWord_present _ (g.statusOf_lt i) .., ?_, rfl, rfl, ?_, fun j hj => (old j hj).2, fun all => ?_, fun excl missing => ?_⟩
    · rcases form with ⟨-, none⟩ | rfl
      · exact fun _ => none
      · exact fun off => absurd off (by simp)
    · rcases form with ⟨rfl, -⟩ | rfl
      · exact .inl
      · exact fun _ => .inr rfl
    · rw [gen]
      exact resultWord_gen _ (g.statusOf_lt i) ..
    · rcases form with ⟨rfl, -⟩ | rfl <;> rfl
    · have keeps := g.drops_false i all
      rw [gen, members, Group.kept_all g i keeps, Group.nextGen, keeps]
      exact ⟨rfl, rfl⟩
    · have drops := g.drops_true i excl missing
      refine ⟨?_, fun m q at_ => ?_⟩
      · rw [gen, Group.nextGen, if_pos drops]
      · rw [members]
        exact g.kept_getElem? i drops at_
  -- a contribution that opens an instance
  · have opens := exec_contributionArrival_opens found only cut new past live
    refine ⟨fun all => ?_, fun ⟨m, missing, q, at_, here⟩ => ?_⟩
    · exact opens.trans (congrArg _ (if_pos ((State.joined_resolvable found).2 all)))
    · refine opens.trans (congrArg _ (if_neg fun ready => ?_))
      exact ne_true_of_eq_false here ((State.joined_resolvable found).1 ready m missing q at_)
  -- a contribution to an instance that is over
  · have ended : (g.past.find? fun (q : Nat × AgrRes) => decide (q.1 = c.seq)) = some (c.seq, r) := by simp [past]
    have answer : s.contribute c = s.tell c (if (g.members[c.member]?).map (fun q => q.live) = some true then r else r.absent) := by
      rw [State.contribute, State.expire_none found none, State.enterInst_over found ended]
    refine ⟨?_, fun live => ?_, fun removed => ⟨?_, r.absent_status⟩⟩
    · show Host.Outcome.next (s.contribute { c with ctx := Option.none }) = _
      rw [State.contribute, State.expire_none (key := groupKey c.vf c.gid) found none, State.enterInst_over (c := { c with ctx := Option.none }) found ended]
      rfl
    · rw [answer, if_pos live]
    · rw [answer, if_neg removed]
  -- lateness
  · exact congrArg _ ((State.expire_some found search).trans (if_pos ⟨late, due⟩))
  · rw [State.contribute, hk, hs, State.expire_some found search, if_pos ⟨late, due⟩]
  · exact congrArg _ ((State.expire_some found search).trans (if_neg (by omega)))
  -- what waits for no member
  · refine State.settleGroup_rests (fun h' group' => ?_) _
    cases group.symm.trans group'
    exact waits
  -- lost paths
  · obtain ⟨cut, -⟩ := State.cutGroup_group found g
    exact ⟨State.groupLoss_cut found p votes few, _, cut, rfl, rfl, rfl, rfl⟩
  · rw [State.groupLoss_rests found p elsewhere reached none]
    exact ⟨_, State.find_modGroup found _, rfl⟩
  · exact State.groupLoss_moved found p
  -- the sum
  · rw [combine_sum 0, combine_sum 0]
    exact (List.foldl_append ..).trans rfl
end

section
/-! SUPPORT. Results at their contexts: the predictions that they release or drop (R207, R286, R291, R293, R296, R297). -/

namespace Sys2Proof.Machine

/-! ### Resolving the oldest prediction -/

section
variable {s : State} {c : Nat}

/-- The oldest prediction, once its result is there, is released where STATUS and DEC bear it out, and dropped where they do not (R296). -/
theorem State.settlePreds_resolved {p : Pred} {ps : List Pred} (oldest : (s.ctx c).preds = p :: ps) {q : AgrSlot} (known : (s.ctx c).agrSlot p.ticket = some q)
    {r : AgrRes} (resolved : q.res = some r) (n : Nat) : s.settlePreds c (n + 1) =
      if (r.status = 0 ∨ r.status = 3) ∧ r.dec = p.dir then (s.release c).settlePreds c n else s.drop c p (r.decide p.target p.xm) := by
  obtain ⟨ticket, seq, res⟩ := q
  cases resolved
  rw [State.settlePreds, oldest]
  dsimp only
  rw [known]

/-- The one message on its way reaches its context (R286). -/
theorem execAgreeResultArrival_only {m : AgrMsg} (only : s.msgs = [m]) (running : m.ctx < 4096) : exec (.agreeResultArrival 0) s =
    .next ((({ s with msgs := [] } : State).modCtx m.ctx fun x => x.putResult m).settlePreds m.ctx 2) := by
  show execAgreeResultArrival 0 s = _
  rw [execAgreeResultArrival, only]
  exact congrArg _ (if_neg (Nat.not_le.2 running))

end

/-- A context's one slot, with the ticket of a result, takes it (R286). -/
theorem Ctx.putResult_agrSlot {x : Ctx} {m : AgrMsg} {t : AgrSlot} (slot : x.r.slots = [t]) (ticket : t.ticket = m.ticket) (seq : t.seq = m.seq) :
    (x.putResult m).agrSlot m.ticket = some { t with res := some m.res } := by
  have taken : (x.putResult m).r.slots = [{ t with res := some m.res }] := by
    show x.r.slots.map _ = _
    rw [slot, List.map_cons, if_pos ⟨ticket, seq⟩, List.map_nil]
  rw [Ctx.agrSlot, taken]
  exact List.find?_cons_of_pos (decide_eq_true ticket)

/-! ### Release (R207, R296) -/

/-- What hangs on younger predictions hangs on one less, and what a dropped arm left stays its own (R297). -/
def armReleased (n : Nat) : Nat := if armDropped ≤ n then n else n - 1

/-- A context whose oldest prediction is upheld, before what it held back moves. -/
def Ctx.released (x : Ctx) : Ctx :=
  { x with preds := x.preds.drop 1
           basket := (x.basket.filter fun (h : Nat × Held) => !decide (h.1 ≤ 1)).map fun (h : Nat × Held) => (h.1 - 1, h.2)
           rout := x.rout.map fun (r : REntry) => { r with arm := armReleased r.arm }
           killReport := x.killReport.map fun (k : Nat × Nat × Bool) => (k.1, k.2.1 - 1, k.2.2) }

/-- What the oldest prediction held back moves on, in order. -/
def State.moveHeld (s : State) (c : Nat) : State :=
  ((s.ctx c).basket.filter fun (h : Nat × Held) => decide (h.1 ≤ 1)).foldl (fun (s : State) (h : Nat × Held) => s.releaseHeld c h.2) (s.modCtx c Ctx.released)

section
variable {s : State} {c : Nat}

/-- With no report of a failed access on its way, a Release kills nothing. -/
theorem State.release_eq (none : ((s.moveHeld c).ctx c).killReport = none) : s.release c = s.moveHeld c := by
  show (match ((s.moveHeld c).ctx c).killReport with
    | some (a, 0, true) => (s.moveHeld c).kill c cXLAT (BitVec.ofNat 64 a) true
    | _ => s.moveHeld c) = _
  rw [none]

/-- A Release with nothing held back (R296). -/
theorem State.release_empty (empty : (s.ctx c).basket = []) (none : (s.ctx c).killReport = none) : s.release c = s.modCtx c Ctx.released := by
  have moved : s.moveHeld c = s.modCtx c Ctx.released := by
    rw [State.moveHeld, empty]
    rfl
  refine (State.release_eq ?_).trans moved
  rw [moved, State.ctx_modCtx_self, Ctx.released, none]
  rfl

/-- Entries of the local queue that wait for no remote operation move as they are. -/
theorem releaseHeld_local {ls : List LEntry} (free : ∀ e ∈ ls, e.alone = 0) : s.releaseHeld c (.mem ls []) = s.modCtx c fun x => { x with lsq := x.lsq ++ ls } := by
  have same (n : Nat) : (ls.map fun (e : LEntry) => if e.alone = 0 then e else { e with alone := n }) = ls :=
    (List.map_congr_left fun e he => if_pos (free e he)).trans (List.map_id' ls)
  simp only [State.releaseHeld, same]
  rfl

/-- A Release of the local entries of one slot (R207, R296). -/
theorem State.release_local {ls : List LEntry} (held : (s.ctx c).basket = [(1, .mem ls [])]) (none : (s.ctx c).killReport = none) (free : ∀ e ∈ ls, e.alone = 0) :
    s.release c = s.modCtx c fun x => { x.released with lsq := x.lsq ++ ls } := by
  have moved : s.moveHeld c = s.modCtx c fun x => { x.released with lsq := x.lsq ++ ls } := by
    rw [State.moveHeld, held]
    exact (releaseHeld_local free).trans (State.modCtx_modCtx ..)
  refine (State.release_eq ?_).trans moved
  rw [moved, State.ctx_modCtx_self]
  dsimp only
  rw [Ctx.released, none]
  rfl

end

/-! ### Drop (R293, R296, R297) -/

/-- The next program counter changes of the registers the loop count alone (R77). -/
theorem Ctx.next_form (x : Ctx) (b after : Nat) (taken : Option Nat) :
    ∃ pc n, x.next b after taken = { x with pc := pc, pending := taken, r := { x.r with loopCnt := n } } := by
  unfold Ctx.next
  dsimp only
  split
  · split <;> exact ⟨_, _, rfl⟩
  · exact ⟨_, x.r.loopCnt, rfl⟩

/-- A context that is back at the bundle of an ABRP: nothing of the arm stays (R293, R297). -/
def Ctx.undone (x : Ctx) (p : Pred) : Ctx :=
  { x with r := { p.regs with slots := x.r.slots }, pending := p.pending, preds := [], basket := [],
           inflight := (x.inflight.filter fun (t : Res) => decide (t.seq < p.seq)).map fun t => if p.seq ≤ t.sup then { t with sup := 0 } else t,
           rout := x.rout.map fun (r : REntry) => if r.arm = 0 then r else { r with arm := armDropped },
           killReport := match x.killReport with
             | some (a, 0, h) => some (a, 0, h)
             | _ => none,
           held := .none, wait := none, wfe := none, fence := none, resumed := false, loopOld := none }

/-- The branch that the bundle of an ABRP takes by the actual result: the ABRP's own, else the one beside it (R78, R291). -/
def Decision.taken (d : Decision) (other : Option Nat) : Option Nat :=
  match d with
  | .branch (some t) => some t
  | .branch none => other
  | .trap _ => none

/-- The trap that the actual result asks for (R291). -/
def Decision.asked (d : Decision) (ticket : W64) (old : Option (Nat × W64)) : Option (Nat × W64) :=
  match d with
  | .trap cause => some (cause, ticket)
  | .branch _ => old

/-- A context whose prediction is dropped, with the actual decision. -/
def Ctx.dropped (x : Ctx) (p : Pred) (d : Decision) : Ctx :=
  { (x.undone p).next p.bundle p.after (d.taken p.other) with agrTrap := d.asked p.ticket x.agrTrap }

/-- A context with its next program counter, loop count and target, and the trap that it is to take. -/
def Ctx.goesOn (x : Ctx) (pc : Nat) (n : W64) (pending : Option Nat) (asked : Option (Nat × W64)) : Ctx :=
  { x with pc := pc, pending := pending, r := { x.r with loopCnt := n }, agrTrap := asked }

theorem State.drop_eq (s : State) (c : Nat) (p : Pred) (d : Decision) : s.drop c p d = s.setCtx c ((s.ctx c).dropped p d) := by
  obtain ⟨pc, n, form⟩ := ((s.ctx c).undone p).next_form p.bundle p.after (d.taken p.other)
  rw [Ctx.dropped, form]
  cases d with
  | trap cause => exact congrArg (fun x : Ctx => s.setCtx c { x with pending := none, agrTrap := some (cause, p.ticket) }) form
  | branch t => cases t <;> exact congrArg (s.setCtx c) form

theorem State.drop_ctx (s : State) (c : Nat) (p : Pred) (d : Decision) : (s.drop c p d).ctx c = (s.ctx c).dropped p d := by
  rw [State.drop_eq, State.ctx_setCtx, if_pos rfl]

section
variable (x : Ctx) (p : Pred) (d : Decision)

/-- Of what a Drop puts back, the next program counter changes the loop count alone. -/
theorem Ctx.dropped_form : ∃ pc n, x.dropped p d = (x.undone p).goesOn pc n (d.taken p.other) (d.asked p.ticket x.agrTrap) := by
  obtain ⟨pc, n, form⟩ := (x.undone p).next_form p.bundle p.after (d.taken p.other)
  exact ⟨pc, n, by rw [Ctx.dropped, form]; rfl⟩

/-- Results of the arm do not land (R293). -/
theorem Ctx.undone_inflight {t : Res} (ht : t ∈ (x.undone p).inflight) : t.seq < p.seq := by
  obtain ⟨u, hu, rfl⟩ := List.mem_map.1 ht
  have before : u.seq < p.seq := of_decide_eq_true (List.mem_filter.1 hu).2
  split
  · exact before
  · exact before

/-- Outside a loop, and with nothing pending, the bundle behind the ABRP's comes next, and then the target (R76, R77). -/
theorem Ctx.dropped_pc (plain : p.regs.loopCnt = 0) (none : p.pending = none) : (x.dropped p d).pc = p.after := by
  have next := (x.undone p).next_plain (b := p.bundle) (a := p.after) (taken := d.taken p.other) fun due => due.1 plain
  exact next.1.trans (congrArg (·.getD p.after) none)

end

/-! ### Lost paths (R300) -/

/-- What the agreement fabric does to the state: it tells contexts their results, changes groups and writes their descriptors. -/
inductive FabricRun (s : State) : State → Prop
  | start : FabricRun s s
  | tell {t : State} (h : FabricRun s t) (c : Contribution) (r : AgrRes) : FabricRun s (t.tell c r)
  | group {t : State} (h : FabricRun s t) (key : Nat) (f : Group → Group) : FabricRun s (t.modGroup key f)
  | write {t : State} (h : FabricRun s t) (l n v : Nat) : FabricRun s (t.wr l n v)

theorem FabricRun.trans {s t u : State} (h : FabricRun s t) (k : FabricRun t u) : FabricRun s u := by
  induction k with
  | start => exact h
  | tell _ c r ih => exact ih.tell c r
  | group _ key f ih => exact ih.group key f
  | write _ l n v ih => exact ih.write l n v

theorem FabricRun.foldl {β : Type} {f : State → β → State} (h : ∀ s b, FabricRun s (f s b)) (l : List β) (s : State) : FabricRun s (l.foldl f s) :=
  List.foldlRecOn l f .start fun t ht b _ => ht.trans (h t b)

theorem FabricRun.ite {s t u : State} (p : Prop) [Decidable p] (h : FabricRun s t) (k : FabricRun s u) : FabricRun s (if p then t else u) := by
  split
  · exact h
  · exact k

/-- The fabric leaves the clock and the lost paths alone. -/
theorem FabricRun.keeps {s t : State} (h : FabricRun s t) : t.now = s.now ∧ t.hub.lost = s.hub.lost := by
  induction h with
  | start => exact ⟨rfl, rfl⟩
  | @tell t _ c r ih =>
    unfold State.tell
    split <;> exact ih
  | @group t _ key f ih =>
    unfold State.modGroup
    split <;> exact ih
  | write _ l n v ih => exact ih

section
variable (s : State) (key : Nat)

theorem State.cutGroup_run (g : Group) : FabricRun s (s.cutGroup key g) :=
  (FabricRun.start.group ..).trans (.foldl (fun t (i : Inst) => .foldl (fun _ c => .tell .start c _) i.got t) ..)

theorem State.recorded_run (g : Group) (i : Inst) : FabricRun s (s.recorded key g i) :=
  .ite _ (((FabricRun.start.group ..).write ..).trans (.foldl (fun _ _ => FabricRun.start.write ..) ..)) (FabricRun.start.group ..)

theorem State.resolveInst_run (g : Group) (i : Inst) : FabricRun s (s.resolveInst key g i) := by
  have told : FabricRun s (s.announced key g i) := (s.recorded_run key g i).trans (.foldl (fun _ c => .tell .start c _) ..)
  rw [State.resolveInst_eq]
  split
  · exact .ite _ (told.trans (State.cutGroup_run ..)) told
  · exact told

theorem State.settleGroup_run (n : Nat) : FabricRun s (State.settleGroup key n s) := by
  induction n generalizing s with
  | zero => exact .start
  | succ n ih =>
    unfold State.settleGroup
    split
    · exact .start
    · split
      · exact .start
      · exact (s.resolveInst_run ..).trans (ih _)

theorem State.tryResolve_run (seq : Nat) : FabricRun s (s.tryResolve key seq) := by
  unfold State.tryResolve
  split
  · exact .start
  · split
    · exact .start
    · exact .ite _ ((s.resolveInst_run ..).trans (State.settleGroup_run ..)) .start

theorem State.groupLoss_run (root : Option Nat) : FabricRun s (s.groupLoss root key) := by
  unfold State.groupLoss
  split
  · exact .start
  · exact .ite _ (s.cutGroup_run ..) ((FabricRun.start.group ..).trans (.foldl (fun t (i : Inst) => t.tryResolve_run key i.seq) ..))

theorem State.groupsLoss_run (before : State) : FabricRun s (s.groupsLoss before) := .foldl (fun t key => t.groupLoss_run key _) _ s

end

section
variable (s : State)

/-- The remote operations of a context end in that context alone. -/
theorem State.loseRemote_keeps (c : Nat) : (s.loseRemote c).hub = s.hub ∧ (s.loseRemote c).cores = s.cores ∧ (s.loseRemote c).clusters = s.clusters ∧
    (s.loseRemote c).now = s.now := by
  unfold State.loseRemote
  refine List.foldlRecOn (s.ctx c).rout _ (motive := fun t : State => t.hub = s.hub ∧ t.cores = s.cores ∧ t.clusters = s.clusters ∧ t.now = s.now)
    ⟨rfl, rfl, rfl, rfl⟩ fun t ht r _ => ?_
  split <;> exact ht

/-- The path to a package is marked as lost, and the remote operations that depend on it have ended (R300). -/
def State.unlinked (pkg : Nat) : State :=
  let s1 := s.modHub fun h => { h with lost := if h.lost.contains pkg then h.lost else h.lost ++ [pkg] }
  s1.ctxs.keys.foldl State.loseRemote s1

theorem State.unlinked_keeps (pkg : Nat) : (s.unlinked pkg).hub.lost.contains pkg = true ∧ (s.unlinked pkg).cores = s.cores ∧
    (s.unlinked pkg).clusters = s.clusters ∧ (s.unlinked pkg).now = s.now := by
  unfold State.unlinked
  extract_lets s1
  have marked : s1.hub.lost.contains pkg = true := by
    show (if s.hub.lost.contains pkg then s.hub.lost else s.hub.lost ++ [pkg]).contains pkg = true
    split
    · assumption
    · exact List.contains_iff_mem.2 (List.mem_append_right _ List.mem_cons_self)
  refine List.foldlRecOn s1.ctxs.keys _ (motive := fun t : State => t.hub.lost.contains pkg = true ∧ t.cores = s.cores ∧ t.clusters = s.clusters ∧ t.now = s.now)
    ⟨marked, rfl, rfl, rfl⟩ fun t ⟨lost, cores, clusters, now⟩ c _ => ?_
  obtain ⟨hub, cores', clusters', now'⟩ := t.loseRemote_keeps c
  exact ⟨by rw [hub]; exact lost, cores'.trans cores, clusters'.trans clusters, now'.trans now⟩

theorem exec_linkLoss {pkg : Nat} (other : pkg ≠ s.hub.pkg) : exec (.linkLoss pkg) s = .next ((s.unlinked pkg).groupsLoss s) := congrArg _ (if_neg other)

variable {s} {c : Nat} {r : REntry} (only : (s.ctx c).rout = [r])
include only

theorem State.loseRemote_only : s.loseRemote c =
    if r.phase = 0 ∧ s.pathLost (coreOf c) r.op.va = true then s.remoteDone c r.id (deadValue r.op) else s := by
  rw [State.loseRemote, only]
  rfl

theorem State.remoteDone_only (v : Wide × W64) : ((s.remoteDone c r.id v).ctx c).rout = [{ r with phase := 2, val := v.1, psn := v.2 }] := by
  rw [State.remoteDone, State.modRout, State.ctx_modCtx_self]
  dsimp only
  rw [only, List.map_cons, if_pos rfl, List.map_nil]

end

end Sys2Proof.Machine
end

section
open Sys2Proof Sys2Proof.Machine

/-- Settles O52: a result meets the oldest prediction, and Release, Drop and the loss of a path by what each leaves. -/
theorem agreementReturns : Obligations.AgreementReturns := by
  refine ⟨fun s m only running => ?_, fun x m => rfl,
    fun r t xm => ⟨r.decide_ok t xm, r.decide_mismatch_traps t xm, fun u mismatch mm named => r.decide_mismatch_target t xm mismatch mm named,
      fun absent => r.decide_absent t xm (.inl absent)⟩, fun s c p ls => ?_, fun s c p d => ?_, fun s => congrArg _ (if_pos rfl), fun s pkg other => ?_,
    fun s c r only fresh => ⟨fun up => ?_, fun lost => ?_⟩, fun va v b bs => ⟨rfl, rfl, rfl, ?_⟩⟩
  -- a result
  · intro s1
    have arrives : exec (.agreeResultArrival 0) s = .next (s1.settlePreds m.ctx 2) := execAgreeResultArrival_only only running
    have ctx : s1.ctx m.ctx = (s.ctx m.ctx).putResult m := State.ctx_modCtx_self ..
    refine ⟨fun none => ?_, fun p t preds slots ticket seq predicted empty report => ?_⟩
    · rw [arrives, State.settlePreds_nil]
      rw [ctx, Ctx.putResult, none]
      rfl
    · have oldest : (s1.ctx m.ctx).preds = [{ p with regs := p.regs.putResult m }] := by
        rw [ctx, Ctx.putResult, preds]
        rfl
      have known : (s1.ctx m.ctx).agrSlot p.ticket = some { t with res := some m.res } := by
        rw [ctx, predicted]
        exact Ctx.putResult_agrSlot slots ticket seq
      have meets := State.settlePreds_resolved oldest known rfl 1
      refine ⟨fun ok upheld => ?_, fun refuted => ?_⟩
      · have released : s1.release m.ctx = s1.modCtx m.ctx Ctx.released := State.release_empty (by rw [ctx]; exact empty) (by rw [ctx]; exact report)
        have settled : (s1.release m.ctx).settlePreds m.ctx 1 = s1.release m.ctx := by
          refine State.settlePreds_nil ?_ 1
          rw [released, State.ctx_modCtx_self, Ctx.released, oldest]
          rfl
        rw [arrives, meets, if_pos ⟨ok, upheld⟩, settled]
      · have fails : ¬((m.res.status = 0 ∨ m.res.status = 3) ∧ m.res.dec = p.dir) := fun ⟨ok, upheld⟩ =>
          refuted.elim (fun bad => ok.elim bad.1 bad.2) fun differs => differs upheld
        rw [arrives, meets, if_neg fails]
  -- Release
  · intro x preds held report rout free y
    have released : s.release c = s.modCtx c fun x => { x.released with lsq := x.lsq ++ ls } := State.release_local held report free
    have ctx : y = { x.released with lsq := x.lsq ++ ls } := by
      unfold y
      rw [released, State.ctx_modCtx_self]
    rw [ctx, released]
    refine ⟨rfl, ?_, ?_, rfl, rfl, rfl, rfl, rfl⟩
    · show x.preds.drop 1 = []
      rw [preds]
      rfl
    · show (x.basket.filter _).map _ = []
      rw [held]
      rfl
  -- Drop
  · intro x y
    have ctx : y = x.dropped p d := s.drop_ctx c p d
    have state : s.drop c p d = s.setCtx c (x.dropped p d) := s.drop_eq c p d
    have next := fun plain none => x.dropped_pc p d plain none
    obtain ⟨pc, n, form⟩ := x.dropped_form p d
    rw [form] at ctx next
    rw [state, ctx]
    refine ⟨rfl, rfl, rfl, rfl, rfl, rfl, rfl, rfl, rfl, rfl, fun t ht => x.undone_inflight p ht, rfl, rfl, rfl, ?_, fun plain none => ⟨next plain none, ?_, ?_⟩⟩
    · rintro cause rfl
      rfl
    · rintro t rfl
      rfl
    · rintro rfl
      rfl
  -- the loss of a path
  · obtain ⟨lost, cores, clusters, now⟩ := s.unlinked_keeps pkg
    have quiet := (s.unlinked pkg).groupsLoss_quiet s
    obtain ⟨now', lost'⟩ := ((s.unlinked pkg).groupsLoss_run s).keeps
    exact ⟨_, exec_linkLoss s other, by rw [lost']; exact lost, quiet.cores.trans cores, quiet.clusters.trans clusters, now'.trans now⟩
  -- the remote operations of a context
  · rw [State.loseRemote_only only, if_neg (by simp [up])]
  · rw [State.loseRemote_only only, if_pos ⟨fresh, lost⟩]
    exact ⟨rfl, rfl, State.remoteDone_only only _⟩
  · show (Env.elemPsn.maskOfLanes (fun _ => true) 0 2).getLsbD 0 = true
    decide
end

section
/-! SUPPORT. A stop from the bundle boundary to the frozen context, and the trap entry on its way to the queues (R311 to R313, R318, R343). -/

namespace Sys2Proof.Machine

/-! ### Taking a trap -/

/-- A context that stops at its bundle boundary (R311, R313). -/
def Ctx.stoppedBy (x : Ctx) (cause now : Nat) : Ctx :=
  { x with phase := .stopping, held := .none, wait := none, wfe := none, fence := none, resumed := x.resumed || x.wfe.isSome
           stop := some ⟨cause, 0, max now x.nextIssue, false⟩, wsk := decide (cause = cWATCH) }

/-- A trap writes the TRAP_ registers of the context that it stops (R311). -/
theorem takeTrap_ctx {cause : Nat} (other : cause ≠ cPREEMPT) (c : Nat) (a : W64) (pc : Nat) (s : State) : (takeTrap c cause a pc s).ctx c =
    ({ s.ctx c with trapCause := BitVec.ofNat 64 cause, trapPc := BitVec.ofNat 64 pc, trapAddr := a } : Ctx).stoppedBy cause s.now := by
  rw [takeTrap, State.ctx_modCtx_self, if_neg other]
  rfl

/-- A pre-emption writes none of them (R311). -/
theorem takeTrap_preempt (c : Nat) (a : W64) (pc : Nat) (s : State) : (takeTrap c cPREEMPT a pc s).ctx c = (s.ctx c).stoppedBy cPREEMPT s.now := by
  rw [takeTrap, State.ctx_modCtx_self, if_pos rfl]
  rfl

/-! ### Freezing -/

/-- With nothing in flight no result lands, and every context stays as it was. -/
theorem State.landCtx_nothing {s : State} {c : Nat} (nothing : (s.ctx c).inflight = []) :
    (s.landCtx c).ctx c = s.ctx c ∧ (s.landCtx c).mem = s.mem ∧ (s.landCtx c).hub = s.hub := by
  unfold State.landCtx
  dsimp only
  split
  · exact ⟨rfl, rfl, rfl⟩
  · rw [nothing]
    refine ⟨?_, rfl, rfl⟩
    rw [State.ctx_modCtx_self, Ctx.landDue]
    show landDueL _ (s.ctx c).inflight.length (s.ctx c) = s.ctx c
    rw [nothing]
    rfl

/-- The context that a stop leaves frozen. -/
def Ctx.frozenBy (x : Ctx) (st : Stop) : Ctx :=
  { x with phase := .frozen, replay := true
           inflight := if x.replay then x.inflight else x.inflight.map fun (t : Res) => if t.fixed then { t with due := t.due - st.f } else t
           stop := some { st with sent := decide (st.cause ≠ cPREEMPT) } }

section
variable {s : State} {c : Nat} {st : Stop} (stop : (s.ctx c).stop = some st)
include stop

/-- A stopped context does not freeze before the cycle F (R313). -/
theorem execStopFreeze_early (early : s.now < st.f) : execStopFreeze c s = .next s := by
  have waits : (s.ctx c).mayFreeze s.now = false := by simp [Ctx.mayFreeze, stop, Nat.not_le.2 early]
  simp only [execStopFreeze, stop, waits, Bool.false_and, Bool.not_false, if_true]

/-- From F on a context without a result in flight freezes, and its trap entry goes out unless it was pre-empted (R313, R318). -/
theorem execStopFreeze_freezes (stopping : (s.ctx c).phase = .stopping) (nothing : (s.ctx c).inflight = []) (untraced : s.hub.dbgCtl.getLsbD 62 = false)
    (due : st.f ≤ s.now) (stands : s.gangStands c st.cause = true) :
    let t := (s.landCtx c).modCtx c fun x => x.frozenBy st
    execStopFreeze c s = .next (if st.cause = cPREEMPT then t else t.sendTrap c st.cause false) := by
  intro t
  have may : (s.ctx c).mayFreeze s.now = true := by simp [Ctx.mayFreeze, stopping, stop, due, nothing]
  have quiet : (if st.cause = cPREEMPT then t else t.sendTrap c st.cause false).hub.dbgCtl.getLsbD 62 = false := by
    rw [← untraced, ← (State.landCtx_nothing nothing).2.2]
    split <;> rfl
  simp only [execStopFreeze, stop, may, stands, Bool.and_self, Bool.not_true, Bool.false_eq_true, if_false]
  exact congrArg _ (if_neg (by rw [← Bool.not_eq_true] at quiet; exact quiet))

end

/-! ### Trap entries -/

/-- An entry enters the queue of its function's own handler, whose interrupt is raised (R343). -/
def State.toOwn (s : State) (e : TrapEntry) (v : VfSt) : State :=
  (s.wrDwords (hsLoc (v.d[10].toNat + 64 * (v.tqProd % (v.d[11].toNat % 2 ^ 16)))) (e.dwords s.hub.pkg)).modHub fun h =>
    { h with vfs := h.vfs.set e.vf { v with tqProd := v.tqProd + 1 }
             vsIrq := if h.vsIrq.contains e.vf then h.vsIrq else h.vsIrq ++ [e.vf] }

@[simp] theorem State.wrDwords_hub (s : State) (l : Nat) (ws : List Nat) : (s.wrDwords l ws).hub = s.hub := by
  induction ws generalizing s l with
  | nil => rfl
  | cons w ws ih => rw [State.wrDwords, ih]; rfl

/-- After delivery to the function's own queue the entry is counted there and its interrupt stands; HS's queue is as it was. -/
theorem State.toOwn_hub (s : State) (e : TrapEntry) (v : VfSt) : let h := (s.toOwn e v).hub
    h.traps = s.hub.traps ∧ h.hsq = s.hub.hsq ∧ h.hsProd = s.hub.hsProd ∧ e.vf ∈ h.vsIrq ∧
      h.vfs.find e.vf = some { v with tqProd := v.tqProd + 1 } := by
  simp only [State.toOwn, State.hub_modHub', State.wrDwords_hub, Table.find_set, if_pos, true_and, and_true]
  split
  · next raised => exact List.contains_iff_mem.1 raised
  · exact List.mem_append_right _ (List.mem_singleton.2 rfl)

theorem TrapEntry.copied_iff (e : TrapEntry) : e.copied = true ↔ e.cause = cECC ∨ e.act = true := by
  simp only [TrapEntry.copied, Bool.or_eq_true, decide_eq_true_eq]

section
variable {s : State} {e : TrapEntry} {q : List TrapEntry} (first : s.hub.traps = e :: q)
include first

/-- The oldest entry leaves the hub's list. -/
theorem State.traps_eraseIdx : (s.modHub fun h => { h with traps := h.traps.eraseIdx 0 }) = s.modHub fun h => { h with traps := q } := by
  simp only [State.modHub, first, List.eraseIdx_cons_zero]

theorem findIdx?_trapRoom (room : s.trapRoom e = true) : s.hub.traps.findIdx? s.trapRoom = some 0 := by
  rw [first, List.findIdx?_cons, if_pos room]

/-- An entry whose cause is not delegated goes to HS's queue (R343). -/
theorem execTrapEntryDelivery_hs (hs : s.delegated e.vf e.cause = false) (room : s.hsRoom = true) :
    execTrapEntryDelivery s = .next ((s.modHub fun h => { h with traps := q }).toHs e) := by
  have fits : s.trapRoom e = true := by simp only [State.trapRoom, hs, room]
  simp only [execTrapEntryDelivery, findIdx?_trapRoom first fits]
  rw [State.traps_eraseIdx first]
  simp only [first, List.getElem?_cons_zero, hs]

/-- An entry whose cause is delegated goes to its function's own queue, and a copy of some to HS's (R343). -/
theorem execTrapEntryDelivery_own {v : VfSt} (own : s.delegated e.vf e.cause = true) (known : s.hub.vfs.find e.vf = some v)
    (room : v.tqProd - v.tqCons < v.d[11].toNat % 2 ^ 16) (copy : e.copied = true → s.hsRoom = true) :
    let t := (s.modHub fun h => { h with traps := q }).toOwn e v
    execTrapEntryDelivery s = .next (if e.copied then t.toHs e else t) := by
  have fits : s.trapRoom e = true := by
    simp only [State.trapRoom, own, known, room, decide_true, Bool.true_and, Bool.or_eq_true, Bool.not_eq_true']
    cases copied : e.copied with
    | false => exact .inl rfl
    | true => exact .inr (copy copied)
  simp only [execTrapEntryDelivery, findIdx?_trapRoom first fits]
  rw [State.traps_eraseIdx first]
  simp only [first, List.getElem?_cons_zero, own, known]
  rfl

end

/-- An only entry without room stays where it is (R343). -/
theorem execTrapEntryDelivery_full {s : State} {e : TrapEntry} (only : s.hub.traps = [e]) (full : s.trapRoom e = false) : execTrapEntryDelivery s = .next s := by
  have none : s.hub.traps.findIdx? s.trapRoom = none := by rw [only, List.findIdx?_cons, full]; rfl
  simp only [execTrapEntryDelivery, none]

end Sys2Proof.Machine
end

section
/-! SUPPORT. The response to a frozen context (R319, R344). -/

namespace Sys2Proof.Machine

/-- A response that names no frozen context is ignored, and counted (R344). -/
theorem State.respond_ignored {s : State} {rec vf : Nat} (none : s.frozenAt rec vf = none) (rsp : Nat) : (s.respond rsp rec vf).2 = s.ignoreResponse := by
  simp only [State.respond, none]
  split <;> rfl

/-- A frozen context that is resumed runs again (R317, R319). -/
theorem State.resumeAll_frozen {s : State} {c : Nat} {st : Stop} (frozen : (s.ctx c).phase = .frozen) (stop : (s.ctx c).stop = some st) :
    s.resumeAll [c] = s.modCtx c fun x => x.loaded s.now (s.now - st.f) := by
  simp only [State.resumeAll, List.foldl_cons, List.foldl_nil, frozen, stop, reduceCtorEq, if_false, State.resume, State.modCtx_modCtx, Option.getD_some,
    Nat.sub_self, Nat.add_zero]
  rfl

/-- A team of one that is already on its way out is not pre-empted again. -/
theorem State.preemptTeam_planned {s : State} {c p : Nat} (alone : ∀ m ∈ s.mates c, m = c) (frozen : (s.ctx c).phase = .frozen)
    (planned : (s.ctx c).plan ≠ some 3) : s.preemptTeam c p = s :=
  List.foldlRecOn (motive := fun t => t = s) _ _ rfl fun t same m member => by
    rw [same, alone m member]
    simp only [State.preempt, frozen, planned, reduceCtorEq, if_false]

section
variable {s : State} {rec c vf : Nat} {st : Stop} (aligned : rec % 64 = 0) (named : s.frozenAt rec vf = some c) (frozen : (s.ctx c).phase = .frozen)
  (stop : (s.ctx c).stop = some st) (alone : s.mates c = [c]) (nobody : s.stepFollowers c = [])
include aligned named

include frozen stop alone nobody in
/-- RESUME of a context alone in its team (R317, R319). -/
theorem State.respond_resume : (s.respond 0 rec vf).2 = s.modCtx c fun x => x.loaded s.now (s.now - st.f) := by
  simp [State.respond, aligned, named, alone, nobody, State.resumeAll_frozen frozen stop]

include stop nobody in
/-- KILL ends the run with the cause of the stop (R319). -/
theorem State.respond_kill : (s.respond 1 rec vf).2 = s.kill c st.cause (s.ctx c).trapAddr true := by
  simp [State.respond, aligned, named, nobody, stop, State.resumeAll]

include frozen stop alone in
/-- EVICT leaves a context alone in its team to the sequencer (R40, R319). -/
theorem State.respond_evict : (s.respond 2 rec vf).2 =
    s.modCtx c fun x => { x with stop := x.stop.map fun st => { st with sent := false, cause := cPREEMPT, plan := 2 } } := by
  simp only [State.respond, aligned, named, ne_eq, not_true_eq_false, Nat.reduceLeDiff, or_self, if_false, OfNat.ofNat_ne_zero, OfNat.ofNat_ne_one]
  refine State.preemptTeam_planned (fun m member => ?_) ?_ ?_
  · rcases State.mates_modCtx (by rfl) (by rfl) (by rfl) member with same | mate
    · exact same
    · rw [alone] at mate
      exact List.mem_singleton.1 mate
  · rw [State.ctx_modCtx_self]
    exact frozen
  · rw [State.ctx_modCtx_self]
    simp [Ctx.plan, frozen, stop]

end

end Sys2Proof.Machine
end

section
/-! SUPPORT. A kill: what ends before the context gives its record up, and what is left of it then (R37, R263, R318). -/

namespace Sys2Proof.Machine

/-! ### Contexts that are told of a write -/

/-- A context but for what it waits for in a CWAIT or a WFE. -/
def Ctx.awake (x : Ctx) : Ctx := { x with wait := none, wfe := none }

/-- The contexts are as they were, but for what a write tells to those that wait (R412, R489). -/
structure Told (s t : State) : Prop where
  same : ∀ c, (t.ctx c).awake = (s.ctx c).awake

theorem Told.refl (s : State) : Told s s := ⟨fun _ => rfl⟩

theorem Told.trans {s t u : State} (h : Told s t) (k : Told t u) : Told s u := ⟨fun c => (k.same c).trans (h.same c)⟩

theorem Told.foldl {β : Type} {f : State → β → State} (h : ∀ s b, Told s (f s b)) (l : List β) (s : State) : Told s (l.foldl f s) :=
  List.foldlRecOn l f (.refl s) fun t ht b _ => ht.trans (h t b)

theorem Told.ite {s t u : State} (p : Prop) [Decidable p] (h : Told s t) (k : Told s u) : Told s (if p then t else u) := by
  split
  · exact h
  · exact k

/-- A step that leaves the contexts alone. -/
theorem Told.apart {s t : State} (ctxs : t.ctxs = s.ctxs) : Told s t := ⟨fun c => by rw [State.ctx, ctxs]; rfl⟩

theorem State.modHub_told (s : State) (f : HubSt → HubSt) : Told s (s.modHub f) := .apart rfl

theorem State.sendTrap_told (s : State) (c cause : Nat) (act : Bool) : Told s (s.sendTrap c cause act) := by
  unfold State.sendTrap
  exact State.modHub_told ..

theorem State.wr_told (s : State) (l n v : Nat) : Told s (s.wr l n v) :=
  ⟨State.ctx_map (g := Ctx.awake) rfl (fun _ => by rfl) fun _ => by rfl⟩

theorem State.recWrite_told (s : State) (vf addr i v : Nat) : Told s (s.recWrite vf addr i v) := by
  unfold State.recWrite
  split
  · exact (Told.apart rfl : Told s (s.touch _ true)).trans (State.wr_told ..)
  · exact .refl s

theorem State.jcbCount_told (s : State) (l vf : Nat) (fault : Bool) : Told s (s.jcbCount l vf fault) := by
  have counted (e d : Nat) : Told s (if fault then (s.wr l 8 e).wr (l + 8) 8 d else s.wr l 8 e) :=
    .ite _ ((State.wr_told ..).trans (State.wr_told ..)) (State.wr_told ..)
  unfold State.jcbCount
  dsimp only
  refine .ite _ (.ite _ ?_ ?_) (counted ..)
  · exact ((counted ..).trans (State.wr_told ..)).trans (.apart rfl)
  · exact (counted ..).trans (State.wr_told ..)

theorem State.countFault_told (s : State) (vf : Nat) (j : BitVec 48) (b : Bool) : Told s (s.countFault vf j b) := by
  unfold State.countFault
  split
  · exact .refl s
  · split
    · exact .refl s
    · have touched (y : Xlat) : Told s (s.touch y.ptes true) := .apart rfl
      exact .ite _ (.refl s) (.ite _ ((touched _).trans (State.wr_told ..)) ((touched _).trans (State.jcbCount_told ..)))

theorem State.postRec_ctxs (s : State) (cl : Nat) (r : CRec) : (s.postRec cl r).ctxs = s.ctxs := by
  unfold State.postRec State.enterRec
  dsimp only
  split
  · split <;> rfl
  · rfl

theorem State.dropLaunches_told (s : State) (c : Nat) : Told s (s.dropLaunches c) :=
  Told.foldl (fun t _ => .apart (State.postRec_ctxs (t.modCluster _ _) _ _)) _ s

theorem State.traceRec_told (s : State) (kind c code pc scyc : Nat) : Told s (s.traceRec kind c code pc scyc) := by
  unfold State.traceRec State.traceAs
  dsimp only
  refine .ite _ (.ite _ (.apart rfl) ?_) (.refl s)
  exact ((((s.wr_told ..).trans (State.wr_told ..)).trans (State.wr_told ..)).trans (State.wr_told ..)).trans (State.modHub_told ..)

/-! ### The end of the record -/

/-- Counting a FAULT in a JCB that stands where its function names it (R263). -/
theorem State.countFault_counts {s : State} {vf : Nat} {j : BitVec 48} {y : Xlat} (named : j ≠ 0) (path : s.xlatVa vf (j.toNat * 64) .rw = some y)
    (clean : s.anyPoison y.loc 64 = false) (b : Bool) : let t := s.touch y.ptes true
    s.countFault vf j b = if b then t.jcbFaultOnly y.loc else t.jcbCount y.loc vf true := by
  simp only [State.countFault, State.jcbLoc, named, path, clean, Bool.false_eq_true, if_false]

/-- The trap registers that a kill leaves (R318, R319). -/
def Ctx.killedBy (x : Ctx) (cause : Nat) (a : W64) : Ctx :=
  { x with trapCause := BitVec.ofNat 64 cause, trapPc := if x.standsAt cause then x.trapPc else BitVec.ofNat 64 x.pc, trapAddr := a }

/-- A killed record is FAULT in memory, counted in its JCB and posted (R37, R263). -/
def State.killEnds (s : State) (c cause : Nat) (a : W64) : State :=
  let x := s.ctx c
  let t := ((s.modCtx c fun x => x.killedBy cause a).recWrite x.vf x.rcd 7 (withState (x.words.toList.getD 7 0).toNat 5 cause)).countFault x.vf x.jcb x.posted
  t.postRec (clusterOf (coreOf c)) (t.mkRec stFAULT 5 c 0 1 x.rcd 0 x.vf)

/-- The trace record of a kill (R371). -/
def State.killTrace (s u : State) (c cause : Nat) : State :=
  if u.hub.dbgCtl.getLsbD 62 && !(s.ctx c).standsAt cause then u.traceRec 2 c cause (s.ctx c).pc (s.ctx c).scyc else u

theorem State.killTrace_untraced {s u : State} {c cause : Nat} (untraced : u.hub.dbgCtl.getLsbD 62 = false) : s.killTrace u c cause = u := by
  simp only [State.killTrace, untraced, Bool.false_and, Bool.false_eq_true, if_false]

theorem State.kill_eq (s : State) (c cause : Nat) (a : W64) :
    s.kill c cause a true = ((s.killTrace ((s.killEnds c cause a).sendTrap c cause true) c cause).dropLaunches c).vacate c := rfl

theorem State.killEnds_told (s : State) (c cause : Nat) (a : W64) : Told (s.modCtx c fun x => x.killedBy cause a) (s.killEnds c cause a) :=
  ((State.recWrite_told ..).trans (State.countFault_told ..)).trans (.apart (State.postRec_ctxs ..))

theorem State.killTrace_told (s u : State) (c cause : Nat) : Told u (s.killTrace u c cause) := .ite _ (State.traceRec_told ..) (.refl u)

/-! ### What a trap entry and a record that is given up leave alone -/

section
variable (s : State) (c : Nat)

theorem State.sendTrap_mem (cause : Nat) (act : Bool) : (s.sendTrap c cause act).mem = s.mem := rfl
theorem State.sendTrap_slotOf (cause : Nat) (act : Bool) (k i : Nat) : (s.sendTrap c cause act).slotOf k i = s.slotOf k i := rfl
theorem State.sendTrap_dbgCtl (cause : Nat) (act : Bool) : (s.sendTrap c cause act).hub.dbgCtl = s.hub.dbgCtl := rfl
theorem State.sendTrap_cluster (cause : Nat) (act : Bool) (cl : Nat) : (s.sendTrap c cause act).cluster cl = s.cluster cl := rfl
theorem State.vacate_mem : (s.vacate c).mem = s.mem := rfl
theorem State.vacate_hub : (s.vacate c).hub = s.hub := rfl

/-- The entry that goes out says what the context held (R318). -/
theorem State.sendTrap_traps (cause : Nat) (act : Bool) : (s.sendTrap c cause act).hub.traps = s.hub.traps ++
    [⟨cause, act, c, (s.ctx c).vf, (s.ctx c).rcd, (s.ctx c).trapPc.toNat, (s.ctx c).trapAddr, if cause = 0x11 then (s.ctx c).trapSrc else 0⟩] := rfl
end

/-! ### The context that gave its record up -/

/-- A context that gives its record up is free, with nothing in flight and no pins, and keeps its trap registers (R157, R208). -/
theorem State.vacate_ctx (s : State) (c : Nat) : let x := (s.vacate c).ctx c
    x.phase = .idle ∧ x.inflight = [] ∧ x.pins = [] ∧ x.trapCause = (s.ctx c).trapCause ∧ x.trapAddr = (s.ctx c).trapAddr := by
  simp only [State.vacate, State.ctx_modCore, State.ctx_modCtx_self, true_and]
  exact ⟨rfl, rfl⟩

/-- A tile slot after context c has released those that it held (R149). -/
def State.slotReleased (s : State) (c : Nat) (p : Nat × Nat × Bool × Option Nat × Bool) : Nat × Nat × Bool × Option Nat × Bool :=
  if p.1 / 2048 = coreOf c ∧ p.2.1 = c % 4 then
    (if p.2.2.1 && s.named (coreOf c) (p.1 % 2048) then (p.1, (4, true, p.2.2.2.1, true)) else (p.1, (4, false, p.2.2.2.1, false)))
  else p

theorem State.slotReleased_key (s : State) (c : Nat) (p : Nat × Nat × Bool × Option Nat × Bool) : (s.slotReleased c p).1 = p.1 := by
  unfold State.slotReleased
  split
  · split <;> rfl
  · rfl

theorem State.releaseSlots_slots (s : State) (c : Nat) : (s.releaseSlots c).slots = ⟨s.slots.l.map (s.slotReleased c)⟩ := rfl

/-- The tile slots that a context held are free or drain (R149). -/
theorem State.vacate_slots {s : State} {c i : Nat} (small : i < 2048) (held : (s.slotOf (coreOf c) i).1 = c % 4) : ((s.vacate c).slotOf (coreOf c) i).1 = 4 := by
  have core : (coreOf c * 2048 + i) / 2048 = coreOf c := by omega
  show ((s.releaseSlots c).slotOf (coreOf c) i).1 = 4
  unfold State.slotOf Table.get at held ⊢
  rw [State.releaseSlots_slots, Table.find_map (s.slotReleased_key c)]
  cases found : s.slots.find (coreOf c * 2048 + i) with
  | none => rfl
  | some v =>
    rw [found] at held
    rw [Option.getD_some] at held
    rw [Option.map_some, Option.getD_some, State.slotReleased, if_pos ⟨core, held⟩]
    split <;> rfl

/-- After a kill the context is free, and its trap registers say why (R318). -/
theorem State.kill_ctx (s : State) (c cause : Nat) (a : W64) : let x := (s.kill c cause a true).ctx c
    x.phase = .idle ∧ x.inflight = [] ∧ x.pins = [] ∧ x.trapCause = BitVec.ofNat 64 cause ∧ x.trapAddr = a := by
  rw [State.kill_eq]
  have told : Told (s.modCtx c fun x => x.killedBy cause a) ((s.killTrace ((s.killEnds c cause a).sendTrap c cause true) c cause).dropLaunches c) :=
    (((s.killEnds_told c cause a).trans (State.sendTrap_told ..)).trans (s.killTrace_told ..)).trans (State.dropLaunches_told ..)
  obtain ⟨phase, inflight, pins, trapCause, trapAddr⟩ := State.vacate_ctx ((s.killTrace ((s.killEnds c cause a).sendTrap c cause true) c cause).dropLaunches c) c
  have same := told.same c
  rw [State.ctx_modCtx_self] at same
  exact ⟨phase, inflight, pins, trapCause.trans (congrArg (·.trapCause) same), trapAddr.trans (congrArg (·.trapAddr) same)⟩

/-! ### Translation looks at no context -/

/-- A walk reads memory alone (R167). -/
theorem walk_mem {s t : State} (mem : t.mem = s.mem) (stage1 : Bool) (loc : Nat → Option Nat) (inp : Nat) (l : List (Nat × Nat)) (table : Nat) :
    walk t stage1 loc inp l table = walk s stage1 loc inp l table := by
  induction l generalizing table with
  | nil => rfl
  | cons p more ih =>
    have dword (l : Nat) : t.rd l 8 = s.rd l 8 := congrArg (Memory.readNat · l 8) mem
    unfold walk
    cases loc (table + 8 * (inp / 2 ^ p.1 % 2 ^ p.2)) with
    | none => rfl
    | some l => dsimp only; rw [dword, ih]

section
variable (s : State) (c : Nat) (f : Ctx → Ctx)

theorem State.place_modCtx (va : Nat) : (s.modCtx c f).place va = s.place va := rfl

theorem State.key_modCtx (owner : Nat) : (s.modCtx c f).key owner = s.key owner := rfl

theorem State.vfWordAt_modCtx (pkg vf i : Nat) : (s.modCtx c f).vfWordAt pkg vf i = s.vfWordAt pkg vf i := rfl

theorem State.vfChannel_modCtx (pkg vf d pa : Nat) : (s.modCtx c f).vfChannel pkg vf d pa = s.vfChannel pkg vf d pa := rfl

theorem State.stage2_modCtx (vf owner ipa : Nat) (acc : Acc) : (s.modCtx c f).stage2 vf owner ipa acc = s.stage2 vf owner ipa acc := by
  unfold State.stage2
  rw [State.vfWordAt_modCtx]
  cases s.vfWordAt (owner / 4) vf (6 + owner % 4) with
  | none => rfl
  | some root =>
    dsimp only
    rw [walk_mem (s.modCtx_mem c f), State.key_modCtx]
    cases walk s false (fun t => some (memLoc (s.key owner) t)) ipa levels root with
    | none => rfl
    | some l => dsimp only; rw [State.vfChannel_modCtx]

theorem State.translate_modCtx (vf owner ofs : Nat) (acc : Acc) : (s.modCtx c f).translate vf owner ofs acc = s.translate vf owner ofs acc := by
  simp only [State.translate, walk_mem (s.modCtx_mem c f), State.key_modCtx, State.vfWordAt_modCtx, State.stage2_modCtx]

theorem State.xlatVa_modCtx (vf va : Nat) (acc : Acc) : (s.modCtx c f).xlatVa vf va acc = s.xlatVa vf va acc := by
  unfold State.xlatVa
  rw [State.place_modCtx]
  cases s.place va with
  | mem o ofs => exact s.translate_modCtx c f vf o ofs acc
  | own | window | bad | outside => rfl
end

/-! ### A kill whose record's word 7 can be written -/

/-- With no entry of the context in the dependency table no launch is dropped (R269). -/
theorem State.dropLaunches_none {s : State} {c : Nat} (none : ∀ d ∈ (s.cluster (clusterOf (coreOf c))).dep, d.ctx ≠ c) : s.dropLaunches c = s := by
  unfold State.dropLaunches
  dsimp only
  rw [List.filter_eq_nil_iff.2 fun d member => by simp [none d member]]
  rfl

/-- A record that finds room changes its event queue, and else no more than a flag unit (R161). -/
theorem State.postRec_rest {s : State} {cl : Nat} (room : s.evRoom cl = true) (r : CRec) : (s.postRec cl r).hub = s.hub ∧ (s.postRec cl r).slots = s.slots ∧
    ((s.postRec cl r).cluster cl).dep = (s.cluster cl).dep := by
  have same : ((s.modCluster cl fun q => { q with evq := q.evq ++ [r] }).cluster cl).dep = (s.cluster cl).dep := by
    rw [State.cluster_modCluster, if_pos rfl]
  rw [State.postRec, if_pos room, State.enterRec]
  split <;> exact ⟨rfl, rfl, same⟩

section
variable {s : State} {c cause : Nat} {y : Xlat} (a : W64) (path : s.xlatVa (s.ctx c).vf ((s.ctx c).rcd + 56) .wr = some y) (leaf : y.ptes = [])
  (free : (s.ctx c).jcb = 0)
include path leaf free

/-- A kill writes word 7 of its record, and posts FAULT (R37, R263). -/
theorem State.killEnds_eq : s.killEnds c cause a =
    ((s.modCtx c fun x => x.killedBy cause a).wr y.loc 8 (withState (s.ctx c).words[7].toNat 5 cause)).postRec (clusterOf (coreOf c))
      (s.mkRec stFAULT 5 c 0 1 (s.ctx c).rcd 0 (s.ctx c).vf) := by
  have path0 : (s.modCtx c fun x => x.killedBy cause a).xlatVa (s.ctx c).vf ((s.ctx c).rcd + 8 * 7) .wr = some y := (State.xlatVa_modCtx ..).trans path
  have word : (s.ctx c).words.toList.getD 7 0 = (s.ctx c).words[7] := by simp
  unfold State.killEnds State.recWrite
  dsimp only
  rw [path0, word, free, State.countFault, if_pos rfl]
  dsimp only
  rw [leaf, State.touch_none]
  rfl

variable (clean : s.poison = []) (wf : s.mem.wf = true) (untraced : s.hub.dbgCtl.getLsbD 62 = false)
  (none : ∀ d ∈ (s.cluster (clusterOf (coreOf c))).dep, d.ctx ≠ c) (room : s.evRoom (clusterOf (coreOf c)) = true)

include room in
/-- What such a kill leaves before the context gives its record up. -/
theorem State.killEnds_keeps : let t := s.killEnds c cause a
    t.mem = ((s.modCtx c fun x => x.killedBy cause a).wr y.loc 8 (withState (s.ctx c).words[7].toNat 5 cause)).mem ∧ t.hub = s.hub ∧ t.slots = s.slots ∧
      (t.cluster (clusterOf (coreOf c))).dep = (s.cluster (clusterOf (coreOf c))).dep ∧
      (t.cluster (clusterOf (coreOf c))).evq = (s.cluster (clusterOf (coreOf c))).evq ++ [s.mkRec stFAULT 5 c 0 1 (s.ctx c).rcd 0 (s.ctx c).vf] := by
  let u := (s.modCtx c fun x => x.killedBy cause a).wr y.loc 8 (withState (s.ctx c).words[7].toNat 5 cause)
  have roomU : u.evRoom (clusterOf (coreOf c)) = true := room
  obtain ⟨mem, -, evq⟩ := State.postRec_room roomU (s.mkRec stFAULT 5 c 0 1 (s.ctx c).rcd 0 (s.ctx c).vf)
  obtain ⟨hub, slots, dep⟩ := State.postRec_rest roomU (s.mkRec stFAULT 5 c 0 1 (s.ctx c).rcd 0 (s.ctx c).vf)
  rw [State.killEnds_eq a path leaf free]
  exact ⟨mem, hub, slots, dep, evq⟩

include room untraced none in
/-- Without a trace and without launches in its dependency table nothing else comes of it but the trap entry (R318). -/
theorem State.kill_plain : s.kill c cause a true = ((s.killEnds c cause a).sendTrap c cause true).vacate c := by
  obtain ⟨-, hub, -, dep, -⟩ := State.killEnds_keeps (cause := cause) a path leaf free room
  have quiet : ((s.killEnds c cause a).sendTrap c cause true).hub.dbgCtl.getLsbD 62 = false := by
    rw [State.sendTrap_dbgCtl, hub]
    exact untraced
  have kept : ∀ d ∈ (((s.killEnds c cause a).sendTrap c cause true).cluster (clusterOf (coreOf c))).dep, d.ctx ≠ c := by
    rw [State.sendTrap_cluster, dep]
    exact none
  rw [State.kill_eq, State.killTrace_untraced quiet, State.dropLaunches_none kept]

include clean wf room untraced none in
/-- A kill writes back word 7 alone (R37). -/
theorem State.kill_mem : let t := s.kill c cause a true
    t.rd y.loc 8 = (5 * 2 ^ 56 + cause * 2 ^ 48 + (s.ctx c).words[7].toNat % 2 ^ 48) % 2 ^ 64 ∧
      ∀ l, (l < y.loc ∨ y.loc + 8 ≤ l) → t.mem.read l = s.mem.read l := by
  obtain ⟨mem, -⟩ := State.killEnds_keeps (cause := cause) a path leaf free room
  have mem' : (s.kill c cause a true).mem = (s.killEnds c cause a).mem := by
    rw [State.kill_plain a path leaf free untraced none room, State.vacate_mem, State.sendTrap_mem]
  let s0 := s.modCtx c fun x => x.killedBy cause a
  have clean0 : s0.poison = [] := clean
  refine ⟨?_, fun l outside => ?_⟩
  · rw [State.rd, mem', mem]
    exact State.rd_wr clean0 wf y.loc 8 _
  · rw [mem', mem]
    exact State.wr_other clean0 wf outside

include room untraced none in
/-- A kill posts FAULT, releases what the context held, and sends the trap entry with ACT = 1 (R37, R149, R318). -/
theorem State.kill_posts : let x := s.ctx c
    let t := s.kill c cause a true
    (t.cluster (clusterOf (coreOf c))).evq = (s.cluster (clusterOf (coreOf c))).evq ++ [s.mkRec stFAULT 5 c 0 1 x.rcd 0 x.vf] ∧
      (∀ i, i < 2048 → (s.slotOf (coreOf c) i).1 = c % 4 → (t.slotOf (coreOf c) i).1 = 4) ∧
      ∃ e, t.hub.traps = s.hub.traps ++ [e] ∧ e.cause = cause ∧ e.act = true ∧ e.ctx = c ∧ e.rcd = x.rcd ∧ e.addr = a := by
  obtain ⟨-, hub, slots, -, evq⟩ := State.killEnds_keeps (cause := cause) a path leaf free room
  have told := (s.killEnds_told c cause a).same c
  rw [State.ctx_modCtx_self] at told
  dsimp only
  rw [State.kill_plain a path leaf free untraced none room, State.vacate_cluster, State.sendTrap_cluster, State.vacate_hub, State.sendTrap_traps, hub]
  refine ⟨evq, fun i small held => State.vacate_slots small ?_, _, rfl, rfl, rfl, rfl, congrArg (·.rcd) told, congrArg (·.trapAddr) told⟩
  rw [State.sendTrap_slotOf, State.slotOf, slots]
  exact held

end

end Sys2Proof.Machine
end

section
/-! SUPPORT. Reports and corrected errors (R329, R373, R458). -/

namespace Sys2Proof.Machine

section
variable {s : State} {c : Nat}

/-- A watch report that arrives stands before the context's next bundle, and it arrives no later than 64 cycles after the write (R329). -/
theorem execWatchReportArrival_stands {t a n : Nat} {src : W64} {m h : Bool} (sent : (s.ctx c).report = some (t, a, src, m, n, h)) :
    execWatchReportArrival c s = .next (s.modCtx c fun x => { x with report := some (t, a, src, m, n, true) }) := by
  simp only [execWatchReportArrival, State.modCtx, sent, Option.map_some]

theorem State.tick_report {t a n : Nat} {src : W64} {m h : Bool} (sent : (s.ctx c).report = some (t, a, src, m, n, h)) (due : t + 64 ≤ s.now + 1) :
    (s.tick.ctx c).report = some (t, a, src, m, n, true) := by
  rw [State.ctx_tick]
  simp only [Ctx.ageReport, sent, Option.map_some, due, decide_true, Bool.or_true]

/-- A report of a failed translation kills its context, is too late for one that has ended, or waits behind predictions (R297, R458). -/
theorem execRemoteFaultReport_kills {a : Nat} {h : Bool} (report : (s.ctx c).killReport = some (a, 0, h)) (holds : (s.ctx c).phase ≠ .idle) :
    execRemoteFaultReport c s = .next (s.kill c cXLAT (BitVec.ofNat 64 a) true) := by
  simp only [execRemoteFaultReport, report, if_neg holds]

theorem execRemoteFaultReport_late {a : Nat} {h : Bool} (report : (s.ctx c).killReport = some (a, 0, h)) (ended : (s.ctx c).phase = .idle) :
    execRemoteFaultReport c s = .next (s.modCtx c fun x => { x with killReport := none }) := by
  simp only [execRemoteFaultReport, report, if_pos ended]

theorem execRemoteFaultReport_waits {a n : Nat} {h : Bool} (report : (s.ctx c).killReport = some (a, n, h)) (predicted : n ≠ 0) :
    execRemoteFaultReport c s = .next (s.modCtx c fun x => { x with killReport := some (a, n, true) }) := by
  cases n with
  | zero => exact absurd rfl predicted
  | succ n => simp only [execRemoteFaultReport, report]

end

end Sys2Proof.Machine
end

section
open Sys2Proof Sys2Proof.Machine

/-- Settles O48: a stop by what takes it, freezes it and delivers its entry; the responses and a kill by what each leaves. -/
theorem stopsAndResponses : Obligations.StopsAndResponses := by
  refine ⟨fun s c cause a pc other => ?_, fun s c st stop stopping nothing untraced => ⟨execStopFreeze_early stop, fun due stands => ?_⟩,
    fun s e q first hs => ⟨fun room => ?_, fun full only => ?_⟩, fun s e q v first own known room plain act => ?_,
    fun s e v only own known both => ⟨fun room roomHs => ?_, fun full => ?_⟩, fun s rec vf none i response => ⟨?_, rfl, rfl⟩,
    fun s rec c vf st aligned named frozen stop alone nobody => ⟨?_, ?_, ?_⟩, fun s c => State.ctx_modCtx_self .., fun s c t a n src m h sent =>
      ⟨execWatchReportArrival_stands sent, State.tick_report sent⟩, fun s c a n h report => ⟨?_, ?_, execRemoteFaultReport_waits report⟩,
    fun s k => ⟨rfl, fun x n => ⟨rfl, rfl, rfl⟩⟩, fun s c a => ?_, ?_, fun s vf j b y named path clean => State.countFault_counts named path clean b⟩
  -- taking a trap
  · intro x y
    have ctx : y = _ := takeTrap_ctx other c a pc s
    rw [takeTrap_preempt, ctx]
    exact ⟨rfl, rfl, rfl, rfl, rfl, rfl, rfl, rfl, rfl, rfl, rfl⟩
  -- freezing
  · obtain ⟨ctx, mem, hub⟩ := State.landCtx_nothing nothing
    have frozen : (((s.landCtx c).modCtx c fun x => x.frozenBy st).ctx c) = (s.ctx c).frozenBy st := by rw [State.ctx_modCtx_self, ctx]
    refine ⟨_, execStopFreeze_freezes stop stopping nothing untraced due stands, ?_⟩
    by_cases preempted : st.cause = cPREEMPT
    · rw [if_pos preempted, frozen]
      exact ⟨rfl, rfl, mem, fun other => absurd preempted other, fun _ => congrArg (·.traps) hub⟩
    · rw [if_neg preempted]
      refine ⟨congrArg (·.phase) frozen, congrArg (·.r) frozen, mem, fun _ => ?_, fun same => absurd same preempted⟩
      simp only [State.sendTrap, frozen]
      exact congrArg (fun h : HubSt => h.traps ++ _) hub
  -- HS's queue
  · exact execTrapEntryDelivery_hs first hs (decide_eq_true room)
  · subst only
    refine execTrapEntryDelivery_full first ?_
    simp only [State.trapRoom, hs, State.hsRoom, decide_eq_false_iff_not, Nat.not_lt, full]
  -- the function's own queue
  · have alone : ¬e.copied = true := by simp [e.copied_iff, plain, act]
    refine ⟨_, execTrapEntryDelivery_own first own known room fun copied => absurd copied alone, ?_⟩
    obtain ⟨traps, hsq, -, irq, counted⟩ := (s.modHub fun h => { h with traps := q }).toOwn_hub e v
    rw [if_neg alone]
    exact ⟨traps, hsq, irq, counted⟩
  -- both queues
  · refine ⟨_, execTrapEntryDelivery_own only own known room fun _ => decide_eq_true roomHs, ?_⟩
    obtain ⟨traps, hsq, prod, -, counted⟩ := (s.modHub fun h => { h with traps := [] }).toOwn_hub e v
    rw [if_pos (e.copied_iff.2 both)]
    exact ⟨traps, congrArg (· ++ [e]) hsq, congrArg (· + 1) prod, counted⟩
  · refine execTrapEntryDelivery_full only ?_
    simp only [State.trapRoom, own, known, e.copied_iff.2 both, State.hsRoom, Bool.not_true, Bool.false_or, Bool.and_eq_false_iff, decide_eq_false_iff_not, Nat.not_lt]
    exact full
  -- responses
  · rcases response with rfl | rfl | rfl
    · exact congrArg _ (State.respond_ignored none 0)
    · exact congrArg _ (State.respond_ignored none 1)
    · exact congrArg _ (State.respond_ignored none 2)
  · refine ⟨_, congrArg Host.Outcome.next (State.respond_resume aligned named frozen stop alone nobody), ?_⟩
    rw [State.ctx_modCtx_self]
    exact ⟨rfl, rfl, rfl, rfl, rfl, rfl, rfl⟩
  · exact congrArg _ (State.respond_kill aligned named stop nobody)
  · refine ⟨_, congrArg Host.Outcome.next (State.respond_evict aligned named frozen stop alone), ?_, rfl⟩
    rw [State.ctx_modCtx_self, stop]
    rfl
  -- a report of a failed translation
  · rintro rfl
    exact execRemoteFaultReport_kills report
  · rintro rfl
    exact execRemoteFaultReport_late report
  -- a kill
  · obtain ⟨phase, inflight, -, trapCause, trapAddr⟩ := s.kill_ctx c cXLAT a
    exact ⟨phase, inflight, trapCause, trapAddr⟩
  · intro s c cause a y x t path leaf clean wf free untraced none room
    obtain ⟨word, others⟩ := State.kill_mem (cause := cause) a path leaf free clean wf untraced none room
    obtain ⟨posted, released, entry⟩ := State.kill_posts (cause := cause) a path leaf free untraced none room
    obtain ⟨-, -, pins, -⟩ := s.kill_ctx c cause a
    exact ⟨word, others, posted, pins, released, entry⟩
end

section
/-! SUPPORT. The scalar X slots of registers alone (R382, R384, R388, R400, R401, R433, R439, R444, R448, R461, R462, R468, R492). -/

namespace Sys2Proof.Machine

/-! ### The forms of the class -/

section
variable {s : State} (h : s.Issuing) (legal : Bool)
include h

/-- A scalar X slot of two registers puts its value on its way (R57, R71). -/
theorem issue_xRRR (o : R3) (lat : Nat) (f : W64 → W64 → W64) :
    let a := s.xA o.a o.ha
    let b := s.xB o.b o.hb
    issue (fun t => xRRR t.env legal o lat f) s = .next (s.gives [a, b] (s.xRes o.d (f a.d b.d) lat)) := by
  intro a b
  rw [issue_finish _ h rfl]
  rfl

/-- The same with one register. -/
theorem issue_xRR (o : R2) (lat : Nat) (f : W64 → W64) :
    let a := s.xA o.a o.ha
    issue (fun t => xRR t.env legal o lat f) s = .next (s.gives [a] (s.xRes o.d (f a.d) lat)) := by
  intro a
  rw [issue_finish _ h rfl]
  rfl

end

/-- A slot of two registers takes a scalar PFXP and no other prefix, and no operand makes it illegal (R66). -/
theorem xRRR_prefixes (e : Env) (legal : Bool) (o : R3) (lat : Nat) (f : W64 → W64 → W64) : let sl := xRRR e legal o lat f
    sl.okP = true ∧ sl.okI = false ∧ sl.okL = false ∧ sl.legal = legal ∧ sl.illVal = none := by
  unfold xRRR Slot.finish
  dsimp only
  split <;> exact ⟨rfl, rfl, rfl, rfl, rfl⟩

/-- A word of ADD, SUB, AND, OR or XOR with a variant is no instruction (R59, R92). -/
theorem decodeSlot_variant {w : W32} (op : (fOp w).toNat ∈ [1, 2, 4, 5, 6]) (variant : fV w ≠ 0) : decodeSlot w = none := by
  simp only [List.mem_cons, List.not_mem_nil, or_false] at op
  unfold decodeSlot
  rcases op with op | op | op | op | op <;> rw [op] <;> exact if_neg (by simpa using variant)

end Sys2Proof.Machine
end

section
open Sys2Proof Sys2Proof.Machine

/-- Settles O16: each slot is the form of two registers with its operation, and a word with a variant is no instruction, as O9 presents one. -/
theorem addSubAndOrXor : Obligations.AddSubAndOrXor := by
  obtain ⟨-, -, -, -, undecoded, -⟩ := prefixesAndConditions
  refine ⟨fun s o h => ⟨issue_xRRR h _ o 1 _, issue_xRRR h _ o 1 _, issue_xRRR h _ o 1 _, issue_xRRR h _ o 1 _, issue_xRRR h _ o 1 _⟩,
    by decide, by decide, by decide, fun w => decodeSlot_variant,
    fun s ws lead a w mem op variant => undecoded s ws lead a w mem (decodeSlot_variant op variant), fun s o sl mem => ?_⟩
  simp only [List.mem_cons, List.not_mem_nil, or_false] at mem
  rcases mem with rfl | rfl | rfl | rfl | rfl <;> exact xRRR_prefixes ..
end

section
/-! SUPPORT. The arithmetic of scalar X: addresses, comparisons, bit counts and products (R384, R400, R401, R433, R439, R448, R461). -/

namespace Sys2Proof.Machine

/-! ### Addresses (R384) -/

/-- The mask of an address's offset. -/
theorem offset_mask (i : Nat) : (0x3FFFFFFFFFF : W64).getLsbD i = decide (i < 42) := by
  rw [show (0x3FFFFFFFFFF : W64) = (BitVec.allOnes 42).setWidth 64 from rfl, BitVec.getLsbD_setWidth, BitVec.getLsbD_allOnes]
  by_cases h : i < 42
  · simp [h]; omega
  · simp [h]

/-- The mask of an address's owner field. -/
theorem owner_mask {i : Nat} (hi : i < 64) : (0xFFFFFC0000000000 : W64).getLsbD i = decide (42 ≤ i) := by
  rw [show (0xFFFFFC0000000000 : W64) = ~~~(0x3FFFFFFFFFF : W64) from rfl, BitVec.getLsbD_not, offset_mask]
  by_cases h : i < 42
  · simp [h]
  · simp [h, hi]; omega

/-- ADDR puts the owner field of A above a sum of offsets. -/
theorem addrSum_eq (n : Nat) (a b : W64) :
    addrSum n a b = (a.extractLsb' 42 22 ++ (a.setWidth 42 + b.setWidth 42 * BitVec.ofNat 42 (2 ^ n)) : BitVec 64) := by
  have low : a.setWidth 42 + b.setWidth 42 * BitVec.ofNat 42 (2 ^ n) = (a + b * BitVec.ofNat 64 (2 ^ n)).setWidth 42 := by
    rw [BitVec.setWidth_add _ _ (by decide), BitVec.setWidth_mul _ _ (by decide), BitVec.setWidth_ofNat_of_le (by decide)]
  rw [low]
  refine BitVec.eq_of_getLsbD_eq fun i hi => ?_
  rw [addrSum, BitVec.getLsbD_or, BitVec.getLsbD_and, BitVec.getLsbD_and, owner_mask hi, offset_mask]
  refine Eq.trans ?_ BitVec.getLsbD_append.symm
  rw [BitVec.getLsbD_setWidth, BitVec.getLsbD_extractLsb']
  by_cases h : i < 42
  · simp [h]
  · have high : i - 42 < 22 := by omega
    have at_i : 42 + (i - 42) = i := by omega
    have above : 42 ≤ i := by omega
    simp [h, high, at_i, above]

/-! ### Comparisons (R401, R433) -/

section
variable {n : Nat} (a b : BitVec n) {β : Type} (x y : β)

/-- The value for a lesser B, and the one for a B that is no less: signed, and unsigned. -/
theorem ite_slt : (if BitVec.slt b a then x else y) = if a.toInt ≤ b.toInt then y else x := by
  simp only [BitVec.slt_eq_decide, decide_eq_true_eq, ← not_lt, ite_not]

theorem ite_ult : (if BitVec.ult b a then x else y) = if a.toNat ≤ b.toNat then y else x := by
  simp only [BitVec.ult_eq_decide, decide_eq_true_eq, ← not_lt, ite_not]

end

/-- A truth value as a dword. -/
theorem bit64_eq {c : Bool} {p : Prop} [Decidable p] (h : c = true ↔ p) : bit64 c = if p then 1 else 0 := if_congr h rfl rfl

/-- The six conditions of CMP. -/
theorem cmpX_iff (a b : W64) : (cmpX 0 a b = true ↔ a = b) ∧ (cmpX 1 a b = true ↔ a ≠ b) ∧ (cmpX 2 a b = true ↔ a.toInt < b.toInt) ∧
    (cmpX 3 a b = true ↔ b.toInt ≤ a.toInt) ∧ (cmpX 4 a b = true ↔ a.toNat < b.toNat) ∧ (cmpX 5 a b = true ↔ b.toNat ≤ a.toNat) := by
  simp [cmpX, BitVec.slt_eq_decide, BitVec.ult_eq_decide]

/-! ### Bit counts (R400, R448) -/

/-- The zero bits above the highest 1 bit of a number of w bits, by the place n of that bit from the top. -/
theorem clzN_eq {w a n : Nat} (hn : n < w) (h : a / 2 ^ (w - 1 - n) = 1) : clzN w a = n := by
  have pos : 0 < 2 ^ (w - 1 - n) := Nat.two_pow_pos _
  have some : a ≠ 0 := by rintro rfl; simp at h
  have bounds := (Nat.div_eq_iff pos).1 h
  have top : Nat.log2 a = w - 1 - n := (Nat.log2_eq_iff some).2 (by rw [Nat.pow_succ]; omega)
  rw [clzN, if_neg some, log2, top]
  omega

@[simp] theorem clzN_zero (w : Nat) : clzN w 0 = w := if_pos rfl

theorem popc64_eq (a : W64) : popc64 a = (List.range 64).countP fun i => a.getLsbD i := List.countP_eq_length_filter.symm

theorem low_word_bit (a : W64) (i : Nat) : (a &&& 0xFFFFFFFF).getLsbD i = (a.getLsbD i && decide (i < 32)) := by
  rw [BitVec.getLsbD_and, low_word_mask]

/-- The 1 bits of a low word. -/
theorem popc64_low_word (a : W64) : popc64 (a &&& 0xFFFFFFFF) = (List.range 32).countP fun i => a.getLsbD i := by
  have halves : List.range 64 = List.range 32 ++ (List.range 32).map (32 + ·) := List.range_add (n := 32) (m := 32)
  have high : (((List.range 32).map (32 + ·)).countP fun i => a.getLsbD i && decide (i < 32)) = 0 := by simp [List.countP_eq_zero]
  simp only [popc64_eq, low_word_bit, halves, List.countP_append, high, Nat.add_zero]
  exact List.countP_congr fun i hi => by simp [List.mem_range.1 hi]

/-! ### Products (R439) -/

theorem mul_eq_signed (a b : W64) : a * b = BitVec.ofInt 64 (a.toInt * b.toInt) := by rw [BitVec.ofInt_mul, BitVec.ofInt_toInt, BitVec.ofInt_toInt]

theorem mul_eq_unsigned (a b : W64) : a * b = BitVec.ofInt 64 (a.toNat * b.toNat) := by
  rw [BitVec.ofInt_mul, BitVec.ofInt_natCast, BitVec.ofInt_natCast, BitVec.ofNat_toNat, BitVec.ofNat_toNat, BitVec.setWidth_eq, BitVec.setWidth_eq]

end Sys2Proof.Machine
end

section
/-! SUPPORT. The scalar X slots that the statement on integer forms names, one lemma for each form (R400, R401, R433, R461). -/

namespace Sys2Proof.Machine

section
variable {s : State} (h : s.Issuing)
include h

/-- CMP gives 1 where its condition holds, and 0 (R401). -/
theorem issue_cmp (o : R3) {v : BitVec 4} {p : Prop} [Decidable p] (hp : cmpX v.toNat (s.xA o.a o.ha).d (s.xB o.b o.hb).d = true ↔ p) :
    exec (.cmp o v) s = .next (s.gives [s.xA o.a o.ha, s.xB o.b o.hb] (s.xRes o.d (if p then 1 else 0) 1)) := by
  rw [← bit64_eq hp]
  exact issue_xRRR h _ o 1 _

/-- SEL takes A where D meets its condition (R461). -/
theorem issue_sel (o : R3) (z : Bool) :
    let d := s.env.reg .x o.d
    exec (.sel o z) s = .next (s.gives [s.xA o.a o.ha, s.xB o.b o.hb, d]
      (s.xRes o.d (if (d.d == 0) == z then (s.xA o.a o.ha).d else (s.xB o.b o.hb).d) 1)) :=
  (issue_finish (slotSel o z) h rfl).trans rfl

/-- CLZ and POPC put a count on its way (R400, R448). -/
theorem issue_count (o : R2) {n m : Nat} {f : W64 → W64} (hn : f (s.xA o.a o.ha).d = BitVec.ofNat 64 n) (same : n = m) :
    issue (fun t => xRR t.env true o 1 f) s = .next (s.gives [s.xA o.a o.ha] (s.xRes o.d (BitVec.ofNat 64 m) 1)) := by
  rw [← same, ← hn]
  exact issue_xRR h _ o 1 f

end

end Sys2Proof.Machine
end

section
open Sys2Proof Sys2Proof.Machine

/-- Settles O17: each slot is one of the forms, with its operation. -/
theorem integerForms : Obligations.IntegerForms := by
  refine ⟨fun s o h => ?_, fun s o h => ?_, fun s o h => ?_, fun s o h => ?_⟩
  · intro a b ans low bit
    obtain ⟨eq, ne, lt, ge, ltu, geu⟩ := cmpX_iff a.d b.d
    refine ⟨fun n _ => ?_, issue_xRRR h _ o 1 _, issue_xRRR h _ o 1 _, issue_xRRR h _ o 1 _, issue_xRRR h _ o 1 _, issue_xRRR h _ o 1 _,
      issue_xRRR h _ o 1 _, ?_, ?_, ?_, ?_, issue_cmp h o eq, issue_cmp h o ne, issue_cmp h o lt, issue_cmp h o ge, issue_cmp h o ltu, issue_cmp h o geu⟩
    · rw [← addrSum_eq]
      exact issue_xRRR h _ o 1 _
    · rw [← ite_slt]
      exact issue_xRRR h _ o 1 _
    · rw [← ite_ult]
      exact issue_xRRR h _ o 1 _
    · rw [← ite_slt]
      exact issue_xRRR h _ o 1 _
    · rw [← ite_ult]
      exact issue_xRRR h _ o 1 _
  · intro a b d ans
    constructor
    · exact (issue_sel h o false).trans (by simp [ans, a, b, d])
    · exact (issue_sel h o true).trans (by simp [ans, a, b, d])
  · intro a ans
    refine ⟨fun zero => ?_, fun n hn top => ?_, fun zero => ?_, fun n hn top => ?_, ?_, ?_⟩
    · exact issue_count h o rfl (by rw [zero]; rfl)
    · exact issue_count h o rfl (clzN_eq hn top)
    · exact issue_count h o rfl (by rw [← BitVec.toNat_setWidth, zero]; rfl)
    · exact issue_count h o rfl (clzN_eq hn top)
    · exact issue_count h o rfl (popc64_eq _)
    · exact issue_count h o rfl (popc64_low_word _)
  · intro a b ans
    refine ⟨?_, ?_, issue_xRRR h _ o 3 _, issue_xRRR h _ o 3 _, issue_xRRR h _ o 3 _⟩
    · exact (issue_xRRR h _ o 3 _).trans (by rw [mul_eq_signed])
    · exact (issue_xRRR h _ o 3 _).trans (by rw [mul_eq_unsigned])
end

section
/-! SUPPORT. The copy commands: into their engine's queue, or the basket, and the wait for them (R404 to R411). -/

namespace Sys2Proof.Machine

/-- The command that a copy slot of a kind makes of its operand, before it takes a mark (R405). -/
def State.copyCmd (s : State) (a : Opnd) (kind : Nat) : CopyCmd :=
  ⟨kind, a.d.toNat, s.env.x.vf, s.cur, s.env.x.pc, 0, s.env.x.rcd, s.env.x.det, s.now⟩

/-- The filling of latches leaves the mark of the context (R69, R182). -/
theorem State.filled_mark (s : State) (ops : List Opnd) : ((s.filled ops).ctx s.cur).mark = (s.ctx s.cur).mark := by
  obtain ⟨l, p, filled⟩ := (s.ctx s.cur).fill_changes (ops.flatMap fun o => o.fill)
  rw [State.filled, State.ctx_modCtx_self, filled]
  rfl

section
variable {s : State} (h : s.Issuing) (o : A1) (kind : Nat)
include h

/-- Without a prediction a copy command enters its engine's queue, with the context's mark (R405). -/
theorem issue_copy (free : (s.ctx s.cur).preds = []) :
    let a := s.cA .x o.a o.ha
    issue (fun t => copySlot t.env o kind) s = .next ((s.filled [a]).modCore (coreOf s.cur) fun k =>
      let m := { s.copyCmd a kind with mark := (s.ctx s.cur).mark }
      match (if kind = 2 then Engine.gather else .copy) with
      | .gather => { k with gq := k.gq ++ [m] }
      | _ => { k with cq := k.cq ++ [m] }) := by
  intro a
  have none : s.env.x.preds.isEmpty = true := List.isEmpty_iff.2 free
  rw [issue_finish _ h rfl]
  simp only [none, Bool.not_true, Bool.false_eq_true, if_false, State.enqueueCopy, ← s.filled_mark [a]]
  rfl

/-- Under a prediction it enters the basket (R294). -/
theorem issue_copy_predicted (pending : (s.ctx s.cur).preds ≠ []) :
    let a := s.cA .x o.a o.ha
    issue (fun t => copySlot t.env o kind) s = .next ((s.filled [a]).modCtx s.cur fun x =>
      { x with basket := x.basket ++ [(x.preds.length, .copy (if kind = 2 then .gather else .copy) (s.copyCmd a kind))] }) := by
  intro a
  have some : s.env.x.preds.isEmpty = false := Bool.eq_false_iff.2 fun none => pending (List.isEmpty_iff.1 none)
  rw [issue_finish _ h rfl]
  simp only [some, Bool.not_false, if_true]
  rfl

/-- CPYW fills its latch and does nothing else (R411). -/
theorem issue_cpyw : exec (.cpyw o) s = .next (s.filled [s.cA .x o.a o.ha]) := (issue_finish (slotCpyw o) h rfl).trans rfl

/-- CPYW is held while a copy of its descriptor is out (R411). -/
theorem slotCpyw_hold (out : s.copyOut s.cur (s.cA .x o.a o.ha).d.toNat = true) : (slotOf (.cpyw o) s).hold = .engine :=
  (Slot.finish_hold _ _ _ _ h.cond).trans (if_pos out)

end

end Sys2Proof.Machine
end

section
open Sys2Proof Sys2Proof.Machine

/-- Settles O26: the four commands are one form by their kind, with a prediction and without. -/
theorem copySlotsEnterQueues : Obligations.CopySlotsEnterQueues := by
  intro s o h
  exact ⟨issue_cpyw h o, slotCpyw_hold h o,
    fun free => ⟨issue_copy h o 0 free, issue_copy h o 1 free, issue_copy h o 2 free, issue_copy h o 3 free⟩,
    fun pending => ⟨issue_copy_predicted h o 0 pending, issue_copy_predicted h o 1 pending, issue_copy_predicted h o 2 pending,
      issue_copy_predicted h o 3 pending⟩⟩
end

section
/-! SUPPORT. DIV: quotients and remainders of two widths, signed and unsigned (R415). -/

namespace Sys2Proof.Machine

/-! ### Quotients and remainders -/

section
variable {w : Nat} {a b : BitVec w}

theorem divW_zero (signed rem : Bool) : divW w signed rem a 0 = if rem then a else BitVec.allOnes w := if_pos rfl

section
variable (nz : b ≠ 0)
include nz

theorem divW_signed (rem : Bool) : divW w true rem a b = BitVec.ofInt w (if rem then a.toInt.tmod b.toInt else a.toInt.tdiv b.toInt) := by
  rw [divW, if_neg nz]
  rfl

theorem divW_quotient : divW w false false a b = a / b := by
  rw [divW, if_neg nz, BitVec.udiv_def]
  rfl

theorem divW_remainder : divW w false true a b = a % b := by
  rw [divW, if_neg nz, BitVec.umod_def]
  rfl

end
end

/-! ### The slot -/

/-- DIV puts its quotient or its remainder on its way, without a flag. -/
theorem issue_div {s : State} (h : s.Issuing) (o : R3) {v : BitVec 4} {r : W64} (hr : divY v (s.yA o.a o.ha).d (s.yB o.b o.hb).d = r) :
    exec (.div o v) s = .next (s.gives [s.yA o.a o.ha, s.yB o.b o.hb] (s.yRes o.d r 20 0)) := by
  subst hr
  exact issue_yRRR h _ o 20 _

/-- DIV takes a scalar PFXP and no other prefix, and meets no cause; its variants end at 7 (R59, R66). -/
theorem slotDiv_prefixes (s : State) (o : R3) (v : BitVec 4) : let sl := slotOf (.div o v) s
    sl.okP = true ∧ sl.okI = false ∧ sl.okL = false ∧ sl.traps = [] ∧ sl.legal = decide (v.toNat < 8) := by
  unfold slotOf slotDiv yRRR Slot.finish
  dsimp only
  split <;> exact ⟨rfl, rfl, rfl, rfl, rfl⟩

end Sys2Proof.Machine
end

section
open Sys2Proof Sys2Proof.Machine

/-- Settles O20: variant by variant, with a zero divisor apart in each width. -/
theorem divideRounds : Obligations.DivideRounds := by
  refine ⟨fun s o h => ?_, by decide, slotDiv_prefixes⟩
  intro a b ans p q
  refine ⟨fun nz => ⟨issue_div h o (divW_signed nz _), issue_div h o (divW_quotient nz), ?_, issue_div h o (divW_remainder nz)⟩, fun zero => ?_,
    fun nz => ⟨issue_div h o ?_, issue_div h o ?_, issue_div h o ?_, issue_div h o ?_⟩, fun zero => ?_⟩
  · rw [← Int.tmod_def]
    exact issue_div h o (divW_signed nz _)
  · have none (v : BitVec 4) (signed rem : Bool) (hv : divY v a.d b.d = divW 64 signed rem a.d b.d) :
        exec (.div o v) s = ans (if rem then a.d else BitVec.allOnes 64) := issue_div h o (by rw [hv, zero, divW_zero])
    exact ⟨none 0 true false rfl, none 1 false false rfl, none 2 true true rfl, none 3 false true rfl⟩
  · exact congrArg (BitVec.signExtend 64) (divW_signed nz _)
  · exact congrArg (BitVec.setWidth 64) (divW_quotient nz)
  · exact congrArg (BitVec.signExtend 64) (divW_signed nz _)
  · exact congrArg (BitVec.setWidth 64) (divW_remainder nz)
  · have none (signed rem : Bool) : divW 32 signed rem p q = if rem then p else BitVec.allOnes 32 := by rw [zero, divW_zero]
    exact ⟨issue_div h o (congrArg (BitVec.signExtend 64) (none true false)), issue_div h o (congrArg (BitVec.setWidth 64) (none false false)),
      issue_div h o (congrArg (BitVec.signExtend 64) (none true true)), issue_div h o (congrArg (BitVec.setWidth 64) (none false true))⟩
end

section
/-! SUPPORT. Lane flags, masks, and the arithmetic of lanes (R452, R475, R476). -/

namespace Sys2Proof.Machine

/-! ### Flags and masks -/

/-- Lanes without a flag raise none together. -/
@[simp] theorem orFlags_zero (lanes : W64) : orFlags lanes (fun _ => 0) = 0 := by simp [orFlags]

/-- Bit l of a mask is the truth value of lane l. -/
theorem getLsbD_maskBits (f : Nat → Bool) {l : Nat} (hl : l < 64) : (maskBits f).getLsbD l = f l := by
  rw [maskBits, BitVec.getLsbD_ofNat, testBit_foldr_bits]
  simp [hl]

/-- The bits below a bit. -/
theorem getLsbD_below {k : Nat} (hk : k < 64) (l : Nat) : ((1#64 <<< k) - 1).getLsbD l = decide (l < k) := by
  have small : 2 ^ k < 2 ^ 64 := Nat.pow_lt_pow_right (by decide) hk
  have bit : (1#64 <<< k).toNat = 2 ^ k := by
    rw [← BitVec.twoPow_eq, BitVec.toNat_twoPow_of_lt hk]
  have value : ((1#64 <<< k) - 1).toNat = 2 ^ k - 1 := by
    rw [BitVec.toNat_sub_of_le (by rw [BitVec.le_def, bit]; exact Nat.one_le_two_pow), bit]
    rfl
  rw [← BitVec.testBit_toNat, value, Nat.testBit_two_pow_sub_one]

/-! ### The lowest enabled lane (R452) -/

/-- The lowest lane that is in both masks. -/
def lowestLane (a lanes : W64) : Option Nat := (List.range 64).find? fun l => a.getLsbD l && lanes.getLsbD l

theorem qopVal_lowest (a b lanes : W64) : qopVal 5 a b lanes = maskBits fun l => decide (lowestLane a lanes = some l) := rfl

theorem qopVal_below (a b lanes : W64) :
    qopVal 6 a b lanes = maskBits fun l => (lowestLane a lanes).elim true fun k => decide (l < k) := by
  show (maskBits fun l => match lowestLane a lanes with
    | none => true
    | some k => decide (l < k)) = _
  cases lowestLane a lanes <;> rfl

section
variable {a lanes : W64}

/-- With no lane in both masks QOP keeps no lowest lane, and all the lanes below it. -/
theorem qopVal_first_none (h : ∀ l, l < 64 → (a &&& lanes).getLsbD l = false) (b : W64) :
    qopVal 5 a b lanes = 0 ∧ qopVal 6 a b lanes = ~~~0 := by
  have first : lowestLane a lanes = none := by
    refine List.find?_range_eq_none.2 fun l hl => ?_
    rw [← BitVec.getLsbD_and, h l hl]
    rfl
  rw [qopVal_lowest, qopVal_below, first]
  refine ⟨BitVec.eq_of_getLsbD_eq fun l hl => ?_, BitVec.eq_of_getLsbD_eq fun l hl => ?_⟩
  · rw [getLsbD_maskBits _ hl]
    simp
  · rw [getLsbD_maskBits _ hl, BitVec.getLsbD_not]
    simp [hl]

/-- The lowest lane alone, and the lanes below it. -/
theorem qopVal_first {k : Nat} (hk : k < 64) (at_k : (a &&& lanes).getLsbD k = true) (below : ∀ l, l < k → (a &&& lanes).getLsbD l = false) (b : W64) :
    qopVal 5 a b lanes = 1#64 <<< k ∧ qopVal 6 a b lanes = (1#64 <<< k) - 1 := by
  have first : lowestLane a lanes = some k := by
    refine List.find?_range_eq_some.2 ⟨?_, List.mem_range.2 hk, fun l hl => ?_⟩
    · rw [← BitVec.getLsbD_and, at_k]
    · rw [← BitVec.getLsbD_and, below l hl]
      rfl
  rw [qopVal_lowest, qopVal_below, first]
  refine ⟨BitVec.eq_of_getLsbD_eq fun l hl => ?_, BitVec.eq_of_getLsbD_eq fun l hl => ?_⟩
  · rw [getLsbD_maskBits _ hl, ← BitVec.twoPow_eq, BitVec.getLsbD_twoPow]
    simp [hk]
  · rw [getLsbD_maskBits _ hl, getLsbD_below hk]
    rfl

end

/-! ### Arithmetic by variant (R476) -/

theorem satI32_eq (z : Int) : satI32 z = BitVec.ofInt 32 (max (-(2 ^ 31)) (min (2 ^ 31 - 1) z)) := by
  rw [satI32, clampInt]
  congr 1
  omega

section
variable (e : Env) (legal : Bool) (op : Nat) (o : R3) {v : BitVec 4}

theorem vArithSlot_int (hv : v.getLsbD 3 = true) : vArithSlot e legal op o v = vVVV e legal o 4 .rne 0 (vArith op v .rne) := if_pos hv

/-- A variant below 8 is the rounding mode of an FP32 operation. -/
theorem getLsbD_three {v : BitVec 4} (hv : v.toNat < 8) : v.getLsbD 3 = false := Nat.testBit_lt_two_pow hv

theorem vArithSlot_float (hv : v.toNat < 8) :
    vArithSlot e legal op o v = vVVV e legal o 4 (rmSel e.x (v.setWidth 3)) 64 (vArith op v (rmSel e.x (v.setWidth 3))) :=
  if_neg (Bool.eq_false_iff.1 (getLsbD_three hv))

theorem vArith_float (hv : v.toNat < 8) (m : Rm) (p q u : W32) : vArith 0 v m p q u = fAdd p q m u ∧ vArith 1 v m p q u = fSub p q m u ∧
    vArith 2 v m p q u = fMul p q m u := by
  have float : ¬v.getLsbD 3 = true := Bool.eq_false_iff.1 (getLsbD_three hv)
  exact ⟨if_neg float, if_neg float, if_neg float⟩

end

end Sys2Proof.Machine
end

section
/-! SUPPORT. The vector slots with two sources: lane operations, comparison, selection, permutation, broadcast and masks (R452, R475 to R479, R483,
R484, R487, R488). -/

namespace Sys2Proof.Machine

/-- The state after an integer operation lane by lane, without a flag (R475). -/
def State.intLanes (s : State) (o : R3) (f : W32 → W32 → W32) (lat : Nat) : State :=
  let a := s.vA .v o.a o.ha
  let b := s.vB .v o.b o.hb
  s.gives [a, b] (s.vRes o.d (fun l => (f (a.lane l) (b.lane l), 0)) lat)

section
variable {s : State} (h : s.Issuing) {sl : State → Slot} {tl : Slot} {ops : List Opnd} {psn : List (W64 × Nat)} {d : BitVec 5} {lat : Nat}
include h

/-! ### What a vector slot sends -/

/-- Lanes after draws (R138, R475). -/
theorem issue_lanes_drawn {rm : Rm} {n : Nat} {f : Nat → W32 × BitVec 5} (hs : sl s = Slot.finish tl s.env ops psn)
    (he : tl.eff = fun u => s.env.fixedL .v d (s.env.lanesOf f).1 lat (s.env.lanesOf f).2 (u.modCtx s.cur fun x => x.consume rm n)) :
    issue sl s = .next (s.rounds ops rm n (s.vRes d f lat)) := by
  rw [issue_finish sl h hs, he]
  simp only [Env.fixedL, Env.lanesOf]
  rfl

/-- Lanes that come from others as they are raise no flag (R475). -/
theorem issue_lanes_moved {f : Nat → W32} (hs : sl s = Slot.finish tl s.env ops psn)
    (he : tl.eff = s.env.fixedL .v d (s.env.lanesOf fun l => (f l, 0)).1 lat 0) :
    issue sl s = .next (s.gives ops (s.vRes d (fun l => (f l, 0)) lat)) := by
  rw [issue_finish sl h hs, he]
  simp only [State.vRes, orFlags_zero]
  rfl

/-- A mask (R452, R479). -/
theorem issue_mask {m : W64} {fl : BitVec 5} (hs : sl s = Slot.finish tl s.env ops psn) (he : tl.eff = s.env.maskRes d m fl) :
    issue sl s = .next (s.gives ops (s.qRes d m fl)) := by
  rw [issue_finish sl h hs, he]
  rfl

/-! ### Lane operations -/

section
variable {legal : Bool} {o : R3}

/-- A slot with two sources of lanes, after its draws (R138, R475). -/
theorem issue_vVVV {rm : Rm} {draws : Nat} {f : W32 → W32 → W32 → W32 × BitVec 5} (hs : sl s = vVVV s.env legal o lat rm draws f) :
    let a := s.vA .v o.a o.ha
    let b := s.vB .v o.b o.hb
    issue sl s = .next (s.rounds [a, b] rm draws
      (s.vRes o.d (fun l => f (a.lane l) (b.lane l) (if draws = 0 then 0 else s.drawL s.cur rm l)) lat)) :=
  issue_lanes_drawn h hs rfl

/-- Without draws the result is a function of the two lanes (R475). -/
theorem issue_lanes {f : W32 → W32 → W32 → W32 × BitVec 5} {g : W32 → W32 → W32 × BitVec 5} (hs : sl s = vVVV s.env legal o lat .rne 0 f)
    (hg : ∀ p q, f p q 0 = g p q) :
    let a := s.vA .v o.a o.ha
    let b := s.vB .v o.b o.hb
    issue sl s = .next (s.gives [a, b] (s.vRes o.d (fun l => g (a.lane l) (b.lane l)) lat)) := by
  intro a b
  rw [issue_vVVV h hs, State.rounds_zero]
  simp only [if_true, hg]
  rfl

/-- VADD, VSUB and VMUL of FP32 values take 64 draws (R138, R476). -/
theorem issue_vArith_rounds {op : Nat} {v : BitVec 4} (hs : sl s = vArithSlot s.env legal op o v) (hv : v.toNat < 8) :
    let a := s.vA .v o.a o.ha
    let b := s.vB .v o.b o.hb
    let m := rmSel (s.ctx s.cur) (v.setWidth 3)
    issue sl s = .next (s.rounds [a, b] m 64 (s.vRes o.d (fun l => vArith op v m (a.lane l) (b.lane l) (s.drawL s.cur m l)) 4)) :=
  issue_vVVV h (hs.trans (vArithSlot_float _ _ _ _ hv))

/-- Integer lanes, without a draw and without a flag (R475). -/
theorem issue_int {f : W32 → W32 → W32 → W32 × BitVec 5} {g : W32 → W32 → W32} (hs : sl s = vVVV s.env legal o lat .rne 0 f)
    (hg : ∀ p q, f p q 0 = (g p q, 0)) : issue sl s = .next (s.intLanes o g lat) :=
  issue_lanes (g := fun p q => (g p q, 0)) h hs hg

/-- VADD, VSUB and VMUL of integers (R476). -/
theorem issue_vArith_int {op : Nat} {v : BitVec 4} (hs : sl s = vArithSlot s.env legal op o v) (hv : v.getLsbD 3 = true) {g : W32 → W32 → W32}
    (hg : ∀ p q, vArith op v .rne p q 0 = (g p q, 0)) : issue sl s = .next (s.intLanes o g 4) :=
  issue_int h (hs.trans (vArithSlot_int _ _ _ _ hv)) hg

/-- Logic and shifts (R477, R488). -/
theorem issue_vInt (f : W32 → W32 → W32) (hs : sl s = vInt s.env legal o lat f) : issue sl s = .next (s.intLanes o f lat) :=
  issue_int h hs fun _ _ => rfl

/-- VFMA takes D as its addend (R476). -/
theorem issue_vfma (v : BitVec 4) :
    let a := s.vA .v o.a o.ha
    let b := s.vB .v o.b o.hb
    let c := s.env.reg .v o.d
    let m := rmSel (s.ctx s.cur) (v.setWidth 3)
    exec (.vfma o v) s = .next (s.rounds [a, b, c] m 64
      (s.vRes o.d (fun l => fFma (v.getLsbD 3) (a.lane l) (b.lane l) (c.lane l) m (s.drawL s.cur m l)) 4)) :=
  issue_lanes_drawn (sl := slotVfma o v) h rfl rfl

/-! ### Comparison and masks -/

/-- VCMP puts a mask on its way (R479). -/
theorem issue_vcmp (v : BitVec 4) :
    let a := s.vA .v o.a o.ha
    let b := s.vB .v o.b o.hb
    exec (.vcmp o v) s = .next (s.gives [a, b] (s.qRes o.d (maskBits fun l => (vCmpLane v.toNat (a.lane l) (b.lane l)).1)
      (orFlags s.env.lanes fun l => (vCmpLane v.toNat (a.lane l) (b.lane l)).2))) :=
  issue_mask (sl := slotVcmp o v) h rfl rfl

/-- QOP puts a mask on its way; a field that its variant does not use names no register (R452). -/
theorem issue_qop (v : BitVec 4) {m : W64} :
    let a := if v = 4 then Opnd.none else s.vA .q o.a o.ha
    let b := if v = 5 ∨ v = 6 then Opnd.none else s.vB .q o.b o.hb
    qopVal v.toNat a.d b.d s.env.lanes = m → exec (.qop o v) s = .next (s.gives [a, b] (s.qRes o.d m 0)) := by
  rintro a b rfl
  exact issue_mask (sl := slotQop o v) h rfl rfl

end

end

end Sys2Proof.Machine
end

section
open Sys2Proof Sys2Proof.Machine

/-- Settles O23: each slot sends lanes or a mask by one of the forms above, with its operation. -/
theorem vectorLanes : Obligations.VectorLanes := by
  refine ⟨fun s o h => ?_, fun s o h => ?_⟩
  · intro a b c int n
    have int_eq : int = fun f lat => .next (s.intLanes o f lat) := rfl
    clear_value int
    subst int_eq
    refine ⟨fun v hv => ⟨?_, ?_, ?_⟩, fun v => issue_vfma h v,
      -- integers: mod 2^32, saturated, and the high half
      issue_vArith_int (op := 0) h rfl rfl fun _ _ => rfl, issue_vArith_int (op := 1) h rfl rfl fun _ _ => rfl,
      issue_vArith_int (op := 2) h rfl rfl fun _ _ => rfl, issue_vArith_int (op := 0) h rfl rfl fun _ _ => congrArg (·, 0) (satI32_eq _),
      issue_vArith_int (op := 1) h rfl rfl fun _ _ => congrArg (·, 0) (satI32_eq _), issue_vArith_int (op := 2) h rfl rfl fun _ _ => rfl,
      issue_vArith_int (op := 2) h rfl rfl fun _ _ => rfl,
      -- minimum and maximum: FP32, signed, unsigned
      issue_lanes (g := fMinMax false) h rfl fun _ _ => rfl, issue_lanes (g := fMinMax true) h rfl fun _ _ => rfl,
      issue_int h rfl fun _ _ => congrArg (·, 0) (ite_slt ..), issue_int h rfl fun _ _ => congrArg (·, 0) (ite_slt ..),
      issue_int h rfl fun _ _ => congrArg (·, 0) (ite_ult ..), issue_int h rfl fun _ _ => congrArg (·, 0) (ite_ult ..),
      issue_vInt h _ rfl, issue_vInt h _ rfl, issue_vInt h _ rfl,
      issue_vInt h (vShift 0) rfl, issue_vInt h (vShift 1) rfl, issue_vInt h (vShift 2) rfl⟩
    · simp only [← (vArith_float hv _ _ _ _).1]
      exact issue_vArith_rounds h rfl hv
    · simp only [← (vArith_float hv _ _ _ _).2.1]
      exact issue_vArith_rounds h rfl hv
    · simp only [← (vArith_float hv _ _ _ _).2.2]
      exact issue_vArith_rounds h rfl hv
  · intro a b p q i x no lanes
    refine ⟨issue_vcmp h, fun n => ?_, ?_, ?_, ?_, issue_qop h 0 rfl, issue_qop h 1 rfl, issue_qop h 2 rfl, issue_qop h 3 rfl, issue_qop h 4 rfl,
      fun none => ?_, fun k hk at_k below => ?_⟩
    · exact issue_lanes_moved (sl := slotVsel o n) h rfl rfl
    · exact issue_lanes_moved (sl := slotVperm o) h rfl rfl
    · exact issue_lanes_moved (sl := slotVbcast o false) h rfl rfl
    · exact issue_lanes_moved (sl := slotVbcast o true) h rfl rfl
    · obtain ⟨lowest, under⟩ := qopVal_first_none none no.d
      exact ⟨issue_qop h 5 lowest, issue_qop h 6 under⟩
    · obtain ⟨lowest, under⟩ := qopVal_first hk at_k below no.d
      exact ⟨issue_qop h 5 lowest, issue_qop h 6 under⟩
end

section
/-! SUPPORT. The registers of the hub where a context waits for a write of the command ring (R336, R489). -/

namespace Sys2Proof.Machine

/-- Context 0 of core 0 waits in a WFE.W for a write of the line that holds the first slot of the command ring. -/
def ringWatched : State := State.reset.modCtx 0 fun x => { x with wfe := some ⟨hubLoc 0, none, false, 0⟩ }

/-- Has a write met the wait of context 0? -/
def State.wfeHit (s : State) : Option Bool := (s.ctx 0).wfe.map fun w => w.hit

/-- STATUS of the slot that CMD_PI takes in is written, and that write meets the wait (R336, R489). -/
theorem ringWatched_hit : ringWatched.wfeHit = some false ∧ (ringWatched.writePi 1).wfeHit = some true := by decide +kernel

end Sys2Proof.Machine
end

section
open Sys2Proof Sys2Proof.Machine

/-- Refutes O59: the statement says that a write of CMD_PI leaves the contexts as they are, but it writes STATUS of the slots that it takes in (R336), and
a write tells the contexts that wait for one of its line (R489), as in `ringWatched`. -/
theorem not_hubEvents : ¬ Obligations.HubEvents := by
  rintro ⟨-, -, -, -, -, -, -, -, -, registers, -⟩
  obtain ⟨⟨t, written, -, ctxs, -⟩, -⟩ := registers ringWatched 1
  obtain rfl : ringWatched.writePi 1 = t := Host.Outcome.next.inj written
  obtain ⟨before, after⟩ := ringWatched_hit
  rw [State.wfeHit, State.ctx, ctxs] at after
  exact absurd (before.symm.trans after) (by decide)
end

section
/-! SUPPORT. The rules of the command ring: when a command runs, its journal entry, and its completion (R336, R337, R350). -/

namespace Sys2Proof.Machine

/-! ### Tables -/

theorem Table.findL_filter {β : Type} (l : List (Nat × β)) (k j : Nat) :
    Table.findL (l.filter fun p => p.1 != k) j = if j = k then none else Table.findL l j := by
  induction l with
  | nil => simp [Table.findL]
  | cons p r ih =>
    by_cases removed : p.1 = k
    · rw [List.filter_cons_of_neg (by simp [removed]), ih, Table.findL, removed]
      grind
    · rw [List.filter_cons_of_pos (by simp [removed]), Table.findL, Table.findL, ih]
      grind

@[simp] theorem Table.find_del {β : Type} (t : Table β) (k j : Nat) : (t.del k).find j = if j = k then none else t.find j := Table.findL_filter ..

/-! ### Running a command -/

section
variable {s : State} {op : Nat} {w : Vector W64 8} {f : Vector W64 8 → State → Option Nat × State}

theorem runCmd_idle (head : s.cmdHead = none) : runCmd op f s = s := by simp only [runCmd, head]

theorem runCmd_begins (head : s.cmdHead = some w) (free : s.hub.waiting = none) : runCmd op f s =
    if s.journalUp = false then s
    else if cmdOp w ≠ op ∧ 1 ≤ cmdOp w ∧ cmdOp w ≤ 13 then s
    else if cmdOp w = 0 ∨ 13 < cmdOp w ∨ w[0].toNat / 2 ^ 39 % 2 ^ 9 ≠ 0 then (s.begun w).completeCmd stFAULT
    else match f w (s.begun w) with
      | (some st, t) => t.completeCmd st
      | (none, t) => t.modHub fun h => { h with waiting := some (h.waiting.getD []) } := by
  have known : ((!(decide (cmdOp w = 0) || decide (13 < cmdOp w))) = true) = (1 ≤ cmdOp w ∧ cmdOp w ≤ 13) := by
    simp only [Bool.not_eq_true', Bool.or_eq_false_iff, decide_eq_false_iff_not, eq_iff_iff]
    omega
  simp only [runCmd, head, free, Bool.not_eq_true', known, Bool.or_eq_true, decide_eq_true_eq, or_assoc]
  rfl

theorem runCmd_held (head : s.cmdHead = some w) (free : s.hub.waiting = none) (down : s.journalUp = false) : runCmd op f s = s := by
  rw [runCmd_begins head free, if_pos down]

theorem runCmd_other (head : s.cmdHead = some w) (free : s.hub.waiting = none) (differs : cmdOp w ≠ op) (low : 1 ≤ cmdOp w) (high : cmdOp w ≤ 13) :
    runCmd op f s = s := by
  rw [runCmd_begins head free, if_pos (⟨differs, low, high⟩ : _ ∧ _ ∧ _), ite_self]

theorem runCmd_reserved (head : s.cmdHead = some w) (free : s.hub.waiting = none) (up : s.journalUp = true)
    (reserved : cmdOp w = 0 ∨ 13 < cmdOp w ∨ (cmdOp w = op ∧ w[0].toNat / 2 ^ 39 % 2 ^ 9 ≠ 0)) : runCmd op f s = (s.begun w).completeCmd stFAULT := by
  rw [runCmd_begins head free, if_neg (by simp [up]), if_neg (by omega), if_pos (by omega)]

section
variable (c : s.Commands op w) (range : 1 ≤ op ∧ op ≤ 13) {t : State}
include c range

theorem runCmd_effect : runCmd op f s = match f w (s.begun w) with
    | (some st, t) => t.completeCmd st
    | (none, t) => t.modHub fun h => { h with waiting := some (h.waiting.getD []) } := by
  obtain ⟨head, free, opc, zero, up⟩ := c
  rw [runCmd_begins head free, if_neg (by simp [up]), if_neg (fun h => h.1 opc), if_neg (by omega)]

/-- A command whose effect answers a status completes with it. -/
theorem runCmd_completes {st : Nat} (effect : f w (s.begun w) = (some st, t)) : runCmd op f s = t.completeCmd st := by
  rw [runCmd_effect c range, effect]

/-- A command whose effect answers none waits and holds the ring. -/
theorem runCmd_waits (effect : f w (s.begun w) = (none, t)) :
    runCmd op f s = t.modHub fun h => { h with waiting := some (h.waiting.getD []) } := by
  rw [runCmd_effect c range, effect]

end

theorem State.waitingCmd_none (h : s.cmdHead = none ∨ s.hub.waiting = none) : s.waitingCmd op = none := by
  rcases h with h | h
  · simp only [State.waitingCmd, h]
  · simp only [State.waitingCmd, h]
    split <;> trivial

theorem State.waitingCmd_some {m : List (Nat × Nat)} (head : s.cmdHead = some w) (waits : s.hub.waiting = some m) (opc : cmdOp w = op) :
    s.waitingCmd op = some w := by
  simp only [State.waitingCmd, head, waits, opc, if_true]

end

theorem execInval_eq (s : State) : exec .inval s = execInval s := rfl
theorem execMigrateOut_eq (s : State) : exec .migrateOut s = execMigrateOut s := rfl

/-- Each command is run by the rule of the ring, but for one that has begun and waits: INVAL and MIGRATE_OUT ask for that first. -/
theorem exec_command {i : Instr} {op : Nat} (h : (i, op) ∈ commandOps) :
    ∃ f, ∀ s : State, s.cmdHead = none ∨ s.hub.waiting = none → exec i s = .next (runCmd op f s) := by
  simp only [commandOps, List.mem_cons, Prod.mk.injEq, List.not_mem_nil, or_false] at h
  rcases h with ⟨rfl, rfl⟩ | ⟨rfl, rfl⟩ | ⟨rfl, rfl⟩ | ⟨rfl, rfl⟩ | ⟨rfl, rfl⟩ | ⟨rfl, rfl⟩ | ⟨rfl, rfl⟩ | ⟨rfl, rfl⟩ | ⟨rfl, rfl⟩ | ⟨rfl, rfl⟩ | ⟨rfl, rfl⟩ |
    ⟨rfl, rfl⟩ | ⟨rfl, rfl⟩
  pick_goal 12
  · exact ⟨_, fun s free => (execMigrateOut_eq s).trans (by rw [execMigrateOut, State.waitingCmd_none free])⟩
  pick_goal 3
  · exact ⟨_, fun s free => (execInval_eq s).trans (by rw [execInval, State.waitingCmd_none free])⟩
  all_goals exact ⟨_, fun _ _ => rfl⟩

/-! ### The journal -/

section
variable (s : State) (w : Vector W64 8)

/-- Of the hub, the journal and its counter alone change as a command begins. -/
theorem State.begun_keeps {α : Type} (f : HubSt → α)
    (apart : ∀ h n (j m : List JEntry) (c : Decisions), f { h with begun := n, journal := j, mirror := m, checkpoint := c } = f h) :
    f (s.begun w).hub = f s.hub := by
  by_cases last : (s.hub.begun + 1) % checkpointEvery = 0
  · rw [State.begun, State.journalWrite_checkpoint s w last]
    exact apart ..
  · rw [State.begun, State.journalWrite_command s w last]
    exact apart s.hub _ _ _ s.hub.checkpoint

@[simp] theorem State.begun_parts : (s.begun w).hub.parts = s.hub.parts := s.begun_keeps w HubSt.parts fun _ _ _ _ _ => rfl
@[simp] theorem State.begun_vfs : (s.begun w).hub.vfs = s.hub.vfs := s.begun_keeps w HubSt.vfs fun _ _ _ _ _ => rfl
@[simp] theorem State.begun_groups : (s.begun w).hub.groups = s.hub.groups := s.begun_keeps w HubSt.groups fun _ _ _ _ _ => rfl
@[simp] theorem State.begun_cmdCi : (s.begun w).hub.cmdCi = s.hub.cmdCi := s.begun_keeps w HubSt.cmdCi fun _ _ _ _ _ => rfl
@[simp] theorem State.begun_waiting : (s.begun w).hub.waiting = s.hub.waiting := s.begun_keeps w HubSt.waiting fun _ _ _ _ _ => rfl
@[simp] theorem State.begun_sent : (s.begun w).hub.sent = s.hub.sent := s.begun_keeps w HubSt.sent fun _ _ _ _ _ => rfl
@[simp] theorem State.begun_home : (s.begun w).hub.home = s.hub.home := s.begun_keeps w HubSt.home fun _ _ _ _ _ => rfl
@[simp] theorem State.begun_pkg : (s.begun w).hub.pkg = s.hub.pkg := s.begun_keeps w HubSt.pkg fun _ _ _ _ _ => rfl
@[simp] theorem State.begun_images : (s.begun w).hub.images = s.hub.images := s.begun_keeps w HubSt.images fun _ _ _ _ _ => rfl

@[simp] theorem State.begun_ctxs : (s.begun w).ctxs = s.ctxs := rfl
@[simp] theorem State.begun_mem : (s.begun w).mem = s.mem := rfl
@[simp] theorem State.begun_fresh : (s.begun w).fresh = s.fresh := rfl
@[simp] theorem State.begun_ftb : (s.begun w).ftb = s.ftb := rfl
@[simp] theorem State.begun_core (k : Nat) : (s.begun w).core k = s.core k := rfl
@[simp] theorem State.begun_owner (k : Nat) : (s.begun w).owner k = s.owner k := by simp [State.owner]
@[simp] theorem State.begun_partOf (vf : Nat) : (s.begun w).partOf vf = s.partOf vf := by simp [State.partOf, State.vfWord]

theorem State.begun_command (more : (s.hub.begun + 1) % 2 ^ 20 ≠ 0) : (s.begun w).hub =
    { s.hub with begun := s.hub.begun + 1, journal := s.hub.journal ++ [.cmd w], mirror := s.hub.mirror ++ [.cmd w] } :=
  congrArg State.hub (s.journalWrite_command w more)

theorem State.begun_checkpoint (last : (s.hub.begun + 1) % 2 ^ 20 = 0) : (s.begun w).hub =
    { s.hub with begun := s.hub.begun + 1, checkpoint := s.hub.checkpoint.replay (s.hub.journal ++ [.cmd w]), journal := [], mirror := [] } :=
  congrArg State.hub (s.journalWrite_checkpoint w last)

theorem State.begun_count : (s.begun w).hub.begun = s.hub.begun + 1 := by
  by_cases last : (s.hub.begun + 1) % 2 ^ 20 = 0
  · rw [s.begun_checkpoint w last]
  · rw [s.begun_command w last]

theorem State.journalUp_iff : s.journalUp = true ↔ 1024 ∉ s.hub.lost ∧ 1026 ∉ s.hub.lost := by simp [State.journalUp]

/-! ### Completion -/

variable (st : Nat)

@[simp] theorem State.completeCmd_hub : (s.completeCmd st).hub = { s.hub with cmdCi := s.hub.cmdCi + 1, waiting := none } := rfl
@[simp] theorem State.completeCmd_fresh : (s.completeCmd st).fresh = s.fresh := rfl

theorem bytesAt_one (l v : Nat) : bytesAt l 1 v = [(l, BitVec.ofNat 8 v)] := by
  simp [bytesAt, bytesOfNat, List.range_succ]

variable {s}

theorem State.completeCmd_status (wf : s.mem.wf = true) (clean : s.poison = []) : (s.completeCmd st).mem.read (s.cmdLoc + 6) = BitVec.ofNat 8 st := by
  have stored : (s.cmdLoc + 6, BitVec.ofNat 8 st) ∈ bytesAt (s.cmdLoc + 6) 1 st := by simp [bytesAt_one]
  exact State.storeBytes_read_mem wf clean (by simp [bytesAt_one]) stored

theorem State.completeCmd_other (wf : s.mem.wf = true) {l : Nat} (h : l ≠ s.cmdLoc + 6) : (s.completeCmd st).mem.read l = s.mem.read l :=
  State.storeBytes_other wf _ l fun p hp same => h (by rw [bytesAt_one, List.mem_singleton] at hp; rw [← same, hp])

end

end Sys2Proof.Machine
end

section
/-! SUPPORT. PART_SET, VF_SET and INVAL (R158, R178, R340 to R342). -/

namespace Sys2Proof.Machine

variable {s : State} {w : Vector W64 8}

/-! ### PART_SET -/

section
variable (c : s.Commands 1 w)
include c

theorem partSet_refused (bad : (s.begun w).partBad ((s.begun w).eight (arg w 1)) = true) : exec .partSet s = .next ((s.begun w).completeCmd stFAULT) :=
  congrArg Host.Outcome.next (runCmd_completes c (by decide) (if_pos bad))

variable {d : Vector W64 8} (desc : (s.begun w).eight (arg w 1) = d) (sound : (s.begun w).partBad d = false)
include desc sound

theorem partSet_installs (new : s.hub.parts.find (d[0].toNat / 2 ^ 58) = none) : exec .partSet s =
    .next ((((s.begun w).modHub fun h => { h with parts := h.parts.set (d[0].toNat / 2 ^ 58) (Part.new d s.ftb) }).applyDesc d).completeCmd stOK) := by
  subst desc
  refine congrArg Host.Outcome.next (runCmd_completes c (by decide) ?_)
  simp only [sound, State.begun_parts, new]
  rfl

theorem partSet_replaces {q : Part} (found : s.hub.parts.find (d[0].toNat / 2 ^ 58) = some q) : exec .partSet s =
    .next (((s.begun w).modHub fun h => { h with parts := h.parts.set (d[0].toNat / 2 ^ 58) { q with next := some d } }).completeCmd stOK) := by
  subst desc
  refine congrArg Host.Outcome.next (runCmd_completes c (by decide) ?_)
  simp only [sound, State.begun_parts, State.modPart, found]
  rfl

end

theorem State.clearScratch_cores (s : State) (k : Nat) : (s.clearScratch k).cores = s.cores := rfl

/-- What a description sets in a core: scratchpad size and MPWR window (R146, R340). -/
structure CoreSt.Described (q : CoreSt) (d : Vector W64 8) : Prop where
  spk : q.spk = d[0].toNat / 2 ^ 54 % 16
  base : q.mpwBase = BitVec.ofNat 64 (64 * (d[7].toNat / 64 % 64))
  closed : d[7].toNat / 64 % 64 = 0 → q.mpwLimit = 0

theorem State.applyDesc_described (s : State) {d : Vector W64 8} {k : Nat} (listed : k ∈ descCores d) : ((s.applyDesc d).core k).Described d := by
  refine foldl_reaches (I := fun _ => True) (P := fun t : State => (t.core k).Described d) (fun _ _ _ => trivial) (fun t _ => ?_) (fun t j _ held => ?_) listed trivial
  · rw [State.core_modCore, if_pos rfl]
    exact ⟨rfl, rfl, fun zero => by rw [if_pos zero]; rfl⟩
  · rw [State.core_modCore]
    split
    · exact ⟨rfl, rfl, fun zero => by rw [if_pos zero]; rfl⟩
    · have same : (if (t.core j).spk = d[0].toNat / 2 ^ 54 % 16 then t else t.clearScratch j).core k = t.core k := by split <;> rfl
      rw [same]
      exact held

/-! ### VF_SET -/

/-- The descriptor of a function that VF_SET reads (R341). -/
def State.vfDesc (s : State) (a : Nat) : Vector W64 16 := Vector.ofFn fun (i : Fin 16) => s.hs a i.val

section
variable (c : s.Commands 2 w) {d : Vector W64 16} (desc : (s.begun w).vfDesc (arg w 1) = d)
include c desc

theorem vfSet_refused (bad : d[0].toNat / 2 ^ 63 = 0 ∨ 95 < d[0].toNat / 2 ^ 56 % 128 ∨ d[0].toNat / 2 ^ 40 % 256 = 0 ∨ 100 < d[0].toNat / 2 ^ 40 % 256 ∨
    d[11].toNat < 16 ∨ d[0].setWidth 32 = Config.supervisorKey s.hub.images) : exec .vfSet s = .next ((s.begun w).completeCmd stFAULT) := by
  refine congrArg Host.Outcome.next (runCmd_completes c (by decide) (if_pos ?_))
  unfold State.vfDesc at desc
  simp only [desc, State.begun_images, Bool.or_eq_true, decide_eq_true_eq]
  tauto

/-- A descriptor that keeps the rules of R341 and R335. -/
structure State.VfSound (s : State) (d : Vector W64 16) : Prop where
  valid : d[0].toNat / 2 ^ 63 = 1
  vf : d[0].toNat / 2 ^ 56 % 128 ≤ 95
  low : d[0].toNat / 2 ^ 48 % 4 = 0
  mid : d[0].toNat / 2 ^ 32 % 256 = 0
  positive : 1 ≤ d[0].toNat / 2 ^ 40 % 256
  share : d[0].toNat / 2 ^ 40 % 256 ≤ 100
  roots : ∀ i ∈ [2, 3, 4, 5, 6, 7, 8, 9], (d.toList.getD i 0).toNat % 2 ^ 15 = 0
  queue : d[10].toNat % 64 = 0
  small : d[11].toNat / 2 ^ 16 = 0
  large : 16 ≤ d[11].toNat
  maps : ∀ i ∈ [12, 13, 14, 15], (d.toList.getD i 0).toNat % 4096 = 0
  key : d[0].setWidth 32 ≠ Config.supervisorKey s.hub.images

variable (sound : s.VfSound d)
include sound

theorem vfSet_runs : exec .vfSet s = .next (if ((s.begun w).vfBusy (d[0].toNat / 2 ^ 56 % 128) || (s.begun w).vfMoves (d[0].toNat / 2 ^ 56 % 128)) = true
    then (s.begun w).completeCmd stQUOTA
    else ((s.begun w).modHub fun h => { h with vfs := h.vfs.set (d[0].toNat / 2 ^ 56 % 128) (match s.hub.vfs.find (d[0].toNat / 2 ^ 56 % 128) with
      | some u => ⟨d, 0, 0, false, u.graph, u.endpoint⟩
      | none => ⟨d, 0, 0, false, Table.empty, 0⟩) }).completeCmd stOK) := by
  obtain ⟨valid, vf, low, mid, positive, share, roots, queue, small, large, maps, key⟩ := sound
  refine congrArg Host.Outcome.next ((runCmd_effect c (by decide)).trans ?_)
  unfold State.vfDesc at desc
  dsimp only
  rw [desc, if_neg]
  · simp only [State.begun_vfs, State.modHub]
    split_ifs <;> rfl
  · simp only [State.begun_images, Bool.not_eq_true, Bool.or_eq_false_iff, decide_eq_false_iff_not, Bool.not_eq_eq_eq_not, Bool.not_false, List.all_eq_true,
      decide_eq_true_eq]
    exact ⟨⟨⟨⟨⟨⟨⟨⟨⟨⟨⟨by omega, by omega⟩, not_not.2 low⟩, not_not.2 mid⟩, by omega⟩, by omega⟩, key⟩, roots⟩, not_not.2 queue⟩, not_not.2 small⟩, by omega⟩, maps⟩

theorem vfSet_busy (busy : ((s.begun w).vfBusy (d[0].toNat / 2 ^ 56 % 128) || (s.begun w).vfMoves (d[0].toNat / 2 ^ 56 % 128)) = true) :
    exec .vfSet s = .next ((s.begun w).completeCmd stQUOTA) := (vfSet_runs c desc sound).trans (congrArg _ (if_pos busy))

theorem vfSet_installs (free : ((s.begun w).vfBusy (d[0].toNat / 2 ^ 56 % 128) || (s.begun w).vfMoves (d[0].toNat / 2 ^ 56 % 128)) = false) :
    exec .vfSet s = .next (((s.begun w).modHub fun h => { h with vfs := h.vfs.set (d[0].toNat / 2 ^ 56 % 128) (match s.hub.vfs.find (d[0].toNat / 2 ^ 56 % 128) with
      | some u => ⟨d, 0, 0, false, u.graph, u.endpoint⟩
      | none => ⟨d, 0, 0, false, Table.empty, 0⟩) }).completeCmd stOK) := (vfSet_runs c desc sound).trans (congrArg _ (if_neg (Bool.eq_false_iff.1 free)))

end

/-! ### INVAL -/

/-- The mark that INVAL takes of a context: the local entries that it has translated so far (R158, R294). -/
def Ctx.translated (x : Ctx) : Nat := x.lsqDone + x.lsq.length + x.basketEntries

section
variable {vf a n mask c : Nat} {x : Ctx}

/-- No pin of the function in the range is live on a die of the mask (R158). -/
theorem State.unpin_ctx (listed : (c, x) ∈ s.ctxs.l) (mine : x.vf = vf) (masked : mask / 2 ^ dieOf (coreOf c) % 2 = 1) :
    ∃ y, (c, y) ∈ (s.unpin vf a n mask).ctxs.l ∧ ∀ q ∈ y.pins, q.live = true → ¬(a < q.ipa * 64 + 64 ∧ q.ipa * 64 < a + n) := by
  refine ⟨_, List.mem_map.2 ⟨(c, x), listed, if_pos ⟨mine, masked⟩⟩, fun q pinned live => ?_⟩
  obtain ⟨r, -, rfl⟩ := List.mem_map.1 pinned
  split at live
  · cases live
  · next outside => rwa [if_neg outside]

end

/-- INVAL begins: the pins go, and each context of the function is marked (R158). -/
theorem inval_begins (c : s.Commands 3 w) : exec .inval s = .next (((s.begun w).unpin (cmdVf w) (arg w 1) (arg w 2) (arg w 3 % 16)).modHub fun h =>
    { h with waiting := some ((s.ctxs.l.filter fun (p : Nat × Ctx) => decide (p.2.vf = cmdVf w)).map fun p => (p.1, p.2.translated)) }) := by
  rw [execInval_eq, execInval, State.waitingCmd_none (.inr c.free)]
  show Host.Outcome.next (runCmd 3 _ s) = _
  exact congrArg Host.Outcome.next ((runCmd_waits c (by decide) rfl).trans rfl)

section
variable {marks : List (Nat × Nat)} (head : s.cmdHead = some w) (waits : s.hub.waiting = some marks) (opc : cmdOp w = 3)
include head waits opc

theorem inval_waiting : exec .inval s = .next (if ((marks.all fun (m : Nat × Nat) => (s.ctx m.1).flushed m.2) &&
      (s.saved.l.all fun (v : Nat × Saved) => decide (v.2.ctx.vf ≠ cmdVf w) || decide (v.2.ctx.basketEntries = 0)) &&
      (List.range 4).all (fun d => (s.die d).flags.all fun (i : Incr) => i.va.isSome || decide (i.vf ≠ cmdVf w))) = true
    then s.completeCmd stOK else s) := by
  rw [execInval_eq, execInval, State.waitingCmd_some head waits opc, waits]

theorem inval_completes (flushed : ∀ m ∈ marks, m.2 ≤ (s.ctx m.1).lsqDone ∨ ((s.ctx m.1).lsq = [] ∧ (s.ctx m.1).basketEntries = 0))
    (saved : ∀ v ∈ s.saved.l, v.2.ctx.vf = cmdVf w → v.2.ctx.basketEntries = 0) (flags : ∀ d, d < 4 → (s.die d).flags = []) :
    exec .inval s = .next (s.completeCmd stOK) := by
  rw [inval_waiting head waits opc, if_pos]
  simp only [Bool.and_eq_true, List.all_eq_true, Bool.or_eq_true, decide_eq_true_eq, Ctx.flushed, List.isEmpty_iff, List.mem_range]
  refine ⟨⟨flushed, fun v hv => ?_⟩, fun d hd i listed => ?_⟩
  · exact (em (v.2.ctx.vf = cmdVf w)).symm.imp id (saved v hv)
  · rw [flags d hd] at listed
    cases listed

theorem inval_waits (pending : ∃ m ∈ marks, (s.ctx m.1).lsqDone < m.2 ∧ ((s.ctx m.1).lsq ≠ [] ∨ (s.ctx m.1).basketEntries ≠ 0)) :
    exec .inval s = .next s := by
  obtain ⟨m, marked, behind, entries⟩ := pending
  rw [inval_waiting head waits opc, if_neg]
  simp only [Bool.and_eq_true, List.all_eq_true]
  rintro ⟨⟨flushed, -⟩, -⟩
  have done := flushed m marked
  simp only [Ctx.flushed, Bool.or_eq_true, Bool.and_eq_true, decide_eq_true_eq, List.isEmpty_iff] at done
  rcases done with reached | ⟨empty, none⟩
  · omega
  · exact entries.elim (· empty) (· none)

end

end Sys2Proof.Machine
end

section
/-! SUPPORT. GROUP_SET, GROUP_DEL, SCHED_SET, QUEUE_SET, SWITCH, PART_RESET and READMIT (R281, R282, R303, R331, R337, R347, R352). -/

namespace Sys2Proof.Machine

variable {s : State} {w : Vector W64 8}

/-! ### GROUP_SET and GROUP_DEL -/

theorem State.absentAll_hub (s : State) (g : Group) : (s.absentAll g).hub = s.hub :=
  (foldl_keeps State.hub (fun t c => t.tell_hub c _) _ _).trans
    (foldl_keeps State.hub (fun t (i : Inst) => foldl_keeps State.hub (fun t c => t.tell_hub c _) i.got t) g.insts s)

/-- The key of the group that the descriptor at an address installs (R281). -/
def State.groupKeyAt (s : State) (a : Nat) : Nat := groupKey ((s.hs a 0).toNat / 2 ^ 26 % 128) ((s.hs a 0).toNat / 2 ^ 48)

section
variable (c : s.Commands 4 w)
include c

theorem groupSet_refused (bad : (s.begun w).groupBad (arg w 1) = true) : exec .groupSet s = .next ((s.begun w).completeCmd stFAULT) :=
  congrArg Host.Outcome.next (runCmd_completes c (by decide) (if_pos (by rw [bad, Bool.true_or])))

/-- A group installed anew: each member is LIVE and starts at 0, and a group that was installed keeps GEN (R281, R282). -/
theorem groupSet_installs (sound : (s.begun w).groupBad (arg w 1) = false) (room : s.hub.groups.l.length < 256) :
    ∃ t g, exec .groupSet s = .next t ∧ t.hub.groups.find ((s.begun w).groupKeyAt (arg w 1)) = some g ∧
      g.members.length = ((s.begun w).hs (arg w 1) 0).toNat / 2 ^ 38 % 2 ^ 10 + 1 ∧ (∀ q ∈ g.members, q.live = true ∧ q.next = 0) ∧ g.insts = [] ∧ g.past = [] ∧
      g.cut = (s.begun w).cutFrom g ∧ g.gen = (match s.hub.groups.find ((s.begun w).groupKeyAt (arg w 1)) with
        | some h => h.gen
        | none => 0) ∧ t.hub.cmdCi = s.hub.cmdCi + 1 := by
  refine ⟨_, _, congrArg Host.Outcome.next (runCmd_completes c (by decide) (if_neg ?_)), (Table.find_set ..).trans (if_pos rfl), ?_, fun q listed => ?_,
    rfl, rfl, rfl, ?_, ?_⟩
  · rw [sound, Bool.false_or, Bool.and_eq_true, decide_eq_true_eq, State.begun_groups]
    omega
  · simp only [State.groupMembers, List.length_map, List.length_range]
  · obtain ⟨e, -, rfl⟩ := List.mem_map.1 listed
    exact ⟨rfl, rfl⟩
  · simp only [State.begun_groups]
    rfl
  · refine congrArg (· + 1) (Eq.trans ?_ (s.begun_cmdCi w))
    show (List.foldl _ _ _ : State).hub.cmdCi = _
    rw [foldl_keeps State.hub, State.wr_hub]
    · split
      · rw [State.absentAll_hub]
      · rfl
    · exact fun _ _ => rfl

end

section
variable (c : s.Commands 5 w)
include c

theorem groupDel_refused (absent : s.hub.groups.find (groupKey (cmdVf w) (arg w 1 % 2 ^ 16)) = none) :
    exec .groupDel s = .next ((s.begun w).completeCmd stFAULT) := by
  refine congrArg Host.Outcome.next (runCmd_completes c (by decide) ?_)
  simp only [State.begun_groups, absent]
  rfl

theorem groupDel_removes {g : Group} (found : s.hub.groups.find (groupKey (cmdVf w) (arg w 1 % 2 ^ 16)) = some g) : exec .groupDel s =
    .next ((((s.begun w).absentAll g).modHub fun h => { h with groups := h.groups.del (groupKey (cmdVf w) (arg w 1 % 2 ^ 16)) }).completeCmd stOK) := by
  refine congrArg Host.Outcome.next (runCmd_completes c (by decide) ?_)
  simp only [State.begun_groups, found]

end

/-! ### SCHED_SET -/

/-- A buffer that leaves the memory of the participant's die breaks a rule (R303). -/
theorem State.schedBad_buffer {k a : Nat} (core : k ≠ 512) (away : (s.hs a 1).toNat / 2 ^ 42 ≠ s.owner k) : s.schedBad k a = true := by
  have bad : s.bufBad k (s.hs a 1).toNat 0 0 = true := by
    simp only [State.bufBad, core, away, ne_eq, not_false_eq_true, decide_true, Bool.true_or, Bool.and_self]
  simp only [State.schedBad, bad, Bool.or_true, Bool.true_or]

/-- The partition of a participant: that of its core, or that of the function for the hub reducer (R303). -/
def State.Participant (s : State) (vf k p : Nat) : Prop := (k < 256 ∧ s.corePart k = some p) ∨ (k = 512 ∧ s.partOf vf = some p)

section
variable (c : s.Commands 6 w)
include c

theorem schedSet_refused (bad : (s.begun w).schedBad (arg w 3) (arg w 1) = true) : exec .schedSet s = .next ((s.begun w).completeCmd stFAULT) :=
  congrArg Host.Outcome.next (runCmd_completes c (by decide) (if_pos (by rw [bad, Bool.true_or])))

theorem schedSet_installs {p : Nat} (part : (s.begun w).Participant (cmdVf w) (arg w 3) p) (sound : (s.begun w).schedBad (arg w 3) (arg w 1) = false) :
    exec .schedSet s =
      .next (((s.begun w).modHub fun h => { h with scheds := h.scheds.set (schedKey p (arg w 3) (arg w 2 % 256)) (arg w 1) }).completeCmd stOK) := by
  have known : (if arg w 3 = 512 then (s.begun w).partOf (cmdVf w) else (s.begun w).corePart (arg w 3)) = some p := by
    rcases part with ⟨core, part⟩ | ⟨hub, part⟩
    · rw [if_neg (by omega), part]
    · rw [if_pos hub, part]
  have number : ¬((decide (256 ≤ arg w 3) && decide (arg w 3 ≠ 512)) = true) := by
    rw [Bool.and_eq_true, decide_eq_true_eq, decide_eq_true_eq]
    rcases part with ⟨core, -⟩ | ⟨hub, -⟩ <;> omega
  refine congrArg Host.Outcome.next (runCmd_completes c (by decide) ((if_neg ?_).trans ?_))
  · rwa [sound, Bool.false_or]
  · simp only [known]

end

/-! ### QUEUE_SET -/

section
variable (a b c d : W64)

theorem extractLsb'_key_low : (((a ++ b : BitVec 128) ++ (c ++ d : BitVec 128) : BitVec 256)).extractLsb' 0 64 = d := by
  rw [BitVec.extractLsb'_append_eq_of_add_le (by decide), BitVec.extractLsb'_append_eq_of_add_le (by decide), BitVec.extractLsb'_eq_self]

theorem extractLsb'_key_high : (((a ++ b : BitVec 128) ++ (c ++ d : BitVec 128) : BitVec 256)).extractLsb' 192 64 = a := by
  rw [BitVec.extractLsb'_append_eq_of_le (by decide), BitVec.extractLsb'_append_eq_of_le (by decide), BitVec.extractLsb'_eq_self]

end

section
variable (c : s.Commands 7 w)
include c

theorem queueSet_refused (bad : ((s.begun w).hs (arg w 1) 0).toNat % 2 ^ 44 ≠ 0 ∨ 95 < ((s.begun w).hs (arg w 1) 0).toNat / 2 ^ 56 % 128) :
    exec .queueSet s = .next ((s.begun w).completeCmd stFAULT) :=
  congrArg Host.Outcome.next (runCmd_completes c (by decide) (if_pos bad))

variable (low : ((s.begun w).hs (arg w 1) 0).toNat % 2 ^ 44 = 0) (vf : ((s.begun w).hs (arg w 1) 0).toNat / 2 ^ 56 % 128 ≤ 95)
include low vf

theorem queueSet_removes (invalid : ((s.begun w).hs (arg w 1) 0).toNat / 2 ^ 63 = 0) : exec .queueSet s =
    .next (((s.begun w).modHub fun h => { h with queues := h.queues.del (((s.begun w).hs (arg w 1) 0).toNat / 2 ^ 44 % 4096) }).completeCmd stOK) :=
  congrArg Host.Outcome.next (runCmd_completes c (by decide) ((if_neg (not_or.2 ⟨not_not.2 low, Nat.not_lt.2 vf⟩)).trans (if_pos invalid)))

theorem queueSet_installs (valid : ((s.begun w).hs (arg w 1) 0).toNat / 2 ^ 63 ≠ 0) : ∃ t e, exec .queueSet s = .next t ∧
    t.hub.queues.find (((s.begun w).hs (arg w 1) 0).toNat / 2 ^ 44 % 4096) = some e ∧ e.vf = ((s.begun w).hs (arg w 1) 0).toNat / 2 ^ 56 % 128 ∧
    e.ring = (s.begun w).hs (arg w 1) 1 ∧ e.lastSeq = (s.begun w).hs (arg w 1) 2 ∧ e.badTag = 0 ∧ e.replay = 0 ∧ e.pi = 0 ∧
    t.hub.badTags.find (((s.begun w).hs (arg w 1) 0).toNat / 2 ^ 44 % 4096) = none ∧ e.key.extractLsb' 0 64 = (s.begun w).hs (arg w 1) 4 ∧
    e.key.extractLsb' 192 64 = (s.begun w).hs (arg w 1) 7 := by
  refine ⟨_, _, congrArg Host.Outcome.next (runCmd_completes c (by decide) ((if_neg (not_or.2 ⟨not_not.2 low, Nat.not_lt.2 vf⟩)).trans (if_neg valid))),
    (Table.find_set ..).trans (if_pos rfl), rfl, rfl, rfl, rfl, rfl, rfl, (Table.find_del ..).trans (if_pos rfl), 
    extractLsb'_key_low .., extractLsb'_key_high ..⟩

end

/-! ### SWITCH, PART_RESET, READMIT -/

section
variable (c : s.Commands 8 w)
include c

theorem switch_begins {q : Part} (found : s.hub.parts.find (arg w 1 % 64) = some q) (mine : s.partOf (cmdVf w) = some (arg w 1 % 64)) :
    exec .switch s = .next ((s.begun w).modHub fun h =>
      { h with parts := h.parts.set (arg w 1 % 64) { q with incoming := some (cmdVf w), cmdWaits := true }, waiting := some [] }) := by
  have start : (s.begun w).hub.parts.find (arg w 1 % 64) = some q := by rw [State.begun_parts, found]
  refine congrArg Host.Outcome.next ((runCmd_waits (t := (s.begun w).setPart (arg w 1 % 64) { q with incoming := some (cmdVf w), cmdWaits := true }) c (by decide) ?_).trans ?_)
  · simp only [start, State.begun_partOf, mine, if_true, State.modPart_found start]
  · have free : (s.begun w).hub.waiting = none := (s.begun_waiting w).trans c.free
    simp only [State.setPart, State.modHub, free]
    rfl

theorem switch_refused (bad : s.hub.parts.find (arg w 1 % 64) = none ∨ s.partOf (cmdVf w) ≠ some (arg w 1 % 64)) :
    exec .switch s = .next ((s.begun w).completeCmd stFAULT) := by
  refine congrArg Host.Outcome.next (runCmd_completes c (by decide) ?_)
  simp only [State.begun_parts, State.begun_partOf]
  rcases bad with absent | other
  · rw [absent]
    rfl
  · split
    · next q _ eq => exact if_neg fun same => other (eq.trans (congrArg some same))
    · rfl

end

section
variable {q : Part}

theorem partReset_resets (c : s.Commands 9 w) (found : s.hub.parts.find (arg w 1 % 64) = some q) :
    exec .partReset s = .next (((s.begun w).resetPartition (arg w 1 % 64)).completeCmd stOK) := by
  refine congrArg Host.Outcome.next (runCmd_completes c (by decide) ?_)
  simp only [State.begun_parts, found]

theorem partReset_refused (c : s.Commands 9 w) (absent : s.hub.parts.find (arg w 1 % 64) = none) :
    exec .partReset s = .next ((s.begun w).completeCmd stFAULT) := by
  refine congrArg Host.Outcome.next (runCmd_completes c (by decide) ?_)
  simp only [State.begun_parts, absent]
  rfl

theorem readmit_readmits (c : s.Commands 10 w) (found : s.hub.parts.find (arg w 1 % 64) = some q) : exec .readmit s =
    .next (((s.begun w).modHub fun h => { h with parts := h.parts.set (arg w 1 % 64) { q with reset := false } }).completeCmd stOK) := by
  refine congrArg Host.Outcome.next (runCmd_completes c (by decide) ?_)
  simp only [State.begun_parts, State.modPart, found]

theorem readmit_refused (c : s.Commands 10 w) (absent : s.hub.parts.find (arg w 1 % 64) = none) :
    exec .readmit s = .next ((s.begun w).completeCmd stFAULT) := by
  refine congrArg Host.Outcome.next (runCmd_completes c (by decide) ?_)
  simp only [State.begun_parts, absent]
  rfl

end

end Sys2Proof.Machine
end

section
/-! SUPPORT. CORE_RETIRE and the migration commands (R357 to R362). -/

namespace Sys2Proof.Machine

variable {s : State} {w : Vector W64 8}

/-! ### CORE_RETIRE -/

section
variable (c : s.Commands 11 w)
include c

theorem coreRetire_refused (bad : 256 ≤ arg w 1 ∨ (s.core (arg w 1)).exposed = false) : exec .coreRetire s = .next ((s.begun w).completeCmd stFAULT) :=
  congrArg Host.Outcome.next (runCmd_completes c (by decide) (if_pos (by simpa using bad)))

theorem coreRetire_begins (die : arg w 1 < 256) (exposed : (s.core (arg w 1)).exposed = true) : exec .coreRetire s =
    .next (((s.begun w).modCore (arg w 1) fun q => { q with retiring := true }).modHub fun h => { h with waiting := some [] }) := by
  have free : (s.begun w).hub.waiting = none := (s.begun_waiting w).trans c.free
  refine congrArg Host.Outcome.next ((runCmd_waits c (by decide) (if_neg ?_)).trans ?_)
  · simpa [exposed] using die
  · simp only [State.modHub, State.modCore_hub, free]
    rfl

end

section
variable {m : List (Nat × Nat)} (head : s.cmdHead = some w) (waits : s.hub.waiting = some m) (opc : cmdOp w = 11)
include head waits opc

theorem coreRetireMapping_runs : exec .coreRetireMapping s =
    .next (if s.coreEmpty (arg w 1) = true then (s.retireMap (arg w 1)).completeCmd stOK else s) := by
  show execCoreRetireMapping s = _
  rw [execCoreRetireMapping, State.waitingCmd_some head waits opc]

theorem coreRetireMapping_waits (busy : s.coreEmpty (arg w 1) = false) : exec .coreRetireMapping s = .next s :=
  (coreRetireMapping_runs head waits opc).trans (congrArg _ (if_neg (Bool.eq_false_iff.1 busy)))

theorem coreRetireMapping_maps (empty : s.coreEmpty (arg w 1) = true) :
    exec .coreRetireMapping s = .next ((s.retireMap (arg w 1)).completeCmd stOK) :=
  (coreRetireMapping_runs head waits opc).trans (congrArg _ (if_pos empty))

end

section
variable {k : Nat}

/-- A spare takes the exposed number (R360). -/
theorem State.retireMap_spare {sp : Nat} {r : List Nat} (spares : (s.die (dieOf k)).spares = sp :: r) : let t := s.retireMap k
    (t.core k).phys = sp ∧ (t.core k).retiring = false ∧ (t.core k).exposed = (s.core k).exposed ∧ (t.die (dieOf k)).spares = r ∧ t.mem = s.mem := by
  have mapped : s.retireMap k = (s.modDie (dieOf k) fun x => { x with spares := r }).modCore k fun q => { q with phys := sp, retiring := false } := by
    simp only [State.retireMap, spares]
  intro t
  rw [show t = _ from mapped, State.core_modCore, if_pos rfl, State.die_modCore, State.die_modDie, if_pos rfl]
  exact ⟨rfl, rfl, rfl, rfl, rfl⟩

/-- With no spare the number is cleared, and the die asks to be replaced (R13, R361). -/
theorem State.retireMap_cleared (none : (s.die (dieOf k)).spares = []) : let t := s.retireMap k
    (t.core k).exposed = false ∧ (t.core k).retiring = false ∧ (t.die (dieOf k)).replace = true := by
  have mapped : ∃ u f, s.retireMap k = ((State.modDie u (dieOf k) fun x => { x with replace := true }).modCore k fun q =>
      { q with exposed := false, retiring := false }).modHub f := by
    simp only [State.retireMap, none]
    exact ⟨_, _, rfl⟩
  obtain ⟨u, f, mapped⟩ := mapped
  intro t
  have core : t.core k = { u.core k with exposed := false, retiring := false } := by
    rw [show t = _ from mapped, State.core_modHub, State.core_modCore, if_pos rfl, State.core_modDie]
  have die : t.die (dieOf k) = { u.die (dieOf k) with replace := true } := by
    rw [show t = _ from mapped, State.die_modHub, State.die_modCore, State.die_modDie, if_pos rfl]
  rw [core, die]
  exact ⟨rfl, rfl, rfl⟩

end

/-! ### MIGRATE_OUT -/

/-- Of the hub, a guest that leaves changes the journal, the guests, the harts and HS's decisions (R348, R358). -/
theorem State.forgetGuest_hub (s : State) (vf : Nat) : (s.forgetGuest vf).hub = { s.hub with
    journal := s.hub.journal ++ [.place vf .none], mirror := s.hub.mirror ++ [.place vf .none], guests := s.hub.guests.del vf,
    hs := { s.hub.hs with place := s.hub.hs.place.del vf },
    harts := s.hub.harts.map fun (x : Hart) => if x.guest = some vf then Hart.zero else x } := by
  rw [State.forgetGuest, State.journalWrite_decision _ fun _ h => by cases h]
  rfl

section
variable (c : s.Commands 12 w)
include c

theorem migrateOut_begun : exec .migrateOut s = .next (runCmd 12 (fun w s =>
    if !s.mayMigrate (cmdVf w) then (some stQUOTA, s)
    else (none, (s.modHub fun h => { h with
      sent := h.sent ++ [(32 + arg w 1, Config.imageOut (s.imageOf (cmdVf w)) s.fresh, [])],
      vfs := match h.vfs.find (cmdVf w) with
        | some v => h.vfs.set (cmdVf w) { v with migrating := true }
        | none => h.vfs }).bump)) s) := by
  rw [execMigrateOut_eq, execMigrateOut, State.waitingCmd_none (.inr c.free)] <;> rfl

theorem migrateOut_refused (busy : (s.begun w).mayMigrate (cmdVf w) = false) : exec .migrateOut s = .next ((s.begun w).completeCmd stQUOTA) :=
  (migrateOut_begun c).trans (congrArg Host.Outcome.next (runCmd_completes c (by decide) (if_pos (by rw [busy]; rfl))))

/-- The image leaves through the port, and the function is marked (R357, R358). -/
theorem migrateOut_sends {v : VfSt} (free : (s.begun w).mayMigrate (cmdVf w) = true) (found : s.hub.vfs.find (cmdVf w) = some v) :
    ∃ t, exec .migrateOut s = .next t ∧ t.hub.waiting = some [] ∧ t.hub.vfs.find (cmdVf w) = some { v with migrating := true } ∧ t.mem = s.mem ∧
      t.fresh = s.fresh + 1 ∧ t.hub.sent = s.hub.sent ++ [(32 + arg w 1, Config.imageOut ((s.begun w).imageOf (cmdVf w)) s.fresh, [])] := by
  refine ⟨_, (migrateOut_begun c).trans (congrArg Host.Outcome.next (runCmd_waits c (by decide) (if_neg (by rw [free]; decide)))), ?_, ?_, rfl, rfl, ?_⟩
  · show some ((s.begun w).hub.waiting.getD []) = some []
    rw [State.begun_waiting, c.free]
    rfl
  · simp only [State.modHub, State.bump, State.begun_vfs, found]
    exact (Table.find_set ..).trans (if_pos rfl)
  · exact congrArg (· ++ _) (s.begun_sent w)

end

section
variable {m : List (Nat × Nat)} (head : s.cmdHead = some w) (waits : s.hub.waiting = some m) (opc : cmdOp w = 12)
include head waits opc

/-- The target has the function: nothing of it stays here (R358). -/
theorem migrateOut_leaves (answers : Config.targetAnswers s.fresh = true) : ∃ t, exec .migrateOut s = .next t ∧ t.hub.vfs.find (cmdVf w) = none ∧
    t.hub.guests.find (cmdVf w) = none ∧ t.hub.hs.place.find (cmdVf w) = none ∧ t.hub.waiting = none ∧ t.hub.cmdCi = s.hub.cmdCi + 1 := by
  rw [execMigrateOut_eq, execMigrateOut, State.waitingCmd_some head waits opc]
  refine ⟨_, congrArg Host.Outcome.next (if_pos answers), ?_, ?_, ?_, ?_, ?_⟩
  all_goals simp only [State.bump_hub, State.completeCmd_hub, State.hub_modHub', State.forgetGuest_hub, Table.find_del, if_true]
  rw [foldl_keeps State.hub]
  exact fun _ _ => rfl

/-- The target has not taken the function: the source keeps it (R358). -/
theorem migrateOut_keeps {v : VfSt} (answers : Config.targetAnswers s.fresh = false) (found : s.hub.vfs.find (cmdVf w) = some v) :
    ∃ t, exec .migrateOut s = .next t ∧ t.hub.vfs.find (cmdVf w) = some { v with migrating := false } ∧ t.hub.waiting = none ∧
      t.hub.cmdCi = s.hub.cmdCi + 1 := by
  rw [execMigrateOut_eq, execMigrateOut, State.waitingCmd_some head waits opc]
  refine ⟨_, congrArg Host.Outcome.next (if_neg (Bool.eq_false_iff.1 answers)), ?_, rfl, rfl⟩
  simp only [State.bump_hub, State.completeCmd_hub, State.hub_modHub', found]
  exact (Table.find_set ..).trans (if_pos rfl)

end

/-! ### MIGRATE_IN -/

theorem imageWord0_fields {vf x : Nat} (hvf : vf ≤ 95) : let d : W64 := BitVec.ofNat 64 (2 ^ 63 + vf * 2 ^ 56 + x % 2 ^ 56)
    d.toNat / 2 ^ 63 = 1 ∧ d.toNat / 2 ^ 56 % 128 = vf := by
  intro d
  have : d.toNat = 2 ^ 63 + vf * 2 ^ 56 + x % 2 ^ 56 := by
    rw [BitVec.toNat_ofNat, Nat.mod_eq_of_lt]
    omega
  omega

section
variable (c : s.Commands 13 w)
include c

theorem migrateIn_refused (bad : imageVerifies ((s.begun w).received (arg w 1)) = false ∨ 95 < cmdVf w ∨
    (Config.imageWord ((s.begun w).received (arg w 1)) 0).setWidth 32 = Config.supervisorKey s.hub.images) :
    exec .migrateIn s = .next ((s.begun w).completeCmd stFAULT) := by
  refine congrArg Host.Outcome.next (runCmd_completes c (by decide) (if_pos ?_))
  simpa only [State.begun_images, Bool.or_eq_true, Bool.not_eq_true', decide_eq_true_eq, or_assoc] using bad

variable (verifies : imageVerifies ((s.begun w).received (arg w 1)) = true) (vf : cmdVf w ≤ 95)
  (key : (Config.imageWord ((s.begun w).received (arg w 1)) 0).setWidth 32 ≠ Config.supervisorKey s.hub.images)
include verifies vf key

omit c in
theorem migrateIn_sound : ¬((!(imageVerifies ((s.begun w).received (arg w 1))) || decide (95 < cmdVf w) ||
    decide ((Config.imageWord ((s.begun w).received (arg w 1)) 0).setWidth 32 = Config.supervisorKey (s.begun w).hub.images)) = true) := by
  simp only [State.begun_images, Bool.or_eq_true, Bool.not_eq_true', decide_eq_true_eq, verifies, reduceCtorEq, false_or]
  rintro (high | same)
  · exact absurd high (Nat.not_lt.2 vf)
  · exact key same

theorem migrateIn_busy (busy : ((s.begun w).vfBusy (cmdVf w) || (s.begun w).vfMoves (cmdVf w)) = true) :
    exec .migrateIn s = .next ((s.begun w).completeCmd stQUOTA) :=
  congrArg Host.Outcome.next (runCmd_completes c (by decide) ((if_neg (migrateIn_sound verifies vf key)).trans (if_pos busy)))

theorem migrateIn_installs (free : ((s.begun w).vfBusy (cmdVf w) || (s.begun w).vfMoves (cmdVf w)) = false) :
    ∃ t v, exec .migrateIn s = .next t ∧ t.hub.vfs.find (cmdVf w) = some v ∧ v.migrating = false ∧
      t.hub.guests.find (cmdVf w) = some (Guest.ofNats (Config.imageGuest ((s.begun w).received (arg w 1)))) ∧
      t.hub.pkg = (Config.imageWord ((s.begun w).received (arg w 1)) 16).toNat % 2 ^ 10 ∧ t.hub.home = s.hub.home ∧
      v.tqProd = 0 ∧ v.tqCons = 0 ∧ v.d[0].toNat / 2 ^ 63 = 1 ∧ v.d[0].toNat / 2 ^ 56 % 128 = cmdVf w ∧ t.hub.cmdCi = s.hub.cmdCi + 1 := by
  have word0 := imageWord0_fields (x := (Config.imageWord ((s.begun w).received (arg w 1)) 0).toNat) vf
  refine ⟨_, _, congrArg Host.Outcome.next (runCmd_completes c (by decide)
      ((if_neg (migrateIn_sound verifies vf key)).trans (if_neg (Bool.eq_false_iff.1 free)))), (Table.find_set ..).trans (if_pos rfl), rfl, ?_, ?_, ?_,
    rfl, rfl, ?_, ?_, ?_⟩
  case refine_4 => simpa only [Vector.getElem_ofFn, if_true] using word0.1
  case refine_5 => simpa only [Vector.getElem_ofFn, if_true] using word0.2
  all_goals simp only [State.completeCmd_hub, State.hub_modHub', State.forgetGuest_hub, State.storeBytes_hub, Table.find_set, if_true, State.begun_home,
    State.begun_cmdCi]

end

end Sys2Proof.Machine
end

section
open Sys2Proof Sys2Proof.Machine

/-- Settles O57: the ring runs a command by one rule (`runCmd_begins`), and each clause says what one command's effect answers. -/
theorem commandsRun : Obligations.CommandsRun := by
  refine ⟨?ring, ?journal, ?completes, ?partSet, ?described, ?vfSet, ?inval, ?invalWaits, ?groupSet, ?groupDel, ?schedSet, ?queueSet, ?switch, ?partReset,
    ?coreRetire, ?mapping, ?spare, ?cleared, ?migrateOut, ?migrateOutWaits, ?migrateIn⟩
  case ring =>
    intro i op listed s
    obtain ⟨f, runs⟩ := exec_command listed
    refine ⟨fun idle => (runs s (.inl idle)).trans (congrArg _ (runCmd_idle idle)), fun w head free => ?_⟩
    rw [runs s (.inr free)]
    exact ⟨fun down => congrArg _ (runCmd_held head free down), fun up reserved => congrArg _ (runCmd_reserved head free up reserved),
      fun differs low high => congrArg _ (runCmd_other head free differs low high)⟩
  case journal =>
    refine fun s w => ⟨s.journalUp_iff, rfl, s.begun_count w, fun more => ?_, fun last => ?_⟩
    · rw [s.begun_command w more]
      exact ⟨rfl, rfl, rfl⟩
    · rw [s.begun_checkpoint w last]
      exact ⟨rfl, rfl, rfl⟩
  case completes => exact fun s st => ⟨rfl, fun wf clean => ⟨State.completeCmd_status st wf clean, fun l other => State.completeCmd_other st wf other⟩⟩
  case partSet => exact fun s w c => ⟨partSet_refused c, partSet_installs c rfl, fun q sound found => partSet_replaces c rfl sound found⟩
  case described =>
    intro s d k listed
    obtain ⟨spk, base, closed⟩ := s.applyDesc_described listed
    exact ⟨closed, spk, base⟩
  case vfSet =>
    refine fun s w c => ⟨vfSet_refused c rfl, fun valid vf low mid positive share roots queue small large maps key => ?_⟩
    have sound : s.VfSound ((s.begun w).vfDesc (arg w 1)) := ⟨valid, vf, low, mid, positive, share, roots, queue, small, large, maps, key⟩
    exact ⟨vfSet_busy c rfl sound, vfSet_installs c rfl sound⟩
  case inval =>
    refine fun s w c => ⟨_, _, inval_begins c, rfl, s.begun_cmdCi w, rfl, fun k x listed mine => ?_, fun k x listed mine masked => ?_⟩
    · exact List.mem_map.2 ⟨(k, x), List.mem_filter.2 ⟨listed, decide_eq_true mine⟩, rfl⟩
    · exact State.unpin_ctx listed mine masked
  case invalWaits => exact fun s w marks head waits opc => ⟨inval_completes head waits opc, inval_waits head waits opc⟩
  case groupSet => exact fun s w c => ⟨groupSet_refused c, groupSet_installs c⟩
  case groupDel => exact fun s w c => ⟨groupDel_refused c, fun g found => groupDel_removes c found⟩
  case schedSet =>
    exact fun s w p c part => ⟨schedSet_refused c, fun core away => State.schedBad_buffer core (by rwa [State.begun_owner]), schedSet_installs c part⟩
  case queueSet =>
    exact fun s w c => ⟨queueSet_refused c, fun low vf => ⟨queueSet_removes c low vf, queueSet_installs c low vf⟩⟩
  case switch => exact fun s w c => ⟨fun q found mine => switch_begins c found mine, switch_refused c⟩
  case partReset =>
    exact fun s w => ⟨fun q found => ⟨fun c => partReset_resets c found, fun c => readmit_readmits c found⟩,
      fun absent => ⟨fun c => partReset_refused c absent, fun c => readmit_refused c absent⟩⟩
  case coreRetire => exact fun s w c => ⟨coreRetire_refused c, coreRetire_begins c⟩
  case mapping => exact fun s w m head waits opc => ⟨coreRetireMapping_waits head waits opc, coreRetireMapping_maps head waits opc⟩
  case spare => exact fun s k sp r spares => State.retireMap_spare spares
  case cleared => exact fun s k none => State.retireMap_cleared none
  case migrateOut => exact fun s w c => ⟨migrateOut_refused c, fun v free found => migrateOut_sends c free found⟩
  case migrateOutWaits =>
    exact fun s w m head waits opc => ⟨migrateOut_leaves head waits opc, fun v answers found => migrateOut_keeps head waits opc answers found⟩
  case migrateIn => exact fun s w c => ⟨migrateIn_refused c, migrateIn_busy c, migrateIn_installs c⟩
end
